-- ==== Sys2Proof/Word.lean ====
section
/-! DEFINITION. The machine words of the model: bytes, the bit patterns of binary32, and the bit
patterns of 32- and 64-bit fields (R7). -/
namespace Sys2Proof

/-- One byte. -/
abbrev Byte := BitVec 8

/-- A 32-bit field or register. -/
abbrev U32 := BitVec 32

/-- A 64-bit field, address or step word. -/
abbrev U64 := BitVec 64

/-- The bit pattern of a binary32 value (R47). -/
abbrev F32 := BitVec 32

end Sys2Proof
end

