-- ==== Sys2Proof/Syntax.lean ====
section
/-! DEFINITION. The commands the block takes (one constructor for each row of the table) and the data
they carry. Data that the block reads from outside itself (host memory, links, sensors) comes with
the command; everything else a command needs is in the state. -/
namespace Sys2Proof

/-- A submission entry (R322) as the fetcher reads it, with what the host's memory answers to the
CXL.io reads the command makes (R323). -/
structure Packet where
  /-- The pair whose ring holds the entry. -/
  qp : BitVec 6
  opcode : BitVec 16
  flags : BitVec 16
  tag : U32
  part : Byte
  ctx : Byte
  cfgver : U32
  /-- The whole PLEN word: length in bits [19:0], bits [31:20] zero. -/
  plen : U32
  paddr : U64
  /-- The 96 inline parameter bytes, entry bytes 0x20 to 0x7F. -/
  inl : List Byte
  /-- What a CXL.io read of the parameter buffer returns; none for an error or poison. -/
  hostParams : Option (List Byte)
  /-- What a CXL.io read of the command's SRC, IMAGE or BUF buffer returns; none for an error or poison. -/
  hostData : Option (List Byte)
  /-- Whether the host's memory takes the command's writes. -/
  hostWriteOk : Bool
deriving DecidableEq, Repr

/-- A contribution of another member to a collective (R141): its SRC, in logical order. -/
structure Contribution where
  rank : Nat
  /-- MAXEXP of the contributor's SRC; the anchor for AA128. -/
  maxexp : Int
  /-- SEQMAX entries of a BATCHED SRC; empty otherwise. -/
  seqmax : List Int
  /-- Data plane bytes in storage order. -/
  data : List Byte
  /-- Scale bytes of a block format in block order. -/
  scales : List Byte
  /-- ALL_TO_ALL: the rows it sends to this rank. -/
  rows : Nat
  /-- REDUCE_SCATTER and ALL_TO_ALL: the maxima of its own part of the result, by sequence (R50, R296). -/
  outMax : List Int
deriving DecidableEq, Repr

/-- The other members' answers in the agreement of a KV_SCATTER on a spanning cache (R234). -/
structure PeerAnswer where
  /-- Every other member answered. -/
  all : Bool
  /-- Some member lacks pages. -/
  lacks : Bool
  /-- Combined maxima of the others for each touched sequence: sequence, KMAX, VMAX. -/
  maxima : List (Nat × Int × Int)
deriving DecidableEq, Repr

/-- What another device of a spanning cache sends for one query row (R211, R122): POSITION layout.
Row index in [B, T, HQ] order, the maximum of its own scores, and, formed after the final maximum,
its integers of L and of the A_d at their common anchors (none: the NaN tag). -/
structure AttnPartial where
  row : Nat
  max : F32
  l : Option Int
  a : List (Option Int)
deriving DecidableEq, Repr

/-- A Fezon packet (R281) with the VC it travels on. -/
structure FabPacket where
  dst : BitVec 16
  src : BitVec 16
  parts : Byte
  ptype : Byte
  hops : Byte
  pflags : Byte
  group : U32
  epoch : U32
  pseq : U64
  bodylen : BitVec 16
  bcrc : U32
  vc : BitVec 2
  body : List Byte
deriving DecidableEq, Repr

/-- Where a canopy packet goes: one grove, a placement entry of R153, or the floor end of a shaft. -/
inductive NetDest where
  | grove (g : BitVec 12)
  | multicast (tracts groves : U64)
  | shaft (s : BitVec 5)
deriving DecidableEq, Repr

/-- The kinds of traffic of R252, which name a packet's type. -/
inductive NetKind where
  | cxl | token | mailbox | fabricControl | recovery
  | maxima | partials | health | collective
  | operand | multicast | skidCopy | gatherData
  | pageMigration | rehomeCopy
deriving DecidableEq, Repr

/-- The virtual channel that carries a kind (R252): 0 control, 1 reduction, 2 bulk, 3 cache migration. -/
def NetKind.vc : NetKind → Nat
  | .cxl => 0 | .token => 0 | .mailbox => 0 | .fabricControl => 0 | .recovery => 0
  | .maxima => 1 | .partials => 1 | .health => 1 | .collective => 1
  | .operand => 2 | .multicast => 2 | .skidCopy => 2 | .gatherData => 2
  | .pageMigration => 3 | .rehomeCopy => 3

/-- A canopy-network packet: what its header flit carries, and its flits, the header among them (R251). -/
structure NetPacket where
  src : BitVec 12
  dest : NetDest
  kind : NetKind
  stamp : BitVec 4
  flits : Nat
  /-- Y-then-X order instead of X-then-Y (R262). -/
  yFirst : Bool
  /-- The relay router still ahead on the route (R262). -/
  via : Option (BitVec 12)
deriving DecidableEq, Repr

/-- A packet and the port of the router at which it comes in: 0 to 3 from a neighbour, 4 from the grove, 5 from a shaft (R250). -/
structure PortPacket where
  port : BitVec 3
  packet : NetPacket
deriving DecidableEq, Repr

/-- Corrections confined to one wire of a mesh link (R251). -/
structure WireErrors where
  wire : Nat
  corrections : Nat
deriving DecidableEq, Repr

/-- Stages of a mesh link (R262). -/
inductive MeshStage where
  | repaired | halfWidth | down | relayed
deriving DecidableEq, Repr

/-- A peer met by link training (R276): what HELLO told, and the lanes that failed. -/
structure LinkPeer where
  present : Bool
  id : BitVec 15
  link : Byte
  badLanes : BitVec 8
deriving DecidableEq, Repr

/-- A lane marked failing (R33): where, the layer at or below which, and whether no read path is left (R41). -/
structure LaneFault where
  core : BitVec 20
  lane : BitVec 5
  segment : BitVec 5
  wholeChannel : Bool
deriving DecidableEq, Repr

/-- What the tests of a start find (R418, R419, R421). -/
structure BringUp where
  /-- The I3C address straps (R434). -/
  straps : BitVec 2
  /-- DRAM layers or dies that fail bring-up, by physical number 0 to 23. -/
  badLayers : List (BitVec 5)
  /-- Lanes that fail their test and are in no repair yet. -/
  badLanes : List LaneFault
  /-- What each link's training met, by link number. -/
  links : List LinkPeer
  /-- Regulators that do not work, by die and index (R408: a cause that remains). -/
  regulators : List (BitVec 5 × BitVec 10)
  /-- A channel controller in the floor has its fatal fault. -/
  controllerFault : Bool
deriving DecidableEq, Repr

/-- Symbols of lines that a read finds changed: (device line number, symbol position, XOR); positions 72 to 75 are the address word's
(R185, R186). -/
structure ReadErrors where
  symbols : List (Nat × Nat × Byte)
  /-- Data lines of a stripe, by device line number, or parity lines, that are uncorrectable when read for reconstruction. -/
  badStripe : List Nat
  /-- The symbols changed in the answer to a command reissued after a misdirected access (R186). -/
  again : List (Nat × Nat × Byte)
deriving DecidableEq, Repr

/-- Every read comes back as it was written. -/
def ReadErrors.none : ReadErrors := ⟨[], [], []⟩

/-- An operator of the running step, by its index in the plan (R109), and what its reads of lines find (R186). -/
structure OpUse where
  op : BitVec 15
  errors : ReadErrors
deriving DecidableEq, Repr

/-- A partition whose background work goes on by one read, and what the read finds (R186). -/
structure PartUse where
  part : BitVec 4
  errors : ReadErrors
deriving DecidableEq, Repr

/-- One line scrubbed (R192): layer and channel, the line, the symbols found changed, whether the
stripe's parity disagreed, whether reconstruction succeeds (R196). -/
structure ScrubRead where
  layer : BitVec 5
  core : BitVec 20
  line : BitVec 11
  symbols : List (Nat × Byte)
  /-- The symbols changed in the answer to the command reissued after a misdirected access (R186). -/
  again : List (Nat × Byte)
  parityDiffers : Bool
  reconstructs : Bool
  /-- The clearing scrubber's CRC of the sealed granule differs (R216). -/
  sealDiffers : Bool
deriving DecidableEq, Repr

/-- The repair read of a granule (R216): lines corrected, and whether a line is uncorrectable. -/
structure RepairRead where
  corrected : Nat
  uncorrectable : Bool
deriving DecidableEq, Repr

/-- What waits at a boundary of a clearing channel (R209). -/
structure BoundaryWork where
  cxl : Nat
  other : Nat
  /-- The unit has tasks or a test left to run. -/
  unitWork : Bool
  /-- Near-bank cycles the slice used, at most 131. -/
  cycles : Nat
  /-- Of the other accesses that wait, those served within 249.5 ns. -/
  served : Nat
  /-- A parity error in the score buffer, the accumulator store or the query buffer; or in the seal table (R226). -/
  bufferFault : Bool
  sealFault : Bool
deriving DecidableEq, Repr

/-- One query row of a near-bank task (R210): elements as stored, block scales, position, score anchor. -/
structure TaskRow where
  q : List Byte
  qscales : List Byte
  pos : Nat
  anchor : Int
deriving DecidableEq, Repr

/-- A near-bank task (R210). -/
structure Task where
  part : BitVec 4
  cache : U32
  seq : Nat
  layer : Nat
  head : Nat
  rows : List TaskRow
  /-- L2SCALE of the query tensor, which the scores take in (R54). -/
  ql2 : F32
  scale : F32
  causal : Bool
  window : Nat
  /-- First position and number of positions of the chunk. -/
  first : Nat
  count : Nat
  /-- Widening of L and of A_d. -/
  wL : Nat
  wA : Nat
  /-- The numerator anchor of R122 step 6. -/
  anchorA : Int
deriving DecidableEq, Repr

/-- A task as a unit takes it, and what its reads of lines find (R205). -/
structure TaskUse where
  task : Task
  errors : ReadErrors
deriving DecidableEq, Repr

/-- Final maxima of a task's rows, and what the unit's reads of lines find in pass 2 (R211, R205). -/
structure MaximaUse where
  maxima : List F32
  errors : ReadErrors
deriving DecidableEq, Repr

/-- A sensor reading in units of 0.0625 K (R363). -/
structure Reading where
  die : BitVec 5
  sensor : Nat
  value : Int
deriving DecidableEq, Repr

/-- What one 4 us power period counted and measured (R345, R348). -/
structure PowerSample where
  /-- For each tract, the counts of R345 in the order of its table. -/
  counts : List (List Nat)
  millivolts : Nat
  milliamps : Nat
deriving DecidableEq, Repr

/-- What passes out of its 24-hour window (R403): a bucket overflow of a layer, or an unexplained fault. -/
inductive WindowKind where
  | overflow (layer : BitVec 5)
  | unexplained
deriving DecidableEq, Repr

/-- The commands and events of the block: one constructor for each row of the table. -/
inductive Instr where
  /-- COLD_START (R418). VIN reaching 1.75 V starts the cold start sequence, which runs floor, Stanar, rangers, die power-up and link training up to READY. -/
  | coldStart (b : BringUp)
  /-- CONFIGURATION_READINESS (R420). Once the link has trained and STAGE reaches 0x04, configuration requests stop receiving Request Retry Status. -/
  | configurationReadiness
  /-- CONFIG_REQUEST (R420). A CXL configuration request is answered with Request Retry Status before configuration readiness and served normally after it. -/
  | configRequest (reg : BitVec 12)
  /-- WARM_RESET (R421). PERST#, hot reset or secondary bus reset while READY stops steps, restores caches, writes back tags and puts DRAM in self-refresh. -/
  | warmReset
  /-- PERST_DEASSERT (R421). Release of PERST# or of link reset re-verifies the boot slot, leaves self-refresh and sets READY, scrubbing partitions if the image changed. -/
  | perstDeassert (b : BringUp)
  /-- PORT_RESET_BEFORE_READY (R425). A PERST#, hot reset or secondary bus reset before READY restarts only the CXL port while the start continues. -/
  | portResetBeforeReady
  /-- FUNCTION_LEVEL_RESET (R423). A Function Level Reset deletes every queue pair, clears feature agreement and resets MSI-X and EVENTS. -/
  | functionLevelReset
  /-- VIN_OUT_OF_RANGE (R335). VIN outside 1.70-1.90 V for 10 us stops clocks, puts DRAM in self-refresh and asserts RAIL_OFF_REQ#. -/
  | vinOutOfRange (millivolts : Nat)
  /-- PWR_BRAKE_ASSERT (R349). Assertion of PWR_BRAKE# sets the allowance to 2,500 W in every period and sends PACE with cause 3. -/
  | pwrBrakeAssert
  /-- PWR_BRAKE_RELEASE (R349). Release of PWR_BRAKE# restores the window rule and raises rates over 1 ms. -/
  | pwrBrakeRelease
  /-- CXL_LANE_FAILURE (R305). A failed CXL lane retrains the link at x4, sets DEV_STATUS.X4 and raises LINK_WIDTH. -/
  | cxlLaneFailure (lane : BitVec 3)
  /-- I3C_READ (R434). An I3C offset write and 4-byte read return a sideband status register. -/
  | i3cRead (offset : Byte)
  /-- DOORBELL_SQ_TAIL (R318). A write to SQ_TAIL makes entries fetchable, or on a bad value sets the pair's QERR bit and stops the pair. -/
  | doorbellSqTail (qp : BitVec 6) (value : U32)
  /-- DOORBELL_CQ_HEAD (R318). A write to CQ_HEAD frees completion slots so posting and fetching resume, or on a bad value raises a queue error. -/
  | doorbellCqHead (qp : BitVec 6) (value : U32)
  /-- NEGOTIATE (R315). Writing 1 to DEV_CONTROL.NEGOTIATE sets agreed features to requested AND offered and sets AGREED; a later write is discarded and recorded. -/
  | negotiate
  /-- ADMQ_ENABLE (R317). Setting ADMQ_EN creates admin pair 0, or leaves it clear and raises a queue error on a bad depth or base. -/
  | admqEnable
  /-- ADMQ_DISABLE (R317). Clearing ADMQ_EN deletes pair 0 under the rules of QUEUE_DELETE and sets ADMQ_DEL. -/
  | admqDisable
  /-- ADMQ_DELETION_DONE (R317). When the deletion of pair 0 ends, ADMQ_DEL clears. -/
  | admqDeletionDone
  /-- QERR_CLEAR (R316). A write of ones to QERR.LO or QERR.HI clears the named queue-error bits. -/
  | qerrClear (hi : Bool) (value : U32)
  /-- EVENTS_CLEAR (R329). A write of ones to EVENTS clears and re-arms the named event bits. -/
  | eventsClear (value : U32)
  /-- EVENT_MASK_WRITE (R329). A write to EVENT_MASK sets the enabled events and fires vector 64 for a newly enabled bit already set. -/
  | eventMaskWrite (value : U32)
  /-- REGISTER_WRITE (R312). A write to any other BAR0 register stores an aligned 32-bit value, and a write of another size is discarded. -/
  | registerWrite (offset : BitVec 16) (size : Nat) (value : U32)
  /-- REC_START_WRITE (R413). A write to REC_START.LO starts a recorder window fill from the requested record number. -/
  | recStartWrite (value : U32)
  /-- RECORDER_FILL_DONE (R413). A recorder window fill ends, setting BYTES, COUNT, GAP and FIRST and clearing BUSY. -/
  | recorderFillDone
  /-- COAL_TIME_EXPIRY (R329). COAL_TIME after the first ungathered completion, the ring's MSI-X vector fires and the gathered count clears. -/
  | coalTimeExpiry (qp : BitVec 6)
  /-- ACCEPTED_TIMEOUT (R330). A command with no final completion 10 us after fetch posts ACCEPTED. -/
  | acceptedTimeout (qp : BitVec 6) (tag : U32)
  /-- QUEUE_CREATE (R320). Creates a queue pair bound to a role, partition and context. -/
  | queueCreate (p : Packet)
  /-- QUEUE_DELETE (R321). Stops fetching from a pair, cancels its held steps and completes once its fetched commands have finished. -/
  | queueDelete (p : Packet)
  /-- QUEUE_STATUS (R321). Reports a pair's fetch point, next completion slot, outstanding commands and state. -/
  | queueStatus (p : Packet)
  /-- CONFIG_READ (R415). Copies the configuration set in force or the previous one. -/
  | configRead (p : Packet)
  /-- CONFIG_APPLY (R415). Validates a configuration set, writes it to flash and brings it into force as PENDING. -/
  | configApply (p : Packet)
  /-- CONFIG_APPLY_DONE (R415). The flash write of an applied set ends, the set comes into force as PENDING and the final completion is posted. -/
  | configApplyDone
  /-- CONFIG_CONFIRM (R415). Makes the PENDING configuration set CONFIRMED. -/
  | configConfirm (p : Packet)
  /-- CONFIG_ROLLBACK (R415). Brings the previous configuration set into force as CONFIRMED and discards the current one. -/
  | configRollback (p : Packet)
  /-- CONFIG_AUTO_ROLLBACK (R415). A PENDING set not confirmed within 60 s is rolled back automatically. -/
  | configAutoRollback
  /-- REGION_ALLOC (R179). Creates a region of the issuing partition, optionally zero-filled. -/
  | regionAlloc (p : Packet)
  /-- ZERO_FILL_DONE (R179). The stripe writes of a ZERO region allocation end and its final completion is posted. -/
  | zeroFillDone (part : BitVec 4) (region : U32)
  /-- REGION_FREE (R181). Frees a region unless it is in use, setting every line free by writing tag lines. -/
  | regionFree (p : Packet)
  /-- REGION_QUERY (R182). Reports a region's extent, kind, flags and count of lost lines. -/
  | regionQuery (p : Packet)
  /-- HDM_BIND (R308). Binds a HOST region to an HDM decoder and reports the window size. -/
  | hdmBind (p : Packet)
  /-- HDM_UNBIND (R309). Unbinds a decoder once its earlier CXL.mem accesses have completed. -/
  | hdmUnbind (p : Packet)
  /-- HDM_STATUS (R309). Reports the region bound to each decoder. -/
  | hdmStatus (p : Packet)
  /-- STEP_SUBMIT (R161). Checks a step submission at fetch, posts ACCEPTED, and runs or holds the step when it is eligible. -/
  | stepSubmit (p : Packet)
  /-- WAIT_LIMIT_EXPIRY (R167). When the wait limit passes since the earliest held step became eligible, the set is released as one batch. -/
  | waitLimitExpiry (part : BitVec 4) (ctx : BitVec 3) (plan : U32)
  /-- STEP_ELIGIBLE (R162). A FENCE step becomes eligible once every earlier command of its queue has posted a final completion. -/
  | stepEligible (qp : BitVec 6) (tag : U32)
  /-- STEP_START (R162). A released step starts when its context runs and the previous step's completions have been posted. -/
  | stepStart (part : BitVec 4)
  /-- STEP_COMPLETE (R163). When every operator of a step has completed, its completions are posted per slot. -/
  | stepComplete (part : BitVec 4)
  /-- PLAN_LOAD (R156). Copies a plan image into the device and starts its validation. -/
  | planLoad (p : Packet)
  /-- PLAN_VALIDATION_DONE (R158). Validation of a plan ends with a handle or a failure reason, and the final completion is posted. -/
  | planValidationDone (qp : BitVec 6) (tag : U32)
  /-- PLAN_UNLOAD (R160). Releases the plan's held steps, waits for its steps to complete and frees its entries. -/
  | planUnload (p : Packet)
  /-- STEP_CANCEL (R164). Removes a held or not yet eligible step of its queue, or reports that it was released or absent. -/
  | stepCancel (p : Packet)
  /-- BATCH_SET (R166). Sets the fill target and wait limit of a batched plan, releasing sets that already meet them. -/
  | batchSet (p : Packet)
  /-- CONTEXT_SET (R170). Configures a context's weight, slice and save area. -/
  | contextSet (p : Packet)
  /-- SLICE_EXPIRY (R171). When a context's slice expires with other work waiting, it is switched out at its next step boundary. -/
  | sliceExpiry (part : BitVec 4)
  /-- SLICE_OVERRUN (R171). A context still within a step 5 ms after its slice expired is switched out at the next operator or pass boundary. -/
  | sliceOverrun (part : BitVec 4)
  /-- CACHE_OPEN (R227). Opens a key-value cache with its pool, staging and recomputation source. -/
  | cacheOpen (p : Packet)
  /-- CACHE_CLOSE (R247). Closes a cache and frees its pages, staging and page tables unless it is in use. -/
  | cacheClose (p : Packet)
  /-- CACHE_SEQ (R239). Opens, truncates or releases a sequence, or declares its token ids. -/
  | cacheSeq (p : Packet)
  /-- CACHE_SEQ_QUERY (R238). Reads a sequence's layer or sequence records and copies page-table entries. -/
  | cacheSeqQuery (p : Packet)
  /-- CACHE_MIGRATE (R243). Starts moving a sequence's pages between POOL and SPILLREG. -/
  | cacheMigrate (p : Packet)
  /-- MIGRATION_DONE (R243). The page copies of a migration end and the final completion reports the pages moved. -/
  | migrationDone (qp : BitVec 6) (tag : U32)
  /-- PAGE_SWITCH (R244). At the context's next step boundary a copied page's entry switches to the new copy and the old page is freed. -/
  | pageSwitch (part : BitVec 4) (cache : U32)
  /-- CACHE_STATUS (R248). Reports a cache's free pages, open sequences and available page-table entries. -/
  | cacheStatus (p : Packet)
  /-- CLEARING_DIVISION (R221). Sets the partition's clearing division mode and BSPLIT. -/
  | clearingDivision (p : Packet)
  /-- CLEARING_STATUS (R223). Reports FAILED units, units under test, the division state and the division rule in force. -/
  | clearingStatus (p : Packet)
  /-- CLEARING_TEST_SET (R222). Sets the unit self-test period and optionally starts a test of every unit. -/
  | clearingTestSet (p : Packet)
  /-- CLEARING_TEST_RUN_DONE (R222). A test of every unit ends and the final completion reports the units that failed. -/
  | clearingTestRunDone (failed : List (BitVec 18))
  /-- FABRIC_ID_SET (R280). Sets the device's fabric id, after which every UP link sends a fresh HELLO. -/
  | fabricIdSet (p : Packet)
  /-- ROUTE_SET (R287). Checks and writes route-table entries. -/
  | routeSet (p : Packet)
  /-- ROUTE_READ (R287). Copies route-table entries to a buffer. -/
  | routeRead (p : Packet)
  /-- LINK_STATUS (R278). Copies the 64 link records. -/
  | linkStatus (p : Packet)
  /-- LINK_CONTROL (R279). Disables, enables or retrains a link. -/
  | linkControl (p : Packet)
  /-- GROUP_JOIN (R292). Joins the partition to a group, completing when a view that includes it commits. -/
  | groupJoin (p : Packet)
  /-- GROUP_ADMIN (R293). Makes a member leave, evicts a member or changes the coordinator. -/
  | groupAdmin (p : Packet)
  /-- GROUP_STATUS (R294). Reports a group's epoch, rank, size, state and oldest wait. -/
  | groupStatus (p : Packet)
  /-- PACE_SET (R300). Sets whether and to what floor the partition follows a group's pace notices. -/
  | paceSet (p : Packet)
  /-- NET_DISTANCE_READ (R264). Copies distance records of one generation, restarting if a reissue falls during the copy. -/
  | netDistanceRead (p : Packet)
  /-- POWER_CAP_SET (R357). Sets the cap, burst, window and rail limits unless admission would break. -/
  | powerCapSet (p : Packet)
  /-- POWER_STATUS (R358). Copies the device power record and the 64 tract records. -/
  | powerStatus (p : Packet)
  /-- FIXED_FREQ_SET (R359). Commits a partition to a fixed frequency after admission, or returns it to elastic. -/
  | fixedFreqSet (p : Packet)
  /-- ENERGY_READ (R360). Reports an energy counter in millijoules with its age. -/
  | energyRead (p : Packet)
  /-- COOLANT_SET (R368). Reports the inlet temperature and flow. -/
  | coolantSet (p : Packet)
  /-- THERMAL_STATUS (R374). Copies the 128-byte thermal record. -/
  | thermalStatus (p : Packet)
  /-- THERMAL_RESPONSE_SET (R373). Sets the warning ratio, the staleness limit and ALERT# enable. -/
  | thermalResponseSet (p : Packet)
  /-- PARTITION_CREATE (R378). Creates a partition over free tracts with a fresh key and INSTANCE. -/
  | partitionCreate (p : Packet)
  /-- PARTITION_RELEASE (R379). Releases a partition by running the scrub between tenants. -/
  | partitionRelease (p : Packet)
  /-- PARTITION_STATUS (R380). Reports a partition's state, flags, tracts and region count. -/
  | partitionStatus (p : Packet)
  /-- CONFIDENTIAL_SET (R395). Puts a partition into confidential mode. -/
  | confidentialSet (p : Packet)
  /-- KEY_ROTATE (R393). Starts a memory-key rotation, flipping GEN for writes and starting the sweep. -/
  | keyRotate (p : Packet)
  /-- KEY_STATUS (R394). Reports a partition's key state, generation and sweep progress. -/
  | keyStatus (p : Packet)
  /-- SWEEP_REWRITE (R391). The key sweep rewrites a line under the new generation in an idle slot, or at least once every 2 us. -/
  | sweepRewrite (part : PartUse)
  /-- FW_STAGE (R385). Copies a firmware image into the slot that is not running. -/
  | fwStage (p : Packet)
  /-- FW_STAGE_DONE (R385). Stanar finishes checking a staged image and posts the final completion. -/
  | fwStageDone
  /-- FW_ACTIVATE (R386). Makes a verified slot the boot slot for the next start. -/
  | fwActivate (p : Packet)
  /-- TIME_SET (R410). Sets the recorder's calendar time and uncertainty. -/
  | timeSet (p : Packet)
  /-- RESERVE_STATUS (R406). Copies the reserve record. -/
  | reserveStatus (p : Packet)
  /-- MEMREG_READ (R193). Reads a per-layer memory register. -/
  | memregRead (p : Packet)
  /-- MEMREG_WRITE (R193). Writes a per-layer memory register. -/
  | memregWrite (p : Packet)
  /-- REPAIR_MAP_READ (R35). Copies repair-map entries. -/
  | repairMapRead (p : Packet)
  /-- LAYER_MAP_READ (R40). Reports the present or cold-start layer states and rehoming figures. -/
  | layerMapRead (p : Packet)
  /-- HEALTH_RING_SET (R70). Attaches or detaches a health ring of a context. -/
  | healthRingSet (p : Packet)
  /-- HEALTH_RING_STATUS (R72). Reports a context's PRODUCED and DROPPED counts. -/
  | healthRingStatus (p : Packet)
  /-- LATTICE_COUNTERS_READ (R105). Copies per-grove lattice counter records. -/
  | latticeCountersRead (p : Packet)
  /-- CLEARING_COUNTERS_READ (R224). Copies per-unit near-bank records. -/
  | clearingCountersRead (p : Packet)
  /-- NET_COUNTERS_READ (R266). Copies per-router network counter records. -/
  | netCountersRead (p : Packet)
  /-- SCALE_PASS (R139). Operator that writes a tensor's MAXEXP and SEQMAX. -/
  | scalePass (part : BitVec 4) (op : OpUse)
  /-- QUANTISE (R139). Operator that converts a tensor to another format. -/
  | quantise (part : BitVec 4) (op : OpUse)
  /-- GEMM (R118). Operator that forms a matrix product with exact anchored accumulation. -/
  | gemm (part : BitVec 4) (op : OpUse)
  /-- GEMM_BATCHED (R118). Operator that forms batched matrix products. -/
  | gemmBatched (part : BitVec 4) (op : OpUse)
  /-- GEMM_GROUPED (R119). Operator that multiplies each expert's rows by its weights. -/
  | gemmGrouped (part : BitVec 4) (op : OpUse)
  /-- ATTN_CANOPY (R122). Operator that computes attention on the canopy. -/
  | attnCanopy (part : BitVec 4) (op : OpUse)
  /-- ATTN_CLEARING (R210). Operator that computes attention over cache pages, split into near-bank tasks and canopy positions. -/
  | attnClearing (part : BitVec 4) (op : OpUse) (others : List AttnPartial)
  /-- KV_SCATTER (R125). Operator that appends or overwrites keys and values in a cache. -/
  | kvScatter (part : BitVec 4) (op : OpUse) (peers : PeerAnswer)
  /-- GATHER (R127). Operator that copies indexed slices. -/
  | gather (part : BitVec 4) (op : OpUse)
  /-- SCATTER (R127). Operator that replaces or adds into indexed slices. -/
  | scatter (part : BitVec 4) (op : OpUse)
  /-- EMBED (R127). Operator that gathers embedding rows with conversion. -/
  | embed (part : BitVec 4) (op : OpUse)
  /-- TOPK (R129). Operator that selects the k largest or smallest elements per row. -/
  | topk (part : BitVec 4) (op : OpUse)
  /-- SORT (R129). Operator that stably sorts rows. -/
  | sort (part : BitVec 4) (op : OpUse)
  /-- SCAN (R130). Operator that computes a linear recurrence per channel. -/
  | scan (part : BitVec 4) (op : OpUse)
  /-- CONV1D (R132). Operator that computes a one-dimensional convolution. -/
  | conv1d (part : BitVec 4) (op : OpUse)
  /-- CONV2D (R132). Operator that computes a two-dimensional convolution. -/
  | conv2d (part : BitVec 4) (op : OpUse)
  /-- RMSNORM (R134). Operator that computes RMS normalisation. -/
  | rmsnorm (part : BitVec 4) (op : OpUse)
  /-- LAYERNORM (R134). Operator that computes layer normalisation. -/
  | layernorm (part : BitVec 4) (op : OpUse)
  /-- SOFTMAX (R134). Operator that computes softmax. -/
  | softmax (part : BitVec 4) (op : OpUse)
  /-- ELTWISE (R135). Operator that applies a chain of micro-operations element by element. -/
  | eltwise (part : BitVec 4) (op : OpUse)
  /-- SAMPLE (R138). Operator that draws one token per row of logits. -/
  | sample (part : BitVec 4) (op : OpUse)
  /-- ALL_REDUCE (R141). Collective that sums contributions over a group. -/
  | allReduce (part : BitVec 4) (op : OpUse) (others : List Contribution)
  /-- REDUCE_SCATTER (R141). Collective that sums contributions and gives each rank one part. -/
  | reduceScatter (part : BitVec 4) (op : OpUse) (others : List Contribution)
  /-- ALL_GATHER (R141). Collective that concatenates contributions in rank order. -/
  | allGather (part : BitVec 4) (op : OpUse) (others : List Contribution)
  /-- ALL_TO_ALL (R141). Collective that exchanges counted rows between ranks. -/
  | allToAll (part : BitVec 4) (op : OpUse) (others : List Contribution)
  /-- BROADCAST (R141). Collective that copies the root's source to every member. -/
  | broadcast (part : BitVec 4) (op : OpUse) (others : List Contribution)
  /-- OPT_STEP (R143). Operator that updates weights out of place with SGD or AdamW. -/
  | optStep (part : BitVec 4) (op : OpUse)
  /-- LOSS_XENT (R144). Operator that computes cross-entropy and its gradient. -/
  | lossXent (part : BitVec 4) (op : OpUse)
  /-- ATTN_CANOPY_BWD (R145). Operator that computes attention gradients. -/
  | attnCanopyBwd (part : BitVec 4) (op : OpUse)
  /-- CONV1D_BWD (R145). Operator that computes one-dimensional convolution gradients. -/
  | conv1dBwd (part : BitVec 4) (op : OpUse)
  /-- CONV2D_BWD (R145). Operator that computes two-dimensional convolution gradients. -/
  | conv2dBwd (part : BitVec 4) (op : OpUse)
  /-- RMSNORM_BWD (R145). Operator that computes RMS normalisation gradients. -/
  | rmsnormBwd (part : BitVec 4) (op : OpUse)
  /-- LAYERNORM_BWD (R145). Operator that computes layer normalisation gradients. -/
  | layernormBwd (part : BitVec 4) (op : OpUse)
  /-- SOFTMAX_BWD (R145). Operator that computes the softmax gradient. -/
  | softmaxBwd (part : BitVec 4) (op : OpUse)
  /-- NEAR_BANK_TASK (R211). A task arriving at a unit runs pass 1 over its eligible positions and sends its row maxima to the combining grove. -/
  | nearBankTask (unit : BitVec 18) (task : TaskUse)
  /-- FINAL_MAXIMA_ARRIVAL (R211). Arrival of the final row maxima starts pass 2, and at its end the partials are sent to the combining grove. -/
  | finalMaximaArrival (unit : BitVec 18) (maxima : MaximaUse)
  /-- PROCESSOR_MODE_ENTRY (R203). Once the operations in flight on its 16 channels have ended, a clearing channel enters processor mode. -/
  | processorModeEntry (unit : BitVec 18) (test : Bool)
  /-- SLICE_BOUNDARY (R209). At the end of a slice the banks serve owed refreshes, CXL.mem and vertical-channel accesses before the next slice. -/
  | sliceBoundary (unit : BitVec 18) (w : BoundaryWork)
  /-- REPAIR_READ_DONE (R216). The repair read's outcome reruns the task, blames the unit, or starts page recomputation. -/
  | repairReadDone (unit : BitVec 18) (r : RepairRead)
  /-- PAGE_RECOMPUTE (R246). A damaged page is regenerated from the RECOMP plan and token ids, after which the step is replayed. -/
  | pageRecompute (part : PartUse)
  /-- UNIT_SELF_TEST (R220). A periodic, forced or cold-start unit self-test runs on the test lines, and a failing unit becomes FAILED and its pages migrate. -/
  | unitSelfTest (unit : BitVec 18) (passed : Bool)
  /-- REFRESH_DUE (R191). A refresh falls due on a channel and is issued after the operation in flight, or owed in processor mode. -/
  | refreshDue (core : BitVec 20) (layer : BitVec 5)
  /-- TRACT_COOLED (R191). A hot tract whose DRAM readings stayed at or below 83 C for 100 ms returns to the 3.9 us refresh interval. -/
  | tractCooled (tract : BitVec 6)
  /-- PHASE_RETRAIN (R29). Every 100 ms each channel's per-layer phase offset is retrained on idle slots. -/
  | phaseRetrain (core : BitVec 20)
  /-- TAG_WRITEBACK (R183). A changed cached tag line is written back within 1 us. -/
  | tagWriteback (core : BitVec 20) (layer : BitVec 5) (tagLine : BitVec 4)
  /-- CHANNEL_COMMAND_TIMEOUT (R26). 60 ns after a command ignored for a parity error, the channel controller reissues it and counts a lane-error event. -/
  | channelCommandTimeout (core : BitVec 20) (cmd : U32)
  /-- LANE_FAILING (R33). A lane with 16 corrections in 2^20 bursts, or stuck for a burst, is marked failing and its replacement is trained. -/
  | laneFailing (f : LaneFault)
  /-- LANE_SWITCH_OVER (R33). When training of the replacement lane ends, the channel switches over between two bursts and records the repair. -/
  | laneSwitchOver (core : BitVec 20) (lane : BitVec 5)
  /-- REHOME_COPY_DONE (R36). When the column copy ends, its pages are migrated and the channel is retired. -/
  | rehomeCopyDone (core : BitVec 20)
  /-- SCRUB_PASS_START (R192). Every PERIOD minutes a layer's scrubber starts a pass over every line. -/
  | scrubPassStart (layer : BitVec 5)
  /-- SCRUB_READ (R192). A scrubbed line is rewritten if corrected, its stripe parity checked, or set lost if uncorrectable. -/
  | scrubRead (r : ScrubRead)
  /-- BUCKET_LEAK (R195). Each second every correctable-error bucket drains by LEAK. -/
  | bucketLeak
  /-- WHOLE_LAYER_FAULT (R39). Loss of a layer's PLL or of too many regulators maps the layer out, or takes the device out of service. -/
  | wholeLayerFault (layer : BitVec 5)
  /-- ABSORPTION_DONE (R198). When every column has absorbed its stripes, the layer shows state 2. -/
  | absorptionDone
  /-- CXL_MEM_READ (R199). A CXL.mem read of a window is translated, served by the owning channel and returned, or poisoned. -/
  | cxlMemRead (hpa : U64) (len : Nat) (e : ReadErrors)
  /-- CXL_MEM_WRITE (R307). A CXL.mem write of a window is written with parity, or discarded when unbound or scrubbing. -/
  | cxlMemWrite (hpa : U64) (data : List Byte) (e : ReadErrors)
  /-- IDE_CHECK_FAILURE (R310). A TLP or flit failing its IDE check is dropped and the stream enters the error state. -/
  | ideCheckFailure (stream : Byte)
  /-- IDE_KM (R310). An IDE_KM exchange over SPDM sets or refreshes a link key. -/
  | ideKm (stream : Byte) (setKey : Bool)
  /-- GET_MEASUREMENTS (R388). An SPDM measurement request is answered with signed measurement blocks. -/
  | getMeasurements (index : Byte) (nonce : List Byte) (signed : Bool)
  /-- CHALLENGE (R387). An SPDM challenge is answered with CHALLENGE_AUTH signed by the alias key. -/
  | challenge (slot : Byte) (nonce : List Byte)
  /-- SERVICE_INSPECTION (R383). A signed service token over SPDM opens service inspection of tracts not confidential or scrubbing. -/
  | serviceInspection (token : List Byte) (nonce : List Byte) (tracts : U64)
  /-- NETWORK_PACKET_ARRIVAL (R255). A packet at a router is forwarded in dimension order, ejected, or dropped at a partition mismatch. -/
  | networkPacketArrival (grove : BitVec 12) (p : PortPacket)
  /-- MESH_FLIT_RESEND (R251). A flit detected as uncorrectable on a mesh link is resent from the replay buffer. -/
  | meshFlitResend (grove : BitVec 12) (dir : BitVec 2)
  /-- MESH_WIRE_FAILING (R251). A mesh wire with 16 corrections in 2^20 flits is replaced by a spare. -/
  | meshWireFailing (grove : BitVec 12) (dir : BitVec 2) (wire : WireErrors)
  /-- MESH_LINK_DEGRADE (R262). A mesh link moves to half width, down or relayed, and routes change. -/
  | meshLinkDegrade (grove : BitVec 12) (dir : BitVec 2) (stage : MeshStage)
  /-- FLIT_RECEIVE (R272). A received link flit is accepted in sequence, or discarded with a NAK, and its acknowledgement and credits are taken. -/
  | flitReceive (link : BitVec 6) (flit : List Byte) (fecFailed : Bool)
  /-- ACK_DEADLINE (R273). A control packet or LINKCTL flit not acknowledged within 2 us takes the link down. -/
  | ackDeadline (link : BitVec 6)
  /-- LOSS_OF_LOCK (R277). A link losing lock goes DOWN. -/
  | lossOfLock (link : BitVec 6)
  /-- LINK_LANE_FAILURE (R277). A lane failing on an UP link takes it DOWN to retrain at half width. -/
  | linkLaneFailure (link : BitVec 6) (lane : BitVec 3)
  /-- LINK_RETRAIN_TIMER (R276). 10 ms after going DOWN, a link not latched starts training. -/
  | linkRetrainTimer (link : BitVec 6)
  /-- LINK_TRAINING_DONE (R276). Training ends with HELLO exchanged and the link UP or HALF. -/
  | linkTrainingDone (link : BitVec 6) (peer : LinkPeer)
  /-- UNROUTABLE_RETRY (R285). A source holding an unroutable flow retries every 10 ms or on a route or link change. -/
  | unroutableRetry
  /-- DATA (R282). A DATA packet delivers collective operands or page-move data in flow order. -/
  | data (p : FabPacket)
  /-- SEGMENT (R295). A collective segment is checked for its anchor and combined on the fixed tree. -/
  | segment (p : FabPacket)
  /-- TOKEN (R297). A dependency token moves up the tree, and rank 0 sends the release once it holds every token. -/
  | token (p : FabPacket)
  /-- AGREE (R234). A page-count flag of a spanning KV_SCATTER is gathered to decide whether any member writes. -/
  | agree (p : FabPacket)
  /-- JOIN (R290). A JOIN at the coordinator starts gathering a view change. -/
  | join (p : FabPacket)
  /-- LEAVE (R290). A LEAVE at the coordinator starts gathering a view change. -/
  | leave (p : FabPacket)
  /-- VIEW_GATHER_EXPIRY (R290). 100 us after the first unreflected JOIN or LEAVE, the coordinator sends PREPARE. -/
  | viewGatherExpiry (part : BitVec 4) (group : U32)
  /-- PREPARE (R290). A member receiving PREPARE answers READY and stops starting group operations. -/
  | prepare (p : FabPacket)
  /-- READY (R291). The coordinator collects READY answers and sends COMMIT, or ABANDON if any member is pinned. -/
  | ready (p : FabPacket)
  /-- COMMIT (R290). A member finishes operations up to B - 1 and then switches to the new epoch. -/
  | commit (p : FabPacket)
  /-- ABANDON (R291). The proposed view is withdrawn and its joins and leaves complete NOT_PERMITTED. -/
  | abandon (p : FabPacket)
  /-- PACE (R299). A pace notice is kept per member and followed when FOLLOW is set. -/
  | pace (p : FabPacket)
  /-- UNREACHABLE (R285). An UNREACHABLE notice reports a packet that could not be routed. -/
  | unreachable (p : FabPacket)
  /-- REFUSED (R301). A REFUSED notice makes the source discard the rest of the flow for the epoch. -/
  | refused (p : FabPacket)
  /-- GROUP_WAIT_NOTE (R298). After 1 s of waiting, and every 60 s thereafter, a record names the awaited rank. -/
  | groupWaitNote (part : BitVec 4) (group : U32)
  /-- POWER_PERIOD (R348). Every 4 us the controller computes allowances, shares the cap and sets n and m. -/
  | powerPeriod (p : PowerSample)
  /-- CORRECTION_UPDATE (R346). Every 1 ms the estimate is compared with the measured rail power and the correction factor is set. -/
  | correctionUpdate (millivolts : Nat) (milliamps : Nat)
  /-- FREQUENCY_STEP (R341). Every 50 ns a half's n moves one step towards its target, held during droop. -/
  | frequencyStep (east : Bool)
  /-- DROOP_DETECT (R343). A droop detector firing stretches the plot's cycles by 1.5. -/
  | droopDetect (plot : BitVec 10)
  /-- DROOP_STRETCH_END (R343). After 64 cycles and 16 clear cycles the stretch ends and deferred actions resume. -/
  | droopStretchEnd (plot : BitVec 10)
  /-- REGULATOR_FAILURE (R339). A failed regulator's load moves to its neighbours and ceilings, offline or out of service follow by count. -/
  | regulatorFailure (die : BitVec 5) (index : BitVec 10)
  /-- PATH_CHECK (R338). Each 1 ms check marks a suspect power path after 10 excess checks, or fails the regulator. -/
  | pathCheck (die : BitVec 5) (index : BitVec 10) (measured : Nat) (expected : Nat)
  /-- TRACT_PARK (R353). A tract without released work for 1 ms is parked. -/
  | tractPark (tract : BitVec 6)
  /-- TRACT_WAKE (R353). A parked or off tract receiving work ramps its plots and starts ungating groves. -/
  | tractWake (tract : BitVec 6)
  /-- GROVE_UNGATE (R353). A grove is ungated when headroom allows, at least 2 us after the previous one. -/
  | groveUngate (tract : BitVec 6)
  /-- WAKE_DEFERRAL_LIMIT (R353). A wake step waiting 1 ms lowers the busiest neighbour's m by 4. -/
  | wakeDeferralLimit (tract : BitVec 6)
  /-- SENSOR_SAMPLE (R363). Every 100 us sensors are sampled and believed temperatures, hot tracts and suspect pairs updated. -/
  | sensorSample (readings : List Reading)
  /-- ABRUPT_RECHECK (R371). 5 ms after an abrupt loss, a persisting slew trips the device. -/
  | abruptRecheck (readings : List Reading)
  /-- ABRUPT_CLEAR (R371). When slews are low for 1 s and R_meas is normal, the caps return with k = 0.5. -/
  | abruptClear
  /-- LEAKAGE_MEASURE (R366). Every 10 ms each layer regulator converts its area's leakage current to a temperature estimate. -/
  | leakageMeasure (layer : BitVec 5) (area : BitVec 6) (current : Nat)
  /-- HIDDEN_HOT_CHECK (R366). Every 1 s both estimates are compared with the sensor and the believed temperature replaced if both exceed it. -/
  | hiddenHotCheck
  /-- THERMAL_COMPUTATION (R367). Every 100 ms R_meas, P_th, the effective cap, warning and clamp are recomputed. -/
  | thermalComputation (seconds : Nat)
  /-- K_ADJUST (R369). The factor k falls every 10 ms above an elastic limit and rises every 100 ms when well below. -/
  | kAdjust (slow : Bool)
  /-- CLAMP_END (R370). When clamp conditions have not held for 1 s, m is restored over 100 ms. -/
  | clampEnd
  /-- ALERT_RELEASE (R370). ALERT# is released 1 s after warning and clamp have ended. -/
  | alertRelease
  /-- WARNING_NOTE (R370). A recorder entry is written every 60 s while the warning holds. -/
  | warningNote
  /-- COOLANT_STALE (R368). A COOLANT_SET older than STALE makes the inlet assumed at 40 C. -/
  | coolantStale
  /-- RECOVERY_ACTION_START (R401). A queued recovery action starts when the action ahead of it finishes. -/
  | recoveryActionStart (part : Option (BitVec 4))
  /-- DROPPED (R411). Records beyond 2,000 per second are counted and reported in one DROPPED record when the rate allows. -/
  | dropped
  /-- CONFIDENTIAL_PUBLICATION (R356). Once per second the energy and status figures of confidential partitions are published. -/
  | confidentialPublication
  /-- SCRUB_DONE (R397). The scrub between tenants ends: tracts become FREE and OFF, the partition ABSENT, and PARTITION_RELEASE posts its final completion. -/
  | scrubDone (part : BitVec 4)
  /-- UNIT_MIGRATION_DONE (R220). Migration of a FAILED unit's pages to IN_SERVICE channels ends, and the partition can leave the RECOVERY division state. -/
  | unitMigrationDone (unit : BitVec 18)
  /-- CONTEXT_SWITCH_DONE (R172). Saving the old context and restoring the new one finishes, and the new context runs. -/
  | contextSwitchDone (part : BitVec 4)
  /-- SEAL_TABLE_RELOAD_DONE (R208). Firmware finishes reloading a unit's seal table from the mirror, and the unit's waiting tasks may run. -/
  | sealTableReloadDone (unit : BitVec 18)
  /-- OVF_WINDOW_EXPIRY (R403). A bucket overflow or an unexplained fault passes out of its 24-hour window, which lowers OVF and the reserve 6 or 12 count and may clear RESERVE_LOW. -/
  | ovfWindowExpiry (kind : WindowKind)
  /-- CXL_LINK_DOWN (R333). The CXL link is lost, released steps run on, and completions wait for the link. -/
  | cxlLinkDown
  /-- CXL_LINK_RETRAINED (R333). The CXL link finishes retraining, and the completions that were waiting are posted. -/
  | cxlLinkRetrained
  /-- HDM_DECODER_COMMIT (R307). The host programs and commits an HDM decoder, which makes the window of the bound region reachable. -/
  | hdmDecoderCommit (decoder : BitVec 2) (base : U64) (size : Nat)
  /-- MAILBOX_COMMAND (R306). A command arrives in the CXL primary mailbox and is served as CXL 3.1 requires for a Type 3 device. -/
  | mailboxCommand (opcode : BitVec 16) (payload : List Byte)
  /-- GET_CERTIFICATE (R387). An SPDM certificate request is answered with the slot 0 chain up to the alias certificate. -/
  | getCertificate (slot : Byte) (offset : Nat) (len : Nat)
deriving DecidableEq, Repr

end Sys2Proof
end

