-- ==== Sys2Proof/Decode.lean ====
section
/-! DEFINITION. The command a word spells by the bits of the opcode table. No row of this block's table
gives bits: commands arrive at ports, as packets and as events, never as encoded words. -/
namespace Sys2Proof

/-- The command that `nbits` bits spell: none, since no row of the table gives bits. -/
def decodeTableWord (_nbits _w : Nat) : Option Instr := none

end Sys2Proof
end

