-- ==== Sys2Proof/Machine/Commands.lean ====
section
/-! DEFINITION. The master opcode list (R331): each command's feature, roles, level, and the parameter lengths it
accepts, as its own rule gives them. -/
namespace Sys2Proof.Machine

/-- A row of the master list. -/
structure CmdRow where
  code : Nat
  /-- Bit of R314 that must be agreed. -/
  feature : Nat
  operatorOnly : Bool
  /-- Whether the EXPERT flag is required. -/
  expert : Bool
  /-- The parameter lengths accepted: least, greatest, step. -/
  lo : Nat
  hi : Nat
  step : Nat
deriving DecidableEq, Repr

/-- A command of both roles, and of the operator role, with one parameter length. -/
def anyRole (code feature len : Nat) : CmdRow := ⟨code, feature, false, false, len, len, 1⟩
def operRole (code feature len : Nat) : CmdRow := ⟨code, feature, true, false, len, len, 1⟩

/-- The commands of R331 in its order. -/
def commandList : List CmdRow :=
  [operRole 0x0101 0 32, operRole 0x0102 0 4, anyRole 0x0103 0 4, anyRole 0x0201 0 16, operRole 0x0202 0 16, operRole 0x0203 0 4,
   operRole 0x0204 0 4, anyRole 0x0301 0 16, anyRole 0x0302 0 4, anyRole 0x0303 0 4, operRole 0x0310 2 8, operRole 0x0311 2 4,
   anyRole 0x0312 2 4, ⟨0x0401, 0, false, false, 8, 96, 8⟩, anyRole 0x0402 0 16, anyRole 0x0403 0 4, anyRole 0x0404 0 8,
   anyRole 0x0405 0 8, anyRole 0x0406 0 24] ++
  [anyRole 0x0501 4 48, anyRole 0x0502 4 4, anyRole 0x0503 4 40, anyRole 0x0504 4 32, anyRole 0x0505 4 24, anyRole 0x0506 4 4,
   anyRole 0x0601 4 8, anyRole 0x0602 4 4, operRole 0x0603 4 4, operRole 0x0701 3 4, operRole 0x0702 3 24, anyRole 0x0703 3 24,
   operRole 0x0704 3 16, operRole 0x0705 3 4, anyRole 0x0710 3 12, anyRole 0x0711 3 12, anyRole 0x0712 3 4, anyRole 0x0713 3 8,
   anyRole 0x0740 0 24] ++
  [operRole 0x0801 0 16, anyRole 0x0802 0 16, operRole 0x0803 6 4, anyRole 0x0804 0 4, operRole 0x0901 0 8, anyRole 0x0902 0 16,
   operRole 0x0903 0 8, operRole 0x0A01 0 16, operRole 0x0A02 0 4, anyRole 0x0A03 0 4, anyRole 0x0A04 5 4, anyRole 0x0A10 0 4,
   anyRole 0x0A11 0 4, operRole 0x0A20 0 16, operRole 0x0A21 0 4, operRole 0x0B01 0 16, anyRole 0x0B02 0 16, operRole 0x0B12 0 8,
   operRole 0x0B13 0 8, anyRole 0x0B20 0 24, anyRole 0x0B21 0 4, anyRole 0x0C01 7 16, anyRole 0x0C02 7 4] ++
  [⟨0x0D10, 1, false, true, 24, 24, 1⟩, ⟨0x0D11, 1, false, true, 24, 24, 1⟩, ⟨0x0D12, 1, false, true, 24, 24, 1⟩]

def findCommand (code : Nat) : Option CmdRow := commandList.find? fun r => r.code = code

/-- Whether a command accepts a parameter length. -/
def CmdRow.accepts (r : CmdRow) (n : Nat) : Bool :=
  decide (r.lo ≤ n) && decide (n ≤ r.hi) && (n - r.lo) % r.step = 0

end Sys2Proof.Machine
end

