-- ==== Sys2Proof/Machine/Bits.lean ====
section
/-! DEFINITION. Bytes, fields and lists: little-endian packing (R7), CRC-32C (R207), the line code's
arithmetic (R185, R186), and the keyed-list operations every table of the state uses. -/
namespace Sys2Proof.Machine

/-! ### Keyed lists -/

/-- The list with `f` applied to every entry that satisfies `p`. -/
def updWhere {α : Type} (p : α → Bool) (f : α → α) (l : List α) : List α :=
  l.map fun x => if p x then f x else x

/-- Update the entries that satisfy `p`; when there is none, add `f d` at the end. -/
def upsert {α : Type} (p : α → Bool) (f : α → α) (d : α) (l : List α) : List α :=
  if l.any p then updWhere p f l else l ++ [f d]

/-- Entry `i` of a list, or a default. -/
def nth {α : Type} (l : List α) (i : Nat) (d : α) : α := l.getD i d

/-- Replace entry `i`. -/
def setAt {α : Type} (l : List α) (i : Nat) (f : α → α) : List α := l.modify i f

/-- The largest element of a list of numbers; 0 of none. -/
def maxNat (l : List Nat) : Nat := l.foldl Nat.max 0

/-- Insertion sort by a key, stable. -/
def insertBy {α : Type} (le : α → α → Bool) (x : α) : List α → List α
  | [] => [x]
  | y :: ys => if le x y then x :: y :: ys else y :: insertBy le x ys

/-- Stable insertion sort: an element already placed stays before a later equal one. -/
def sortBy {α : Type} (le : α → α → Bool) (l : List α) : List α :=
  l.foldr (insertBy le) []

/-- Ceiling of a division. -/
def ceilDiv (a b : Nat) : Nat := (a + b - 1) / b

/-! ### Little-endian fields (R7) -/

/-- The number that bytes spell, the first least significant. -/
def leNat : List Byte → Nat
  | [] => 0
  | b :: bs => b.toNat + 256 * leNat bs

/-- `k` bytes of a number, the least significant first. -/
def toLE : Nat → Nat → List Byte
  | 0, _ => []
  | k + 1, n => BitVec.ofNat 8 n :: toLE k (n / 256)

/-- Bytes `off` to `off + len - 1` of a structure. -/
def slice (bs : List Byte) (off len : Nat) : List Byte := (bs.drop off).take len

/-- The unsigned field at an offset. -/
def fld (bs : List Byte) (off len : Nat) : Nat := leNat (slice bs off len)

/-- A 32-bit field. -/
def fld32 (bs : List Byte) (off : Nat) : U32 := BitVec.ofNat 32 (fld bs off 4)

/-- A 64-bit field. -/
def fld64 (bs : List Byte) (off : Nat) : U64 := BitVec.ofNat 64 (fld bs off 8)

/-- A signed 16-bit field. -/
def sfld16 (bs : List Byte) (off : Nat) : Int := (BitVec.ofNat 16 (fld bs off 2)).toInt

/-- Bits `[lo + w - 1 : lo]` of a number. -/
def bitsOf (n lo w : Nat) : Nat := n / 2 ^ lo % 2 ^ w

/-- Two's complement in `k` bytes. -/
def toLEInt (k : Nat) (i : Int) : List Byte := toLE k (BitVec.ofInt (8 * k) i).toNat

/-- Bytes cut or zero-padded to `n`. -/
def padTo (n : Nat) (bs : List Byte) : List Byte :=
  (bs ++ List.replicate (n - bs.length) 0).take n

/-- `k` zero bytes. -/
def zeros (k : Nat) : List Byte := List.replicate k 0

/-- Consecutive pieces of `n` elements, `k` of them at most. -/
def chunks {α : Type} (n : Nat) : Nat → List α → List (List α)
  | 0, _ => []
  | k + 1, l => if l.isEmpty then [] else l.take n :: chunks n k (l.drop n)

/-! ### CRC-32C (R207) -/

/-- One bit of the reflected CRC with polynomial 0x1EDC_6F41. -/
def crcBit (c : BitVec 32) : BitVec 32 :=
  if c.getLsbD 0 then (c >>> 1) ^^^ 0x82F63B78#32 else c >>> 1

/-- One byte of the CRC. -/
def crcByte (c : BitVec 32) (b : Byte) : BitVec 32 :=
  Nat.repeat crcBit 8 (c ^^^ b.setWidth 32)

/-- CRC-32C: input and output reflected, initial value and final XOR all ones. -/
def crc32c (bs : List Byte) : BitVec 32 :=
  (bs.foldl crcByte 0xFFFFFFFF#32) ^^^ 0xFFFFFFFF#32

/-! ### The line code (R185, R186) -/

/-- Multiplication by α = 2 in GF(2^8) with polynomial 0x11D. -/
def gfDouble (a : Byte) : Byte :=
  if a.getLsbD 7 then (a <<< 1) ^^^ 0x1D#8 else a <<< 1

/-- Product in GF(2^8), by the bits of the second factor. -/
def gfMul (a b : Byte) : Byte :=
  ((List.range 8).foldl (fun (acc : Byte × Byte) i =>
    (if b.getLsbD i then acc.1 ^^^ acc.2 else acc.1, gfDouble acc.2)) (0, a)).1

/-- α^i. -/
def gfPow (i : Nat) : Byte := Nat.repeat gfDouble i 1

/-- The generator polynomial with roots α^0 to α^7, lowest coefficient first. -/
def lineGenerator : List Byte :=
  (List.range 8).foldl (fun g i =>
    List.zipWith (· ^^^ ·) (0 :: g) (g.map (gfMul (gfPow i)) ++ [0])) [1]

/-- The address word V of R185. -/
def addressWord (line layer column : Nat) : Nat :=
  line % 2 ^ 11 + 2 ^ 11 * (layer % 32) + 2 ^ 16 * (column % 2 ^ 16)

/-- One step of the division that leaves the check bytes: symbols enter highest position first. -/
def lineShift (r : List Byte) (b : Byte) : List Byte :=
  let fb := (nth r 7 0) ^^^ b
  List.zipWith (fun x g => x ^^^ gfMul fb g) (0 :: r.take 7) (lineGenerator.take 8)

/-- The eight check bytes that make c(α^i) = 0 for i = 0 to 7: positions 8 to 71 hold the data and
72 to 75 the bytes of V. -/
def checkBytes (data : List Byte) (v : Nat) : List Byte :=
  (data ++ toLE 4 v).reverse.foldl lineShift (List.replicate 8 0)

/-- Syndrome i of a received word of 76 symbols. -/
def syndrome (word : List Byte) (i : Nat) : Byte :=
  (word.foldr (fun c acc => c ^^^ gfMul acc (gfPow i)) 0)

/-- The lane (R25) of a symbol position: check bytes on lanes 16 and 17, data byte k on lane k mod 16. -/
def laneOf (p : Nat) : Nat := if p < 8 then 16 + p / 4 else (p - 8) % 16

/-- What the reader of a line finds (R186). -/
inductive Decoded where
  | clean | corrected | misdirected | uncorrectable
deriving DecidableEq, Repr

/-- R186 by the error pattern: positions with a non-zero change. Any pattern in one lane, or of at most
two symbols among positions 0 to 71, is corrected; an error in the address word is a misdirected access. -/
def decodePattern (errs : List (Nat × Byte)) : Decoded :=
  let ps := ((errs.filter fun e => e.2 ≠ 0).map (·.1)).eraseDups
  match ps with
  | [] => .clean
  | p :: rest =>
    if ps.any (fun q => 72 ≤ q) then .misdirected
    else if rest.all (fun q => laneOf q = laneOf p) || ps.length ≤ 2 then .corrected
    else .uncorrectable

/-- The word of an error pattern: at each of the 76 positions the XOR of its changes. -/
def patternWord (errs : List (Nat × Byte)) : List Byte :=
  (List.range 76).map fun p => (errs.filter fun e => e.1 = p).foldl (fun a e => a ^^^ e.2) 0

/-- The eight syndromes of a word. -/
def syndromes (word : List Byte) : List Byte := (List.range 8).map (syndrome word)

/-- Inverse of a non-zero element of GF(2^8): a^254. -/
def gfInv (a : Byte) : Byte :=
  ((List.range 7).foldl (fun (x : Byte × Byte) _ => let q := gfMul x.2 x.2; (gfMul x.1 q, q)) (1, a)).1

/-- The changes at distinct positions `ps` whose first syndromes are the first of `syn`: with l the polynomial that is zero at
every other position's power of α, the sum of l's coefficients times the syndromes is the change times l's value. -/
def solveAt (ps : List Nat) (syn : List Byte) : List (Nat × Byte) :=
  ps.map fun p =>
    let l := (ps.filter (· ≠ p)).foldl (fun g q =>
      List.zipWith (· ^^^ ·) (0 :: g) (g.map (gfMul (gfPow q)) ++ [0])) [1]
    (p, gfMul ((List.zipWith gfMul l syn).foldl (· ^^^ ·) 0) (gfInv (syndrome l p)))

/-- The position sets of the patterns a reader corrects (R186): the four bytes of a lane, and any two symbols. -/
def correctableSets : List (List Nat) :=
  ((List.range 16).map fun k => [8 + k, 24 + k, 40 + k, 56 + k]) ++ [[0, 1, 2, 3], [4, 5, 6, 7]] ++
    (List.range 72).flatMap fun p => (List.range p).map fun q => [q, p]

/-- The correctable pattern whose syndromes are those of the word a reader received, where there is one. -/
def lineCorrection (syn : List Byte) : Option (List (Nat × Byte)) :=
  correctableSets.findSome? fun ps =>
    let c := solveAt ps syn
    if syndromes (patternWord c) = syn then some (c.filter fun x => x.2 ≠ 0) else none

/-- Errors in five or more bytes that the reader takes for a pattern it corrects, or for none (the last row of R186's table):
the correction it makes, and the word of what is wrong afterwards. -/
def misread (errs : List (Nat × Byte)) : Option (List (Nat × Byte) × List Byte) :=
  let w := patternWord errs
  if (w.filter (· ≠ 0)).length < 5 then none
  else (lineCorrection (syndromes w)).map fun c => (c, List.zipWith (· ^^^ ·) w (patternWord c))

end Sys2Proof.Machine
end

