-- ==== Sys2Proof/Config.lean ====
section
/-! DEFINITION. What one device fixes and what the spec leaves open: uninterpreted constants, none of
which has a body, so no proof can rest on a value of one. Free values take the counter `State.draw`. -/
namespace Sys2Proof.Config

/-! ### Free values (a fresh one for each value of the counter) -/

/-- A byte the spec leaves undefined: LOCUS 1 contents at the start of a step (R151), the rest of a
line lost under a narrow write (R197), bytes read from a lost line (R407). -/
opaque freeByte : Nat → Nat → Byte
/-- A binary32 result the spec leaves undefined (R146: attention and KV_SCATTER with no edge). -/
opaque freeWord : Nat → Nat → F32
/-- Milliseconds that have passed since VIN was applied, at a use numbered by the counter (R410). -/
opaque elapsedMs : Nat → Nat
/-- The number a new handle search starts from: handle values are not given by the spec (R156, R179, R227). -/
opaque handleSeed : Nat → Nat
/-- What an anchored sum holds whose terms broke the bound stated before it began (R56 rules it out for measured inputs). -/
opaque overflow : Int → Int
/-- A sum under fast reductions whose division among groves the spec does not state (R74): a function of the placement set, the
tiling fields and the element alone, and of the terms. -/
opaque fastSum : List Nat → List F32 → F32
/-- Where share `i` of a reduction of so many blocks begins when so many groves share it (R113 does not say): blocks, shares, share. -/
opaque splitBound : Nat → Nat → Nat → Nat
/-- Any other unstated number, told apart by a second argument. -/
opaque freeNat : Nat → Nat → Nat

/-! ### What the device is built with -/

/-- Serial number fused at manufacture (R313). -/
opaque serial : U64
/-- Cold starts since manufacture that the flash holds before the first start of a run (R378). -/
opaque coldStarts : U32
/-- Records that manufacturing test left (R412), at most 1,024. -/
opaque testRecords : Nat → List Byte
/-- How many records manufacturing test left; the model takes it modulo 1,025 (R412). -/
opaque testRecordCount : Nat
/-- Lane repairs fused at test (R32), in the 8-byte form of R34. -/
opaque fuseRepairs : List U64
/-- The firmware image kept in slot A (false) or B (true) when the device is first powered. -/
opaque flashImage : Bool → List Byte
/-- Digest of the Stanar boot ROM (R388). -/
opaque romDigest : List Byte
/-- The DER certificates of the chain of R387, up to the alias certificate of a start. -/
opaque certificateChain : Nat → List Byte
/-- PCI configuration space as CXL 3.1 and R306 give it: register offset to value. -/
opaque configSpace : Nat → U32
/-- The primary mailbox's answer to a command (R306), by opcode and payload, as CXL 3.1 requires. -/
opaque mailboxReply : Nat → List Byte → List Byte
/-- Whether CXL 3.1 makes a mailbox opcode mandatory for a Type 3 device (R306). -/
opaque mailboxMandatory : Nat → Bool

/-! ### Cryptography of outside standards -/

/-- SM3 digest, 32 bytes. -/
opaque sm3 : List Byte → List Byte
/-- SM2 verification of the 64-byte signature over a message under the key of a key slot (R384). -/
opaque sm2Valid : Nat → List Byte → List Byte → Bool
/-- Signature by the alias key of a start (R387). -/
opaque aliasSign : Nat → List Byte → List Byte
/-- A service token's validity for the serial number and nonce (R383). -/
opaque tokenValid : U64 → List Byte → List Byte → Bool
/-- What service inspection reads of a tract (R383). -/
opaque inspection : Nat → Nat → List Byte

/-- Sign of a zero that stochastic rounding makes of a negative value, by that value and its draw: R66 does not say which (true:
negative). -/
opaque zeroSign : F32 → Nat → Bool
/-- T′ of OPT_STEP for a step count of 2^24 or more, which R142 shuts out. -/
opaque stepValue : Nat → F32

/-! ### Calibration held in flash -/

/-- Weight of power counter `k` of R345 in units of 0.1 pJ at 0.90 V. -/
opaque weight : Nat → Nat
/-- Leakage in milliwatts of a tract at n (0: held at 0.55 V) and a temperature in 0.0625 K (R345). -/
opaque leakage : Nat → Nat → Int → Nat
/-- Floor estimate in milliwatts from the floor's own counters (R345). -/
opaque floorPower : Nat → Nat
/-- CHARGE(t, n) of R355 in tenths of a watt. -/
opaque charge : Nat → Nat → Nat
/-- Grove charge of R353 in tenths of a watt. -/
opaque groveCharge : Nat
/-- Full-rate arithmetic allowance of a tract in tenths of a watt (R339). -/
opaque fullRate : Nat → Nat
/-- Temperature that a leakage current of a layer area stands for, in units of 0.0625 K (R366). -/
opaque leakageCurve : Nat → Nat → Nat → Int
/-- H_k of R366, in units of 0.0001 K/W, by layer and area. -/
opaque selfHeating : Nat → Nat → Nat
/-- Nominal case-to-coolant resistance R_nom in units of 10^-7 K/W (R362); never 0 in use. -/
opaque rNom : Nat
/-- Canopy-to-case resistance R_jc in units of 10^-7 K/W (R367). -/
opaque rJc : Nat
/-- One step of the 4 s smoothing of R_meas (R367): old value, new sample, in units of 10^-7 K/W. -/
opaque smoothRth : Int → Int → Int
/-- Trained per-layer phase offset of a channel (R29), by core, layer and draw. -/
opaque phaseOffset : Nat → Nat → Nat → Nat

end Sys2Proof.Config
end

