-- ==== Sys2Proof/Machine/State.lean ====
section
/-! DEFINITION. The state of the block: plain data, holding every register, table, buffer, counter
and pin the spec gives it, the queue of waiting commands, and what the block has driven at its ports. -/
namespace Sys2Proof.Machine

/-- Why a command cannot be carried out at all. -/
inductive Fault where
  /-- Raised by a meaning whose command carries an operand that no sender can form (a flit that is not
  256 bytes, a layer number outside the stack, a sensor that does not exist). Safe: the block has no
  behaviour for it to differ from. -/
  | illFormed
deriving DecidableEq, Repr

/-- Why a command has no meaning. -/
inductive Refusal where
  /-- Raised by the dispatch alone, for a row not modelled yet. Safe. -/
  | notModelled (mnemonic : String)
deriving DecidableEq, Repr

/-! ### What leaves the block -/

/-- A completion entry (R326), less its PHASE, which the pair's pass gives. -/
structure Completion where
  tag : U32
  status : BitVec 16
  reserveLow : Bool
  phase : Bool
  detail : U32
  result : List Byte
  cseq : U32
deriving DecidableEq, Repr

/-- What a bank serves at a boundary: a refresh issued to all 16 segments, a CXL.mem access, another access. -/
inductive BankService where
  | refresh | cxl | other
deriving DecidableEq, Repr

/-- What the block drives at its ports, in order. -/
inductive Output where
  /-- A completion written into slot `slot` of the completion ring of a pair. -/
  | completion (qp : BitVec 6) (slot : Nat) (c : Completion)
  /-- An MSI-X message. -/
  | msix (vector : Nat)
  /-- Bytes written to host memory. -/
  | hostWrite (addr : U64) (bytes : List Byte)
  /-- A CXL.mem read's data; poison when the flag is set. -/
  | cxlData (bytes : List Byte) (poison : Bool)
  /-- Completion of a configuration request: Request Retry Status, or the register. -/
  | configRetry
  | configData (value : U32)
  /-- The primary mailbox's answer: a return code and a payload. -/
  | mailbox (supported : Bool) (payload : List Byte)
  /-- The answer to an I3C read; none when the target does not acknowledge. -/
  | i3c (value : Option U32)
  /-- An SPDM response and its signature. -/
  | spdm (body signature : List Byte)
  /-- What service inspection returns for a tract. -/
  | inspection (tract : Nat) (bytes : List Byte)
  /-- The 256 bytes of a flit sent on a link (R271). -/
  | flit (link : Nat) (bytes : List Byte)
  /-- A packet delivered to the canopy in flow order (R283). -/
  | delivered (p : FabPacket)
  /-- A canopy packet sent on an output port (0 north, 1 south, 2 east, 3 west), ejected, or down a shaft. -/
  | netForward (grove : BitVec 12) (dir : Nat) (p : NetPacket)
  | netEject (grove : BitVec 12) (p : NetPacket)
  | netShaft (grove : BitVec 12) (p : NetPacket)
  /-- Row maxima and partials a unit sends to the combining grove (R211). -/
  | unitMaxima (unit : Nat) (maxima : List F32)
  | unitPartials (unit : Nat) (l : List (Option Int)) (a : List (List (Option Int)))
  /-- What the banks of a clearing channel served at a boundary, in order (R209). -/
  | boundary (unit : Nat) (served : List BankService)
  /-- A management or channel command: REFRESH, MODE, a reissue (R26, R191). -/
  | channel (core : Nat) (cmd : U32)
  /-- The same command sent by every channel controller (R26: LAYER 31). -/
  | channels (cmd : U32)
deriving DecidableEq, Repr

/-! ### Pins, start-up, CXL port and BAR0 -/

/-- The contacts that carry a level (R433); true means asserted for the active-low ones. -/
structure Pins where
  vin : Bool
  perst : Bool
  brake : Bool
  alert : Bool
  thermtrip : Bool
  railOff : Bool
deriving DecidableEq, Repr

/-- Start-up (R417 to R424). -/
structure StartUp where
  stage : Byte
  ready : Bool
  oos : Bool
  oosCause : Nat
  /-- Clocks stopped and DRAM in self-refresh until a cold start (R335, R372). -/
  halted : Bool
  /-- A warm reset is in progress: stopped, waiting for PERST# to be released. -/
  inReset : Bool
  /-- Every DRAM layer is in self-refresh. -/
  selfRefresh : Bool
  i3cAddr : BitVec 7
  coldCount : U32
  createCount : U32
deriving DecidableEq, Repr

/-- An HDM decoder (R307, R308). -/
structure Decoder where
  committed : Bool
  base : U64
  size : Nat
  bound : Option (BitVec 4 × U32)
  /-- The recorder entry of this second is written (R307). -/
  noted : Bool
deriving DecidableEq, Repr

/-- The CXL port (R304 to R310). -/
structure CxlPort where
  up : Bool
  trained : Bool
  x4 : Bool
  badLanes : BitVec 8
  decoders : List Decoder
  /-- IDE streams in the error state, and the number of keys set on each stream. -/
  ideError : List Byte
  ideKeys : List (Byte × Nat)
deriving DecidableEq, Repr

/-- An MSI-X table entry: address, data, vector control. -/
structure MsixEntry where
  addr : U64
  data : U32
  ctrl : U32
deriving DecidableEq, Repr

/-- The registers of BAR0 that hold state of their own (R312 to R316, R413). -/
structure Bar0 where
  requested : BitVec 128
  agreed : BitVec 128
  /-- The first NEGOTIATE since a reset has taken effect; DEV_STATUS.AGREED. -/
  negotiated : Bool
  admqEn : Bool
  admqDel : Bool
  admqSq : U64
  admqCq : U64
  admqCfg : BitVec 5
  qerr : U64
  events : BitVec 5
  mask : BitVec 5
  msix : List MsixEntry
  pba : BitVec 65
  recStart : U64
  recBusy : Bool
  recGap : Bool
  recCount : Nat
  recFirst : U64
  /-- The bytes of the whole records in the window. -/
  window : List Byte
deriving DecidableEq, Repr

/-! ### Queue pairs -/

/-- Who is answered when a command ends: the pair and the tag; nobody once a Function Level Reset has ended the
command (R423, R327). -/
structure Origin where
  qp : BitVec 6
  tag : U32
  dead : Bool
deriving DecidableEq, Repr

/-- Active, stopped by a queue error, or being deleted (R321). -/
inductive PairState where
  | active | stopped | deleting
deriving DecidableEq, Repr

/-- A command fetched and not yet finally completed. -/
structure Outstanding where
  tag : U32
  opcode : BitVec 16
  accepted : Bool
  /-- It waits behind a FENCE, or for one of its own, and has not started (R324). -/
  waits : Bool
deriving DecidableEq, Repr

/-- A completion that waits for room in its ring or for the link (R319, R333). -/
structure Waiting where
  tag : U32
  status : BitVec 16
  detail : U32
  result : List Byte
deriving DecidableEq, Repr

/-- A queue pair (R317 to R321). -/
structure QueuePair where
  qp : BitVec 6
  /-- Operator role; tenant otherwise. -/
  operator : Bool
  /-- Bound partition and context; none is 0xFF, any. -/
  part : Option (BitVec 4)
  ctx : Option (BitVec 3)
  expertOk : Bool
  quietAccept : Bool
  vector : Nat
  coalCount : Nat
  coalTime : Nat
  sqBase : U64
  cqBase : U64
  depth : Nat
  /-- Fetch point and tail of the submission ring. -/
  fetch : Nat
  tail : Nat
  /-- Next completion slot and the host's head. -/
  slot : Nat
  head : Nat
  phase : Bool
  cseq : U32
  gathered : Nat
  state : PairState
  /-- The command that deletes the pair (none: ADMQ_EN cleared). -/
  deleter : Option Origin
  outstanding : List Outstanding
  /-- Completions that wait, oldest first. -/
  waiting : List Waiting
  /-- Commands fetched behind a FENCE that has not started, oldest first (R324). -/
  fenced : List Packet
  /-- Energy charged to the pair, in nanojoules, and the value published last (R356). -/
  energy : Nat
  pubEnergy : Nat
deriving DecidableEq, Repr

/-! ### Line tags -/

/-- STATE of a line's tag (R183); a line not listed is free. -/
inductive LineState where
  | valid | lost
deriving DecidableEq, Repr

/-- The tag of a line that is not free. -/
structure LineTag where
  line : Nat
  gen : Bool
  state : LineState
deriving DecidableEq, Repr

/-! ### Regions, plans, steps -/

/-- A region (R179). -/
structure Region where
  handle : U32
  kind : Nat
  host : Bool
  zero : Bool
  lfirst : Nat
  lcount : Nat
  cfirst : Nat
  ccount : Nat
  /-- The tracts its partition held when it was made: R178 counts columns over these. -/
  tracts : U64
  /-- The zero fill of REGION_ALLOC runs; who is answered. -/
  filling : Option Origin
deriving DecidableEq, Repr

/-- A tensor of a plan: its descriptor (R49, R149). MAXEXP and L2SCALE are the present values. -/
structure Tensor where
  format : Nat
  nflags : Nat
  maxexp : Int
  l2 : F32
  id : U32
  blockDim : Nat
  seqDim : Nat
  seqmax : Nat
  data : Nat
  scales : Nat
  ext : List Nat
  ndim : Nat
  locus : Nat
  span : Nat
  colstep : Nat
deriving DecidableEq, Repr

/-- An index array of a plan (R152). -/
structure IndexArr where
  addr : Nat
  count : Nat
  width : Nat
  span : Nat
  colstep : Nat
deriving DecidableEq, Repr

/-- A binding entry (R155). -/
structure Binding where
  index : Nat
  word : Nat
  dir : Nat
  elem : Nat
deriving DecidableEq, Repr

/-- A loaded plan (R147 to R157). Operators and expert blocks are kept as their 64 bytes. -/
structure Plan where
  handle : U32
  ctx : BitVec 3
  batched : Bool
  batchMax : Nat
  ops : List (List Byte)
  tensors : List Tensor
  index : List IndexArr
  place : List (U64 × U64)
  expert : List (List Byte)
  edges : List (Nat × Nat)
  binds : List Binding
  image : List Byte
  fill : Nat
  wait : Nat
  /-- PLAN_UNLOAD waits for the plan's steps; who is answered. -/
  unloading : Option Origin
deriving DecidableEq, Repr

/-- An image copied by PLAN_LOAD whose validation runs (R156). -/
structure Loading where
  origin : Origin
  part : BitVec 4
  ctx : BitVec 3
  expert : Bool
  image : List Byte
deriving DecidableEq, Repr

/-- A step submission accepted and not yet released (R161). -/
structure Held where
  origin : Origin
  plan : U32
  cfgver : U32
  words : List U64
  /-- Fetch order. -/
  order : Nat
  /-- It waits for earlier commands of its pair (FENCE). -/
  fence : Bool
deriving DecidableEq, Repr

/-- The held steps of one BATCHED plan and context (R165), in slot order. -/
structure BatchSet where
  plan : U32
  steps : List Held
  /-- The set is to be released as soon as its context may release (R170); the flag is the late bit of R163. -/
  due : Option Bool
deriving DecidableEq, Repr

/-- A released step: one batch (R162). -/
structure Batch where
  plan : U32
  steps : List Held
  /-- Released by the wait limit or by PLAN_UNLOAD (detail bit 30). -/
  late : Bool
  /-- The division rule in force at the release: MODE and BSPLIT (R221). -/
  divMode : Nat
  bsplit : Nat
deriving DecidableEq, Repr

/-- A page attached to a sequence's layer (R236). STATE, KMAX and VMAX of its entry follow from the lines and
the length, so they are computed when they are read. -/
structure PageEntry where
  /-- WHERE: a root page; a clearing page otherwise. -/
  root : Bool
  /-- LOC: granule number + 1,024 × unit (clearing), or region offset ÷ 1,024 (root). -/
  loc : Nat
  /-- Where CACHE_MIGRATE or firmware copies the page while it is MOVING, and whether the copy starts again. -/
  moving : Option (Bool × Nat)
  restart : Bool
deriving DecidableEq, Repr

/-- LENGTH, KMAX, VMAX, pages and tail staging of one sequence's layer. -/
structure LayerRec where
  seq : Nat
  layer : Nat
  length : Nat
  kmax : Int
  vmax : Int
  pages : List PageEntry
  staging : List (BitVec 16)
deriving DecidableEq, Repr

/-- A sequence record (R237); only open sequences are listed. -/
structure SeqRec where
  seq : Nat
  tokAddr : Nat
  tokSize : Nat
  tokCount : Nat
deriving DecidableEq, Repr

/-- An open cache (R227). -/
structure Cache where
  handle : U32
  layout : Nat
  bf16 : Bool
  pageLog2 : Nat
  spill : Bool
  nlayer : Nat
  hl : Nat
  d : Nat
  ctx : BitVec 3
  maxseq : Nat
  pool : U32
  spillreg : Option U32
  stagingReg : Option U32
  group : Option U32
  chunkPages : Nat
  recomp : Option U32
  rtokidx : Nat
  rchunk : Nat
  seqs : List SeqRec
  layers : List LayerRec
  /-- Migrations in progress: who is answered, sequence, first layer, layers, pages switched so far. -/
  migrations : List (Origin × Nat × Nat × Nat × Nat)
deriving DecidableEq, Repr

/-- An entry of a feeder queue (R85): 16 elements in the operand's format, the scale code of their block or 127, and the
elements that the scale check has marked as NaN (R51, R89). -/
structure FeedEntry where
  bytes : List Byte
  scale : Byte
  nan : BitVec 16
deriving DecidableEq, Repr

/-- Where a feeder loads from (R84): the grove store, at an offset of a share or where network data landed (a place that the spec does
not give), the operand staging of a core of its row or column, where a device line lies, or its backing bank from an entry on. -/
inductive FeedSource where
  | store (offset : Nat)
  | landed
  | staging (core line : Nat)
  | bank (entry : Nat)
deriving DecidableEq, Repr

/-- One load of a feeder's stream program (R84, R85, R88): the source, the row of A or column of B, the block of 32 positions of
it that it brings, and from which entry of the backing bank on it is kept for replay. -/
structure FeedLoad where
  source : FeedSource
  vec : Nat
  block : Nat
  keep : Option Nat
deriving DecidableEq, Repr

/-- A row or column feeder of a grove (R84 to R88): the loads still to issue, the fetches outstanding (at most 16), the queue
(at most 32 entries) and the backing bank (at most 64). -/
structure Feeder where
  col : Bool
  num : Nat
  program : List FeedLoad
  fetching : List FeedLoad
  queue : List FeedEntry
  bank : List FeedEntry
deriving DecidableEq, Repr

/-- An accumulator of a core (R76, R79, R82): its index, its 128 bits, and the products added since its CLEAR. -/
structure Accum where
  index : Nat
  value : BitVec 128
  products : Nat
deriving DecidableEq, Repr

/-- What a core holds (R76), by its lattice place 16 i + j (R77): the accumulators written in this operator (an accumulator not
listed holds nothing that any rule gives), the line slots of operand staging (slot, device line, bytes), oldest first, and the
bytes of its 4 KiB core store that are not zero (R92). -/
structure CoreRec where
  core : Nat
  accs : List Accum
  staging : List (Nat × Nat × List Byte)
  store : List Host.Cell
deriving DecidableEq, Repr

/-- A grove: its cores, its 32 feeders, the bytes of its grove store by offset that have been written (R90, R93; others are
undefined), and the AA128 sum registers of its 64 vector lanes (R94). -/
structure Grove where
  num : Nat
  cores : List CoreRec
  feeders : List Feeder
  store : List Host.Cell
  lanes : List (BitVec 128)
deriving DecidableEq, Repr

/-- A note gathered for the recorder by a step: operator, kind of STEP_NOTE (3: lines, FREE_READ), count. -/
structure Note where
  op : Nat
  kind : Nat
  count : Nat
deriving DecidableEq, Repr

/-- The step a context runs (R162, R168). -/
structure RunningStep where
  batch : Batch
  /-- Operators completed. -/
  done : List Nat
  /-- Every cache of the context as it was before the step (R159, R242). -/
  before : List Cache
  /-- Lines that overwrites of the step have changed or opened, as they were: line, bytes, seal of its granule (R125: a step that
  fails leaves its caches as it found them). -/
  overwritten : List (Nat × List Byte × Option U32)
  /-- Lost data met: source, operator, first address, lines (R407). -/
  lost : Option (Nat × Nat × Nat × Nat)
  /-- KV_SCATTER ended the step with NO_RESOURCE (R125). -/
  noResource : Bool
  replays : Nat
  notes : List Note
  /-- Group operations completed: operator, group, CSEQ; an edge from one needs its release (R297). -/
  groupOps : List (Nat × U32 × Nat)
  /-- Outputs (operator, tensor) whose health record is generated: one each, replays or not (R75). -/
  healthDone : List (Nat × Nat)
  /-- Operators whose own maxima have been given to the group's tree (R234). -/
  maxGiven : List Nat
deriving DecidableEq, Repr

/-- An attached health ring (R70, R71); CONSUMED is read from its header in memory. -/
structure HealthRing where
  base : Nat
  records : Nat
  produced : Nat
  dropped : Nat
deriving DecidableEq, Repr

/-- A context of a partition (R170). -/
structure Context where
  weight : Nat
  slice : Nat
  save : Nat
  saveSize : Nat
  /-- Running time granted so far, in slices, for the choice by WEIGHT (R171). -/
  served : Nat
  ring : Option HealthRing
  healthSeq : U64
  sets : List BatchSet
  /-- Accepted steps of plans not BATCHED, or not yet eligible behind a FENCE. -/
  ineligible : List Held
  released : List Batch
  step : Option RunningStep
  /-- The understory, feeders and accumulators of the partition's groves as saved when the context was switched out within a
  step (R172). -/
  saved : List Grove
deriving DecidableEq, Repr

/-- The device's recovery actions (R400, R401). -/
inductive Action where
  | replay
  /-- Regenerate a sequence from a position on; its damaged pages, as layer and index, which are lost if that fails (R246). -/
  | recompute (cache : U32) (seq : Nat) (first : Nat) (bad : List (Nat × Nat))
  | rehome (core : Nat)
  | absorb (layer : Nat)
  | migrate (unit : Nat)
  | remap (tract : Nat)
deriving DecidableEq, Repr

/-- An action in a recovery queue: the record that reported its fault, and whether it has begun. -/
structure Job where
  act : Action
  cause : Option Nat
  begun : Bool
deriving DecidableEq, Repr

/-- A partition (R376 to R397). -/
structure Partition where
  num : BitVec 4
  tracts : U64
  scrubbing : Bool
  confidential : Bool
  inst : U64
  /-- Key state: live (not NONE), sweeping, generation for writes, rotations (R391). -/
  keyLive : Bool
  sweeping : Bool
  gen : Bool
  rotations : U32
  sweepSince : Nat
  energy : Nat
  pubEnergy : Nat
  release : Option Origin
  regions : List Region
  plans : List Plan
  caches : List Cache
  contexts : List Context
  /-- The context that runs, whether its slice has expired, and the context being switched to. -/
  current : BitVec 3
  expired : Bool
  switching : Option (BitVec 3)
  divMode : Nat
  bsplit : Nat
  freq : Nat
  /-- No tract runs and none is free: steps are held (R402). -/
  stranded : Bool
  recovery : List Job
  /-- The action of the partition's recovery queue that runs (R401). -/
  acting : Option Job
  /-- Commands that wait for the running step: CACHE_SEQ (R239), as fetched. -/
  deferred : List Packet
  /-- Phase profiles (R351): tag, tract, DA and DV in milliwatts. -/
  profiles : List (Nat × Nat × Nat × Nat)
deriving DecidableEq, Repr

/-! ### Memory -/

/-- Registers of one DRAM layer, physical 2 to 22 (R194). -/
structure LayerRegs where
  layer : Nat
  scrubCtl : U32
  /-- Next LINE of each channel that has begun the present pass; the others are at line 0 (R192). -/
  progress : List (Nat × Nat)
  passes : BitVec 16
  cebktCfg : U32
  level : BitVec 24
  ovf : Byte
  corr : U32
  uncorr : U32
  recon : U32
  lostLines : U32
deriving DecidableEq, Repr

/-- How a column's lanes and channel stand (R31 to R38). -/
inductive ChannelMode where
  /-- A data or check lane, corrected on every burst; being copied to the rehoming area of a tract, where one has room. -/
  | corrected (lane : Nat) (dest : Option Nat)
  /-- A command or strobe lane is missing (R38); being copied. -/
  | degraded (lane : Nat) (dest : Option Nat)
  | retired (dest : Option Nat)
  /-- A second lane failed during the copy: the root column is served from the rehoming area, and the clearing segments have no
  reading path (R41). -/
  | broken (dest : Option Nat)
  /-- No reading path remains (R41). -/
  | failed
deriving DecidableEq, Repr

/-- A channel that is not in normal service. -/
structure ChannelRec where
  core : Nat
  mode : ChannelMode
deriving DecidableEq, Repr

/-- A replacement lane in training (R33). -/
structure LaneTraining where
  core : Nat
  lane : Nat
  spare : Nat
  segment : Nat
deriving DecidableEq, Repr

/-- Corrections by lane that a channel controller has counted (R33): the channel's bursts, and for each correction confined to one
lane within the last 2^20 bursts the lane and the count of bursts at it. -/
structure LaneCtr where
  core : Nat
  bursts : Nat
  hits : List (Nat × Nat)
deriving DecidableEq, Repr

/-! ### Near-bank units -/

/-- STATE of R225. -/
inductive UnitState where
  | inService | untested | testing | failed
deriving DecidableEq, Repr

/-- Pass 1 done, scores and maxima kept; the task waits for the final maxima (R211). -/
structure UnitTask where
  task : Task
  maxima : List F32
  /-- Scores of pass 1 that the score buffer holds, 4,096 at most, position by position. -/
  scores : List F32
deriving DecidableEq, Repr

/-- A near-bank unit and its clearing channel (R201 to R225). Units not listed are as `State.freshUnit`. -/
structure NbUnit where
  unit : Nat
  state : UnitState
  processor : Bool
  /-- Seal table: granule and CRC of the sealed granules (R208). -/
  seals : List (Nat × U32)
  reloading : Bool
  work : Option UnitTask
  waitingTasks : List Task
  /-- Repair reads of granules, each for a task or for the scrubber; the first of them runs (R216). -/
  repairing : List (Nat × Option Task)
  /-- Sums of the last task in the accumulator store (R202): L and the A_d, row by row. -/
  accs : List (Option Int)
  /-- Tag cache (R202): the tag lines read last, at most 8 of a segment, as segment and tag line. -/
  tagCache : List (Nat × Nat)
  /-- What the last self-test left in the test lines: bytes that the free values of this draw name; none when it has not been tested
  since the device was made or scrubbed. -/
  testLines : Option Nat
  /-- The unit has passed a self-test since the last start; a FAILED unit is to be tested after a cold start (R220). -/
  tested : Bool
  retest : Bool
  /-- Vertical-channel accesses other than CXL.mem held from one boundary to the next (R209). -/
  held : Nat
  /-- Refreshes owed by each of its 16 segments, at most 4 (R213). -/
  owed : List Nat
  /-- Elapsed milliseconds at the last unit fault (R216: two within an hour withdraw the unit). -/
  lastFault : Option Nat
  /-- The unit has FAILED and its pages are not yet migrated; or they have nowhere to go (R245). -/
  migrating : Bool
  stranded : Bool
  tasks : U64
  slices : U64
  bytesRead : U64
  rescored : U64
  waitCycles : U64
  mismatches : U32
  owedMax : BitVec 16
  unitFaults : BitVec 16
  refreshes : U64
deriving DecidableEq, Repr

/-! ### Canopy -/

/-- Lattice counters of a grove (R106). -/
structure LatticeCtr where
  grove : Nat
  passes : U64
  bubbles : U64
  retries : U64
  vector : U64
  replayed : U64
  stretched : U64
  cycles : U64
deriving DecidableEq, Repr

/-- Network counters of a router (R266). -/
structure NetCtr where
  grove : Nat
  ctrl : U64
  red : U64
  bulk : U64
  mig : U64
  stalls : U64
  seam : U64
  resends : U64
deriving DecidableEq, Repr

/-- A mesh link that is not as built, or that has carried flits: the link leaving a router in a direction, its failing wires,
the flits that have crossed it, and for each correction of the last 2^20 flits its wire and the flit count at it (R251, R262). -/
structure MeshLink where
  grove : Nat
  dir : Nat
  wires : List Nat
  stage : MeshStage
  flits : Nat
  corrections : List (Nat × Nat)
deriving DecidableEq, Repr

/-- A flit of a canopy packet: its place in the packet (0 is the header), and the routers it is for. -/
structure NetFlit where
  pkt : NetPacket
  index : Nat
  dests : List Nat
deriving DecidableEq, Repr

/-- Flits at an input port of a router (0 north, 1 south, 2 east, 3 west, 4 local, 5 shaft, 6 the relay buffer), of one VC and
one order (R253, R262): those that have no room yet, and the buffer, oldest first. -/
structure NetBuf where
  port : Nat
  vc : Nat
  yFirst : Bool
  offered : List NetFlit
  flits : List NetFlit
deriving DecidableEq, Repr

/-- An output port of a router (0 to 3, 4 local, 5 shaft): the cycles it is still busy, the last slots that no control flit
took, newest first (whether a waiting bulk flit, and a waiting cache-migration flit, was passed over), and the replay buffer of
its link, newest first (R251, R253). -/
structure NetPort where
  dir : Nat
  busy : Nat
  slots : List (Bool × Bool)
  replay : List NetFlit
deriving DecidableEq, Repr

/-- A router (R250 to R254). `localGap` and `shaftGap` are the cycles until the port may inject a control packet again; `pace` is
what ejection into the grove store has saved up, 64 for one flit (R261). -/
structure Router where
  grove : Nat
  bufs : List NetBuf
  ports : List NetPort
  localGap : Nat
  shaftGap : Nat
  pace : Nat
deriving DecidableEq, Repr

/-! ### Fabric -/

/-- States of a link (R276). -/
inductive LinkState where
  | disabled | training | up | half | down
deriving DecidableEq, Repr

/-- What a flit that takes a sequence number carries: a flit of a packet, or a HELLO (R271, R276). -/
inductive FlitBody where
  | data (p : FabPacket) (index : Nat)
  | hello
deriving DecidableEq, Repr

/-- A flit in the replay buffer (R272), with its sequence number. -/
structure Replay where
  lseq : Nat
  flit : FlitBody
deriving DecidableEq, Repr

/-- A Fezon link (R268 to R279). -/
structure Link where
  num : Nat
  state : LinkState
  width : Nat
  badLanes : BitVec 8
  peerId : BitVec 15
  peerLink : Byte
  /-- Next LSEQ to send, last acknowledged, next expected, NAK sent for the present gap. -/
  txNext : Nat
  acked : Nat
  rxNext : Nat
  naked : Bool
  replay : List Replay
  /-- Flits waiting for credits or room, oldest first. -/
  queue : List FlitBody
  /-- Credits held for the far end's buffers, per VC. -/
  credits : List Nat
  /-- Flits of buffer freed here whose credit has not gone back yet, per VC (R274). -/
  owed : List Nat
  /-- Of the last 64 slots, newest first: whether a waiting bulk flit, and a waiting cache-migration flit, was passed over
  (R253, R274). -/
  slots : List (Bool × Bool)
  /-- DISABLE has been given and the replay buffer is not empty yet (R279). -/
  closing : Bool
  /-- Bytes of the packet in progress, per VC. -/
  partialPkt : List (List Byte)
  /-- Elapsed milliseconds at the times it went DOWN within the last hour (R276). -/
  downTimes : List Nat
  latched : Bool
  cwCorrected : U64
  cwUncorr : U64
  replays : U64
  flitsTx : U64
  flitsRx : U64
  downs : U32
  ackMax : U32
  stalls : U64
deriving DecidableEq, Repr

/-- A flow (R283): group, epoch, source and destination fabric address, VC, next PSEQ expected. -/
structure Flow where
  group : U32
  epoch : U32
  src : Nat
  dst : Nat
  vc : Nat
  next : Nat
deriving DecidableEq, Repr

/-- State of R294. -/
inductive GroupState where
  | joining | member | changing | leaving
deriving DecidableEq, Repr

/-- What the coordinator gathers (R290). -/
structure Proposal where
  joins : List Nat
  leaves : List Nat
  evicts : List Nat
  /-- PREPARE has been sent: the proposed list, and the answers (address, S, PINNED). -/
  sent : Bool
  members : List Nat
  answers : List (Nat × Nat × Bool)
  /-- Joiners whose JOIN set PINNED (R291). -/
  pinned : List Nat
deriving DecidableEq, Repr

/-- A partial of one segment of a collective, as it has come (R295) or as this member has formed it (R296). -/
structure Partial where
  cseq : Nat
  offset : Nat
  anchor : Int
  format : Nat
  widened : Bool
  lo : Nat
  hi : Nat
  elems : List (BitVec 128)
  /-- Ranks in a chunk of 2^24 products for a partial of this member's own; 0 for one that has come in. -/
  per : Nat
  /-- Places that a whole chunk is shifted: the result's anchor less the contributions'. -/
  shift : Nat
  /-- Elements that each rank keeps of a REDUCE_SCATTER; 0 where every rank gets the result. -/
  share : Nat
  /-- Sent up the tree: only the result is still to come. -/
  sent : Bool
deriving DecidableEq, Repr

/-- A group a partition belongs to or joins (R288 to R300). -/
structure Group where
  id : U32
  part : BitVec 4
  coord : Nat
  minMembers : Nat
  epoch : Nat
  members : List Nat
  state : GroupState
  cseq : Nat
  /-- Commands that end when the next view commits: GROUP_JOIN, and GROUP_ADMIN EVICT on the coordinator. -/
  waiters : List Origin
  leaver : Option Origin
  /-- The proposed view that PREPARE has brought: epoch, number of members, members received so far. -/
  prepared : Option (Nat × Nat × List Nat)
  /-- Switching to this view once operations below B are done: epoch, B, number of members, members received so far. -/
  commit : Option (Nat × Nat × Nat × List Nat)
  stopped : Bool
  proposal : Proposal
  /-- Members whose RECOORD to a new coordinator has come, and the coordinator that it replaces (R293). -/
  recoords : List Nat
  replaced : Option Nat
  follow : Bool
  floor : Nat
  notices : List (Nat × Nat × Nat × Nat)
  noticeNo : Nat
  lastPace : Nat
  lastCause : Nat
  /-- Tokens held: operation and rank; releases that have arrived. -/
  tokens : List (Nat × Nat)
  releases : List Nat
  agrees : List (Nat × Nat × Bool)
  partials : List Partial
  waitSeconds : Nat
deriving DecidableEq, Repr

/-- The fabric (R268 to R303). -/
structure Fabric where
  devId : BitVec 15
  links : List Link
  /-- Route entries written: destination and entry; others are zero. -/
  routes : List (Nat × U64)
  groups : List Group
  flows : List Flow
  /-- Packets that wait in the reorder store, arrivals at the floor router, packets without a route. -/
  reorder : List FabPacket
  arrivals : List FabPacket
  held : List FabPacket
  /-- Flows (group, epoch, source, destination) whose traffic a REFUSED made the source discard. -/
  refused : List (U32 × U32 × Nat × Nat)
  /-- Sources and destinations noted in this second (R285, R301). -/
  noted : List (Nat × Nat)
deriving DecidableEq, Repr

/-! ### Power and thermal -/

/-- Power state of a tract (R353, R358). -/
inductive TractPower where
  | off | poweringOn | parked | running | offline
deriving DecidableEq, Repr

/-- A tract's record of power control. -/
structure TractRec where
  num : Nat
  power : TractPower
  /-- Issue share m (R342). -/
  m : Nat
  /-- Groves ungated while powering on, and whether the one step-down has been spent (R353). -/
  groves : Nat
  stepped : Bool
  /-- A regulator failed while the tract powers on: staging pauses for one period (R361). -/
  paused : Bool
  /-- Corrected estimate of the last period in nanojoules; grant and demand in milliwatts; the vertical share in 1/1,024. -/
  est : Nat
  grant : Nat
  demand : Nat
  lineBudget : Nat
  /-- Corrected energies of the last 250 periods (1 ms), newest first, in nanojoules. -/
  hist : List Nat
  /-- Sums of power, grant and demand over the periods since the last publication, and the means published (R358). -/
  secPower : Nat
  secGrant : Nat
  secDemand : Nat
  pubPower : Nat
  pubGrant : Nat
  pubDemand : Nat
  hot : Bool
deriving DecidableEq, Repr

/-- A regulator that is not sound: die, index, suspect (limited to half) or failed, excess checks counted. -/
structure Regulator where
  die : Nat
  index : Nat
  suspect : Bool
  failed : Bool
  excess : Nat
deriving DecidableEq, Repr

/-- The power controller (R334 to R360): limits in watts, amperes and seconds. -/
structure Power where
  cap : Nat
  burst : Nat
  window : Nat
  fastA : Nat
  contA : Nat
  nWest : Nat
  nEast : Nat
  /-- Set points of the plots of each half, in half-microvolts (R336, R341). -/
  setWest : Nat
  setEast : Nat
  targetWest : Nat
  targetEast : Nat
  brake : Bool
  limiter : Nat
  /-- The correction factor, as binary32 and as the ratio measured : estimated (R346). -/
  correction : F32
  corrNum : Nat
  corrDen : Nat
  corrSuspect : Bool
  /-- Package allowance of the present period in milliwatts (R348). -/
  allowance : Nat
  /-- VIN and rail current measured in the last 250 periods, newest first: millivolts, milliamperes. -/
  voltHist : List Nat
  ampHist : List Nat
  /-- Energies of past periods, newest first, in nanojoules: estimated package (over WINDOW), measured package and
  estimated canopy (over 1 s), L6 to L22 and L2 to L5 (over 1 ms); milliamperes over 10 ms. -/
  energyHist : List Nat
  measHist : List Nat
  canopyHist : List Nat
  rootHist : List Nat
  clearHist : List Nat
  railHist : List Nat
  /-- Sum of the estimates since the last correction, in nanojoules. -/
  estSince : Nat
  /-- Common factors of the line budgets and of the near-bank slices (R352), as ratios. -/
  rootScale : Nat × Nat
  clearScale : Nat × Nat
  tracts : List TractRec
  regulators : List Regulator
  /-- Plots whose cycles are stretched (R343). -/
  stretched : List Nat
  /-- Device total and UNATTRIBUTED in nanojoules (R356), and as last published. -/
  device : Nat
  unattributed : Nat
  pubDevice : Nat
  pubUnattributed : Nat
  /-- Sums since the last publication (milliwatts, milliamperes, milliwatts), periods since then, and the means published. -/
  secPower : Nat
  secIin : Nat
  secRoot : Nat
  secClearing : Nat
  secCount : Nat
  pubPower : Nat
  pubIin : Nat
  pubRoot : Nat
  pubClearing : Nat
  /-- Periods since the last 100 us boundary, and consecutive 100 us windows above the peak rail current (R335). -/
  tick : Nat
  overWindows : Nat
deriving DecidableEq, Repr

/-- A temperature sensor that has been sampled, and the checks of its area (R363 to R366). Temperatures in 0.0625 K. -/
structure Sensor where
  die : Nat
  idx : Nat
  /-- Newest first, at most 11 samples (1 ms). -/
  hist : List Int
  suspect : Bool
  /-- Ages in samples of its implausible samples of the last second; samples over which its pair has differed by more than 8 K. -/
  implausible : List Nat
  differing : Nat
  /-- The leakage thermometer's estimate of the area. -/
  leak : Option Int
  /-- What is believed: 0 the sensor, 1 the leakage thermometer, 2 the interpolation; and the value where it is an estimate. -/
  source : Nat
  estimate : Int
  /-- A note that one estimate alone was high has been written; checks in succession in which both stayed within 6 K of
  the reading. -/
  oneHigh : Bool
  agreeing : Nat
  /-- The reading stood at or above the trip limit in the last sample, as believed (R372). -/
  tripping : Bool
deriving DecidableEq, Repr

/-- Cooling (R362 to R374). -/
structure Thermal where
  /-- Inlet in 0.01 °C and flow in 0.1 L/min as last reported. -/
  inlet : Int
  flow : Nat
  /-- A COOLANT_SET is in force and not stale; seconds since it. -/
  reported : Bool
  age : Nat
  /-- R_meas in 10^-7 K/W; P_th and the effective cap in watts. -/
  rMeas : Int
  pTh : Nat
  effCap : Nat
  /-- k in thousandths. -/
  k : Nat
  warn : Nat
  stale : Nat
  alertEn : Bool
  warning : Bool
  clamp : Bool
  abrupt : Bool
  flowLow : Bool
  hiddenHot : Bool
  sensors : List Sensor
  /-- Sums of the hottest temperatures and of R_meas since the last publication, how many, and the means published. -/
  secHottest : List Int
  secRth : Int
  secCount : Nat
  pubHottest : List Int
  pubRth : Int
deriving DecidableEq, Repr

/-! ### Recorder, configuration, firmware -/

/-- The event recorder (R409 to R413). -/
structure Recorder where
  next : Nat
  /-- Records held: pinned and circulating, by number. -/
  records : List (Nat × List Byte)
  inSecond : Nat
  dropped : Nat
  /-- Calendar base: TIME_SET's milliseconds, UNC, and elapsed count at it; none before the first TIME_SET. -/
  time : Option (Nat × Nat × Nat)
deriving DecidableEq, Repr

/-- A configuration set kept in flash (R414). -/
structure ConfigSet where
  version : U32
  bytes : List Byte
deriving DecidableEq, Repr

/-- Configuration (R415). -/
structure ConfigStore where
  inForce : Option ConfigSet
  previous : Option ConfigSet
  pending : Bool
  /-- Sets copied by CONFIG_APPLY and not yet validated and written, oldest first. -/
  applying : List (Origin × List Byte)
deriving DecidableEq, Repr

/-- A firmware slot (R384 to R386): its image once it has passed, none when empty. -/
structure Firmware where
  slotA : Option (List Byte)
  slotB : Option (List Byte)
  /-- Slot B runs; slot B boots next. -/
  runsB : Bool
  bootB : Bool
  fusedSvn : Nat
  revoked : BitVec 4
  fallbacks : Nat
  /-- Images copied by FW_STAGE and not yet checked, oldest first. -/
  staging : List (Origin × List Byte)
  /-- The number of this start, which the alias key of R387 belongs to. -/
  aliasEpoch : Nat
deriving DecidableEq, Repr

/-- The reserve (R403): bits that meet their threshold, and counts kept nowhere else. -/
structure Reserve where
  atMask : BitVec 14
  unexplained : Nat
  queue : List Job
  running : Option Job
deriving DecidableEq, Repr

/-- The whole block. -/
structure State where
  pending : List Instr
  out : List Output
  draw : Nat
  order : Nat
  pins : Pins
  start : StartUp
  cxl : CxlPort
  bar : Bar0
  pairs : List QueuePair
  partitions : List Partition
  loading : List Loading
  mem : List Host.Cell
  /-- Parity bytes of the root stripes that have parity (R187), by 64 × (stripe: core column and LINE) and byte; one not listed is
  zero. -/
  parity : List Host.Cell
  tags : List LineTag
  /-- Tag lines changed in the caches of the channel controllers: core, layer, tag line (R183). -/
  dirtyTags : List (Nat × Nat × Nat)
  layers : List (BitVec 4)
  layersCold : List (BitVec 4)
  /-- Columns rehomed and rehoming places left at the last cold start (R40). -/
  rehomedCold : Nat × Nat
  /-- The root layer that has been mapped out over the device's life (R39). -/
  rootOut : Option Nat
  /-- Stripes absorbed out of turn, by core column and LINE, while a root layer is being absorbed (R198). -/
  absorbed : List (Nat × Nat)
  layerRegs : List LayerRegs
  scrubbing : List Nat
  repairs : List U64
  training : List LaneTraining
  laneErrors : List (Nat × Nat)
  laneCounts : List LaneCtr
  channels : List ChannelRec
  /-- Phase offsets retrained since bring-up, by core and layer; and the draw of the bring-up that trained every other (R29). -/
  phases : List (Nat × Nat × Nat)
  phasesAt : Option Nat
  units : List NbUnit
  testPeriod : Nat
  testRun : List Origin
  /-- STATE of every unit not listed: IN_SERVICE once a test of every unit has passed, UNTESTED from a start. -/
  unitsPassed : Bool
  lattice : List LatticeCtr
  /-- Groves that hold anything; the others are as `Grove.fresh`. -/
  groves : List Grove
  mesh : List MeshLink
  /-- Routers that hold a flit, a history or a wait; the others are as `Router.fresh`. -/
  routers : List Router
  distGen : U32
  net : List NetCtr
  netNoted : List Nat
  fabric : Fabric
  power : Power
  thermal : Thermal
  recorder : Recorder
  config : ConfigStore
  firmware : Firmware
  reserve : Reserve
deriving DecidableEq, Repr

/-! ### Reset values -/

/-- A decoder at reset: uncommitted, unbound. -/
def Decoder.fresh : Decoder := ⟨false, 0, 0, none, false⟩

/-- An MSI-X entry at reset: masked. -/
def MsixEntry.fresh : MsixEntry := ⟨0, 0, 1⟩

/-- BAR0 at reset (R313, R316, R318, R413). -/
def Bar0.fresh : Bar0 :=
  { requested := 0, agreed := 0, negotiated := false, admqEn := false, admqDel := false,
    admqSq := 0, admqCq := 0, admqCfg := 0, qerr := 0, events := 0, mask := 0,
    msix := List.replicate 65 MsixEntry.fresh, pba := 0, recStart := 0, recBusy := false,
    recGap := false, recCount := 0, recFirst := 0, window := [] }

/-- A context when its partition is created (R170). -/
def Context.fresh : Context :=
  { weight := 16, slice := 20000, save := 0, saveSize := 0, served := 0, ring := none, healthSeq := 0,
    sets := [], ineligible := [], released := [], step := none, saved := [] }

/-- Memory registers of a layer at reset (R194): EN and PCHK set, PERIOD 1,440; THRESH 0x1_0000, LEAK 16. -/
def LayerRegs.fresh (l : Nat) : LayerRegs :=
  { layer := l, scrubCtl := 0x05A00003, progress := [], passes := 0, cebktCfg := 0x10010000, level := 0,
    ovf := 0, corr := 0, uncorr := 0, recon := 0, lostLines := 0 }

/-- A unit from a start until its first self-test (R220): untested, memory mode, no seal. -/
def NbUnit.fresh (u : Nat) : NbUnit :=
  { unit := u, state := .untested, processor := false, seals := [], reloading := false, work := none,
    waitingTasks := [], repairing := [], accs := [], tagCache := [], testLines := none, tested := false, retest := false,
    held := 0, owed := List.replicate 16 0, lastFault := none, migrating := false, stranded := false,
    tasks := 0, slices := 0, bytesRead := 0, rescored := 0, waitCycles := 0, mismatches := 0, owedMax := 0,
    unitFaults := 0, refreshes := 0 }

def LatticeCtr.fresh (g : Nat) : LatticeCtr := ⟨g, 0, 0, 0, 0, 0, 0, 0⟩

/-- A grove with nothing in it: queues and banks empty, lane registers zero. -/
def Grove.fresh (g : Nat) : Grove :=
  { num := g, cores := [], store := [], lanes := List.replicate 64 0,
    feeders := [false, true].flatMap fun c => (List.range 16).map fun i => ⟨c, i, [], [], [], []⟩ }

/-- A router at rest: buffers empty, every credit held, ejection ready. -/
def Router.fresh (g : Nat) : Router := ⟨g, [], [], 0, 0, 64⟩

/-- A link before training: DISABLED, peer unknown, counters zero (R278). -/
def Link.fresh (n : Nat) : Link :=
  { num := n, state := .disabled, width := 0, badLanes := 0, peerId := 0x7FFF, peerLink := 0xFF, txNext := 0,
    acked := 4095, rxNext := 0, naked := false, replay := [], queue := [], credits := [32, 256, 512, 128],
    owed := [0, 0, 0, 0], slots := [], closing := false, partialPkt := [[], [], [], []], downTimes := [], latched := false, cwCorrected := 0, cwUncorr := 0,
    replays := 0, flitsTx := 0, flitsRx := 0, downs := 0, ackMax := 0, stalls := 0 }

/-- The fabric at reset: no id assigned (R280), no route, no group. -/
def Fabric.fresh : Fabric :=
  { devId := 0x7FFF, links := (List.range 64).map Link.fresh, routes := [], groups := [], flows := [],
    reorder := [], arrivals := [], held := [], refused := [], noted := [] }

/-- A tract before power-on. -/
def TractRec.fresh (t : Nat) : TractRec :=
  { num := t, power := .off, m := 32, groves := 0, stepped := false, paused := false, est := 0, grant := 0, demand := 0, lineBudget := 1024,
    hist := [], secPower := 0, secGrant := 0, secDemand := 0, pubPower := 0, pubGrant := 0, pubDemand := 0,
    hot := false }

/-- Limits of R347 at their defaults; both halves at the lowest n. -/
def Power.fresh : Power :=
  { cap := 8000, burst := 9500, window := 8, fastA := 7200, contA := 6000, nWest := 32, nEast := 32,
    setWest := 1224000, setEast := 1224000,
    targetWest := 32, targetEast := 32, brake := false, limiter := 0, correction := 0x3F800000,
    corrNum := 1, corrDen := 1, corrSuspect := false, allowance := 8000000, voltHist := [], ampHist := [],
    energyHist := [], measHist := [], canopyHist := [], rootHist := [], clearHist := [], railHist := [], estSince := 0,
    rootScale := (1, 1), clearScale := (1, 1), tracts := (List.range 64).map TractRec.fresh, regulators := [],
    stretched := [], device := 0, unattributed := 0, pubDevice := 0, pubUnattributed := 0, secPower := 0, secIin := 0,
    secRoot := 0, secClearing := 0, secCount := 0, pubPower := 0, pubIin := 0, pubRoot := 0, pubClearing := 0,
    tick := 0, overWindows := 0 }

/-- Cooling at cold start: no COOLANT_SET yet, k = 1, WARN 115, STALE 60, ALERT_EN set (R368 to R373). -/
def Thermal.fresh : Thermal :=
  { inlet := 4000, flow := 0, reported := false, age := 65535, rMeas := Config.rNom, pTh := 9500, effCap := 8000, k := 1000,
    warn := 115, stale := 60, alertEn := true, warning := false, clamp := false, abrupt := false,
    flowLow := false, hiddenHot := false, sensors := [], secHottest := [], secRth := 0, secCount := 0, pubHottest := [],
    pubRth := 0 }

/-- CORE, then LANE: the order of the repair map (R34). -/
def entryKey (e : U64) : Nat := bitsOf e.toNat 0 20 * 32 + bitsOf e.toNat 20 5

/-- A lane, a spare and a segment that an entry of the repair map can name (R34). -/
def entryGood (e : U64) : Bool :=
  let spare := bitsOf e.toNat 25 5
  let segment := bitsOf e.toNat 32 5
  bitsOf e.toNat 20 5 ≤ 22 && (spare ≤ 1 || 16 ≤ spare) && (segment ≤ 22 || segment = 31)

/-- The repairs that test left in fuses: ORIGIN and the reserved bits 0, one for each lane, in the map's order (R32, R34). -/
def fuseMap : List U64 :=
  let es := ((Config.fuseRepairs.map fun e => e &&& 0x1F3FFFFFFF).filter entryGood)
  sortBy (fun a b => entryKey a ≤ entryKey b)
    (es.foldl (fun m e => if m.any fun x => entryKey x = entryKey e then m else m ++ [e]) [])

/-- The block before VIN is applied: every register of the spec's tables at its reset value, nothing
started, nothing listed in memory; what flash and fuses hold is Config's. -/
def State.reset : State :=
  { pending := [], out := [], draw := 0, order := 0,
    pins := { vin := false, perst := true, brake := false, alert := false, thermtrip := false, railOff := false },
    start := { stage := 0, ready := false, oos := false, oosCause := 0, halted := false, inReset := false,
               selfRefresh := false, i3cAddr := 0x30, coldCount := Config.coldStarts, createCount := 0 },
    cxl := { up := false, trained := false, x4 := false, badLanes := 0,
             decoders := List.replicate 4 Decoder.fresh, ideError := [], ideKeys := [] },
    bar := Bar0.fresh, pairs := [], partitions := [], loading := [], mem := [], parity := [], tags := [], dirtyTags := [],
    layers := List.replicate 24 0, layersCold := List.replicate 24 0, rehomedCold := (0, 1344), rootOut := none, absorbed := [],
    layerRegs := (List.range 21).map fun i => LayerRegs.fresh (i + 2), scrubbing := [],
    repairs := fuseMap, training := [], laneErrors := [], laneCounts := [], channels := [], phases := [], phasesAt := none,
    units := [],
    testPeriod := 60, testRun := [], unitsPassed := false, lattice := [], groves := [], mesh := [], routers := [], distGen := 1, net := [],
    netNoted := [], fabric := Fabric.fresh, power := Power.fresh, thermal := Thermal.fresh,
    recorder := { next := Config.testRecordCount % 1025,
                  records := (List.range (Config.testRecordCount % 1025)).map fun n => (n, Config.testRecords n),
                  inSecond := 0, dropped := 0, time := none },
    config := { inForce := none, previous := none, pending := false, applying := [] },
    firmware := { slotA := some (Config.flashImage false), slotB := some (Config.flashImage true), runsB := false,
                  bootB := false, fusedSvn := 0, revoked := 0, fallbacks := 0, staging := [], aliasEpoch := 0 },
    reserve := { atMask := 0, unexplained := 0, queue := [], running := none } }

end Sys2Proof.Machine
end

