-- ==== Sys2Proof/Machine/Ops.lean ====
section
/-! DEFINITION. The named operations every meaning is built from: device memory and line tags (R183 to
R189), queue pairs and completions (R318, R319, R326 to R329), events and MSI-X (R329), the recorder
(R409 to R412), and the look-ups over the tables of the state. -/
namespace Sys2Proof.Machine

/-! ### Status codes (R327) -/

def stOk : BitVec 16 := 0x0000
def stAccepted : BitVec 16 := 0x0001
def stBadOpcode : BitVec 16 := 0x0101
def stBadLength : BitVec 16 := 0x0102
def stExceeds : BitVec 16 := 0x0103
def stFeature : BitVec 16 := 0x0104
def stExpert : BitVec 16 := 0x0105
def stConfig : BitVec 16 := 0x0106
def stNoResource : BitVec 16 := 0x0201
def stScrubbing : BitVec 16 := 0x0202
def stBusyRekey : BitVec 16 := 0x0203
def stNotPermitted : BitVec 16 := 0x0301
def stConfidential : BitVec 16 := 0x0302
def stLostData : BitVec 16 := 0x0401

/-! ### Device memory: one canonical form -/

/-- The byte at an address; an address not listed reads as zero (R184). -/
def memGet : List Host.Cell → Nat → Byte
  | [], _ => 0
  | (k, v) :: m, a => if k = a then v else memGet m a

/-- Write one byte, keeping addresses strictly rising and no zero listed. -/
def memSet : List Host.Cell → Nat → Byte → List Host.Cell
  | [], a, b => if b = 0 then [] else [(a, b)]
  | (k, v) :: m, a, b =>
    if a < k then (if b = 0 then (k, v) :: m else (a, b) :: (k, v) :: m)
    else if a = k then (if b = 0 then m else (a, b) :: m)
    else (k, v) :: memSet m a b

/-- Write cells in order. -/
def memSetAll (m : List Host.Cell) (cells : List Host.Cell) : List Host.Cell :=
  cells.foldl (fun m c => memSet m c.1 c.2) m

/-- Remove every byte whose address satisfies `p`: it reads as zero from then on. -/
def memErase (p : Nat → Bool) (m : List Host.Cell) : List Host.Cell :=
  m.filter fun c => !p c.1

/-- The canonical form: addresses strictly rising, no entry equal to what an unlisted address reads as. -/
def Memory.wf : List Host.Cell → Bool
  | [] => true
  | [(_, v)] => v != 0
  | (k, v) :: (k', v') :: m => v != 0 && decide (k < k') && Memory.wf ((k', v') :: m)

/-! ### Lines and their tags (R183, R184, R189) -/

/-- Device line number of an address: bits [41:6]. -/
def lineOf (a : Nat) : Nat := a / 64

/-- Fields of a device line number: logical layer, core column, line in the segment. -/
def lineLayer (l : Nat) : Nat := l / 2 ^ 31
def lineCore (l : Nat) : Nat := l / 2 ^ 11 % 2 ^ 20
def lineIndex (l : Nat) : Nat := l % 2 ^ 11

/-- The tag of a line; none is the free state. -/
def tagOf (tags : List LineTag) (l : Nat) : Option LineTag := tags.find? fun t => t.line = l

/-- STATE of a line: none is free. -/
def stateOf (tags : List LineTag) (l : Nat) : Option LineState := (tagOf tags l).map (·.state)

/-- Set the tag of a line, the list in rising order of lines. -/
def tagPut : List LineTag → LineTag → List LineTag
  | [], t => [t]
  | u :: us, t => if t.line < u.line then t :: u :: us else if t.line = u.line then t :: us else u :: tagPut us t

/-- Whether a physical layer has been withdrawn (state 3 of R40). -/
def layerState (s : State) (phys : Nat) : Nat := (nth s.layers phys 0).toNat

/-- A line of a clearing layer that is withdrawn (R39). -/
def withdrawnLine (s : State) (l : Nat) : Bool :=
  let y := lineLayer l
  decide (16 ≤ y) && decide (layerState s (y - 14) = 3)

/-! ### Stripes and their parity (R177, R187, R188, R198) -/

/-- Physical index of the parity line and of logical layer `l` in a stripe (R177). -/
def parityIndex (core line : Nat) : Nat := (core + line / 64) % 17
def physIndex (core line l : Nat) : Nat := (parityIndex core line + 1 + l) % 17

/-- The root layer mapped out or in reconstruction, by physical number (R39). -/
def absorbedLayer (s : State) : Option Nat :=
  ((List.range 17).map (· + 6)).find? fun l => layerState s l = 1 || layerState s l = 2

/-- A stripe has parity: no root layer is mapped out, or one is being absorbed whose line of the stripe, a data line, has not been
absorbed yet (R177, R198). -/
def stripeParity (s : State) (core line : Nat) : Bool :=
  match absorbedLayer s with
  | none => true
  | some f => layerState s f = 1 && parityIndex core line + 6 ≠ f && !s.absorbed.contains (core, line)

/-- The stripe of a line has parity; a clearing line has none (R177). -/
def hasParity (s : State) (l : Nat) : Bool := decide (lineLayer l < 16) && stripeParity s (lineCore l) (lineIndex l)

/-- A line on the layer being absorbed, in a stripe not absorbed yet (R198). -/
def onAbsorbed (s : State) (l : Nat) : Bool :=
  match absorbedLayer s with
  | none => false
  | some f => hasParity s l && physIndex (lineCore l) (lineIndex l) (lineLayer l) + 6 = f

/-- The place of a device byte's parity: core column, LINE and byte. -/
def parityPlace (a : Nat) : Nat := a % 2 ^ 37

/-- Plot regulators of a tract that have failed or are suspect (R338, R339). -/
def plotsBad (s : State) (t : Nat) : Nat :=
  (s.power.regulators.filter fun r => r.die = 0 && r.index / 16 = t && (r.failed || r.suspect)).length

/-- The tract a core lies in (R22). -/
def tractOfCore (c : Nat) : Nat := 8 * (c / 256 / 64 / 8) + c / 256 % 64 / 8

/-- Place of a root line in the copy of its column (R36). -/
def copyOrdinal (l : Nat) : Nat := lineLayer l * 1536 + lineIndex l

/-- A clearing line behind a channel whose copy a second fault ended (R41). -/
def leftBehind (s : State) (l : Nat) : Bool :=
  decide (16 ≤ lineLayer l) && s.channels.any fun c => c.core = lineCore l &&
    match c.mode with
    | .broken _ => true
    | _ => false

/-- No reading path to a column: its channel has failed (R41), or fewer than two regulators of its tract work (R402). -/
def unreachableCore (s : State) (core : Nat) : Bool :=
  (s.channels.any fun c => c.core = core && c.mode = .failed) || decide (15 ≤ plotsBad s (tractOfCore core))

/-- A line that nothing can read or write. -/
def deadLine (s : State) (l : Nat) : Bool := withdrawnLine s l || unreachableCore s (lineCore l) || leftBehind s l

/-- SOURCE of R407 for a lost line: 3 in a withdrawn clearing layer, else 1. -/
def lineSource (s : State) (l : Nat) : Nat := if withdrawnLine s l then 3 else 1

/-- STATE of a line as its readers find it: every line of a withdrawn layer or of a column without a path is lost. -/
def lineState (s : State) (l : Nat) : Option LineState := if deadLine s l then some .lost else stateOf s.tags l

/-- The tag lines a channel controller holds changed in its cache: at most 8, the oldest written back (R183). -/
def touchTag (l : Nat) (d : List (Nat × Nat × Nat)) : List (Nat × Nat × Nat) :=
  let e := (lineCore l, lineLayer l, lineIndex l / 128)
  if d.contains e then d
  else
    let mine := d.filter (·.1 = lineCore l)
    let d := if 8 ≤ mine.length then (match mine with | o :: _ => d.erase o | [] => d) else d
    d ++ [e]

/-- Parity after one byte of a line changes: old parity XOR old data XOR new data (R188). -/
def parityByte (par : List Host.Cell) (a : Nat) (old new : Byte) : List Host.Cell :=
  memSet par (parityPlace a) (memGet par (parityPlace a) ^^^ old ^^^ new)

/-- Memory and parity after cells are written in order; `p` says which addresses lie in stripes with parity. -/
def putBoth (p : Nat → Bool) (mp : List Host.Cell × List Host.Cell) (cells : List Host.Cell) : List Host.Cell × List Host.Cell :=
  cells.foldl (fun x c => (memSet x.1 c.1 c.2, if p c.1 then parityByte x.2 c.1 (memGet x.1 c.1) c.2 else x.2)) mp

/-- Write cells to the arrays: every root write keeps its stripe's parity exact (R187). -/
def putCells (cells : List Host.Cell) (s : State) : State :=
  { s with
    mem := memSetAll s.mem cells
    parity := (putBoth (fun a => hasParity s (lineOf a)) (s.mem, s.parity) cells).2 }

/-- Every byte of the lines that satisfy `p` becomes zero, and leaves its stripe's parity. -/
def eraseLines (p : Nat → Bool) (s : State) : State :=
  { s with
    mem := memErase (fun a => p (lineOf a)) s.mem
    parity := (s.mem.filter fun c => p (lineOf c.1) && hasParity s (lineOf c.1)).foldl (fun par c => parityByte par c.1 c.2 0) s.parity }

/-- The parity line of a stripe, and its check bytes with its own V (R187). -/
def parityLine (s : State) (core line : Nat) : List Byte :=
  (List.range 64).map fun i => memGet s.parity (64 * (2 ^ 11 * core + line) + i)
def parityCheck (s : State) (core line : Nat) : List Byte :=
  checkBytes (parityLine s core line) (addressWord line (parityIndex core line + 6) core)

/-- A line formed from the other fifteen data lines of its stripe and the parity line (R196, R198). -/
def fromParity (s : State) (l : Nat) : List Byte :=
  (List.range 64).map fun i =>
    ((List.range 16).filter (· ≠ lineLayer l)).foldl (fun b y => b ^^^ memGet s.mem (64 * (y * 2 ^ 31 + l % 2 ^ 31) + i))
      (memGet s.parity (64 * (l % 2 ^ 31) + i))

/-- The line's bytes, formed from its stripe, are written in place with a plain WRITE (R196). -/
def rebuildLine (l : Nat) (s : State) : State :=
  { s with mem := memSetAll s.mem (((List.range 64).map fun i => 64 * l + i).zip (fromParity s l)) }

/-- A stripe is absorbed: the line of the failing layer, reconstructed, takes the parity line's place, and the stripe has no parity
(R198). -/
def absorbStripe (l : Nat) (s : State) : State :=
  let f := physIndex (lineCore l) (lineIndex l) (lineLayer l) + 6
  let s := rebuildLine l s
  { s with
    absorbed := s.absorbed ++ [(lineCore l, lineIndex l)]
    parity := memErase (fun a => lineOf a = l % 2 ^ 31) s.parity
    layerRegs := updWhere (fun r => r.layer = f) (fun r => { r with recon := r.recon + 1 }) s.layerRegs }

/-- Bursts that a channel has carried, counted while corrections on it are in the window of R33. -/
def countBursts (core n : Nat) (s : State) : State :=
  { s with laneCounts := updWhere (fun c => c.core = core) (fun c => { c with bursts := c.bursts + n }) s.laneCounts }

/-- A write of cells that all lie in line `l` (R184, R189): a free line becomes valid with its other bytes
zero, a lost line becomes valid only when all 64 bytes are written, and a line of a withdrawn layer or of a column
without a path keeps nothing. A write to a line on a layer being absorbed first absorbs its stripe (R198). It moves four lines over
the channel where the stripe has parity; elsewhere one, and the old line where it is merged (R188, R189). -/
def writeLine (gen : Bool) (s : State) (l : Nat) (cells : List Host.Cell) : State :=
  if deadLine s l then s
  else
    let full := decide (64 ≤ ((cells.map (·.1)).eraseDups).length)
    let lost := decide (stateOf s.tags l = some .lost) && !full
    let s := putCells cells (if onAbsorbed s l then absorbStripe l s else s)
    let s := countBursts (lineCore l) (if hasParity s l then 4 else if full then 1 else 2) s
    { s with
      tags := tagPut s.tags ⟨l, gen, if lost then .lost else .valid⟩
      dirtyTags := touchTag l s.dirtyTags }

/-- A write of cells anywhere, line by line in the order first touched. -/
def writeCells (gen : Bool) (cells : List Host.Cell) (s : State) : State :=
  (((cells.map fun c => lineOf c.1).eraseDups)).foldl
    (fun s l => writeLine gen s l (cells.filter fun c => lineOf c.1 = l)) s

/-- Cells of bytes at the addresses given. -/
def cellsAt (addrs : List Nat) (bytes : List Byte) : List Host.Cell := addrs.zip bytes

/-- Bytes at the addresses given. -/
def readAt (s : State) (addrs : List Nat) : List Byte := addrs.map (memGet s.mem)

/-- Set a line lost (R197): its bytes stay where they are and nothing may be read from it. -/
def loseLine (gen : Bool) (l : Nat) (s : State) : State :=
  { s with tags := tagPut s.tags ⟨l, gen, .lost⟩, dirtyTags := touchTag l s.dirtyTags }

/-- Set every line that satisfies `p` free: its tag and its bytes go (R181, R184). -/
def freeLines (p : Nat → Bool) (s : State) : State :=
  let old := s.tags
  let s := eraseLines p s
  { s with
    tags := old.filter fun t => !p t.line
    dirtyTags := ((old.filter fun t => p t.line).map (·.line)).foldl (fun d l => touchTag l d) s.dirtyTags }

/-- A line read wrong (R186): each 16-byte block that holds a wrong byte decrypts to bytes the spec cannot give (R390: SM4 in
XTS mode), so they are free values. `wrong` is the word of what differs from the stored line. -/
def garble (l : Nat) (wrong : List Byte) (s : State) : State :=
  if stateOf s.tags l = some .valid then
    let blocks := (List.range 4).filter fun b => (List.range 16).any fun i => nth wrong (8 + 16 * b + i) 0 ≠ 0
    { s with
      mem := memSetAll s.mem ((blocks.flatMap fun b => (List.range 16).map fun i => 16 * b + i).map fun i =>
        (64 * l + i, Config.freeByte s.draw i))
      draw := s.draw + 1 }
  else s

/-! ### Look-ups -/

def findPair (s : State) (qp : BitVec 6) : Option QueuePair := s.pairs.find? fun q => q.qp = qp
def updPair (qp : BitVec 6) (f : QueuePair → QueuePair) (s : State) : State :=
  { s with pairs := updWhere (fun q => q.qp = qp) f s.pairs }

def findPart (s : State) (n : BitVec 4) : Option Partition := s.partitions.find? fun p => p.num = n
def updPart (n : BitVec 4) (f : Partition → Partition) (s : State) : State :=
  { s with partitions := updWhere (fun p => p.num = n) f s.partitions }

/-- Context `c` of a partition. -/
def Partition.context (p : Partition) (c : Nat) : Context := nth p.contexts c Context.fresh
def updCtx (n : BitVec 4) (c : Nat) (f : Context → Context) (s : State) : State :=
  updPart n (fun p => { p with contexts := setAt p.contexts c f }) s

def Partition.region (p : Partition) (h : U32) : Option Region := p.regions.find? fun r => r.handle = h
def Partition.plan (p : Partition) (h : U32) : Option Plan := p.plans.find? fun q => q.handle = h
def Partition.cache (p : Partition) (h : U32) : Option Cache := p.caches.find? fun c => c.handle = h
def updPlan (n : BitVec 4) (h : U32) (f : Plan → Plan) (s : State) : State :=
  updPart n (fun p => { p with plans := updWhere (fun q => q.handle = h) f p.plans }) s
def updCache (n : BitVec 4) (h : U32) (f : Cache → Cache) (s : State) : State :=
  updPart n (fun p => { p with caches := updWhere (fun c => c.handle = h) f p.caches }) s

/-- The record of a unit not listed. -/
def State.freshUnit (s : State) (u : Nat) : NbUnit :=
  { NbUnit.fresh u with state := if s.unitsPassed then .inService else .untested, tested := s.unitsPassed }

/-- The unit's record. -/
def findUnit (s : State) (u : Nat) : NbUnit := (s.units.find? fun x => x.unit = u).getD (s.freshUnit u)
def updUnit (u : Nat) (f : NbUnit → NbUnit) (s : State) : State :=
  { s with units := upsert (fun x => x.unit = u) f (s.freshUnit u) s.units }

def updLink (n : Nat) (f : Link → Link) (s : State) : State :=
  { s with fabric := { s.fabric with links := updWhere (fun l => l.num = n) f s.fabric.links } }
def findLink (s : State) (n : Nat) : Link := (s.fabric.links.find? fun l => l.num = n).getD (Link.fresh n)

def findTract (s : State) (t : Nat) : TractRec := (s.power.tracts.find? fun x => x.num = t).getD (TractRec.fresh t)
def updTract (t : Nat) (f : TractRec → TractRec) (s : State) : State :=
  { s with power := { s.power with tracts := updWhere (fun x => x.num = t) f s.power.tracts } }

def updLayer (l : Nat) (f : LayerRegs → LayerRegs) (s : State) : State :=
  { s with layerRegs := updWhere (fun r => r.layer = l) f s.layerRegs }
def findLayer (s : State) (l : Nat) : LayerRegs :=
  (s.layerRegs.find? fun r => r.layer = l).getD (LayerRegs.fresh l)

/-- Whether a tract is among those a mask names. -/
def hasTract (m : U64) (t : Nat) : Bool := m.getLsbD t

/-- Tracts of a mask, ascending. -/
def tractsOf (m : U64) : List Nat := (List.range 64).filter (hasTract m)

/-- The partition that owns a tract. -/
def ownerOf (s : State) (t : Nat) : Option Partition := s.partitions.find? fun p => hasTract p.tracts t

/-- Whether the block acts at all: VIN applied, clocks running. -/
def alive (s : State) : Bool := s.pins.vin && !s.start.halted

/-! ### MSI-X and EVENTS (R316, R329) -/

/-- A vector fires: a message, or its pending bit while masked or the link is down. -/
def fireVector (v : Nat) (s : State) : State :=
  if (nth s.bar.msix v MsixEntry.fresh).ctrl.getLsbD 0 || !s.cxl.up then
    { s with bar := { s.bar with pba := s.bar.pba ||| (1#65 <<< v) } }
  else { s with out := s.out ++ [.msix v] }

/-- Pending vectors that nothing masks any more fire. -/
def firePending (s : State) : State :=
  (List.range 65).foldl (fun s v =>
    if s.bar.pba.getLsbD v && !(nth s.bar.msix v MsixEntry.fresh).ctrl.getLsbD 0 && s.cxl.up then
      { s with bar := { s.bar with pba := s.bar.pba &&& ~~~(1#65 <<< v) }, out := s.out ++ [.msix v] }
    else s) s

/-- Event bits of R316. -/
def evReserve : Nat := 0
def evRecorder : Nat := 1
def evConfig : Nat := 2
def evWidth : Nat := 3
def evQerr : Nat := 4

/-- An EVENTS bit is set; going from 0 to 1 under its mask fires vector 64. -/
def raiseEvent (k : Nat) (s : State) : State :=
  if s.bar.events.getLsbD k then s
  else
    let s' := { s with bar := { s.bar with events := s.bar.events ||| (1#5 <<< k) } }
    if s.bar.mask.getLsbD k then fireVector 64 s' else s'

/-! ### The recorder (R409 to R412) -/

/-- The time word at this moment, and the count of elapsed milliseconds it rests on (assumption 3). -/
def timeWord (s : State) : Nat × Nat :=
  let e := Config.elapsedMs s.draw
  match s.recorder.time with
  | none => (e % 2 ^ 48, 0xFFFF)
  | some (ms, unc, at0) => ((ms + (e - at0)) % 2 ^ 48, min 0xFFFE (unc + (e - at0) / 3333))

/-- The bytes of a record: header, time word, body (R409). -/
def recordBytes (n cls typ sev : Nat) (part : Option (BitVec 4)) (reduced : Bool) (t : Nat × Nat)
    (body : List Byte) : List Byte :=
  let body := if reduced then [] else padTo (8 * ceilDiv body.length 8) body
  let ms := if reduced then t.1 / 1000 * 1000 else t.1
  let pv := match part with | some p => p.toNat + 16 | none => 0
  toLE 8 (2 + body.length / 8 + 2 ^ 8 * cls + 2 ^ 16 * typ + 2 ^ 24 * pv + (if reduced then 2 ^ 29 else 0)
    + 2 ^ 30 * sev + 2 ^ 32 * (n % 2 ^ 32)) ++ toLE 8 (ms + 2 ^ 48 * t.2) ++ body

/-- The recorder takes record NEXT: pinned below 4,096, and the latest 4,096. -/
def Recorder.push (r : Recorder) (bytes : List Byte) : Recorder :=
  { r with
    next := r.next + 1
    records := (r.records.filter fun e => e.1 < 4096 || r.next + 1 ≤ e.1 + 4096) ++ [(r.next, bytes)]
    inSecond := r.inSecond + 1 }

/-- Write a record about the device or a partition; beyond 2,000 in a second it is only counted (R411). -/
def record (cls typ sev : Nat) (part : Option (BitVec 4)) (body : List Byte) (s : State) : State :=
  if 2000 ≤ s.recorder.inSecond then
    { s with recorder := { s.recorder with dropped := s.recorder.dropped + 1 } }
  else
    let reduced := match part with
      | some p => (match findPart s p with | some q => q.confidential | none => false)
      | none => false
    raiseEvent evRecorder
      { s with
        draw := s.draw + 1
        recorder := s.recorder.push
          (recordBytes s.recorder.next cls typ sev part reduced (timeWord s) body) }

/-- A HOST record (R411): kind, pair or decoder. -/
def recordHost (kind n : Nat) (s : State) : State := record 0x01 0x80 0 none (toLE 1 kind ++ toLE 1 n) s

/-- An UNCORR record (R411). -/
def recordUncorr (addr requester outcome : Nat) (part : Option (BitVec 4)) (s : State) : State :=
  record 0x0B 0x14 (if outcome = 2 then 3 else 1) part
    (toLE 8 addr ++ toLE 1 requester ++ toLE 1 outcome) s

/-- A RECOVERY record (R411): kind of R400, outcome, record number of the cause. -/
def recordRecovery (kind outcome : Nat) (cause : Option Nat) (part : Option (BitVec 4)) (s : State) : State :=
  record 0x00 0x06 1 part
    (toLE 1 kind ++ toLE 1 outcome ++ zeros 2 ++ toLE 8 (cause.getD (2 ^ 64 - 1))) s

/-! ### Completions (R319, R326, R329) -/

/-- Fewer than depth − 1 entries of the completion ring wait to be consumed. -/
def QueuePair.room (q : QueuePair) : Bool :=
  decide ((q.slot + q.depth - q.head) % q.depth + 1 < q.depth)

/-- Remove the earliest command with a tag. -/
def dropTag (t : U32) : List Outstanding → List Outstanding
  | [] => []
  | o :: os => if o.tag = t then os else o :: dropTag t os

/-- Mark the earliest command with a tag as having posted ACCEPTED. -/
def markTag (t : U32) : List Outstanding → List Outstanding
  | [] => []
  | o :: os => if o.tag = t ∧ ¬o.accepted then { o with accepted := true } :: os else o :: markTag t os

/-- The completion entry that a waiting completion becomes when it is posted. -/
def completionOf (s : State) (q : QueuePair) (w : Waiting) : Completion :=
  { tag := w.tag, status := w.status, reserveLow := s.reserve.atMask != 0, phase := q.phase,
    detail := w.detail, result := padTo 16 w.result, cseq := q.cseq }

/-- The pair after it has posted a completion: next slot, phase, CSEQ, and the command ended or accepted. -/
def QueuePair.posted (q : QueuePair) (w : Waiting) : QueuePair :=
  { q with
    slot := (q.slot + 1) % q.depth
    phase := if q.slot + 1 = q.depth then !q.phase else q.phase
    cseq := q.cseq + 1
    outstanding := if w.status = stAccepted then markTag w.tag q.outstanding else dropTag w.tag q.outstanding }

/-- Count a completion towards the pair's interrupt (R329). -/
def gather (q : QueuePair) (w : Waiting) (s : State) : State :=
  if w.status = stAccepted ∧ q.quietAccept then s
  else if q.coalCount ≤ q.gathered + 1 ∨ q.coalTime = 0 then
    fireVector q.vector (updPair q.qp (fun q => { q with gathered := 0 }) s)
  else updPair q.qp (fun q => { q with gathered := q.gathered + 1 }) s

/-- Write a completion into its slot. -/
def emit (q : QueuePair) (w : Waiting) (s : State) : State :=
  gather q w { updPair q.qp (fun q => q.posted w) s with
    out := s.out ++ [.completion q.qp q.slot (completionOf s q w)] }

/-- Post a completion, or let it wait for room in the ring or for the link (R319, R333). -/
def post (qp : BitVec 6) (w : Waiting) (s : State) : State :=
  match findPair s qp with
  | none => s
  | some q =>
    if q.waiting.isEmpty && q.room && s.cxl.up then emit q w s
    else updPair qp (fun q => { q with waiting := q.waiting ++ [w] }) s

/-- Post what waits, oldest first, as far as room and link allow. -/
def flush (qp : BitVec 6) (s : State) : State :=
  match findPair s qp with
  | none => s
  | some q => q.waiting.foldl (fun s w => post qp w s) (updPair qp (fun q => { q with waiting := [] }) s)

/-- The final completion of a command. -/
def finish (o : Origin) (status : BitVec 16) (detail : U32) (result : List Byte) (s : State) : State :=
  if o.dead then s else post o.qp ⟨o.tag, status, detail, result⟩ s

/-- A final completion to whoever waits, if anyone. -/
def finishIf (o : Option Origin) (status : BitVec 16) (result : List Byte) (s : State) : State :=
  match o with
  | some o => finish o status 0 result s
  | none => s

/-- A command with this tag has neither posted ACCEPTED nor has it waiting (R330): tags may be equal, so they are counted. -/
def QueuePair.unaccepted (q : QueuePair) (tag : U32) : Bool :=
  decide ((q.waiting.filter fun w => w.tag = tag && w.status = stAccepted).length
    < (q.outstanding.filter fun o => o.tag = tag && !o.accepted).length)

/-! ### Handles -/

/-- The first number from `n` on, below 2^32 − 1 and in a circle, that is not in use. -/
def nextFree (used : List U32) : Nat → Nat → U32
  | 0, n => BitVec.ofNat 32 (n % (2 ^ 32 - 1))
  | k + 1, n =>
    if used.contains (BitVec.ofNat 32 (n % (2 ^ 32 - 1))) then nextFree used k (n + 1)
    else BitVec.ofNat 32 (n % (2 ^ 32 - 1))

/-- A handle value not in use: the spec gives none, so it starts from a free value (assumption 4). -/
def freshHandle (used : List U32) (s : State) : U32 := nextFree used used.length (Config.handleSeed s.draw)

end Sys2Proof.Machine
end

