-- ==== Sys2Proof/Machine/Routes.lean ====
section
/-! DEFINITION. The geometry of the canopy network: groves and tracts (R22), mesh links and their stages (R250, R262),
routes and latencies (R254, R257 to R259), the distances that firmware's table holds (R12), and the flits that an access to
another core's column sends over the network (R11, R266). -/
namespace Sys2Proof.Machine

/-- The grove at a position of a tract (R22, R153). -/
def groveAt (t p : Nat) : Nat := 64 * (8 * (t / 8) + p / 8) + 8 * (t % 8) + p % 8

/-! ### Mesh links (R250, R262) -/

/-- Coordinates of a grove (R22). -/
def gx (g : Nat) : Nat := g % 64
def gy (g : Nat) : Nat := g / 64

/-- Whether a router has a neighbour in a direction: 0 north, 1 south, 2 east, 3 west. -/
def hasNeighbour (g d : Nat) : Bool :=
  match d with
  | 0 => decide (0 < gy g)
  | 1 => decide (gy g < 63)
  | 2 => decide (gx g < 63)
  | _ => decide (0 < gx g)

def neighbour (g d : Nat) : Nat :=
  match d with
  | 0 => g - 64
  | 1 => g + 64
  | 2 => g + 1
  | _ => g - 1

/-- The port of a neighbour at which a flit sent in a direction arrives. -/
def opposite (d : Nat) : Nat :=
  match d with
  | 0 => 1
  | 1 => 0
  | 2 => 3
  | _ => 2

/-- One name for the link between two routers: its northern or western end, and south or east. -/
def linkKey (g d : Nat) : Nat × Nat :=
  match d with
  | 0 => (g - 64, 1)
  | 3 => (g - 1, 2)
  | d => (g, d)

/-- A link as built. -/
def MeshLink.fresh (k : Nat × Nat) : MeshLink := ⟨k.1, k.2, [], .repaired, 0, []⟩

def meshLink (s : State) (g d : Nat) : MeshLink :=
  let k := linkKey g d
  (s.mesh.find? fun l => l.grove = k.1 && l.dir = k.2).getD (MeshLink.fresh k)

def updMesh (g d : Nat) (f : MeshLink → MeshLink) (s : State) : State :=
  let k := linkKey g d
  { s with mesh := upsert (fun l => l.grove = k.1 && l.dir = k.2) f (MeshLink.fresh k) s.mesh }

/-- A router without power: fewer than two regulators of its tract work (R261). -/
def routerDown (s : State) (g : Nat) : Bool := decide (15 ≤ plotsBad s (tractOfCore (256 * g)))

/-- No route in dimension order may cross the link. -/
def linkDown (s : State) (g d : Nat) : Bool :=
  (match (meshLink s g d).stage with | .down => true | .relayed => true | _ => false)
    || routerDown s g || routerDown s (neighbour g d)


/-! ### Routes and latencies (R254, R257 to R259, R262) -/

/-- Steps along a row from column `a` to `b`: router and direction. -/
def rowSteps (y a b : Nat) : List (Nat × Nat) :=
  if a ≤ b then (List.range (b - a)).map fun i => (64 * y + a + i, 2)
  else (List.range (a - b)).map fun i => (64 * y + a - i, 3)

def colSteps (x a b : Nat) : List (Nat × Nat) :=
  if a ≤ b then (List.range (b - a)).map fun i => (64 * (a + i) + x, 1)
  else (List.range (a - b)).map fun i => (64 * (a - i) + x, 0)

/-- X-then-Y and Y-then-X paths. -/
def xyPath (a b : Nat) : List (Nat × Nat) := rowSteps (gy a) (gx a) (gx b) ++ colSteps (gx b) (gy a) (gy b)
def yxPath (a b : Nat) : List (Nat × Nat) := colSteps (gx a) (gy a) (gy b) ++ rowSteps (gy b) (gx a) (gx b)

def pathOpen (s : State) (p : List (Nat × Nat)) : Bool := p.all fun x => !linkDown s x.1 x.2

/-- The step crosses the seam between the halves. -/
def seamStep (x : Nat × Nat) : Bool := (x.2 = 2 && gx x.1 = 31) || (x.2 = 3 && gx x.1 = 32)

/-- 2H + 4X, and 1 for each link at half width. -/
def pathCycles (s : State) (p : List (Nat × Nat)) : Nat :=
  2 * p.length + 4 * (p.filter seamStep).length
    + (p.filter fun x => (meshLink s x.1 x.2).stage = .halfWidth).length

def halfOn (s : State) (p : List (Nat × Nat)) : Bool := p.any fun x => (meshLink s x.1 x.2).stage = .halfWidth

/-- The relay router that firmware chooses for a pair of routers: which of those that leave both X-then-Y parts of the route open
is left to it, a free value (R262). -/
def relayRouter (s : State) (a b : Nat) : Nat :=
  let rs := (List.range 4096).filter fun r => pathOpen s (xyPath a r) && pathOpen s (xyPath r b)
  nth rs (Config.freeNat s.distGen.toNat (4096 * a + b) % max 1 rs.length) a

/-- Cycles between two routers, and whether the route is degraded. -/
def routeCycles (s : State) (a b : Nat) : Nat × Bool :=
  if pathOpen s (xyPath a b) then (pathCycles s (xyPath a b), halfOn s (xyPath a b))
  else if pathOpen s (yxPath a b) then (pathCycles s (yxPath a b), true)
  else
    let r := relayRouter s a b
    (pathCycles s (xyPath a r) + pathCycles s (xyPath r b) + 8, true)

/-- Routers to which a shaft attaches, ascending (R257). -/
def attachRouters (sh : Nat) : List Nat :=
  if sh = 16 then [64 * 31 + 31, 64 * 31 + 32, 64 * 32 + 31, 64 * 32 + 32]
  else (List.range 4).flatMap fun j => (List.range 4).map fun i =>
    64 * (16 * (sh / 4) + 6 + j) + 16 * (sh % 4) + 6 + i

def manhattan (a b : Nat) : Nat := (gx a - gx b) + (gx b - gx a) + (gy a - gy b) + (gy b - gy a)

/-- The attach router of a shaft nearest to a grove, lowest number first (R258). -/
def attachOf (sh g : Nat) : Nat :=
  let rs := attachRouters sh
  rs.foldl (fun b r => if manhattan g r < manhattan g b then r else b) (rs.headD 0)

/-- Cycles from a grove to the floor end of a shaft, and to another grove. -/
def toShaft (s : State) (g sh : Nat) : Nat × Bool :=
  let c := routeCycles s g (attachOf sh g)
  (2 + c.1 + 8, c.2)
def toGrove (s : State) (a b : Nat) : Nat × Bool :=
  let c := routeCycles s a b
  (2 + c.1 + 2, c.2)

/-- The steps of a unicast route: X-then-Y, Y-then-X where that crosses a down link, or by the relay (R254, R262). -/
def route (s : State) (a b : Nat) : List (Nat × Nat) :=
  if pathOpen s (xyPath a b) then xyPath a b
  else if pathOpen s (yxPath a b) then yxPath a b
  else xyPath a (relayRouter s a b) ++ xyPath (relayRouter s a b) b

/-! ### Counters (R266) and the traffic of accesses (R11) -/

def NetCtr.fresh (g : Nat) : NetCtr := ⟨g, 0, 0, 0, 0, 0, 0, 0⟩

/-- Update a router's counters; those of a tract of a confidential partition count nothing. -/
def updNet (g : Nat) (f : NetCtr → NetCtr) (s : State) : State :=
  match ownerOf s (tractOfCore (256 * g)) with
  | some x => if x.confidential then s
    else { s with net := upsert (fun c => c.grove = g) f (NetCtr.fresh g) s.net }
  | none => { s with net := upsert (fun c => c.grove = g) f (NetCtr.fresh g) s.net }

/-- Flits sent on one output port of a router. -/
def NetCtr.sent (vc n : Nat) (seam : Bool) (c : NetCtr) : NetCtr :=
  let n := BitVec.ofNat 64 n
  { c with
    ctrl := if vc = 0 then c.ctrl + n else c.ctrl
    red := if vc = 1 then c.red + n else c.red
    bulk := if vc = 2 then c.bulk + n else c.bulk
    mig := if vc = 3 then c.mig + n else c.mig
    seam := if seam then c.seam + n else c.seam }

/-- Flits of a whole transfer from router `a` to the local or shaft port of router `b`: each router of the route sends them. -/
def travel (kind : NetKind) (a b n : Nat) (s : State) : State :=
  updNet b (NetCtr.sent kind.vc n false)
    ((route s a b).foldl (fun s x => updNet x.1 (NetCtr.sent kind.vc n (seamStep x)) s) s)

/-- Flits that carry `n` lines: 16 payload flits of 64 bytes to a packet, and its header (R251). -/
def lineFlits (n : Nat) : Nat := n + ceilDiv n 16

/-- A CXL.mem access to a column: the request from the floor end of the host shaft to the core's grove, and the response
(R252, R257, R258). -/
def cxlTravel (core request response : Nat) (s : State) : State :=
  let g := core / 256
  travel .cxl g (attachOf 16 g) response (travel .cxl (attachOf 16 g) g request s)

/-- The grove of `gs` nearest to a grove by Manhattan distance, lowest number first; none of an empty list. -/
def nearestOf (gs : List Nat) (g : Nat) : Option Nat :=
  gs.foldl (fun (b : Option Nat) x =>
    match b with
    | none => some x
    | some y => if manhattan g x < manhattan g y || (manhattan g x = manhattan g y && x < y) then some x else b) none

/-- Lines that the groves of an operator read or write: those of a grove's own columns take their own vertical channels, the others
travel between their grove and the operator's grove nearest to it (R11). The spec does not say which of the operator's cores makes
the access: the nearest grove is the model's choice (assumption 97). -/
def shareTravel (kind : NetKind) (out : Bool) (place ls : List Nat) (s : State) : State :=
  let owners := (ls.map fun l => lineCore l / 256).eraseDups
  (owners.filter fun g => !place.contains g).foldl (fun s g =>
    let n := lineFlits (ls.filter fun l => lineCore l / 256 = g).length
    match nearestOf place g with
    | some h => if out then travel kind h g n s else travel kind g h n s
    | none => s) s

/-- Groves of a tract. -/
def grovesOf (t : Nat) : List Nat := (List.range 64).map (groveAt t)

end Sys2Proof.Machine
end

