-- ==== Sys2Proof/Machine/Operands.lean ====
section
/-! DEFINITION. Operand forms: device addresses and segments (R174, R175), partition columns and region
offsets (R178 to R180), and the buffers a command names (R323). -/
namespace Sys2Proof.Machine

/-! ### Device addresses (R174, R175) -/

/-- User segment length of a logical layer. -/
def segLen (l : Nat) : Nat := if l ≤ 14 then 98304 else 65536

def addrLayer (a : Nat) : Nat := a / 2 ^ 37
def addrCore (a : Nat) : Nat := a / 2 ^ 17 % 2 ^ 20
def addrOff (a : Nat) : Nat := a % 2 ^ 17

/-- A device address from its fields. -/
def mkAddr (layer core off : Nat) : Nat := layer * 2 ^ 37 + core * 2 ^ 17 + off

/-- Neither in a hole nor in logical layers 20 to 31. -/
def validAddr (a : Nat) : Bool := decide (addrLayer a < 20) && decide (addrOff a < segLen (addrLayer a))

/-- Physical layer of a clearing logical layer (R177). -/
def clearingPhys (l : Nat) : Nat := l - 14

/-- The physical layer that returns a line: logical layer, core, line in the segment (R177, R198). -/
def physLayer (s : State) (l core line : Nat) : Nat :=
  if 16 ≤ l then clearingPhys l
  else
    let p := physIndex core line l + 6
    if layerState s p = 2 || (layerState s p = 1 && s.absorbed.contains (core, line)) then parityIndex core line + 6 else p

/-! ### Columns and regions (R178, R180) -/

/-- Core column of a partition column index over tracts in ascending number. -/
def partColumn (tracts : List Nat) (y : Nat) : Nat :=
  let t := nth tracts (y / 16384) 0
  let p := y % 16384 / 256
  256 * (64 * (8 * (t / 8) + p / 8) + (8 * (t % 8) + p % 8)) + y % 256

/-- Partition column index of a core column, where its tract is the partition's. -/
def columnIndex (tracts : List Nat) (core : Nat) : Option Nat :=
  let g := core / 256
  match tracts.findIdx? fun t => t = tractOfCore core with
  | some i => some (16384 * i + 256 * (8 * (g / 64 % 8) + g % 64 % 8) + core % 256)
  | none => none

/-- Size of a region in bytes. -/
def Region.size (r : Region) : Nat :=
  ((List.range r.lcount).map fun i => r.ccount * segLen (r.lfirst + i)).sum

/-- Device address of byte `x` of a region's layers from `l` on. -/
def regionAddrFrom (tracts : List Nat) (cfirst ccount : Nat) : Nat → Nat → Nat → Nat
  | 0, l, _ => mkAddr l 0 0
  | n + 1, l, x =>
    if x < ccount * segLen l then mkAddr l (partColumn tracts (cfirst + x / segLen l)) (x % segLen l)
    else regionAddrFrom tracts cfirst ccount n (l + 1) (x - ccount * segLen l)

/-- Device address of byte `x` of a region (R180). -/
def Region.addr (r : Region) (x : Nat) : Nat :=
  regionAddrFrom (tractsOf r.tracts) r.cfirst r.ccount r.lcount r.lfirst x

/-- Place of a device address in a region, where it lies in it. -/
def Region.offset (r : Region) (a : Nat) : Option Nat :=
  let l := addrLayer a
  if !validAddr a || l < r.lfirst || r.lfirst + r.lcount ≤ l then none
  else
    match columnIndex (tractsOf r.tracts) (addrCore a) with
    | some y =>
      if r.cfirst ≤ y ∧ y < r.cfirst + r.ccount then
        some (((List.range (l - r.lfirst)).map fun i => r.ccount * segLen (r.lfirst + i)).sum
          + (y - r.cfirst) * segLen l + addrOff a)
      else none
    | none => none

/-- Whether a device line lies in a region. -/
def Region.holds (r : Region) (line : Nat) : Bool := (r.offset (line * 64)).isSome

/-- The region that holds an address, with its partition. -/
def regionAt (s : State) (a : Nat) : Option (Partition × Region) :=
  (s.partitions.flatMap fun p => p.regions.map fun r => (p, r)).find? fun x => (x.2.offset a).isSome

/-- The generation with which lines of an address are written: its partition's (R391). -/
def genAt (s : State) (a : Nat) : Bool :=
  match ownerOf s (tractOfCore (addrCore a)) with
  | some p => p.gen
  | none => false

/-- Lines of a list of addresses that are in a given state. -/
def linesIn (s : State) (st : Option LineState) (addrs : List Nat) : List Nat :=
  ((addrs.map lineOf).eraseDups).filter fun l => lineState s l = st

/-! ### What a command answers -/

/-- The outcome of a command's own part: its final completion; ACCEPTED with the final completion to come;
ACCEPTED and then the final completion; or nothing posted yet. -/
inductive Reply where
  | done (status : BitVec 16) (detail : U32) (result : List Byte)
  | accepted
  | acceptedThen (status : BitVec 16) (detail : U32) (result : List Byte)
  | waits
deriving DecidableEq, Repr

/-- A command's answer beside the state it leaves. -/
abbrev Res := Reply × State

def ok (result : List Byte) (s : State) : Res := (.done stOk 0 result, s)
def fail (st : BitVec 16) (s : State) : Res := (.done st 0 [], s)

/-- A failure before any effect: status, detail, result. -/
structure Stop where
  status : BitVec 16
  detail : U32
  result : List Byte
deriving DecidableEq, Repr

def Stop.plain (st : BitVec 16) : Stop := ⟨st, 0, []⟩
def Stop.reply (e : Stop) (s : State) : Res := (.done e.status e.detail e.result, s)

/-- BAD_LENGTH with a reason in detail bits [31:24]. -/
def badLength (reason : Nat) : Stop := ⟨stBadLength, BitVec.ofNat 32 (reason * 2 ^ 24), []⟩

/-- LOST_DATA as R407 lays it out: source, operator (0xF_FFFF none), first line's address, lines. -/
def lostData (source op addr lines : Nat) : Stop :=
  ⟨stLostData, BitVec.ofNat 32 (source * 2 ^ 24 + op % 2 ^ 20), toLE 8 addr ++ toLE 8 lines⟩

/-! ### Buffers (R323) -/

/-- Bit 63 of a buffer address: a device address. -/
def isDevice (a : Nat) : Bool := decide (2 ^ 63 ≤ a)

/-- The device addresses of a buffer of `n` bytes, through consecutive region offsets; none where the
buffer is not whole in one region of the partition (any region for the operator role). -/
def bufferAddrs (s : State) (operator : Bool) (part : BitVec 4) (a n : Nat) : Option (List Nat) :=
  let d := a % 2 ^ 42
  if a / 2 ^ 42 % 2 ^ 21 ≠ 0 then none
  else
    match regionAt s d with
    | some (p, r) =>
      if !operator && p.num ≠ part then none
      else
        match r.offset d with
        | some x => if x + n ≤ r.size then some ((List.range n).map fun i => r.addr (x + i)) else none
        | none => none
    | none => none

/-- A buffer address of a parameter: an invalid device address is BAD_LENGTH (R175), one outside its target
LENGTH_EXCEEDS_TARGET (R323); a host buffer has no addresses. -/
def paramBuffer (s : State) (q : QueuePair) (p : Packet) (a n : Nat) : Except Stop (Option (List Nat)) :=
  if !isDevice a then .ok none
  else if a / 2 ^ 42 % 2 ^ 21 = 0 && !validAddr (a % 2 ^ 42) then .error (.plain stBadLength)
  else
    match bufferAddrs s q.operator (p.part.setWidth 4) a n with
    | some l => .ok (some l)
    | none => .error (.plain stExceeds)

/-- Bytes read at addresses, or LOST_DATA where a line is lost, SOURCE 3 in a withdrawn layer (R39, R323, R407). -/
def readBuffer (s : State) (addrs : List Nat) : Except Stop (List Byte) :=
  match linesIn s (some .lost) addrs with
  | [] => .ok (readAt s addrs)
  | l :: ls => .error (lostData (lineSource s l) 0xFFFFF (l * 64) (ls.length + 1))

/-- The `n` bytes of a buffer a command reads; host memory's answer comes with the command. -/
def takeBuffer (s : State) (q : QueuePair) (p : Packet) (a n : Nat) : Except Stop (List Byte) :=
  match paramBuffer s q p a n with
  | .error e => .error e
  | .ok none =>
    match p.hostData with
    | some bs => .ok (padTo n bs)
    | none => .error (badLength 4)
  | .ok (some addrs) => readBuffer s addrs

/-- Write bytes to device addresses under the generation of the column's owner. -/
def writeAt (addrs : List Nat) (bytes : List Byte) (s : State) : State :=
  match addrs with
  | [] => s
  | a :: _ => writeCells (genAt s a) (cellsAt addrs bytes) s

/-- Write a command's output to a buffer already resolved. A host write that fails is recorded (R323). -/
def putBuffer (q : QueuePair) (p : Packet) (target : Option (List Nat)) (a : Nat) (bytes : List Byte)
    (s : State) : State :=
  match target with
  | some addrs => writeAt addrs bytes s
  | none =>
    if p.hostWriteOk then { s with out := s.out ++ [.hostWrite (BitVec.ofNat 64 a) bytes] }
    else recordHost 3 q.qp.toNat s

/-- A command that copies `bytes` to a DEST of `size` bytes aligned to `align`, of which it needs `need`
(too small: LENGTH_EXCEEDS_TARGET), and answers `result`. -/
def copyOut (q : QueuePair) (p : Packet) (align dest size need : Nat) (bytes : List Byte) (result : List Byte)
    (s : State) : Res :=
  if dest % align ≠ 0 then fail stBadLength s
  else if size < need then fail stExceeds s
  else
    match paramBuffer s q p dest size with
    | .error e => e.reply s
    | .ok t => ok result (putBuffer q p t dest bytes s)

end Sys2Proof.Machine
end

