-- ==== Sys2Proof/Machine/Flags.lean ====
section
/-! DEFINITION. The flags the block computes from its state: the reserve counts and RESERVE_LOW (R403,
R406), DEV_STATUS, the queue errors (R316, R318), and the registers of BAR0 as reads return them (R312, R313). -/
namespace Sys2Proof.Machine

/-! ### The reserve (R403) -/

/-- The largest count of an element in a list. -/
def most (l : List Nat) : Nat := maxNat (l.map fun x => l.count x)

/-- Pool lanes in use, by grove, of the repair map (R34): SPARE 16 to 31. -/
def poolGroves (s : State) : List Nat :=
  (s.repairs.filter fun e => 16 ≤ bitsOf e.toNat 25 5).map fun e => bitsOf e.toNat 0 20 / 256

/-- The rehoming area that a channel's column occupies or is being copied to. -/
def ChannelMode.dest : ChannelMode → Option Nat
  | .corrected _ d => d
  | .degraded _ d => d
  | .retired d => d
  | .broken d => d
  | .failed => none

/-- Rehoming places in use, by tract (R37). -/
def rehomeTracts (s : State) : List Nat := s.channels.filterMap fun c => c.mode.dest

/-- Columns rehomed, and rehoming places left of 1,344 (R40). -/
def rehomedNow (s : State) : Nat × Nat :=
  ((s.channels.filter fun c => match c.mode with | .retired (some _) => true | .broken (some _) => true | _ => false).length,
    1344 - (rehomeTracts s).length)

/-- Mesh links at half width, down or relayed; a link is down too while a router at its end has no power (R261, R262). -/
def meshBad (s : State) : Nat :=
  let unpowered := if (List.range 64).any (fun t => decide (15 ≤ plotsBad s t)) then
      ((List.range 4096).flatMap fun g => ([1, 2].filter fun d => hasNeighbour g d && (meshLink s g d).stage = .repaired
        && (routerDown s g || routerDown s (neighbour g d))).map fun d => (g, d)).length
    else 0
  (s.mesh.filter fun l => l.stage ≠ .repaired).length + unpowered

/-- Links DOWN or HALF, or latched DOWN (R276). -/
def linksBad (s : State) : Nat :=
  (s.fabric.links.filter fun l => l.state = .down || l.state = .half || l.latched).length

/-- Suspect sensors, and whether both of some plot of L0 are. -/
def suspectSensors (s : State) : Nat := (s.thermal.sensors.filter (·.suspect)).length
def suspectPair (s : State) : Bool :=
  let l := (s.thermal.sensors.filter fun x => x.suspect && x.die = 0).map fun x => x.idx / 2
  decide (2 ≤ most l)

/-- FAILED units in the clearing layer with most (R220): a unit's layer is its number over 65,536. -/
def failedUnits (s : State) : List Nat := (s.units.filter fun u => u.state = .failed).map (·.unit)

/-- A page lies in the unit's channel. -/
def unitHolds (s : State) (u : Nat) : Bool :=
  s.partitions.any fun p => p.caches.any fun c => c.layers.any fun r => r.pages.any fun e => !e.root && e.loc / 1024 = u

/-- A reserve: its count, its numeric threshold, and whether it meets its threshold. -/
structure ReserveRow where
  value : Nat
  threshold : Nat
  met : Bool
deriving DecidableEq, Repr

def atLeast (v t : Nat) : ReserveRow := ⟨v, t, decide (t ≤ v)⟩
def atMost (v t : Nat) : ReserveRow := ⟨v, t, decide (v ≤ t)⟩

/-- The 14 rows of R403. -/
def reserveRows (s : State) : List ReserveRow :=
  let regs := s.power.regulators
  let fu := failedUnits s
  [ atMost (16 - most (poolGroves s)) 4,
    atMost (21 - most (rehomeTracts s)) 5,
    atLeast (((List.range 17).filter fun k => layerState s (k + 6) ≠ 0).length) 1,
    atLeast (most ((regs.filter fun r => r.die = 0).map fun r => r.index / 16)) 1,
    atLeast (most ((regs.filter fun r => r.failed && (r.die = 1 || r.die = 23)).map (·.die))) 3,
    atLeast (most ((regs.filter fun r => 2 ≤ r.die && r.die ≤ 22).map (·.die))) 6,
    atLeast (maxNat (s.layerRegs.map fun r => r.ovf.toNat)) 1,
    let v := most (fu.map (· / 65536))
    ⟨v, 64, decide (64 ≤ v) || s.units.any fun u => u.stranded && unitHolds s u.unit⟩,
    atLeast ((s.power.tracts.filter fun t => t.power = .offline).length) 1,
    atLeast (linksBad s) 4,
    atLeast (meshBad s) 8,
    ⟨suspectSensors s, 32, decide (32 ≤ suspectSensors s) || suspectPair s⟩,
    atLeast s.reserve.unexplained 4,
    atLeast s.firmware.fallbacks 1 ]

/-- AT_MASK (R406). -/
def atMaskOf (s : State) : BitVec 14 :=
  BitVec.ofNat 14 (((reserveRows s).zipIdx.map fun x => if x.1.met then 2 ^ x.2 else 0).sum)

/-- RESERVE_LOW (R328, R403). -/
def reserveLow (s : State) : Bool := s.reserve.atMask != 0

/-- Bring the reserve up to date: each reserve that reaches its threshold sets EVENTS.RESERVE_LOW and
writes a RESERVE record, each that falls back writes one (R403, R416). -/
def settleReserve (s : State) : State :=
  let m := atMaskOf s
  let rows := reserveRows s
  let old := s.reserve.atMask
  (List.range 14).foldl (fun s k =>
    if m.getLsbD k = old.getLsbD k then s
    else
      let r := nth rows k ⟨0, 0, false⟩
      let s := if m.getLsbD k then raiseEvent evReserve s else s
      record 0x00 0x03 2 none
        (toLE 1 k ++ toLE 1 (if m = 0 then 0 else 1) ++ zeros 2 ++ toLE 2 r.value ++ toLE 2 r.threshold) s)
    { s with reserve := { s.reserve with atMask := m } }

/-! ### Queue errors (R316, R318) -/

/-- A FIREBREAK record (R377, R411), counted among the unexplained faults (R403). -/
def firebreak (row : Nat) (stamp : BitVec 4) (owner : Option Partition) (s : State) : State :=
  let o := match owner with | some x => x.num.toNat | none => 0xFF
  settleReserve (record 0x0A 0x60 1 none (toLE 1 row ++ toLE 1 stamp.toNat ++ toLE 1 o)
    { s with reserve := { s.reserve with unexplained := s.reserve.unexplained + 1 } })

/-- A pair's queue error: QERR bit, EVENTS.QERR, one HOST record of kind 0. -/
def queueError (qp : Nat) (s : State) : State :=
  recordHost 0 qp (raiseEvent evQerr { s with bar := { s.bar with qerr := s.bar.qerr ||| (1#64 <<< qp) } })

/-- The pair stops fetching until it is deleted and created again. -/
def stopPair (qp : BitVec 6) (s : State) : State :=
  updPair qp (fun q => { q with state := if q.state = .active then .stopped else q.state }) s

/-! ### The features of R314 -/

/-- Bits 0 to 7 are offered at B0. -/
def offered : BitVec 128 := 0xFF

def featBase : Nat := 0
def featExpert : Nat := 1
def featHdm : Nat := 2
def featFabric : Nat := 3
def featKv : Nat := 4
def featConf : Nat := 5
def featFixed : Nat := 6
def featHealth : Nat := 7

def agreed (s : State) (k : Nat) : Bool := s.bar.agreed.getLsbD k

/-! ### Configuration and firmware versions -/

/-- IDENT_CFG.VERSION: 0 while no set is in force. -/
def cfgVersion (s : State) : U32 := match s.config.inForce with | some c => c.version | none => 0

/-- The running image; none in recovery mode (R422). -/
def runningImage (s : State) : List Byte :=
  if s.start.stage = 0xF1 then [] else ((if s.firmware.runsB then s.firmware.slotB else s.firmware.slotA)).getD []

/-- VERSION of R384 of an image. -/
def imageVersion (img : List Byte) : U32 := fld32 img 4

/-! ### BAR0 as reads return it (R312, R313, R316, R413) -/

/-- DEV_STATUS (R316). -/
def devStatus (s : State) : U32 :=
  BitVec.ofNat 32 ((if s.start.ready then 1 else 0) + (if s.bar.negotiated then 2 else 0)
    + (if reserveLow s then 4 else 0) + (if s.start.oos then 8 else 0) + (if s.cxl.x4 then 16 else 0)
    + (if s.bar.qerr ≠ 0 then 32 else 0) + (if s.bar.admqDel then 64 else 0) + 256 * s.start.stage.toNat)

/-- The low and the high half of a 64-bit register. -/
def lo32 (x : U64) : U32 := x.setWidth 32
def hi32 (x : U64) : U32 := (x >>> 32).setWidth 32
def part32 (x : BitVec 128) (k : Nat) : U32 := (x >>> (32 * k)).setWidth 32

/-- The event recorder's cursor registers (R413). -/
def cursorRead (s : State) (off : Nat) : U32 :=
  let n := BitVec.ofNat 64 s.recorder.next
  if off = 0x4000 then lo32 n
  else if off = 0x4004 then hi32 n
  else if off = 0x4008 then lo32 s.bar.recStart
  else if off = 0x400C then hi32 s.bar.recStart
  else if off = 0x4010 then
    BitVec.ofNat 32 (s.bar.window.length + 2 ^ 13 * s.bar.recCount + (if s.bar.recGap then 2 ^ 30 else 0)
      + (if s.bar.recBusy then 2 ^ 31 else 0))
  else if off = 0x4014 then lo32 s.bar.recFirst
  else if off = 0x4018 then hi32 s.bar.recFirst
  else 0

/-- An aligned 32-bit read of BAR0. -/
def barRead (s : State) (off : Nat) : U32 :=
  if off = 0x0000 then 0x01101792
  else if off = 0x0008 then lo32 Config.serial
  else if off = 0x000C then hi32 Config.serial
  else if off = 0x0010 then
    BitVec.ofNat 32 ((imageVersion (runningImage s)).toNat % 2 ^ 24 + (if s.firmware.runsB then 2 ^ 24 else 0))
  else if off = 0x0014 then cfgVersion s
  else if off = 0x0018 then s.fabric.devId.setWidth 32
  else if 0x1000 ≤ off ∧ off < 0x1010 then part32 offered ((off - 0x1000) / 4)
  else if 0x1010 ≤ off ∧ off < 0x1020 then part32 s.bar.requested ((off - 0x1010) / 4)
  else if 0x1020 ≤ off ∧ off < 0x1030 then part32 s.bar.agreed ((off - 0x1020) / 4)
  else if off = 0x3000 then devStatus s
  else if off = 0x3004 then (if s.bar.admqEn then 2 else 0)
  else if off = 0x3008 then lo32 s.bar.admqSq
  else if off = 0x300C then hi32 s.bar.admqSq
  else if off = 0x3010 then lo32 s.bar.admqCq
  else if off = 0x3014 then hi32 s.bar.admqCq
  else if off = 0x3018 then s.bar.admqCfg.setWidth 32
  else if off = 0x3020 then lo32 s.bar.qerr
  else if off = 0x3024 then hi32 s.bar.qerr
  else if off = 0x3030 then s.bar.events.setWidth 32
  else if off = 0x3034 then s.bar.mask.setWidth 32
  else if 0x4000 ≤ off ∧ off < 0x5000 then cursorRead s off
  else if 0x5000 ≤ off ∧ off < 0x6000 then BitVec.ofNat 32 (fld s.bar.window (off - 0x5000) 4)
  else if 0x6000 ≤ off ∧ off < 0x6410 then
    let e := nth s.bar.msix ((off - 0x6000) / 16) MsixEntry.fresh
    if off % 16 = 0 then lo32 e.addr else if off % 16 = 4 then hi32 e.addr
    else if off % 16 = 8 then e.data else e.ctrl
  else if 0x7000 ≤ off ∧ off < 0x700C then (s.bar.pba >>> (8 * (off - 0x7000))).setWidth 32
  else 0

/-- A read of BAR0 of any size: only an aligned 4-byte read is served, any other returns all ones (R312). -/
def barReadSized (s : State) (off size : Nat) : Nat :=
  if size = 4 ∧ off % 4 = 0 then (barRead s off).toNat else 2 ^ (8 * size) - 1

end Sys2Proof.Machine
end

