-- ==== Sys2Proof/Machine/Num.lean ====
section
/-! DEFINITION. Exact values and their formats (R42 to R47), rounding (R61 to R63), and binary32
arithmetic with one rounding (R47, R65, R94). -/
namespace Sys2Proof.Machine

/-- An exact value: NaN, an infinity, or a sign with the magnitude n / d (d is never 0). -/
inductive Num where
  | nan (neg : Bool)
  | inf (neg : Bool)
  | fin (neg : Bool) (n d : Nat)
deriving DecidableEq, Repr

namespace Num

def zero : Num := .fin false 0 1
def one : Num := .fin false 1 1
def ofNat (n : Nat) : Num := .fin false n 1
def ofInt (i : Int) : Num := .fin (i < 0) i.natAbs 1

def isNan : Num → Bool
  | .nan _ => true
  | _ => false

def isFinite : Num → Bool
  | .fin _ _ _ => true
  | _ => false

def isZero : Num → Bool
  | .fin _ n _ => n = 0
  | _ => false

def neg : Num → Num
  | .nan s => .nan (!s)
  | .inf s => .inf (!s)
  | .fin s n d => .fin (!s) n d

def abs : Num → Num
  | .nan _ => .nan false
  | .inf _ => .inf false
  | .fin _ n d => .fin false n d

/-- Whether the sign bit is set. -/
def sign : Num → Bool
  | .nan s => s
  | .inf s => s
  | .fin s _ _ => s

/-- n / d times 2^k. -/
def scale2 (k : Int) : Num → Num
  | .fin s n d => if 0 ≤ k then .fin s (n * 2 ^ k.toNat) d else .fin s n (d * 2 ^ (-k).toNat)
  | x => x

/-- Exact product. Infinity times zero is NaN; a NaN keeps its sign (R62). -/
def mul : Num → Num → Num
  | .nan s, _ => .nan s
  | _, .nan s => .nan s
  | .inf s, .inf t => .inf (s != t)
  | .inf s, .fin t n _ => if n = 0 then .nan false else .inf (s != t)
  | .fin s n _, .inf t => if n = 0 then .nan false else .inf (s != t)
  | .fin s n d, .fin t m e => .fin (s != t) (n * m) (d * e)

/-- Exact quotient by a finite non-zero value; anything else is NaN, and a NaN keeps its sign (R62). -/
def div : Num → Num → Num
  | .nan s, _ => .nan s
  | .inf s, .fin t m _ => if m = 0 then .nan false else .inf (s != t)
  | .fin s n d, .fin t m e => if m = 0 then .nan false else .fin (s != t) (n * e) (d * m)
  | _, _ => .nan false

/-- The signed numerator. -/
def num : Num → Int
  | .fin s n _ => if s then -(n : Int) else n
  | _ => 0

/-- The denominator. -/
def den : Num → Nat
  | .fin _ _ d => d
  | _ => 1

/-- A signed quotient, zero taken as +0. -/
def ofRatio (i : Int) (d : Nat) : Num := .fin (i < 0) i.natAbs d

/-- Exact sum under IEEE 754 rules for zeros: opposite zeros, or an exact cancellation, give +0. -/
def add : Num → Num → Num
  | .nan _, _ => .nan false
  | _, .nan _ => .nan false
  | .inf s, .inf t => if s = t then .inf s else .nan false
  | .inf s, .fin _ _ _ => .inf s
  | .fin _ _ _, .inf t => .inf t
  | .fin s n d, .fin t m e =>
    if n = 0 ∧ m = 0 then .fin (s && t) 0 1
    else ofRatio ((if s then -(n : Int) else n) * e + (if t then -(m : Int) else m) * d) (d * e)

def sub (a b : Num) : Num := add a (neg b)

/-- a < b for numbers; false when either is NaN. The two zeros are equal. -/
def lt : Num → Num → Bool
  | .nan _, _ => false
  | _, .nan _ => false
  | .inf s, .inf t => s && !t
  | .inf s, .fin _ _ _ => s
  | .fin _ _ _, .inf t => !t
  | a, b => a.num * b.den < b.num * a.den

/-- a ≤ b for numbers; false when either is NaN. -/
def le (a b : Num) : Bool := !a.isNan && !b.isNan && !lt b a

end Num

/-! ### Rounding -/

/-- floor(log2(n / d)) for n, d > 0. -/
def flog2 (n d : Nat) : Int :=
  let k : Int := (Nat.log2 n : Int) - Nat.log2 d
  -- n / d lies in (2^(k-1), 2^(k+1))
  if 0 ≤ k then (if n < d * 2 ^ k.toNat then k - 1 else k)
  else (if n * 2 ^ (-k).toNat < d then k - 1 else k)

/-- Nearest integer to n / d, ties to even. -/
def rne (n d : Nat) : Nat :=
  let q := n / d
  let r := n % d
  if 2 * r < d then q
  else if d < 2 * r then q + 1
  else if q % 2 = 0 then q else q + 1

/-- Magnitude code of n / d on a grid with `mbits` fraction bits and least exponent `emin`, rounded to
nearest, ties to even, with no upper limit: exponent field above the fraction, subnormals included. -/
def roundMag (mbits : Nat) (emin : Int) (n d : Nat) : Nat :=
  if n = 0 then 0
  else
    let e := max (flog2 n d) emin
    let k := (mbits : Int) - e
    let q := if 0 ≤ k then rne (n * 2 ^ k.toNat) d else rne n (d * 2 ^ (-k).toNat)
    (e - emin).toNat * 2 ^ mbits + q

/-- The value that a magnitude code stands for: (n, d). -/
def magValue (mbits : Nat) (emin : Int) (code : Nat) : Nat × Nat :=
  let ef := code / 2 ^ mbits
  let man := code % 2 ^ mbits
  let m := if ef = 0 then man else 2 ^ mbits + man
  let k : Int := emin - mbits + (if ef = 0 then 0 else (ef : Int) - 1)
  if 0 ≤ k then (m * 2 ^ k.toNat, 1) else (m, 2 ^ (-k).toNat)

/-! ### Formats (R42, R43, R47) -/

/-- The element formats of R42. -/
inductive Fmt where
  | cb8 | cb8e5 | cb6 | cb4 | int8 | f16 | bf16 | f32 | aa128
deriving DecidableEq, Repr

namespace Fmt

def ofCode : Nat → Option Fmt
  | 0x01 => some .cb8
  | 0x02 => some .cb8e5
  | 0x03 => some .cb6
  | 0x04 => some .cb4
  | 0x08 => some .int8
  | 0x10 => some .f16
  | 0x11 => some .bf16
  | 0x12 => some .f32
  | 0x20 => some .aa128
  | _ => none

/-- Element size in bits (R42). -/
def bits : Fmt → Nat
  | .cb8 => 8 | .cb8e5 => 8 | .cb6 => 6 | .cb4 => 4 | .int8 => 8
  | .f16 => 16 | .bf16 => 16 | .f32 => 32 | .aa128 => 128

def isBlock : Fmt → Bool
  | .cb8 => true | .cb8e5 => true | .cb6 => true | .cb4 => true | _ => false

def isBinary : Fmt → Bool
  | .f16 => true | .bf16 => true | .f32 => true | _ => false

/-- Fraction bits. -/
def mbits : Fmt → Nat
  | .cb8 => 3 | .cb8e5 => 2 | .cb6 => 3 | .cb4 => 1 | .int8 => 0
  | .f16 => 10 | .bf16 => 7 | .f32 => 23 | .aa128 => 0

/-- Exponent of the smallest normal value; EMIN of R47 for binary formats. -/
def emin : Fmt → Int
  | .cb8 => -6 | .cb8e5 => -14 | .cb6 => 0 | .cb4 => 0 | .int8 => 0
  | .f16 => -14 | .bf16 => -126 | .f32 => -126 | .aa128 => 0

/-- EMAX of R43. -/
def emax : Fmt → Int
  | .cb8 => 8 | .cb8e5 => 15 | .cb6 => 2 | .cb4 => 2 | _ => 0

/-- Code of the largest finite magnitude. -/
def maxCode : Fmt → Nat
  | .cb8 => 0x7E | .cb8e5 => 0x7B | .cb6 => 0x1F | .cb4 => 0x7 | .int8 => 127
  | .f16 => 0x7BFF | .bf16 => 0x7F7F | .f32 => 0x7F7FFFFF | .aa128 => 0

/-- The format constant K of R53 and R115. -/
def k : Fmt → Int
  | .cb8 => 9 | .cb8e5 => 16 | .cb6 => 9 | .cb4 => 9 | .int8 => 8
  | .f16 => 1 | .bf16 => 1 | .f32 => 1 | .aa128 => 24

/-- Sign bit position. -/
def signBit (f : Fmt) : Nat := f.bits - 1

/-- The value of an element code, before any scale (R43, R46, R47). -/
def value (f : Fmt) (code : Nat) : Num :=
  match f with
  | .int8 => Num.ofInt (BitVec.ofNat 8 code).toInt
  | .aa128 => .nan false
  | _ =>
    let s := code / 2 ^ f.signBit % 2 = 1
    let m := code % 2 ^ f.signBit
    if m ≤ f.maxCode then let v := magValue f.mbits f.emin m; .fin s v.1 v.2
    else if (f = .cb8e5 ∧ m = 0x7C) ∨ (f.isBinary ∧ m = f.maxCode + 1) then .inf s
    else .nan s

/-- The element's exponent as MAXEXP counts it for a binary format (R49): none when not finite. -/
def exponent (f : Fmt) (code : Nat) : Option Int :=
  let m := code % 2 ^ f.signBit
  if m ≤ f.maxCode then
    let ef := m / 2 ^ f.mbits
    some (if ef = 0 then f.emin else f.emin + (ef : Int) - 1)
  else none

end Fmt

/-- What R64 counts for one element written. -/
inductive Outcome3 where
  | plain | zero | saturated | nonfinite
deriving DecidableEq, Repr

/-- Conversion to a binary format (R61): overflow goes to infinity, NaN to the canonical code. -/
def toBinary (f : Fmt) : Num → Nat × Outcome3
  | .nan _ => (f.maxCode + 1 + 2 ^ (f.mbits - 1), .nonfinite)
  | .inf s => ((if s then 2 ^ f.signBit else 0) + f.maxCode + 1, .nonfinite)
  | .fin s n d =>
    let m := roundMag f.mbits f.emin n d
    let sg := if s then 2 ^ f.signBit else 0
    if m = 0 then (sg, .zero)
    else if f.maxCode < m then (sg + f.maxCode + 1, .nonfinite)
    else (sg + m, .plain)

/-- Conversion to INT8 (R63). -/
def toInt8 : Num → Nat × Outcome3
  | .nan _ => (0, .nonfinite)
  | .inf s => (if s then 129 else 127, .saturated)
  | .fin s n d =>
    let m := rne n d
    if 127 < m then (if s then 129 else 127, .saturated)
    else if m = 0 then (0, .zero)
    else (if s then 256 - m else m, .plain)

/-- One element of a block, already divided by the block's scale (R62, step 2 and the rules for NaN and infinity). A value that
rounds down onto the largest finite value is no saturation (R64). -/
def toElement (f : Fmt) : Num → Nat × Outcome3
  | .nan s => (if f = .cb8 then (if s then 0xFF else 0x7F) else if f = .cb8e5 then (if s then 0xFE else 0x7E) else 0, .nonfinite)
  | .inf s => (if f = .cb8 then (if s then 0xFF else 0x7F) else if f = .cb8e5 then (if s then 0xFC else 0x7C) else 0, .nonfinite)
  | .fin s n d =>
    let sg := if s then 2 ^ f.signBit else 0
    let m := roundMag f.mbits f.emin n d
    if f.maxCode < m then (sg + f.maxCode, .saturated)
    else if m = 0 then (sg, .zero)
    else (sg + m, .plain)

/-- The scale exponent of a block (R62, step 1), from its finite values. -/
def blockExp (f : Fmt) (vs : List Num) : Int :=
  let m := vs.foldl (fun acc v => match v with
    | .fin _ _ _ => if Num.lt acc v.abs then v.abs else acc
    | _ => acc) Num.zero
  match m with
  | .fin _ n d => if n = 0 then -127 else max (-127) (min 127 (flog2 n d - f.emax))
  | _ => -127

/-- Conversion of one block (R62): scale code, element codes, outcomes. A CB6 or CB4 block that holds
a NaN or an infinity takes scale code 255 and zero codes, every element counting as non-finite. -/
def toBlock (f : Fmt) (vs : List Num) : Nat × List Nat × List Outcome3 :=
  if (f = .cb6 ∨ f = .cb4) ∧ vs.any (fun v => !v.isFinite) then
    (255, vs.map fun _ => 0, vs.map fun _ => .nonfinite)
  else
    let e := blockExp f vs
    let es := vs.map fun v => toElement f (v.scale2 (-e))
    ((e + 127).toNat, es.map (·.1), es.map (·.2))

/-! ### binary32 (R47, R65) -/

/-- The exact value of a binary32 pattern. -/
def num32 (x : F32) : Num := Fmt.f32.value x.toNat

/-- RN: the exact value rounded once to binary32; any NaN is 0x7FC0_0000. -/
def rn (v : Num) : F32 := BitVec.ofNat 32 (toBinary .f32 v).1

def f32Zero : F32 := 0
def f32One : F32 := 0x3F800000
def f32NaN : F32 := 0x7FC00000
def f32Inf : F32 := 0x7F800000
def f32NegInf : F32 := 0xFF800000

def fadd (a b : F32) : F32 := rn (Num.add (num32 a) (num32 b))
def fsub (a b : F32) : F32 := rn (Num.sub (num32 a) (num32 b))
def fmul (a b : F32) : F32 := rn (Num.mul (num32 a) (num32 b))
/-- fma(a, b, c): a × b + c with a single rounding. -/
def ffma (a b c : F32) : F32 := rn (Num.add (Num.mul (num32 a) (num32 b)) (num32 c))
/-- Sign inverted; a NaN stays the canonical NaN. -/
def fneg (a : F32) : F32 := if (num32 a).isNan then f32NaN else a ^^^ 0x80000000#32
/-- Sign cleared. -/
def fabs (a : F32) : F32 := if (num32 a).isNan then f32NaN else a &&& 0x7FFFFFFF#32
/-- A copy; a NaN becomes the canonical NaN. -/
def fcopy (a : F32) : F32 := if (num32 a).isNan then f32NaN else a

/-- min of R136: NaN if either is NaN; min(−0, +0) = −0. -/
def fmin (a b : F32) : F32 :=
  let x := num32 a; let y := num32 b
  if x.isNan || y.isNan then f32NaN
  else if x.isZero && y.isZero then a ||| b
  else if Num.lt y x then b else a

/-- max of R136: NaN if either is NaN; max(−0, +0) = +0. -/
def fmax (a b : F32) : F32 :=
  let x := num32 a; let y := num32 b
  if x.isNan || y.isNan then f32NaN
  else if x.isZero && y.isZero then a &&& b
  else if Num.lt x y then b else a

/-- An integer as binary32. -/
def f32OfNat (n : Nat) : F32 := rn (Num.ofNat n)

/-- Whether a binary32 field is positive, normal and finite (R49). -/
def f32Normal (x : F32) : Bool := 0x00800000 ≤ x.toNat && x.toNat ≤ 0x7F7FFFFF

/-- Whether a binary32 field is finite. -/
def f32Finite (x : F32) : Bool := (num32 x).isFinite

/-- ceil(log2 x) of a positive finite value (R115). -/
def clog2 (x : F32) : Int :=
  match num32 x with
  | .fin _ n d => let e := flog2 n d
                  if 0 ≤ e then (if n = d * 2 ^ e.toNat then e else e + 1)
                  else (if n * 2 ^ (-e).toNat = d then e else e + 1)
  | _ => 0

end Sys2Proof.Machine
end

