-- ==== Sys2Proof/Machine/Slots.lean ====
section
/-! DEFINITION. The operand fields of every operator of the catalogue (R109, R117 to R145): where each
lies in the descriptor, what it names, whether it is required, read, written. -/
namespace Sys2Proof.Machine

/-- Fields of a descriptor (R108, R109). -/
def opCode (raw : List Byte) : Nat := fld raw 0 2
def opForm (raw : List Byte) : Nat := fld raw 2 1
def opPhase (raw : List Byte) : Nat := fld raw 3 1
def opPlace (raw : List Byte) : Nat := fld raw 4 2
def opExpertRef (raw : List Byte) : Nat := fld raw 6 2
def opExpert (raw : List Byte) : Bool := opForm raw % 2 = 1
def opFast (raw : List Byte) : Bool := opForm raw / 2 % 2 = 1

/-- An operand field. -/
structure Slot where
  off : Nat
  tensor : Bool
  required : Bool
  reads : Bool
  writes : Bool
deriving DecidableEq, Repr

def tIn (off : Nat) : Slot := ⟨off, true, true, true, false⟩
def tOpt (off : Nat) : Slot := ⟨off, true, false, true, false⟩
def tOut (off : Nat) : Slot := ⟨off, true, true, false, true⟩
def tOutOpt (off : Nat) : Slot := ⟨off, true, false, false, true⟩
def iIn (off : Nat) : Slot := ⟨off, false, true, true, false⟩
def iOpt (off : Nat) : Slot := ⟨off, false, false, true, false⟩
def iOut (off : Nat) : Slot := ⟨off, false, true, false, true⟩
def iOutOpt (off : Nat) : Slot := ⟨off, false, false, false, true⟩

/-- The operator codes of R114. -/
def catalogue : List Nat :=
  [0x0001, 0x0002, 0x0010, 0x0011, 0x0012, 0x0020, 0x0021, 0x0022, 0x0030, 0x0031, 0x0032, 0x0040, 0x0041,
   0x0042, 0x0050, 0x0051, 0x0060, 0x0061, 0x0062, 0x0063, 0x0070, 0x0080, 0x0081, 0x0082, 0x0083, 0x0084,
   0x0090, 0x0091, 0x0120, 0x0150, 0x0151, 0x0160, 0x0161, 0x0162]

/-- Operators whose global reduction index is "none" (R114): FAST may not be set. -/
def noReduction (raw : List Byte) : Bool :=
  let c := opCode raw
  [0x0001, 0x0002, 0x0022, 0x0030, 0x0032, 0x0040, 0x0041, 0x0042, 0x0063, 0x0082, 0x0083, 0x0084, 0x0090].contains c
    || (c = 0x0031 && fld raw 0x0F 1 ≠ 1)

/-- The operand fields of an operator. -/
def slots (raw : List Byte) : List Slot :=
  match opCode raw with
  | 0x0001 => [tIn 0x08]
  | 0x0002 => [tIn 0x08, tOut 0x0A]
  | 0x0010 => [tIn 0x08, tIn 0x0A, tOut 0x0C, tOpt 0x0E]
  | 0x0011 => [tIn 0x08, tIn 0x0A, tOut 0x0C, tOpt 0x0E]
  | 0x0012 => [tIn 0x08, tIn 0x0A, tOut 0x0C, iIn 0x12, iOpt 0x14]
  | 0x0020 => [tIn 0x08, tIn 0x0A, tIn 0x0C, tOut 0x0E, tOutOpt 0x10, iIn 0x12]
  | 0x0021 => [tIn 0x08, tOut 0x0E, tOutOpt 0x10, iIn 0x12, iIn 0x2A]
  | 0x0022 => [tIn 0x08, tIn 0x0A, iIn 0x0C, iIn 0x0E]
  | 0x0030 => [tIn 0x08, tOut 0x0A, iIn 0x0C]
  | 0x0031 => [tIn 0x08, ⟨0x0A, true, true, fld raw 0x0F 1 = 1, true⟩, iIn 0x0C]
  | 0x0032 => [tIn 0x08, tOut 0x0A, iIn 0x0C]
  | 0x0040 => [tIn 0x08, tOutOpt 0x0C, iOut 0x0E]
  | 0x0041 =>
    if fld raw 0x08 2 = 0xFFFF then [iIn 0x0A, iOut 0x0C, iOut 0x0E] else [tIn 0x08, tOut 0x0C, iOut 0x0E]
  | 0x0042 => [tIn 0x08, tIn 0x0A, tOpt 0x0C, tOut 0x0E]
  | 0x0050 => [tIn 0x08, tIn 0x0A, tOut 0x0C, tOpt 0x0E]
  | 0x0051 => [tIn 0x08, tIn 0x0A, tOut 0x0C, tOpt 0x0E]
  | 0x0060 => [tIn 0x08, tOut 0x0A, tOpt 0x0C, tOutOpt 0x10]
  | 0x0061 => [tIn 0x08, tOut 0x0A, tOpt 0x0C, tOpt 0x0E, tOutOpt 0x10]
  | 0x0062 => [tIn 0x08, tOut 0x0A]
  | 0x0063 => [tIn 0x08, tOpt 0x0A, tOpt 0x0C, tOpt 0x0E, tOut 0x10]
  | 0x0070 => [tIn 0x08, iIn 0x0A, iOut 0x0C, iOutOpt 0x0E]
  | 0x0080 => [tIn 0x08, tOut 0x0A]
  | 0x0081 => [tIn 0x08, tOut 0x0A]
  | 0x0082 => [tIn 0x08, tOut 0x0A]
  | 0x0083 => [tIn 0x08, tOut 0x0A, iIn 0x0C]
  | 0x0084 => [tIn 0x08, tOut 0x0A]
  | 0x0090 =>
    let adam := fld raw 0x1C 1 = 1
    [tOut 0x08, tIn 0x0A, tOut 0x0C, tIn 0x0E, tIn 0x10, tOut 0x12]
      ++ (if adam then [tIn 0x14, tOut 0x16] else []) ++ [iIn 0x18, iOutOpt 0x1A]
  | 0x0091 => [tIn 0x08, iIn 0x0A, tOut 0x0C, tOutOpt 0x0E]
  | 0x0120 => [tIn 0x08, tIn 0x0A, tIn 0x0C, tIn 0x0E, tIn 0x10, tIn 0x12, tOut 0x14, tOut 0x16, tOut 0x18, iIn 0x1A]
  | 0x0150 => [tOpt 0x08, tOpt 0x0A, tIn 0x0C, tOut 0x0E]
  | 0x0151 => [tOpt 0x08, tOpt 0x0A, tIn 0x0C, tOut 0x0E]
  | 0x0160 => [tIn 0x08, tIn 0x0A, tOpt 0x0C, tOut 0x0E, tIn 0x10, tOutOpt 0x12]
  | 0x0161 => [tIn 0x08, tIn 0x0A, tOpt 0x0C, tOut 0x0E, tIn 0x10, tOutOpt 0x12, tOutOpt 0x14]
  | 0x0162 => [tIn 0x08, tIn 0x0A, tOut 0x0C]
  | _ => []

/-- What the slots that satisfy `p` name, absent ones left out. -/
def named (p : Slot → Bool) (raw : List Byte) : List Nat :=
  ((slots raw).filter p).filterMap fun x =>
    let v := fld raw x.off 2
    if v = 0xFFFF then none else some v

def tensorsIn (raw : List Byte) : List Nat := named (fun x => x.tensor && x.reads) raw
def tensorsOut (raw : List Byte) : List Nat := named (fun x => x.tensor && x.writes) raw
def indexIn (raw : List Byte) : List Nat := named (fun x => !x.tensor && x.reads) raw
def indexOut (raw : List Byte) : List Nat := named (fun x => !x.tensor && x.writes) raw

end Sys2Proof.Machine
end

