-- ==== Sys2Proof/Machine/Shards.lean ====
section
/-! DEFINITION. Where the elements of a tensor lie: shapes (R110, R165), storage order and planes (R44, R48, R150), the dealing of
tiles to groves (R112, R113) and the shards of grove-store tensors (R151); and the operator of a running step. -/
namespace Sys2Proof.Machine

/-! ### Shapes -/

def prod (l : List Nat) : Nat := l.foldl (· * ·) 1

def Tensor.fmt (t : Tensor) : Fmt := (Fmt.ofCode t.format).getD .f32
def Tensor.health (t : Tensor) : Bool := t.nflags % 2 = 1
def Tensor.batched (t : Tensor) : Bool := t.nflags / 2 % 2 = 1

/-- The four extents, SEQ_DIM's taken as B in a batched step (R165). -/
def Tensor.dims (t : Tensor) (batch : Option Nat) : List Nat :=
  match batch with
  | some b => if t.batched then setAt t.ext t.seqDim (fun _ => b) else t.ext
  | none => t.ext

/-- The declared dimensions, for shape relations. -/
def Tensor.shape (t : Tensor) (batch : Option Nat) : List Nat := (t.dims batch).take t.ndim

/-- A shape with leading dimensions of 1 up to `n`; none when there are more than `n` (R110). -/
def leadTo (n : Nat) (l : List Nat) : Option (List Nat) :=
  if l.length ≤ n then some (List.replicate (n - l.length) 1 ++ l) else none

/-- Sequence of a logical element: its coordinate along SEQ_DIM. -/
def coord (dims : List Nat) (d k : Nat) : Nat := k / prod (dims.drop (d + 1)) % nth dims d 1

/-! ### Storage order (R48, R150) -/

/-- Blocks along the blocked dimension. -/
def blocksAlong (dims : List Nat) (bd : Nat) : Nat := ceilDiv (nth dims bd 1) 32

/-- Block of a logical element and its place in it (R48). -/
def blockOf (dims : List Nat) (bd k : Nat) : Nat × Nat :=
  let inner := prod (dims.drop (bd + 1))
  let d := nth dims bd 1
  let x := k / inner % d
  (((k / (inner * d)) * blocksAlong dims bd + x / 32) * inner + k % inner, x % 32)

/-- Logical element of a place in a block; none for padding. -/
def elemOf (dims : List Nat) (bd j w : Nat) : Option Nat :=
  let inner := prod (dims.drop (bd + 1))
  let d := nth dims bd 1
  let r := j / inner
  let x := (r % blocksAlong dims bd) * 32 + w
  if x < d then some ((r / blocksAlong dims bd * d + x) * inner + j % inner) else none

/-- Blocks of a block-format tensor. -/
def blockCount (dims : List Nat) (bd : Nat) : Nat :=
  prod (dims.take bd) * blocksAlong dims bd * prod (dims.drop (bd + 1))

/-- Index of an element in the data plane. -/
def storeIdx (t : Tensor) (dims : List Nat) (k : Nat) : Nat :=
  if t.fmt.isBlock then let b := blockOf dims t.blockDim k; b.1 * 32 + b.2 else k

/-- Bytes of the data plane and of the scale plane. -/
def planeSize (t : Tensor) (dims : List Nat) (scales : Bool) : Nat :=
  if t.fmt.isBlock then
    let n := blockCount dims t.blockDim
    if scales then n else n * 4 * t.fmt.bits
  else if scales then 0 else prod dims * (t.fmt.bits / 8)

/-- Device address of byte `n` of a plane (R150). -/
def planeAddr (start span colstep n : Nat) : Nat :=
  start + colstep * (n / (span * 64)) * 2 ^ 17 + n % (span * 64)

def Tensor.byteAddr (t : Tensor) (scales : Bool) (n : Nat) : Nat :=
  planeAddr (if scales then t.scales else t.data) t.span t.colstep n

/-- All device addresses of a tensor's planes; none for a LOCUS 1 tensor. -/
def Tensor.addrs (t : Tensor) (dims : List Nat) : List Nat :=
  if t.locus = 1 then []
  else ((List.range (planeSize t dims false)).map (t.byteAddr false))
    ++ ((List.range (planeSize t dims true)).map (t.byteAddr true))

/-! ### The operator at hand -/

/-- An operator of the running step of a context. -/
structure Env where
  part : BitVec 4
  ctx : Nat
  handle : U32
  op : Nat
  raw : List Byte
  batch : Option Nat
  tag : U32

def Env.f1 (e : Env) (off : Nat) : Nat := fld e.raw off 1
def Env.f2 (e : Env) (off : Nat) : Nat := fld e.raw off 2
def Env.f4 (e : Env) (off : Nat) : Nat := fld e.raw off 4
def Env.bits (e : Env) (off : Nat) : F32 := fld32 e.raw off
/-- Whether an operand field names something. -/
def Env.has (e : Env) (off : Nat) : Bool := e.f2 off ≠ 0xFFFF

/-- A plan with nothing in it, the default of a look-up that never fails on a running step. -/
def Plan.none : Plan :=
  { handle := 0, ctx := 0, batched := false, batchMax := 0, ops := [], tensors := [], index := [], place := [],
    expert := [], edges := [], binds := [], image := [], fill := 0, wait := 0, unloading := Option.none }

def Tensor.none : Tensor :=
  { format := 0x12, nflags := 0, maxexp := 0, l2 := f32One, id := 0, blockDim := 0, seqDim := 0, seqmax := 0,
    data := 0, scales := 0, ext := [1, 1, 1, 1], ndim := 1, locus := 0, span := 1, colstep := 1 }

def Env.plan (e : Env) (s : State) : Plan :=
  match findPart s e.part with
  | some p => (p.plan e.handle).getD Plan.none
  | none => Plan.none

def Env.tensor (e : Env) (s : State) (i : Nat) : Tensor := nth (e.plan s).tensors i Tensor.none

def Env.dims (e : Env) (t : Tensor) : List Nat := t.dims e.batch
def Env.shape (e : Env) (t : Tensor) : List Nat := t.shape e.batch

/-- The running step of the operator's context. -/
def Env.step (e : Env) (s : State) : Option RunningStep :=
  match findPart s e.part with
  | some p => (p.context e.ctx).step
  | none => none

def Env.updStep (e : Env) (f : RunningStep → RunningStep) (s : State) : State :=
  updCtx e.part e.ctx (fun c => { c with step := c.step.map f }) s

/-- GEN for the partition's writes (R391). -/
def Env.gen (e : Env) (s : State) : Bool := match findPart s e.part with | some p => p.gen | none => false

/-! ### Dealing of tiles (R112, R113, R151, R153) -/

/-- The groves of a placement set, ascending (R153, R113). -/
def placeSet (x : U64 × U64) : List Nat :=
  (List.range 8).flatMap fun ty =>
    let ts := (List.range 8).filter fun tx => hasTract x.1 (8 * ty + tx)
    if ts.isEmpty then []
    else (List.range 8).flatMap fun py =>
      let ps := (List.range 8).filter fun px => hasTract x.2 (8 * py + px)
      ts.flatMap fun tx => ps.map fun px => groveAt (8 * ty + tx) (8 * py + px)

/-- How the tiles of an output are dealt: groves in turn, the sides of a share in tiles (both 0: 64 tiles in order), and
whether in column-major order. -/
structure Deal where
  groves : List Nat
  m : Nat
  n : Nat
  colMajor : Bool

/-- The expert block of an operator; all zeros where it has none. -/
def expertOf (plan : Plan) (raw : List Byte) : List Byte := if opExpert raw then nth plan.expert (opExpertRef raw) [] else []

/-- The tile sides in force, in tiles: a side left 0 takes as many as R103 allows beside the other; both 0 in the basic
form (R112, R113). -/
def tileSides (x : List Byte) : Nat × Nat :=
  let m := fld x 0 4 / 16
  let n := fld x 4 4 / 16
  if m = 0 ∧ n = 0 then (0, 0)
  else if m = 0 then (max 1 (64 / n), n)
  else if n = 0 then (m, max 1 (64 / m))
  else (m, n)

/-- The groves that HALF leaves of a set (R112). -/
def halfGroves (half : Nat) (gs : List Nat) : List Nat :=
  match half with
  | 1 => gs.filter fun g => gx g < 32
  | 2 => gs.filter fun g => !decide (gx g < 32)
  | _ => gs

/-- The dealing of an operator over the shares of a LOCUS 1 tensor: ascending grove number whatever NEAR prefers, which
R151 does not list among the fields that the operators of a tensor share (assumption 91). -/
def dealOf (plan : Plan) (raw : List Byte) : Deal :=
  let x := expertOf plan raw
  let d := tileSides x
  ⟨halfGroves (fld x 0x11 1) (placeSet (nth plan.place (opPlace raw) (0, 0))), d.1, d.2, fld x 0x0D 1 = 1⟩

/-- A grid of output tiles: matrices, tile rows and tile columns of each. -/
structure Grid where
  mats : Nat
  rows : Nat
  cols : Nat

def Grid.tiles (g : Grid) : Nat := g.mats * g.rows * g.cols

/-- Shares in each matrix, down and across; 0 in the basic form. -/
def Deal.down (d : Deal) (g : Grid) : Nat := ceilDiv g.rows d.m
def Deal.across (d : Deal) (g : Grid) : Nat := ceilDiv g.cols d.n

/-- How many shares the tiles make. -/
def Deal.shares (d : Deal) (g : Grid) : Nat :=
  if d.m = 0 then ceilDiv g.tiles 64 else g.mats * (d.down g * d.across g)

/-- Row and column of a share among those of its matrix. -/
def Deal.corner (d : Deal) (g : Grid) (k : Nat) : Nat × Nat :=
  let r := k % (d.down g * d.across g)
  if d.colMajor then (r % d.down g, r / d.down g) else (r / d.across g, r % d.across g)

/-- Tiles in a share. -/
def Deal.size (d : Deal) (g : Grid) (k : Nat) : Nat :=
  if d.m = 0 then min 64 (g.tiles - 64 * k)
  else
    let c := d.corner g k
    min d.m (g.rows - c.1 * d.m) * min d.n (g.cols - c.2 * d.n)

/-- The share of a tile (matrix, row, column) and its place in the share. -/
def Deal.share (d : Deal) (g : Grid) (b r c : Nat) : Nat × Nat :=
  if d.m = 0 then
    let i := if d.colMajor then (b * g.cols + c) * g.rows + r else (b * g.rows + r) * g.cols + c
    (i / 64, i % 64)
  else
    let br := r / d.m
    let bc := c / d.n
    let k := b * (d.down g * d.across g) + (if d.colMajor then bc * d.down g + br else br * d.across g + bc)
    (k, if d.colMajor then c % d.n * min d.m (g.rows - br * d.m) + r % d.m
        else r % d.m * min d.n (g.cols - bc * d.n) + c % d.n)

/-- Tiles of the shares that a grove takes before share `k`: shares go to the groves in turn. -/
def Deal.before (d : Deal) (g : Grid) (k : Nat) : Nat :=
  ((List.range (k / d.groves.length)).map fun i => d.size g (i * d.groves.length + k % d.groves.length)).sum

/-- Where a tile lies: its grove and its number among the tiles of that grove. -/
def Deal.at (d : Deal) (g : Grid) (b r c : Nat) : Nat × Nat :=
  let x := d.share g b r c
  (nth d.groves (x.1 % d.groves.length) 0, d.before g x.1 + x.2)

/-- The most tiles that any grove of the set takes (R151). -/
def Deal.largest (d : Deal) (g : Grid) : Nat :=
  let n := d.groves.length
  let last := d.shares g
  maxNat ((List.range (min n last)).map fun i =>
    let k := i + n * ((last - 1 - i) / n)
    d.before g k + d.size g k)

/-- SPLIT_K in force (R112, R113): the field, or the smallest power of two, at most 64, that gives every grove of the set a share. -/
def splitOf (plan : Plan) (raw : List Byte) (g : Grid) : Nat :=
  let x := fld (expertOf plan raw) 8 4
  let d := dealOf plan raw
  if x ≠ 0 then x
  else ((List.range 7).map (2 ^ ·)).find? (fun k => d.groves.length ≤ d.shares g * k) |>.getD 64

/-- Accumulators that one tile of a grove's share takes for the chunks open at once (R55, R103). -/
def openChunks (k split : Nat) : Nat := max 1 (ceilDiv (ceilDiv k split) (2 ^ 24))

/-! ### Grove-store shards (R151)

The spec gives the order of the tiles in a share and not the order of the bytes in a tile. The model's choice (assumption 92):
a tile of a format without block scales holds its 256 elements row by row; one of a block format holds 16 half-blocks of 16
elements, one for each line across the blocked dimension, and the scale bytes of eight blocks. -/

/-- The shape as four extents, leading ones added, and the blocked dimension counted so. -/
def Tensor.four (t : Tensor) (dims : List Nat) : List Nat := (leadTo 4 (dims.take t.ndim)).getD [1, 1, 1, 1]
def Tensor.blockedFour (t : Tensor) : Nat := t.blockDim + 4 - t.ndim

/-- The tile grid of a LOCUS 1 tensor, the blocked dimension padded (R48). -/
def Tensor.grid (t : Tensor) (dims : List Nat) : Grid :=
  let l := t.four dims
  let l := if t.fmt.isBlock then setAt l t.blockedFour (fun x => 32 * ceilDiv x 32) else l
  ⟨nth l 0 1 * nth l 1 1, ceilDiv (nth l 2 1) 16, ceilDiv (nth l 3 1) 16⟩

/-- Coordinates of a logical element in the shape of four extents. -/
def coordsFour (l : List Nat) (k : Nat) : Nat × Nat × Nat × Nat :=
  let w := nth l 3 1
  let h := nth l 2 1
  let c := nth l 1 1
  (k / (w * h * c), k / (w * h) % c, k / w % h, k % w)

/-- The tile (matrix, row, column) that holds half-block `h` of block `j`, and its line in the tile. Where the blocked dimension is
neither of the last two, the half-blocks of sixteen places make up the tile of one of sixteen matrices. -/
def halfBlockAt (t : Tensor) (dims : List Nat) (j h : Nat) : Nat × Nat × Nat × Nat :=
  let l := t.four dims
  let x := coordsFour l ((elemOf dims t.blockDim j 0).getD 0)
  match t.blockedFour with
  | 3 => (x.1 * nth l 1 1 + x.2.1, x.2.2.1 / 16, x.2.2.2 / 16 + h, x.2.2.1 % 16)
  | 2 => (x.1 * nth l 1 1 + x.2.1, x.2.2.1 / 16 + h, x.2.2.2 / 16, x.2.2.2 % 16)
  | b =>
    let i := x.2.2.1 % 16 * 16 + x.2.2.2 % 16
    let m := if b = 1 then x.1 * (32 * ceilDiv (nth l 1 1) 32) + x.2.1 + 16 * h + i / 16
             else (x.1 + 16 * h + i / 16) * nth l 1 1 + x.2.1
    (m, x.2.2.1 / 16, x.2.2.2 / 16, i % 16)

/-- Where byte `n` of a plane of a LOCUS 1 tensor lies: grove and offset in its store. -/
def shardByte (t : Tensor) (dims : List Nat) (d : Deal) (scales : Bool) (n : Nat) : Nat × Nat :=
  let g := t.grid dims
  if t.fmt.isBlock then
    if scales then
      -- lines 0 to 7 in the tile of the first half-block, 8 to 15 in that of the second
      let x := halfBlockAt t dims n 0
      let x := if x.2.2.2 < 8 then x else halfBlockAt t dims n 1
      let y := d.at g x.1 x.2.1 x.2.2.1
      (y.1, t.scales + 8 * y.2 + x.2.2.2 % 8)
    else
      let w := 2 * t.fmt.bits
      let x := halfBlockAt t dims (n / (2 * w)) (n / w % 2)
      let y := d.at g x.1 x.2.1 x.2.2.1
      (y.1, t.data + 16 * w * y.2 + w * x.2.2.2 + n % w)
  else
    let w := t.fmt.bits / 8
    let l := t.four dims
    let x := coordsFour l (n / w)
    let y := d.at g (x.1 * nth l 1 1 + x.2.1) (x.2.2.1 / 16) (x.2.2.2 / 16)
    (y.1, t.data + 256 * w * y.2 + w * (x.2.2.1 % 16 * 16 + x.2.2.2 % 16) + n % w)

/-- Data and scale bytes of the largest share of a LOCUS 1 tensor. -/
def shareBytes (t : Tensor) (dims : List Nat) (d : Deal) : Nat × Nat :=
  let n := d.largest (t.grid dims)
  (n * 32 * t.fmt.bits, if t.fmt.isBlock then 8 * n else 0)

/-- A grove's record. -/
def findGrove (s : State) (g : Nat) : Grove := (s.groves.find? fun x => x.num = g).getD (Grove.fresh g)
def updGrove (g : Nat) (f : Grove → Grove) (s : State) : State :=
  { s with groves := upsert (fun x => x.num = g) f (Grove.fresh g) s.groves }

/-- A byte of a grove store: undefined until written in this step. -/
def storeGet (draw : Nat) (g : Grove) (o : Nat) : Byte :=
  match g.store.find? fun c => c.1 = o with
  | some c => c.2
  | none => Config.freeByte draw (2 ^ 20 * g.num + o)

/-- Replace cells by number. -/
def mergeCells (old new : List Host.Cell) : List Host.Cell :=
  (old.filter fun c => !(new.any fun d => d.1 = c.1)) ++ new

/-- Write bytes of grove stores: (grove, offset) and value. -/
def writeStores (cells : List ((Nat × Nat) × Byte)) (s : State) : State :=
  ((cells.map fun c => c.1.1).eraseDups).foldl (fun s g =>
    updGrove g (fun x => { x with
      store := mergeCells x.store ((cells.filter fun c => c.1.1 = g).map fun c => (c.1.2, c.2)) }) s) s

/-- Whether two ranges meet. -/
def meet (a n b m : Nat) : Bool := decide (a < b + m) && decide (b < a + n)

/-- The first operator of a plan that names tensor `i`: a LOCUS 1 tensor's dealing is that of all its operators. -/
def namingOp (plan : Plan) (i : Nat) : List Byte :=
  (plan.ops.find? fun r => (tensorsIn r ++ tensorsOut r).contains i).getD []

/-- The placement set of a LOCUS 1 tensor. -/
def shardPlace (plan : Plan) (i : Nat) : U64 × U64 := nth plan.place (opPlace (namingOp plan i)) (0, 0)

/-- The dealing of a LOCUS 1 tensor. -/
def shardDeal (plan : Plan) (i : Nat) : Deal := dealOf plan (namingOp plan i)

/-- Grove-store ranges of a LOCUS 1 tensor: data, then scales. -/
def shardRanges (plan : Plan) (i : Nat) (dims : List Nat) (t : Tensor) : List (Nat × Nat) :=
  let b := shareBytes t dims (shardDeal plan i)
  [(t.data, b.1)] ++ (if b.2 = 0 then [] else [(t.scales, b.2)])

/-- Whether two placement sets have a grove in common. -/
def shareGrove (p q : U64 × U64) : Bool := (p.1 &&& q.1) != 0 && (p.2 &&& q.2) != 0

/-- Whether two LOCUS 1 tensors hold a byte in common (R151). -/
def shardsMeet (plan : Plan) (dims : Tensor → List Nat) (i j : Nat) : Bool :=
  let t := nth plan.tensors i Tensor.none
  let u := nth plan.tensors j Tensor.none
  t.locus = 1 && u.locus = 1 &&
    shareGrove (shardPlace plan i) (shardPlace plan j) &&
    (shardRanges plan j (dims u) u).any fun b => (shardRanges plan i (dims t) t).any fun a => meet a.1 a.2 b.1 b.2

end Sys2Proof.Machine
end

