-- ==== Sys2Proof/Machine/Tables.lean ====
section
/-! DEFINITION. The table-driven functions of the vector stage (R95 to R99), the derivative codes of
ELTWISE (R136), and the counter-based generator (R67). Table coefficients are the exact values
rounded once (R95): square roots and powers of two by exact integer roots, logarithm and hyperbolic
tangent by a series carried to 2^-200 (DEDUCED, assumption 12). -/
namespace Sys2Proof.Machine

/-! ### Exact coefficients -/

/-- Newton steps towards the integer square root from above. -/
def isqrtLoop (n : Nat) : Nat → Nat → Nat
  | 0, x => x
  | k + 1, x => let y := (x + n / x) / 2; if y < x then isqrtLoop n k y else x

/-- floor(sqrt n). -/
def isqrt (n : Nat) : Nat :=
  if n = 0 then 0 else isqrtLoop n (Nat.log2 n + 8) (2 ^ (Nat.log2 n / 2 + 1))

/-- RN(sqrt(p / q)), p, q > 0: the root lies strictly inside the interval of 2^-120 found, or on its
lower end, and neither a tie nor a grid point of binary32 lies inside it. -/
def rnSqrt (neg : Bool) (p q : Nat) : F32 :=
  let r := isqrt (p * 2 ^ 240 / q)
  rn (if r * r * q = p * 2 ^ 240 then .fin neg r (2 ^ 120) else .fin neg (2 * r + 1) (2 ^ 121))

/-- Terms of exp's series in fixed point 2^-200. -/
def expSeries (x : Nat) : Nat → Nat → Nat → Nat → Nat
  | 0, _, _, acc => acc
  | k + 1, i, t, acc => let t' := t * x / (2 ^ 200 * i); expSeries x k (i + 1) t' (acc + t')

/-- exp(n / d), 0 ≤ n / d ≤ 1, in units of 2^-200. -/
def expFix (n d : Nat) : Nat := expSeries (n * 2 ^ 200 / d) 60 1 (2 ^ 200) (2 ^ 200)

/-- Terms of 2 atanh's series: z^(2i+1) / (2i+1). -/
def lnSeries (z2 : Nat) : Nat → Nat → Nat → Nat → Nat
  | 0, _, _, acc => acc
  | k + 1, i, t, acc => lnSeries z2 k (i + 2) (t * z2 / 2 ^ 200) (acc + t / i)

/-- ln(n / d), 1 < n / d < 2, in units of 2^-200. -/
def lnFix (n d : Nat) : Nat :=
  let z := (n - d) * 2 ^ 200 / (n + d)
  2 * lnSeries (z * z / 2 ^ 200) 90 1 z 0

/-- c0, c1, c2 of the reciprocal at n / d. -/
def recipCoef (n d : Nat) : F32 × F32 × F32 :=
  (rn (.fin false d n), rn (.fin true (d * d) (n * n)), rn (.fin false (d * d * d) (n * n * n)))

/-- c0, c1, c2 of the reciprocal square root at n / d. -/
def rsqrtCoef (n d : Nat) : F32 × F32 × F32 :=
  (rnSqrt false d n, rnSqrt true (d ^ 3) (4 * n ^ 3), rnSqrt false (9 * d ^ 5) (64 * n ^ 5))

/-- c0, c1, c2 of the natural logarithm at n / d. -/
def lnCoef (n d : Nat) : F32 × F32 × F32 :=
  (rn (.fin false (lnFix n d) (2 ^ 200)), rn (.fin false d n), rn (.fin true (d * d) (2 * n * n)))

/-- c0, c1, c2 of tanh at n / d: with E = exp(2x), t = (E − 1) / (E + 1), 1 − t² = 4E / (E + 1)². -/
def tanhCoef (n d : Nat) : F32 × F32 × F32 :=
  let e := expFix (2 * n) d
  let p := e - 2 ^ 200
  let q := e + 2 ^ 200
  (rn (.fin false p q), rn (.fin false (4 * e * 2 ^ 200) (q * q)), rn (.fin true (p * 4 * e * 2 ^ 200) (q * q * q)))

/-- Eight integer square roots: the 256th root. -/
def root256 (n : Nat) : Nat := Nat.repeat isqrt 8 n

/-- T[j] = RN(2^(j/256)) of R97. -/
def expTable (j : Nat) : F32 :=
  if j = 0 then f32One else rn (.fin false (2 * root256 (2 ^ (j + 256 * 60)) + 1) (2 ^ 61))

/-! ### Interpolation (R95) -/

/-- The table value at an exact argument u of a table with origin a and interval 2^-h. -/
def interp (coef : Nat → Nat → F32 × F32 × F32) (a h : Nat) (u : Num) : F32 :=
  match u with
  | .fin _ n d =>
    let k := (n - a * d) * 2 ^ h / d
    -- xk = a + (k + 1/2) / 2^h
    let xn := a * 2 ^ (h + 1) + 2 * k + 1
    let xd := 2 ^ (h + 1)
    let dd := rn (Num.sub u (.fin false xn xd))
    let c := coef xn xd
    ffma (ffma c.2.2 dd c.2.1) dd c.1
  | _ => f32NaN

/-- The value of a binary32 times 2^k, rounded under RN. -/
def fscale (x : F32) (k : Int) : F32 := rn ((num32 x).scale2 k)

/-- m in [1, 2) with x = m × 2^e, for a finite non-zero magnitude. -/
def split2 (n d : Nat) : Num × Int :=
  let e := flog2 n d
  ((Num.fin false n d).scale2 (-e), e)

/-- Reciprocal (R96, R99). -/
def fRecip (x : F32) : F32 :=
  match num32 x with
  | .nan _ => f32NaN
  | .inf s => if s then 0x80000000 else 0
  | .fin s n d =>
    if n = 0 then (if s then f32NegInf else f32Inf)
    else
      let me := split2 n d
      let y := fscale (interp recipCoef 1 8 me.1) (-me.2)
      if s then fneg y else y

/-- Reciprocal square root (R96, R99). -/
def fRsqrt (x : F32) : F32 :=
  match num32 x with
  | .nan _ => f32NaN
  | .inf s => if s then f32NaN else 0
  | .fin s n d =>
    if n = 0 then (if s then f32NegInf else f32Inf)
    else if s then f32NaN
    else
      let me := split2 n d
      if me.2 % 2 = 0 then fscale (interp rsqrtCoef 1 8 me.1) (-(me.2 / 2))
      else fscale (interp rsqrtCoef 2 7 (me.1.scale2 1)) (-((me.2 - 1) / 2))

def ln2Hi : F32 := 0x3F317200
def ln2Lo : F32 := 0x35BFBE8E

/-- Natural logarithm (R96, R99). -/
def fLog (x : F32) : F32 :=
  match num32 x with
  | .nan _ => f32NaN
  | .inf s => if s then f32NaN else f32Inf
  | .fin s n d =>
    if n = 0 then f32NegInf
    else if s then f32NaN
    else if n = d then f32Zero
    else
      let me := split2 n d
      let e := rn (Num.ofInt me.2)
      ffma e ln2Hi (ffma e ln2Lo (interp lnCoef 1 8 me.1))

/-- n of R97: nearest integer to a binary32 value, ties to even. -/
def nearestInt (x : F32) : Int :=
  match num32 x with
  | .fin s n d => if s then -(rne n d : Int) else rne n d
  | _ => 0

/-- Exponential (R97, R99). -/
def fExp (x : F32) : F32 :=
  match num32 x with
  | .nan _ => f32NaN
  | .inf s => if s then f32Zero else f32Inf
  | .fin s n d =>
    if ¬s ∧ 89 * d ≤ n then f32Inf
    else if s ∧ 104 * d ≤ n then f32Zero
    else
      let k := nearestInt (fmul x 0x43B8AA3B)
      let j := (k % 256).toNat
      let i := (k - j) / 256
      let mn := rn (Num.ofInt (-k))
      let r := ffma mn 0x3B317200 x
      let r := ffma mn 0x31BFBE8E r
      let h := fmul 0x3F000000 r
      let q := ffma h r r
      let t := expTable j
      fscale (ffma t q t) i

/-- tanh (R96, R98, R99). -/
def fTanh (x : F32) : F32 :=
  match num32 x with
  | .nan _ => f32NaN
  | .inf s => if s then 0xBF800000 else f32One
  | .fin s n d =>
    if n * 2 ^ 11 < d then x
    else if 2 * n < d then
      let y := interp tanhCoef 0 9 (.fin false n d)
      if s then fneg y else y
    else
      let t := fExp (fmul 0x40000000 (fabs x))
      let y := ffma 0xC0000000 (fRecip (fadd t f32One)) f32One
      if s then fneg y else y

/-- SiLU (R98, R99). -/
def fSilu (x : F32) : F32 :=
  match num32 x with
  | .nan _ => f32NaN
  | .inf s => if s then 0x80000000 else f32Inf
  | .fin _ _ _ => fmul x (fRecip (fadd f32One (fExp (fneg x))))

def geluA : F32 := 0x3D372713
def geluB : F32 := 0x3F4C422A

/-- GELU, tanh form (R98, R99). -/
def fGelu (x : F32) : F32 :=
  match num32 x with
  | .nan _ => f32NaN
  | .inf s => if s then 0x80000000 else f32Inf
  | .fin _ _ _ =>
    let u := fmul (fmul x x) x
    let w := fmul geluB (ffma geluA u x)
    let h := fmul 0x3F000000 x
    ffma h (fTanh w) h

/-- DTANH of R136. -/
def fDtanh (a : F32) : F32 := ffma (fneg a) a f32One

/-- DSILU of R136. -/
def fDsilu (a : F32) : F32 :=
  let s := fRecip (fadd f32One (fExp (fneg a)))
  fmul s (ffma a (fsub f32One s) f32One)

/-- DGELU of R136. -/
def fDgelu (a : F32) : F32 :=
  let u := fmul a a
  let w := fmul geluB (ffma geluA (fmul u a) a)
  let t := fTanh w
  let h := fmul 0x3F000000 a
  let g := fmul geluB (ffma (fmul 0x40400000 geluA) u f32One)
  fadd (fmul (fmul h (ffma (fneg t) t f32One)) g) (ffma 0x3F000000 t 0x3F000000)

/-! ### The generator of R67 -/

/-- Working state of the generator: x0 to x3, k0, k1. -/
structure Rng where
  x0 : U32
  x1 : U32
  x2 : U32
  x3 : U32
  k0 : U32
  k1 : U32

/-- One of the 8 rounds. -/
def Rng.round (r : Rng) : Rng :=
  let x0 := r.x0 + r.x1 + r.k0
  let x3 := (r.x3 ^^^ x0).rotateLeft 16
  let x2 := r.x2 + x3 + r.k1
  let x1 := (r.x1 ^^^ x2).rotateLeft 12
  let x0 := x0 + x1
  let x3 := (x3 ^^^ x0).rotateLeft 8
  let x2 := x2 + x3
  let x1 := (x1 ^^^ x2).rotateLeft 7
  ⟨x0, x1, x2, x3, r.k0 + 0x9E3779B9, r.k1 + 0xBB67AE85⟩

/-- The 32-bit draw for seed S, tensor id T, element N and draw number D. -/
def draw32 (seed : U64) (t : U32) (n : U64) (d : U32) : U32 :=
  let r := Nat.repeat Rng.round 8
    ⟨n.setWidth 32, (n >>> 32).setWidth 32, t, d, seed.setWidth 32, (seed >>> 32).setWidth 32⟩
  r.x0 ^^^ r.x2

/-! ### Anchored sums (R52 to R60, R115) -/

/-- An anchored integer; none is the NaN tag. -/
abbrev Acc := Option Int

/-- floor(p ÷ 2^(c − 103)) (R54); NaN and infinity give the tag. -/
def floorTerm (c : Int) : Num → Acc
  | .fin s n d =>
    let v : Int := if s then -(n : Int) else n
    let k := 103 - c
    some (if 0 ≤ k then (v * 2 ^ k.toNat) / d else v / (d * 2 ^ (-k).toNat : Nat))
  | _ => none

def accAdd : Acc → Acc → Acc
  | some a, some b => some (a + b)
  | _, _ => none

/-- Re-alignment by s places (R58): an arithmetic right shift. -/
def accShift (a : Acc) (s : Nat) : Acc := a.map fun i => i / (2 ^ s : Nat)

/-- ceil(log2 n) for n ≥ 1. -/
def clog2Nat (n : Nat) : Nat := if n ≤ 1 then 0 else Nat.log2 (n - 1) + 1

/-- w of R55 for N products. -/
def widen (n : Nat) : Nat := if n ≤ 2 ^ 24 then 0 else clog2Nat n - 24

/-- One chunk at its anchor. -/
def accChunk (c : Int) (ts : List Num) : Acc := ts.foldl (fun a t => accAdd a (floorTerm c t)) (some 0)

/-- An accumulator has 128 bits; sums of terms within their bound always fit (R56). -/
def accFit : Acc → Acc
  | some i => some (if -(2 ^ 127 : Int) < i ∧ i < 2 ^ 127 then i else Config.overflow i)
  | none => none

/-- The sum of the terms of one output in global index order, n of them counted (R55): the anchor base + w
and the integer. -/
def accSum (base : Int) (n : Nat) (ts : List Num) : Int × Acc :=
  let w := widen n
  if w = 0 then (base, accFit (accChunk base ts))
  else
    let cs := chunks (2 ^ 24) (ceilDiv ts.length (2 ^ 24)) ts
    (base + w, accFit ((cs.map fun ch => accShift (accChunk base ch) w).foldl accAdd (some 0)))

/-- The exact value I × 2^(c − 103); the tag is NaN. -/
def accNum (c : Int) : Acc → Num
  | some i => (Num.ofInt i).scale2 (c - 103)
  | none => .nan false

/-- The 128-bit pattern of an accumulator (R52). -/
def accBits : Acc → BitVec 128
  | some i => BitVec.ofInt 128 i
  | none => 1#128 <<< 127

/-- The accumulator a 128-bit pattern holds. -/
def bitsAcc (b : BitVec 128) : Acc := if b = 1#128 <<< 127 then none else some b.toInt

/-- A vector-stage sum (R65, R115): terms in binary32 with bound exponent E, rounded by RN. -/
def vsum (e : Int) (n : Nat) (ts : List F32) : F32 :=
  let s := accSum e n (ts.map num32)
  rn (accNum s.1 s.2)

end Sys2Proof.Machine
end

