-- ==== Sys2Proof/Machine/Tensors.lean ====
section
/-! DEFINITION. Tensors as operators see them: reading (R51, R54, R65), conversion and writing (R61 to R64), maxima (R49, R50,
R111), index arrays (R109, R152), the notes of a step (R51, R116, R184) and health records (R69 to R71). -/
namespace Sys2Proof.Machine

/-! ### Reading -/

/-- A tensor ready to be read: bytes of its planes by number, maxima of its sequences. -/
structure View where
  t : Tensor
  dims : List Nat
  byte : Bool → Nat → Byte
  seqMax : Nat → Int

/-- Addresses of the SEQMAX entry of a sequence (region offsets from SEQMAX's place, R323). -/
def seqMaxAddrs (s : State) (t : Tensor) (seq : Nat) : List Nat :=
  match regionAt s t.seqmax with
  | some (_, r) =>
    match r.offset t.seqmax with
    | some x => [r.addr (x + 2 * seq), r.addr (x + 2 * seq + 1)]
    | none => []
  | none => []

/-- A tensor of the plan as it stands now. -/
def Env.view (e : Env) (s : State) (i : Nat) : View :=
  let t := e.tensor s i
  let d := shardDeal (e.plan s) i
  { t := t
    dims := e.dims t
    byte := fun scales n =>
      if t.locus = 1 then
        let x := shardByte t (e.dims t) d scales n
        storeGet s.draw (findGrove s x.1) x.2
      else memGet s.mem (t.byteAddr scales n)
    seqMax := fun q => (BitVec.ofNat 16 (leNat (readAt s (seqMaxAddrs s t q)))).toInt }

/-- Elements of the logical tensor. -/
def View.size (v : View) : Nat := prod v.dims

/-- A field of `w` bits at bit position `p` of a plane (R44, R7). -/
def planeBits (byte : Nat → Byte) (p w : Nat) : Nat :=
  bitsOf (leNat ((List.range ((p % 8 + w + 7) / 8)).map fun j => byte (p / 8 + j))) (p % 8) w

/-- The element code of a logical element. -/
def View.code (v : View) (k : Nat) : Nat :=
  planeBits (v.byte false) (storeIdx v.t v.dims k * v.t.fmt.bits) v.t.fmt.bits

/-- The scale code of a block. -/
def View.scale (v : View) (j : Nat) : Nat := (v.byte true j).toNat

/-- Sequence of an element, 0 for a tensor that is not BATCHED. -/
def View.seq (v : View) (k : Nat) : Nat := if v.t.batched then coord v.dims v.t.seqDim k else 0

/-- MAXEXP for an element: its sequence's entry for a BATCHED tensor (R50). -/
def View.maxFor (v : View) (q : Nat) : Int := if v.t.batched then v.seqMax q else v.t.maxexp

/-- The exact value of an element code under the scale code of its block, without L2SCALE (R45, R46, R54). -/
def Fmt.scaled (f : Fmt) (scale code : Nat) : Num :=
  if f.isBlock then (if scale = 255 then .nan false else (f.value code).scale2 ((scale : Int) - 127)) else f.value code

/-- The exact value of an element with its block scale, without L2SCALE. -/
def View.exact (v : View) (k : Nat) : Num :=
  v.t.fmt.scaled (if v.t.fmt.isBlock then v.scale (blockOf v.dims v.t.blockDim k).1 else 127) (v.code k)

/-- Whether an element exceeds the bound `m` of R51: its block scale, or its own exponent. -/
def View.exceedsAt (v : View) (m : Int) (k : Nat) : Bool :=
  if v.t.fmt.isBlock then
    let sc := v.scale (blockOf v.dims v.t.blockDim k).1
    sc ≠ 255 && decide (m < (sc : Int) - 127)
  else if v.t.fmt.isBinary then
    match v.t.fmt.exponent (v.code k) with
    | some x => decide (m < x)
    | none => false
  else false

/-- The element as the lattice takes it under the bound `m`: NaN where it is exceeded (R51). -/
def View.latticeAt (v : View) (m : Int) (k : Nat) : Num := if v.exceedsAt m k then .nan false else v.exact k

def View.exceeds (v : View) (k : Nat) : Bool := v.exceedsAt (v.maxFor (v.seq k)) k
def View.lattice (v : View) (k : Nat) : Num := v.latticeAt (v.maxFor (v.seq k)) k

/-- The second-level scale as a value. -/
def View.l2 (v : View) : Num := num32 v.t.l2

/-- AA128 element: its integer (R52). -/
def View.acc (v : View) (k : Nat) : Acc := bitsAcc (BitVec.ofNat 128 (v.code k))

/-- The exact value of an element with every scale: I × 2^(c − 103) × L2SCALE for AA128. -/
def View.full (v : View) (k : Nat) : Num :=
  if v.t.fmt = .aa128 then Num.mul (accNum (v.maxFor (v.seq k)) (v.acc k)) v.l2
  else Num.mul (v.exact k) v.l2

/-- The element as the vector stage reads it (R65). -/
def View.value (v : View) (k : Nat) : F32 := rn (v.full k)

/-- The element as a term of a vector-stage sum (R65, R115): the exact value of an AA128 element, else its binary32 conversion. -/
def View.term (v : View) (k : Nat) : Num := if v.t.fmt = .aa128 then v.full k else num32 (v.value k)

/-- The bound exponent e_x of R115 for the sequence of a row. -/
def View.bound (v : View) (q : Nat) : Int := v.maxFor q + v.t.fmt.k + clog2 v.t.l2

/-! ### Writing -/

/-- Cells that put codes of `w` bits at consecutive places from storage element `i` on. -/
def codeCells (w i : Nat) (codes : List Nat) : List Host.Cell :=
  let n := (codes.zipIdx.map fun c => c.1 % 2 ^ w * 2 ^ (w * c.2)).sum
  let len := (w * codes.length + 7) / 8
  ((List.range len).map fun j => i * w / 8 + j).zip (toLE len n)

/-- Write cells of a plane of tensor `i`: to device memory, or to the stores of its groves (R151). -/
def Env.writePlane (e : Env) (i : Nat) (scales : Bool) (cells : List Host.Cell) (s : State) : State :=
  let t := e.tensor s i
  if cells.isEmpty then s
  else if t.locus = 1 then
    let d := shardDeal (e.plan s) i
    writeStores (cells.map fun c => (shardByte t (e.dims t) d scales c.1, c.2)) s
  else writeCells (e.gen s) (cells.map fun c => (t.byteAddr scales c.1, c.2)) s

/-- Counts of R64, with MIN_EXP and whether a finite non-zero value exists (R69). -/
structure Counts where
  elements : Nat
  zeros : Nat
  sats : Nat
  nonfin : Nat
  minExp : Option Int
  nonzero : Bool

def Counts.zero : Counts := ⟨0, 0, 0, 0, none, false⟩

def Counts.add (c : Counts) (o : Outcome3) : Counts :=
  match o with
  | .plain => { c with elements := c.elements + 1, nonzero := true }
  | .zero => { c with elements := c.elements + 1, zeros := c.zeros + 1 }
  | .saturated => { c with elements := c.elements + 1, sats := c.sats + 1, nonzero := true }
  | .nonfinite => { c with elements := c.elements + 1, nonfin := c.nonfin + 1 }

def Counts.min (c : Counts) (x : Int) : Counts :=
  { c with minExp := match c.minExp with | some m => some (Min.min m x) | none => some x }

/-! #### Maxima (R49, R111) -/

/-- MAXEXP of the elements of one sequence (all when the tensor is not BATCHED), as memory stands. -/
def View.measure (v : View) (q : Option Nat) : Int :=
  let mine : Nat → Bool := fun k => match q with | some q => decide (v.seq k = q) | none => true
  if v.t.fmt.isBlock then
    (List.range (blockCount v.dims v.t.blockDim)).foldl (fun m j =>
      let sc := v.scale j
      let k := (elemOf v.dims v.t.blockDim j 0).getD 0
      if mine k ∧ sc ≠ 255 then max m ((sc : Int) - 127) else m) (-127)
  else if v.t.fmt.isBinary then
    (List.range v.size).foldl (fun m k =>
      if mine k then (match v.t.fmt.exponent (v.code k) with | some x => max m x | none => m) else m) v.t.fmt.emin
  else 0

/-- Set the tensor's MAXEXP in the loaded plan. -/
def Env.setMax (e : Env) (i : Nat) (m : Int) (s : State) : State :=
  updPlan e.part e.handle (fun p => { p with tensors := setAt p.tensors i fun t => { t with maxexp := m } }) s

/-- Write SEQMAX entries from sequence 0 on. -/
def Env.setSeqMax (e : Env) (i : Nat) (ms : List Int) (s : State) : State :=
  let t := e.tensor s i
  writeCells (e.gen s) (ms.zipIdx.flatMap fun m => cellsAt (seqMaxAddrs s t m.2) (toLEInt 2 m.1)) s

/-- Sequences of a tensor. -/
def View.seqs (v : View) : Nat := if v.t.batched then nth v.dims v.t.seqDim 1 else 1

/-- Write MAXEXP, and SEQMAX of a BATCHED tensor, from given values per sequence (R50, R111). -/
def Env.putMaxima (e : Env) (i : Nat) (ms : List Int) (s : State) : State :=
  let t := e.tensor s i
  let m := match ms with | [] => t.maxexp | x :: xs => xs.foldl max x
  e.setMax i m (if t.batched then e.setSeqMax i ms s else s)

/-- Measure and write the maxima of a tensor other than AA128. -/
def Env.measure (e : Env) (i : Nat) (s : State) : State :=
  let v := e.view s i
  if v.t.fmt = .aa128 then s
  else e.putMaxima i ((List.range v.seqs).map fun q => v.measure (if v.t.batched then some q else none)) s

/-! #### Health records (R69 to R71) -/

/-- Addresses of `n` bytes of a health ring from an offset, through region offsets. -/
def ringAddrs (s : State) (ring : HealthRing) (off n : Nat) : List Nat :=
  match regionAt s ring.base with
  | some (_, r) =>
    match r.offset ring.base with
    | some x => (List.range n).map fun j => r.addr (x + off + j)
    | none => []
  | none => []

/-- CONSUMED as the reader has written it. -/
def ringConsumed (s : State) (ring : HealthRing) : Nat := leNat (readAt s (ringAddrs s ring 8 8))

/-- Put a record's bytes into the ring of a context, or drop it (R71). DESIGN CHOICE (assumption 115): a CONSUMED that the reader has
written above PRODUCED leaves the ring empty, so records are written. -/
def publish (part : BitVec 4) (ctx : Nat) (bytes : List Byte) (s : State) : State :=
  match findPart s part with
  | none => s
  | some p =>
    match (p.context ctx).ring with
    | none => updCtx part ctx (fun c => { c with healthSeq := c.healthSeq + 1 }) s
    | some ring =>
      if ring.produced - ringConsumed s ring < ring.records then
        let slot := 64 + 64 * (ring.produced % ring.records)
        let s := writeAt (ringAddrs s ring slot 64) bytes s
        let s := writeAt (ringAddrs s ring 0 8) (toLE 8 (ring.produced + 1)) s
        updCtx part ctx (fun c => { c with
          healthSeq := c.healthSeq + 1
          ring := c.ring.map fun r => { r with produced := r.produced + 1 } }) s
      else
        let s := writeAt (ringAddrs s ring 16 8) (toLE 8 (ring.dropped + 1)) s
        updCtx part ctx (fun c => { c with
          healthSeq := c.healthSeq + 1
          ring := c.ring.map fun r => { r with dropped := r.dropped + 1 } }) s

/-- The 64 bytes of a health record (R69). -/
def healthBytes (e : Env) (t : Tensor) (c : Counts) (bound : Bool) (seq : U64) : List Byte :=
  toLE 4 t.id.toNat ++ toLE 4 e.tag.toNat ++ toLE 2 e.op ++ toLE 1 t.format
    ++ toLE 1 ((if t.batched then 1 else 0) + (if opFast e.raw then 2 else 0) + (if bound then 4 else 0))
    ++ toLE 1 e.part.toNat ++ toLE 1 e.ctx ++ zeros 2 ++ toLE 8 c.elements ++ toLE 8 c.zeros ++ toLE 8 c.sats
    ++ toLE 8 c.nonfin ++ toLEInt 2 (c.minExp.getD 0x7FFF)
    ++ (if c.nonzero then toLEInt 2 t.maxexp else toLE 2 0x8000) ++ zeros 4 ++ toLE 8 seq.toNat

/-- One health record for an output, if its HEALTH flag is set and the step has not generated it yet. DESIGN CHOICE (assumption 114):
the record of a tensor that the operator writes in part (SCATTER, GATHER) looks at the elements written in every field. -/
def Env.health (e : Env) (i : Nat) (c : Counts) (bound : Bool) (s : State) : State :=
  let t := e.tensor s i
  match findPart s e.part, e.step s with
  | some p, some r =>
    if t.health && !(r.healthDone.contains (e.op, i)) then
      let x := p.context e.ctx
      publish e.part e.ctx (healthBytes e t c bound x.healthSeq)
        (e.updStep (fun r => { r with healthDone := r.healthDone ++ [(e.op, i)] }) s)
    else s
  | _, _ => s

/-! #### Notes (R411: STEP_NOTE kinds, FREE_READ) -/

def noteRange : Nat := 0
def noteBound : Nat := 1
def noteAnchor : Nat := 2
def noteFree : Nat := 3
def noteOverflow : Nat := 4

/-- Gather a note for the step: one for each operator and kind, replaced when the operator runs again. -/
def Env.note (e : Env) (kind count : Nat) (s : State) : State :=
  if count = 0 then s
  else e.updStep (fun r => { r with
    notes := (r.notes.filter fun n => !(n.op = e.op && n.kind = kind)) ++ [⟨e.op, kind, count⟩] }) s

/-! #### Values into a tensor (R61 to R64) -/

/-- Exponent of a finite non-zero element as MIN_EXP counts it. -/
def elemExp (t : Tensor) (code : Nat) : Option Int :=
  if t.fmt.isBinary ∧ code % 2 ^ t.fmt.signBit ≠ 0 then t.fmt.exponent code
  else if t.fmt = .int8 ∧ code ≠ 0 then some 0
  else none

/-- One block converted: scale code, element codes, outcomes of the elements that are not padding. -/
def convBlock (t : Tensor) (vs : List (Option Num)) : Nat × List Nat × List Outcome3 :=
  let r := toBlock t.fmt (vs.map fun v => v.getD Num.zero)
  (r.1, r.2.1, (r.2.2.zip vs).filterMap fun x => if x.2.isSome then some x.1 else none)

/-- Count a converted block. DESIGN CHOICE (assumption 114): a block whose elements are all NaN, infinite or zero takes no part in
MIN_EXP, whatever its scale code (R69). -/
def countBlock (c : Counts) (sc : Nat) (os : List Outcome3) : Counts :=
  let c' := os.foldl Counts.add c
  if sc ≠ 255 && os.any (fun o => o = .plain || o = .saturated) then c'.min ((sc : Int) - 127) else c'

/-- Convert one element of a format that is not a block format. -/
def convElem (t : Tensor) (v : Num) : Nat × Outcome3 :=
  if t.fmt = .int8 then toInt8 v else toBinary t.fmt v

/-- What the conversion of elements leaves: cells of the data plane and of the scale plane, and the counts. -/
structure Conv where
  data : List Host.Cell
  scales : List Host.Cell
  counts : Counts

/-- Convert the elements at `ks` (logical numbers; whole blocks for a block format) from exact values
before the division by L2SCALE. -/
def convert (t : Tensor) (dims ks : List Nat) (val : Nat → Num) : Conv :=
  let out := fun k => Num.div (val k) (num32 t.l2)
  if t.fmt.isBlock then
    let js := (ks.map fun k => (blockOf dims t.blockDim k).1).eraseDups
    js.foldl (fun (acc : Conv) j =>
      let vs := (List.range 32).map fun w => (elemOf dims t.blockDim j w).map out
      let r := convBlock t vs
      ⟨acc.data ++ codeCells t.fmt.bits (j * 32) r.2.1, acc.scales ++ [(j, BitVec.ofNat 8 r.1)],
        countBlock acc.counts r.1 r.2.2⟩) ⟨[], [], Counts.zero⟩
  else
    ks.foldl (fun (acc : Conv) k =>
      let r := convElem t (out k)
      let c := acc.counts.add r.2
      ⟨acc.data ++ codeCells t.fmt.bits k [r.1], acc.scales,
        match elemExp t r.1 with | some x => c.min x | none => c⟩) ⟨[], [], Counts.zero⟩

/-- Write the elements at `ks`, converted, and count them. -/
def Env.writeSome (e : Env) (i : Nat) (ks : List Nat) (val : Nat → Num) (s : State) : State × Counts :=
  let t := e.tensor s i
  let c := convert t (e.dims t) ks val
  (e.writePlane i true c.scales (e.writePlane i false c.data s), c.counts)

/-- Write a whole output from exact values, with its maxima and its health record (R111, R69). -/
def Env.writeAll (e : Env) (i : Nat) (val : Nat → Num) (bound : Bool) (s : State) : State :=
  let t := e.tensor s i
  let r := e.writeSome i (List.range (prod (e.dims t))) val s
  e.health i r.2 bound (e.measure i r.1)

/-- Write a whole output from binary32 values. -/
def Env.write32 (e : Env) (i : Nat) (val : Nat → F32) (s : State) : State :=
  e.writeAll i (fun k => num32 (val k)) false s

/-- Write the elements at `ks` of an AA128 tensor, raw. -/
def Env.writeAcc (e : Env) (i : Nat) (ks : List Nat) (val : Nat → Acc) (s : State) : State :=
  e.writePlane i false (ks.flatMap fun k => codeCells 128 k [(accBits (val k)).toNat]) s

/-- floor(log2 |I|) + c − 103, saturating (R69). -/
def accExp (c : Int) : Acc → Option Int
  | some i => if i = 0 then none else some (min 32766 ((Nat.log2 i.natAbs : Int) + c - 103))
  | none => none

/-- Counts of a whole AA128 output as written. -/
def accCounts (size : Nat) (val : Nat → Acc) (anchor : Nat → Int) : Counts :=
  (List.range size).foldl (fun c k =>
    match val k with
    | none => c.add .nonfinite
    | some i => if i = 0 then c.add .zero
                else (match accExp (anchor k) (some i) with | some x => (c.add .plain).min x | none => c)) Counts.zero

/-- Write a whole AA128 output at the anchors of its sequences; an anchor above 32,767 gives the NaN tag
throughout the sequence (R59). -/
def Env.writeAnchored (e : Env) (i : Nat) (val : Nat → Acc) (anchor : Nat → Int) (bound : Bool)
    (s : State) : State :=
  let t := e.tensor s i
  let v : View := { t := t, dims := e.dims t, byte := fun _ _ => 0, seqMax := fun _ => 0 }
  let above := fun q => decide (32767 < anchor q)
  let held := fun q => min 32767 (anchor q)
  let out := fun k => if above (v.seq k) then none else val k
  let ks := List.range v.size
  let s := e.writeAcc i ks out s
  let s := e.putMaxima i ((List.range v.seqs).map held) s
  let s := e.note noteOverflow ((List.range v.size).filter fun k => above (v.seq k)).length s
  e.health i (accCounts v.size out fun k => held (v.seq k)) bound s

/-! ### Index arrays (R109, R152) -/

def IndexArr.none : IndexArr := ⟨0, 1, 4, 1, 1⟩
def Env.index (e : Env) (s : State) (i : Nat) : IndexArr := nth (e.plan s).index i IndexArr.none

/-- Device addresses of entry `k`. -/
def IndexArr.entryAddrs (a : IndexArr) (k : Nat) : List Nat :=
  (List.range a.width).map fun j => planeAddr a.addr a.span a.colstep (k * a.width + j)

def IndexArr.addrs (a : IndexArr) : List Nat :=
  (List.range (a.count * a.width)).map (planeAddr a.addr a.span a.colstep)

/-- Entry `k` of an index array. -/
def indexGet (s : State) (a : IndexArr) (k : Nat) : Nat := leNat (readAt s (a.entryAddrs k))

def Env.idx (e : Env) (s : State) (off k : Nat) : Nat := indexGet s (e.index s (e.f2 off)) k

/-- Write entries from 0 on. -/
def Env.putIndex (e : Env) (off : Nat) (vals : List Nat) (s : State) : State :=
  let a := e.index s (e.f2 off)
  writeCells (e.gen s) (vals.zipIdx.flatMap fun x => cellsAt (a.entryAddrs x.2) (toLE a.width x.1)) s

/-! ### Sums of the vector stage -/

/-- What a sum under fast reductions may depend on beside its terms (R74): placement set, expert block, and which sum it is. -/
def Env.fastKey (e : Env) (s : State) (salt : Nat) : List Nat :=
  let x := nth (e.plan s).place (opPlace e.raw) (0, 0)
  let b := expertOf (e.plan s) e.raw
  [x.1.toNat, x.2.toNat, fld b 0 8, fld b 8 8, fld b 0x10 2, opCode e.raw, salt]

/-- Σ in the vector stage (R65, R115), or under fast reductions a sum whose division among groves the spec leaves open (R74). -/
def Env.sum (e : Env) (s : State) (salt : Nat) (bound : Int) (n : Nat) (ts : List F32) : F32 :=
  if opFast e.raw then Config.fastSum (e.fastKey s salt) ts else vsum bound n ts

end Sys2Proof.Machine
end

