-- ==== Sys2Proof/Machine/Plans.lean ====
section
/-! DEFINITION. The plan image (R147 to R155) and its validation (R158, R159), with the limits that the
operator catalogue places on descriptors (R108 to R145). -/
namespace Sys2Proof.Machine

/-- The first failure of a validation: reason, table, entry (R158). -/
structure PlanFail where
  reason : Nat
  table : Nat
  entry : Nat
deriving DecidableEq, Repr

/-- Detail field of the failing completion. -/
def PlanFail.detail (f : PlanFail) : U32 := BitVec.ofNat 32 (f.reason * 2 ^ 24 + f.table * 2 ^ 20 + f.entry % 2 ^ 20)

/-- Status of a reason. -/
def PlanFail.status (f : PlanFail) : BitVec 16 :=
  if f.reason = 3 then stBadOpcode
  else if f.reason = 4 then stExpert
  else if f.reason = 5 ∨ f.reason = 8 then stNotPermitted
  else if f.reason = 9 then stNoResource
  else stBadLength

/-- A check: nothing wrong, or the failure. -/
abbrev Check := Option PlanFail

def need (c : Bool) (f : PlanFail) : Check := if c then none else some f

/-- The first failure over numbered entries. -/
def firstOf {α : Type} (l : List α) (f : Nat → α → Check) : Check := l.zipIdx.findSome? fun x => f x.2 x.1

/-! ### The header (R147, R148) -/

/-- Entries of a table: count at `nOff` (of `nLen` bytes), offset at `oOff`, size `sz`. -/
structure TableLoc where
  nOff : Nat
  nLen : Nat
  oOff : Nat
  sz : Nat

def tableLocs : List TableLoc :=
  [⟨0x0C, 2, 0x20, 64⟩, ⟨0x0E, 2, 0x24, 64⟩, ⟨0x10, 2, 0x28, 32⟩, ⟨0x12, 2, 0x2C, 16⟩, ⟨0x14, 2, 0x30, 64⟩,
   ⟨0x18, 4, 0x34, 4⟩, ⟨0x16, 2, 0x38, 8⟩]

/-- Entries of table `k` of R158's numbering less 1: operators, tensors, index, placement, expert, edges, bindings. -/
def entries (img : List Byte) (k : Nat) : List (List Byte) :=
  match tableLocs[k]? with
  | some t =>
    let n := fld img t.nOff t.nLen
    chunks t.sz n (slice img (fld img t.oOff 4) (n * t.sz))
  | none => []

/-- Spans of the tables that have entries, with the header. -/
def tableSpans (img : List Byte) : List (Nat × Nat) :=
  (0, 64) :: (tableLocs.filterMap fun t =>
    let n := fld img t.nOff t.nLen
    let o := fld img t.oOff 4
    if n = 0 then none else some (o, o + n * t.sz))

/-- No two spans share a byte. -/
def apart : List (Nat × Nat) → Bool
  | [] => true
  | a :: l => l.all (fun b => decide (a.2 ≤ b.1) || decide (b.2 ≤ a.1)) && apart l

/-- The image with its CRC field read as zero. -/
def crcInput (img : List Byte) (off : Nat) : List Byte := img.take off ++ zeros 4 ++ img.drop (off + 4)

/-- Pass 1 of R158. -/
def checkHeader (img : List Byte) : Check :=
  let h := ⟨1, 0, 0⟩
  let size := fld img 8 4
  let spans := tableSpans img
  need (fld img 0 4 = 0x5A47504C && fld img 4 2 = 1) h
  <|> need (decide (64 ≤ size) && decide (size ≤ 16777216) && decide (img.length = size)) h
  <|> need (tableLocs.all fun t => fld img t.oOff 4 % 64 = 0) h
  <|> need (apart spans) h
  <|> need (maxNat (spans.map (·.2)) = size) h
  <|> need (crc32c (crcInput img 0x3C) = fld32 img 0x3C) h
  <|> need (let n := fld img 0x0C 2; decide (1 ≤ n) && decide (n ≤ 32768)) ⟨2, 0, 0⟩
  <|> need (let n := fld img 0x12 2; decide (1 ≤ n) && decide (n ≤ 4096)) ⟨2, 0, 0⟩
  <|> need (decide (fld img 0x14 2 ≤ 4096) && decide (fld img 0x16 2 ≤ 64) && decide (fld img 0x18 4 ≤ 1048576)) ⟨2, 0, 0⟩
  <|> need (let b := fld img 0x1C 2
            if fld img 6 2 % 2 = 1 then decide (1 ≤ b) && decide (b ≤ 4096) else b = 0) ⟨2, 0, 0⟩

/-! ### Entries (R49, R149, R152 to R155) -/

def parseTensor (b : List Byte) : Tensor :=
  { format := fld b 0 1, nflags := fld b 1 1, maxexp := sfld16 b 2, l2 := fld32 b 4, id := fld32 b 8,
    blockDim := fld b 0xC 1, seqDim := fld b 0xD 1, seqmax := fld b 0x10 8, data := fld b 0x18 8,
    scales := fld b 0x20 8, ext := [fld b 0x28 4, fld b 0x2C 4, fld b 0x30 4, fld b 0x34 4],
    ndim := fld b 0x38 1, locus := fld b 0x39 1, span := fld b 0x3A 2, colstep := fld b 0x3C 4 }

def parseIndex (b : List Byte) : IndexArr :=
  { addr := fld b 0 8, count := fld b 8 8, width := fld b 0x10 1, span := fld b 0x12 2, colstep := fld b 0x14 4 }

def parseBinding (b : List Byte) : Binding :=
  { index := fld b 0 2, word := fld b 2 1, dir := fld b 3 1, elem := fld b 4 1 }

/-- The plan an image holds, with its defaults for FILL and WAIT (R166). -/
def parsePlan (img : List Byte) (ctx : BitVec 3) (handle : U32) : Plan :=
  let bm := fld img 0x1C 2
  { handle := handle, ctx := ctx, batched := fld img 6 2 % 2 = 1, batchMax := bm, ops := entries img 0,
    tensors := (entries img 1).map parseTensor, index := (entries img 2).map parseIndex,
    place := (entries img 3).map fun b => (fld64 b 0, fld64 b 8), expert := entries img 4,
    edges := (entries img 5).map fun b => (fld b 0 2, fld b 2 2), binds := (entries img 6).map parseBinding,
    image := img, fill := min 256 bm, wait := 150, unloading := none }

/-! ### Planes and ownership (R149, R150, R152, R158 reasons 0x02, 0x05, 0x08) -/

/-- Starts and lengths of the pieces of a plane. -/
def pieces (start span colstep bytes : Nat) : List (Nat × Nat) :=
  (List.range (ceilDiv bytes (span * 64))).map fun p =>
    (start + colstep * p * 2 ^ 17, min (span * 64) (bytes - p * (span * 64)))

/-- What validation knows: the partition, whether the command carried EXPERT, the plan, the groups. -/
structure Ctl where
  part : Partition
  expert : Bool
  plan : Plan
  groups : List Group

/-- A plane or array in device memory. -/
def checkPlane (c : Ctl) (start span colstep bytes table entry : Nat) : Check :=
  let l := addrLayer start
  need (validAddr start && decide (start < 2 ^ 42)) ⟨2, table, entry⟩
  <|> need (decide (1 ≤ span) && decide (span ≤ if l < 16 then 1536 else 1024)
      && decide (addrOff start + span * 64 ≤ segLen l)
      && decide (1 ≤ colstep) && decide (colstep < 2 ^ 20)) ⟨2, table, entry⟩
  <|> (pieces start span colstep bytes).findSome? fun p =>
    need (validAddr p.1 && validAddr (p.1 + (p.2 - 1))) ⟨2, table, entry⟩
    <|> match c.part.regions.find? fun r => (r.offset p.1).isSome with
        | none => some ⟨5, table, entry⟩
        | some r => need (r.kind ≠ 2) ⟨8, table, entry⟩

/-! ### Pass 2: each entry on its own -/

def isGemm (c : Nat) : Bool := c = 0x10 || c = 0x11 || c = 0x12
def isConv (c : Nat) : Bool := c = 0x50 || c = 0x51
def isConvBwd (c : Nat) : Bool := c = 0x150 || c = 0x151
def isColl (c : Nat) : Bool := 0x80 ≤ c && c ≤ 0x84

/-- Whether a binary32 field is finite and not negative. -/
def f32NonNeg (x : F32) : Bool := f32Finite x && !(x.getLsbD 31 && x ≠ 0x80000000)

/-- A field in [0, 1). -/
def f32Unit (x : F32) : Bool := f32NonNeg x && Num.lt (num32 x) Num.one

/-- Micro-operations of ELTWISE in use. -/
def uops (raw : List Byte) : List (List Byte) := (chunks 4 8 (slice raw 0x14 32)).take (fld raw 0x12 1)

def uopUnary (fn : Nat) : Bool := 0x06 ≤ fn && fn ≤ 0x12

/-- What the descriptor's own fields decide, beside codes and flags (limits of R117 to R145). -/
def fieldsOk (raw : List Byte) : Bool :=
  let c := opCode raw
  let b := fun o => fld raw o 1
  let w := fun o => fld raw o 2
  let d := fun o => fld raw o 4
  if c = 0x01 then w 0x0A = 0xFFFF
  else if c = 0x02 then d 0x0C = 0 || f32Normal (fld32 raw 0x0C)
  else if isGemm c then
    b 0x11 ≤ 1 && (if c = 0x12 then w 0x0E = 0xFFFF && 1 ≤ d 0x18 && d 0x18 ≤ 65536
                   else w 0x12 = 0xFFFF && d 0x18 = 0)
  else if c = 0x20 ∨ c = 0x21 then
    1 ≤ w 0x14 && w 0x14 ≤ 256 && 1 ≤ w 0x16 && w 0x16 ≤ 256 && w 0x14 % w 0x16 = 0 && f32Normal (fld32 raw 0x18)
      && (if c = 0x20 then d 0x24 = 0 else w 0x0A = 0xFFFF && w 0x0C = 0xFFFF)
  else if c = 0x30 ∨ c = 0x32 then b 0x0E ≤ (if c = 0x32 then 0 else 3)
  else if c = 0x31 then b 0x0E ≤ 3 && b 0x0F ≤ 1
  else if c = 0x40 then 1 ≤ d 0x10 && d 0x10 ≤ 65536 && w 0x0A = 0xFFFF
  else if c = 0x41 then (w 0x08 = 0xFFFF) != (w 0x0A = 0xFFFF)
  else if isConv c ∨ isConvBwd c then
    let st := fun o => 1 ≤ b o && b o ≤ 16
    st 0x10 && st 0x11 && st 0x12 && st 0x13 && w 0x14 ≤ 1023 && w 0x16 ≤ 1023 && w 0x18 ≤ 1023 && w 0x1A ≤ 1023
      && 1 ≤ d 0x1C && (if isConv c then b 0x20 ≤ 1
          else (w 0x08 = 0xFFFF) != (w 0x0A = 0xFFFF) && b 0x20 / 2 = (if w 0x0A = 0xFFFF then 1 else 0))
      && (if c = 0x50 ∨ c = 0x150 then b 0x10 = 1 && b 0x12 = 1 && w 0x14 = 0 && w 0x16 = 0 else true)
  else if c = 0x60 then w 0x0E = 0xFFFF && f32NonNeg (fld32 raw 0x14)
  else if c = 0x61 then f32NonNeg (fld32 raw 0x14)
  else if c = 0x62 then w 0x0C = 0xFFFF && w 0x0E = 0xFFFF && w 0x10 = 0xFFFF && f32Normal (fld32 raw 0x18)
  else if c = 0x63 then
    1 ≤ b 0x12 && b 0x12 ≤ 8 && (uops raw).all fun u =>
      let src := fun v => v ≤ 9 && !(v = 5 && w 0x0A = 0xFFFF) && !(v = 6 && w 0x0C = 0xFFFF)
        && !(v = 7 && w 0x0E = 0xFFFF)
      fld u 1 1 ≤ 3 && src (fld u 2 1) && (uopUnary (fld u 0 1) || src (fld u 3 1))
  else if isColl c then
    let np := fld raw 0x20 8
    1 ≤ np && np ≤ 2 ^ 40 && (c ≤ 0x81 || b 0x18 % 2 = 0)
      && (if c = 0x83 then true else w 0x0C = 0xFFFF)
  else if c = 0x90 then
    b 0x1C ≤ 1 && [0x20, 0x24, 0x28, 0x2C, 0x30].all (fun o => f32Finite (fld32 raw o))
      && f32Unit (fld32 raw 0x24) && f32Unit (fld32 raw 0x28) && f32Normal (fld32 raw 0x34)
  else if c = 0x91 then f32Normal (fld32 raw 0x10) && f32Normal (fld32 raw 0x14)
  else if c = 0x120 then
    1 ≤ w 0x1C && w 0x1C ≤ 256 && 1 ≤ w 0x1E && w 0x1E ≤ 256 && w 0x1C % w 0x1E = 0 && f32Normal (fld32 raw 0x20)
      && (b 0x29 = 0x02 || b 0x29 = 0x11)
  else if c = 0x162 then f32Normal (fld32 raw 0x18)
  else true

/-- Table 1: one descriptor on its own. -/
def checkOp (c : Ctl) (i : Nat) (raw : List Byte) : Check :=
  need (catalogue.contains (opCode raw)) ⟨3, 1, i⟩
  <|> need (opForm raw % 4 = 0 || c.expert) ⟨4, 1, i⟩
  <|> need (!(opFast raw && noReduction raw)) ⟨2, 1, i⟩
  <|> need (decide (opPhase raw ≤ 63) && decide (opPlace raw < c.plan.place.length)) ⟨2, 1, i⟩
  <|> need (!opExpert raw || decide (opExpertRef raw < c.plan.expert.length)) ⟨2, 1, i⟩
  <|> need ((slots raw).all fun x =>
        let v := fld raw x.off 2
        if v = 0xFFFF then !x.required
        else decide (v < if x.tensor then c.plan.tensors.length else c.plan.index.length)) ⟨2, 1, i⟩
  <|> need (opCode raw ≠ 0x63 || (uops raw).all fun u => 1 ≤ fld u 0 1 && fld u 0 1 ≤ 0x13) ⟨3, 1, i⟩
  <|> need (fieldsOk raw) ⟨2, 1, i⟩

/-- Table 2: one tensor descriptor on its own (R49, R149, R165). DESIGN CHOICE (assumption 116): R49 limits MAXEXP for no INT8 tensor,
so any value of the field is taken. -/
def checkTensor (c : Ctl) (i : Nat) (t : Tensor) : Check :=
  let bad := ⟨2, 2, i⟩
  match Fmt.ofCode t.format with
  | none => some bad
  | some f =>
    let lo : Int := if f.isBlock then -127 else if f.isBinary then f.emin else if f = .aa128 then -32767 else -32768
    let hi : Int := if f.isBlock ∨ f.isBinary then 127 else 32767
    need (decide (lo ≤ t.maxexp) && decide (t.maxexp ≤ hi) && f32Normal t.l2) bad
    <|> need (!((c.plan.tensors.take i).any fun u => u.id = t.id)) bad
    <|> need (!f.isBlock || decide (t.blockDim ≤ 3)) bad
    <|> need (!t.batched || (decide (t.seqDim ≤ 3) && !(f.isBlock && t.seqDim = t.blockDim))) bad
    <|> need (decide (1 ≤ t.ndim) && decide (t.ndim ≤ 4) && decide (t.locus ≤ 1)) bad
    <|> need (t.ext.zipIdx.all fun x => 1 ≤ x.1 && (x.2 < t.ndim || x.1 = 1)) bad
    <|> need (decide (prod t.ext ≤ 2 ^ 48)) bad
    <|> need (!(t.batched && c.plan.batched) || nth t.ext t.seqDim 0 = c.plan.batchMax) bad
    <|> (if t.locus = 1 then
          need (decide (t.data < 2 ^ 20) && (!f.isBlock || decide (t.scales < 2 ^ 20))
            && decide (1 ≤ t.colstep) && decide (t.colstep < 2 ^ 20)) bad
        else
          need (t.data % 64 = 0 && (!f.isBlock || t.scales % 64 = 0)) bad
          <|> checkPlane c t.data t.span t.colstep (planeSize t t.ext false) 2 i
          <|> (if f.isBlock then checkPlane c t.scales t.span t.colstep (planeSize t t.ext true) 2 i else none))
    <|> (if t.batched then
          need (t.seqmax % 8 = 0 && validAddr t.seqmax && decide (t.seqmax < 2 ^ 42)) bad
          <|> match c.part.regions.findSome? fun r => (r.offset t.seqmax).map fun x => (r, x) with
              | none => some ⟨5, 2, i⟩
              | some (r, x) => need (decide (x + 2 * nth t.ext t.seqDim 1 ≤ r.size)) ⟨5, 2, i⟩
        else need (t.seqmax = 0) bad)

/-- Table 3 (R152). -/
def checkIndex (c : Ctl) (i : Nat) (a : IndexArr) : Check :=
  need ((a.width = 4 || a.width = 8) && decide (1 ≤ a.count) && decide (a.count < 2 ^ 32) && a.addr % a.width = 0) ⟨2, 3, i⟩
  <|> checkPlane c a.addr a.span a.colstep (a.count * a.width) 3 i

/-- Table 4 (R153). -/
def checkPlace (c : Ctl) (i : Nat) (p : U64 × U64) : Check :=
  need (p.1 ≠ 0 && p.2 ≠ 0) ⟨2, 4, i⟩ <|> need (p.1 &&& ~~~c.part.tracts = 0) ⟨5, 4, i⟩

/-- Operators that run on the lattices (R114): the fields SPLIT_K, WINDOW and REPLAY of an expert block apply to them. -/
def onLattice (c : Nat) : Bool := isGemm c || c = 0x20 || c = 0x21 || isConv c || c = 0x120 || isConvBwd c

/-- Operators that deal output tiles: TILE_M, TILE_N and ORDER apply to them (R112, R151). -/
def dealsTiles (p : Plan) (raw : List Byte) : Bool :=
  onLattice (opCode raw) || (tensorsIn raw ++ tensorsOut raw).any fun i => (nth p.tensors i Tensor.none).locus = 1

/-- Length of the reduction of a lattice operator by the extents its plan declares: the columns of A, or a kernel's elements for one
output; 0 where R55 splits no sum of the operator's tiles. -/
def reductionLen (p : Plan) (raw : List Byte) : Nat :=
  let t := fun (off : Nat) => nth p.tensors (fld raw off 2) Tensor.none
  if isGemm (opCode raw) then
    let a := (t 0x08).shape Option.none
    nth a ((t 0x08).ndim - (if fld raw 0x10 1 % 2 = 1 then 2 else 1)) 1
  else if isConv (opCode raw) then prod (((t 0x0A).shape Option.none).drop 1)
  else 0

/-- Accumulators of an output tile: one, and one more for the chunk that is open where the reduction is split into chunks (R55, R103).
DEDUCED: a chunk is closed before the next opens (assumption 108). -/
def tileAccs (p : Plan) (raw : List Byte) : Nat := if 2 ^ 24 < reductionLen p raw then 2 else 1

/-- Table 5 (R112): the fields that some operator uses; NEAR and HALF apply to every operator. -/
def checkExpert (p : Plan) (i : Nat) (b : List Byte) : Check :=
  let users := p.ops.filter fun r => opExpert r && opExpertRef r = i
  let d := tileSides b
  let k := fld b 8 4
  need (!users.any (dealsTiles p) || (fld b 0 4 % 16 = 0 && fld b 4 4 % 16 = 0
      && users.all (fun r => !dealsTiles p r || decide (d.1 * d.2 * tileAccs p r ≤ 64))
      && decide (fld b 0xD 1 ≤ 1))) ⟨2, 5, i⟩
  <|> need (!users.any (fun r => onLattice (opCode r)) || (decide (k ≤ 64) && (k = 0 || 2 ^ Nat.log2 k = k)
      && decide (fld b 0xC 1 ≤ 64) && decide (fld b 0xE 2 ≤ 1024))) ⟨2, 5, i⟩
  <|> need (users.isEmpty || (decide (fld b 0x10 1 ≤ 2) && decide (fld b 0x11 1 ≤ 2))) ⟨2, 5, i⟩

/-- Table 6 (R154). -/
def checkEdge (c : Ctl) (i : Nat) (e : Nat × Nat) : Check :=
  need (decide (e.1 < e.2) && decide (e.2 < c.plan.ops.length)) ⟨6, 6, i⟩

/-- Table 7 (R155). -/
def checkBind (c : Ctl) (i : Nat) (b : Binding) : Check :=
  need (decide (b.index < c.plan.index.length) && decide (b.dir ≤ 1) && decide (1 ≤ b.elem) && decide (b.elem ≤ 4)
    && decide (b.word + b.elem ≤ if b.dir = 0 then 11 else 2)) ⟨2, 7, i⟩

/-! ### Pass 3: relations -/

def Plan.t (p : Plan) (raw : List Byte) (off : Nat) : Tensor := nth p.tensors (fld raw off 2) Tensor.none
def Plan.ix (p : Plan) (raw : List Byte) (off : Nat) : IndexArr := nth p.index (fld raw off 2) IndexArr.none
def named? (raw : List Byte) (off : Nat) : Bool := fld raw off 2 ≠ 0xFFFF

/-- Declared shape brought to `n` dimensions. -/
def Tensor.lead (t : Tensor) (n : Nat) : Option (List Nat) := leadTo n (t.shape Option.none)

/-- Rows and length of a tensor taken along its innermost dimension. -/
def Tensor.rows (t : Tensor) : Nat × Nat :=
  let l := t.shape Option.none
  (prod (l.take (t.ndim - 1)), nth l (t.ndim - 1) 1)

/-- The pairings of R42 for the lattice. -/
def pairing (a b : Fmt) : Bool :=
  (a.isBlock && b.isBlock) || (a = .int8 && b = .int8) || ((a = .f16 || a = .bf16) && (b = .f16 || b = .bf16))

/-- SEQ_DIM counted from the innermost dimension, after the swap of TRANS. -/
def seqFromEnd (t : Tensor) (trans : Bool) : Nat :=
  let p := t.ndim - 1 - t.seqDim
  if trans ∧ p = 0 then 1 else if trans ∧ p = 1 then 0 else p

/-- [G1, G2, rows, columns] of a stored matrix. -/
def matShape (t : Tensor) (trans : Bool) : Option (List Nat) :=
  match t.lead 4 with
  | some [g1, g2, r, c] => some (if trans then [g1, g2, c, r] else [g1, g2, r, c])
  | _ => none

/-- OUT of R117 against the output's format. -/
def outOk (out : Nat) (f : Fmt) : Bool := (out = 1) == (f = .aa128)

/-- R52: an AA128 output anchored from a BATCHED operand is BATCHED along the same sequences. -/
def alongSame (c a : Tensor) (trans : Bool) : Bool :=
  !(c.fmt = .aa128 && a.batched) || (c.batched && seqFromEnd c false = seqFromEnd a trans)

def gemmOk (p : Plan) (raw : List Byte) : Bool :=
  let code := opCode raw
  let a := p.t raw 0x08; let b := p.t raw 0x0A; let c := p.t raw 0x0C
  let ta := fld raw 0x10 1 % 2 = 1; let tb := fld raw 0x10 1 / 2 % 2 = 1
  pairing a.fmt b.fmt && outOk (fld raw 0x11 1) c.fmt
    && (!a.fmt.isBlock || a.blockDim + (if ta then 2 else 1) = a.ndim)
    && (!b.fmt.isBlock || b.blockDim + (if tb then 1 else 2) = b.ndim)
    && alongSame c a ta && alongSame c b tb
    && match matShape a ta, matShape b tb, matShape c false with
       | some [a1, a2, m, k], some [b1, b2, k', n], some [c1, c2, m', n'] =>
         k = k' && m = m' && n = n' &&
         (if code = 0x12 then
            a1 = 1 && a2 = 1 && b1 = 1 && c1 = 1 && c2 = 1 && b2 = fld raw 0x18 4
              && (p.ix raw 0x12).width = 4 && b2 + 1 ≤ (p.ix raw 0x12).count
              && (!a.batched || (named? raw 0x14 && (p.ix raw 0x14).width = 4 && m ≤ (p.ix raw 0x14).count))
          else
            (if code = 0x10 then a1 = 1 && a2 = 1 && b1 = 1 && b2 = 1 && c1 = 1 && c2 = 1
             else a1 = c1 && a2 = c2 && (b1 = 1 || b1 = c1) && (b2 = 1 || b2 = c2))
            && (!named? raw 0x0E ||
                let x := p.t raw 0x0E
                x.fmt = .aa128 && matShape x false = some [c1, c2, m, n] && alongSame c x false
                  && (!c.batched || (x.batched && seqFromEnd x false = seqFromEnd c false))))
       | _, _, _ => false

def headDimOk (d : Nat) : Bool := d % 32 = 0 && 32 ≤ d && d ≤ 256
def kvFmt (f : Fmt) : Bool := f = .cb8 || f = .bf16
def batchFirst (t : Tensor) : Bool := t.batched && t.ndim = 4 && t.seqDim = 0

def attnOk (p : Plan) (raw : List Byte) (cache : Option Cache) : Bool :=
  let q := p.t raw 0x08; let o := p.t raw 0x0E
  let hq := fld raw 0x14 2; let hkv := fld raw 0x16 2
  match q.lead 4, o.lead 4 with
  | some [b, t, h, d], some os =>
    batchFirst q && kvFmt q.fmt && (!q.fmt.isBlock || q.blockDim = 3) && headDimOk d && t ≤ 65536 && h = hq
      && os = [b, t, h, d] && o.fmt ≠ .aa128
      && (p.ix raw 0x12).width = 8 && b ≤ (p.ix raw 0x12).count
      && (!named? raw 0x10 || ((p.t raw 0x10).fmt = .f32 && (p.t raw 0x10).lead 3 = some [b, t, h]))
      && (match cache with
          | none =>
            let k := p.t raw 0x0A; let v := p.t raw 0x0C
            batchFirst k && batchFirst v && pairing q.fmt k.fmt && kvFmt k.fmt && kvFmt v.fmt
              && (!k.fmt.isBlock || k.blockDim = 3) && (!v.fmt.isBlock || v.blockDim = 1)
              && (match k.lead 4 with
                  | some [b', _, h', d'] => b' = b && h' = hkv && d' = d && v.lead 4 = k.lead 4
                  | _ => false)
          | some c =>
            hkv = c.hl && d = c.d && fld raw 0x28 2 < c.nlayer && q.fmt = (if c.bf16 then .bf16 else .cb8)
              && (p.ix raw 0x2A).width = 4 && b ≤ (p.ix raw 0x2A).count)
  | _, _ => false

def scatterKvOk (p : Plan) (raw : List Byte) (c : Cache) : Bool :=
  let k := p.t raw 0x08; let v := p.t raw 0x0A
  let f := fun (x : Fmt) => x.isBlock || x.isBinary
  match k.lead 3 with
  | some [r, h, d] =>
    f k.fmt && f v.fmt && v.lead 3 = k.lead 3 && r ≤ 1048576 && h = c.hl && d = c.d && fld raw 0x14 2 < c.nlayer
      && (p.ix raw 0x0C).width = 4 && r ≤ (p.ix raw 0x0C).count
      && (p.ix raw 0x0E).width = 8 && r ≤ (p.ix raw 0x0E).count
  | _ => false

/-- Extents equal but along one dimension. -/
def sameBut (ax : Nat) (a b : List Nat) : Bool :=
  a.length = b.length && (List.range a.length).all fun i => i = ax || nth a i 0 = nth b i 0

def moveOk (p : Plan) (raw : List Byte) : Bool :=
  let c := opCode raw
  let src := p.t raw 0x08; let dst := p.t raw 0x0A
  let ax := fld raw 0x0E 1
  let n := (p.ix raw 0x0C).count
  let add := c = 0x31 && fld raw 0x0F 1 = 1
  sameBut ax src.ext dst.ext && src.ndim = dst.ndim
    && (!src.fmt.isBlock || src.blockDim ≠ ax) && (!dst.fmt.isBlock || dst.blockDim ≠ ax)
    && (if c = 0x32 ∨ add then dst.fmt ≠ .aa128
        else dst.format = src.format && (!src.fmt.isBlock || src.blockDim = dst.blockDim))
    && (if c = 0x31 then n ≤ nth src.ext ax 0 else n ≤ nth dst.ext ax 0)

def sortOk (p : Plan) (raw : List Byte) : Bool :=
  let out := p.ix raw 0x0E
  out.width = 4 &&
  (if opCode raw = 0x40 then
     let src := p.t raw 0x08
     let k := fld raw 0x10 4
     let rn := src.rows
     src.fmt ≠ .aa128 && k ≤ rn.2 && rn.1 * k ≤ out.count
       && (!named? raw 0x0C ||
           let v := p.t raw 0x0C
           v.fmt = .f32 && v.rows = (rn.1, k))
   else if named? raw 0x08 then
     let src := p.t raw 0x08
     let v := p.t raw 0x0C
     let rn := src.rows
     (src.fmt = .int8 || src.fmt.isBinary) && v.format = src.format && v.rows = rn
       && rn.2 ≤ 2 ^ 28 && rn.1 * rn.2 ≤ out.count
   else
     let a := p.ix raw 0x0A
     let v := p.ix raw 0x0C
     a.width = 4 && v.width = 4 && a.count ≤ 2 ^ 28 && a.count ≤ v.count && a.count ≤ out.count)

def scanOk (p : Plan) (raw : List Byte) : Bool :=
  let a := p.t raw 0x08; let x := p.t raw 0x0A; let h := p.t raw 0x0E
  match a.lead 3 with
  | some [b, t, c] =>
    a.fmt ≠ .aa128 && x.fmt ≠ .aa128 && h.fmt ≠ .aa128 && x.lead 3 = some [b, t, c]
      && (if fld raw 0x10 1 / 2 % 2 = 1 then h.lead 2 = some [b, c] else h.lead 3 = some [b, t, c])
      && (!named? raw 0x0C || ((p.t raw 0x0C).fmt = .f32 && (p.t raw 0x0C).lead 2 = some [b, c]))
  | _ => false

/-- [N, C, H, W] of a convolution operand. With one dimension H is 1, and the operand may also leave it out: R131 writes [Nb, C, W]
for X, and the model takes the same short form of WGT and Y (assumption 93). -/
def convShape (t : Tensor) (one : Bool) : Option (List Nat) :=
  if one then
    if t.ndim = 4 then (if nth t.ext 2 1 = 1 then t.lead 4 else none)
    else (match t.lead 3 with | some [n, c, w] => some [n, c, 1, w] | _ => none)
  else t.lead 4

/-- The channel dimension of a convolution operand, counted from the innermost. -/
def channelDim (t : Tensor) (one : Bool) : Nat := if one && t.ndim ≠ 4 then 1 else 2

/-- Output extent of R131; 0 where the window does not fit. -/
def convOut (h padA padB dil k stride : Nat) : Nat :=
  let span := dil * (k - 1) + 1
  if h + padA + padB < span then 0 else (h + padA + padB - span) / stride + 1

def convOk (_p : Plan) (raw : List Byte) (x w y : Tensor) : Bool :=
  let one := opCode raw % 2 = 0
  let g := fld raw 0x1C 4
  match convShape x one, convShape w one, convShape y one with
  | some [n, c, h, wd], some [co, cg, kh, kw], some [n', co', oh, ow] =>
    n = n' && co = co' && c % g = 0 && co % g = 0 && cg = c / g && 1 ≤ kh && kh ≤ 255 && 1 ≤ kw && kw ≤ 255
      && oh = convOut h (fld raw 0x14 2) (fld raw 0x16 2) (fld raw 0x12 1) kh (fld raw 0x10 1)
      && ow = convOut wd (fld raw 0x18 2) (fld raw 0x1A 2) (fld raw 0x13 1) kw (fld raw 0x11 1)
      && 1 ≤ oh && 1 ≤ ow
  | _, _, _ => false

def convFwdOk (p : Plan) (raw : List Byte) : Bool :=
  let x := p.t raw 0x08; let w := p.t raw 0x0A; let y := p.t raw 0x0C
  let blocked := fun t : Tensor => !t.fmt.isBlock || t.blockDim + channelDim t (opCode raw = 0x50) + 1 = t.ndim
  convOk p raw x w y && pairing x.fmt w.fmt && outOk (fld raw 0x20 1) y.fmt && alongSame y x false && alongSame y w false
    && blocked x && blocked w
    && (!named? raw 0x0E ||
        let a := p.t raw 0x0E
        a.fmt = .aa128 && a.shape none = y.shape none && alongSame y a false
          && (!y.batched || (a.batched && a.seqDim = y.seqDim)))

/-- Shapes of the backward variants: mode 1 forms DW from X and DY, mode 0 DX from WGT and DY. -/
def convBwdOk (p : Plan) (raw : List Byte) : Bool :=
  let dy := p.t raw 0x0C; let out := p.t raw 0x0E
  -- MODE: 0 names WGT alone, 1 X alone
  (named? raw 0x08 == decide (fld raw 0x20 1 / 2 % 2 = 1)) && (named? raw 0x0A == decide (fld raw 0x20 1 / 2 % 2 = 0))
    && outOk (fld raw 0x20 1 % 2) out.fmt && alongSame out dy false
    && alongSame out (p.t raw (if named? raw 0x08 then 0x08 else 0x0A)) false &&
  (if named? raw 0x08 then convOk p raw (p.t raw 0x08) out dy && pairing (p.t raw 0x08).fmt dy.fmt
   else convOk p raw out (p.t raw 0x0A) dy && pairing (p.t raw 0x0A).fmt dy.fmt)

/-- R133: a BATCHED X keeps its sequences. -/
def normBatch (x y : Tensor) : Bool :=
  !x.batched || (x.seqDim + 1 ≠ x.ndim && y.batched && y.seqDim = x.seqDim)

def normOk (p : Plan) (raw : List Byte) : Bool :=
  let x := p.t raw 0x08; let y := p.t raw 0x0A
  let rn := x.rows
  let vec := fun (off : Nat) => !named? raw off || ((p.t raw off).fmt ≠ .aa128 && (p.t raw off).rows = (1, rn.2))
  x.fmt ≠ .aa128 && y.fmt ≠ .aa128 && x.shape none = y.shape none && rn.2 ≤ 2 ^ 20 && normBatch x y
    && (if opCode raw = 0x62 then true
        else vec 0x0C && (opCode raw = 0x60 || vec 0x0E)
          && (!named? raw 0x10 || ((p.t raw 0x10).fmt = .f32
              && prod (p.t raw 0x10).ext = rn.1 * (if opCode raw = 0x61 then 2 else 1))))

def normBwdOk (p : Plan) (raw : List Byte) : Bool :=
  let x := p.t raw 0x08; let dy := p.t raw 0x0A; let dx := p.t raw 0x0E
  let rn := x.rows
  let vec := fun (off : Nat) => !named? raw off || ((p.t raw off).fmt ≠ .aa128 && (p.t raw off).rows = (1, rn.2))
  [x, dy, dx].all (fun t => t.fmt ≠ .aa128 && t.shape none = x.shape none) && rn.2 ≤ 2 ^ 20
    && vec 0x0C && vec 0x12 && (opCode raw = 0x160 || vec 0x14)
    && (p.t raw 0x10).fmt = .f32 && prod (p.t raw 0x10).ext = rn.1 * (if opCode raw = 0x161 then 2 else 1)

/-- Each dimension equal to OUT's or 1. -/
def broadcasts (t out : Tensor) : Bool :=
  match t.lead 4, out.lead 4 with
  | some a, some b => (a.zip b).all fun x => x.1 = 1 || x.1 = x.2
  | _, _ => false

def eltwiseOk (p : Plan) (raw : List Byte) : Bool :=
  let out := p.t raw 0x10
  out.fmt ≠ .aa128 &&
    [0x08, 0x0A, 0x0C, 0x0E].all fun o => !named? raw o || broadcasts (p.t raw o) out

def sampleOk (p : Plan) (raw : List Byte) : Bool :=
  let l := p.t raw 0x08
  let b := nth l.ext 0 0
  let w := fun (off wd n : Nat) => (p.ix raw off).width = wd && n ≤ (p.ix raw off).count
  l.fmt ≠ .aa128 && l.ndim = 2 && l.batched && l.seqDim = 0 && b ≤ 65536 && nth l.ext 1 0 ≤ 2 ^ 24
    && w 0x0A 8 (4 * b) && w 0x0C 4 b && (!named? raw 0x0E || w 0x0E 4 b)

def optOk (p : Plan) (raw : List Byte) : Bool :=
  let w := p.t raw 0x08
  let adam := fld raw 0x1C 1 = 1
  let f := fun (off : Nat) => (p.t raw off).fmt = .f32 && (p.t raw off).shape none = w.shape none
  let g := p.t raw 0x0E
  w.fmt ≠ .f32 && w.fmt ≠ .aa128 && f 0x0A && f 0x0C && f 0x10 && f 0x12 && (!adam || (f 0x14 && f 0x16))
    && (g.fmt = .f32 || g.fmt = .aa128) && g.shape none = w.shape none
    && (p.ix raw 0x18).width = 8 && (!named? raw 0x1A || (p.ix raw 0x1A).width = 8)

def lossOk (p : Plan) (raw : List Byte) : Bool :=
  let l := p.t raw 0x08
  let rn := l.rows
  l.fmt ≠ .aa128 && rn.2 ≤ 2 ^ 24 && (p.ix raw 0x0A).width = 4 && rn.1 ≤ (p.ix raw 0x0A).count
    && (p.t raw 0x0C).fmt = .f32 && prod (p.t raw 0x0C).ext = rn.1
    && (!named? raw 0x0E || ((p.t raw 0x0E).fmt ≠ .aa128 && (p.t raw 0x0E).shape none = l.shape none))

def attnBwdOk (p : Plan) (raw : List Byte) : Bool :=
  let q := p.t raw 0x08; let k := p.t raw 0x0A; let v := p.t raw 0x0C
  let same := fun (off : Nat) (t : Tensor) => (p.t raw off).fmt ≠ .aa128 && (p.t raw off).lead 4 = t.lead 4
  match q.lead 4, k.lead 4 with
  | some [b, t, h, d], some [b', _, h', d'] =>
    let g : Fmt := if fld raw 0x29 1 = 0x02 then .cb8e5 else .bf16
    batchFirst q && batchFirst k && batchFirst v && kvFmt q.fmt && kvFmt k.fmt && kvFmt v.fmt && pairing q.fmt k.fmt
      && pairing g q.fmt && pairing g k.fmt && pairing g v.fmt
      && b = b' && d = d' && headDimOk d && t ≤ 65536 && h = fld raw 0x1C 2 && h' = fld raw 0x1E 2
      && v.lead 4 = k.lead 4 && same 0x0E q && same 0x10 q && same 0x14 q && same 0x16 k && same 0x18 k
      && (p.t raw 0x12).fmt = .f32 && (p.t raw 0x12).lead 3 = some [b, t, h]
      && (p.ix raw 0x1A).width = 8 && b ≤ (p.ix raw 0x1A).count
  | _, _ => false

/-- Collectives against the group of `g` members (R140, R141). Blocks along dimension 0 are joined whole, so that ALL_GATHER takes them
where the extent is a multiple of 32 and ALL_TO_ALL, whose rows are single, not at all (assumption 107). -/
def collOk (p : Plan) (raw : List Byte) (g : Nat) : Bool :=
  let c := opCode raw
  let s := p.t raw 0x08; let d := p.t raw 0x0A
  let np := fld raw 0x20 8
  let rest := fun (a b : List Nat) => a.drop 1 = b.drop 1
  (s.fmt = .aa128 || np = 1)
    && (g * np ≤ 2 ^ 24 || 2 ^ 24 % np = 0 || np % 2 ^ 24 = 0)
    && s.ndim = d.ndim && rest s.ext d.ext
    && (if c = 0x80 then nth s.ext 0 0 = nth d.ext 0 0 && alongSame d s false
        else if c = 0x81 then nth s.ext 0 0 = g * nth d.ext 0 0 && alongSame d s false
        else d.format = s.format && (!s.fmt.isBlock || s.blockDim = d.blockDim) &&
          (if c = 0x82 then nth d.ext 0 0 = g * nth s.ext 0 0 && (!s.fmt.isBlock || s.blockDim ≠ 0 || nth s.ext 0 0 % 32 = 0)
           else if c = 0x83 then (!s.fmt.isBlock || s.blockDim ≠ 0) && (p.ix raw 0x0C).width = 4 && g ≤ (p.ix raw 0x0C).count
           else nth s.ext 0 0 = nth d.ext 0 0 && fld raw 0x14 4 < g))

/-- Device ranges of an operand. -/
def tensorRanges (p : Plan) (i : Nat) : List (Nat × Nat) :=
  let t := nth p.tensors i Tensor.none
  if t.locus = 1 then []
  else pieces t.data t.span t.colstep (planeSize t t.ext false) ++ pieces t.scales t.span t.colstep (planeSize t t.ext true)

def indexRanges (p : Plan) (i : Nat) : List (Nat × Nat) :=
  let a := nth p.index i IndexArr.none
  pieces a.addr a.span a.colstep (a.count * a.width)

def rangesMeet (a b : List (Nat × Nat)) : Bool := a.any fun x => b.any fun y => meet x.1 x.2 y.1 y.2

/-- No output shares a byte with an input (R110). SCATTER ADD's destination is one operand, read and written in one field; every
other field that reads is held against every field that writes. -/
def aliasOk (p : Plan) (raw : List Byte) : Bool :=
  let outs := (tensorsOut raw).flatMap (tensorRanges p) ++ (indexOut raw).flatMap (indexRanges p)
  let ts := named (fun x => x.tensor && x.reads && !x.writes) raw
  let ins := ts.flatMap (tensorRanges p) ++ (indexIn raw).flatMap (indexRanges p)
  !rangesMeet outs ins && (tensorsOut raw).all fun i => ts.all fun j => !shardsMeet p (fun t => t.ext) i j

/-- Tile fields of an operator that every operator naming a LOCUS 1 tensor shares (R151). -/
def tiling (p : Plan) (raw : List Byte) : Nat × Nat × Nat × Nat :=
  let x := expertOf p raw
  (opPlace raw, fld x 0 4, fld x 4 4, fld x 0xD 1)

def shardsOk (p : Plan) (raw : List Byte) : Bool :=
  (tensorsIn raw ++ tensorsOut raw).all fun i =>
    let t := nth p.tensors i Tensor.none
    t.locus ≠ 1 || (tiling p raw = tiling p (namingOp p i)
      && (shardRanges p i t.ext t).all fun r => r.1 + r.2 ≤ 2 ^ 20)

/-- A grove of the placement set lies in the half that HALF names (R112). -/
def halfOk (p : Plan) (raw : List Byte) : Bool := !(dealOf p raw).groves.isEmpty

/-- Output tiles and reduction length of a matrix product or a convolution. -/
def latticeWork (p : Plan) (raw : List Byte) : Option (Grid × Nat) :=
  let c := opCode raw
  if isGemm c then
    match matShape (p.t raw 0x08) (fld raw 0x10 1 % 2 = 1), (p.t raw 0x0C).lead 4 with
    | some [_, _, _, k], some [g1, g2, m, n] => some (⟨g1 * g2, ceilDiv m 16, ceilDiv n 16⟩, k)
    | _, _ => none
  else if isConv c then
    match convShape (p.t raw 0x0C) (c = 0x50) with
    | some [n, co, h, w] => some (⟨1, ceilDiv (n * h * w) 16, ceilDiv co 16⟩, prod (p.t raw 0x0A).ext / max 1 co)
    | _ => none
  else none

/-- A grove's share fits in its accumulators, one for each tile and each open chunk (R103): a side that the block leaves open takes
what is left, so only the sides it gives can need more. -/
def accumulatorsOk (p : Plan) (raw : List Byte) : Bool :=
  match latticeWork p raw with
  | some (g, k) =>
    let x := expertOf p raw
    max 1 (fld x 0 4 / 16) * max 1 (fld x 4 4 / 16) * openChunks k (splitOf p raw g) ≤ 64 || (fld x 0 4 = 0 && fld x 4 4 = 0)
  | none => true

/-- Shape and format rules of the operator. -/
def shapesOk (c : Ctl) (raw : List Byte) : Bool :=
  let p := c.plan
  match opCode raw with
  | 0x02 => (p.t raw 0x08).shape none = (p.t raw 0x0A).shape none && (p.t raw 0x0A).fmt ≠ .aa128
  | 0x10 => gemmOk p raw
  | 0x11 => gemmOk p raw
  | 0x12 => gemmOk p raw
  | 0x20 => attnOk p raw none
  | 0x21 => match c.part.cache (fld32 raw 0x24) with | some k => attnOk p raw (some k) | none => false
  | 0x22 => match c.part.cache (fld32 raw 0x10) with | some k => scatterKvOk p raw k | none => false
  | 0x30 => moveOk p raw
  | 0x31 => moveOk p raw
  | 0x32 => moveOk p raw
  | 0x40 => sortOk p raw
  | 0x41 => sortOk p raw
  | 0x42 => scanOk p raw
  | 0x50 => convFwdOk p raw
  | 0x51 => convFwdOk p raw
  | 0x60 => normOk p raw
  | 0x61 => normOk p raw
  | 0x62 => normOk p raw
  | 0x63 => eltwiseOk p raw
  | 0x70 => sampleOk p raw
  | 0x90 => optOk p raw
  | 0x91 => lossOk p raw
  | 0x120 => attnBwdOk p raw
  | 0x150 => convBwdOk p raw
  | 0x151 => convBwdOk p raw
  | 0x160 => normBwdOk p raw
  | 0x161 => normBwdOk p raw
  | 0x162 => [0x08, 0x0A, 0x0C].all fun o =>
      (p.t raw o).fmt ≠ .aa128 && (p.t raw o).shape none = (p.t raw 0x08).shape none
  | _ => true

/-- Pass 3 for one operator. -/
def checkOpRel (c : Ctl) (i : Nat) (raw : List Byte) : Check :=
  let code := opCode raw
  let own := fun (h : U32) => match c.part.cache h with | some k => k.ctx = c.plan.ctx | none => false
  need (halfOk c.plan raw) ⟨2, 1, i⟩
  <|> (if code = 0x21 then need (own (fld32 raw 0x24)) ⟨5, 1, i⟩
       else if code = 0x22 then need (own (fld32 raw 0x10)) ⟨5, 1, i⟩ else none)
  <|> (if isColl code then
        match c.groups.find? fun g => g.id = fld32 raw 0x10 && g.part = c.part.num with
        | none => some ⟨5, 1, i⟩
        | some g => need (collOk c.plan raw g.members.length) ⟨2, 1, i⟩
       else need (shapesOk c raw) ⟨2, 1, i⟩)
  <|> need (aliasOk c.plan raw) ⟨2, 1, i⟩
  <|> need (shardsOk c.plan raw) ⟨2, 1, i⟩
  <|> need (accumulatorsOk c.plan raw) ⟨2, 1, i⟩

/-- Pass 3 for one binding: the array is long enough (R155). -/
def checkBindRel (c : Ctl) (i : Nat) (b : Binding) : Check :=
  need (decide (b.elem * (if c.plan.batched then c.plan.batchMax else 1) ≤ (nth c.plan.index b.index IndexArr.none).count)) ⟨2, 7, i⟩

/-! ### Pass 4: ordering (R159) -/

/-- Operators that a path of edges leads to, FROM always below TO. -/
def reachFrom (edges : List (Nat × Nat)) (a : Nat) : List Nat :=
  (sortBy (fun x y => x.1 ≤ y.1) edges).foldl (fun r e => if r.contains e.1 then e.2 :: r else r) [a]

def hasPath (edges : List (Nat × Nat)) (a b : Nat) : Bool := decide (a < b) && (reachFrom edges a).contains b

/-- Rules 1 and 2 for an operand with its writers and readers, ascending. -/
def orderOk (edges : List (Nat × Nat)) (ws rs : List Nat) : Bool :=
  ws.all (fun a => ws.all fun b => a ≥ b || hasPath edges a b)
    && rs.all fun r =>
      if ws.contains r then ws.any (fun w => w < r)
      else ws.all fun w => hasPath edges w r

/-- Operators whose operand list holds `i`. -/
def opsWith (p : Plan) (f : List Byte → List Nat) (i : Nat) : List Nat :=
  (p.ops.zipIdx.filter fun x => (f x.1).contains i).map (·.2)

def checkOrder (p : Plan) : Check :=
  (List.range p.tensors.length).findSome? (fun i =>
    need (orderOk p.edges (opsWith p tensorsOut i) (opsWith p tensorsIn i)) ⟨7, 2, i⟩)
  <|> (List.range p.index.length).findSome? (fun i =>
    need (orderOk p.edges (opsWith p indexOut i) (opsWith p indexIn i)) ⟨7, 3, i⟩)
  <|> firstOf p.binds fun i b => need ((opsWith p indexOut b.index).isEmpty = (b.dir = 0)) ⟨7, 7, i⟩

/-! ### The whole validation -/

/-- Every pass of R158, then the limits of R157. `used` is the total of all loaded images. -/
def validate (c : Ctl) (used : Nat) : Check :=
  let p := c.plan
  checkHeader p.image
  <|> firstOf p.ops (checkOp c)
  <|> firstOf p.tensors (checkTensor c)
  <|> firstOf p.index (checkIndex c)
  <|> firstOf p.place (checkPlace c)
  <|> firstOf p.expert (checkExpert p)
  <|> firstOf p.edges (checkEdge c)
  <|> firstOf p.binds (checkBind c)
  <|> firstOf p.ops (checkOpRel c)
  <|> firstOf p.binds (checkBindRel c)
  <|> checkOrder p
  <|> need (decide (c.part.plans.length < 256)
        && decide ((c.part.plans.map fun q => q.ops.length).sum + p.ops.length ≤ 32768)
        && decide (2 * (used + p.image.length) ≤ 2 ^ 33)) ⟨9, 0, 0⟩

end Sys2Proof.Machine
end

