-- ==== Sys2Proof/Machine/Grove.lean ====
section
/-! DEFINITION. The grove at work: feeders and their entries (R84 to R89), lattice passes and accumulators (R77 to R83, R102 to
R104), operand staging and core store (R76, R92), and a matrix product over the groves of its placement set (R112, R113). -/
namespace Sys2Proof.Machine

/-! ### Feeder entries (R85, R87, R89) -/

/-- The value of an element of an entry as the lattice takes it. -/
def FeedEntry.value (f : Fmt) (x : FeedEntry) (k : Nat) : Num :=
  if x.nan.getLsbD k then .nan false
  else f.scaled x.scale.toNat (planeBits (fun i => nth x.bytes i 0) (k * f.bits) f.bits)

/-- A mask of 16 bits. -/
def maskOf (p : Nat → Bool) : BitVec 16 := BitVec.ofNat 16 (((List.range 16).map fun k => if p k then 2 ^ k else 0).sum)

/-- Entry `n` of a vector whose element `k` along the reduction is logical element `at_ k`, of `len` elements, `m` being the bound of
an element: the bytes of half a block with the block's scale code, padding as memory holds it (R48); in the other formats 16
elements, those beyond the extent zero (R87). The scale check marks the elements it finds (R51, R89). -/
def View.entry (v : View) (m : Nat → Int) (at_ : Nat → Nat) (len n : Nat) : FeedEntry :=
  let w := 2 * v.t.fmt.bits
  if v.t.fmt.isBlock then
    let k := at_ (n / 2 * 32)
    let j := (blockOf v.dims v.t.blockDim k).1
    let sc := v.byte true j
    { bytes := (List.range w).map fun i => v.byte false (j * (2 * w) + n % 2 * w + i)
      scale := sc
      nan := if sc ≠ 255 && decide (m k < (sc.toNat : Int) - 127) then BitVec.allOnes 16 else 0 }
  else
    let inside := fun i => decide (16 * n + i < len)
    { bytes := toLE w (((List.range 16).map fun i =>
        if inside i then v.code (at_ (16 * n + i)) * 2 ^ (v.t.fmt.bits * i) else 0).sum)
      scale := 127
      nan := maskOf fun i => inside i && v.exceedsAt (m (at_ (16 * n + i))) (at_ (16 * n + i)) }

/-! ### Feeders (R84 to R88) -/

/-- Issue one fetch: two queue entries must be free beyond those on their way, and at most 16 fetches are outstanding. -/
def Feeder.issue (f : Feeder) : Feeder :=
  match f.program with
  | l :: ls =>
    if f.queue.length + 2 * f.fetching.length + 2 ≤ 32 ∧ f.fetching.length < 16 then
      { f with program := ls, fetching := f.fetching ++ [l] }
    else f
  | [] => f

/-- The oldest fetch arrives: a block of two entries from its source, kept in the backing bank where the stream program says so, or
two entries of the bank, bit for bit. -/
def Feeder.arrive (bring : FeedLoad → List FeedEntry) (f : Feeder) : Feeder :=
  match f.fetching with
  | [] => f
  | l :: ls =>
    let es := match l.source with
      | .bank k => (f.bank.drop k).take 2
      | _ => bring l
    { f with
      fetching := ls
      queue := f.queue ++ es
      bank := match l.keep with
        | some k => (f.bank.take k ++ es).take 64
        | none => f.bank }

/-- Fetches that there is room for, and their arrival. -/
def Feeder.fill (bring : FeedLoad → List FeedEntry) (f : Feeder) : Feeder :=
  Nat.repeat (Feeder.arrive bring) 16 (Nat.repeat Feeder.issue 16 f)

/-- A feeder that holds the `n` entries the next pass consumes, where its stream program brings them. -/
def Feeder.ready (bring : FeedLoad → List FeedEntry) (n : Nat) (f : Feeder) : Feeder :=
  if n ≤ f.queue.length then f else f.fill bring

def Grove.feeder (g : Grove) (col : Bool) (i : Nat) : Feeder :=
  (g.feeders.find? fun f => f.col = col && f.num = i).getD ⟨col, i, [], [], [], []⟩

/-- Update the feeders of the enabled rows and columns. -/
def Grove.updFeeders (rows cols : BitVec 16) (f : Feeder → Feeder) (g : Grove) : Grove :=
  { g with feeders := updWhere (fun x => if x.col then cols.getLsbD x.num else rows.getLsbD x.num) f g.feeders }

/-! ### Cores (R76, R77, R92) -/

def CoreRec.fresh (c : Nat) : CoreRec := ⟨c, [], [], []⟩

def Grove.core (g : Grove) (c : Nat) : CoreRec := (g.cores.find? fun x => x.core = c).getD (CoreRec.fresh c)
def Grove.updCore (c : Nat) (f : CoreRec → CoreRec) (g : Grove) : Grove :=
  { g with cores := upsert (fun x => x.core = c) f (CoreRec.fresh c) g.cores }

/-- The 128 bits of an accumulator; zero where nothing was written. -/
def CoreRec.acc (c : CoreRec) (i : Nat) : BitVec 128 :=
  match c.accs.find? fun a => a.index = i with
  | some a => a.value
  | none => 0

/-- A checked line enters the core's staging (R27, R76): the next of 16 slots in turn, unless a slot holds it. -/
def CoreRec.stage (line : Nat) (bytes : List Byte) (c : CoreRec) : CoreRec :=
  if c.staging.any fun x => x.2.1 = line then c
  else if c.staging.length < 16 then { c with staging := c.staging ++ [(c.staging.length, line, bytes)] }
  else { c with staging := c.staging.drop 1 ++ [((c.staging.headD (0, 0, [])).1, line, bytes)] }

/-- Bytes of the core store from an offset on. -/
def CoreRec.get (c : CoreRec) (o n : Nat) : List Byte := (List.range n).map fun i => memGet c.store (o + i)

/-- Save the accumulators to the core store: accumulator `i` at byte 16 × i of the kibibyte given (R92). -/
def CoreRec.saveAccs (kib : Nat) (c : CoreRec) : CoreRec :=
  { c with
    store := memSetAll c.store (c.accs.flatMap fun a =>
      cellsAt ((List.range 16).map fun i => 1024 * (kib % 4) + 16 * a.index + i) (toLE 16 a.value.toNat)) }

/-- An accumulator as saved. -/
def CoreRec.savedAcc (kib i : Nat) (c : CoreRec) : BitVec 128 := BitVec.ofNat 128 (leNat (c.get (1024 * (kib % 4) + 16 * i) 16))

/-! ### A lattice pass (R78 to R83) -/

/-- One level of the fixed pairing of R74. -/
def pairUp : List F32 → List F32
  | a :: b :: l => fadd a b :: pairUp l
  | l => l

/-- The result of one pass under fast reductions (R74, R83): products rounded to binary32 and paired level by level, unused lanes
zero. -/
def passSum (d : Nat) (ts : List Num) : F32 :=
  let ps := ts.map rn ++ List.replicate (d - ts.length) f32Zero
  (Nat.repeat pairUp 5 ps).headD f32Zero

/-- What every pass carries (R79). -/
structure Pass where
  acc : Nat
  clear : Bool
  rows : BitVec 16
  cols : BitVec 16

/-- An operand of the lattices: its format, its entries by vector and number, where a block of a vector lies (addresses in device
memory, or grove and offset of a shard), and the bytes of a line. -/
structure Operand where
  fmt : Fmt
  entry : Nat → Nat → FeedEntry
  addrs : Nat → Nat → List Nat
  shard : Nat → Nat → Nat × Nat
  line : Nat → List Byte

/-- A matrix product on the lattices: the tile grid, N, the rows of a row tile of a matrix (row of A with its base anchor, none where
the row is masked off), the vector of B for a column, the operands, the entries of a vector, entries for each pass (R78), and
whether under fast reductions. -/
structure Lattice where
  grid : Grid
  n : Nat
  rows : Nat → Nat → List (Option (Nat × Int))
  column : Nat → Nat → Nat → Nat
  a : Operand
  b : Operand
  entries : Nat
  step : Nat
  fast : Bool

/-- Depth of a pass (R78). -/
def passDepth (a b : Fmt) : Nat := if a = .cb4 ∧ b = .cb4 then 32 else 16

/-- The accumulate stage (R80, R82, R83): the floored products added to the accumulator, or written on CLEAR; under fast reductions
the pass result added to the binary32 partial in bits [31:0]. -/
def accumulate (fast : Bool) (depth : Nat) (base : Int) (clear : Bool) (ps : List Num) (old : BitVec 128) : BitVec 128 :=
  if fast then
    let p := passSum depth ps
    (if clear then p else fadd (old.setWidth 32) p).setWidth 128
  else accBits (accFit (accAdd (if clear then some 0 else bitsAcc old) (accChunk base ps)))

/-- Write an accumulator, with the count of products since its CLEAR (R82). -/
def CoreRec.put (p : Pass) (n : Nat) (f : BitVec 128 → BitVec 128) (c : CoreRec) : CoreRec :=
  { c with
    accs := upsert (fun a => a.index = p.acc)
      (fun a => ⟨a.index, f a.value, (if p.clear then 0 else a.products) + n⟩) ⟨p.acc, 0, 0⟩ c.accs }

/-- The entries of the block that a load brings. -/
def Lattice.bring (x : Lattice) (o : Operand) (l : FeedLoad) : List FeedEntry :=
  ([2 * l.block, 2 * l.block + 1].filter fun n => n < x.entries).map (o.entry l.vec)

/-- Where the feeder of a grove loads a block from (R84): a line beneath a core of its own row or column through that core's staging,
a share of the grove's own store, else data that the network brought to the store. -/
def Operand.source (o : Operand) (g : Nat) (col : Bool) (i vec block : Nat) : FeedSource :=
  match o.addrs vec block with
  | [] => let x := o.shard vec block; if x.1 = g then .store x.2 else .landed
  | a :: _ =>
    let c := lineCore (lineOf a)
    if c / 256 = g && (if col then c % 16 = i else c % 256 / 16 = i) then .staging (c % 256) (lineOf a) else .landed

/-- The lines of a load enter the staging of its core. -/
def Operand.stage (o : Operand) (l : FeedLoad) (g : Grove) : Grove :=
  match l.source with
  | .staging c _ => (((o.addrs l.vec l.block).map lineOf).eraseDups).foldl (fun g n => g.updCore c (CoreRec.stage n (o.line n))) g
  | _ => g

/-- An operand of an operator as the feeders fetch it: `at_ vec k` is the logical element at place `k` of a vector of `len`. -/
def Env.operand (e : Env) (s : State) (i : Nat) (m : Nat → Nat → Int) (at_ : Nat → Nat → Nat) (len : Nat) : Operand :=
  let v := e.view s i
  let first := fun k => storeIdx v.t v.dims k * v.t.fmt.bits / 8
  { fmt := v.t.fmt
    entry := fun vec n => v.entry (m vec) (at_ vec) len n
    addrs := fun vec b =>
      if v.t.locus = 1 then []
      else if v.t.fmt.isBlock then (List.range (4 * v.t.fmt.bits)).map fun j => v.t.byteAddr false (first (at_ vec (32 * b)) + j)
      else ((List.range 32).filter fun j => 32 * b + j < len).map fun j => v.t.byteAddr false (first (at_ vec (32 * b + j)))
    shard := fun vec b => shardByte v.t v.dims (shardDeal (e.plan s) i) false (first (at_ vec (32 * b)))
    line := fun n => readAt s ((List.range 64).map fun j => 64 * n + j) }

/-- One pass (R79, R80, R86): every enabled feeder holds the entries it takes, each enabled core (i, j) multiplies what row i and
column j broadcast and accumulates. A pass with every row or every column masked is not issued (R107). -/
def Grove.pass (x : Lattice) (base : Nat → Int) (p : Pass) (g : Grove) : Grove :=
  let rows := (List.range 16).filter p.rows.getLsbD
  let cols := (List.range 16).filter p.cols.getLsbD
  if rows.isEmpty || cols.isEmpty then g
  else
    let g := g.updFeeders p.rows p.cols fun f => f.ready (x.bring (if f.col then x.b else x.a)) x.step
    let vec := fun (col : Bool) (f : Fmt) (i : Nat) =>
      ((g.feeder col i).queue.take x.step).flatMap fun e => (List.range 16).map (e.value f)
    let va := rows.map fun i => (i, vec false x.a.fmt i)
    let vb := cols.map fun j => (j, vec true x.b.fmt j)
    let g := g.updFeeders p.rows p.cols fun f => { f with queue := f.queue.drop x.step }
    va.foldl (fun g a => vb.foldl (fun g b =>
      let ps := List.zipWith Num.mul a.2 b.2
      g.updCore (16 * a.1 + b.1) (CoreRec.put p ps.length
        (accumulate x.fast (16 * x.step) (base a.1) p.clear ps))) g) g

/-! ### Windows, groups and shares (R88, R102 to R104, R112, R113) -/

/-- An output tile: matrix, tile row, tile column. -/
structure Tile where
  mat : Nat
  row : Nat
  col : Nat
deriving DecidableEq

/-- The vector of B that the first column of a tile takes: tiles with the same one take the same columns of B. -/
def Lattice.colKey (x : Lattice) (t : Tile) : Nat := x.column t.mat t.row (16 * t.col)

/-- Masks of a tile: rows beyond M and rows without a part, columns beyond N (R79, R102). -/
def Lattice.rowMask (x : Lattice) (t : Tile) : BitVec 16 := maskOf fun i => (nth (x.rows t.mat t.row) i none).isSome
def Lattice.colMask (x : Lattice) (t : Tile) : BitVec 16 := maskOf fun j => decide (16 * t.col + j < x.n)

/-- A grove's run over an operator: the grove, what its accumulators held when drained (row of A, column, share, chunk, bits), the
passes issued and the entries supplied from backing banks. -/
structure Run where
  grove : Grove
  drains : List (Nat × Nat × Nat × Nat × BitVec 128)
  passes : Nat
  replayed : Nat

/-- The passes of one tile over the blocks of one window: row feeders fetch, column feeders fetch and keep the window or replay it. -/
def Lattice.window (x : Lattice) (t : Tile) (acc lo n : Nat) (clear replay : Bool) (r : Run) : Run :=
  let rm := x.rowMask t
  let cm := x.colMask t
  let g := r.grove
  let row := fun i => nth (x.rows t.mat t.row) i none
  let blocks := List.range n
  let program := fun f : Feeder =>
    if f.col then
      let v := x.column t.mat t.row (16 * t.col + f.num)
      blocks.map fun b =>
        if replay then (⟨.bank (2 * b), v, lo + b, none⟩ : FeedLoad)
        else ⟨x.b.source g.num true f.num v (lo + b), v, lo + b, some (2 * b)⟩
    else
      match row f.num with
      | some a => blocks.map fun b => ⟨x.a.source g.num false f.num a.1 (lo + b), a.1, lo + b, none⟩
      | none => []
  let g := g.updFeeders rm cm fun f => { f with program := program f }
  let g := g.feeders.foldl (fun g f =>
    if f.col then (if cm.getLsbD f.num then f.program.foldl (fun g l => x.b.stage l g) g else g)
    else (if rm.getLsbD f.num then f.program.foldl (fun g l => x.a.stage l g) g else g)) g
  let es := min (2 * n) (x.entries - 2 * lo)
  let issued := if rm = 0 ∨ cm = 0 then 0 else ceilDiv es x.step
  let g := (List.range issued).foldl (fun g k =>
    g.pass x (fun i => match row i with | some a => a.2 | none => 0) ⟨acc, clear && k = 0, rm, cm⟩) g
  { r with
    grove := g
    passes := r.passes + issued
    replayed := r.replayed + (if replay && issued ≠ 0 then es * ((List.range 16).filter cm.getLsbD).length else 0) }

/-- How long windows are and how often each is replayed (R88, R112): 64 entries and once for each further row group in the basic form.
A window of the model holds whole blocks. -/
structure Replays where
  blocks : Nat
  times : Nat

def replaysOf (expert : List Byte) : Replays :=
  let w := fld expert 0x0C 1
  let r := fld expert 0x0E 2
  ⟨if w = 0 then 32 else max 1 (w / 2), if r = 0 then 1024 else r⟩

/-- The blocks [lo, hi) of the tiles of one column of B: window by window, and within a window one row group after another. -/
def Lattice.columnTiles (x : Lattice) (w : Replays) (acc : Tile → Nat) (ts : List Tile) (lo hi : Nat) (r : Run) : Run :=
  (List.range (ceilDiv (hi - lo) w.blocks)).foldl (fun r i =>
    let b := lo + i * w.blocks
    ts.zipIdx.foldl (fun r t =>
      x.window t.1 (acc t.1) b (min w.blocks (hi - b)) (i = 0) (t.2 % (w.times + 1) ≠ 0) r) r) r

/-- Read the accumulators of a tile: what the drain path finds for each enabled core. -/
def Lattice.drain (x : Lattice) (t : Tile) (share chunk : Nat) (bits : CoreRec → BitVec 128) (r : Run) : Run :=
  { r with
    drains := r.drains ++ ((List.range 16).flatMap fun i =>
      match nth (x.rows t.mat t.row) i none with
      | none => []
      | some a => ((List.range 16).filter (x.colMask t).getLsbD).map fun j =>
          (a.1, 16 * t.col + j, share, chunk, bits (r.grove.core (16 * i + j)))) }

/-- Blocks of a chunk of R55; under fast reductions nothing is cut. -/
def chunkBlocks : Nat := 2 ^ 19

/-- The tiles of one group over the blocks [lo, hi) of a share: chunk by chunk, each in accumulators of its own (R82, R103). The
accumulators of a chunk that is not the last are saved to the core stores, from where they are drained; those of the last are
drained as they stand (assumption 94). -/
def Lattice.group (x : Lattice) (w : Replays) (share lo hi : Nat) (ts : List Tile) (r : Run) : Run :=
  let size := if x.fast then hi else chunkBlocks
  let first := lo / max 1 size
  let count := if lo < hi then (hi - 1) / size - first + 1 else 0
  let open_ := max 1 (64 / ts.length)
  let cols := (ts.map fun t => (x.colKey t, t.col)).eraseDups
  (List.range count).foldl (fun r i =>
    let c := first + i
    let acc := fun t : Tile => i % open_ * ts.length + (ts.findIdx? (· = t)).getD 0
    let r := cols.foldl (fun r k => x.columnTiles w acc (ts.filter fun t => (x.colKey t, t.col) = k)
      (max lo (c * size)) (min hi (c * size + size)) r) r
    if i + 1 < count then
      let r := { r with grove := { r.grove with cores := r.grove.cores.map (CoreRec.saveAccs i) } }
      ts.foldl (fun r t => x.drain t share c (fun k => k.savedAcc i (acc t)) r) r
    else ts.foldl (fun r t => x.drain t share c (fun k => k.acc (acc t)) r) r) r

/-- The groups in which a grove takes its tiles (R103): as many columns at a time as leave one accumulator for each tile and open
chunk, and rows at most 64. -/
def Lattice.groups (x : Lattice) (open_ : Nat) (ts : List Tile) : List (List Tile) :=
  let cols := (ts.map fun t => (x.colKey t, t.col)).eraseDups
  let rows := maxNat (cols.map fun k => (ts.filter fun t => (x.colKey t, t.col) = k).length)
  let per := max 1 (64 / (max 1 rows * open_))
  (chunks per cols.length cols).flatMap fun ks =>
    let l := ts.filter fun t => ks.contains (x.colKey t, t.col)
    chunks (max 1 (64 / open_)) l.length l

/-- Where share `i` of a reduction begins: the division is not given, and every share follows the one before (R113). -/
def splitAt (blocks shares : Nat) : Nat → Nat
  | 0 => 0
  | i + 1 => if shares ≤ i + 1 then blocks else min blocks (max (splitAt blocks shares i) (Config.splitBound blocks shares (i + 1)))

/-- Tiles of a share in its own order. -/
def Deal.tiles (d : Deal) (g : Grid) (k : Nat) : List Tile :=
  (List.range (d.size g k)).map fun i =>
    if d.m = 0 then
      let j := 64 * k + i
      if d.colMajor then ⟨j / (g.rows * g.cols), j % g.rows, j / g.rows % g.cols⟩
      else ⟨j / (g.rows * g.cols), j / g.cols % g.rows, j % g.cols⟩
    else
      let c := d.corner g k
      let h := min d.m (g.rows - c.1 * d.m)
      let w := min d.n (g.cols - c.2 * d.n)
      let o := if d.colMajor then (i % h, i / h) else (i / w, i % w)
      ⟨k / (d.down g * d.across g), c.1 * d.m + o.1, c.2 * d.n + o.2⟩

/-- The groves of an operator in the order in which they take shares: ascending, or by the distance that NEAR names, the nearest
first (R112). -/
def Env.workers (e : Env) (s : State) : List Nat :=
  let d := dealOf (e.plan s) e.raw
  let far := fun (shafts : List Nat) (g : Nat) => (shafts.map fun sh => (toShaft s g sh).1).foldl min (2 ^ 16)
  match fld (expertOf (e.plan s) e.raw) 0x10 1 with
  | 1 => sortBy (fun a b => far (List.range 16) a ≤ far (List.range 16) b) d.groves
  | 2 => sortBy (fun a b => far [16] a ≤ far [16] b) d.groves
  | _ => d.groves

/-- A grove of a confidential partition counts nothing (R106). -/
def updLattice (g : Nat) (f : LatticeCtr → LatticeCtr) (s : State) : State :=
  if (match ownerOf s (tractOfCore (256 * g)) with | some p => p.confidential | none => false) then s
  else { s with lattice := upsert (fun c => c.grove = g) f (LatticeCtr.fresh g) s.lattice }

/-- A grove takes its shares of an operator: each share of tiles with each part of the reduction goes to the groves in turn. -/
def Env.workGrove (e : Env) (x : Lattice) (deal : Deal) (split nth_ : Nat) (g : Nat) (s : State) :
    State × List (Nat × Nat × Nat × Nat × BitVec 128) :=
  let all := deal.groves.length
  let blocks := ceilDiv x.entries 2
  let mine := (List.range (deal.shares x.grid * split)).filter fun u => u % all = nth_
  let g0 := findGrove s g
  let r := (List.range split).foldl (fun r i =>
    let ts := (mine.filter fun u => u % split = i).flatMap fun u => deal.tiles x.grid (u / split)
    (x.groups (if x.fast then 1 else openChunks (16 * x.entries) split) ts).foldl (fun r l =>
      x.group (replaysOf (expertOf (e.plan s) e.raw)) i (splitAt blocks split i) (splitAt blocks split (i + 1)) l r) r)
    ⟨{ g0 with cores := g0.cores.map fun c => { c with accs := [] } }, [], 0, 0⟩
  (updLattice g (fun c => { c with
      passes := c.passes + BitVec.ofNat 64 r.passes
      replayed := c.replayed + BitVec.ofNat 64 r.replayed })
    (updGrove g (fun _ => r.grove) s), r.drains)

/-- The whole product: every grove at work, and what was drained, with the grove that held it. -/
def Env.lattices (e : Env) (x : Lattice) (s : State) : State × List (Nat × Nat × Nat × Nat × Nat × BitVec 128) :=
  let ws := e.workers s
  let deal := { dealOf (e.plan s) e.raw with groves := ws }
  let split := splitOf (e.plan s) e.raw x.grid
  ws.zipIdx.foldl (fun acc w =>
    let r := e.workGrove x deal split w.2 w.1 acc.1
    (r.1, acc.2 ++ r.2.map fun d => (w.1, d))) (s, [])

/-- The integer of an output element from its partials: those of a chunk added as they are, the chunks re-aligned and added (R55,
R57, R58). -/
def joinExact (w : Nat) (ds : List (Nat × BitVec 128)) : Acc :=
  accFit (((ds.map (·.1)).eraseDups.map fun c =>
    accShift (((ds.filter fun d => d.1 = c).map fun d => bitsAcc d.2).foldl accAdd (some 0)) w).foldl accAdd (some 0))

/-- The binary32 result of an output element from the partials of groves, ascending: a balanced binary tree (R74). -/
def joinFast (ps : List F32) : F32 := (Nat.repeat pairUp 12 ps).headD f32Zero

/-- The partials of an output element: grove, chunk, bits. -/
def partialsOf (ds : List (Nat × Nat × Nat × Nat × Nat × BitVec 128)) (row col : Nat) : List (Nat × Nat × BitVec 128) :=
  (ds.filter fun d => d.2.1 = row && d.2.2.1 = col).map fun d => (d.1, d.2.2.2.2.1, d.2.2.2.2.2)

/-- What stands in accumulators, queues and banks after an operator whose lowering is the device's own (R132): nothing that a rule
gives. -/
def Env.clearLattices (e : Env) (s : State) : State :=
  (e.workers s).foldl (fun s g =>
    if s.groves.any fun x => x.num = g then updGrove g (fun x => { x with
      cores := x.cores.map (fun c => { c with accs := [] })
      feeders := x.feeders.map (fun f => { f with program := [], fetching := [], queue := [], bank := [] }) }) s
    else s) s

end Sys2Proof.Machine
end

