-- ==== Sys2Proof/Machine/Pages.lean ====
section
/-! DEFINITION. Key-value cache pages: their geometry (R229, R230, R233), where they lie (R232, R236),
allocation, the seals of their granules (R206 to R208, R231), maxima (R235), tail staging (R240), and
the state that a replay restores (R125, R242). -/
namespace Sys2Proof.Machine

/-! ### Groups, as far as a cache needs them (R280, R288) -/

/-- A partition's fabric address. -/
def fabAddr (s : State) (part : BitVec 4) : Nat := 16 * s.fabric.devId.toNat + part.toNat

def findGroup (s : State) (part : BitVec 4) (id : U32) : Option Group :=
  s.fabric.groups.find? fun g => g.part = part && g.id = id

/-- Rank of a fabric address in a member list. -/
def rankIn (members : List Nat) (a : Nat) : Nat := (members.filter (· < a)).length

/-! ### Geometry (R229, R230) -/

def Cache.page (c : Cache) : Nat := 2 ^ c.pageLog2
def Cache.unitBytes (c : Cache) : Nat := (if c.bf16 then 4 else 66) * c.d * c.hl
def Cache.unitPos (c : Cache) : Nat := if c.bf16 then 1 else 32
def Cache.perPage (c : Cache) : Nat := c.page / c.unitBytes
/-- PP: positions per page. -/
def Cache.pp (c : Cache) : Nat := c.unitPos * c.perPage

/-- How positions are divided among the devices of a POSITION cache: members, own rank, chunk; chunk 0 otherwise. -/
structure Spread where
  g : Nat
  r : Nat
  chunk : Nat

def Cache.spread (s : State) (part : BitVec 4) (c : Cache) : Spread :=
  if c.layout = 2 then
    match c.group with
    | some id =>
      match findGroup s part id with
      | some g => ⟨g.members.length, rankIn g.members (fabAddr s part), c.chunkPages * c.pp⟩
      | none => ⟨1, 0, 0⟩
    | none => ⟨1, 0, 0⟩
  else ⟨1, 0, 0⟩

/-- Whether the device holds a position (R233). -/
def Spread.holds (x : Spread) (p : Nat) : Bool := x.chunk = 0 || p / x.chunk % x.g = x.r

/-- Ordinal of a position the device holds (R230, R233). -/
def Spread.ordinal (x : Spread) (p : Nat) : Nat :=
  if x.chunk = 0 then p else x.chunk * (p / x.chunk / x.g) + p % x.chunk

/-- Positions below `len` that the device holds. -/
def Spread.held (x : Spread) (len : Nat) : Nat :=
  if x.chunk = 0 then len
  else len / (x.chunk * x.g) * x.chunk + min x.chunk (len % (x.chunk * x.g) - x.r * x.chunk)

/-- The position that an ordinal stands for. -/
def Spread.position (x : Spread) (q : Nat) : Nat :=
  if x.chunk = 0 then q else (q / x.chunk * x.g + x.r) * x.chunk + q % x.chunk

/-! ### Layer records -/

/-- A layer of a sequence with nothing in it (R239). -/
def LayerRec.fresh (seq layer : Nat) : LayerRec :=
  { seq := seq, layer := layer, length := 0, kmax := -127, vmax := -127, pages := [], staging := [] }

def Cache.layerRec (c : Cache) (seq layer : Nat) : LayerRec :=
  (c.layers.find? fun r => r.seq = seq && r.layer = layer).getD (LayerRec.fresh seq layer)

def Cache.putLayer (c : Cache) (r : LayerRec) : Cache :=
  { c with layers := upsert (fun x => x.seq = r.seq && x.layer = r.layer) (fun _ => r) r c.layers }

def Cache.isOpen (c : Cache) (seq : Nat) : Bool := seq < c.maxseq && c.seqs.any fun q => q.seq = seq

/-! ### Addresses (R206, R232, R236) -/

/-- Device address of byte `n` of the page at a place. -/
def pageAddr (p : Partition) (c : Cache) (root : Bool) (loc n : Nat) : Nat :=
  if root then
    match c.spillreg.bind p.region with
    | some r => r.addr (loc * 1024 + n)
    | none => 0
  else
    let u := loc / 1024
    let o := loc % 1024 * 1024 + n
    mkAddr (16 + u / 65536) (16 * (u % 65536) + o / 65536) (o % 65536)

def PageEntry.addr (p : Partition) (c : Cache) (e : PageEntry) (n : Nat) : Nat := pageAddr p c e.root e.loc n

/-- The lines of a page. -/
def PageEntry.lines (p : Partition) (c : Cache) (e : PageEntry) : List Nat :=
  (List.range (c.page / 64)).map fun i => lineOf (e.addr p c (64 * i))

/-- A page slot that is never used: the default of look-ups that do not fail. -/
def PageEntry.none : PageEntry := ⟨false, 0, Option.none, false⟩

/-- Address of byte `off` of the unit that holds ordinal `q`. -/
def cacheAddr (p : Partition) (c : Cache) (r : LayerRec) (q off : Nat) : Nat :=
  (nth r.pages (q / c.pp) PageEntry.none).addr p c (q % c.pp / c.unitPos * c.unitBytes + off)

/-- Offsets of R230 within a unit, for head h, element or block d, position i of the block. -/
def Cache.keyOff (c : Cache) (h i d : Nat) : Nat :=
  if c.bf16 then 4 * c.d * h + 2 * d else 66 * c.d * h + c.d * i + d
def Cache.keyScaleOff (c : Cache) (h i k : Nat) : Nat := 66 * c.d * h + 32 * c.d + c.d / 32 * i + k
def Cache.valOff (c : Cache) (h i d : Nat) : Nat :=
  if c.bf16 then 4 * c.d * h + 2 * c.d + 2 * d else 66 * c.d * h + 33 * c.d + 32 * d + i
def Cache.valScaleOff (c : Cache) (h d : Nat) : Nat := 66 * c.d * h + 65 * c.d + d

/-! ### Reading positions -/

def readByte (s : State) (a : Nat) : Nat := (memGet s.mem a).toNat

/-- A stored value: bfloat16 at an address, or a CB8 element with its scale. -/
def bfAt (s : State) (a : Nat) : Nat := leNat (readAt s [a, a + 1])
def cbVal (code sc : Nat) : Num := if sc = 255 then .nan false else (Fmt.cb8.value code).scale2 ((sc : Int) - 127)

/-- Key element d of head h at ordinal q. -/
def keyNum (s : State) (p : Partition) (c : Cache) (r : LayerRec) (q h d : Nat) : Num :=
  let at' := cacheAddr p c r q
  if c.bf16 then Fmt.bf16.value (bfAt s (at' (c.keyOff h 0 d)))
  else cbVal (readByte s (at' (c.keyOff h (q % 32) d))) (readByte s (at' (c.keyScaleOff h (q % 32) (d / 32))))

/-- Value element d of head h at ordinal q. -/
def valNum (s : State) (p : Partition) (c : Cache) (r : LayerRec) (q h d : Nat) : Num :=
  let at' := cacheAddr p c r q
  if c.bf16 then Fmt.bf16.value (bfAt s (at' (c.valOff h 0 d)))
  else cbVal (readByte s (at' (c.valOff h (q % 32) d))) (readByte s (at' (c.valScaleOff h d)))

/-! ### Maxima (R49, R125, R235, R236) -/

/-- Codes of the keys (true) or values of ordinals `lo` to `hi − 1`: block scales, or bfloat16 biased exponents, subnormals as 1. -/
def maxCodes (s : State) (p : Partition) (c : Cache) (r : LayerRec) (keys : Bool) (lo hi : Nat) : List Nat :=
  if c.bf16 then
    (List.range (hi - lo)).flatMap fun j => (List.range c.hl).flatMap fun h => (List.range c.d).map fun d =>
      max 1 (bfAt s (cacheAddr p c r (lo + j) (if keys then c.keyOff h 0 d else c.valOff h 0 d)) / 128 % 256)
  else if keys then
    (List.range (hi - lo)).flatMap fun j => (List.range c.hl).flatMap fun h => (List.range (c.d / 32)).map fun k =>
      readByte s (cacheAddr p c r (lo + j) (c.keyScaleOff h ((lo + j) % 32) k))
  else
    (List.range (ceilDiv hi 32 - lo / 32)).flatMap fun b => (List.range c.hl).flatMap fun h => (List.range c.d).map fun d =>
      readByte s (cacheAddr p c r ((lo / 32 + b) * 32) (c.valScaleOff h d))

/-- MAXEXP over the present positions (R49: NaN blocks and infinite elements left out): −127 for none (R237), EMIN for bfloat16
without a finite element. -/
def ownMax (s : State) (p : Partition) (c : Cache) (r : LayerRec) (keys : Bool) (held len : Nat) : Int :=
  if len = 0 then -127
  else
    match (maxCodes s p c r keys 0 held).filter (· ≠ 255) with
    | [] => if c.bf16 then -126 else -127
    | l => (maxNat l : Int) - 127

/-- KMAX and VMAX of a page-table entry (R236): 0 when the page holds no key. -/
def entryMax (s : State) (p : Partition) (c : Cache) (r : LayerRec) (keys : Bool) (held i : Nat) : Nat :=
  maxNat (maxCodes s p c r keys (i * c.pp) (min held ((i + 1) * c.pp)))

/-! ### Granules and seals (R206 to R208, R231) -/

/-- A granule of a page holds only bytes of full units, or slack. -/
def granuleFull (c : Cache) (held i g : Nat) : Bool :=
  let last := min (c.perPage - 1) ((1024 * g + 1023) / c.unitBytes)
  c.perPage * c.unitBytes ≤ 1024 * g || i * c.pp + (last + 1) * c.unitPos ≤ held

/-- The seal of granule `g` of a page. -/
def sealOf (s : State) (p : Partition) (c : Cache) (e : PageEntry) (g : Nat) : U32 :=
  crc32c ((List.range 1024).map fun n => memGet s.mem (e.addr p c (1024 * g + n)))

/-- Granule `g` of a page lies in the page's channel at a number of its own. -/
def pageGranule (c : Cache) (e : PageEntry) (k : Nat) : Option Nat :=
  if e.loc % 1024 ≤ k ∧ k < e.loc % 1024 + c.page / 1024 then some (k - e.loc % 1024) else .none

/-- Open the granules of a page that are not complete: no later append may find them sealed (R208, R242). -/
def openPartial (c : Cache) (e : PageEntry) (held i : Nat) (s : State) : State :=
  if e.root then s
  else updUnit (e.loc / 1024) (fun u => { u with
    seals := u.seals.filter fun x => match pageGranule c e x.1 with | some g => granuleFull c held i g | none => true }) s

/-- Every line of a granule of a page can be read for its seal. -/
def granuleRead (s : State) (p : Partition) (c : Cache) (e : PageEntry) (g : Nat) : Bool :=
  (List.range 16).all fun k => lineState s (lineOf (e.addr p c (1024 * g + 64 * k))) = some .valid

/-- Open what is not complete in page `i` of a layer, and seal what has become complete; a seal that stands is not formed anew
(R208). -/
def reseal (p : Partition) (c : Cache) (r : LayerRec) (held i : Nat) (s : State) : State :=
  let e := nth r.pages i PageEntry.none
  if e.root then s
  else
    let s := openPartial c e held i s
    let old := (findUnit s (e.loc / 1024)).seals
    let new := ((List.range (c.page / 1024)).filter fun g =>
      granuleFull c held i g && granuleRead s p c e g && !(old.any fun x => x.1 = e.loc % 1024 + g)).map fun g =>
        (e.loc % 1024 + g, sealOf s p c e g)
    updUnit (e.loc / 1024) (fun u => { u with seals := u.seals ++ new }) s

def resealFrom (p : Partition) (c : Cache) (r : LayerRec) (held first : Nat) (s : State) : State :=
  (List.range (r.pages.length - first)).foldl (fun s j => reseal p c r held (first + j) s) s

/-- Open every granule of a page (R217). -/
def openPage (c : Cache) (root : Bool) (loc : Nat) (s : State) : State :=
  if root then s
  else updUnit (loc / 1024) (fun u => { u with
    seals := u.seals.filter fun x => !(decide (loc % 1024 ≤ x.1) && decide (x.1 < loc % 1024 + c.page / 1024)) }) s

/-- STATE of a page-table entry: 3 LOST, 2 MOVING, 1 SEALED, 0 OPEN. -/
def pageState (s : State) (p : Partition) (c : Cache) (held i : Nat) (e : PageEntry) : Nat :=
  if (e.lines p c).any (fun l => lineState s l = some .lost) then 3
  else if e.moving.isSome then 2
  else if e.root then (if (i + 1) * c.pp ≤ held then 1 else 0)
  else
    let seals := (findUnit s (e.loc / 1024)).seals
    if (List.range (c.page / 1024)).all fun g => seals.any fun x => x.1 = e.loc % 1024 + g then 1 else 0

/-- The 8 bytes of a page-table entry. -/
def entryBytes (s : State) (p : Partition) (c : Cache) (r : LayerRec) (held i : Nat) : List Byte :=
  let e := nth r.pages i PageEntry.none
  toLE 8 (1 + (if e.root then 2 else 0) + 4 * pageState s p c held i e + 2 ^ 8 * e.loc
    + 2 ^ 40 * entryMax s p c r true held i + 2 ^ 48 * entryMax s p c r false held i)

/-! ### Allocation (R232) -/

/-- Places in use by a cache, copies in progress included. -/
def Cache.used (c : Cache) : List (Bool × Nat) :=
  c.layers.flatMap fun r => r.pages.flatMap fun e => (e.root, e.loc) :: e.moving.toList

/-- Units of the channels of POOL, ascending, those of withdrawn layers left out (R39). -/
def poolUnits (s : State) (p : Partition) (c : Cache) : List Nat :=
  match p.region c.pool with
  | none => []
  | some r =>
    (List.range r.lcount).flatMap fun i =>
      let l := r.lfirst + i
      if layerState s (l - 14) = 3 then []
      else sortBy (· ≤ ·) ((List.range (r.ccount / 16)).map fun j =>
        65536 * (l - 16) + partColumn (tractsOf r.tracts) (r.cfirst + 16 * j) / 16)

/-- A clearing place with bytes in a column whose channel is not in normal service: its pages leave, and no page comes (R36, R41). -/
def badPlace (s : State) (c : Cache) (l : Nat) : Bool :=
  let first := 16 * (l / 1024 % 65536) + l % 1024 / 64
  s.channels.any fun k => decide (first ≤ k.core) && decide (k.core < first + max 1 (c.page / 65536))

/-- Free places of a unit's channel, ascending. -/
def freeIn (s : State) (c : Cache) (used : List (Bool × Nat)) (u : Nat) : List Nat :=
  ((List.range (2 ^ 20 / c.page)).map fun k => 1024 * u + k * (c.page / 1024)).filter fun l =>
    !used.contains (false, l) && !badPlace s c l

/-- Free places of SPILLREG, ascending. -/
def freeRoot (p : Partition) (c : Cache) (used : List (Bool × Nat)) : List Nat :=
  match c.spillreg.bind p.region with
  | none => []
  | some r => ((List.range (r.size / c.page)).map fun k => k * (c.page / 1024)).filter fun l => !used.contains (true, l)

def freePool (s : State) (p : Partition) (c : Cache) : List Nat := (poolUnits s p c).flatMap (freeIn s c c.used)

/-- The free clearing page that R232 chooses for a sequence, among some units. -/
def choosePage (s : State) (c : Cache) (units : List Nat) (seq : Nat) : Option Nat :=
  let used := c.used
  let mine : Nat → Nat := fun u => ((c.layers.filter fun r => r.seq = seq).flatMap fun r =>
    r.pages.filter fun e => !e.root && e.loc / 1024 = u).length
  let cands := (units.map fun u => (u, mine u, freeIn s c used u)).filter fun x => !x.2.2.isEmpty
  let best := cands.foldl (fun (b : Option (Nat × Nat × List Nat)) x =>
    match b with
    | none => some x
    | some y => if x.2.1 < y.2.1 ∨ (x.2.1 = y.2.1 ∧ y.2.2.length < x.2.2.length) then some x else some y) none
  match best with
  | some (_, _, l :: _) => some l
  | _ => none

/-- A new page: from POOL, else from SPILLREG where that is allowed (R241, R245). -/
def newPage (s : State) (p : Partition) (c : Cache) (seq : Nat) (spill : Bool) : Option (Bool × Nat) :=
  match choosePage s c (poolUnits s p c) seq with
  | some l => some (false, l)
  | none => if spill then (freeRoot p c c.used).head?.map fun l => (true, l) else none

/-- Page-table entries of the device, of which there are 134,217,728 (R235). -/
def entriesUsed (s : State) : Nat :=
  (s.partitions.map fun p => (p.caches.map fun c => (c.layers.map fun r => r.pages.length).sum).sum).sum

/-- Attach a page: its slack is written as zero (R229). -/
def attachPage (part : BitVec 4) (h : U32) (seq layer : Nat) (s : State) : State :=
  match findPart s part with
  | none => s
  | some p =>
    match p.cache h with
    | none => s
    | some c =>
      match newPage s p c seq c.spill with
      | none => s
      | some (root, loc) =>
        let e : PageEntry := ⟨root, loc, none, false⟩
        let used := c.perPage * c.unitBytes
        let r := c.layerRec seq layer
        updCache part h (fun c => c.putLayer { r with pages := r.pages ++ [e] })
          (writeCells p.gen ((List.range (c.page - used)).map fun n => (e.addr p c (used + n), 0)) s)

/-- Free a page: its lines become free and its granules open. -/
def freePage (p : Partition) (c : Cache) (root : Bool) (loc : Nat) (s : State) : State :=
  let ls := (PageEntry.mk root loc none false).lines p c
  openPage c root loc (freeLines (fun l => ls.contains l) s)

def freePages (p : Partition) (c : Cache) (l : List (Bool × Nat)) (s : State) : State :=
  l.foldl (fun s x => freePage p c x.1 x.2 s) s

/-- The places of the entries from index `n` on, copies in progress included. -/
def LayerRec.beyond (r : LayerRec) (n : Nat) : List (Bool × Nat) :=
  (r.pages.drop n).flatMap fun e => (e.root, e.loc) :: e.moving.toList

/-! ### Tail staging (R240) -/

/-- A staged block of zeros: head, position, element. -/
def stagingZero (c : Cache) : List (BitVec 16) := List.replicate (c.hl * 32 * c.d) 0

def stagingGet (c : Cache) (st : List (BitVec 16)) (h i d : Nat) : BitVec 16 := nth st ((h * 32 + i) * c.d + d) 0

/-- A staged block from its entries. -/
def stagingOf (c : Cache) (f : Nat → Nat → Nat → BitVec 16) : List (BitVec 16) :=
  (List.range c.hl).flatMap fun h => (List.range 32).flatMap fun i => (List.range c.d).map fun d => f h i d

def bf16Of (v : Num) : BitVec 16 := BitVec.ofNat 16 (toBinary .bf16 v).1

/-- The staging after a cut from `old` held positions to `new`: the retained positions of the open block, reloaded
from the CB8 block when that block was full. -/
def cutStaging (s : State) (p : Partition) (c : Cache) (r : LayerRec) (old new : Nat) : List (BitVec 16) :=
  if c.bf16 then []
  else if new % 32 = 0 then stagingZero c
  else if new / 32 = old / 32 then
    stagingOf c fun h i d => if i < new % 32 then stagingGet c r.staging h i d else 0
  else stagingOf c fun h i d => if i < new % 32 then bf16Of (valNum s p c r (new / 32 * 32 + i) h d) else 0

/-! ### Writing a position (R125, R230) -/

/-- Cells of one position's key at ordinal q: element source by head and index. -/
def keyCells (p : Partition) (c : Cache) (r : LayerRec) (q : Nat) (src : Nat → Nat → Num) : List Host.Cell :=
  (List.range c.hl).flatMap fun h =>
    if c.bf16 then
      (List.range c.d).flatMap fun d =>
        let a := cacheAddr p c r q (c.keyOff h 0 d)
        cellsAt [a, a + 1] (toLE 2 (bf16Of (src h d)).toNat)
    else
      (List.range (c.d / 32)).flatMap fun k =>
        let b := toBlock .cb8 ((List.range 32).map fun j => src h (32 * k + j))
        (cacheAddr p c r q (c.keyScaleOff h (q % 32) k), BitVec.ofNat 8 b.1) ::
          ((List.range 32).map fun j => cacheAddr p c r q (c.keyOff h (q % 32) (32 * k + j))).zip
            (b.2.1.map (BitVec.ofNat 8))

/-- Cells of one position's value in a bfloat16 cache. -/
def valCells (p : Partition) (c : Cache) (r : LayerRec) (q : Nat) (src : Nat → Nat → Num) : List Host.Cell :=
  (List.range c.hl).flatMap fun h => (List.range c.d).flatMap fun d =>
    let a := cacheAddr p c r q (c.valOff h 0 d)
    cellsAt [a, a + 1] (toLE 2 (bf16Of (src h d)).toNat)

/-- Cells of the CB8 value block that holds ordinal q, converted whole from the staging (R125). -/
def blockCells (p : Partition) (c : Cache) (r : LayerRec) (q : Nat) (st : List (BitVec 16)) : List Host.Cell :=
  (List.range c.hl).flatMap fun h => (List.range c.d).flatMap fun d =>
    let b := toBlock .cb8 ((List.range 32).map fun i => Fmt.bf16.value (stagingGet c st h i d).toNat)
    (cacheAddr p c r q (c.valScaleOff h d), BitVec.ofNat 8 b.1) ::
      ((List.range 32).map fun i => cacheAddr p c r q (c.valOff h i d)).zip (b.2.1.map (BitVec.ofNat 8))

/-! ### Truncation (R239) -/

/-- A maximum after a truncation: over the present blocks of every member of the group (R235). What the other members hold is not
known here, so on a spanning cache it is a free value from this member's own maximum to the one before (assumption 104). -/
def cutMax (s : State) (c : Cache) (old own : Int) (k : Nat) : Int :=
  if c.group.isNone || old ≤ own then own else own + Config.freeNat s.draw k % ((old - own).toNat + 1)

/-- Set a layer's length to `len` where it exceeds it; the places of the pages freed. -/
def truncateLayer (part : BitVec 4) (h : U32) (seq layer len : Nat) (keepPages : Bool) (s : State) : State :=
  match findPart s part with
  | none => s
  | some p =>
    match p.cache h with
    | none => s
    | some c =>
      let r := c.layerRec seq layer
      if r.length ≤ len then s
      else
        let x := c.spread s part
        let n := ceilDiv (x.held len) c.pp
        let r' : LayerRec := { r with
          length := len
          staging := cutStaging s p c r (x.held r.length) (x.held len)
          pages := if keepPages then r.pages else r.pages.take n }
        let s := if keepPages then s else freePages p c (r.beyond n) s
        -- a block always equals the conversion of the positions present (R125)
        let s := if c.bf16 || x.held len % 32 = 0 then s
          else writeCells p.gen (blockCells p c r' (x.held len - 1) r'.staging) s
        let r' := { r' with
          kmax := cutMax s c r.kmax (ownMax s p c r' true (x.held len) len) 0
          vmax := cutMax s c r.vmax (ownMax s p c r' false (x.held len) len) 1 }
        resealFrom p c r' (x.held len) (x.held len / c.pp)
          (updCache part h (fun c => c.putLayer r') { s with draw := s.draw + 1 })

/-- Free every page of a sequence and drop its layer records (R239). -/
def releaseSeq (part : BitVec 4) (h : U32) (seq : Nat) (s : State) : State :=
  match findPart s part with
  | none => s
  | some p =>
    match p.cache h with
    | none => s
    | some c =>
      let mine := c.layers.filter fun r => r.seq = seq
      updCache part h (fun c => { c with
          seqs := c.seqs.filter fun q => q.seq ≠ seq
          layers := c.layers.filter fun r => r.seq ≠ seq })
        (freePages p c (mine.flatMap fun r => r.beyond 0) s)

/-! ### The state a replay restores (R125, R242) -/

/-- A layer as it was: length, maxima and staging from before, its pages those it had, with their present moves. -/
def restoreLayer (before : Cache) (now : LayerRec) : LayerRec :=
  let old := before.layerRec now.seq now.layer
  { old with pages := now.pages.take old.pages.length }

/-- Keep the lines of a layer's pages from index `first` on as they are, those kept already apart, before an overwrite changes or
opens them. -/
def keepLines (p : Partition) (c : Cache) (r : LayerRec) (first : Nat) (s : State) : State :=
  match (p.context c.ctx.toNat).step with
  | none => s
  | some st =>
    let new := (r.pages.drop first).flatMap fun e => (List.range (c.page / 64)).filterMap fun k =>
      let l := lineOf (e.addr p c (64 * k))
      if lineState s l ≠ some .valid || st.overwritten.any fun x => x.1 = l then none
      else
        let mark := if e.root then none
          else ((findUnit s (e.loc / 1024)).seals.find? fun x => x.1 = e.loc % 1024 + k / 16).map (·.2)
        some (l, readAt s ((List.range 64).map fun i => 64 * l + i), mark)
    updCtx p.num c.ctx.toNat (fun k => { k with
      step := k.step.map fun st => { st with overwritten := st.overwritten ++ new } }) s

/-- The granule of a clearing line: unit and number (R206). -/
def granuleOfLine (l : Nat) : Nat × Nat :=
  (65536 * (lineLayer l - 16) + lineCore l / 16, 64 * (lineCore l % 16) + lineIndex l / 16)

/-- An overwritten line returns to what it held, with its granule's seal; one that has been lost since stays lost. -/
def putBack (s : State) (x : Nat × List Byte × Option U32) : State :=
  if lineState s x.1 ≠ some .valid then s
  else
    let s := putCells (((List.range 64).map fun i => 64 * x.1 + i).zip x.2.1) s
    match x.2.2 with
    | none => s
    | some v =>
      let g := granuleOfLine x.1
      updUnit g.1 (fun u => { u with seals := (u.seals.filter fun y => y.1 ≠ g.2) ++ [(g.2, v)] }) s

/-- Return the caches of a context to their state before the step (R242): pages attached since are freed, lengths, maxima and staging
are as they were, and every granule that holds a position at or above a restored length is open. What overwrites changed is put back,
so that the caches are exactly as the step found them (R125). -/
def restoreCaches (part : BitVec 4) (ctx : Nat) (s : State) : State :=
  match findPart s part with
  | none => s
  | some p =>
    match (p.context ctx).step with
    | none => s
    | some st =>
      let now := p.caches.filter fun c => st.before.any fun b => b.handle = c.handle
      let old : Cache → Cache := fun c => (st.before.find? fun b => b.handle = c.handle).getD c
      let s := now.foldl (fun s c => freePages p c (c.layers.flatMap fun r =>
        r.beyond ((old c).layerRec r.seq r.layer).pages.length) s) s
      let s := now.foldl (fun s c =>
        let c' := { c with layers := c.layers.map (restoreLayer (old c)) }
        c'.layers.foldl (fun s r =>
          let held := (c'.spread s part).held r.length
          r.pages.zipIdx.foldl (fun s e => openPartial c' e.1 held e.2 s) s)
          (updCache part c.handle (fun _ => c') s)) s
      st.overwritten.foldl putBack s

end Sys2Proof.Machine
end

