-- ==== Sys2Proof/Machine/Steps.lean ====
section
/-! DEFINITION. Steps: holding, release and batching (R161 to R167), start, replay and completion
(R159, R162, R163, R168), cancellation (R164), contexts (R170 to R172), and lost data (R197, R401, R407). -/
namespace Sys2Proof.Machine

/-! ### Where steps are -/

/-- A submission somewhere in the machine, and whether it has been released. -/
structure Found where
  part : BitVec 4
  ctx : Nat
  held : Held
  released : Bool

/-- Held steps of a context, eligible or not. -/
def Context.heldSteps (c : Context) : List Held := (c.sets.flatMap (·.steps)) ++ c.ineligible

/-- Released steps of a context, the running one first. -/
def Context.releasedSteps (c : Context) : List Held :=
  (match c.step with | some r => r.batch.steps | none => []) ++ c.released.flatMap (·.steps)

/-- Every submission not yet completed. -/
def allSteps (s : State) : List Found :=
  s.partitions.flatMap fun p => p.contexts.zipIdx.flatMap fun c =>
    (c.1.heldSteps.map fun h => ⟨p.num, c.2, h, false⟩) ++ (c.1.releasedSteps.map fun h => ⟨p.num, c.2, h, true⟩)

/-- Whether a context holds released work: a batch that waits or a step within. -/
def Context.working (c : Context) : Bool := c.step.isSome || !c.released.isEmpty

/-! ### Release (R13, R165 to R167, R170, R173) -/

/-- A step of a context without a save area is released only while no other context has released work. -/
def mayRelease (p : Partition) (ctx : Nat) : Bool :=
  (p.context ctx).saveSize ≠ 0 || (p.contexts.zipIdx.all fun c => c.2 = ctx || !c.1.working)

/-- Release steps as one batch; those whose CFGVER no longer matches leave it (R173). -/
def release (part : BitVec 4) (ctx : Nat) (plan : U32) (steps : List Held) (late : Bool) (s : State) : State :=
  let good : Held → Bool := fun h => h.cfgver = 0 || h.cfgver = cfgVersion s
  let run := steps.filter good
  let s := (steps.filter fun h => !good h).foldl (fun s h => finish h.origin stConfig 0 [] s) s
  let rule : Nat × Nat := match findPart s part with | some p => (p.divMode, p.bsplit) | none => (0, 16)
  if run.isEmpty then s
  else updCtx part ctx (fun c => { c with released := c.released ++ [⟨plan, run, late, rule.1, rule.2⟩] }) s

/-- Release the first due set of a context, if any, and if it may be released. -/
def pumpSet (part : BitVec 4) (ctx : Nat) (s : State) : State :=
  match findPart s part with
  | none => s
  | some p =>
    let c := p.context ctx
    match c.sets.find? fun b => b.due.isSome with
    | none => s
    | some b =>
      if mayRelease p ctx then
        release part ctx b.plan b.steps (b.due.getD false)
          (updCtx part ctx (fun c => { c with sets := c.sets.erase b }) s)
      else s

/-- Release the first eligible step of a plan that is not BATCHED. -/
def pumpSingle (part : BitVec 4) (ctx : Nat) (s : State) : State :=
  match findPart s part with
  | none => s
  | some p =>
    match (p.context ctx).ineligible.find? fun h => !h.fence with
    | none => s
    | some h =>
      if mayRelease p ctx then
        release part ctx h.plan [h] false
          (updCtx part ctx (fun c => { c with ineligible := c.ineligible.erase h }) s)
      else s

/-- Release everything that is due in a context. -/
def pumpCtx (part : BitVec 4) (ctx : Nat) (s : State) : State :=
  match findPart s part with
  | none => s
  | some p =>
    let c := p.context ctx
    let s := Nat.repeat (pumpSet part ctx) c.sets.length s
    Nat.repeat (pumpSingle part ctx) c.ineligible.length s

/-- Release everything that is due. -/
def pump (s : State) : State :=
  (s.partitions.map (·.num)).foldl (fun s n => (List.range 8).foldl (fun s c => pumpCtx n c s) s) s

/-- Add a step to the open set of its plan, in fetch order; the set is due when it reaches the fill target. -/
def addToSets (fill : Nat) (h : Held) : List BatchSet → List BatchSet
  | [] => [⟨h.plan, [h], if fill ≤ 1 then some false else none⟩]
  | b :: bs =>
    if b.plan = h.plan ∧ b.due = none then
      let steps := sortBy (fun x y => x.order ≤ y.order) (b.steps ++ [h])
      ⟨b.plan, steps, if fill ≤ steps.length then some false else none⟩ :: bs
    else b :: addToSets fill h bs

/-- A step becomes eligible: held for batching, or to be released at once (R13, R162, R166). -/
def makeEligible (part : BitVec 4) (ctx : Nat) (h : Held) (s : State) : State :=
  match (findPart s part).bind fun p => p.plan h.plan with
  | none => s
  | some q =>
    pump (updCtx part ctx (fun c =>
      if q.batched then
        if q.unloading.isSome ∨ q.wait = 0 then
          { c with sets := c.sets ++ [⟨h.plan, [h], some (decide (q.unloading.isSome ∨ q.fill ≠ 1))⟩] }
        else { c with sets := addToSets q.fill h c.sets }
      else { c with ineligible := c.ineligible ++ [{ h with fence := false }] }) s)

/-- Release the held sets of a plan in one context as late (R160, R167). -/
def releaseLate (part : BitVec 4) (ctx : Nat) (plan : U32) (s : State) : State :=
  pump (updCtx part ctx (fun c => { c with
    sets := updWhere (fun b => b.plan = plan && b.due = none) (fun b => { b with due := some true }) c.sets }) s)

/-- Release the sets of a plan that meet a fill target (R166). -/
def releaseFilled (part : BitVec 4) (plan : U32) (fill wait : Nat) (s : State) : State :=
  pump (updPart part (fun p => { p with contexts := p.contexts.map fun c => { c with
    sets := updWhere (fun b => b.plan = plan && b.due = none && (decide (fill ≤ b.steps.length) || wait = 0))
      (fun b => { b with due := some (decide (b.steps.length < fill)) }) c.sets } }) s)

/-! ### Cancellation (R164, R321) -/

/-- Detail bit 31: CANCELLED. -/
def detailCancelled : U32 := 0x80000000

def Held.is (o : Origin) (h : Held) : Bool := h.origin = o

/-- Remove a held step and complete it as cancelled: the one submission, told apart by its place in fetch order. -/
def cancelHeld (h : Held) (s : State) : State :=
  let drop : Context → Context := fun c => { c with
    sets := ((c.sets.map fun b => { b with steps := b.steps.filter fun x => x ≠ h }).filter fun b => !b.steps.isEmpty)
    ineligible := c.ineligible.filter fun x => x ≠ h }
  finish h.origin stOk detailCancelled []
    { s with partitions := s.partitions.map fun p => { p with contexts := p.contexts.map drop } }

/-- Cancel every held and not yet eligible step of a pair, in fetch order. -/
def cancelQueue (qp : BitVec 6) (s : State) : State :=
  let mine := (allSteps s).filter fun f => !f.released && f.held.origin.qp = qp
  (sortBy (fun x y => x.held.order ≤ y.held.order) mine).foldl (fun s f => cancelHeld f.held s) s

/-- STEP_CANCEL's result for a tag of a pair: the earlier submission decides (R164, R324). -/
def cancelTag (o : Origin) (s : State) : Nat × State :=
  match sortBy (fun x y => x.held.order ≤ y.held.order) ((allSteps s).filter fun f => f.held.is o) with
  | [] => (2, s)
  | f :: _ => if f.released then (1, s) else (0, cancelHeld f.held s)

/-! ### Bindings (R155) -/

/-- Fill the IN bindings of a batch. -/
def fillBindings (p : Partition) (q : Plan) (steps : List Held) (s : State) : State :=
  writeCells p.gen ((q.binds.filter fun b => b.dir = 0).flatMap fun b =>
    let a := nth q.index b.index IndexArr.none
    steps.zipIdx.flatMap fun x => (List.range b.elem).flatMap fun i =>
      cellsAt (a.entryAddrs (b.elem * x.2 + i)) (toLE a.width (nth x.1.words (b.word + i) 0).toNat)) s

/-- Result words of a slot: the OUT bindings in order of binding index. -/
def outWords (s : State) (q : Plan) (slot : Nat) : List Byte :=
  let ws := (q.binds.filter fun b => b.dir = 1).foldl (fun (ws : List Nat) b =>
    let a := nth q.index b.index IndexArr.none
    (List.range b.elem).foldl (fun ws i => setAt ws (b.word + i) fun _ => indexGet s a (b.elem * slot + i)) ws) [0, 0]
  ws.flatMap (toLE 8)

/-! ### Running a step -/

/-- The step of a context. -/
def stepOf (s : State) (part : BitVec 4) (ctx : Nat) : Option RunningStep :=
  (findPart s part).bind fun p => (p.context ctx).step

/-- A batch about to run, its caches' state kept for a replay (R159). -/
def RunningStep.start (p : Partition) (ctx : Nat) (b : Batch) : RunningStep :=
  { batch := b, done := [], before := p.caches.filter fun c => c.ctx.toNat = ctx, overwritten := [], lost := none, noResource := false, replays := 0, notes := [], groupOps := [], healthDone := [], maxGiven := [] }

/-- The same step from its first operator (R159). -/
def RunningStep.again (r : RunningStep) : RunningStep :=
  { r with done := [], lost := none, noResource := false, replays := r.replays + 1, notes := [],
           groupOps := [], overwritten := [] }

/-- The groves' stores and accumulators hold nothing at the start of a step (R151, R172). -/
def freshGroves (p : Partition) (s : State) : State :=
  { s with groves := updWhere (fun g => hasTract p.tracts (tractOfCore (256 * g.num))) (fun g => { g with
      store := []
      cores := g.cores.map fun c => { c with accs := [] } }) s.groves }

def freshPart (part : BitVec 4) (s : State) : State :=
  match findPart s part with
  | some p => freshGroves p s
  | none => s

/-- Set lines lost and record them (R197, R411). -/
def loseLines (requester : Nat) (part : Option (BitVec 4)) (ls : List Nat) (s : State) : State :=
  ls.foldl (fun s l => recordUncorr (l * 64) requester 2 part (loseLine (genAt s (l * 64)) l s)) s

/-- The record that first reported a line uncorrectable (R411). -/
def causeOf (s : State) (l : Nat) : Option Nat :=
  (s.recorder.records.find? fun r =>
    fld r.2 1 1 = 0x0B && fld r.2 2 1 = 0x14 && fld r.2 16 8 = l * 64).map (·.1)

/-- Replay the step of a context; after 8 replays in succession it completes with LOST_DATA, SOURCE 4, and the lines on
which its attempts failed are set lost (R401). -/
def replayStep (part : BitVec 4) (ctx : Nat) (op : Nat) (ls : List Nat) (s : State) : State :=
  match stepOf s part ctx with
  | none => s
  | some r =>
    if 8 ≤ r.replays then
      updCtx part ctx (fun c => { c with
          step := c.step.map fun r => { r with lost := some (4, op, (ls.headD 0) * 64, ls.length) } })
        (ls.foldl (fun s l =>
          let s := if stateOf s.tags l = some .lost then s
            else updLayer (physLayer s (lineLayer l) (lineCore l) (lineIndex l)) (fun r => { r with lostLines := r.lostLines + 1 }) s
          loseLine (genAt s (l * 64)) l s) s)
    else
      recordRecovery 4 0 (causeOf s (ls.headD 0)) (some part)
        (updCtx part ctx (fun c => { c with step := c.step.map RunningStep.again, saved := [] })
          (freshPart part (restoreCaches part ctx s)))

/-- Replay every step that runs in a partition (R401, R402). -/
def replayPart (part : BitVec 4) (s : State) : State :=
  (List.range 8).foldl (fun s c => replayStep part c 0xFFFFF [] s) s

/-- Two operators share a grove. -/
def placesMeet (q : Plan) (a b : List Byte) : Bool :=
  shareGrove (nth q.place (opPlace a) (0, 0)) (nth q.place (opPlace b) (0, 0))

/-- Operators completed whose edges are satisfied: a group operation once its release has arrived (R297). -/
def settledOps (s : State) (part : BitVec 4) (r : RunningStep) : List Nat :=
  r.done.filter fun i => r.groupOps.all fun x => x.1 ≠ i ||
    (match findGroup s part x.2.1 with
     | some g => g.members.length ≤ 1 || g.releases.contains x.2.2
     | none => true)

/-- Whether every edge into an operator is satisfied by the operators given. -/
def edgesMet (q : Plan) (settled : List Nat) (i : Nat) : Bool :=
  q.edges.all fun e => e.2 ≠ i || settled.contains e.1

/-- ATTN_CLEARING runs on the near-bank units, beside the canopy: of two operators of which one runs there, neither waits for the
other's groves (R15). -/
def onUnitsBeside (a b : List Byte) : Bool := (opCode a = 0x21) != (opCode b = 0x21)

/-- An operator may start: edges met, and no ready operator of lower index shares a grove with it (R15, R168). -/
def opReady (q : Plan) (done settled : List Nat) (i : Nat) : Bool :=
  decide (i < q.ops.length) && !done.contains i && edgesMet q settled i &&
    (List.range i).all fun j => done.contains j || !edgesMet q settled j
      || !placesMeet q (nth q.ops j []) (nth q.ops i []) || onUnitsBeside (nth q.ops j []) (nth q.ops i [])

/-- Whether the block runs work at all: READY, in service, not in reset (R408, R421). -/
def running (s : State) : Bool := alive s && s.start.ready && !s.start.oos && !s.start.inReset

/-- A recomputation holds the partition's step: it has been abandoned and is replayed afterwards (R217, R401). -/
def Partition.regenerating (p : Partition) : Bool :=
  match p.acting with
  | some ⟨.recompute _ _ _ _, _, _⟩ => true
  | _ => false

/-- The environment of an operator of the partition's running step that may start now and has the code given. DESIGN CHOICE
(assumption 113): the tag that its records carry is that of the entry in slot 0, also in a batched step, which has several (R69, R411). -/
def opEnv (s : State) (part : BitVec 4) (code : Nat) (op : Nat) : Option Env :=
  match findPart s part with
  | none => none
  | some p =>
    match (p.context p.current.toNat).step with
    | none => none
    | some r =>
      match p.plan r.batch.plan with
      | none => none
      | some q =>
        let raw := nth q.ops op []
        if running s && !p.scrubbing && p.switching.isNone && !p.stranded && !p.regenerating && r.lost.isNone && !r.noResource
            && opReady q r.done (settledOps s part r) op && opCode raw = code then
          some { part := part, ctx := p.current.toNat, handle := q.handle, op := op, raw := raw,
                 batch := if q.batched then some r.batch.steps.length else none,
                 tag := match r.batch.steps with | h :: _ => h.origin.tag | [] => 0 }
        else none

/-- Operators none of whose work touches a grove's store or vector stage (R114): copies by skid channels or over the fabric alone. -/
def offGroves (c : Nat) : Bool := c = 0x30 || c = 0x82 || c = 0x83 || c = 0x84

/-- A grove's counters after its part in an operator (R106). Bubbles, retried requests and cycles of the vector stage are a matter of
time: each rise is a free value, where the operator uses the feeders, the store or the vector stage at all. The passes and replayed
entries of a matrix product have been counted as they were issued; of the other operators of the lattices, whose lowering is the
device's own (R132), they are free too. -/
def LatticeCtr.bump (code draw : Nat) (c : LatticeCtr) : LatticeCtr :=
  let f := fun (k : Nat) => BitVec.ofNat 64 (Config.freeNat draw (8 * c.grove + k))
  let lattice := onLattice code
  let own := lattice && !isGemm code
  { c with
    passes := if own then c.passes + f 0 else c.passes
    bubbles := if lattice then c.bubbles + f 1 else c.bubbles
    retries := if offGroves code then c.retries else c.retries + f 2
    vector := if offGroves code then c.vector else c.vector + f 3
    replayed := if own then c.replayed + f 4 else c.replayed }

/-- Counters of the groves at work on an operator. -/
def Env.countGroves (e : Env) (s : State) : State :=
  (e.workers s).foldl (fun s g => updLattice g (LatticeCtr.bump (opCode e.raw) s.draw) s) s

/-- Operators whose sums the vector stages form (R114, R115). -/
def sumsInLanes (raw : List Byte) : Bool :=
  !noReduction raw && (!onLattice (opCode raw) || [0x20, 0x21, 0x120].contains (opCode raw))

/-- After an operator that sums, the sum registers of the lanes of its groves hold what the spec does not give, since it does not
say which lane takes which terms (R94): free values. -/
def Env.spendLanes (e : Env) (s : State) : State :=
  if sumsInLanes e.raw then
    (e.workers s).foldl (fun s g => updGrove g (fun x => { x with
      lanes := (List.range 64).map fun l => BitVec.ofNat 128 (Config.freeNat s.draw (2 ^ 24 + 64 * g + l)) }) s) s
  else s

/-- Mark an operator completed. -/
def Env.finishOp (e : Env) (s : State) : State :=
  let s := e.spendLanes (e.countGroves s)
  e.updStep (fun r => { r with done := r.done ++ [e.op] }) { s with draw := s.draw + 1 }

/-! ### Operands (R116, R184, R197, R407) -/

/-- Addresses an operator reads through its operand fields: planes, SEQMAX entries and index arrays. -/
def Env.reads (e : Env) (s : State) : List Nat :=
  let ts := (tensorsIn e.raw).flatMap fun i =>
    let t := e.tensor s i
    t.addrs (e.dims t) ++ (if t.batched then
      (List.range (nth (e.dims t) t.seqDim 1)).flatMap (seqMaxAddrs s t) else [])
  ts ++ (indexIn e.raw).flatMap fun i => (e.index s i).addrs

/-- Lines of tensors that an operator of this step has already written. -/
def Env.rewritable (e : Env) (s : State) (r : RunningStep) : List Nat :=
  let q := e.plan s
  (r.done.flatMap fun i => tensorsOut (nth q.ops i [])).flatMap fun i =>
    let t := e.tensor s i
    ((t.addrs (e.dims t)).map lineOf).eraseDups

/-! ### The end of a step (R163, R407, R411) -/

/-- Write a step's notes: FREE_READ, and STEP_NOTE for the rest. -/
def writeNotes (part : BitVec 4) (r : RunningStep) (s : State) : State :=
  let tag := match r.batch.steps with | h :: _ => h.origin.tag.toNat | [] => 0
  r.notes.foldl (fun s n =>
    if n.kind = noteFree then record 0x0B 0x15 0 (some part) (toLE 2 n.op ++ zeros 2 ++ toLE 4 n.count) s
    else record 0x04 0x50 0 (some part) (toLE 4 tag ++ toLE 2 n.op ++ toLE 1 n.kind ++ zeros 1 ++ toLE 8 n.count) s) s

/-- Pages that an overwrite left without positions are freed when the step completes (R125). -/
def trimCaches (part : BitVec 4) (ctx : Nat) (s : State) : State :=
  match findPart s part with
  | none => s
  | some p =>
    (p.caches.filter fun c => c.ctx.toNat = ctx).foldl (fun s c =>
      c.layers.foldl (fun s r =>
        let n := ceilDiv ((c.spread s part).held r.length) c.pp
        if r.pages.length ≤ n then s
        else updCache part c.handle (fun c => c.putLayer { r with pages := r.pages.take n })
          (freePages p c (r.beyond n) s)) s) s

/-- The bytes of the step's output tensors become unspecified (R407). -/
def spoilOutputs (part : BitVec 4) (q : Plan) (batch : Option Nat) (s : State) : State :=
  let gen := match findPart s part with | some p => p.gen | none => false
  let as := ((q.ops.flatMap tensorsOut).eraseDups.flatMap fun i =>
    let t := nth q.tensors i Tensor.none
    t.addrs (t.dims batch)).filter fun a => lineState s (lineOf a) = some .valid
  { writeCells gen (as.zipIdx.map fun x => (x.1, Config.freeByte s.draw x.2)) s with draw := s.draw + 1 }

/-- Whether the step of a context has come to its end. -/
def stepEnded (q : Plan) (r : RunningStep) : Bool :=
  r.lost.isSome || r.noResource || decide (q.ops.length ≤ r.done.length)

/-- Post the completions of a step, in ascending slot order (R163). -/
def postStep (s : State) (q : Plan) (r : RunningStep) (s' : State) : State :=
  let b := r.batch.steps.length
  r.batch.steps.zipIdx.foldl (fun s' x =>
    match r.lost with
    | some (src, op, addr, n) => let e := lostData src op addr n; finish x.1.origin e.status e.detail e.result s'
    | none =>
      if r.noResource then finish x.1.origin stNoResource 0 [] s'
      else finish x.1.origin stOk
        (BitVec.ofNat 32 (b + 2 ^ 16 * x.2 + (if r.batch.late then 2 ^ 30 else 0))) (outWords s q x.2) s') s'

/-- End the step of a context: caches restored or trimmed, notes recorded, completions posted. -/
def endStep (part : BitVec 4) (ctx : Nat) (s : State) : State :=
  match findPart s part with
  | none => s
  | some p =>
    match (p.context ctx).step with
    | none => s
    | some r =>
      let q := (p.plan r.batch.plan).getD Plan.none
      let bad := r.lost.isSome || r.noResource
      let s1 := if bad then restoreCaches part ctx s else trimCaches part ctx s
      let s2 := if r.lost.isSome then
        spoilOutputs part q (if q.batched then some r.batch.steps.length else none) s1 else s1
      let s3 := updCtx part ctx (fun c => { c with step := none }) (writeNotes part r s2)
      postStep s q r s3

/-! ### Contexts (R171, R172) -/

/-- A droop stretch is in progress in one of the partition's plots (R171, R343). -/
def drooping (s : State) (p : Partition) : Bool :=
  s.power.stretched.any fun plot => hasTract p.tracts (plot / 16)

/-- The context to switch to: among the others with released work, the one with the least running time for its weight,
lowest number first. -/
def nextContext (p : Partition) : Option Nat :=
  let cs := (p.contexts.zipIdx.filter fun c => c.2 ≠ p.current.toNat && c.1.working)
  (cs.foldl (fun (b : Option (Context × Nat)) c =>
    match b with
    | none => some c
    | some y => if c.1.served * y.1.weight < y.1.served * c.1.weight then some c else some y) none).map (·.2)

/-- Begin a switch of contexts, where one is due at a step boundary. -/
def considerSwitch (part : BitVec 4) (s : State) : State :=
  match findPart s part with
  | none => s
  | some p =>
    let c := p.context p.current.toNat
    if p.switching.isNone && c.step.isNone && (p.expired || c.released.isEmpty) && !drooping s p then
      match nextContext p with
      | some n => updPart part (fun p => { p with switching := some (BitVec.ofNat 3 n) }) s
      | none => s
    else s

/-- The next released batch of the running context starts. -/
def startStep (part : BitVec 4) (s : State) : State :=
  let s := considerSwitch part s
  match findPart s part with
  | none => s
  | some p =>
    let ctx := p.current.toNat
    let c := p.context ctx
    match c.step, c.released with
    | none, b :: bs =>
      if running s && !p.scrubbing && p.switching.isNone && !p.stranded && !p.regenerating then
        let q := (p.plan b.plan).getD Plan.none
        -- a new step: dropped packets of its groves are noted anew (R255)
        let s := { s with netNoted := s.netNoted.filter fun g => !hasTract p.tracts (tractOfCore (256 * g)) }
        updCtx part ctx (fun c => { c with released := bs, step := some (RunningStep.start p ctx b) })
          (fillBindings p q b.steps (freshGroves p s))
      else s
    | _, _ => s

/-- The groves of a partition. -/
def ownGroves (p : Partition) (s : State) : List Grove :=
  s.groves.filter fun g => hasTract p.tracts (tractOfCore (256 * g.num))

/-- Operand staging is discarded: its lines are fetched again (R107, R172). -/
def Grove.unstaged (g : Grove) : Grove := { g with cores := g.cores.map fun c => { c with staging := [] } }

/-- A context is switched out within a step (R172): core and grove stores, accumulators, feeder queues and backing banks of the
partition's groves go to the save area, whose layout is not given: its bytes are free values, and what they stand for is kept with
the context. The groves hold nothing of it any more. -/
def saveUnderstory (p : Partition) (ctx : Nat) (s : State) : State :=
  let c := p.context ctx
  let s := updCtx p.num ctx (fun c => { c with saved := ownGroves p s |>.map Grove.unstaged }) s
  let s := { s with groves := s.groves.filter fun g => !hasTract p.tracts (tractOfCore (256 * g.num)) }
  match regionAt s c.save with
  | some (_, r) =>
    match r.offset c.save with
    | some x =>
      { writeCells p.gen ((List.range c.saveSize).map fun i => (r.addr (x + i), Config.freeByte s.draw i)) s with
        draw := s.draw + 1 }
    | none => s
  | none => s

/-- The saved state of a context comes back when it is switched in. -/
def restoreUnderstory (p : Partition) (ctx : Nat) (s : State) : State :=
  let c := p.context ctx
  if c.saved.isEmpty then s
  else
    updCtx p.num ctx (fun c => { c with saved := [] })
      { s with groves := (s.groves.filter fun g => !hasTract p.tracts (tractOfCore (256 * g.num))) ++ c.saved }

end Sys2Proof.Machine
end

