-- ==== Sys2Proof/Machine/CmdPlans.lean ====
section
/-! DEFINITION. The commands of step plans and contexts (R156, R158, R160, R161, R164, R166, R170) and the events of the
scheduler (R162, R167, R171, R172). -/
namespace Sys2Proof.Machine

/-- Who is answered for a packet, its partition and context. -/
def pktOrigin (p : Packet) : Origin := ⟨p.qp, p.tag, false⟩
def pktPart (p : Packet) : BitVec 4 := p.part.setWidth 4
def pktCtx (p : Packet) : Nat := p.ctx.toNat
/-- Parameter fields. -/
def par (p : Packet) (off len : Nat) : Nat := fld p.inl off len
def par32 (p : Packet) (off : Nat) : U32 := fld32 p.inl off
/-- Flags of R322. -/
def pktExpert (p : Packet) : Bool := p.flags.getLsbD 0
def pktFence (p : Packet) : Bool := p.flags.getLsbD 1
def pktInline (p : Packet) : Bool := p.flags.getLsbD 2

/-! ### Plans -/

/-- PLAN_LOAD: copy the image; validation runs on. -/
def cmdPlanLoad (q : QueuePair) (p : Packet) (s : State) : Res :=
  let a := par p 0 8
  let n := par p 8 4
  if a % 64 ≠ 0 then fail stBadLength s
  else if 16777216 < n then fail stExceeds s
  else
    match takeBuffer s q p a n with
    | .error e => e.reply s
    | .ok img =>
      if fld img 8 4 ≠ n then fail stExceeds s
      else (.accepted, { s with loading := s.loading ++
        [⟨pktOrigin p, pktPart p, BitVec.ofNat 3 (pktCtx p), pktExpert p, img⟩] })

/-- Bytes of the plan images of every partition. -/
def imageBytes (s : State) : Nat := (s.partitions.map fun p => (p.plans.map fun q => q.image.length).sum).sum

/-- PLAN_VALIDATION_DONE: a handle, or the first failure. -/
def planValidated (o : Origin) (s : State) : State :=
  match s.loading.find? fun l => l.origin = o with
  | none => s
  | some l =>
    let s := { s with loading := s.loading.erase l }
    match findPart s l.part with
    | none => s
    | some p =>
      let h := freshHandle (s.partitions.flatMap fun p => p.plans.map (·.handle)) s
      let plan := parsePlan l.image l.ctx h
      match validate ⟨p, l.expert, plan, s.fabric.groups⟩ (imageBytes s) with
      | some f => finish o f.status f.detail [] s
      | none =>
        finish o stOk 0 (toLE 4 h.toNat)
          (updPart l.part (fun p => { p with plans := p.plans ++ [plan] }) { s with draw := s.draw + 1 })

/-- Whether a step of a plan is anywhere in its partition. -/
def planBusy (p : Partition) (h : U32) : Bool :=
  p.contexts.any fun c => c.heldSteps.any (fun x => x.plan = h) || c.releasedSteps.any (fun x => x.plan = h)

/-- PLAN_UNLOAD: held steps are released; the rest follows when the plan's steps have completed. -/
def cmdPlanUnload (_q : QueuePair) (p : Packet) (s : State) : Res :=
  let h := par32 p 0
  let n := pktPart p
  match (findPart s n).bind fun x => (x.plan h).map fun q => (x, q) with
  | none => fail stNotPermitted s
  | some (x, q) =>
    if q.unloading.isSome || x.caches.any (fun c => c.recomp = some h) then fail stNotPermitted s
    else
      let s := updPlan n h (fun q => { q with unloading := some (pktOrigin p) }) s
      (.waits, (List.range 8).foldl (fun s c => releaseLate n c h s) s)

/-- Plans whose unloading can end now: their entries are freed and the command completes (R160). -/
def finishUnloads (s : State) : State :=
  s.partitions.foldl (fun s p =>
    p.plans.foldl (fun s q =>
      match q.unloading with
      | none => s
      | some o =>
        if planBusy p q.handle then s
        else finish o stOk 0 [] (updPart p.num (fun p => { p with plans := p.plans.filter fun x => x.handle ≠ q.handle }) s)) s) s

/-! ### Steps -/

/-- The submission a STEP_SUBMIT makes. -/
def heldOf (p : Packet) (order : Nat) (fence : Bool) : Held :=
  { origin := pktOrigin p, plan := par32 p 0, cfgver := p.cfgver,
    words := (List.range 11).map fun i => if 8 * i + 16 ≤ p.plen.toNat % 2 ^ 20 then fld64 p.inl (8 * i + 8) else 0,
    order := order, fence := fence }

/-- A PLAN_UNLOAD of the plan has been fetched and waits behind a FENCE; one that will be refused, since an open cache names the plan,
changes nothing (R160). -/
def unloadFetched (s : State) (x : Partition) (h : U32) : Bool :=
  !(x.caches.any fun c => c.recomp = some h) &&
    s.pairs.any fun q => q.fenced.any fun p => p.opcode = 0x0403 && pktPart p = x.num && par32 p 0 = h

/-- STEP_SUBMIT: accepted, and eligible at once unless its FENCE waits for earlier commands of the pair. -/
def cmdStepSubmit (_q : QueuePair) (p : Packet) (s : State) : Res :=
  let n := pktPart p
  match (findPart s n).bind fun x => (x.plan (par32 p 0)).map fun plan => (x, plan) with
  | none => fail stNotPermitted s
  | some (x, plan) =>
    if plan.unloading.isSome || unloadFetched s x plan.handle then fail stNotPermitted s
    else
      let earlier := match findPair s p.qp with | some q => decide (1 < q.outstanding.length) | none => false
      let h := heldOf p s.order (pktFence p && earlier)
      let s := { s with order := s.order + 1 }
      (.accepted,
        if h.fence then updCtx n (pktCtx p) (fun c => { c with ineligible := c.ineligible ++ [h] }) s
        else makeEligible n (pktCtx p) h s)

/-- STEP_ELIGIBLE: a FENCE step whose earlier commands have all posted their final completions (R162). -/
def stepEligible (o : Origin) (s : State) : State :=
  match (allSteps s).find? fun f => f.held.is o && f.held.fence && !f.released with
  | none => s
  | some f =>
    match findPair s o.qp with
    | none => s
    | some q =>
      if (q.outstanding.head?.map (·.tag)) = some o.tag && q.waiting.all (fun w => w.status = stAccepted) then
        makeEligible f.part f.ctx { f.held with fence := false }
          (updCtx f.part f.ctx (fun c => { c with ineligible := c.ineligible.erase f.held }) s)
      else s

/-- STEP_CANCEL. -/
def cmdStepCancel (_q : QueuePair) (p : Packet) (s : State) : Res :=
  let r := cancelTag ⟨p.qp, par32 p 0, false⟩ s
  ok (toLE 4 r.1) r.2

/-- BATCH_SET. -/
def cmdBatchSet (_q : QueuePair) (p : Packet) (s : State) : Res :=
  let n := pktPart p
  let h := par32 p 0
  let fill := par p 4 2
  let wait := par p 6 2
  match (findPart s n).bind fun x => x.plan h with
  | none => fail stBadLength s
  | some q =>
    if !q.batched || fill = 0 || q.batchMax < fill || 10000 < wait then fail stBadLength s
    else ok [] (releaseFilled n h fill wait (updPlan n h (fun q => { q with fill := fill, wait := wait }) s))

/-- WAIT_LIMIT_EXPIRY: the held set of a plan and context is released as late. -/
def waitExpired (part : BitVec 4) (ctx : BitVec 3) (plan : U32) (s : State) : State :=
  releaseLate part ctx.toNat plan s

/-! ### Contexts -/

/-- Bytes a save area needs for each tract. -/
def saveNeed : Nat := 150 * 2 ^ 20

/-- CONTEXT_SET. -/
def cmdContextSet (_q : QueuePair) (p : Packet) (s : State) : Res :=
  let n := pktPart p
  let c := par p 0 1
  let w := par p 1 1
  let slice := par p 4 4
  let save := par p 8 8
  let size := par p 16 8
  match findPart s n with
  | none => fail stNotPermitted s
  | some x =>
    let set := ok [] (updCtx n c (fun c => { c with weight := w, slice := slice, save := save, saveSize := size }) s)
    if 7 < c || w = 0 || slice < 1000 || 1000000 < slice then fail stBadLength s
    else if size = 0 then set
    else if save % 64 ≠ 0 || size < saveNeed * (tractsOf x.tracts).length then fail stBadLength s
    else if 2 ^ 42 ≤ save || !validAddr save then fail stBadLength s
    else
      match x.regions.findSome? fun r => (r.offset save).map fun o => (r, o) with
      | none => fail stNotPermitted s
      | some (r, o) =>
        if r.kind ≠ 0 then fail stNotPermitted s
        else if r.size < o + size then fail stExceeds s
        else set

/-- SLICE_EXPIRY: with other work waiting, the running context is to leave at its next step boundary. -/
def sliceExpired (part : BitVec 4) (s : State) : State :=
  match findPart s part with
  | none => s
  | some p =>
    match nextContext p with
    | none => s
    | some _ => considerSwitch part (updPart part (fun p => { p with expired := true }) s)

/-- SLICE_OVERRUN: a context still within a step 5 ms after its slice expired is switched out within it. -/
def sliceOverrun (part : BitVec 4) (s : State) : State :=
  match findPart s part with
  | none => s
  | some p =>
    let c := p.context p.current.toNat
    if p.expired && c.step.isSome && p.switching.isNone && !drooping s p then
      match nextContext p with
      | some n =>
        updPart part (fun p => { p with switching := some (BitVec.ofNat 3 n) }) (saveUnderstory p p.current.toNat s)
      | none => s
    else s

/-- CONTEXT_SWITCH_DONE: the new context runs. -/
def switchDone (part : BitVec 4) (s : State) : State :=
  match findPart s part with
  | none => s
  | some p =>
    match p.switching with
    | none => s
    | some n =>
      updCtx part n.toNat (fun c => { c with served := c.served + c.slice })
        (updPart part (fun p => { p with current := n, expired := false, switching := none }) (restoreUnderstory p n.toNat s))

/-- STEP_START. -/
def stepStart (part : BitVec 4) (s : State) : State := startStep part s

/-- STEP_COMPLETE: the running step's operators have all completed, or data was lost or pages lacked. -/
def stepComplete (part : BitVec 4) (s : State) : State :=
  match findPart s part with
  | none => s
  | some p =>
    let ctx := p.current.toNat
    match (p.context ctx).step with
    | none => s
    | some r =>
      let q := (p.plan r.batch.plan).getD Plan.none
      if stepEnded q r && p.switching.isNone && !p.regenerating && running s then considerSwitch part (pump (endStep part ctx s)) else s

end Sys2Proof.Machine
end

