-- ==== Sys2Proof/Machine/CmdCaches.lean ====
section
/-! DEFINITION. The commands of key-value caches (R227, R228, R238, R239, R243, R247, R248), and the stages of a page move
(R244, R245). -/
namespace Sys2Proof.Machine

/-! ### Opening and closing -/

/-- 0xFFFF_FFFF: none. -/
def optHandle (n : Nat) : Option U32 := if n = 0xFFFFFFFF then none else some (BitVec.ofNat 32 n)

/-- A region serves a cache of the partition. -/
def regionTaken (p : Partition) (h : U32) : Bool :=
  p.caches.any fun c => c.pool = h || c.spillreg = some h || c.stagingReg = some h

/-- The cache that a CACHE_OPEN describes. -/
def cacheOf (p : Packet) (h : U32) : Cache :=
  { handle := h, layout := par p 0 1, bf16 := par p 1 1 = 0x11, pageLog2 := par p 2 1, spill := par p 3 1 % 2 = 1,
    nlayer := par p 4 2, hl := par p 6 2, d := par p 8 2, ctx := BitVec.ofNat 3 (par p 10 1), maxseq := par p 12 4,
    pool := par32 p 16, spillreg := optHandle (par p 20 4), stagingReg := optHandle (par p 24 4),
    group := optHandle (par p 28 4), chunkPages := par p 32 4, recomp := optHandle (par p 36 4), rtokidx := par p 40 2,
    rchunk := par p 44 4, seqs := [], layers := [], migrations := [] }

/-- A region field: not the partition's, or in use: NOT_PERMITTED; of the wrong kind: BAD_LENGTH. -/
def checkRegion (x : Partition) (h : U32) (good : Region → Bool) : Option (BitVec 16) :=
  match x.region h with
  | none => some stNotPermitted
  | some r => if regionTaken x h then some stNotPermitted else if good r then none else some stBadLength

def orElse (c : Bool) (e : BitVec 16) : Option (BitVec 16) := if c then none else some e

/-- The field checks of CACHE_OPEN in order of offset (R227). -/
def checkCacheOpen (s : State) (x : Partition) (p : Packet) (c : Cache) : Option (BitVec 16) :=
  let f := par p 1 1
  orElse (decide (c.layout ≤ 2) && (f = 0x01 || f = 0x11) && decide (10 ≤ c.pageLog2) && decide (c.pageLog2 ≤ 20)) stBadLength
  <|> orElse (decide (1 ≤ c.nlayer) && decide (c.nlayer ≤ 1024) && decide (1 ≤ c.hl) && decide (c.hl ≤ 256)
        && c.d % 32 = 0 && decide (32 ≤ c.d) && decide (c.d ≤ 256)) stBadLength
  <|> orElse (decide (1 ≤ c.pp)) stBadLength
  <|> orElse (decide (par p 10 1 ≤ 7) && decide (1 ≤ c.maxseq) && decide (c.maxseq ≤ 1048576)) stBadLength
  <|> checkRegion x c.pool (fun r => r.kind = 2)
  <|> (match c.spillreg with
       | some h => checkRegion x h fun r => r.kind = 0 && !r.host
       | none => none)
  <|> (match c.stagingReg with
       | some h =>
         if c.bf16 then some stBadLength
         else checkRegion x h (fun r => r.kind ≠ 2 && !r.host) <|>
           orElse (match x.region h with
             | some r => decide (c.maxseq * c.nlayer * c.hl * c.d * 128 ≤ r.size)
             | none => false) stExceeds
       | none => orElse c.bf16 stNotPermitted)
  <|> (match c.group with
       | none => orElse (c.layout = 0) stBadLength
       | some g => orElse (c.layout ≠ 0 && (findGroup s x.num g).any fun g => g.epoch ≠ 0) stBadLength)
  <|> orElse (if c.layout = 2 then decide (1 ≤ c.chunkPages) && decide (c.chunkPages ≤ 65536) else c.chunkPages = 0) stBadLength
  <|> (match c.recomp with
       | none => none
       | some h =>
         match x.plan h with
         | none => some stNotPermitted
         | some q =>
           if q.ctx ≠ c.ctx then some stNotPermitted
           else
             let a := nth q.index c.rtokidx IndexArr.none
             orElse (!q.batched && decide (c.rtokidx < q.index.length) && a.width = 4 && decide (1 ≤ c.rchunk)
               && decide (c.rchunk ≤ a.count)) stBadLength)

/-- Pages of the pool. -/
def poolPages (s : State) (x : Partition) (c : Cache) : Nat := (poolUnits s x c).length * (2 ^ 20 / c.page)

/-- Page-table entries of the device (R235). -/
def entryLimit : Nat := 134217728

/-- CACHE_OPEN. -/
def cmdCacheOpen (_q : QueuePair) (p : Packet) (s : State) : Res :=
  match findPart s (pktPart p) with
  | none => fail stNotPermitted s
  | some x =>
    let h := freshHandle (s.partitions.flatMap fun p => p.caches.map (·.handle)) s
    let c := cacheOf p h
    match checkCacheOpen s x p c with
    | some e => fail e s
    | none =>
      let n := poolPages s x c
      if 16 ≤ x.caches.length || n = 0 || entryLimit ≤ entriesUsed s then fail stNoResource s
      else ok (toLE 4 h.toNat ++ toLE 4 n ++ toLE 4 c.pp)
        (updPart x.num (fun p => { p with caches := p.caches ++ [c] }) { s with draw := s.draw + 1 })

/-- An operator of a loaded plan names a cache. -/
def planNames (x : Partition) (h : U32) : Bool :=
  x.plans.any fun q => q.ops.any fun r =>
    (opCode r = 0x21 && fld32 r 0x24 = h) || (opCode r = 0x22 && fld32 r 0x10 = h)

/-- CACHE_CLOSE. -/
def cmdCacheClose (_q : QueuePair) (p : Packet) (s : State) : Res :=
  match (findPart s (pktPart p)).bind fun x => (x.cache (par32 p 0)).map fun c => (x, c) with
  | none => fail stNotPermitted s
  | some (x, c) =>
    if planNames x c.handle || (x.context c.ctx.toNat).working then fail stNotPermitted s
    else
      let s := freePages x c c.used s
      let s := settleReserve (updPart x.num (fun p => { p with caches := p.caches.filter fun k => k.handle ≠ c.handle }) s)
      -- a migration still in progress ends with what it had moved
      ok [] (c.migrations.foldl (fun s m => finish m.1 stOk 0 (toLE 4 m.2.2.2.2) s) s)

/-! ### Sequences (R238, R239) -/

/-- The token array of an OPEN or TOKENS: none is address 0. -/
def checkTokens (x : Partition) (a n : Nat) : Option (BitVec 16) :=
  if a = 0 then none
  else if a % 4 ≠ 0 || 2 ^ 42 ≤ a || !validAddr a then some stBadLength
  else
    match x.regions.findSome? fun r => (r.offset a).map fun o => (r, o) with
    | none => some stNotPermitted
    | some (r, o) => if r.kind = 2 then some stNotPermitted else if r.size < o + n then some stExceeds else none

/-- Truncate every layer of a sequence. -/
def truncateSeq (part : BitVec 4) (c : Cache) (seq len : Nat) (s : State) : State :=
  (List.range c.nlayer).foldl (fun s l => truncateLayer part c.handle seq l len false s) s

/-- CACHE_SEQ once no step of the context runs. -/
def cacheSeqNow (p : Packet) (s : State) : Res :=
  let n := pktPart p
  let seq := par p 4 4
  let op := par p 8 1
  let len := par p 16 8
  let ta := par p 24 8
  let ts := par p 32 8
  match (findPart s n).bind fun x => (x.cache (par32 p 0)).map fun c => (x, c) with
  | none => fail stNotPermitted s
  | some (x, c) =>
    let upd := fun (f : SeqRec → SeqRec) => updCache n c.handle
      (fun c => { c with seqs := updWhere (fun r => r.seq = seq) f c.seqs }) s
    if c.maxseq ≤ seq || 3 < op then fail stBadLength s
    else if op = 0 then
      match checkTokens x ta ts with
      | some e => fail e s
      | none =>
        if c.isOpen seq then fail stNotPermitted s
        else ok [] (updCache n c.handle (fun c => { c with
          seqs := c.seqs ++ [⟨seq, ta, if ta = 0 then 0 else ts, 0⟩]
          layers := c.layers.filter fun r => r.seq ≠ seq }) s)
    else if !c.isOpen seq then fail stNotPermitted s
    else if op = 1 then ok [] (settleReserve (truncateSeq n c seq len s))
    else if op = 2 then ok [] (settleReserve (releaseSeq n c.handle seq s))
    else
      let old := (c.seqs.find? fun r => r.seq = seq).getD ⟨seq, 0, 0, 0⟩
      match checkTokens x ta ts with
      | some e => fail e s
      | none =>
        let size := if ta = 0 then old.tokSize else ts
        if size / 4 < len then fail stExceeds s
        else ok [] (upd fun r => { r with tokAddr := if ta = 0 then r.tokAddr else ta, tokSize := size, tokCount := len })

/-- CACHE_SEQ waits for the context's running step to end. -/
def cmdCacheSeq (_q : QueuePair) (p : Packet) (s : State) : Res :=
  match (findPart s (pktPart p)).bind fun x => (x.cache (par32 p 0)).map fun c => (x, c) with
  | none => fail stNotPermitted s
  | some (x, c) =>
    if (x.context c.ctx.toNat).step.isSome then
      (.waits, updPart x.num (fun x => { x with deferred := x.deferred ++ [p] }) s)
    else cacheSeqNow p s

/-- Commands that waited for a step run once it has ended, oldest first. -/
def runDeferred (s : State) : State :=
  s.partitions.foldl (fun s x =>
    x.deferred.foldl (fun s p =>
      let busy := match (findPart s x.num).bind fun y => (y.cache (par32 p 0)).map fun c => (y, c) with
        | some (y, c) => (y.context c.ctx.toNat).step.isSome
        | none => false
      if busy then s
      else
        let s := updPart x.num (fun y => { y with deferred := y.deferred.erase p }) s
        match cacheSeqNow p s with
        | (.done st d r, s) => finish (pktOrigin p) st d r s
        | (_, s) => s) s) s

/-- CACHE_SEQ_QUERY. -/
def cmdCacheSeqQuery (q : QueuePair) (p : Packet) (s : State) : Res :=
  let seq := par p 4 4
  let layer := par p 8 2
  let count := par p 12 4
  let first := par p 28 4
  match (findPart s (pktPart p)).bind fun x => (x.cache (par32 p 0)).map fun c => (x, c) with
  | none => fail stNotPermitted s
  | some (x, c) =>
    if c.maxseq ≤ seq || (c.nlayer ≤ layer && layer ≠ 0xFFFF) || 2 ^ 24 < count then fail stBadLength s
    else if layer = 0xFFFF then
      let pages := ((c.layers.filter fun r => r.seq = seq).map fun r => r.pages.length).sum
      let tok := match c.seqs.find? fun r => r.seq = seq with | some r => r.tokCount | none => 0
      ok (toLE 1 (if c.isOpen seq then 1 else 0) ++ zeros 3 ++ toLE 4 pages ++ toLE 8 tok) s
    else
      let r := c.layerRec seq layer
      let held := (c.spread s x.num).held r.length
      let n := min (first + count) r.pages.length - first
      let head := toLE 8 r.length ++ toLEInt 2 r.kmax ++ toLEInt 2 r.vmax
      if count = 0 then ok (head ++ toLE 4 r.pages.length) s
      else
        copyOut q p 8 (par p 16 8) (par p 24 4) (8 * count)
          ((List.range n).flatMap fun i => entryBytes s x c r held (first + i)) (head ++ toLE 4 n) s

/-! ### Migration (R243 to R245) -/

/-- Give one page a place to be copied to. -/
def startMove (part : BitVec 4) (h : U32) (seq layer i : Nat) (toRoot : Bool) (s : State) : State :=
  match (findPart s part).bind fun x => (x.cache h).map fun c => (x, c) with
  | none => s
  | some (x, c) =>
    let place := if toRoot then (freeRoot x c c.used).head?.map fun l => (true, l)
      else (choosePage s c (poolUnits s x c) seq).map fun l => (false, l)
    match place with
    | none => s
    | some w =>
      let r := c.layerRec seq layer
      updCache part h (fun c => c.putLayer { r with
        pages := setAt r.pages i fun e => { e with moving := some w, restart := false } }) s

/-- Pages that a migration moves: layer and index. -/
def moveList (c : Cache) (seq lfirst lcount pfirst pcount : Nat) (toRoot : Bool) : List (Nat × Nat) :=
  (List.range lcount).flatMap fun i =>
    let r := c.layerRec seq (lfirst + i)
    ((List.range r.pages.length).filter fun k =>
      decide (pfirst ≤ k) && decide (k < pfirst + pcount) &&
        (let e := nth r.pages k PageEntry.none
         e.root ≠ toRoot && e.moving.isNone)).map fun k => (lfirst + i, k)

/-- CACHE_MIGRATE. -/
def cmdCacheMigrate (_q : QueuePair) (p : Packet) (s : State) : Res :=
  let n := pktPart p
  let seq := par p 4 4
  let lf := par p 8 2
  let lc := par p 10 2
  let dir := par p 12 1
  let pf := par p 16 4
  let pc := par p 20 4
  match (findPart s n).bind fun x => (x.cache (par32 p 0)).map fun c => (x, c) with
  | none => fail stNotPermitted s
  | some (x, c) =>
    if !c.isOpen seq then fail stNotPermitted s
    else if c.nlayer ≤ lf || lc = 0 || c.nlayer < lf + lc || 1 < dir || (dir = 1 && c.spillreg.isNone) || pc = 0 then
      fail stBadLength s
    else
      let ms := moveList c seq lf lc pf pc (dir = 1)
      let free := if dir = 1 then (freeRoot x c c.used).length else (freePool s x c).length
      if free < ms.length then fail stNoResource s
      else
        let s := ms.foldl (fun s m => startMove n c.handle seq m.1 m.2 (dir = 1) s) s
        (.accepted, updCache n c.handle (fun c => { c with
          migrations := c.migrations ++ [(pktOrigin p, seq, lf, lc, 0)] }) s)

/-- Copy a page: valid lines with their bytes, lost lines as lost. -/
def copyPage (x : Partition) (c : Cache) (e : PageEntry) (place : Bool × Nat) (s : State) : State :=
  (List.range (c.page / 64)).foldl (fun s i =>
    let src := e.addr x c (64 * i)
    let dst := pageAddr x c place.1 place.2 (64 * i)
    match lineState s (lineOf src) with
    | some .valid => writeCells x.gen (cellsAt ((List.range 64).map fun j => dst + j)
        (readAt s ((List.range 64).map fun j => src + j))) s
    | some .lost => loseLine x.gen (lineOf dst) s
    | none => s) s

/-- A migration counts a page of its sequence and layers that has been switched (R243). -/
def countMove (seq layer : Nat) (m : Origin × Nat × Nat × Nat × Nat) : Origin × Nat × Nat × Nat × Nat :=
  if m.2.1 = seq ∧ m.2.2.1 ≤ layer ∧ layer < m.2.2.1 + m.2.2.2.1 then (m.1, m.2.1, m.2.2.1, m.2.2.2.1, m.2.2.2.2 + 1) else m

/-- Switch one page to its copy, free the old place, and seal a page that came into POOL (R244). -/
def switchPage (part : BitVec 4) (h : U32) (seq layer i : Nat) (s : State) : State :=
  match (findPart s part).bind fun x => (x.cache h).map fun c => (x, c) with
  | none => s
  | some (x, c) =>
    let r := c.layerRec seq layer
    let e := nth r.pages i PageEntry.none
    match e.moving with
    | none => s
    | some w =>
      if e.restart then
        updCache part h (fun c => c.putLayer { r with pages := setAt r.pages i fun e => { e with restart := false } }) s
      else
        let r' := { r with pages := setAt r.pages i fun _ => ⟨w.1, w.2, none, false⟩ }
        reseal x c r' ((c.spread s part).held r.length) i
          (updCache part h (fun c => { c.putLayer r' with migrations := c.migrations.map (countMove seq layer) }) (freePage x c e.root e.loc (copyPage x c e w s)))

/-- Every page of a cache that moves, by sequence, layer and index. -/
def movingPages (c : Cache) : List (Nat × Nat × Nat) :=
  c.layers.flatMap fun r => (r.pages.zipIdx.filter fun e => e.1.moving.isSome).map fun e => (r.seq, r.layer, e.2)

/-- PAGE_SWITCH: at a step boundary of the owning context. -/
def pageSwitch (part : BitVec 4) (h : U32) (s : State) : State :=
  match (findPart s part).bind fun x => (x.cache h).map fun c => (x, c) with
  | none => s
  | some (x, c) =>
    if (x.context c.ctx.toNat).step.isSome then s
    else (movingPages c).foldl (fun s m => switchPage part h m.1 m.2.1 m.2.2 s) s

/-- MIGRATION_DONE: every page of the migration has been switched. -/
def migrationDone (o : Origin) (s : State) : State :=
  match (s.partitions.flatMap fun x => x.caches.flatMap fun c => c.migrations.map fun m => (x, c, m)).find?
      fun y => y.2.2.1 = o with
  | none => s
  | some (x, c, m) =>
    let busy := (movingPages c).any fun y =>
      y.1 = m.2.1 && decide (m.2.2.1 ≤ y.2.1) && decide (y.2.1 < m.2.2.1 + m.2.2.2.1)
    if busy then s
    else finish o stOk 0 (toLE 4 m.2.2.2.2)
      (updCache x.num c.handle (fun c => { c with migrations := c.migrations.erase m }) s)

/-- CACHE_STATUS. -/
def cmdCacheStatus (_q : QueuePair) (p : Packet) (s : State) : Res :=
  match (findPart s (pktPart p)).bind fun x => (x.cache (par32 p 0)).map fun c => (x, c) with
  | none => fail stNotPermitted s
  | some (x, c) =>
    ok (toLE 4 (freePool s x c).length ++ toLE 4 (freeRoot x c c.used).length ++ toLE 4 c.seqs.length
      ++ toLE 4 (min (2 ^ 32 - 1) (entryLimit - entriesUsed s))) s

/-- A sequence has a recomputation source (R246). -/
def hasSource (c : Cache) (seq : Nat) : Bool :=
  c.recomp.isSome &&
    (match c.seqs.find? fun r => r.seq = seq with
     | some r => decide (maxNat ((c.layers.filter fun y => y.seq = seq).map (·.length)) ≤ r.tokCount)
     | none => false)

end Sys2Proof.Machine
end

