-- ==== Sys2Proof/Machine/Jobs.lean ====
section
/-! DEFINITION. The recovery queues (R401): one for the device and one for each partition. An action that finds its queue
empty is taken up at once, and begins when the present command has had its effect. -/
namespace Sys2Proof.Machine

/-- The number of the record written last, if the recorder holds it. -/
def lastRecord (s : State) : Option Nat := s.recorder.records.getLast?.map (·.1)

/-- Near-bank units whose channels an action of a partition holds. -/
def actionUnits (p : Partition) (a : Action) : List Nat :=
  match a with
  | .migrate u => [u]
  | .recompute h q a _ =>
    match p.cache h with
    | none => []
    | some c => (c.layers.filter fun r => r.seq = q).flatMap fun r =>
        ((r.pages.drop (a / c.pp)).filter fun e => !e.root).map fun e => e.loc / 1024
  | _ => []

/-- A partition action needs a resource that a running device action holds. -/
def blocked (s : State) (p : Partition) (a : Action) : Bool :=
  match s.reserve.running with
  | some ⟨.rehome core, _, _⟩ => (actionUnits p a).any fun u => u % 65536 = core / 16
  | _ => false

/-- Put an action into its queue. -/
def enqueue (part : Option (BitVec 4)) (a : Action) (cause : Option Nat) (s : State) : State :=
  let j : Job := ⟨a, cause, false⟩
  match part with
  | none =>
    if s.reserve.running.isNone && s.reserve.queue.isEmpty then { s with reserve := { s.reserve with running := some j } }
    else { s with reserve := { s.reserve with queue := s.reserve.queue ++ [j] } }
  | some n =>
    updPart n (fun p =>
      if p.acting.isNone && p.recovery.isEmpty && !blocked s p a then { p with acting := some j }
      else { p with recovery := p.recovery ++ [j] }) s

/-- RECOVERY_ACTION_START: the next action of a queue whose running action has finished. -/
def nextJob (part : Option (BitVec 4)) (s : State) : State :=
  match part with
  | none =>
    match s.reserve.running, s.reserve.queue with
    | none, j :: js => { s with reserve := { s.reserve with running := some j, queue := js } }
    | _, _ => s
  | some n =>
    updPart n (fun p =>
      match p.acting, p.recovery with
      | none, j :: js => if blocked s p j.act then p else { p with acting := some j, recovery := js }
      | _, _ => p) s

/-- Kind of R400: 2 reconstruct, 3 recompute, 4 replay. -/
def actionKind : Action → Nat
  | .replay => 4
  | .recompute _ _ _ _ => 3
  | _ => 2

/-- End the running action of a queue, if it is the one named, with an outcome of R411. -/
def closeJob (part : Option (BitVec 4)) (a : Action) (outcome : Nat) (s : State) : State :=
  match part with
  | none =>
    match s.reserve.running with
    | some j =>
      if j.act = a then
        recordRecovery (actionKind a) outcome j.cause none { s with reserve := { s.reserve with running := none } }
      else s
    | none => s
  | some n =>
    match (findPart s n).bind (·.acting) with
    | some j =>
      if j.act = a then
        recordRecovery (actionKind a) outcome j.cause (some n) (updPart n (fun p => { p with acting := none }) s)
      else s
    | none => s

/-- The running action has finished. -/
def endJob (part : Option (BitVec 4)) (a : Action) (s : State) : State := closeJob part a 0 s

end Sys2Proof.Machine
end

