-- ==== Sys2Proof/Machine/OpsMatrix.lean ====
section
/-! DEFINITION. The operators that run on the lattices: matrix products (R117 to R119), convolutions
(R131, R132) and their backward variants (R145), with anchored sums (R53 to R59) and fast reductions (R74). -/
namespace Sys2Proof.Machine

/-! ### Sums of products -/

/-- The partial of one grove under fast reductions: pass results added in ascending reduction index, the first written (R74, R83). -/
def fastLattice (d : Nat) (ts : List Num) : F32 :=
  match chunks d (ceilDiv ts.length d) ts with
  | [] => f32Zero
  | c :: cs => cs.foldl (fun acc c => fadd acc (passSum d c)) (passSum d c)

/-- A fast reduction shared by several groves: the partials of the shares that hold products, in a balanced tree (R74). -/
def fastSplit (d split : Nat) (ts : List Num) : F32 :=
  let n := ceilDiv ts.length 32
  joinFast (((List.range split).filterMap fun i =>
    let l := (ts.take (32 * splitAt n split (i + 1))).drop (32 * splitAt n split i)
    if l.isEmpty then none else some (fastLattice d l)))

/-- The output elements of a lattice operator before conversion. -/
structure Dot where
  /-- Base anchor of a sequence of the output; none for one that takes part in no anchor (R119). -/
  seqBase : Nat → Option Int
  /-- Base anchor of an output element, by the sequence of its row of operand A (R53). -/
  base : Nat → Int
  /-- Integer of an output element at its base anchor after widening; none where no product takes part, which is +0. -/
  exact : Nat → Option Acc
  /-- Its value under fast reductions. -/
  fast : Nat → Option F32
  /-- Products counted for the widening of R55. -/
  count : Nat
  /-- L2SCALE of the two operands, multiplied. -/
  scale : Num

/-- An anchor with ACC_IN's: the product's after widening, raised by one above the larger (R118). -/
def withAcc (c : Int) (acc : Option Int) : Int := match acc with | some a => max c a + 1 | none => c

/-- Anchor of an output element, ACC_IN taken by the sequence of its own element. -/
def Dot.anchor (d : Dot) (acc : Option View) (k : Nat) : Int :=
  withAcc (d.base k + widen d.count) (acc.map fun v => v.maxFor (v.seq k))

/-- Anchor of a sequence of an AA128 output. A sequence none of whose rows takes part in an anchor gets the lowest there is, which
raises no maximum (assumption 95). -/
def Dot.seqAnchor (d : Dot) (acc : Option View) (q : Nat) : Int :=
  match d.seqBase q with
  | some b => withAcc (b + widen d.count) (acc.map fun v => v.maxFor q)
  | none => -32767

/-- The integer of an output element at its anchor. -/
def Dot.sum (d : Dot) (acc : Option View) (k : Nat) : Acc :=
  match d.exact k with
  | none => some 0
  | some i =>
    match acc with
    | some v =>
      let c := d.anchor acc k
      accFit (accAdd (accShift i (c - (d.base k + widen d.count)).toNat) (accShift (v.acc k) (c - v.maxFor (v.seq k)).toNat))
    | none => i

/-- The binary32 result of an output element under fast reductions. How a partial of ACC_IN enters one the spec does not state: a
free function of the result, the partial and its anchor (assumption 11). -/
def Dot.fastValue (e : Env) (s : State) (d : Dot) (acc : Option View) (k : Nat) : F32 :=
  match d.fast k with
  | none => f32Zero
  | some x =>
    match acc with
    | some v => Config.fastSum (e.fastKey s k ++ [(accBits (v.acc k)).toNat, (v.maxFor (v.seq k) + 32768).toNat]) [x]
    | none => x

/-- Write the sums of a lattice operator: kept as AA128 with OUT = 1, else converted (R61 to R63). What an AA128 output holds under
fast reductions the spec does not state; the model floors the binary32 result at the anchor of the exact product (assumption 96,
DESIGN CHOICE). -/
def Env.emitDot (e : Env) (i : Nat) (keep : Bool) (d : Dot) (acc : Option View) (bound : Bool) (s : State) : State :=
  let v := e.view s i
  if opFast e.raw then
    let x := fun k => num32 (d.fastValue e s acc k)
    if keep then e.writeAnchored i (fun k => floorTerm (d.anchor acc k) (x k)) (d.seqAnchor acc) bound s
    else e.writeAll i (fun k => Num.mul (x k) d.scale) bound s
  else if keep then e.writeAnchored i (d.sum acc) (d.seqAnchor acc) bound s
  else
    let above := fun k => decide (32767 < d.anchor acc k)
    let s := e.note noteOverflow ((List.range v.size).filter above).length s
    e.writeAll i (fun k =>
      if above k then .nan false else Num.mul (accNum (d.anchor acc k) (d.sum acc k)) d.scale) bound s

/-- Elements of an operand that exceed their bound, gathered as one note (R51). -/
def countOver (v : View) (ks : List Nat) (bound : Nat → Int) : Nat := (ks.filter fun k => v.exceedsAt (bound k) k).length

/-! ### Matrix products (R117 to R119) -/

/-- A stored matrix as [G1, G2, rows, columns], transposed where TRANS says so. -/
structure Mat where
  v : View
  g1 : Nat
  g2 : Nat
  rows : Nat
  cols : Nat
  trans : Bool

def Mat.of (v : View) (trans : Bool) : Mat :=
  let l := (leadTo 4 (v.dims.take v.t.ndim)).getD [1, 1, 1, 1]
  let r := nth l 2 1
  let c := nth l 3 1
  ⟨v, nth l 0 1, nth l 1 1, if trans then c else r, if trans then r else c, trans⟩

/-- Logical index of an element, a batch dimension of 1 broadcast. -/
def Mat.at (m : Mat) (i j r c : Nat) : Nat :=
  let i := if m.g1 = 1 then 0 else i
  let j := if m.g2 = 1 then 0 else j
  (i * m.g2 + j) * (m.rows * m.cols) + (if m.trans then c * m.rows + r else r * m.cols + c)

/-- Base anchor from a bound of A and the tensor-wide bound of B (R53). -/
def baseAnchor (a b : View) (ma : Int) : Int := ma + a.t.fmt.k + b.t.maxexp + b.t.fmt.k

/-- Entries of a vector of a reduction of length K: K′ for block formats (R48, R102), the last entry filled with zeros otherwise. -/
def vectorEntries (f : Fmt) (k : Nat) : Nat := if f.isBlock then 2 * ceilDiv k 32 else ceilDiv k 16

/-- The plain and the batched product as lattice work: matrix `m` is the pair (m ÷ G2, m mod G2) of batch indices. -/
def gemmLattice (e : Env) (s : State) (a b c : Mat) : Lattice :=
  let rowOf := fun vec => (vec / c.rows / c.g2, vec / c.rows % c.g2, vec % c.rows)
  let colOf := fun vec => (vec / c.cols / b.g2, vec / c.cols % b.g2, vec % c.cols)
  let first := fun vec => let r := rowOf vec; a.at r.1 r.2.1 r.2.2 0
  { grid := ⟨c.g1 * c.g2, ceilDiv c.rows 16, ceilDiv c.cols 16⟩
    n := c.cols
    rows := fun m t => (List.range 16).map fun i =>
      if 16 * t + i < c.rows then
        some (m * c.rows + 16 * t + i, baseAnchor a.v b.v (a.v.maxFor (a.v.seq (first (m * c.rows + 16 * t + i)))))
      else none
    column := fun m _ n =>
      ((if b.g1 = 1 then 0 else m / c.g2) * b.g2 + (if b.g2 = 1 then 0 else m % c.g2)) * c.cols + n
    a := e.operand s (e.f2 0x08) (fun _ k => a.v.maxFor (a.v.seq k))
      (fun vec k => let r := rowOf vec; a.at r.1 r.2.1 r.2.2 k) a.cols
    b := e.operand s (e.f2 0x0A) (fun _ k => b.v.maxFor (b.v.seq k))
      (fun vec k => let r := colOf vec; b.at r.1 r.2.1 k r.2.2) a.cols
    entries := vectorEntries a.v.t.fmt a.cols
    step := passDepth a.v.t.fmt b.v.t.fmt / 16
    fast := opFast e.raw }

/-- The output elements that the partials of the groves give. -/
def latticeDot (ds : List (Nat × Nat × Nat × Nat × Nat × BitVec 128)) (n count : Nat) (scale : Num) (seqBase : Nat → Option Int)
    (base : Nat → Int) : Dot :=
  let held := fun k => let l := partialsOf ds (k / n) (k % n); if l.isEmpty then none else some l
  { seqBase := seqBase
    base := base
    exact := fun k => (held k).map fun l => joinExact (widen count) (l.map (·.2))
    fast := fun k => (held k).map fun l => joinFast ((sortBy (fun x y => x.1 ≤ y.1) l).map fun x => x.2.2.setWidth 32)
    count := count
    scale := scale }

/-- GEMM and GEMM_BATCHED. -/
def opGemm (e : Env) (s : State) : State :=
  let a := Mat.of (e.view s (e.f2 0x08)) (e.f1 0x10 % 2 = 1)
  let b := Mat.of (e.view s (e.f2 0x0A)) (e.f1 0x10 / 2 % 2 = 1)
  let c := Mat.of (e.view s (e.f2 0x0C)) false
  let acc := if e.has 0x0E then some (e.view s (e.f2 0x0E)) else none
  let above := countOver a.v (List.range a.v.size) (fun k => a.v.maxFor (a.v.seq k))
    + countOver b.v (List.range b.v.size) (fun k => b.v.maxFor (b.v.seq k))
  let r := e.lattices (gemmLattice e s a b c) s
  let rowSeq := fun row => a.v.seq (a.at (row / c.rows / c.g2) (row / c.rows % c.g2) (row % c.rows) 0)
  let d := latticeDot r.2 c.cols a.cols (Num.mul a.v.l2 b.v.l2) (fun q => some (baseAnchor a.v b.v (a.v.maxFor q)))
    (fun k => baseAnchor a.v b.v (a.v.maxFor (rowSeq (k / c.cols))))
  e.emitDot (e.f2 0x0C) (e.f1 0x11 = 1) d acc (above ≠ 0) (e.note noteBound above r.1)

/-- Rows of each expert after the clipping of R119: first row, end, and how many offsets were clipped, each counted once: as a start
below the end of the expert before, or as an end above T. The end of an expert without rows is taken to be its start
(assumption 100, DESIGN CHOICE). -/
def expertRows (offs : List Nat) (t : Nat) : List (Nat × Nat) × Nat :=
  let r := (offs.zip (offs.drop 1)).foldl (fun (acc : List (Nat × Nat) × Nat × List Bool) o =>
    let lo := max o.1 acc.2.1
    let hi := max lo (min o.2 t)
    (acc.1 ++ [(lo, hi)], hi, acc.2.2 ++ [decide (lo ≠ o.1)])) ([], 0, [])
  -- offset 0 is no expert's end
  (r.1, ((List.range offs.length).filter fun i =>
    nth r.2.2 i false || (decide (0 < i) && decide (t < nth offs i 0))).length)

/-- GEMM_GROUPED. -/
def opGrouped (e : Env) (s : State) : State :=
  let a := Mat.of (e.view s (e.f2 0x08)) (e.f1 0x10 % 2 = 1)
  let b := Mat.of (e.view s (e.f2 0x0A)) (e.f1 0x10 / 2 % 2 = 1)
  let c := Mat.of (e.view s (e.f2 0x0C)) false
  let n := e.f4 0x18
  let ex := expertRows ((List.range (n + 1)).map (e.idx s 0x12)) a.rows
  let owner : Nat → Option Nat := fun m => ex.1.findIdx? fun r => decide (r.1 ≤ m) && decide (m < r.2)
  let useSeq := a.v.t.batched && e.has 0x14
  let rowSeq : Nat → Nat := fun m => if useSeq then e.idx s 0x14 m else 0
  let good : Nat → Bool := fun m => !useSeq || decide (rowSeq m < a.v.seqs)
  let rowMax := fun m => if useSeq then a.v.maxFor (rowSeq m) else a.v.t.maxexp
  -- row tiles, an expert's rows packed from its first (R104)
  let tiles := ex.1.zipIdx.flatMap fun r => (List.range (ceilDiv (r.1.2 - r.1.1) 16)).map fun i => (r.2, r.1.1 + 16 * i, r.1.2)
  let x : Lattice :=
    { grid := ⟨1, tiles.length, ceilDiv c.cols 16⟩
      n := c.cols
      rows := fun _ t =>
        let w := nth tiles t (0, 0, 0)
        (List.range 16).map fun i =>
          let m := w.2.1 + i
          if m < w.2.2 && good m then some (m, baseAnchor a.v b.v (rowMax m)) else none
      column := fun _ t j => (nth tiles t (0, 0, 0)).1 * c.cols + j
      a := e.operand s (e.f2 0x08) (fun m _ => rowMax m) (fun m k => a.at 0 0 m k) a.cols
      b := e.operand s (e.f2 0x0A) (fun _ k => b.v.maxFor (b.v.seq k)) (fun v k => b.at 0 (v / c.cols) k (v % c.cols)) a.cols
      entries := vectorEntries a.v.t.fmt a.cols
      step := passDepth a.v.t.fmt b.v.t.fmt / 16
      fast := opFast e.raw }
  let used := (List.range a.rows).filter fun m => (owner m).isSome && good m
  let above := (used.flatMap fun m => (List.range a.cols).filter fun y => a.v.exceedsAt (rowMax m) (a.at 0 0 m y)).length
    + (((used.filterMap owner).eraseDups).flatMap fun x => (List.range (b.rows * b.cols)).filter fun z =>
        b.v.exceeds (x * (b.rows * b.cols) + z)).length
  let badSeq := ((List.range a.rows).filter fun m => useSeq && !good m).length
  let r := e.lattices x s
  let d := latticeDot r.2 c.cols a.cols (Num.mul a.v.l2 b.v.l2)
    (fun q => if good q then some (baseAnchor a.v b.v (rowMax q)) else none)
    (fun k => baseAnchor a.v b.v (if good (k / c.cols) then rowMax (k / c.cols) else a.v.t.maxexp))
  e.emitDot (e.f2 0x0C) (e.f1 0x11 = 1) d none (above ≠ 0) (e.note noteRange (ex.2 + badSeq) (e.note noteBound above r.1))

/-! ### Convolutions (R131, R132) -/

/-- A convolution operand as [N, C, H, W], with 1 for the missing height of one dimension. -/
structure Img where
  v : View
  n : Nat
  c : Nat
  h : Nat
  w : Nat

def Img.of (one : Bool) (v : View) : Img :=
  let l := v.dims.take v.t.ndim
  if one && v.t.ndim ≠ 4 then
    let l := (leadTo 3 l).getD [1, 1, 1]
    ⟨v, nth l 0 1, nth l 1 1, 1, nth l 2 1⟩
  else
    let l := (leadTo 4 l).getD [1, 1, 1, 1]
    ⟨v, nth l 0 1, nth l 1 1, nth l 2 1, nth l 3 1⟩

def Img.at (m : Img) (n c y x : Nat) : Nat := ((n * m.c + c) * m.h + y) * m.w + x

/-- Fields of a convolution. -/
structure ConvParam where
  sh : Nat
  sw : Nat
  dh : Nat
  dw : Nat
  pt : Nat
  pl : Nat
  groups : Nat

def Env.conv (e : Env) : ConvParam :=
  ⟨e.f1 0x10, e.f1 0x11, e.f1 0x12, e.f1 0x13, e.f2 0x14, e.f2 0x18, e.f4 0x1C⟩

/-- The input row (or column) that kernel place `k` of output place `o` meets; none in the padding. -/
def convIn (o k stride dil pad extent : Nat) : Option Nat :=
  let p := o * stride + k * dil
  if pad ≤ p ∧ p - pad < extent then some (p - pad) else none

/-- The output place whose kernel place `k` meets input place `i`; none where no output does. -/
def convBack (i k stride dil pad extent : Nat) : Option Nat :=
  if i + pad < k * dil then none
  else
    let p := i + pad - k * dil
    if p % stride = 0 ∧ p / stride < extent then some (p / stride) else none

/-- A product of two optional elements; padding is read as zero, and zero times a NaN or an infinity is NaN (R132, R54). -/
def prodAt (a b : View) (x y : Option Nat) : Num :=
  Num.mul (match x with | some i => a.lattice i | none => Num.zero) (match y with | some j => b.lattice j | none => Num.zero)

/-- Sums of products in the order of the global reduction index, where the lowering onto passes is the device's own (R132). -/
def termsDot (seqBase base : Nat → Int) (terms : Nat → List Num) (count split depth : Nat) (scale : Num) : Dot :=
  { seqBase := fun q => some (seqBase q)
    base := base
    exact := fun k => some (accSum (base k) count (terms k)).2
    fast := fun k => some (fastSplit depth split (terms k))
    count := count
    scale := scale }

def both (a b : Option Nat) (f : Nat → Nat → Nat) : Option Nat :=
  match a, b with
  | some x, some y => some (f x y)
  | _, _ => none

/-- Forward: index (ky × KW + kx) × Cg + c. -/
def convDot (p : ConvParam) (x w y : Img) (split : Nat) : Dot :=
  let cg := w.c
  let per := y.c / p.groups
  let anchor := fun q => baseAnchor x.v w.v (x.v.maxFor q)
  termsDot anchor (fun k => anchor (x.v.seq (x.at (k / (y.w * y.h * y.c)) 0 0 0)))
    (fun k =>
      let ox := k % y.w
      let oy := k / y.w % y.h
      let co := k / (y.w * y.h) % y.c
      let n := k / (y.w * y.h * y.c)
      (List.range (w.h * w.w * cg)).map fun t =>
        let c := t % cg
        let kx := t / cg % w.w
        let ky := t / cg / w.w
        let src := both (convIn oy ky p.sh p.dh p.pt x.h) (convIn ox kx p.sw p.dw p.pl x.w) fun a b =>
          x.at n (co / per * cg + c) a b
        prodAt x.v w.v src (some (w.at co c ky kx)))
    (w.h * w.w * cg) split (passDepth x.v.t.fmt w.v.t.fmt) (Num.mul x.v.l2 w.v.l2)

/-! ### Their backward variants (R145) -/

/-- An element list converted in blocks of 32 along a reduction: values, and the largest scale exponent (block formats) or
element exponent (bfloat16). -/
def reblock (f : Fmt) (xs : List Num) : List Num × Int :=
  if f.isBlock then
    (chunks 32 (ceilDiv xs.length 32) xs).foldl (fun (acc : List Num × Int) c =>
      let b := toBlock f (c ++ List.replicate (32 - c.length) Num.zero)
      let vs := b.2.1.map fun y => if b.1 = 255 then Num.nan false else (f.value y).scale2 ((b.1 : Int) - 127)
      (acc.1 ++ vs.take c.length, if b.1 = 255 then acc.2 else max acc.2 ((b.1 : Int) - 127))) ([], -127)
  else
    xs.foldl (fun (acc : List Num × Int) v =>
      let y := (toBinary f v).1
      (acc.1 ++ [f.value y], match f.exponent y with | some z => max acc.2 z | none => acc.2)) ([], f.emin)

/-- Largest of the maxima of some lists converted along a reduction. -/
def reblockMax (f : Fmt) (ls : List (List Num)) : Int :=
  ls.foldl (fun m l => max m (reblock f l).2) (if f.isBlock then -127 else f.emin)

/-- Whether an operand has to be blocked anew for a reduction that its stored blocks do not follow. -/
def reblocks (v : View) (along : Bool) : Bool := v.t.fmt.isBlock && !along

/-- A vector of an operand as the lattice takes it: as stored, or converted in blocks of 32 along the reduction (R62). -/
def asReduced (v : View) (along : Bool) (l : List Num) : List Num := if reblocks v along then (reblock v.t.fmt l).1 else l

/-- Its bound: the maximum stored, or that of the vectors as converted. -/
def reducedMax (v : View) (along : Bool) (stored : Int) (ls : List (List Num)) : Int :=
  if reblocks v along then reblockMax v.t.fmt ls else stored

/-- Data gradient: a transposed convolution with index (ky × KW + kx) × Cout + co; channels of other groups give zero. DY is taken as
stored where its blocks run along Cout; the kernel's run along Cg and are formed anew. -/
def convDataDot (p : ConvParam) (x w y : Img) (split : Nat) : Dot :=
  let cg := w.c
  let per := y.c / p.groups
  let len := w.h * w.w * y.c
  let along := y.v.t.blockDim + channelDim y.v.t (y.v.t.ndim ≠ 4) + 1 = y.v.t.ndim
  let yVec := fun n iy ix => (List.range len).map fun t =>
    let kx := t / y.c % w.w
    let ky := t / y.c / w.w
    match both (convBack iy ky p.sh p.dh p.pt y.h) (convBack ix kx p.sw p.dw p.pl y.w) fun a b => y.at n (t % y.c) a b with
    | some i => y.v.lattice i
    | none => Num.zero
  let wVec := fun ci => (List.range len).map fun t =>
    if t % y.c / per = ci / cg then w.v.lattice (w.at (t % y.c) (ci % cg) (t / y.c / w.w) (t / y.c % w.w)) else Num.zero
  let seqOf := fun n => y.v.seq (y.at n 0 0 0)
  let yMax := fun q => reducedMax y.v along (y.v.maxFor q)
    (((List.range x.n).filter fun n => !y.v.t.batched || seqOf n = q).flatMap fun n => (List.range x.h).flatMap fun iy =>
      (List.range x.w).map fun ix => yVec n iy ix)
  let wMax := reducedMax w.v false w.v.t.maxexp ((List.range x.c).map wVec)
  let anchor := fun q => yMax q + y.v.t.fmt.k + wMax + w.v.t.fmt.k
  termsDot anchor (fun k => anchor (seqOf (k / (x.w * x.h * x.c))))
    (fun k =>
      List.zipWith Num.mul
        (asReduced y.v along (yVec (k / (x.w * x.h * x.c)) (k / x.w % x.h) (k % x.w)))
        (asReduced w.v false (wVec (k / (x.w * x.h) % x.c))))
    len split (passDepth y.v.t.fmt w.v.t.fmt) (Num.mul y.v.l2 w.v.l2)

/-- Weight gradient: index (n, oy, ox), row-major, along which both operands are blocked anew; the anchor uses the tensor-wide
maxima. -/
def convWeightDot (p : ConvParam) (x w y : Img) (split : Nat) : Dot :=
  let cg := w.c
  let per := y.c / p.groups
  let len := y.n * y.h * y.w
  let yVec := fun co => (List.range len).map fun t => y.v.lattice (y.at (t / (y.w * y.h)) co (t / y.w % y.h) (t % y.w))
  let xVec := fun ci ky kx => (List.range len).map fun t =>
    match both (convIn (t / y.w % y.h) ky p.sh p.dh p.pt x.h) (convIn (t % y.w) kx p.sw p.dw p.pl x.w) fun a b =>
      x.at (t / (y.w * y.h)) ci a b with
    | some i => x.v.lattice i
    | none => Num.zero
  let yMax := reducedMax y.v false y.v.t.maxexp ((List.range y.c).map yVec)
  let xMax := reducedMax x.v false x.v.t.maxexp ((List.range x.c).flatMap fun ci => (List.range w.h).flatMap fun ky =>
    (List.range w.w).map fun kx => xVec ci ky kx)
  let anchor := yMax + y.v.t.fmt.k + xMax + x.v.t.fmt.k
  termsDot (fun _ => anchor) (fun _ => anchor)
    (fun k =>
      let co := k / (w.w * w.h * cg)
      List.zipWith Num.mul (asReduced y.v false (yVec co))
        (asReduced x.v false (xVec (co / per * cg + k / (w.w * w.h) % cg) (k / w.w % w.h) (k % w.w))))
    len split (passDepth y.v.t.fmt x.v.t.fmt) (Num.mul y.v.l2 x.v.l2)

def overAll (v : View) : Nat := countOver v (List.range v.size) fun k => v.maxFor (v.seq k)

/-- Groves that share the reduction of a convolution's output tile. -/
def Env.convSplit (e : Env) (s : State) (o : Img) : Nat :=
  splitOf (e.plan s) e.raw ⟨1, ceilDiv (o.n * o.h * o.w) 16, ceilDiv o.c 16⟩

/-- CONV1D and CONV2D. -/
def opConv (one : Bool) (e : Env) (s : State) : State :=
  let x := Img.of one (e.view s (e.f2 0x08))
  let w := Img.of one (e.view s (e.f2 0x0A))
  let y := Img.of one (e.view s (e.f2 0x0C))
  let acc := if e.has 0x0E then some (e.view s (e.f2 0x0E)) else none
  let above := overAll x.v + overAll w.v
  e.emitDot (e.f2 0x0C) (e.f1 0x20 = 1) (convDot e.conv x w y (e.convSplit s y)) acc (above ≠ 0)
    (e.note noteBound above (e.clearLattices s))

/-- CONV1D_BWD and CONV2D_BWD: with X present the weight gradient, with WGT present the data gradient. -/
def opConvBwd (one : Bool) (e : Env) (s : State) : State :=
  let y := Img.of one (e.view s (e.f2 0x0C))
  let o := Img.of one (e.view s (e.f2 0x0E))
  let other := Img.of one (e.view s (if e.has 0x08 then e.f2 0x08 else e.f2 0x0A))
  let split := e.convSplit s o
  let d := if e.has 0x08 then convWeightDot e.conv other o y split else convDataDot e.conv o other y split
  let above := overAll y.v + overAll other.v
  e.emitDot (e.f2 0x0E) (e.f1 0x20 % 2 = 1) d none (above ≠ 0) (e.note noteBound above (e.clearLattices s))

end Sys2Proof.Machine
end

