-- ==== Sys2Proof/Machine/OpsVector.lean ====
section
/-! DEFINITION. Operators of the vector stage: scale pass and quantisation (R139), normalisations and softmax
(R133, R134), element-wise chains (R135, R136), scan (R130), selection and ordering (R128, R129), sampling (R137, R138). -/
namespace Sys2Proof.Machine

/-! ### Scale pass and quantisation (R139) -/

def opScalePass (e : Env) (s : State) : State := e.measure (e.f2 0x08) s

/-- QUANTISE: L2OUT, when not zero, replaces DST's L2SCALE. -/
def opQuantise (e : Env) (s : State) : State :=
  let v := e.view s (e.f2 0x08)
  let d := e.f2 0x0A
  let s := if e.f4 0x0C = 0 then s
    else updPlan e.part e.handle (fun p => { p with tensors := setAt p.tensors d fun t => { t with l2 := e.bits 0x0C } }) s
  -- a NaN keeps its sign (R62)
  e.writeAll d (fun k => match v.full k with | .nan n => .nan n | x => if v.t.fmt = .aa128 then x else num32 (v.value k)) false s

/-! ### Rows along the innermost dimension -/

/-- Length of the innermost declared dimension, and rows. -/
def View.inner (v : View) : Nat := nth v.dims (v.t.ndim - 1) 1
def View.rowCount (v : View) : Nat := v.size / v.inner

/-- Element i of row r as binary32. -/
def View.cell (v : View) (r i : Nat) : F32 := v.value (r * v.inner + i)
def View.row (v : View) (r : Nat) : List F32 := (List.range v.inner).map (v.cell r)

/-- Bound exponent of a row's sequence (R115). -/
def View.rowBound (v : View) (r : Nat) : Int := v.bound (v.seq (r * v.inner))

def isNan32 (x : F32) : Bool := (num32 x).isNan

/-- Maximum of a list in the sense of R136, −infinity of none. -/
def fmaxList (l : List F32) : F32 := l.foldl fmax f32NegInf

/-- An optional vector operand, element i. -/
def Env.vec (e : Env) (s : State) (off i : Nat) : Option F32 :=
  if e.has off then some ((e.view s (e.f2 off)).value i) else none

/-- Bound exponent of an optional vector operand: its own, or 0 for the 1 that an absent one stands for. -/
def Env.vecBound (e : Env) (s : State) (off : Nat) : Int :=
  if e.has off then (e.view s (e.f2 off)).bound 0 else 0

/-- Multiply by an optional factor; an absent one is skipped. -/
def mulOpt (x : F32) : Option F32 → F32
  | some g => fmul x g
  | none => x

def addOpt (x : F32) : Option F32 → F32
  | some g => fadd x g
  | none => x

/-- ν = RECIP(n). -/
def nuOf (n : Nat) : F32 := fRecip (f32OfNat n)

/-! ### Normalisations and softmax (R134) -/

/-- r of RMSNORM for a row. -/
def rmsR (e : Env) (s : State) (v : View) (r : Nat) : F32 :=
  let x := v.row r
  let s2 := e.sum s (2 * r) (2 * v.rowBound r) v.inner (x.map fun t => fmul t t)
  fRsqrt (fadd (fmul s2 (nuOf v.inner)) (e.bits 0x14))

/-- μ and r of LAYERNORM for a row. -/
def layerMu (e : Env) (s : State) (v : View) (r : Nat) : F32 :=
  fmul (e.sum s (2 * r) (v.rowBound r) v.inner (v.row r)) (nuOf v.inner)
def layerR (e : Env) (s : State) (v : View) (r : Nat) : F32 :=
  let mu := layerMu e s v r
  let ds := (v.row r).map fun t => fsub t mu
  -- μ is a mean of the row, so its bound is the row's, and d has e_x + 1 (assumption 20)
  let s2 := e.sum s (2 * r + 1) (2 * (v.rowBound r + 1)) v.inner (ds.map fun t => fmul t t)
  fRsqrt (fadd (fmul s2 (nuOf v.inner)) (e.bits 0x14))

/-- Write a per-row result, a row with a NaN wholly NaN. -/
def Env.writeRows (e : Env) (out : Nat) (v : View) (f : Nat → Nat → F32) (s : State) : State :=
  let nan := (List.range v.rowCount).map fun r => (v.row r).any isNan32
  e.write32 out (fun k =>
    let r := k / v.inner
    if nth nan r false then f32NaN else f r (k % v.inner)) s

def opRmsnorm (e : Env) (s : State) : State :=
  let v := e.view s (e.f2 0x08)
  let rs := (List.range v.rowCount).map (rmsR e s v)
  let s' := e.writeRows (e.f2 0x0A) v (fun r i =>
    mulOpt (fmul (v.cell r i) (nth rs r f32NaN)) (e.vec s 0x0C i)) s
  if e.has 0x10 then e.write32 (e.f2 0x10) (fun r => nth rs r f32NaN) s' else s'

def opLayernorm (e : Env) (s : State) : State :=
  let v := e.view s (e.f2 0x08)
  let ms := (List.range v.rowCount).map (layerMu e s v)
  let rs := (List.range v.rowCount).map (layerR e s v)
  let s' := e.writeRows (e.f2 0x0A) v (fun r i =>
    addOpt (mulOpt (fmul (fsub (v.cell r i) (nth ms r f32NaN)) (nth rs r f32NaN)) (e.vec s 0x0C i)) (e.vec s 0x0E i)) s
  if e.has 0x10 then e.write32 (e.f2 0x10) (fun k => nth (if k % 2 = 0 then ms else rs) (k / 2) f32NaN) s' else s'

/-- z_i = RN(x_i × SCALE), the multiplication skipped when SCALE is exactly 1.0. -/
def scaled (sc x : F32) : F32 := if sc = f32One then x else fmul x sc

/-- Row maximum, weights and RN of their sum, of a softmax row. -/
structure SoftRow where
  z : List F32
  m : F32
  p : List F32
  l : F32

def softRow (e : Env) (s : State) (sc : F32) (v : View) (r : Nat) : SoftRow :=
  let z := (v.row r).map (scaled sc)
  let m := fmaxList z
  let p := z.map fun x => fExp (fsub x m)
  ⟨z, m, p, e.sum s r 1 v.inner p⟩

def opSoftmax (e : Env) (s : State) : State :=
  let v := e.view s (e.f2 0x08)
  let rows := (List.range v.rowCount).map fun r =>
    let x := softRow e s (e.bits 0x18) v r
    let ri := fRecip x.l
    if x.z.any isNan32 || x.m = f32Inf then (x.z.map fun _ => f32NaN) else x.p.map fun p => fmul p ri
  e.write32 (e.f2 0x0A) (fun k => nth (nth rows (k / v.inner) []) (k % v.inner) f32NaN) s

/-! ### Element-wise chains (R135, R136) -/

/-- One micro-operation's function of its sources and the present destination register. -/
def uopFn (fn : Nat) (a b d : F32) : F32 :=
  match fn with
  | 0x01 => fadd a b
  | 0x02 => fsub a b
  | 0x03 => fmul a b
  | 0x04 => fmin a b
  | 0x05 => fmax a b
  | 0x06 => fRecip a
  | 0x07 => fRsqrt a
  | 0x08 => fLog a
  | 0x09 => fExp a
  | 0x0A => fTanh a
  | 0x0B => fSilu a
  | 0x0C => fGelu a
  | 0x0D => fabs a
  | 0x0E => fneg a
  | 0x0F => fcopy a
  | 0x10 => fDtanh a
  | 0x11 => fDsilu a
  | 0x12 => fDgelu a
  | _ => ffma a b d

/-- Index into a broadcast input of the element at logical index `k` of the output (both as four extents). -/
def broadcastIdx (src out : List Nat) (k : Nat) : Nat :=
  (List.range 4).foldl (fun acc d =>
    let n := nth src d 1
    acc * n + (if n = 1 then 0 else k / prod (out.drop (d + 1)) % nth out d 1)) 0

/-- Run the chain for one output element: the four inputs, the constants. -/
def runChain (us : List (List Byte)) (t c0 c1 : Nat → F32) : F32 :=
  let src := fun (v : List F32) (n : Nat) =>
    if n ≤ 3 then nth v n f32Zero else if n ≤ 7 then t (n - 4) else if n = 8 then c0 0 else c1 0
  let v := us.foldl (fun (v : List F32) u =>
    let d := fld u 1 1
    setAt v d fun old => uopFn (fld u 0 1) (src v (fld u 2 1)) (src v (fld u 3 1)) old) (List.replicate 4 f32Zero)
  nth v 0 f32Zero

/-- Declared extents brought to four dimensions. -/
def View.four (v : View) : List Nat := (leadTo 4 (v.dims.take v.t.ndim)).getD [1, 1, 1, 1]

def opEltwise (e : Env) (s : State) : State :=
  let out := e.f2 0x10
  let o := (e.view s out).four
  let ins := [0x08, 0x0A, 0x0C, 0x0E].map fun off => if e.has off then some (e.view s (e.f2 off)) else none
  let us := (chunks 4 8 (slice e.raw 0x14 32)).take (e.f1 0x12)
  e.write32 out (fun k => runChain us
    (fun n => match nth ins n none with | some v => v.value (broadcastIdx v.four o k) | none => f32Zero)
    (fun _ => e.bits 0x34) (fun _ => e.bits 0x38)) s

/-! ### Scan (R130) -/

/-- The states of one channel in the order of t. -/
def scanChain (a x : Nat → F32) : Nat → Nat → F32 → List F32
  | 0, _, _ => []
  | n + 1, t, h => let h' := ffma (a t) h (x t); h' :: scanChain a x n (t + 1) h'

def opScan (e : Env) (s : State) : State :=
  let a := e.view s (e.f2 0x08)
  let x := e.view s (e.f2 0x0A)
  let l := (leadTo 3 (a.dims.take a.t.ndim)).getD [1, 1, 1]
  let t := nth l 1 1
  let c := nth l 2 1
  let rev := e.f1 0x10 % 2 = 1
  let last := e.f1 0x10 / 2 % 2 = 1
  -- place of step t in the tensor
  let at' : Nat → Nat → Nat → Nat := fun b ch i => (b * t + (if rev then t - 1 - i else i)) * c + ch
  let chain := fun (b ch : Nat) =>
    scanChain (fun i => a.value (at' b ch i)) (fun i => x.value (at' b ch i)) t 0
      (match e.vec s 0x0C (b * c + ch) with | some h => h | none => f32Zero)
  let hs := (List.range (nth l 0 1 * c)).map fun j => chain (j / c) (j % c)
  e.write32 (e.f2 0x0E) (fun k =>
    if last then (nth hs k []).getLastD f32Zero
    else
      let ch := k % c
      let i := k / c % t
      nth (nth hs (k / (c * t) * c + ch) []) (if rev then t - 1 - i else i) f32Zero) s

/-! ### Selection and ordering (R128, R129) -/

/-- a ranks before b: NaN after every number, equal keys by index. `down` puts larger values first. -/
def rankBefore (down : Bool) (a b : Num × Nat) : Bool :=
  if a.1.isNan then b.1.isNan && a.2 < b.2
  else if b.1.isNan then true
  else
    let lt := Num.lt a.1 b.1
    let gt := Num.lt b.1 a.1
    if lt then !down else if gt then down else a.2 < b.2

/-- Indices in rank order. -/
def rankOrder (down : Bool) (xs : List Num) : List Nat :=
  (sortBy (rankBefore down) xs.zipIdx).map (·.2)

/-- TOPK: SMALLEST reverses the order of numbers. -/
def opTopk (e : Env) (s : State) : State :=
  let v := e.view s (e.f2 0x08)
  let k := e.f4 0x10
  let n := v.inner
  let down := e.f1 0x14 % 2 = 0
  let rows := (List.range v.rowCount).map fun r =>
    (rankOrder down ((List.range n).map fun i => v.full (r * n + i))).take k
  let s' := e.putIndex 0x0E rows.flatten s
  if e.has 0x0C then
    e.writeAll (e.f2 0x0C) (fun j => num32 (v.value (j / k * n + nth (nth rows (j / k) []) (j % k) 0))) false s'
  else s'

/-- Copy element codes (and, for whole blocks, scales) to the places given: code of the destination element. -/
def Env.writeCodes (e : Env) (i : Nat) (codes : List (Nat × Nat)) (s : State) : State :=
  let t := e.tensor s i
  let dims := e.dims t
  e.writePlane i false (codes.flatMap fun c => codeCells t.fmt.bits (storeIdx t dims c.1) [c.2]) s

/-- The counts that copied elements leave in a health record. -/
def codeCounts (t : Tensor) (codes : List Nat) : Counts :=
  codes.foldl (fun c x =>
    let v := t.fmt.value x
    match v with
    | .fin _ n _ => if n = 0 then c.add .zero else
        (match elemExp t x with | some y => (c.add .plain).min y | none => c.add .plain)
    | _ => c.add .nonfinite) Counts.zero

/-- SORT on tensor keys or on U32 keys. -/
def opSort (e : Env) (s : State) : State :=
  let down := e.f1 0x14 % 2 = 1
  if e.has 0x08 then
    let v := e.view s (e.f2 0x08)
    let n := v.inner
    let rows := (List.range v.rowCount).map fun r => rankOrder down ((List.range n).map fun i => v.exact (r * n + i))
    let codes := (List.range v.size).map fun j => v.code (j / n * n + nth (nth rows (j / n) []) (j % n) 0)
    let out := e.f2 0x0C
    let s' := e.writeCodes out (codes.zipIdx.map fun x => (x.2, x.1)) s
    e.health out (codeCounts v.t codes) false (e.measure out (e.putIndex 0x0E rows.flatten s'))
  else
    let a := e.index s (e.f2 0x0A)
    let keys := (List.range a.count).map (indexGet s a)
    let ord := rankOrder down (keys.map Num.ofNat)
    e.putIndex 0x0E ord (e.putIndex 0x0C (ord.map fun i => nth keys i 0) s)

/-! ### Sampling (R137, R138) -/

/-- Running sums of integers. -/
def prefixSums : Int → List Int → List Int
  | _, [] => []
  | a, x :: xs => (a + x) :: prefixSums (a + x) xs

/-- The integer of a weight at E = 1, the sum's widening included (R55). -/
def weightInt (n : Nat) (p : F32) : Int := ((floorTerm (1 + widen n) (num32 p)).getD 0)

/-- What a row of SAMPLE yields: token, log-probability, and whether the row counts as bad. -/
def sampleRow (e : Env) (s : State) (v : View) (r : Nat) : Nat × F32 × Bool :=
  let n := v.inner
  let seed := BitVec.ofNat 64 (e.idx s 0x0A (4 * r))
  let pos := BitVec.ofNat 64 (e.idx s 0x0A (4 * r + 1))
  let w2 := e.idx s 0x0A (4 * r + 2)
  let tau : F32 := BitVec.ofNat 32 w2
  let topP : F32 := BitVec.ofNat 32 (w2 / 2 ^ 32)
  let topK := e.idx s 0x0A (4 * r + 3) % 2 ^ 32
  let logits := (List.range n).map (v.cell r)
  let fin : List Nat := (List.range n).filter fun j => f32Finite (nth logits j f32NaN)
  match fin with
  | [] => (0xFFFFFFFF, f32NaN, true)
  | _ =>
    let greedy := !(Num.lt Num.zero (num32 tau) && f32Finite tau)
    let rt := fRecip tau
    let z : Nat → F32 := fun j =>
      let x := nth logits j f32NaN
      if greedy ∨ tau = f32One then x else fmul x rt
    -- candidates: the top_k largest z under R129, or every finite index
    let ranked := sortBy (rankBefore true) (fin.map fun j => (num32 (z j), j))
    let cand := if 1 ≤ topK ∧ topK < n then (ranked.take topK).map (·.2) else fin
    let m := fmaxList (cand.map z)
    let ps := cand.map fun j => (j, fExp (fsub (z j) m))
    let l := if opFast e.raw then Config.fastSum (e.fastKey s r) (ps.map (·.2)) else vsum 1 n (ps.map (·.2))
    let order := sortBy (fun a b => Num.lt (num32 b.2) (num32 a.2) || (!Num.lt (num32 a.2) (num32 b.2) && a.1 < b.1)) ps
    let ints := order.map fun x => weightInt n x.2
    let sums := prefixSums 0 ints
    let theta := fmul topP l
    let cut := Num.lt Num.zero (num32 topP) && Num.lt (num32 topP) Num.one
    let kept := if cut then
        match sums.findIdx? fun i => Num.le (num32 theta) (accNum (1 + widen n) (some i)) with
        | some k => k + 1
        | none => order.length
      else order.length
    let total := (ints.take kept).sum
    let u := (draw32 (seed + pos) v.t.id 0 0).toNat
    let tok := if greedy then (match ranked with | x :: _ => x.2 | [] => 0)
      else match sums.findIdx? fun i => decide ((u : Int) * total < 2 ^ 32 * i) with
        | some k => (nth order k (0, f32Zero)).1
        | none => 0
    (tok, fsub (fsub (z tok) m) (fLog l), false)

def opSample (e : Env) (s : State) : State :=
  let v := e.view s (e.f2 0x08)
  let rows := (List.range v.rowCount).map (sampleRow e s v)
  let s := e.note noteRange (rows.filter (·.2.2)).length s
  let s := e.putIndex 0x0C (rows.map (·.1)) s
  if e.has 0x0E then e.putIndex 0x0E (rows.map fun x => x.2.1.toNat) s else s

end Sys2Proof.Machine
end

