-- ==== Sys2Proof/Machine/OpsAttn.lean ====
section
/-! DEFINITION. Attention on the canopy and over cache pages (R120 to R123, R210 to R213), and the backward
variant of the canopy form (R145). -/
namespace Sys2Proof.Machine

/-! ### One query row (R122) -/

/-- Where keys and values of one batch row come from: how many positions, which of them this device holds, the elements,
their maxima, K constants and second-level scales, and whether V is CB8. -/
structure AttnSrc where
  len : Nat
  holds : Nat → Bool
  key : Nat → Nat → Nat → Num
  val : Nat → Nat → Nat → Num
  kmax : Int
  vmax : Int
  kK : Int
  vK : Int
  kl2 : Num
  vl2 : Num
  cb8 : Bool

/-- The visibility rule of R121 for a query at position `p` and key `j`. -/
def visible (causal : Bool) (window p j : Nat) : Bool :=
  (!causal || decide (j ≤ p)) && (window = 0 || decide (p < j + window))

/-- Weights converted in blocks of 32 positions (R122 step 4). -/
def convWeights (cb8 : Bool) (ps : List F32) : List Num :=
  if cb8 then
    (chunks 32 (ceilDiv ps.length 32) ps).flatMap fun c =>
      let b := toBlock .cb8 (c.map num32 ++ List.replicate (32 - c.length) Num.zero)
      (b.2.1.map fun x => cbVal x b.1).take c.length
  else ps.map fun p => Fmt.bf16.value (toBinary .bf16 (num32 p)).1

/-- MAXEXP of the converted weights plus their K. -/
def weightBound (cb8 : Bool) : Int := if cb8 then -8 + Fmt.cb8.k else 0 + Fmt.bf16.k

/-- What a query row needs beside its source. -/
structure AttnRow where
  /-- Row number in [B, T, HQ] order, for free values and for partials of other devices. -/
  row : Nat
  q : Nat → Num
  qmax : Int
  qK : Int
  ql2 : Num
  d : Nat
  head : Nat
  pos : Nat
  scale : F32
  causal : Bool
  window : Nat
  fast : Bool
  /-- What a fast reduction of the row may depend on beside its terms. -/
  key : List Nat

def AttnRow.sees (r : AttnRow) (j : Nat) : Bool := visible r.causal r.window r.pos j

/-- s_j of R122 step 1 for a visible key. -/
def AttnRow.score (r : AttnRow) (a : AttnSrc) (j : Nat) : F32 :=
  let ps := (List.range r.d).map fun i => Num.mul (r.q i) (a.key j r.head i)
  if r.fast then fmul r.scale (Config.fastSum (r.key ++ [0, j]) (ps.map rn))
  else
    let base := r.qmax + r.qK + a.kmax + a.kK
    let x := accSum base r.d ps
    fmul r.scale (rn (Num.mul (accNum x.1 x.2) (Num.mul r.ql2 a.kl2)))

/-- Scores of the positions this device holds, −infinity where not visible. -/
def AttnRow.scores (r : AttnRow) (a : AttnSrc) : List F32 :=
  (List.range a.len).map fun j => if a.holds j && r.sees j then r.score a j else f32NegInf

/-- Weights of the positions held, converted: +0 elsewhere. -/
def AttnRow.weights (r : AttnRow) (a : AttnSrc) (ss : List F32) (m : F32) : List Num :=
  convWeights a.cb8 (ss.zipIdx.map fun x => if a.holds x.2 && r.sees x.2 then fExp (fsub x.1 m) else f32Zero)

/-- L at its anchor. -/
def AttnRow.denom (a : AttnSrc) (ws : List Num) : Int × Acc := accSum 1 a.len ws

/-- A_d at its anchor. -/
def AttnRow.numer (r : AttnRow) (a : AttnSrc) (ws : List Num) (d : Nat) : Int × Acc :=
  accSum (weightBound a.cb8 + a.vmax + a.vK) a.len
    (ws.zipIdx.map fun x => if a.holds x.2 then Num.mul x.1 (a.val x.2 r.head d) else Num.zero)

/-- o_0 to o_{D−1} and LSE of a query row, `others` being what the other devices of a spanning cache send. -/
def AttnRow.run (r : AttnRow) (a : AttnSrc) (others : List AttnPartial) : List F32 × F32 :=
  if (List.range a.len).all fun j => !r.sees j then (List.replicate r.d f32Zero, f32NegInf)
  else
    let ss := r.scores a
    let m := fmaxList (ss ++ others.map (·.max))
    let ws := r.weights a ss m
    let l := AttnRow.denom a ws
    let l := others.foldl (fun x o => accAdd x o.l) l.2 |> fun x => rn (accNum l.1 (accFit x))
    let l := if r.fast then Config.fastSum (r.key ++ [1]) (l :: ws.map rn) else l
    let ri := fRecip l
    let o := (List.range r.d).map fun d =>
      let n := r.numer a ws d
      let x := others.foldl (fun x o => accAdd x (nth o.a d (some 0))) n.2
      let v := rn (Num.mul (accNum n.1 (accFit x)) a.vl2)
      fmul (if r.fast then Config.fastSum (r.key ++ [2, d])
        (v :: (ws.zipIdx.map fun x => rn (Num.mul x.1 (a.val x.2 r.head d)))) else v) ri
    (o, fadd m (fLog l))

/-! ### The operators -/

/-- Extents B, T, HQ, D of Q. -/
structure AttnDims where
  b : Nat
  t : Nat
  hq : Nat
  d : Nat
  hkv : Nat

def Env.attnDims (e : Env) (v : View) : AttnDims :=
  let l := v.four
  ⟨nth l 0 1, nth l 1 1, nth l 2 1, nth l 3 1, e.f2 0x16⟩

/-- Row of Q at (b, t, h). -/
def Env.attnRow (e : Env) (s : State) (v : View) (x : AttnDims) (row : Nat) : AttnRow :=
  let b := row / (x.t * x.hq)
  { row := row
    q := fun i => v.lattice (row * x.d + i)
    qmax := v.maxFor b, qK := v.t.fmt.k, ql2 := v.l2, d := x.d
    head := row % x.hq / (x.hq / x.hkv)
    pos := e.idx s 0x12 b + row / x.hq % x.t
    scale := e.bits 0x18, causal := e.f1 0x20 % 2 = 1, window := e.f4 0x1C
    fast := opFast e.raw, key := e.fastKey s row }

/-- Write O and LSE. -/
def Env.writeAttn (e : Env) (x : AttnDims) (bound : Bool) (rows : List (List F32 × F32)) (s : State) : State :=
  let s' := e.writeAll (e.f2 0x0E) (fun k => num32 (nth (nth rows (k / x.d) ([], f32NaN)).1 (k % x.d) f32NaN)) bound s
  if e.has 0x10 then e.writeAll (e.f2 0x10) (fun k => num32 (nth rows k ([], f32NegInf)).2) bound s' else s'

/-- Keys and values of batch row b of the canopy form. -/
def canopySrc (k v : View) (b : Nat) : AttnSrc :=
  let l := k.four
  let n := nth l 1 1
  let h := nth l 2 1
  let d := nth l 3 1
  let at' : Nat → Nat → Nat → Nat := fun j g i => ((b * n + j) * h + g) * d + i
  { len := n, holds := fun _ => true, key := fun j g i => k.lattice (at' j g i), val := fun j g i => v.lattice (at' j g i)
    kmax := k.maxFor b, vmax := v.maxFor b, kK := k.t.fmt.k, vK := v.t.fmt.k, kl2 := k.l2, vl2 := v.l2
    cb8 := v.t.fmt.isBlock }

def opAttnCanopy (e : Env) (s : State) : State :=
  let q := e.view s (e.f2 0x08)
  let k := e.view s (e.f2 0x0A)
  let v := e.view s (e.f2 0x0C)
  let x := e.attnDims q
  let above := overAll q + overAll k + overAll v
  let rows := (List.range (x.b * x.t * x.hq)).map fun r =>
    (e.attnRow s q x r).run (canopySrc k v (r / (x.t * x.hq))) []
  e.writeAttn x (above ≠ 0) rows (e.note noteBound above (e.clearLattices s))

/-! #### Over cache pages -/

/-- The cache an operator names at an offset, with its partition. -/
def Env.cache (e : Env) (s : State) (off : Nat) : Option (Partition × Cache) :=
  (findPart s e.part).bind fun p => (p.cache (e.bits off)).map fun c => (p, c)

/-- Keys and values of a cache sequence's layer. -/
def cacheSrc (s : State) (part : BitVec 4) (p : Partition) (c : Cache) (r : LayerRec) : AttnSrc :=
  let x := c.spread s part
  let f : Fmt := if c.bf16 then .bf16 else .cb8
  { len := r.length, holds := x.holds
    key := fun j g i => keyNum s p c r (x.ordinal j) g i
    val := fun j g i => valNum s p c r (x.ordinal j) g i
    kmax := r.kmax, vmax := r.vmax, kK := f.k, vK := f.k, kl2 := Num.one, vl2 := Num.one, cb8 := !c.bf16 }

/-- Sequence of batch row b. -/
def Env.cacheSeq (e : Env) (s : State) (off b : Nat) : Nat := e.idx s off b

/-- One byte of every 32 that the present positions of a sequence's layer take up in their pages. -/
def LayerRec.marks (p : Partition) (c : Cache) (r : LayerRec) (held : Nat) : List Nat :=
  if c.bf16 then
    (List.range held).flatMap fun q => (List.range (c.unitBytes / 32)).map fun k => cacheAddr p c r q (32 * k)
  else
    ((List.range held).flatMap fun q => (List.range c.hl).flatMap fun h => (List.range (c.d / 32)).flatMap fun k =>
      [cacheAddr p c r q (c.keyOff h (q % 32) (32 * k)), cacheAddr p c r q (c.keyScaleOff h (q % 32) k)]) ++
    (List.range (ceilDiv held 32)).flatMap fun b => (List.range c.hl).flatMap fun h =>
      ((List.range c.d).map fun d => cacheAddr p c r (32 * b) (c.valOff h 0 d)) ++
      ((List.range (c.d / 32)).map fun k => cacheAddr p c r (32 * b) (c.valScaleOff h (32 * k)))

/-- Addresses in the lines of the pages that the operator reads. -/
def clearingReads (e : Env) (s : State) : List Nat :=
  match e.cache s 0x24 with
  | none => []
  | some (p, c) =>
    let x := e.attnDims (e.view s (e.f2 0x08))
    (((List.range x.b).map (e.cacheSeq s 0x2A)).eraseDups.filter c.isOpen).flatMap fun q =>
      let r := c.layerRec q (e.f2 0x28)
      r.marks p c ((c.spread s e.part).held r.length)

/-- A KV_SCATTER of the plan on the same layer of the same cache that names the sequence and has no path of edges to or from the
operator: the output for that sequence is undefined (R146). -/
def unordered (e : Env) (s : State) (seq : Nat) : Bool :=
  let q := e.plan s
  q.ops.zipIdx.any fun x =>
    opCode x.1 = 0x22 && fld x.1 0x10 4 = e.f4 0x24 && fld x.1 0x14 2 = e.f2 0x28
      && !hasPath q.edges x.2 e.op && !hasPath q.edges e.op x.2
      && (let a := e.index s (fld x.1 0x0C 2)
          (List.range a.count).any fun i => indexGet s a i = seq)

/-- Devices that share the cache's positions, this one apart. -/
def otherHolders (s : State) (part : BitVec 4) (c : Cache) : Nat := (c.spread s part).g - 1

/-- ATTN_CLEARING. A row whose sequence is closed reads no cache record and counts (R239); rows of a POSITION cache wait until every
other member has sent its part. -/
def opAttnClearing (others : List AttnPartial) (e : Env) (s : State) : State :=
  match e.cache s 0x24 with
  | none => s
  | some (p, c) =>
    let q := e.view s (e.f2 0x08)
    let x := e.attnDims q
    let layer := e.f2 0x28
    let seqOf : Nat → Nat := fun b => e.cacheSeq s 0x2A b
    let bad := ((List.range x.b).filter fun b => !c.isOpen (seqOf b)).length
    let above := overAll q
    let rows := (List.range (x.b * x.t * x.hq)).map fun r =>
      let sq := seqOf (r / (x.t * x.hq))
      if !c.isOpen sq then (List.replicate x.d f32Zero, f32NegInf)
      else if unordered e s sq then
        ((List.range x.d).map fun d => Config.freeWord s.draw (r * (x.d + 1) + d), Config.freeWord s.draw (r * (x.d + 1) + x.d))
      else (e.attnRow s q x r).run (cacheSrc s e.part p c (c.layerRec sq layer)) (others.filter fun o => o.row = r)
    e.writeAttn x (above ≠ 0) rows (e.note noteRange bad (e.note noteBound above s))

/-- Whether every other member's part has arrived. -/
def clearingReady (others : List AttnPartial) (e : Env) (s : State) : Bool :=
  match e.cache s 0x24 with
  | none => true
  | some (_, c) =>
    let x := e.attnDims (e.view s (e.f2 0x08))
    let g := otherHolders s e.part c
    g = 0 || (List.range (x.b * x.t * x.hq)).all fun r =>
      !c.isOpen (e.cacheSeq s 0x2A (r / (x.t * x.hq))) || (others.filter fun o => o.row = r).length = g

/-! ### The backward variant (R145) -/

/-- RN of a dot product whose operands are re-blocked along the reduction, their maxima taken over the batch row given. -/
def bwdDot (fast : Bool) (key : List Nat) (fa fb : Fmt) (ma mb : Int) (scale : Num) (xs ys : List Num) : F32 :=
  let ps := List.zipWith Num.mul xs ys
  if fast then rn (Num.mul (num32 (Config.fastSum key (ps.map rn))) scale)
  else
    let r := accSum (ma + fa.k + mb + fb.k) xs.length ps
    rn (Num.mul (accNum r.1 r.2) scale)

/-- Everything of one batch row of the backward pass. -/
structure AttnBack where
  t : Nat
  n : Nat
  hq : Nat
  hkv : Nat
  d : Nat
  gf : Fmt
  fast : Bool
  key : List Nat
  /-- p_j and dS_j for (t, h, j). -/
  p : Nat → Nat → Nat → F32
  ds : Nat → Nat → Nat → F32
  q : Nat → Nat → Nat → Num
  k : Nat → Nat → Nat → Num
  dout : Nat → Nat → Nat → Num
  qf : Fmt
  kf : Fmt

/-- DQ at (t, h, d): RN of SCALE × RN(Σ_j dS_j × k_j). -/
def AttnBack.dq (x : AttnBack) (scale : F32) (kl2 : Num) (salt t h d : Nat) : F32 :=
  let rows := (List.range x.t).flatMap fun t => (List.range x.hq).map fun h =>
    (List.range x.n).map fun j => num32 (x.ds t h j)
  let cols := (List.range x.hkv).flatMap fun g => (List.range x.d).map fun i =>
    (List.range x.n).map fun j => x.k j g i
  let xs := (List.range x.n).map fun j => num32 (x.ds t h j)
  let ys := (List.range x.n).map fun j => x.k j (h / (x.hq / x.hkv)) d
  fmul scale (bwdDot x.fast (x.key ++ [salt]) x.gf x.kf (reblockMax x.gf rows) (reblockMax x.kf cols) kl2
    (reblock x.gf xs).1 (reblock x.kf ys).1)

/-- The reduction of DK and DV: (query head within the group) × T + t. -/
def AttnBack.overRows (x : AttnBack) (g : Nat) (f : Nat → Nat → Num) : List Num :=
  (List.range (x.hq / x.hkv)).flatMap fun i => (List.range x.t).map fun t => f t (g * (x.hq / x.hkv) + i)

/-- DK at (j, g, d). -/
def AttnBack.dk (x : AttnBack) (scale : F32) (ql2 : Num) (salt j g d : Nat) : F32 :=
  let ma := reblockMax x.gf ((List.range x.hkv).flatMap fun g => (List.range x.n).map fun j =>
    x.overRows g fun t h => num32 (x.ds t h j))
  let mb := reblockMax x.qf ((List.range x.hkv).flatMap fun g => (List.range x.d).map fun i =>
    x.overRows g fun t h => x.q t h i)
  fmul scale (bwdDot x.fast (x.key ++ [salt]) x.gf x.qf ma mb ql2
    (reblock x.gf (x.overRows g fun t h => num32 (x.ds t h j))).1
    (reblock x.qf (x.overRows g fun t h => x.q t h d)).1)

/-- DV at (j, g, d). -/
def AttnBack.dv (x : AttnBack) (salt j g d : Nat) : F32 :=
  let ma := reblockMax x.gf ((List.range x.hkv).flatMap fun g => (List.range x.n).map fun j =>
    x.overRows g fun t h => num32 (x.p t h j))
  let mb := reblockMax x.gf ((List.range x.hkv).flatMap fun g => (List.range x.d).map fun i =>
    x.overRows g fun t h => x.dout t h i)
  bwdDot x.fast (x.key ++ [salt]) x.gf x.gf ma mb Num.one
    (reblock x.gf (x.overRows g fun t h => num32 (x.p t h j))).1
    (reblock x.gf (x.overRows g fun t h => x.dout t h d)).1

/-- ATTN_CANOPY_BWD: gradients of batch row b. Operand views are indexed [B, T or S, heads, D]. -/
def attnBack (e : Env) (s : State) (b : Nat) : AttnBack :=
  let q := e.view s (e.f2 0x08)
  let k := e.view s (e.f2 0x0A)
  let v := e.view s (e.f2 0x0C)
  let o := e.view s (e.f2 0x0E)
  let dout := e.view s (e.f2 0x10)
  let lse := e.view s (e.f2 0x12)
  let t := nth q.four 1 1
  let n := nth k.four 1 1
  let hq := nth q.four 2 1
  let hkv := nth k.four 2 1
  let d := nth q.four 3 1
  let gf : Fmt := if e.f1 0x29 = 0x02 then .cb8e5 else .bf16
  let qi : Nat → Nat → Nat → Nat := fun t' h i => ((b * t + t') * hq + h) * d + i
  let ki : Nat → Nat → Nat → Nat := fun j g i => ((b * n + j) * hkv + g) * d + i
  let fast := opFast e.raw
  let src := canopySrc k v b
  let row : Nat → Nat → AttnRow := fun t' h =>
    { row := (b * t + t') * hq + h, q := fun i => q.lattice (qi t' h i), qmax := q.maxFor b, qK := q.t.fmt.k, ql2 := q.l2,
      d := d, head := h / (hq / hkv), pos := e.idx s 0x1A b + t', scale := e.bits 0x20, causal := e.f1 0x28 % 2 = 1,
      window := e.f4 0x24, fast := fast, key := e.fastKey s ((b * t + t') * hq + h) }
  let p : Nat → Nat → Nat → F32 := fun t' h j =>
    let r := row t' h
    if r.sees j then fExp (fsub (r.score src j) (lse.value ((b * t + t') * hq + h))) else f32Zero
  let doN : Nat → Nat → Nat → Num := fun t' h i => num32 (dout.value (qi t' h i))
  let doMax := reblockMax gf ((List.range t).flatMap fun t' => (List.range hq).map fun h =>
    (List.range d).map fun i => doN t' h i)
  let vMax := reblockMax v.t.fmt ((List.range n).flatMap fun j => (List.range hkv).map fun g =>
    (List.range d).map fun i => v.lattice (ki j g i))
  let delta : Nat → Nat → F32 := fun t' h =>
    let ts := (List.range d).map fun i => fmul (dout.value (qi t' h i)) (o.value (qi t' h i))
    e.sum s (5 * ((b * t + t') * hq + h)) (dout.bound b + o.bound b) d ts
  let dp : Nat → Nat → Nat → F32 := fun t' h j =>
    bwdDot fast (e.fastKey s (5 * (((b * t + t') * hq + h) * n + j) + 1)) gf v.t.fmt doMax vMax v.l2
      (reblock gf ((List.range d).map fun i => doN t' h i)).1
      (reblock v.t.fmt ((List.range d).map fun i => v.lattice (ki j (h / (hq / hkv)) i))).1
  { t := t, n := n, hq := hq, hkv := hkv, d := d, gf := gf, fast := fast, key := e.fastKey s b
    p := p
    ds := fun t' h j => fmul (p t' h j) (fsub (dp t' h j) (delta t' h))
    q := fun t' h i => q.lattice (qi t' h i)
    k := fun j g i => k.lattice (ki j g i)
    dout := doN, qf := q.t.fmt, kf := k.t.fmt }

/-- ATTN_CANOPY_BWD. How blocks lie along the second reductions and over what their maxima are taken the spec does not say
(assumption 31). -/
def opAttnBwd (e : Env) (s : State) : State :=
  let q := e.view s (e.f2 0x08)
  let k := e.view s (e.f2 0x0A)
  let v := e.view s (e.f2 0x0C)
  let x := (List.range (nth q.four 0 1)).map (attnBack e s)
  let sc := e.bits 0x20
  let above := overAll q + overAll k + overAll v
  let s0 := e.note noteBound above (e.clearLattices s)
  let back : Nat → AttnBack := fun b => nth x b (attnBack e s b)
  let split : View → Nat → Nat × Nat × Nat × Nat := fun v i =>
    let l := v.four
    (i / (nth l 1 1 * nth l 2 1 * nth l 3 1), i / (nth l 2 1 * nth l 3 1) % nth l 1 1, i / nth l 3 1 % nth l 2 1, i % nth l 3 1)
  let s1 := e.writeAll (e.f2 0x14) (fun i =>
    let c := split q i
    num32 ((back c.1).dq sc k.l2 (5 * i + 2) c.2.1 c.2.2.1 c.2.2.2)) (above ≠ 0) s0
  let s2 := e.writeAll (e.f2 0x16) (fun i =>
    let c := split k i
    num32 ((back c.1).dk sc q.l2 (5 * i + 3) c.2.1 c.2.2.1 c.2.2.2)) (above ≠ 0) s1
  e.writeAll (e.f2 0x18) (fun i =>
    let c := split k i
    num32 ((back c.1).dv (5 * i + 4) c.2.1 c.2.2.1 c.2.2.2)) (above ≠ 0) s2

end Sys2Proof.Machine
end

