-- ==== Sys2Proof/Machine/CmdClearing.lean ====
section
/-! DEFINITION. The near-bank units: modes, slices and boundaries (R203, R204, R209), the two passes of a task (R210, R211),
mismatches (R216), self-tests and failed units (R220), and the commands of the clearing layers (R221 to R225). -/
namespace Sys2Proof.Machine

/-! ### Units and their channels (R201) -/

/-- Clearing logical layer and first core column of a unit. -/
def unitLayer (u : Nat) : Nat := 16 + u / 65536
def unitColumn (u : Nat) : Nat := 16 * (u % 65536)

/-- The partition that owns a unit's columns. -/
def unitOwner (s : State) (u : Nat) : Option Partition := ownerOf s (tractOfCore (unitColumn u))

/-- All 16 segments of a channel belong to one computable region (R204). -/
def computable (s : State) (u : Nat) : Bool :=
  match unitOwner s u with
  | none => false
  | some p => p.regions.any fun r => r.kind = 2 && (List.range 16).all fun i =>
      (r.offset (mkAddr (unitLayer u) (unitColumn u + i) 0)).isSome

/-- A UNIT_STATE record (R411). -/
def unitStateCode : UnitState → Nat
  | .inService => 0 | .untested => 1 | .testing => 2 | .failed => 3

def recordUnit (u : Nat) (s : State) : State :=
  record 0x06 0x21 1 ((unitOwner s u).map (·.num)) (toLE 4 u ++ toLE 1 (unitStateCode (findUnit s u).state)) s

/-! ### Failed units and their pages (R220, R245) -/

/-- Pages that lie in a unit's channel: partition, cache, sequence, layer, index. -/
def pagesOn (s : State) (u : Nat) : List (BitVec 4 × U32 × Nat × Nat × Nat) :=
  s.partitions.flatMap fun x => x.caches.flatMap fun c => c.layers.flatMap fun r =>
    (r.pages.zipIdx.filter fun e => !e.1.root && e.1.loc / 1024 = u).map fun e => (x.num, c.handle, r.seq, r.layer, e.2)

/-- Give a page of a channel a place elsewhere: POOL channels with IN_SERVICE units first, then SPILLREG. -/
def moveAway (u : Nat) (a : BitVec 4 × U32 × Nat × Nat × Nat) (s : State) : State :=
  match (findPart s a.1).bind fun x => (x.cache a.2.1).map fun c => (x, c) with
  | none => s
  | some (x, c) =>
    let units := (poolUnits s x c).filter fun v => v ≠ u && (findUnit s v).state = .inService
    let place := match choosePage s c units a.2.2.1 with
      | some l => some (false, l)
      | none => (freeRoot x c c.used).head?.map fun l => (true, l)
    let r := c.layerRec a.2.2.1 a.2.2.2.1
    match place with
    | none => updUnit u (fun v => { v with stranded := true }) s
    | some w => updCache a.1 a.2.1 (fun c => c.putLayer { r with
        pages := setAt r.pages a.2.2.2.2 fun e => if e.moving.isSome then e else { e with moving := some w, restart := false } }) s

/-- Start the migration of a channel's pages. -/
def leaveUnit (u : Nat) (s : State) : State :=
  (pagesOn s u).foldl (fun s a => moveAway u a s) (updUnit u (fun v => { v with migrating := true }) s)

/-- A unit becomes FAILED: memory mode, its pages migrated, its tasks left to the canopy. -/
def failUnit (u : Nat) (s : State) : State :=
  let s := updUnit u (fun v => { v with
    state := .failed, processor := false, work := none, waitingTasks := [], repairing := [], migrating := true }) s
  let s := settleReserve (recordUnit u s)
  match unitOwner s u with
  | some p => enqueue (some p.num) (.migrate u) (lastRecord s) s
  | none => updUnit u (fun v => { v with migrating := false }) s

/-- Switch a page to its copy, unless a step of its context runs (R244). -/
def switchIdle (a : BitVec 4 × U32 × Nat × Nat × Nat) (s : State) : State :=
  match (findPart s a.1).bind fun x => (x.cache a.2.1).map fun c => (x, c) with
  | none => s
  | some (x, c) =>
    if (x.context c.ctx.toNat).step.isSome then s else switchPage a.1 a.2.1 a.2.2.1 a.2.2.2.1 a.2.2.2.2 s

/-- UNIT_MIGRATION_DONE: pages that have a copy are switched; those that have nowhere to go stay. The migration ends when no
page of the channel still moves. -/
def unitMigrated (u : Nat) (s : State) : State :=
  let s := (pagesOn s u).foldl (fun s a => switchIdle a s) s
  let moving := (pagesOn s u).any fun a =>
    match (findPart s a.1).bind fun x => x.cache a.2.1 with
    | some c => (nth (c.layerRec a.2.2.1 a.2.2.2.1).pages a.2.2.2.2 PageEntry.none).moving.isSome
    | none => false
  if moving then s
  else
    let s := settleReserve (updUnit u (fun v => { v with migrating := false }) s)
    match unitOwner s u with
    | some p => endJob (some p.num) (.migrate u) s
    | none => s

/-- UNIT_SELF_TEST (R220): a pass puts the unit in service. A FAILED unit is tested after a cold start only; its pass starts the count
of faults from zero, and a fail leaves it as it is. -/
def selfTested (u : Nat) (passed : Bool) (s : State) : State :=
  let v := findUnit s u
  let was := decide (v.state = .failed)
  if was && !v.retest then s
  else
    let s := { updUnit u (fun v => { v with testLines := some s.draw, retest := false }) s with draw := s.draw + 1 }
    if passed then
      let s := updUnit u (fun v => { v with
        state := .inService, tested := true, lastFault := if was then none else v.lastFault
        migrating := v.migrating && !was, stranded := v.stranded && !was }) s
      if was then settleReserve (recordUnit u s) else s
    else if was then s
    else failUnit u s

/-- Counters of a unit; those of a confidential partition count nothing (R106, R225). -/
def countUnit (u : Nat) (f : NbUnit → NbUnit) (s : State) : State :=
  match unitOwner s u with
  | some p => if p.confidential then s else updUnit u f s
  | none => updUnit u f s

/-- A unit fault: a second within one hour withdraws the unit (R216). -/
def unitFault (u : Nat) (s : State) : State :=
  let now := Config.elapsedMs s.draw
  let soon := match (findUnit s u).lastFault with | some t => decide (now ≤ t + 3600000) | none => false
  let s := countUnit u (fun v => { v with unitFaults := v.unitFaults + 1 }) (updUnit u (fun v => { v with lastFault := some now }) s)
  let s := { s with draw := s.draw + 1 }
  if soon then failUnit u s else s

/-! ### Tasks (R210, R211) -/

/-- The cache, layer record and division of positions a task names. -/
structure TaskEnv where
  p : Partition
  c : Cache
  r : LayerRec
  x : Spread

def taskEnv (s : State) (t : Task) : Option TaskEnv :=
  (findPart s t.part).bind fun p => (p.cache t.cache).map fun c => ⟨p, c, c.layerRec t.seq t.layer, c.spread s t.part⟩

/-- Granule numbers of the bytes of a position: unit and granules, where the page lies in a clearing channel. -/
def positionGranules (e : TaskEnv) (j : Nat) : Option (Nat × List Nat) :=
  let q := e.x.ordinal j
  match e.r.pages[q / e.c.pp]? with
  | none => none
  | some g =>
    if g.root then none
    else
      let a := q % e.c.pp / e.c.unitPos * e.c.unitBytes
      let b := a + e.c.unitBytes - 1
      some (g.loc / 1024, (List.range (b / 1024 + 1 - a / 1024)).map fun i => g.loc % 1024 + a / 1024 + i)

/-- A position this device holds, present, whose bytes lie in sealed granules. -/
def positionSealed (s : State) (e : TaskEnv) (j : Nat) : Bool :=
  decide (j < e.r.length) && e.x.holds j &&
    match positionGranules e j with
    | some (u, gs) => gs.all fun g => (findUnit s u).seals.any fun x => x.1 = g
    | none => false

/-- Whether a position is visible to a row of a task. -/
def rowSees (t : Task) (r : TaskRow) (j : Nat) : Bool := visible t.causal t.window r.pos j

/-- Eligible positions of a task on a unit. -/
def eligible (s : State) (u : Nat) (t : Task) (e : TaskEnv) : List Nat :=
  ((List.range t.count).map fun i => t.first + i).filter fun j =>
    t.rows.any (fun r => rowSees t r j)
      && (match positionGranules e j with | some (v, _) => v = u | none => false)
      && (List.range 32).all fun i => positionSealed s e (j / 32 * 32 + i)

/-- Query element i of a row. -/
def rowElem (bf16 : Bool) (r : TaskRow) (i : Nat) : Num :=
  if bf16 then Fmt.bf16.value (fld r.q (2 * i) 2)
  else cbVal (nth r.q i 0).toNat (nth r.qscales (i / 32) 0).toNat

/-- s_j of a row: −infinity where the position is invisible to it. -/
def taskScore (s : State) (t : Task) (e : TaskEnv) (r : TaskRow) (j : Nat) : F32 :=
  if !rowSees t r j then f32NegInf
  else
    let ps := (List.range e.c.d).map fun i => Num.mul (rowElem e.c.bf16 r i) (keyNum s e.p e.c e.r (e.x.ordinal j) t.head i)
    fmul t.scale (rn (Num.mul (accNum r.anchor (accFit (accChunk r.anchor ps))) (num32 t.ql2)))

/-- The first granule of the eligible positions whose check fails: a line not valid, or a CRC that differs from the seal. -/
def mismatch (s : State) (u : Nat) (e : TaskEnv) (js : List Nat) : Option Nat :=
  let gs := (js.flatMap fun j => match positionGranules e j with | some (_, gs) => gs | none => []).eraseDups
  gs.find? fun g =>
    let a := mkAddr (unitLayer u) (unitColumn u + g / 64) (1024 * (g % 64))
    let bad := (List.range 16).any fun i =>
      withdrawnLine s (lineOf (a + 64 * i)) || stateOf s.tags (lineOf (a + 64 * i)) ≠ some .valid
    bad || (match (findUnit s u).seals.find? fun x => x.1 = g with
      | some x => x.2 ≠ crc32c ((List.range 1024).map fun n => memGet s.mem (a + n))
      | none => true)

/-- What a unit reads: stored data bytes as they come, since it never decodes the line code (R205). -/
def unitSees (err : ReadErrors) (s : State) : State :=
  ((err.symbols.map (·.1)).eraseDups).foldl (fun s l =>
    garble l ((List.range 76).map fun p =>
      match err.symbols.find? fun x => x.1 = l && x.2.1 = p with | some x => x.2.2 | none => 0) s) s

/-- A mismatch discards the task and starts the repair read. -/
def discardTask (u g : Nat) (t : Option Task) (s : State) : State :=
  countUnit u (fun v => { v with mismatches := v.mismatches + 1 })
    (updUnit u (fun v => { v with
      work := if t.isSome then none else v.work
      repairing := if v.repairing.any fun x => x.1 = g then v.repairing else v.repairing ++ [(g, t)] }) s)

/-- Tag lines of some positions in a unit's tag cache, 8 of a segment at most: a segment has no more (R183, R202). -/
def tagsRead (e : TaskEnv) (js : List Nat) : List (Nat × Nat) :=
  ((js.flatMap fun j => match positionGranules e j with | some (_, gs) => gs | none => []).map fun g =>
    (g / 64, g % 64 * 16 / 128)).eraseDups

/-- Scores that the score buffer keeps, position by position, while there is room (R202, R211). -/
def bufferSize : Nat := 4096

/-- What pass 1 of a task leaves: the maxima of its rows and the scores that the buffer keeps. -/
def scoreTask (seen : State) (t : Task) (e : TaskEnv) (js : List Nat) : UnitTask :=
  { task := t
    maxima := t.rows.map fun r => fmaxList (js.map (taskScore seen t e r))
    scores := (js.flatMap fun j => t.rows.map fun r => taskScore seen t e r j).take bufferSize }

/-- Pass 1 has ended: the unit holds the task, and its maxima are sent. -/
def scored (u : Nat) (w : UnitTask) (e : TaskEnv) (js : List Nat) (s : State) : State :=
  { updUnit u (fun v => { v with work := some w, tagCache := (v.tagCache ++ tagsRead e js).eraseDups }) s with
    out := s.out ++ [.unitMaxima u w.maxima] }

/-- Pass 1: scores and maxima. -/
def passOne (err : ReadErrors) (u : Nat) (t : Task) (s : State) : State :=
  match taskEnv s t with
  | none => s
  | some e =>
    let js := eligible s u t e
    let seen := unitSees err s
    let s := { s with draw := seen.draw }
    match mismatch seen u e js with
    | some g => discardTask u g (some t) s
    | none => scored u (scoreTask seen t e js) e js s

/-- The unit may run a task: in service, in processor mode, idle, its seal table loaded. -/
def unitReady (v : NbUnit) : Bool :=
  v.state = .inService && v.processor && v.work.isNone && v.repairing.isEmpty && !v.reloading

/-- Start the oldest waiting task, if the unit may. -/
def startTask (err : ReadErrors) (u : Nat) (s : State) : State :=
  let v := findUnit s u
  match v.waitingTasks with
  | [] => s
  | t :: ts => if unitReady v then passOne err u t (updUnit u (fun v => { v with waitingTasks := ts }) s) else s

/-- Query rows of one task: as many as keep G′ × (D + 1) within the accumulator store's 2,112 sums (R210). -/
def rowsPerTask (d : Nat) : Nat := 2112 / (d + 1)

/-- A group with more rows than a task may cover is divided into several, each of which reads the keys again (R210). -/
def splitTask (d : Nat) (t : Task) : List Task :=
  (chunks (rowsPerTask d) (ceilDiv t.rows.length (max 1 (rowsPerTask d))) t.rows).map fun rs => { t with rows := rs }

/-- MODE of the division rule that the partition's running step was released under, or of its present one (R221). -/
def modeInForce (p : Partition) : Nat :=
  match (p.context p.current.toNat).step with
  | some r => r.batch.divMode
  | none => p.divMode

/-- NEAR_BANK_TASK: a task arrives; it runs at once or waits for the mode, the table or the task before it. One of a partition
that does not own the unit is refused (R377). A FAILED unit runs none (R220), and none has work in CANOPY mode (R221). -/
def nearBankTask (u : Nat) (t : Task) (err : ReadErrors) (s : State) : State :=
  match unitOwner s u with
  | none => firebreak 2 t.part none s
  | some p =>
    if p.num ≠ t.part then firebreak 2 t.part (some p) s
    else if (findUnit s u).state = .failed || modeInForce p = 1 then s
    else
      let d := match p.cache t.cache with | some c => c.d | none => 0
      startTask err u (updUnit u (fun v => { v with waitingTasks := v.waitingTasks ++ splitTask d t }) s)

/-- Integers of L and of A_d of one row, at the anchors of the task, from the row's scores. -/
def rowPartials (s : State) (t : Task) (e : TaskEnv) (js : List Nat) (r : TaskRow) (score : Nat → F32) (m : F32) : Acc × List Acc :=
  let bs := (js.map (· / 32)).eraseDups
  -- weights block by block: positions of the block that are eligible, the others +0
  let ws := bs.flatMap fun b =>
    ((List.range 32).map fun i => b * 32 + i).zip (convWeights (!e.c.bf16) ((List.range 32).map fun i =>
      let j := b * 32 + i
      if js.contains j && rowSees t r j then fExp (fsub (score j) m) else f32Zero))
  let ws := ws.filter fun w => js.contains w.1
  (accShift (accChunk 1 (ws.map (·.2))) t.wL,
   (List.range e.c.d).map fun d => accShift (accChunk t.anchorA (ws.map fun w =>
     Num.mul w.2 (valNum s e.p e.c e.r (e.x.ordinal w.1) t.head d))) t.wA)

/-- The score of a position for a row in pass 2: from the buffer, or computed again from the keys (R211). -/
def passTwoScore (s : State) (t : Task) (e : TaskEnv) (js : List Nat) (buffer : List F32) (row : Nat × TaskRow) (j : Nat) : F32 :=
  let i := js.idxOf j * t.rows.length + row.1
  if i < buffer.length then nth buffer i f32Zero else taskScore s t e row.2 j

/-- Positions of a task whose scores the buffer does not all keep. -/
def unbuffered (n rows : Nat) : Nat := if n * rows ≤ bufferSize then 0 else n - bufferSize / rows

/-- Near-bank cycles of a task of `n` eligible positions in `blocks` blocks (R212). -/
def taskCycles (c : Cache) (n blocks rows : Nat) : Nat :=
  let per := c.d / (if c.bf16 then 8 else 16) * rows
  n * per + blocks * 32 * rows + n * per + unbuffered n rows * per

/-- Bytes of one position's key, or of its value, block scales included: 132 of 128 CB8 elements (R212). -/
def positionBytes (c : Cache) : Nat := if c.bf16 then 2 * c.d else c.d + c.d / 32

/-- Bytes that a task reads through the internal port: keys and values, and again the keys of scores that are not kept (R212). -/
def taskBytes (c : Cache) (n rows : Nat) : Nat := (2 * n + unbuffered n rows) * positionBytes c

/-- Pass 2 of a task whose granules have all passed their check: the partials leave the unit. -/
def passTwo (seen : State) (u : Nat) (w : UnitTask) (e : TaskEnv) (js : List Nat) (ms : List F32) (slices : Nat) (s : State) : State :=
  let t := w.task
  let ps := t.rows.zipIdx.map fun x =>
    rowPartials seen t e js x.1 (passTwoScore seen t e js w.scores (x.2, x.1)) (nth ms x.2 f32NegInf)
  let s := updUnit u (fun v => { v with work := none, accs := ps.flatMap fun x => x.1 :: x.2 }) s
  let s := countUnit u (fun v => { v with
    tasks := v.tasks + 1, slices := v.slices + BitVec.ofNat 64 slices
    rescored := v.rescored + BitVec.ofNat 64 (js.length * t.rows.length - bufferSize)
    bytesRead := v.bytesRead + BitVec.ofNat 64 (taskBytes e.c js.length t.rows.length) }) s
  { s with out := s.out ++ [.unitPartials u (ps.map (·.1)) (ps.map (·.2))] }

/-- FINAL_MAXIMA_ARRIVAL: pass 2, and the partials sent once every granule has passed its check. -/
def finalMaxima (u : Nat) (ms : List F32) (err : ReadErrors) (s : State) : State :=
  let v := findUnit s u
  match v.work with
  | none => s
  | some w =>
    if v.state ≠ .inService || !v.processor then s
    else
      match taskEnv s w.task with
      | none => s
      | some e =>
        let js := eligible s u w.task e
        let seen := unitSees err s
        let s := { s with draw := seen.draw }
        match mismatch seen u e js with
        | some g => discardTask u g (some w.task) s
        | none => startTask .none u (passTwo seen u w e js ms 0 s)

/-- PROCESSOR_MODE_ENTRY (R203, R204): for tasks that wait, beneath one computable region, or for a self-test. The tasks of a unit under
test are left to the canopy form (R220). -/
def processorEntry (u : Nat) (test : Bool) (s : State) : State :=
  let v := findUnit s u
  if test then
    if v.state = .failed && !v.retest then s
    else updUnit u (fun v => { v with
      processor := true, work := none, waitingTasks := [], state := if v.state = .failed then .failed else .testing }) s
  else if computable s u && v.state = .inService && !v.stranded && !v.waitingTasks.isEmpty then
    startTask .none u (updUnit u (fun v => { v with processor := true }) s)
  else s

/-- What the banks serve at a boundary, in order (R209): one refresh where a segment owes 4, CXL.mem accesses, every other owed refresh,
other accesses. A refresh is issued to all 16 segments together. -/
def boundaryOrder (owed : List Nat) (cxl other : Nat) : List BankService :=
  let first := if owed.any (4 ≤ ·) then 1 else 0
  List.replicate first .refresh ++ List.replicate cxl .cxl ++ List.replicate (maxNat owed - first) .refresh
    ++ List.replicate other .other

/-- A parity error in a buffer of a unit discards its task, which runs again, and is a unit fault (R226). -/
def bufferError (u : Nat) (s : State) : State :=
  match (findUnit s u).work with
  | none => s
  | some w =>
    startTask .none u (unitFault u (updUnit u (fun v => { v with work := none, waitingTasks := w.task :: v.waitingTasks }) s))

/-- SLICE_BOUNDARY (R209): owed refreshes are paid and waiting accesses served, those for which the boundary has no time held for the
next, and a channel without work returns to memory mode. What accesses wait in cycles is a matter of time, so its count rises by a
free value. -/
def sliceBoundary (u : Nat) (w : BoundaryWork) (s : State) : State :=
  let v := findUnit s u
  if !v.processor then s
  else
    let stay := !v.stranded && (w.unitWork || v.work.isSome || !v.waitingTasks.isEmpty)
    let other := v.held + w.other
    let served := if stay then min w.served other else other
    let waited := if w.cxl + other = 0 then 0 else Config.freeNat s.draw u
    let s := countUnit u (fun x => { x with
      slices := if w.cycles = 0 then x.slices else x.slices + 1
      refreshes := x.refreshes + BitVec.ofNat 64 (maxNat v.owed)
      waitCycles := x.waitCycles + BitVec.ofNat 64 waited })
      (updUnit u (fun x => { x with
        owed := List.replicate 16 0, held := other - served, processor := stay, reloading := x.reloading || w.sealFault }) s)
    let s := { s with draw := s.draw + 1, out := s.out ++ [.boundary u (boundaryOrder v.owed w.cxl served)] }
    if w.bufferFault then bufferError u s else s

/-- SEAL_TABLE_RELOAD_DONE (R208). -/
def sealReloaded (u : Nat) (s : State) : State := startTask .none u (updUnit u (fun v => { v with reloading := false }) s)

/-! ### Commands (R219, R221 to R225) -/

/-- Units of the channels beneath a partition's computable regions. -/
def unitsBeneath (x : Partition) : List Nat :=
  (x.regions.filter fun r => r.kind = 2).flatMap fun r => (List.range r.lcount).flatMap fun i =>
    (List.range (r.ccount / 16)).map fun j =>
      65536 * (r.lfirst + i - 16) + partColumn (tractsOf r.tracts) (r.cfirst + 16 * j) / 16

/-- Division state of a partition (R219): 0 SERVICE, 1 START-UP, 2 TEST, 3 RECOVERY. -/
def divisionState (s : State) (x : Partition) : Nat :=
  let us := unitsBeneath x
  if us.any fun u => let v := findUnit s u; v.state = .untested || (v.state = .testing && !v.tested) then 1
  else if !s.testRun.isEmpty then 2
  else if (x.acting.toList ++ x.recovery).any (fun a => match a.act with | .recompute _ _ _ _ => true | .migrate _ => true | _ => false)
      || us.any (fun u => (findUnit s u).state = .failed && !(pagesOn s u).isEmpty) then 3
  else 0

/-- CLEARING_DIVISION. -/
def cmdClearingDivision (_q : QueuePair) (p : Packet) (s : State) : Res :=
  let mode := par p 0 1
  let b := par p 2 2
  if 2 < mode then fail stBadLength s
  else if mode ≠ 0 && !pktExpert p then fail stExpert s
  else if b = 0 || 4096 < b then fail stBadLength s
  else ok [] (updPart (pktPart p) (fun x => { x with divMode := mode, bsplit := b }) s)

/-- The partition that a 4-byte PARTITION parameter names: 0xFF is the issuing one; a tenant may name no other. -/
def namedPart (q : QueuePair) (p : Packet) (n : Nat) : Except Stop (BitVec 4) :=
  if n = 0xFF then .ok (pktPart p)
  else if 15 < n then .error (.plain stBadLength)
  else if !q.operator && pktPart p ≠ BitVec.ofNat 4 n then .error (.plain stNotPermitted)
  else .ok (BitVec.ofNat 4 n)

/-- CLEARING_STATUS. -/
def cmdClearingStatus (q : QueuePair) (p : Packet) (s : State) : Res :=
  match namedPart q p (par p 0 4) with
  | .error e => e.reply s
  | .ok n =>
    match findPart s n with
    | none => fail stNotPermitted s
    | some x =>
      let fu := failedUnits s
      let testing := (s.units.filter fun u => u.state = .testing).length
      ok (((List.range 4).flatMap fun l => toLE 2 (fu.filter fun u => u / 65536 = l).length) ++ toLE 4 testing
        ++ toLE 1 (divisionState s x) ++ toLE 1 x.divMode ++ toLE 2 x.bsplit) s

/-- CLEARING_TEST_SET. -/
def cmdClearingTestSet (_q : QueuePair) (p : Packet) (s : State) : Res :=
  let period := par p 0 2
  let run := par p 2 1
  if period < 10 || 3600 < period || 1 < run then fail stBadLength s
  else
    let s := { s with testPeriod := period }
    if run = 0 then ok [] s else (.accepted, { s with testRun := s.testRun ++ [pktOrigin p] })

/-- CLEARING_TEST_RUN_DONE: every unit has been tested; those that failed become FAILED, the others are in service. -/
def testRunDone (failed : List (BitVec 18)) (s : State) : State :=
  match s.testRun with
  | [] => s
  | _ =>
    let bad := failed.map (·.toNat)
    let s := { s with
      unitsPassed := true
      units := s.units.map fun v => if bad.contains v.unit || v.state = .failed then v
        else { v with state := .inService, tested := true, testLines := some s.draw }
      draw := s.draw + 1 }
    let s := bad.foldl (fun s u => if (findUnit s u).state = .failed then s else failUnit u s) s
    s.testRun.foldl (fun s o => finish o stOk 0 (toLE 4 bad.length) s) { s with testRun := [] }

/-! #### Records copied by unit, grove or router (R105, R224, R266) -/

/-- FIRST, COUNT, DEST, DEST_SIZE: copy records of `size` bytes for the numbers below `limit`; the result gives how many. -/
def copyRecords (q : QueuePair) (p : Packet) (limit align size : Nat) (rec : Nat → List Byte) (more : List Byte)
    (s : State) : Res :=
  let first := par p 0 4
  let count := par p 4 4
  if count = 0 || limit < count then fail stBadLength s
  else
    let n := min (first + count) limit - first
    if limit ≤ first then ok (toLE 4 0 ++ more) s
    else copyOut q p align (par p 8 8) (par p 16 4) (size * count)
      ((List.range n).flatMap fun i => rec (first + i)) (toLE 4 n ++ more) s

/-- Owner byte and CFLAGS bits 0 and 1 of a record about a tract, and whether it is withheld (R106). DESIGN CHOICE (assumption 102): the
record of a tract that no partition owns, read by the operator role, names partition 0xFF and is not withheld. -/
def recordOwner (s : State) (q : QueuePair) (p : Packet) (tract : Nat) : Nat × Nat × Bool :=
  match ownerOf s tract with
  | none => if q.operator then (0xFF, 0, false) else (0xFF, 1, true)
  | some x =>
    if !q.operator && x.num ≠ pktPart p then (0xFF, 1, true)
    else (x.num.toNat, if x.confidential then 2 else 0, false)

/-- A record of R225. -/
def unitRecord (s : State) (q : QueuePair) (p : Packet) (u : Nat) : List Byte :=
  let v := findUnit s u
  let o := recordOwner s q p (tractOfCore (unitColumn u))
  let head := toLE 4 u ++ toLE 1 o.1
  if o.2.2 then padTo 64 (head ++ toLE 1 1)
  else head ++ toLE 1 (o.2.1 + 4 * unitStateCode v.state) ++ zeros 2 ++ toLE 8 v.tasks.toNat ++ toLE 8 v.slices.toNat
    ++ toLE 8 v.bytesRead.toNat ++ toLE 8 v.rescored.toNat ++ toLE 8 v.waitCycles.toNat ++ toLE 4 v.mismatches.toNat
    ++ toLE 2 v.owedMax.toNat ++ toLE 2 v.unitFaults.toNat ++ toLE 8 v.refreshes.toNat

/-- CLEARING_COUNTERS_READ. -/
def cmdClearingCounters (q : QueuePair) (p : Packet) (s : State) : Res :=
  copyRecords q p 262144 64 64 (unitRecord s q p) [] s

/-- A record of R106. -/
def latticeRecord (s : State) (q : QueuePair) (p : Packet) (g : Nat) : List Byte :=
  let o := recordOwner s q p (tractOfCore (256 * g))
  let head := toLE 2 g ++ toLE 1 o.1
  if o.2.2 then padTo 64 (head ++ toLE 1 1)
  else
    let c := (s.lattice.find? fun c => c.grove = g).getD (LatticeCtr.fresh g)
    head ++ toLE 1 o.2.1 ++ zeros 4 ++ toLE 8 c.passes.toNat ++ toLE 8 c.bubbles.toNat ++ toLE 8 c.retries.toNat
      ++ toLE 8 c.vector.toNat ++ toLE 8 c.replayed.toNat ++ toLE 8 c.stretched.toNat ++ toLE 8 c.cycles.toNat

/-- LATTICE_COUNTERS_READ. -/
def cmdLatticeCounters (q : QueuePair) (p : Packet) (s : State) : Res :=
  copyRecords q p 4096 64 64 (latticeRecord s q p) [] s

end Sys2Proof.Machine
end

