-- ==== Sys2Proof/Machine/Fabric.lean ====
section
/-! DEFINITION. The fabric (R268 to R303): packets, routes and links as far as a packet's way through the device,
flows, groups and their views, the collective tree, tokens, agreements and pace notices. -/
namespace Sys2Proof
open Machine

/-! ### Packets (R271, R281) -/

/-- The 32 header bytes. -/
def FabPacket.header (p : FabPacket) : List Byte :=
  toLE 2 p.dst.toNat ++ toLE 2 p.src.toNat ++ [p.parts, p.ptype, p.hops, p.pflags] ++ toLE 4 p.group.toNat
    ++ toLE 4 p.epoch.toNat ++ toLE 8 p.pseq.toNat ++ toLE 2 p.bodylen.toNat ++ zeros 2 ++ toLE 4 p.bcrc.toNat

/-- Flits that a packet fills: 244 payload bytes each. -/
def FabPacket.flits (p : FabPacket) : Nat := ceilDiv (32 + p.body.length) 244

def FabPacket.srcAddr (p : FabPacket) : Nat := 16 * p.src.toNat + p.parts.toNat / 16
def FabPacket.dstAddr (p : FabPacket) : Nat := 16 * p.dst.toNat + p.parts.toNat % 16
def FabPacket.dstPart (p : FabPacket) : BitVec 4 := BitVec.ofNat 4 p.parts.toNat


end Sys2Proof

namespace Sys2Proof.Machine

/-- The packet that the bytes of its flits spell. -/
def parsePacket (vc : Nat) (b : List Byte) : FabPacket :=
  { dst := BitVec.ofNat 16 (fld b 0 2), src := BitVec.ofNat 16 (fld b 2 2), parts := BitVec.ofNat 8 (fld b 4 1),
    ptype := BitVec.ofNat 8 (fld b 5 1), hops := BitVec.ofNat 8 (fld b 6 1), pflags := BitVec.ofNat 8 (fld b 7 1),
    group := fld32 b 8, epoch := fld32 b 12, pseq := fld64 b 16, bodylen := BitVec.ofNat 16 (fld b 24 2),
    bcrc := fld32 b 28, vc := BitVec.ofNat 2 vc, body := b.drop 32 }

/-- A packet from a partition's address to an address. -/
def mkPacket (src dst ptype vc : Nat) (group : U32) (epoch pseq pflags : Nat) (body : List Byte) : FabPacket :=
  { dst := BitVec.ofNat 16 (dst / 16), src := BitVec.ofNat 16 (src / 16),
    parts := BitVec.ofNat 8 (dst % 16 + 16 * (src % 16)), ptype := BitVec.ofNat 8 ptype, hops := 32,
    pflags := BitVec.ofNat 8 pflags, group := group, epoch := BitVec.ofNat 32 epoch, pseq := BitVec.ofNat 64 pseq,
    bodylen := BitVec.ofNat 16 body.length, bcrc := if body.isEmpty then 0 else crc32c body, vc := BitVec.ofNat 2 vc,
    body := body }

/-! ### Routes (R284, R285) -/

/-- The device has an id (R280). -/
def hasId (s : State) : Bool := s.fabric.devId ≠ 0x7FFF

/-- The entry of a destination id; the entry of the device's own id reads with COUNT 0. -/
def routeEntry (s : State) (dst : Nat) : Nat :=
  if dst = s.fabric.devId.toNat then 0
  else match s.fabric.routes.find? fun r => r.1 = dst with
    | some r => r.2.toNat
    | none => 0

/-- Links of an entry in order. -/
def routeLinks (e : Nat) : List Nat := (List.range (bitsOf e 24 3)).map fun i => bitsOf e (6 * i) 6

def Link.carries (l : Link) : Bool := l.state = .up || l.state = .half

/-- A link that is being disabled takes no new packet (R279). -/
def Link.takes (l : Link) : Bool := l.carries && !l.closing

/-- The link that a packet takes. -/
def chooseLink (s : State) (p : FabPacket) : Option Nat :=
  let ls := (routeLinks (routeEntry s p.dst.toNat)).filter fun n => (findLink s n).takes
  if ls.isEmpty then none
  else some (nth ls ((p.src.toNat + p.dst.toNat + p.group.toNat + 16 * (p.parts.toNat % 16)) % 2 ^ 32 % ls.length) 0)

/-! ### Links (R272 to R274, R278) -/

/-- Flits sent and not acknowledged. -/
def Link.inFlight (l : Link) : Nat := (l.txNext + 4095 - l.acked) % 4096

/-- Flits of packets of a confidential partition of this device are not counted (R278). -/
def counted (s : State) (p : FabPacket) : Bool :=
  let hidden := fun (dev : Nat) (n : Nat) => dev = s.fabric.devId.toNat &&
    (match findPart s (BitVec.ofNat 4 n) with | some q => q.confidential | none => false)
  !(hidden p.src.toNat (p.parts.toNat / 16) || hidden p.dst.toNat (p.parts.toNat % 16))

/-- Rank of a waiting flit, least first: control; then a bulk flit passed over in 56 of the last 64 slots, then a cache-migration
flit passed over in 60; then reduction, bulk, cache migration (R253, R274). -/
def vcRank (slots : List (Bool × Bool)) (vc : Nat) : Nat :=
  if vc = 0 then 0
  else if vc = 2 && decide (56 ≤ (slots.filter (·.1)).length) then 1
  else if vc = 3 && decide (60 ≤ (slots.filter (·.2)).length) then 2
  else vc + 2

/-- VC of a flit; a LINKCTL flit has 0. -/
def FlitBody.vc : FlitBody → Nat
  | .data p _ => p.vc.toNat
  | .hello => 0

/-- The packet of a flit that is its last. -/
def FlitBody.lastOf : FlitBody → Option FabPacket
  | .data p i => if i + 1 = p.flits then some p else none
  | .hello => none

/-- The flits of a packet, in order. -/
def packetPieces (p : FabPacket) : List FlitBody := (List.range p.flits).map (FlitBody.data p)

/-- FTYPE, SOP, EOP and the payload of a flit. A HELLO holds the device id and the link number (R276; the places within it are a
DESIGN CHOICE, assumption 110). -/
def FlitBody.content (dev link : Nat) : FlitBody → Nat × Bool × Bool × List Byte
  | .data p i => (1, i = 0, i + 1 = p.flits, ((p.header ++ p.body).drop (244 * i)).take 244)
  | .hello => (2, true, true, toLE 2 dev ++ toLE 1 link)

/-- The 256 bytes of a flit (R271). -/
def flitBytes (ftype vc : Nat) (sop eop : Bool) (lseq ack : Nat) (nak : Bool) (cvc credits : Nat) (payload : List Byte) :
    List Byte :=
  let b := toLE 8 (ftype + 2 ^ 4 * vc + 2 ^ 6 * sop.toNat + 2 ^ 7 * eop.toNat + 2 ^ 8 * lseq + 2 ^ 20 * ack + 2 ^ 32 * nak.toNat
    + 2 ^ 33 + 2 ^ 34 * cvc + 2 ^ 36 * credits + 2 ^ 48 * payload.length) ++ padTo 244 payload
  b ++ toLE 4 (crc32c b).toNat

/-- ACKSEQ: the last number received in order. -/
def Link.ackSeq (l : Link) : Nat := (l.rxNext + 4095) % 4096

/-- VCs whose credits the router withholds: the reorder store, 131,072 flits of 256 bytes, is full, and a packet of the VC waits
outside it (R283). -/
def reorderFlits (s : State) : Nat := (s.fabric.reorder.map (·.flits)).sum
def withheld (s : State) (vc : Nat) : Bool :=
  decide (131072 ≤ reorderFlits s) && s.fabric.arrivals.any fun p => p.vc.toNat = vc

/-- The credits that the next flit takes back: of the lowest VC that is owed some, 63 at most. -/
def Link.returning (s : State) (l : Link) : Nat × Nat :=
  match (List.range 4).find? fun vc => 0 < nth l.owed vc 0 && !withheld s vc with
  | some vc => (vc, min 63 (nth l.owed vc 0))
  | none => (0, 0)

/-- A flit goes out on a link with the present ACKSEQ and the credits owed: `b` under the number `lseq`, or an IDLE flit. -/
def putFlit (n : Nat) (b : Option FlitBody) (lseq : Nat) (nak : Bool) (s : State) : State :=
  let l := findLink s n
  let r := l.returning s
  let c := match b with | some b => b.content s.fabric.devId.toNat n | none => (0, false, false, [])
  let vc := match b with | some b => b.vc | none => 0
  let count := match b with | some (.data p _) => counted s p | some .hello => true | none => false
  { updLink n (fun l => { l with
      owed := setAt l.owed r.1 fun o => o - r.2
      flitsTx := if count then l.flitsTx + 1 else l.flitsTx }) s with
    out := s.out ++ [.flit n (flitBytes c.1 vc c.2.1 c.2.2.1 lseq l.ackSeq nak r.1 r.2 c.2.2.2)] }

/-- Whether a flit may be sent: a credit of its VC, which a LINKCTL flit does not need, and room in the replay buffer. -/
def Link.canSend (l : Link) (b : FlitBody) : Bool :=
  (l.carries && decide (l.inFlight + 1 < 2048)) && (b = .hello || decide (0 < nth l.credits b.vc 0))

/-- The waiting flit that is sent next: the oldest of its VC, of the first VC in rank that holds a flit and a credit. -/
def Link.nextFlit (l : Link) : Option FlitBody :=
  let heads := (List.range 4).filterMap fun vc => l.queue.find? fun b => b.vc = vc
  (sortBy (fun a b => vcRank l.slots a.vc ≤ vcRank l.slots b.vc) heads).find? l.canSend

/-- The slot history after a flit has been sent. -/
def Link.slotsAfter (l : Link) (b : FlitBody) : List (Bool × Bool) :=
  let passed := fun (vc : Nat) => b.vc ≠ vc && l.queue.any fun x => x.vc = vc && l.canSend x
  if b.vc = 0 then l.slots else ((passed 2, passed 3) :: l.slots).take 64

/-- Take a flit from the queue into the replay buffer. -/
def Link.sent (b : FlitBody) (l : Link) : Link :=
  { l with
    txNext := (l.txNext + 1) % 4096
    replay := l.replay ++ [⟨l.txNext, b⟩]
    slots := l.slotsAfter b
    queue := l.queue.erase b
    credits := if b = .hello then l.credits else setAt l.credits b.vc fun c => c - 1 }

/-- Send one waiting flit, if one may be sent. -/
def pumpLinkOnce (n : Nat) (s : State) : State :=
  let l := findLink s n
  match l.nextFlit with
  | none => s
  | some b => updLink n (Link.sent b) (putFlit n (some b) l.txNext false s)

def pumpLink (n : Nat) (s : State) : State := Nat.repeat (pumpLinkOnce n) (findLink s n).queue.length s

/-- Flits join a link's queue; what finds no credit waits. -/
def toQueue (n : Nat) (bs : List FlitBody) (s : State) : State :=
  let s := pumpLink n (updLink n (fun l => { l with queue := l.queue ++ bs }) s)
  if (findLink s n).queue.isEmpty then s
  else { updLink n (fun l => { l with stalls := l.stalls + BitVec.ofNat 64 (Config.freeNat s.draw 0) }) s with
         draw := s.draw + 1 }

/-- A packet of the partition with this address none of whose flits has been sent. -/
def Link.unsentOf (addr : Nat) (l : Link) : FlitBody → Bool
  | .data p _ => p.srcAddr = addr && l.queue.contains (.data p 0)
  | .hello => false

/-- A scrub clears the partition's space in the link buffers (R302): what it has not begun to send, and what waits for it in the
reorder store. -/
def clearFabric (addr : Nat) (s : State) : State :=
  { s with fabric := { s.fabric with
      held := s.fabric.held.filter fun p => p.srcAddr ≠ addr
      reorder := s.fabric.reorder.filter fun p => p.dstAddr ≠ addr
      links := s.fabric.links.map fun l => { l with queue := l.queue.filter fun b => !l.unsentOf addr b } } }

/-- Give a packet to a link. -/
def toLink (n : Nat) (p : FabPacket) (s : State) : State := toQueue n (packetPieces p) s

/-- Every UP link sends a fresh HELLO (R280). -/
def freshHello (s : State) : State :=
  ((s.fabric.links.filter fun l => l.state = .up).map (·.num)).foldl (fun s n => toQueue n [.hello] s) s

/-- Credits that nothing has taken back yet go with an IDLE flit, where they are not withheld. -/
def returnCredits (s : State) : State :=
  (s.fabric.links.filter fun l => l.carries && decide (0 < (l.returning s).2)).foldl (fun s l => putFlit l.num none l.txNext false s) s

/-! ### Records (R411) -/

/-- A FABRIC_PACKET record: 0 unreachable, 1 refused, 2 BCRC, 3 hops, 4 BODYLEN. -/
def recordPacket (cause : Nat) (header : List Byte) (s : State) : State :=
  record 0x07 0x41 1 none (toLE 1 cause ++ zeros 7 ++ padTo 32 header) s

/-- The same, at most once in a second for a cause and an address. -/
def recordPacketOnce (cause addr : Nat) (header : List Byte) (s : State) : State :=
  if s.fabric.noted.contains (cause, addr) then s
  else recordPacket cause header { s with fabric := { s.fabric with noted := s.fabric.noted ++ [(cause, addr)] } }

def stateCode : LinkState → Nat
  | .disabled => 0 | .training => 1 | .up => 2 | .half => 3 | .down => 4

def recordLink (n : Nat) (s : State) : State :=
  let l := findLink s n
  record 0x07 0x40 1 none (toLE 1 n ++ toLE 1 (stateCode l.state) ++ toLE 1 l.width) s

/-! ### Forwarding (R285) -/

/-- Same flow: group, epoch, source, destination, VC (R283). -/
def sameFlow (p q : FabPacket) : Bool :=
  p.group = q.group && p.epoch = q.epoch && p.srcAddr = q.srcAddr && p.dstAddr = q.dstAddr && p.vc = q.vc

/-- Hold a packet at its source, with one record for each destination in each second. -/
def holdPacket (p : FabPacket) (s : State) : State :=
  recordPacketOnce 0 p.dstAddr p.header { s with fabric := { s.fabric with held := s.fabric.held ++ [p] } }

/-- A packet leaves its source device, or arrives at the device itself. -/
def launch (p : FabPacket) (s : State) : State :=
  if p.dst.toNat = s.fabric.devId.toNat then { s with fabric := { s.fabric with arrivals := s.fabric.arrivals ++ [p] } }
  else if s.fabric.held.any (sameFlow p) || !hasId s then holdPacket p s
  else
    match chooseLink s p with
    | some n => toLink n { p with hops := p.hops - 1 } s
    | none => holdPacket p s

/-- UNREACHABLE to the source of a packet (R282, R285). -/
def sendUnreachable (p : FabPacket) (s : State) : State :=
  launch (mkPacket (16 * s.fabric.devId.toNat) p.srcAddr 0x1C 0 0 0 0 1 p.header) s

/-- A transit router's way with a packet whose DST is another device. -/
def transit (p : FabPacket) (s : State) : State :=
  if !hasId s then s
  else if p.hops.toNat ≤ 1 then recordPacket 3 p.header (sendUnreachable p s)
  else
    match chooseLink s p with
    | some n => toLink n { p with hops := p.hops - 1 } s
    | none => sendUnreachable p s

/-- Try again every packet held for want of a route (R285). -/
def retryHeld (s : State) : State :=
  s.fabric.held.foldl (fun s p => launch p s) { s with fabric := { s.fabric with held := [] } }

/-! ### Flows (R283) -/

def Flow.is (p : FabPacket) (f : Flow) : Bool :=
  f.group = p.group && f.epoch = p.epoch && f.src = p.srcAddr && f.dst = p.dstAddr && f.vc = p.vc.toNat

/-- Next PSEQ of a packet's flow: to send, or expected. -/
def flowNext (s : State) (p : FabPacket) : Nat :=
  match s.fabric.flows.find? (Flow.is p) with
  | some f => f.next
  | none => 0

def bumpFlow (p : FabPacket) (s : State) : State :=
  { s with fabric := { s.fabric with
      flows := upsert (Flow.is p) (fun f => { f with next := f.next + 1 })
        ⟨p.group, p.epoch, p.srcAddr, p.dstAddr, p.vc.toNat, 0⟩ s.fabric.flows } }

/-- A partition sends a packet of a group: nothing while it is scrubbed (R302) or after a REFUSED for the flow's epoch (R301). -/
def sendPacket (part : BitVec 4) (dst ptype vc : Nat) (group : U32) (epoch : Nat) (body : List Byte) (s : State) : State :=
  let src := fabAddr s part
  let p := mkPacket src dst ptype vc group epoch 0 0 body
  let scrub := match findPart s part with | some q => q.scrubbing | none => true
  if scrub || s.fabric.refused.contains (group, p.epoch, src, dst) then s
  else if dst / 16 = s.fabric.devId.toNat then launch p s
  else launch { p with pseq := BitVec.ofNat 64 (flowNext s p) } (bumpFlow p s)

/-- Packets of a view change take part in no flow: a joiner has no view yet. EPOCH holds the proposed epoch and PSEQ holds
S or B in its low 48 bits, the members of the whole list above them (assumption 41). -/
def sendView (part : BitVec 4) (dst ptype : Nat) (group : U32) (epoch num : Nat) (body : List Byte) (s : State) : State :=
  let scrub := match findPart s part with | some q => q.scrubbing | none => true
  if scrub then s else launch (mkPacket (fabAddr s part) dst ptype 0 group epoch num 1 body) s

/-! ### Groups (R288 to R294) -/

def updGroup (part : BitVec 4) (id : U32) (f : Group → Group) (s : State) : State :=
  { s with fabric := { s.fabric with groups := updWhere (fun g => g.part = part && g.id = id) f s.fabric.groups } }

def dropGroup (part : BitVec 4) (id : U32) (s : State) : State :=
  { s with fabric := { s.fabric with groups := s.fabric.groups.filter fun g => !(g.part = part && g.id = id) } }

def Proposal.empty : Proposal :=
  { joins := [], leaves := [], evicts := [], sent := false, members := [], answers := [], pinned := [] }

def Proposal.idle (p : Proposal) : Bool := p.joins.isEmpty && p.leaves.isEmpty && p.evicts.isEmpty

/-- A partition's record of a group it has asked to join. -/
def Group.fresh (id : U32) (part : BitVec 4) (coord minMembers : Nat) (o : Origin) : Group :=
  { id := id, part := part, coord := coord, minMembers := minMembers, epoch := 0, members := [], state := .joining,
    cseq := 0, waiters := [o], leaver := none, prepared := none, commit := none, stopped := false, proposal := Proposal.empty,
    recoords := [], replaced := none, follow := false, floor := 0, notices := [], noticeNo := 0, lastPace := 96, lastCause := 0,
    tokens := [], releases := [], agrees := [], partials := [], waitSeconds := 0 }

/-- PINNED: the partition holds an open cache that spans the group (R291). -/
def pinned (s : State) (part : BitVec 4) (id : U32) : Bool :=
  match findPart s part with
  | some p => p.caches.any fun c => c.layout ≠ 0 && c.group = some id
  | none => false

/-- Rank of the partition in the group's present view. -/
def Group.rank (s : State) (g : Group) : Nat := rankIn g.members (fabAddr s g.part)

/-- Address of a rank. -/
def Group.addrOf (g : Group) (r : Nat) : Nat := nth (sortBy (fun a b => decide (a ≤ b)) g.members) r 0

/-- Parent and children of a rank on the fixed tree (R296). -/
def treeParent (r : Nat) : Nat := r - 2 ^ ((List.range 32).find? fun k => r / 2 ^ k % 2 = 1).getD 0
def treeChildren (g r : Nat) : List Nat :=
  (List.range 15).filterMap fun k => if r % 2 ^ (k + 1) = 0 ∧ r + 2 ^ k < g then some (r + 2 ^ k) else none

/-- Whether a running step of the partition waits at a group operation of the group. -/
def waitsAtGroup (s : State) (p : Partition) (id : U32) (ctx : Nat) : Bool :=
  match (p.context ctx).step with
  | none => false
  | some r =>
    match p.plan r.batch.plan with
    | none => false
    | some q => q.ops.zipIdx.any fun x => isColl (opCode x.1) && fld32 x.1 0x10 = id && opReady q r.done (settledOps s p.num r) x.2

/-- The new view comes into force on a member: once its operations below B are done, or at once where a member is evicted, whose
part in them never comes (R290, R293; B carries bit 47 then, assumption 41). -/
def switchView (part : BitVec 4) (id : U32) (s : State) : State :=
  match findGroup s part id with
  | none => s
  | some g =>
    match g.commit with
    | none => s
    | some (e, b, n, ms) =>
      if ms.length < n ∨ (g.epoch ≠ 0 ∧ b < 2 ^ 47 ∧ g.cseq < b) then s
      else
        let me := fabAddr s part
        let flows := s.fabric.flows.filter fun f => !(f.group = id && (f.src = me || f.dst = me))
        let s := { s with fabric := { s.fabric with flows := flows } }
        if !ms.contains me then
          finishIf g.leaver stOk [] (dropGroup part id s)
        else
          let r := toLE 4 e ++ toLE 4 (rankIn ms me) ++ toLE 4 ms.length
          let s := updGroup part id (fun g => { g with
            epoch := e, members := ms, state := if g.leaver.isSome then .leaving else .member, cseq := 0, waiters := [],
            prepared := none, commit := none, stopped := false, recoords := [], replaced := none, tokens := [], releases := [], agrees := [], partials := [],
            proposal := if g.coord = me then { g.proposal with sent := false } else Proposal.empty, waitSeconds := 0 }) s
          let s := g.waiters.foldl (fun s o => finish o stOk 0 r s) s
          -- a step that waits on an evicted member runs again under the new view
          if b < 2 ^ 47 then s
          else
            match findPart s part with
            | none => s
            | some p => (List.range 8).foldl (fun s c => if waitsAtGroup s p id c then replayStep part c 0xFFFFF [] s else s) s

/-- Count one group operation as completed; a pending view may then come into force. -/
def Group.completed (part : BitVec 4) (id : U32) (s : State) : State :=
  switchView part id (updGroup part id (fun g => { g with cseq := g.cseq + 1, waitSeconds := 0 }) s)

/-- Members of view E and the joiners of the proposed list, to whom a proposal goes. -/
def Group.audience (g : Group) : List Nat :=
  ((g.members.filter fun m => !g.proposal.evicts.contains m) ++ g.proposal.members).eraseDups

/-- The proposal that follows: joins and leaves that came too late for the last one (R290). -/
def Proposal.later (pr : Proposal) (evicts : List Nat) : Proposal :=
  { Proposal.empty with
    joins := pr.joins.filter fun a => !pr.members.contains a
    leaves := pr.leaves.filter fun a => pr.members.contains a
    evicts := evicts, pinned := pr.pinned.filter fun a => !pr.members.contains a }

/-- Pieces of a member list, 4 bytes a member, at most 1,024 in a packet; an empty list is one empty piece. -/
def memberBodies (ms : List Nat) : List (List Byte) :=
  match chunks 1024 (ceilDiv ms.length 1024) ms with
  | [] => [[]]
  | cs => cs.map fun c => c.flatMap (toLE 4)

def membersOf (body : List Byte) : List Nat := (chunks 4 1024 body).map fun c => leNat c % 2 ^ 19

/-- PSEQ of a view packet that carries a list. -/
def listWord (b : Nat) (ms : List Nat) : Nat := b % 2 ^ 48 + 2 ^ 48 * ms.length

/-- A new coordinator waits for the RECOORD of every member but the one it replaces (R293). -/
def Group.takenOver (g : Group) : Bool :=
  match g.replaced with
  | some old => g.members.all fun m => m = old || g.recoords.contains m
  | none => true

/-- VIEW_GATHER_EXPIRY (R290): PREPARE of E + 1; the first view waits for MINMEMBERS. -/
def gatherExpiry (part : BitVec 4) (id : U32) (s : State) : State :=
  match findGroup s part id with
  | none => s
  | some g =>
    let pr := g.proposal
    if g.coord ≠ fabAddr s part || pr.sent || pr.idle || !g.takenOver || (g.epoch = 0 && pr.joins.length < g.minMembers) then s
    else
      let ms := sortBy (fun a b => decide (a ≤ b))
        (((g.members ++ pr.joins).eraseDups).filter fun m => !pr.leaves.contains m && !pr.evicts.contains m)
      let pr := { pr with sent := true, members := ms, answers := [] }
      let s := updGroup part id (fun g => { g with proposal := pr }) s
      { g with proposal := pr }.audience.foldl (fun s m => (memberBodies ms).foldl (fun s b =>
        sendView part m 0x12 id (g.epoch + 1) (listWord 0 ms) b s) s) s

/-- All answers are in: COMMIT with B, or ABANDON when a member is pinned (R290, R291). -/
def concludeView (part : BitVec 4) (id : U32) (s : State) : State :=
  match findGroup s part id with
  | none => s
  | some g =>
    let pr := g.proposal
    if !pr.sent || !(g.audience.all fun m => pr.answers.any fun a => a.1 = m) then s
    else if pr.members.any pr.pinned.contains || pr.answers.any (fun a => a.2.2) then
      let s := updGroup part id (fun g => { g with proposal := pr.later pr.evicts }) s
      g.audience.foldl (fun s m => sendView part m 0x15 id (g.epoch + 1) 0 (toLE 4 (g.epoch + 1) ++ toLE 4 1) s) s
    else
      let b := maxNat (pr.answers.map fun a => a.2.1) + (if pr.evicts.isEmpty then 0 else 2 ^ 47)
      let s := updGroup part id (fun g => { g with proposal := pr.later [] }) s
      g.audience.foldl (fun s m => (memberBodies pr.members).foldl (fun s x =>
        sendView part m 0x14 id (g.epoch + 1) (listWord b pr.members) x s) s) s

/-! ### Tokens and agreements (R234, R297) -/

/-- A token for an operation goes up; rank 0 sends the release once it holds every rank's. -/
def tokenUp (part : BitVec 4) (id : U32) (cseq rank : Nat) (s : State) : State :=
  match findGroup s part id with
  | none => s
  | some g =>
    let r := g.rank s
    if r ≠ 0 then
      sendPacket part (g.addrOf (treeParent r)) 0x03 0 id g.epoch (toLE 8 cseq ++ toLE 4 rank) s
    else
      let ts := if g.tokens.contains (cseq, rank) then g.tokens else g.tokens ++ [(cseq, rank)]
      if (List.range g.members.length).all fun k => ts.contains (cseq, k) then
        let s := updGroup part id (fun g => { g with
          tokens := ts.filter fun t => t.1 ≠ cseq, releases := g.releases ++ [cseq] }) s
        (treeChildren g.members.length 0).foldl (fun s k =>
          sendPacket part (g.addrOf k) 0x03 0 id g.epoch (toLE 8 cseq ++ toLE 4 0) s) s
      else updGroup part id (fun g => { g with tokens := ts }) s

/-- A group operation of the running step completes on this member (R289, R297). -/
def Env.groupDone (e : Env) (id : U32) (s : State) : State :=
  match findGroup s e.part id with
  | none => s
  | some g =>
    Group.completed e.part id (tokenUp e.part id g.cseq (g.rank s)
      (e.updStep (fun r => { r with groupOps := (r.groupOps.filter fun x => x.1 ≠ e.op) ++ [(e.op, id, g.cseq)] }) s))

/-! ### Segments (R295, R296) -/

/-- The segment header and elements of a SEGMENT body. -/
def parseSegment (b : List Byte) : Partial :=
  let f := fld b 0x12 1
  let w := if f = 0x20 then 16 else if f = 0x12 then 4 else 2
  { cseq := fld b 0 8, offset := fld b 8 8, anchor := sfld16 b 0x10, format := f, widened := fld b 0x13 1 % 2 = 1,
    lo := fld b 0x18 4, hi := fld b 0x1C 4,
    elems := (chunks w (fld b 0x14 2) (b.drop 32)).map fun x => BitVec.ofNat 128 (leNat x)
    per := 0, shift := 0, share := 0, sent := false }

def segmentBytes (x : Partial) : List Byte :=
  let w := if x.format = 0x20 then 16 else if x.format = 0x12 then 4 else 2
  toLE 8 x.cseq ++ toLE 8 x.offset ++ toLEInt 2 x.anchor ++ toLE 1 x.format ++ toLE 1 (if x.widened then 1 else 0)
    ++ toLE 2 x.elems.length ++ zeros 2 ++ toLE 4 x.lo ++ toLE 4 x.hi ++ x.elems.flatMap fun e => toLE w e.toNat

/-- One element combined: integers added, binary32 added in order, maxima compared; own operand first. -/
def combineElem (format : Nat) (agree : Bool) (a b : BitVec 128) : BitVec 128 :=
  if format = 0x20 then (if agree then accBits (accFit (accAdd (bitsAcc a) (bitsAcc b))) else accBits none)
  else if format = 0x12 then (fadd (a.setWidth 32) (b.setWidth 32)).setWidth 128
  else if (a.setWidth 16).toInt < (b.setWidth 16).toInt then b else a

/-- Own partial on the left, that of the ranks just above it on the right; anchors that differ make NaN (R57). -/
def Partial.join (a b : Partial) : Partial :=
  { a with
    hi := b.hi
    elems := List.zipWith (combineElem a.format (decide (a.anchor = b.anchor) && a.widened = b.widened)) a.elems b.elems }

/-- A partial of AA128 that covers exactly the ranks of one chunk below G is shifted to base + w (R58, R296). -/
def Partial.closeChunk (g : Nat) (x : Partial) : Partial :=
  if x.format = 0x20 ∧ x.widened = false ∧ 0 < x.shift ∧ x.lo % x.per = 0 ∧ x.hi + 1 = min (x.lo + x.per) g then
    { x with widened := true, anchor := x.anchor + x.shift
             elems := x.elems.map fun e => accBits (accShift (bitsAcc e) x.shift) }
  else x

/-- Partials of the same elements of one operation. -/
def Partial.same (x y : Partial) : Bool := x.cseq = y.cseq && x.offset = y.offset && x.format = y.format

/-- This member's own partial of the segment. -/
def Group.own (g : Group) (x : Partial) : Option Partial := g.partials.find? fun y => y.same x && decide (0 < y.per)

/-- The own partial takes in the partial that follows it, where that has come: levels in order, so that nothing depends on the
order of arrival. -/
def meetSegment (part : BitVec 4) (id : U32) (x : Partial) (s : State) : State :=
  match findGroup s part id with
  | none => s
  | some g =>
    match g.own x with
    | none => s
    | some z =>
      match g.partials.find? fun y => y.same x && y.lo = z.hi + 1 with
      | none => s
      | some y =>
        let s := if x.format = 0x20 ∧ (y.anchor ≠ z.anchor ∨ y.widened ≠ z.widened) then
            record 0x04 0x50 0 (some part) (toLE 4 0 ++ toLE 2 0 ++ toLE 1 noteAnchor ++ zeros 1 ++ toLE 8 y.elems.length) s
          else s
        updGroup part id (fun g => { g with
          partials := ((g.partials.erase z).erase y) ++ [(z.join y).closeChunk g.members.length] }) s

/-- The result goes back: to every child on the tree, or from rank 0 to the rank that keeps the part. -/
def sendResult (part : BitVec 4) (g : Group) (z : Partial) (s : State) : State :=
  if z.share = 0 then
    (treeChildren g.members.length (g.rank s)).foldl (fun s k =>
      sendPacket part (g.addrOf k) 0x02 1 g.id g.epoch (segmentBytes z) s) s
  else if g.rank s = 0 ∧ z.offset / z.share ≠ 0 then
    sendPacket part (g.addrOf (z.offset / z.share)) 0x02 1 g.id g.epoch (segmentBytes z) s
  else s

/-- An own partial that covers the whole subtree of this rank goes up; at rank 0 it is the result. A rank that awaits the
result keeps its partial until then. -/
def passSegment (part : BitVec 4) (id : U32) (x : Partial) (s : State) : State :=
  match findGroup s part id with
  | none => s
  | some g =>
    match g.own x with
    | none => s
    | some z =>
      let r := g.rank s
      let n := g.members.length
      if z.sent then s
      else if r = 0 then
        if n ≤ z.hi + 1 then
          sendResult part g z (updGroup part id (fun g => { g with partials := g.partials.erase z }) s)
        else s
      else if min (r + (r - treeParent r)) n ≤ z.hi + 1 then
        sendPacket part (g.addrOf (treeParent r)) 0x02 1 id g.epoch (segmentBytes z)
          (updGroup part id (fun g => { g with
            partials := (g.partials.erase z) ++ (if z.share = 0 ∨ z.offset / z.share = r then [{ z with sent := true }] else []) }) s)
      else s

/-- Take in what has come for a segment, at most one partial a level, and pass on what is whole. -/
def settleSegment (part : BitVec 4) (id : U32) (x : Partial) (s : State) : State :=
  passSegment part id x (Nat.repeat (meetSegment part id x) 15 s)

/-- A segment that arrives: the result of the whole group for a rank that awaits it, or a partial that waits for its turn. -/
def takeSegment (part : BitVec 4) (id : U32) (x : Partial) (s : State) : State :=
  match findGroup s part id with
  | none => s
  | some g =>
    match g.own x with
    | some z =>
      if z.sent then
        if x.lo = 0 ∧ x.hi + 1 = g.members.length then
          sendResult part g { x with share := z.share }
            (updGroup part id (fun g => { g with partials := g.partials.erase z }) s)
        else s
      else settleSegment part id x (updGroup part id (fun g => { g with partials := g.partials ++ [x] }) s)
    | none => updGroup part id (fun g => { g with partials := g.partials ++ [x] }) s

/-- This member's contribution to a segment: it stands in the tree at its rank. -/
def giveSegment (part : BitVec 4) (id : U32) (x : Partial) (s : State) : State :=
  match findGroup s part id with
  | none => s
  | some _ =>
    settleSegment part id x (updGroup part id (fun g => { g with
      partials := g.partials ++ [x.closeChunk g.members.length] }) s)

/-! ### Pace notices (R299, R300) -/

/-- Pass a notice on along the tree; it keeps its source and takes part in no flow. -/
def relayPace (p : FabPacket) (g : Group) (s : State) : State :=
  let r := g.rank s
  let from' := rankIn g.members p.srcAddr
  let up := decide (r < from') && decide (r ≠ 0)
  let next := (if up then [treeParent r] else []) ++
    (if !up then (treeChildren g.members.length r).filter (· ≠ from') else [])
  next.foldl (fun s k =>
    let a := g.addrOf k
    launch { p with dst := BitVec.ofNat 16 (a / 16), parts := BitVec.ofNat 8 (a % 16 + p.parts.toNat / 16 * 16),
                    hops := 32, pflags := 1 } s) s

/-- Send this partition's own notice when its pace moved by 4 or more, or its cause changed (R299). -/
def sendPace (part : BitVec 4) (pace cause : Nat) (s : State) : State :=
  (s.fabric.groups.filter fun g => g.part = part && g.epoch ≠ 0).foldl (fun s g =>
    if g.lastCause = cause ∧ pace < g.lastPace + 4 ∧ g.lastPace < pace + 4 then s
    -- at most one notice in 100 µs: whether they have passed since the last one is a free value
    else if g.noticeNo ≠ 0 ∧ Config.freeNat s.draw 5 % 2 = 1 then { s with draw := s.draw + 1 }
    else
      let r := g.rank s
      let body := toLE 1 pace ++ toLE 1 cause ++ zeros 2 ++ toLE 4 (g.noticeNo + 1) ++ zeros 8
      let next := if r = 0 then treeChildren g.members.length 0 else [treeParent r]
      next.foldl (fun s k => sendPacket part (g.addrOf k) 0x18 0 g.id g.epoch body s)
        (updGroup part g.id (fun g => { g with noticeNo := g.noticeNo + 1, lastPace := pace, lastCause := cause }) s)) s

/-! ### Delivery (R281, R283, R301) -/

/-- REFUSED to the source of a packet, recorded once in a second for each source. -/
def refusePacket (st : BitVec 16) (p : FabPacket) (s : State) : State :=
  recordPacketOnce 1 p.srcAddr p.header
    (launch (mkPacket p.dstAddr p.srcAddr 0x1D 0 p.group p.epoch.toNat 0 1 (toLE 2 st.toNat ++ p.header)) s)

/-- View-change packets: outside flows and views (assumption 41). -/
def isView (t : Nat) : Bool := 0x10 ≤ t && t ≤ 0x15

/-- Whether R301 lets a packet that carries a group in. -/
def admitted (s : State) (p : FabPacket) : Bool :=
  match findGroup s p.dstPart p.group with
  | none => p.group = 0
  | some g =>
    isView p.ptype.toNat || p.ptype = 0x1D ||
      (g.epoch ≠ 0 && p.epoch.toNat = g.epoch && g.members.contains p.srcAddr)
      || (match g.commit with | some (e, _, _, ms) => p.epoch.toNat = e && ms.contains p.srcAddr | none => false)
      || (match g.prepared with | some (e, _, ms) => p.epoch.toNat = e && ms.contains p.srcAddr | none => false)

/-- What the checks on a packet that has come to its destination say. -/
inductive Arrival where
  | drop (s : State)
  | take (s : State)

/-- R281, R283 and R301 for a packet addressed to this device. -/
def checkArrival (p : FabPacket) (s : State) : Arrival :=
  let unordered := p.pflags.getLsbD 0 || isView p.ptype.toNat || p.group = 0 || p.src.toNat = s.fabric.devId.toNat
  if 4096 < p.bodylen.toNat ∨ p.bodylen.toNat ≠ p.body.length then .drop (recordPacket 4 p.header s)
  else if p.bcrc ≠ (if p.body.isEmpty then 0 else crc32c p.body) then
    .drop (settleReserve (recordPacket 2 p.header { s with reserve := { s.reserve with unexplained := s.reserve.unexplained + 1 } }))
  else
    match findPart s p.dstPart with
    | none => if p.ptype = 0x1C then .take s else .drop (refusePacket stNotPermitted p s)
    | some q =>
      if q.scrubbing then .drop (refusePacket stScrubbing p s)
      else if !admitted s p then .drop (refusePacket stNotPermitted p s)
      else if unordered then .take s
      else
        let n := flowNext s p
        let later := match findGroup s p.dstPart p.group with | some g => decide (g.epoch < p.epoch.toNat) | none => false
        if p.pseq.toNat < n then .drop s
        else if n < p.pseq.toNat || later then
          if s.fabric.reorder.contains p then .drop s
          else if 131072 < reorderFlits s + p.flits then
            -- it waits in its link buffer, and credits of its VC are withheld
            .drop { s with fabric := { s.fabric with arrivals := s.fabric.arrivals ++ [p] } }
          else .drop { s with fabric := { s.fabric with reorder := s.fabric.reorder ++ [p] } }
        else .take (bumpFlow p s)

/-- Packets of the reorder store whose turn has come arrive again. -/
def releaseReorder (s : State) : State :=
  let ready := s.fabric.reorder.filter fun p =>
    p.pseq.toNat ≤ flowNext s p &&
      (match findGroup s p.dstPart p.group with | some g => decide (p.epoch.toNat ≤ g.epoch) | none => true)
  { s with fabric := { s.fabric with
      reorder := s.fabric.reorder.filter fun p => !ready.contains p
      arrivals := s.fabric.arrivals ++ ready } }

/-- A packet comes to the router: it is taken off the arrivals; transit packets go on, others are checked and then handled. -/
def receive (p : FabPacket) (handle : State → State) (s : State) : State :=
  let s := { s with fabric := { s.fabric with arrivals := s.fabric.arrivals.erase p } }
  if p.dst.toNat ≠ s.fabric.devId.toNat then transit p s
  else
    match checkArrival p s with
    | .drop s => returnCredits s
    | .take s => returnCredits (releaseReorder (handle s))

end Sys2Proof.Machine
end

