-- ==== Sys2Proof/Machine/Net.lean ====
section
/-! DEFINITION. The canopy network (R250 to R267): mesh links and their stages, the distance table, the routers' counters, and
the flits in the routers: buffers and credits, arbitration, drops at partition boundaries, multicast and relays. -/
namespace Sys2Proof.Machine

/-! ### Mesh links (R251, R262, R263) -/

/-- The table is reissued (R263). -/
def reissueTable (s : State) : State :=
  record 0x07 0x43 0 none (toLE 4 (s.distGen + 1).toNat) { s with distGen := s.distGen + 1 }

/-- Corrections of the last 2^20 flits of a link (R251). -/
def MeshLink.recent (l : MeshLink) : List (Nat × Nat) := l.corrections.filter fun c => decide (l.flits < c.2 + 2 ^ 20)

/-- A wire is marked failing once 16 corrections within 2^20 flits are confined to it; a spare takes over while one of the link's
8 is left (R251). -/
def MeshLink.corrected (w n : Nat) (l : MeshLink) : MeshLink :=
  let cs := l.recent ++ List.replicate (min n 16) (w, l.flits)
  if 16 ≤ (cs.filter (·.1 = w)).length && !l.wires.contains w then
    { l with wires := l.wires ++ [w], corrections := cs.filter (·.1 ≠ w) }
  else { l with corrections := cs }

/-- Failing wires of a link that its spares have replaced (R251). -/
def MeshLink.spared (l : MeshLink) : List Nat := l.wires.take 8

/-- MESH_WIRE_FAILING: corrections on one wire of a link. -/
def meshWire (g d w n : Nat) (s : State) : State := updMesh g d (MeshLink.corrected w n) s

/-- MESH_LINK_DEGRADE: a change of stage reissues the table; failing wires within the spares are no change (R262). -/
def meshDegrade (g d : Nat) (st : MeshStage) (s : State) : State :=
  if (meshLink s g d).stage = st then s
  else reissueTable (settleReserve (updMesh g d (fun l => { l with stage := st }) s))

/-! ### The distance table (R263 to R265) -/

/-- Cycles to the farthest grove of a tract. -/
def toTract (s : State) (g t : Nat) : Nat × Bool :=
  ((grovesOf t).map (toGrove s g)).foldl (fun b c => (max b.1 c.1, b.2 || c.2)) (0, false)

/-- A distance record (R265). -/
def distanceRecord (s : State) (g : Nat) : List Byte :=
  let sh := (List.range 17).map (toShaft s g)
  let tr := (List.range 64).map (toTract s g)
  let bad := (sh ++ tr).any (·.2)
  toLE 2 g ++ toLE 1 (if gx g < 32 then 0 else 1) ++ toLE 1 (if bad then 1 else 0) ++ toLE 4 s.distGen.toNat
    ++ (sh.flatMap fun c => toLE 2 c.1) ++ zeros 6 ++ (tr.flatMap fun c => toLE 2 c.1) ++ zeros 16

/-- NET_DISTANCE_READ. -/
def cmdNetDistance (q : QueuePair) (p : Packet) (s : State) : Res :=
  copyRecords q p 4096 64 192 (distanceRecord s) (toLE 4 s.distGen.toNat) s

/-! ### Counters (R266) -/

def netRecord (s : State) (q : QueuePair) (p : Packet) (g : Nat) : List Byte :=
  let o := recordOwner s q p (tractOfCore (256 * g))
  let head := toLE 2 g ++ toLE 1 o.1
  if o.2.2 then padTo 64 (head ++ toLE 1 1)
  else
    let c := (s.net.find? fun c => c.grove = g).getD (NetCtr.fresh g)
    let bad := fld (distanceRecord s g) 3 1
    head ++ toLE 1 (o.2.1 + 4 * bad) ++ zeros 4 ++ toLE 8 c.ctrl.toNat ++ toLE 8 c.red.toNat ++ toLE 8 c.bulk.toNat
      ++ toLE 8 c.mig.toNat ++ toLE 8 c.stalls.toNat ++ toLE 8 c.seam.toNat ++ toLE 8 c.resends.toNat

/-- NET_COUNTERS_READ. -/
def cmdNetCounters (q : QueuePair) (p : Packet) (s : State) : Res :=
  copyRecords q p 4096 64 64 (netRecord s q p) [] s

/-! ### A packet at a router (R254 to R256, R258, R377) -/

/-- Groves a packet is for; none for a shaft. -/
def destGroves : NetDest → List Nat
  | .grove g => [g.toNat]
  | .multicast t gs => (tractsOf t).flatMap fun t => (tractsOf gs).map (groveAt t)
  | .shaft _ => []

/-- Every destination belongs to the stamped partition. -/
def stampOk (s : State) (p : NetPacket) : Bool :=
  (destGroves p.dest).all fun g =>
    match ownerOf s (tractOfCore (256 * g)) with
    | some x => x.num = p.stamp
    | none => false

/-- A packet is dropped at a boundary; one entry for each source grove and each step. Every mismatch counts. -/
def dropPacket (p : NetPacket) (s : State) : State :=
  let src := p.src.toNat
  let bad := (destGroves p.dest).find? fun g =>
    match ownerOf s (tractOfCore (256 * g)) with
    | some x => x.num ≠ p.stamp
    | none => true
  if s.netNoted.contains src then
    settleReserve { s with reserve := { s.reserve with unexplained := s.reserve.unexplained + 1 } }
  else
    firebreak 0 p.stamp (ownerOf s (tractOfCore (256 * bad.getD 0))) { s with netNoted := s.netNoted ++ [src] }

/-- Where a unicast packet leaves a router: a direction, or none for the router it is bound for. -/
def nextDir (g d : Nat) (yFirst : Bool) : Option Nat :=
  let row := if gx g < gx d then some 2 else if gx d < gx g then some 3 else none
  let col := if gy g < gy d then some 1 else if gy d < gy g then some 0 else none
  if yFirst then col.orElse fun _ => row else row.orElse fun _ => col

/-- Directions in which a multicast packet goes on from a router, by the tree of R256. -/
def treeDirs (g src : Nat) (ds : List Nat) : List Nat :=
  let col := ds.filter fun d => gx d = gx g
  let north := if col.any fun d => gy d < gy g then [0] else []
  let south := if col.any fun d => gy g < gy d then [1] else []
  if gy g = gy src then
    (if gx src ≤ gx g ∧ ds.any (fun d => gx g < gx d) then [2] else [])
      ++ (if gx g ≤ gx src ∧ ds.any (fun d => gx d < gx g) then [3] else []) ++ north ++ south
  else if gy g < gy src then north else south

/-- A direction leads out of the tract of a router. -/
def leavesTract (g d : Nat) : Bool := tractOfCore (256 * g) ≠ tractOfCore (256 * neighbour g d)

/-! ### Routers (R250 to R254, R261, R262) -/

def findRouter (s : State) (g : Nat) : Router := (s.routers.find? fun r => r.grove = g).getD (Router.fresh g)
def updRouter (g : Nat) (f : Router → Router) (s : State) : State :=
  { s with routers := upsert (fun r => r.grove = g) f (Router.fresh g) s.routers }

/-- The flits at an input port, of one VC and order. -/
def Router.buf (r : Router) (port vc : Nat) (y : Bool) : NetBuf :=
  (r.bufs.find? fun b => b.port = port && b.vc = vc && b.yFirst = y).getD ⟨port, vc, y, [], []⟩
def Router.updBuf (port vc : Nat) (y : Bool) (f : NetBuf → NetBuf) (r : Router) : Router :=
  { r with bufs := upsert (fun b => b.port = port && b.vc = vc && b.yFirst = y) f ⟨port, vc, y, [], []⟩ r.bufs }
def Router.port (r : Router) (d : Nat) : NetPort := (r.ports.find? fun p => p.dir = d).getD ⟨d, 0, [], []⟩
def Router.updPort (d : Nat) (f : NetPort → NetPort) (r : Router) : Router :=
  { r with ports := upsert (fun p => p.dir = d) f ⟨d, 0, [], []⟩ r.ports }

/-- Flits that a buffer holds: 4, 8, 16 and 4 by VC at an input port, and 16 in a relay buffer (R253, R262). Each order has
buffers of its own of that size (assumption 98). -/
def capacity (port vc : Nat) : Nat := if port = 6 then 16 else nth [4, 8, 16, 4] vc 0

/-- Credits that a sender holds for a buffer: the flits it has room for (R253). -/
def credits (s : State) (g port vc : Nat) (y : Bool) : Nat :=
  capacity port vc - ((findRouter s g).buf port vc y).flits.length

/-- Where a flit leaves a router: directions 0 to 3, 4 the grove, 5 the shaft, 6 the relay buffer (R254, R256, R262). -/
def exitsOf (g : Nat) (f : NetFlit) : List Nat :=
  let by' := fun (d : Nat) (y : Bool) (last : Nat) => match nextDir g d y with | some k => [k] | none => [last]
  match f.pkt.via with
  | some r => by' r.toNat false 6
  | none =>
    match f.pkt.dest with
    | .grove _ => by' (f.dests.headD g) f.pkt.yFirst 4
    | .shaft _ => by' (f.dests.headD g) f.pkt.yFirst 5
    | .multicast _ _ => treeDirs g f.pkt.src.toNat f.dests ++ (if f.dests.contains g then [4] else [])

/-- The flit as it stands after leaving by an exit: a relay re-injects it in X-then-Y order. -/
def NetFlit.onward (f : NetFlit) (exit : Nat) : NetFlit :=
  if exit = 6 then { f with pkt := { f.pkt with via := none, yFirst := false } } else f

/-- A flit may leave by an exit: the port is free, and the receiving buffer gives a credit; the control VC's ejection is reserved,
that of the others goes at the pace of the grove store (R253, R254, R261). -/
def canLeave (s : State) (r : Router) (f : NetFlit) (exit : Nat) : Bool :=
  if exit = 6 then decide (0 < credits s r.grove 6 f.pkt.kind.vc false)
  else if exit = 5 then true
  else if exit = 4 then f.pkt.kind.vc = 0 || decide (64 ≤ r.pace)
  else (r.port exit).busy = 0 && decide (0 < credits s (neighbour r.grove exit) (opposite exit) f.pkt.kind.vc f.pkt.yFirst)

/-- A packet bound for a grove outside the partition stamped on it is dropped at the first boundary: a tract's edge, or ejection
(R255, R256). -/
def mustDrop (s : State) (g : Nat) (f : NetFlit) : Bool :=
  (exitsOf g f).any (fun k => k = 4 || (k < 4 && leavesTract g k)) && !stampOk s f.pkt

/-- A flit at the head of a buffer, with its exits and its rank. -/
structure Bid where
  key : Nat × Nat × Bool
  flit : NetFlit
  exits : List Nat
  rank : Nat

/-- The flits at the heads of a router's buffers. Which goes first among flits of one rank the spec leaves open: the turn is a free
value. -/
def Router.bids (draw : Nat) (r : Router) : List Bid :=
  let bs := r.bufs.filterMap fun b => b.flits.head?.map fun f =>
    let xs := exitsOf r.grove f
    { key := (b.port, b.vc, b.yFirst), flit := f, exits := xs
      rank := (xs.map fun x => vcRank (r.port x).slots b.vc).foldl min 5 : Bid }
  let k := Config.freeNat draw r.grove % max 1 bs.length
  sortBy (fun a b => a.rank ≤ b.rank) (bs.drop k ++ bs.take k)

/-- The flits that a router sends in one cycle: in order of rank, each once all its exits are free and give a credit; an output
port takes one flit, and a flit that branches goes only with every branch (R253, R256). -/
def grants (s : State) (r : Router) (bids : List Bid) : List Bid :=
  (bids.foldl (fun (a : List Bid × List Nat) b =>
    if b.exits.all fun x => !a.2.contains x && canLeave s r b.flit x then (a.1 ++ [b], a.2 ++ b.exits) else a) ([], [])).1

/-- A slot of an output port after its cycle: which waiting flits with a credit another VC's flit passed over. No slot is counted
where a control flit went. -/
def NetPort.slot (s : State) (r : Router) (bids sent : List Bid) (p : NetPort) : NetPort :=
  let went := sent.find? fun b => b.exits.contains p.dir
  let passed := fun (vc : Nat) => (bids.any fun b => b.key.2.1 = vc && b.exits.contains p.dir && canLeave s r b.flit p.dir)
    && went.any fun w => w.key.2.1 ≠ vc
  let busy := p.busy - 1
  if (went.map fun w => w.key.2.1) = some 0 then { p with busy := busy }
  else
    let slots := ((passed 2, passed 3) :: p.slots).take 64
    { p with busy := busy, slots := if slots.any (fun x => x.1 || x.2) then slots else [] }

/-- A flit leaves router `g` by one exit: it is counted, enters the neighbour's buffer or the relay buffer, or is ejected with the
rest of its packet. -/
def sendFlit (g : Nat) (f : NetFlit) (exit : Nat) (s : State) : State :=
  let vc := f.pkt.kind.vc
  let f := f.onward exit
  let at' := BitVec.ofNat 12 g
  let last := decide (f.pkt.flits ≤ f.index + 1)
  if exit = 6 then updRouter g (Router.updBuf 6 vc false fun b => { b with flits := b.flits ++ [f] }) s
  else
    let s := updNet g (NetCtr.sent vc 1 (seamStep (g, exit))) s
    if exit = 4 then
      let s := updRouter g (fun r => if vc = 0 then r else { r with pace := r.pace - 64 }) s
      if last then { s with out := s.out ++ [.netEject at' f.pkt] } else s
    else if exit = 5 then if last then { s with out := s.out ++ [.netShaft at' f.pkt] } else s
    else
      let half := (meshLink s g exit).stage = .halfWidth
      let s := updMesh g exit (fun l => { l with flits := l.flits + 1 }) s
      let s := updRouter g (Router.updPort exit fun p => { p with
        busy := if half then 1 else 0, replay := (f :: p.replay).take 4 }) s
      let s := updRouter (neighbour g exit) (Router.updBuf (opposite exit) vc f.pkt.yFirst fun b => { b with
        flits := b.flits ++ [f] }) s
      if f.index = 0 then { s with out := s.out ++ [.netForward at' exit f.pkt] } else s

/-- Take the head flit of a buffer out of it. -/
def popFlit (g : Nat) (k : Nat × Nat × Bool) (s : State) : State :=
  updRouter g (Router.updBuf k.1 k.2.1 k.2.2 fun b => { b with flits := b.flits.tail }) s

/-- Drop the flits at the heads of a router's buffers that stand at a boundary their stamp does not pass. Their room is freed, and
the packet is noted at its header. -/
def dropFlits (r : Router) (s : State) : State :=
  r.bufs.foldl (fun s b =>
    match b.flits.head? with
    | some f =>
      if mustDrop s r.grove f then
        let s := popFlit r.grove (b.port, b.vc, b.yFirst) s
        if f.index = 0 then dropPacket f.pkt s else s
      else s
    | none => s) s

/-- One flit of each port enters its buffer, where there is room. A local port and a shaft port inject at most one control packet in
8 cycles (R253). -/
def Router.intake (r : Router) : Router :=
  r.bufs.foldl (fun r b =>
    match b.offered with
    | [] => r
    | f :: fs =>
      let gap := if b.port = 4 then r.localGap else if b.port = 5 then r.shaftGap else 0
      if capacity b.port b.vc ≤ b.flits.length || (b.vc = 0 && f.index = 0 && gap ≠ 0) then r
      else
        let r := r.updBuf b.port b.vc b.yFirst fun b => { b with offered := fs, flits := b.flits ++ [f] }
        if b.vc = 0 && f.index = 0 then
          { r with localGap := if b.port = 4 then 8 else r.localGap, shaftGap := if b.port = 5 then 8 else r.shaftGap }
        else r) r

/-- Output ports with a waiting flit for which the receiving buffer gives no credit. -/
def stalled (s : State) (r : Router) (bids : List Bid) : Nat :=
  ((List.range 4).filter fun d => bids.any fun b => b.exits.contains d
    && credits s (neighbour r.grove d) (opposite d) b.key.2.1 b.key.2.2 = 0).length

/-- The half's arithmetic clock in steps of 1/64 of the network's clock (R261). -/
def storePace (s : State) (g : Nat) : Nat := if gx g < 32 then s.power.nWest else s.power.nEast

/-- What a cycle leaves of a router's waits. -/
def Router.rest (s : State) (bids sent : List Bid) (r : Router) : Router :=
  { r with
    ports := r.ports.map (NetPort.slot s r bids sent)
    localGap := r.localGap - 1, shaftGap := r.shaftGap - 1 }

/-- A router with nothing in it and nothing to wait for. -/
def Router.quiet (r : Router) : Bool :=
  r.bufs.all (fun b => b.offered.isEmpty && b.flits.isEmpty) && r.ports.all (fun p => p.busy = 0 && p.slots.isEmpty)
    && r.localGap = 0 && r.shaftGap = 0 && 64 ≤ r.pace

def netQuiet (s : State) : Bool := s.routers.all Router.quiet

/-- The start of a cycle: every output port with its history, and what ejection may take (R250, R261). -/
def Router.opened (n : Nat) (r : Router) : Router :=
  { r with ports := (List.range 6).map r.port, pace := min 64 r.pace + n }

/-- One cycle of one router, as it stood at the cycle's start. -/
def routerCycle (s0 : State) (r : Router) (s : State) : State :=
  let bids := r.bids s0.draw
  let sent := grants s0 r bids
  let s := updRouter r.grove (Router.rest s0 bids sent) s
  let s := updNet r.grove (fun c => { c with stalls := c.stalls + BitVec.ofNat 64 (stalled s0 r bids) }) s
  sent.foldl (fun s b => b.exits.foldl (fun s x => sendFlit r.grove b.flit x s) (popFlit r.grove b.key s)) s

/-- One network cycle: flits enter, mismatched ones are dropped, and every router sends on what it may. -/
def netCycle (s : State) : State :=
  let s := { s with routers := s.routers.map fun r : Router => r.intake.opened (storePace s r.grove) }
  let s := s.routers.foldl (fun s r => dropFlits r s) s
  let s := s.routers.foldl (fun t r => routerCycle s r t) s
  { s with draw := s.draw + 1 }

/-! ### A packet at a router (R251, R254 to R258, R262) -/

/-- The flits of a packet for the routers given. -/
def packetFlits (p : NetPacket) (dests : List Nat) : List NetFlit :=
  (List.range p.flits).map fun i => ⟨p, i, dests⟩

/-- Offer a packet at an input port of a router. -/
def offerPacket (g port : Nat) (p : NetPacket) (dests : List Nat) (s : State) : State :=
  updRouter g (Router.updBuf port p.kind.vc p.yFirst fun b => { b with offered := b.offered ++ packetFlits p dests }) s

/-- Inject a packet bound for one router: X-then-Y, Y-then-X where that crosses a down link, or by the relay (R254, R262). -/
def injectTo (g port d : Nat) (p : NetPacket) (s : State) : State :=
  let xy := pathOpen s (xyPath g d)
  let yx := pathOpen s (yxPath g d)
  let p := { p with yFirst := !xy && yx, via := if xy || yx then none else some (BitVec.ofNat 12 (relayRouter s g d)) }
  offerPacket g port p [d] s

/-- The stamp that the injecting router puts on a packet of its grove: the partition that owns the tract (R251). -/
def stamped (s : State) (g port : Nat) (p : NetPacket) : NetPacket :=
  match ownerOf s (tractOfCore (256 * g)) with
  | some x => if port = 4 then { p with stamp := x.num } else p
  | none => p

/-- NETWORK_PACKET_ARRIVAL: a packet comes in at a port, and the network runs one cycle. From the grove or a shaft it is injected: it
is stamped, and its order, relay or tree is settled; a destination of a multicast behind a down link gets a copy of its own
(assumption 99). -/
def netArrival (g port : Nat) (p : NetPacket) (s : State) : State :=
  let inject := port = 4 || port = 5
  let p := if inject then stamped s g port p else p
  let s := match p.dest with
    | .grove d => if inject then injectTo g port d.toNat p s else offerPacket g port p [d.toNat] s
    | .shaft sh =>
      let d := attachOf sh.toNat p.src.toNat
      if inject then injectTo g port d p s else offerPacket g port p [d] s
    | .multicast _ _ =>
      let ds := destGroves p.dest
      if inject then
        let open' := ds.filter fun d => pathOpen s (xyPath g d)
        let s := if open'.isEmpty then s else offerPacket g port { p with yFirst := false, via := none } open' s
        (ds.filter fun d => !pathOpen s (xyPath g d)).foldl (fun s d =>
          injectTo g port d { p with dest := .grove (BitVec.ofNat 12 d) } s) s
      else offerPacket g port p ds s
  netCycle s

/-- MESH_FLIT_RESEND: the last flit sent on the link is sent again from the replay buffer, which keeps the port busy for 4 cycles;
with nothing in the buffer nothing can have gone wrong. -/
def meshResend (g d : Nat) (s : State) : State :=
  if ((findRouter s g).port d).replay.isEmpty then s
  else updNet g (fun c => { c with resends := c.resends + 1 })
    (updRouter g (Router.updPort d fun p => { p with busy := p.busy + 4 }) s)

/-- The routers of a partition's tracts are cleared between tenants (R267). -/
def clearRouters (tracts : U64) (s : State) : State :=
  { s with routers := s.routers.filter fun r => !hasTract tracts (tractOfCore (256 * r.grove)) }

end Sys2Proof.Machine
end

