-- ==== Sys2Proof/Machine/CmdHost.lean ====
section
/-! DEFINITION. Health rings (R70, R72), the registers of BAR0 as the host writes them (R312 to R318, R329, R413), feature
agreement (R315), the queue pairs (R317 to R321), and the CXL port (R304 to R306, R310, R333, R420). -/
namespace Sys2Proof.Machine

/-! ### Health rings (R70 to R72) -/

/-- HEALTH_RING_SET. DESIGN CHOICE (assumption 45): a BASE of 2^42 or above is no device address and is answered as an address in a
hole is (R175). -/
def cmdHealthRingSet (_q : QueuePair) (p : Packet) (s : State) : Res :=
  let base := par p 0 8
  let n := par p 8 4
  let c := par p 12 1
  let en := par p 13 1
  let part := pktPart p
  if 7 < c || 1 < en then fail stBadLength s
  else if en = 0 then ok [] (updCtx part c (fun x => { x with ring := none }) s)
  else if 2 ^ 42 ≤ base || !validAddr base then fail stBadLength s
  else
    match (findPart s part).bind fun x => x.regions.findSome? fun r => (r.offset base).map fun o => (r, o) with
    | none => fail stNotPermitted s
    | some (r, o) =>
      if base % 64 ≠ 0 || r.kind = 2 then fail stNotPermitted s
      else if n < 16 || 1048576 < n || 1048576 % n ≠ 0 then fail stBadLength s
      else if r.size < o + 64 + 64 * n then fail stExceeds s
      else
        ok [] (updCtx part c (fun x => { x with ring := some ⟨base, n, 0, 0⟩ })
          (writeAt ((List.range 64).map fun i => r.addr (o + i)) (zeros 64) s))

/-- HEALTH_RING_STATUS. -/
def cmdHealthRingStatus (_q : QueuePair) (p : Packet) (s : State) : Res :=
  let c := par p 0 4
  if 7 < c then fail stBadLength s
  else
    match ((findPart s (pktPart p)).map fun x => x.context c).bind (·.ring) with
    | none => ok (zeros 16) s
    | some r => ok (toLE 8 r.produced ++ toLE 8 r.dropped) s

/-! ### Queue pairs -/

/-- A new pair: empty rings, first pass with PHASE 1. -/
def QueuePair.make (qp : Nat) (operator : Bool) (part : Option (BitVec 4)) (ctx : Option (BitVec 3)) (qflags vector coalCount
    coalTime : Nat) (sq cq : U64) (log2 : Nat) : QueuePair :=
  { qp := BitVec.ofNat 6 qp, operator := operator, part := part, ctx := ctx, expertOk := decide (qflags % 2 = 1),
    quietAccept := decide (qflags / 2 % 2 = 1), vector := vector, coalCount := coalCount, coalTime := coalTime, sqBase := sq,
    cqBase := cq, depth := 2 ^ log2, fetch := 0, tail := 0, slot := 0, head := 0, phase := true, cseq := 0, gathered := 0,
    state := .active, deleter := none, outstanding := [], waiting := [], fenced := [], energy := 0, pubEnergy := 0 }

/-- QUEUE_CREATE. -/
def cmdQueueCreate (_q : QueuePair) (p : Packet) (s : State) : Res :=
  let qp := par p 0 1
  let log2 := par p 1 1
  let role := par p 2 1
  let part := par p 3 1
  let ctx := par p 4 1
  let vec := par p 6 1
  let sq := par p 8 8
  let cq := par p 16 8
  let time := par p 24 2
  if qp = 0 || 63 < qp || (findPair s (BitVec.ofNat 6 qp)).isSome then fail stNotPermitted s
  else if log2 = 0 || 16 < log2 || 1 < role || 63 < vec || 1000 < time || sq % 4096 ≠ 0 || cq % 4096 ≠ 0
      || (15 < part && !(part = 255 && role = 0)) || (7 < ctx && !(ctx = 255 && role = 0)) then fail stBadLength s
  else if part ≠ 255 && (findPart s (BitVec.ofNat 4 part)).isNone then fail stNotPermitted s
  else
    ok [] { s with pairs := s.pairs ++ [QueuePair.make qp (decide (role = 0))
      (if part = 255 then none else some (BitVec.ofNat 4 part)) (if ctx = 255 then none else some (BitVec.ofNat 3 ctx))
      (par p 5 1) vec (par p 7 1) time (BitVec.ofNat 64 sq) (BitVec.ofNat 64 cq) log2] }

/-- Deletion of a pair begins: no more fetching, held and not yet eligible steps are cancelled (R321). -/
def beginDeletion (qp : BitVec 6) (deleter : Option Origin) (s : State) : State :=
  cancelQueue qp (updPair qp (fun q => { q with state := .deleting, deleter := deleter }) s)

/-- QUEUE_DELETE: the final completion follows when every command fetched from the pair has posted its own. -/
def cmdQueueDelete (_q : QueuePair) (p : Packet) (s : State) : Res :=
  let n := par p 0 1
  if n = 0 || 63 < n then fail stBadLength s
  else
    let qp := BitVec.ofNat 6 n
    match findPair s qp with
    | none => fail stNotPermitted s
    | some d =>
      if qp = p.qp || d.state = .deleting then fail stNotPermitted s
      else (.waits, beginDeletion qp (some (pktOrigin p)) s)

/-- Pairs whose deletion by QUEUE_DELETE can end now. -/
def finishDeletions (s : State) : State :=
  s.pairs.foldl (fun s d =>
    match d.deleter with
    | none => s
    | some o =>
      match findPair s d.qp with
      | none => s
      | some q =>
        if q.state = .deleting && q.outstanding.isEmpty then
          finish o stOk 0 [] { s with pairs := s.pairs.filter fun x => x.qp ≠ d.qp }
        else s) s

/-- Steps of a pair held for batching. -/
def heldOfPair (s : State) (qp : BitVec 6) : Nat :=
  ((s.partitions.flatMap fun x => x.contexts.flatMap fun c => c.sets.flatMap (·.steps)).filter fun h => h.origin.qp = qp).length

/-- QUEUE_STATUS. -/
def cmdQueueStatus (q : QueuePair) (p : Packet) (s : State) : Res :=
  let n := par p 0 1
  if 63 < n then fail stBadLength s
  else if !q.operator && BitVec.ofNat 6 n ≠ q.qp then fail stNotPermitted s
  else
    match findPair s (BitVec.ofNat 6 n) with
    | none => ok (zeros 16) s
    | some d =>
      let st := match d.state with | .active => 1 | .stopped => 2 | .deleting => 3
      ok (toLE 2 d.fetch ++ toLE 2 d.slot ++ toLE 4 d.outstanding.length ++ toLE 4 (heldOfPair s d.qp) ++ toLE 1 st ++ zeros 3) s

/-! ### Doorbells (R318) -/

/-- Host registers can be reached: the block runs, its port is up and no warm reset is in progress (R421). -/
def hostReach (s : State) : Bool := alive s && s.cxl.up && !s.start.inReset

/-- A bad doorbell value: discarded, the pair's QERR bit set, one record, no more fetching. -/
def badDoorbell (qp : BitVec 6) (s : State) : State := stopPair qp (queueError qp.toNat s)

/-- A write to SQ_TAIL. -/
def writeTail (qp : BitVec 6) (value : U32) (s : State) : State :=
  match findPair s qp with
  | none => s
  | some q =>
    let v := value.toNat % 65536
    if q.depth ≤ v || decide ((v + q.depth - q.fetch) % q.depth < (q.tail + q.depth - q.fetch) % q.depth) then badDoorbell qp s
    else updPair qp (fun q => { q with tail := v }) s

/-- A write to CQ_HEAD: completions that waited for room are posted. -/
def writeHead (qp : BitVec 6) (value : U32) (s : State) : State :=
  match findPair s qp with
  | none => s
  | some q =>
    let v := value.toNat % 65536
    if q.depth ≤ v || decide ((q.slot + q.depth - q.head) % q.depth < (v + q.depth - q.head) % q.depth) then badDoorbell qp s
    else flush qp (updPair qp (fun q => { q with head := v }) s)

/-! ### Global control (R315 to R317, R329) -/

/-- What a start in recovery mode offers (R422): BASE alone. -/
def offeredNow (s : State) : BitVec 128 := if s.start.stage = 0xF1 then 1 else offered

/-- Writes to the control registers take effect from READY on, and in recovery mode (R420, R422). -/
def controlOpen (s : State) : Bool := s.start.ready || s.start.stage = 0xF1

/-- NEGOTIATE written 1. -/
def doNegotiate (s : State) : State :=
  if !controlOpen s then s
  else if s.bar.negotiated then recordHost 1 0 s
  else { s with bar := { s.bar with agreed := s.bar.requested &&& offeredNow s, negotiated := true } }

/-- The admin pair's configuration is usable. -/
def admqGood (s : State) : Bool :=
  decide (1 ≤ s.bar.admqCfg.toNat) && decide (s.bar.admqCfg.toNat ≤ 16) && s.bar.admqSq.toNat % 4096 = 0
    && s.bar.admqCq.toNat % 4096 = 0

/-- ADMQ_EN written 1. -/
def setAdmq (s : State) : State :=
  if !controlOpen s || s.bar.admqEn || s.bar.admqDel then s
  else if admqGood s then
    { s with
      bar := { s.bar with admqEn := true }
      pairs := s.pairs ++ [QueuePair.make 0 true none none 0 0 1 0 s.bar.admqSq s.bar.admqCq s.bar.admqCfg.toNat] }
  else queueError 0 s

/-- ADMQ_EN written 0. -/
def clearAdmq (s : State) : State :=
  if !controlOpen s || !s.bar.admqEn then s
  else beginDeletion 0 none { s with bar := { s.bar with admqEn := false, admqDel := true } }

/-- The deletion of pair 0 ends: every command fetched from it has posted its final completion. -/
def admqDeleted (s : State) : State :=
  match findPair s 0 with
  | none => s
  | some q =>
    if s.bar.admqDel && q.outstanding.isEmpty then
      { s with pairs := s.pairs.filter fun x => x.qp ≠ 0, bar := { s.bar with admqDel := false } }
    else s

/-- Ones written to QERR.LO or QERR.HI. -/
def clearQerr (hi : Bool) (v : U32) (s : State) : State :=
  let m : U64 := if hi then v.setWidth 64 <<< 32 else v.setWidth 64
  { s with bar := { s.bar with qerr := s.bar.qerr &&& ~~~m } }

/-- Ones written to EVENTS. -/
def clearEvents (v : U32) (s : State) : State :=
  { s with bar := { s.bar with events := s.bar.events &&& ~~~(v.setWidth 5) } }

/-- EVENT_MASK written: vector 64 fires when a bit newly set has its event. -/
def setMask (v : U32) (s : State) : State :=
  let m : BitVec 5 := v.setWidth 5
  let newly := m &&& ~~~s.bar.mask &&& s.bar.events
  let s := { s with bar := { s.bar with mask := m } }
  if newly = 0 then s else fireVector 64 s

/-! ### The recorder window (R413) -/

/-- 32 bits of a 64-bit register replaced. -/
def put32 (hi : Bool) (v : U32) (x : U64) : U64 :=
  if hi then (x.setWidth 32).setWidth 64 ||| (v.setWidth 64 <<< 32) else ((x >>> 32) <<< 32) ||| v.setWidth 64

/-- The oldest record number from which a fill can start at or after `n`, and whether `n` was no longer held. -/
def fillStart (r : Recorder) (n : Nat) : Nat × Bool :=
  if 4096 ≤ n && decide (n + 4096 < r.next) then (r.next - 4096, true) else (n, false)

/-- Whole records from the list that fit `room` bytes and `k` records, consecutive from number `n`. -/
def takeRecords : Nat → Nat → Nat → List (Nat × List Byte) → List (List Byte)
  | _, _, _, [] => []
  | n, room, k, (m, b) :: rs =>
    if m < n then takeRecords n room k rs
    else if m = n ∧ b.length ≤ room ∧ 0 < k then b :: takeRecords (n + 1) (room - b.length) (k - 1) rs
    else []

/-- REC_START.LO written: a fill begins. -/
def startFill (v : U32) (s : State) : State :=
  { s with bar := { s.bar with recStart := put32 false v s.bar.recStart, recBusy := true } }

/-- A fill ends. A fill that starts in the pinned area stays in it where the circulating area does not continue it. -/
def fillDone (s : State) : State :=
  if !s.bar.recBusy then s
  else
    let st := fillStart s.recorder s.bar.recStart.toNat
    let bs := takeRecords st.1 4096 256 s.recorder.records
    { s with bar := { s.bar with
      recBusy := false, recGap := st.2, recCount := bs.length, recFirst := BitVec.ofNat 64 st.1, window := bs.flatten } }

/-! ### Any other register (R312) -/

/-- A write to the requested bits: discarded and recorded after the first NEGOTIATE (R315). -/
def writeRequested (k : Nat) (v : U32) (s : State) : State :=
  if s.bar.negotiated then recordHost 1 0 s
  else
    let keep : BitVec 128 := ~~~((0xFFFFFFFF : BitVec 128) <<< (32 * k))
    { s with bar := { s.bar with requested := (s.bar.requested &&& keep) ||| (v.setWidth 128 <<< (32 * k)) } }

/-- A write to the admin pair's address and depth registers: only while it is neither enabled nor being deleted. -/
def writeAdmq (off : Nat) (v : U32) (s : State) : State :=
  if s.bar.admqEn || s.bar.admqDel || !controlOpen s then s
  else if off = 0x3008 then { s with bar := { s.bar with admqSq := put32 false v s.bar.admqSq } }
  else if off = 0x300C then { s with bar := { s.bar with admqSq := put32 true v s.bar.admqSq } }
  else if off = 0x3010 then { s with bar := { s.bar with admqCq := put32 false v s.bar.admqCq } }
  else if off = 0x3014 then { s with bar := { s.bar with admqCq := put32 true v s.bar.admqCq } }
  else { s with bar := { s.bar with admqCfg := v.setWidth 5 } }

/-- A write to the MSI-X table; vectors that wait and are masked no more fire. -/
def writeMsix (off : Nat) (v : U32) (s : State) : State :=
  let n := (off - 0x6000) / 16
  let f : MsixEntry → MsixEntry := fun e =>
    if off % 16 = 0 then { e with addr := put32 false v e.addr }
    else if off % 16 = 4 then { e with addr := put32 true v e.addr }
    else if off % 16 = 8 then { e with data := v }
    else { e with ctrl := v &&& 1 }
  firePending { s with bar := { s.bar with msix := setAt s.bar.msix n f } }

/-- An aligned 32-bit write of BAR0; reserved and read-only registers discard it. -/
def barWrite (off : Nat) (v : U32) (s : State) : State :=
  if 0x1010 ≤ off ∧ off < 0x1020 then writeRequested ((off - 0x1010) / 4) v s
  else if 0x2000 ≤ off ∧ off < 0x2400 then
    let qp := BitVec.ofNat 6 ((off - 0x2000) / 16)
    if !controlOpen s then s
    else if off % 16 = 0 then writeTail qp v s else if off % 16 = 8 then writeHead qp v s else s
  else if off = 0x3004 then
    let s := if v.getLsbD 0 then doNegotiate s else s
    if v.getLsbD 1 then setAdmq s else clearAdmq s
  else if 0x3008 ≤ off ∧ off ≤ 0x3018 then writeAdmq off v s
  else if off = 0x3020 then clearQerr false v s
  else if off = 0x3024 then clearQerr true v s
  else if off = 0x3030 then clearEvents v s
  else if off = 0x3034 then setMask v s
  else if off = 0x4008 then startFill v s
  else if off = 0x400C then { s with bar := { s.bar with recStart := put32 true v s.bar.recStart } }
  else if 0x6000 ≤ off ∧ off < 0x6410 then writeMsix off v s
  else s

/-- A write of any size: only an aligned 4-byte write is served (R312). -/
def barWriteSized (off size : Nat) (v : U32) (s : State) : State := if size = 4 ∧ off % 4 = 0 then barWrite off v s else s

/-- Doorbells before READY are discarded (R420). -/
def writeTailOpen (qp : BitVec 6) (v : U32) (s : State) : State := if controlOpen s then writeTail qp v s else s
def writeHeadOpen (qp : BitVec 6) (v : U32) (s : State) : State := if controlOpen s then writeHead qp v s else s

/-! ### Timers of the queue pairs -/

/-- COAL_TIME after the first ungathered completion: the vector fires. -/
def coalExpired (qp : BitVec 6) (s : State) : State :=
  match findPair s qp with
  | none => s
  | some q => if q.gathered = 0 then s else fireVector q.vector (updPair qp (fun q => { q with gathered := 0 }) s)

/-- 10 µs after fetch without a final completion: ACCEPTED is posted. -/
def acceptedTimeout (qp : BitVec 6) (tag : U32) (s : State) : State :=
  match findPair s qp with
  | none => s
  | some q =>
    if q.unaccepted tag && !(q.waiting.any fun w => w.tag = tag && w.status ≠ stAccepted) then
      post qp ⟨tag, stAccepted, 0, []⟩ s
    else s

/-! ### The CXL port -/

/-- A lane of the CXL link failed: the link retrains at ×4 on the half without a failed lane (R305). -/
def cxlLaneFailed (lane : Nat) (s : State) : State :=
  let bad := s.cxl.badLanes ||| (1#8 <<< lane)
  let x4 := { s with cxl := { s.cxl with badLanes := bad } }
  if bad &&& 0x0F#8 ≠ 0 && bad &&& 0xF0#8 ≠ 0 then { x4 with cxl := { x4.cxl with up := false } }
  else if s.cxl.x4 then x4
  else raiseEvent evWidth { x4 with cxl := { x4.cxl with x4 := true } }

/-- The link is lost: completions wait. -/
def cxlDown (s : State) : State := { s with cxl := { s.cxl with up := false } }

/-- The link has retrained: what waited is posted, and interrupts that waited fire. -/
def cxlRetrained (s : State) : State :=
  if s.cxl.badLanes &&& 0x0F#8 ≠ 0 && s.cxl.badLanes &&& 0xF0#8 ≠ 0 then s
  else
    let s := firePending { s with cxl := { s.cxl with up := true, trained := true } }
    s.pairs.foldl (fun s q => flush q.qp s) s

/-- CXL_LINK_RETRAINED: a link that had trained and went down is up again. -/
def cxlBack (s : State) : State := if s.cxl.trained && !s.start.inReset then cxlRetrained s else s

/-- Configuration readiness (R420): the link has trained and STAGE has reached 0x04. -/
def configReady (s : State) : Bool := s.cxl.trained && decide (4 ≤ s.start.stage.toNat)

/-- A configuration request. -/
def configRequest (reg : Nat) (s : State) : State :=
  { s with out := s.out ++ [if configReady s then .configData (Config.configSpace reg) else .configRetry] }

/-- A command of the primary mailbox: those that CXL 3.1 makes mandatory for a Type 3 device, and no others. -/
def mailbox (op : BitVec 16) (payload : List Byte) (s : State) : State :=
  { s with out := s.out ++
    [.mailbox (Config.mailboxMandatory op.toNat)
      (if Config.mailboxMandatory op.toNat then Config.mailboxReply op.toNat payload else [])] }

/-- A TLP or flit fails its IDE check: dropped, the stream enters the error state, one record. -/
def ideFailed (stream : Byte) (s : State) : State :=
  recordHost 2 stream.toNat
    { s with cxl := { s.cxl with ideError := if s.cxl.ideError.contains stream then s.cxl.ideError else s.cxl.ideError ++ [stream] } }

/-- IDE_KM sets or refreshes a link key at the point it names; a key set anew ends the stream's error state. -/
def ideKeyed (stream : Byte) (setKey : Bool) (s : State) : State :=
  let cxl := { s.cxl with
    ideKeys := upsert (fun e => e.1 = stream) (fun e => (e.1, e.2 + 1)) (stream, 0) s.cxl.ideKeys
    ideError := if setKey then s.cxl.ideError.filter (· ≠ stream) else s.cxl.ideError }
  { s with cxl := cxl }

end Sys2Proof.Machine
end

