-- ==== Sys2Proof/Machine/Channels.lean ====
section
/-! DEFINITION. The vertical channels: command words and the layers that take them (R26), and the trained phase offsets (R29). -/
namespace Sys2Proof.Machine

/-! ### Commands (R26) -/

/-- Parity of the bits of even (k = 0) or odd (k = 1) index among bits [29:0]. -/
def halfParity (w k : Nat) : Nat := ((List.range 15).map fun i => bitsOf w (2 * i + k) 1).sum % 2

/-- A channel command word (R26): even parity over the bits of even and of odd index. -/
def channelWord (op layer line : Nat) : U32 :=
  let w := op + 2 ^ 3 * layer + 2 ^ 8 * line
  BitVec.ofNat 32 (w + 2 ^ 30 * halfParity w 0 + 2 ^ 31 * halfParity w 1)

/-- Lines of a segment: data and tag lines of a root layer; data, tag and test lines of a clearing layer. -/
def segmentLines (phys : Nat) : Nat := if 6 ≤ phys then 1548 else 1040

/-- Operations that name no line: REFRESH, MODE and the self-refresh operations. -/
def wholeLayerOp (op : Nat) : Bool := 3 ≤ op && op ≤ 6

/-- A layer takes a command that names it, or all layers where the operation may, with right parity and a LINE of its own; it ignores
any other. OP 7 is reserved. -/
def channelAccepts (phys : Nat) (w : U32) : Bool :=
  let n := w.toNat
  let op := bitsOf n 0 3
  let layer := bitsOf n 3 5
  let line := bitsOf n 8 11
  2 ≤ phys && phys ≤ 22 && op ≠ 7 && (layer = phys || (layer = 31 && wholeLayerOp op)) && (wholeLayerOp op || line < segmentLines phys)
    && bitsOf n 19 11 = 0 && bitsOf n 30 1 = halfParity (n % 2 ^ 30) 0 && bitsOf n 31 1 = halfParity (n % 2 ^ 30) 1

/-- Every channel controller sends a command to all layers. -/
def broadcastCommand (op : Nat) (s : State) : State := { s with out := s.out ++ [.channels (channelWord op 31 0)] }

/-- Every layer enters self-refresh. -/
def enterSelfRefresh (s : State) : State :=
  broadcastCommand 5 { s with start := { s.start with selfRefresh := true } }

/-- Every layer leaves self-refresh. -/
def exitSelfRefresh (s : State) : State :=
  broadcastCommand 6 { s with start := { s.start with selfRefresh := false } }

/-- CHANNEL_COMMAND_TIMEOUT: the layers have ignored the command, which is sent again, and one lane-error event on lanes 18 to 21 is
counted. -/
def commandTimeout (core : Nat) (cmd : U32) (s : State) : State :=
  { s with
    laneErrors := upsert (fun x => x.1 = core) (fun x => (x.1, x.2 + 1)) (core, 0) s.laneErrors
    out := s.out ++ [.channel core cmd] }

/-! ### Phase offsets (R29) -/

/-- The trained offset of a layer on a channel; none before bring-up. -/
def phaseOf (s : State) (core layer : Nat) : Option Nat :=
  match s.phases.find? fun x => x.1 = core && x.2.1 = layer with
  | some x => some x.2.2
  | none => s.phasesAt.map fun d => Config.phaseOffset core layer d

/-- Bring-up trains the offset of every layer on every channel. -/
def trainPhases (s : State) : State := { s with phases := [], phasesAt := some s.draw, draw := s.draw + 1 }

/-- PHASE_RETRAIN: the offset of every layer is trained anew (R29). -/
def phaseRetrained (core : Nat) (s : State) : State :=
  { s with
    draw := s.draw + 1
    phases := (s.phases.filter fun x => x.1 ≠ core)
      ++ (List.range 21).map fun i => (core, i + 2, Config.phaseOffset core (i + 2) s.draw) }

end Sys2Proof.Machine
end

