-- ==== Sys2Proof/Machine/Links.lean ====
section
/-! DEFINITION. Fezon links (R269 to R279), the commands of the fabric (R278 to R280, R284 to R287, R292 to R294, R300), and
what each type of packet does where it arrives (R282, R290, R291, R295 to R301). -/
namespace Sys2Proof.Machine

/-! ### Links (R276, R277) -/

/-- Buffers of the far end, in flits, by VC (R274). -/
def vcBuffers : List Nat := [32, 256, 512, 128]

/-- A link's ends start afresh when it trains. -/
def Link.restart (l : Link) (st : LinkState) : Link :=
  { l with state := st, width := 0, txNext := 0, acked := 4095, rxNext := 0, naked := false, replay := [], queue := [],
           credits := vcBuffers, owed := [0, 0, 0, 0], slots := [], closing := false, partialPkt := [[], [], [], []] }

/-- Forward a packet again over the remaining links of its entry (R277); its source holds it where there is none. -/
def reforward (p : FabPacket) (s : State) : State :=
  match chooseLink s p with
  | some n => toLink n p s
  | none => if p.src.toNat = s.fabric.devId.toNat then holdPacket p s else sendUnreachable p s

/-- Automatic entries of a link are withdrawn (R286). -/
def dropAuto (n : Nat) (s : State) : State :=
  { s with fabric := { s.fabric with
      routes := s.fabric.routes.filter fun r => !(bitsOf r.2.toNat 27 1 = 1 && bitsOf r.2.toNat 0 6 = n) } }

/-- Packets that a link has not delivered, oldest first: those whose last flit is unacknowledged or waits (R277). -/
def Link.undelivered (l : Link) : List FabPacket := ((l.replay.map (·.flit)) ++ l.queue).filterMap FlitBody.lastOf

/-- Take a link out of use: what it has not delivered goes another way. -/
def emptyLink (n : Nat) (st : LinkState) (s : State) : State :=
  let ps := (findLink s n).undelivered
  retryHeld (ps.foldl (fun s p => reforward p s) (dropAuto n (updLink n (fun l => l.restart st) s)))

/-- A link that has been told to stop is DISABLED, and whatever remains goes another way (R279). -/
def disableLink (n : Nat) (s : State) : State := settleReserve (emptyLink n .disabled s)

/-- A link goes DOWN (R276, R277): the third time within an hour it stays so. -/
def linkDown' (n : Nat) (s : State) : State :=
  let now := Config.elapsedMs s.draw
  let s := updLink n (fun l =>
    let ts := (l.downTimes.filter fun t => decide (now ≤ t + 3600000)) ++ [now]
    { l with downs := l.downs + 1, downTimes := ts, latched := decide (3 ≤ ts.length) }) { s with draw := s.draw + 1 }
  settleReserve (recordLink n (emptyLink n .down s))

/-- The same for a link that carries traffic. -/
def failLink (n : Nat) (s : State) : State := if (findLink s n).carries then linkDown' n s else s

/-- ACK_DEADLINE: something has waited 2 µs without acknowledgement. A link that is being disabled stops then (R279). -/
def ackDeadline (n : Nat) (s : State) : State :=
  let l := findLink s n
  if l.replay.isEmpty then s
  else if l.closing then disableLink n s
  else failLink n s

/-- Lanes 0 to 3, and 4 to 7. -/
def lowHalf (lanes : BitVec 8) : Bool := lanes &&& 0x0F ≠ 0
def highHalf (lanes : BitVec 8) : Bool := lanes &&& 0xF0 ≠ 0

/-- LINK_LANE_FAILURE: the link goes DOWN to retrain; at half width only a lane in use matters. -/
def laneFailure (n lane : Nat) (s : State) : State :=
  let l := findLink s n
  let bad := l.badLanes ||| (1#8 <<< lane)
  let s := updLink n (fun l => { l with badLanes := bad }) s
  if l.state = .up || (l.state = .half && lowHalf bad && highHalf bad) then linkDown' n s else s

/-- LINK_RETRAIN_TIMER. -/
def retrainTimer (n : Nat) (s : State) : State :=
  updLink n (fun l => if l.state = .down && !l.latched then { l with state := .training } else l) s

/-- LINK_TRAINING_DONE: UP, HALF, or unable to run; without a peer, DISABLED. A peer without a route gets an automatic one
(R286). -/
def trainingDone (n : Nat) (p : LinkPeer) (s : State) : State :=
  if (findLink s n).state ≠ .training then s
  else if !p.present then updLink n (fun l => l.restart .disabled) s
  else
    let s := putFlit n (some .hello) (findLink s n).txNext false s
    let bad := p.badLanes
    let st : LinkState := if lowHalf bad && highHalf bad then .down else if bad ≠ 0 then .half else .up
    -- HELLO is the last part of training; numbers start anew once it is over (assumption 110)
    let s := updLink n (fun l => { l.restart st with
      width := match st with | .up => 8 | .half => 4 | _ => 0
      badLanes := bad, peerId := p.id, peerLink := p.link }) s
    if st = .down then settleReserve s
    else
      let none' := bitsOf (routeEntry s p.id.toNat) 24 3 = 0 && p.id ≠ 0x7FFF && p.id ≠ s.fabric.devId
      let s := if none' then { s with fabric := { s.fabric with
          routes := (s.fabric.routes.filter fun r => r.1 ≠ p.id.toNat)
            ++ [(p.id.toNat, BitVec.ofNat 64 (n + 2 ^ 24 + 2 ^ 27))] } } else s
      retryHeld (settleReserve s)

/-! ### Received flits (R271 to R274) -/

/-- A cumulative acknowledgement. -/
def Link.acknowledge (l : Link) (ack : Nat) : Link :=
  let d := (ack + 4096 - l.acked) % 4096
  if l.inFlight < d then l
  else { l with
    acked := ack
    replay := l.replay.filter fun r => decide (d < (r.lseq + 4096 - l.acked) % 4096) }

/-- Credits, NAK and acknowledgement carried by an accepted flit. -/
def takeHeader (n : Nat) (h : Nat) (s : State) : State :=
  let s := updLink n (fun l =>
    let l := if bitsOf h 33 1 = 1 then l.acknowledge (bitsOf h 20 12) else l
    let vc := bitsOf h 34 2
    { l with
      credits := setAt l.credits vc fun c => min (nth vcBuffers vc 0) (c + bitsOf h 36 6)
      ackMax := BitVec.ofNat 32 (max l.ackMax.toNat (Config.freeNat s.draw 1 % 2 ^ 32)) }) { s with draw := s.draw + 1 }
  let s := if bitsOf h 32 1 = 1 then
      (findLink s n).replay.foldl (fun s r => putFlit n (some r.flit) r.lseq false s)
        (updLink n (fun l => { l with replays := l.replays + 1 }) s)
    else s
  let l := findLink s n
  if l.closing && l.replay.isEmpty then disableLink n s else pumpLink n s

/-- A discarded flit: the first one causes a NAK (R272). -/
def discardFlit (n : Nat) (s : State) : State :=
  let l := findLink s n
  if l.naked then s else putFlit n none l.txNext true (updLink n (fun l => { l with naked := true }) s)

/-- A whole packet has come in on a link. -/
def packetIn (p : FabPacket) (s : State) : State :=
  if !hasId s then s
  else if 4096 < p.bodylen.toNat ∨ p.bodylen.toNat ≠ p.body.length then recordPacket 4 p.header s
  else if p.dst.toNat = s.fabric.devId.toNat then { s with fabric := { s.fabric with arrivals := s.fabric.arrivals ++ [p] } }
  else transit p s

/-- A DATA or LINKCTL flit in sequence. -/
def acceptFlit (n : Nat) (flit : List Byte) (s : State) : State :=
  let h := fld flit 0 8
  let data := decide (bitsOf h 0 4 = 1)
  let vc := bitsOf h 4 2
  let l := findLink s n
  let sofar := if data then (if bitsOf h 6 1 = 1 then [] else nth l.partialPkt vc []) ++ slice flit 8 (bitsOf h 48 8) else []
  let whole := data && decide (bitsOf h 7 1 = 1)
  let count := !data || counted s (parsePacket vc sofar)
  let s := updLink n (fun l => { l with
    rxNext := (l.rxNext + 1) % 4096
    naked := false
    flitsRx := if count then l.flitsRx + 1 else l.flitsRx
    owed := if data then setAt l.owed vc fun o => o + 1 else l.owed
    peerId := if data then l.peerId else BitVec.ofNat 15 (fld flit 8 2)
    peerLink := if data then l.peerLink else BitVec.ofNat 8 (fld flit 10 1)
    partialPkt := if data then setAt l.partialPkt vc fun _ => if whole then [] else sofar else l.partialPkt }) s
  let s := takeHeader n h (putFlit n none (findLink s n).txNext false s)
  if whole then packetIn (parsePacket vc sofar) s else s

/-- FLIT_RECEIVE. -/
def flitReceived (n : Nat) (flit : List Byte) (fecFailed : Bool) (s : State) : State :=
  let l := findLink s n
  let h := fld flit 0 8
  let ft := bitsOf h 0 4
  let s := { updLink n (fun l => { l with
      cwUncorr := if fecFailed then l.cwUncorr + 1 else l.cwUncorr
      cwCorrected := l.cwCorrected + BitVec.ofNat 64 (Config.freeNat s.draw 2) }) s with draw := s.draw + 1 }
  if !l.carries && l.state ≠ .training then s
  else if fecFailed || fld32 flit 0xFC ≠ crc32c (flit.take 0xFC) || 2 < ft then discardFlit n s
  else if bitsOf h 8 12 ≠ l.rxNext then discardFlit n s
  else if ft = 0 then takeHeader n h s
  else if l.carries || ft = 2 then acceptFlit n flit s
  else s

/-! ### Views (R288 to R293) -/

/-- JOIN: the coordinator gathers. -/
def joinHandler (p : FabPacket) (s : State) : State :=
  match findGroup s p.dstPart p.group with
  | none => s
  | some g =>
    if g.coord ≠ fabAddr s g.part then s
    else
      let a := fld p.body 0 4 % 2 ^ 19
      updGroup g.part g.id (fun g => { g with proposal := { g.proposal with
        joins := if g.proposal.joins.contains a || g.members.contains a then g.proposal.joins else g.proposal.joins ++ [a]
        pinned := if fld p.body 4 1 % 2 = 1 then g.proposal.pinned ++ [a] else g.proposal.pinned } }) s

/-- LEAVE. -/
def leaveHandler (p : FabPacket) (s : State) : State :=
  match findGroup s p.dstPart p.group with
  | none => s
  | some g =>
    if g.coord ≠ fabAddr s g.part then s
    else
      let a := fld p.body 0 4 % 2 ^ 19
      updGroup g.part g.id (fun g => { g with proposal := { g.proposal with
        joins := g.proposal.joins.filter (· ≠ a)
        leaves := if g.proposal.leaves.contains a || !g.members.contains a then g.proposal.leaves
          else g.proposal.leaves ++ [a] } }) s

/-- PREPARE: once the whole list is here, answer READY with S and PINNED, and start no group operation. A joiner has S = 0. -/
def prepareHandler (p : FabPacket) (s : State) : State :=
  match findGroup s p.dstPart p.group with
  | none => s
  | some g =>
    if p.epoch.toNat ≤ g.epoch then s
    else
      let started := if g.epoch = 0 then 0
        else g.cseq + (match findPart s g.part with
          | some x => ((List.range 8).filter fun c => waitsAtGroup s x g.id c).length
          | none => 0)
      let n := p.pseq.toNat / 2 ^ 48
      let old := match g.prepared with | some (e, _, ms) => if e = p.epoch.toNat then ms else [] | none => []
      let ms := (old ++ membersOf p.body).eraseDups
      let s := updGroup g.part g.id (fun g => { g with prepared := some (p.epoch.toNat, n, ms) }) s
      if ms.length < n then s
      else
      let s := updGroup g.part g.id (fun g => { g with
        stopped := decide (g.epoch ≠ 0), state := if g.state = .member then .changing else g.state }) s
      sendView g.part p.srcAddr 0x13 g.id p.epoch.toNat started
        (toLE 8 started ++ toLE 1 (if pinned s g.part g.id then 1 else 0)) s

/-- READY: gathered by the coordinator until every answer is in. One for the present epoch tells a new coordinator of a member's
RECOORD (assumption 111). -/
def readyHandler (p : FabPacket) (s : State) : State :=
  match findGroup s p.dstPart p.group with
  | none => s
  | some g =>
    if g.epoch ≠ 0 && p.epoch.toNat = g.epoch then
      updGroup g.part g.id (fun g => { g with recoords := (g.recoords ++ [p.srcAddr]).eraseDups }) s
    else if !g.proposal.sent || p.epoch.toNat ≠ g.epoch + 1 then s
    else
      let a := (p.srcAddr, fld p.body 0 8, decide (fld p.body 8 1 % 2 = 1))
      concludeView g.part g.id (updGroup g.part g.id (fun g => { g with proposal := { g.proposal with
        answers := (g.proposal.answers.filter fun x => x.1 ≠ a.1) ++ [a] } }) s)

/-- COMMIT: the switch follows once operations below B are done and the whole list is here. -/
def commitHandler (p : FabPacket) (s : State) : State :=
  match findGroup s p.dstPart p.group with
  | none => s
  | some g =>
    if p.epoch.toNat ≤ g.epoch then s
    else
      let b := p.pseq.toNat % 2 ^ 48
      let n := p.pseq.toNat / 2 ^ 48
      let old := match g.commit with | some (e, _, _, ms) => if e = p.epoch.toNat then ms else [] | none => []
      let ms := (old ++ membersOf p.body).eraseDups
      releaseReorder (switchView g.part g.id (updGroup g.part g.id (fun g => { g with
        commit := some (p.epoch.toNat, b, n, ms), stopped := false }) s))

/-- ABANDON: the view does not change; joins and leaves complete NOT_PERMITTED. -/
def abandonHandler (p : FabPacket) (s : State) : State :=
  match findGroup s p.dstPart p.group with
  | none => s
  | some g =>
    if p.epoch.toNat ≤ g.epoch then s
    else if g.epoch = 0 then
      g.waiters.foldl (fun s o => finish o stNotPermitted 0 [] s) (dropGroup g.part g.id s)
    else
      finishIf g.leaver stNotPermitted [] (updGroup g.part g.id (fun g => { g with
        state := .member, stopped := false, leaver := none, prepared := none, commit := none }) s)

/-! ### Other packets -/

/-- DATA: handed to the canopy in flow order. -/
def dataHandler (p : FabPacket) (s : State) : State := { s with out := s.out ++ [.delivered p] }

/-- SEGMENT. -/
def segmentHandler (p : FabPacket) (s : State) : State := takeSegment p.dstPart p.group (parseSegment p.body) s

/-- TOKEN: from a child it goes up; from the parent it is the release, and goes down. -/
def tokenHandler (p : FabPacket) (s : State) : State :=
  match findGroup s p.dstPart p.group with
  | none => s
  | some g =>
    let r := g.rank s
    let c := fld p.body 0 8
    if rankIn g.members p.srcAddr < r then
      let s := updGroup g.part g.id (fun g => { g with
        releases := if g.releases.contains c then g.releases else g.releases ++ [c] }) s
      (treeChildren g.members.length r).foldl (fun s k =>
        sendPacket g.part (g.addrOf k) 0x03 0 g.id g.epoch (toLE 8 c ++ toLE 4 0) s) s
    else tokenUp g.part g.id c (fld p.body 8 4) s

/-- AGREE: a member's page-count flag. -/
def agreeHandler (p : FabPacket) (s : State) : State :=
  match findGroup s p.dstPart p.group with
  | none => s
  | some g =>
    let r := rankIn g.members p.srcAddr
    let c := fld p.body 0 8
    updGroup g.part g.id (fun g => { g with
      agrees := (g.agrees.filter fun a => !(a.1 = c && a.2.1 = r)) ++ [(c, r, decide (fld p.body 8 1 % 2 = 1))] }) s

/-- PACE: the notice with the highest number is kept for each member, and passed on. -/
def paceHandler (p : FabPacket) (s : State) : State :=
  match findGroup s p.dstPart p.group with
  | none => s
  | some g =>
    let a := p.srcAddr
    let n := fld p.body 4 4
    let newer := match g.notices.find? fun x => x.1 = a with | some x => decide (x.2.1 < n) | none => true
    if newer then
      relayPace p g (updGroup g.part g.id (fun g => { g with
        notices := (g.notices.filter fun x => x.1 ≠ a) ++ [(a, n, fld p.body 0 1, fld p.body 1 1)] }) s)
    else s

/-- UNREACHABLE: recorded; the packet it names met a router without a route. -/
def unreachableHandler (p : FabPacket) (s : State) : State := recordPacket 0 p.body s

/-- REFUSED: the source discards the rest of the flow for the epoch. -/
def refusedHandler (p : FabPacket) (s : State) : State :=
  let h := parsePacket 0 (p.body.drop 2)
  let key := (h.group, h.epoch, h.srcAddr, h.dstAddr)
  recordPacket 1 h.header { s with fabric := { s.fabric with
    refused := if s.fabric.refused.contains key then s.fabric.refused else s.fabric.refused ++ [key]
    held := s.fabric.held.filter fun q => !((q.group, q.epoch, q.srcAddr, q.dstAddr) = key) } }

/-- GROUP_WAIT_NOTE: the rank that an operation waits for (R298). Which one it is depends on what has not arrived: rank 0
knows from its tokens, another member's view of it is a free value. -/
def awaited (s : State) (g : Group) : Nat :=
  if g.rank s = 0 then
    ((List.range g.members.length).find? fun k => k ≠ 0 && !g.tokens.contains (g.cseq, k)).getD 0
  else Config.freeNat s.draw 3 % max 1 g.members.length

/-- Some step of the partition waits in a group operation. -/
def groupWaits (s : State) (g : Group) : Bool :=
  match findPart s g.part with
  | some x => (List.range 8).any (waitsAtGroup s x g.id) || g.tokens.any fun t => !g.releases.contains t.1
  | none => false

def groupWaitNote (part : BitVec 4) (id : U32) (s : State) : State :=
  match findGroup s part id with
  | none => s
  | some g =>
    if groupWaits s g then
      let t := if g.waitSeconds = 0 then 1 else g.waitSeconds + 60
      record 0x07 0x42 0 (some part) (toLE 4 id.toNat ++ toLE 4 (awaited s g) ++ toLE 4 t)
        (updGroup part id (fun g => { g with waitSeconds := t }) s)
    else s

/-- UNROUTABLE_RETRY. -/
def unroutableRetry (s : State) : State := retryHeld s

/-! ### Commands -/

/-- FABRIC_ID_SET. -/
def setFabricId (id : Nat) (s : State) : State :=
  retryHeld (freshHello { s with fabric := { s.fabric with devId := BitVec.ofNat 15 id } })

def cmdFabricId (_q : QueuePair) (p : Packet) (s : State) : Res :=
  let id := par p 0 2
  if 0x7FFE < id then fail stBadLength s
  else if !s.fabric.groups.isEmpty then fail stNotPermitted s
  else ok [] (setFabricId id s)

/-- Whether ROUTE_SET accepts an entry (R287). -/
def routeOk (e : Nat) : Bool :=
  let n := bitsOf e 24 3
  let ls := (List.range n).map fun i => bitsOf e (6 * i) 6
  decide (n ≤ 4) && decide (e < 2 ^ 27) && ls.eraseDups.length = ls.length

/-- Write route entries from a first id on. -/
def setRoutes (first : Nat) (es : List Nat) (s : State) : State :=
  let new := (es.zipIdx.map fun x => (first + x.2, BitVec.ofNat 64 x.1)).filter fun r => r.2 ≠ 0
  let old := s.fabric.routes.filter fun r => r.1 < first || first + es.length ≤ r.1
  retryHeld { s with fabric := { s.fabric with routes := old ++ new } }

/-- FIRST, COUNT and BUF of ROUTE_SET and ROUTE_READ. -/
def cmdRouteSet (q : QueuePair) (p : Packet) (s : State) : Res :=
  let first := par p 0 2
  let count := par p 2 2
  let buf := par p 8 8
  if 32767 < first || count = 0 || 32768 < first + count || buf % 8 ≠ 0 then fail stBadLength s
  else if par p 16 4 < 8 * count then fail stExceeds s
  else
    match takeBuffer s q p buf (8 * count) with
    | .error e => e.reply s
    | .ok b =>
      let es := (List.range count).map fun i => fld b (8 * i) 8
      if es.all routeOk then ok [] (setRoutes first es s) else fail stBadLength s

def cmdRouteRead (q : QueuePair) (p : Packet) (s : State) : Res :=
  let first := par p 0 2
  let count := par p 2 2
  if 32767 < first || count = 0 || 32768 < first + count then fail stBadLength s
  else copyOut q p 8 (par p 8 8) (par p 16 4) (8 * count)
    ((List.range count).flatMap fun i => toLE 8 (routeEntry s (first + i))) [] s

/-- A record of R278. -/
def linkRecord (l : Link) : List Byte :=
  toLE 1 l.num ++ toLE 1 (stateCode l.state) ++ toLE 1 l.width ++ zeros 1 ++ toLE 2 l.peerId.toNat
    ++ toLE 1 l.peerLink.toNat ++ zeros 1 ++ toLE 8 l.cwCorrected.toNat ++ toLE 8 l.cwUncorr.toNat
    ++ toLE 8 l.replays.toNat ++ toLE 8 l.flitsTx.toNat ++ toLE 8 l.flitsRx.toNat ++ toLE 4 l.downs.toNat
    ++ toLE 4 l.ackMax.toNat ++ toLE 8 l.stalls.toNat

/-- LINK_STATUS. -/
def cmdLinkStatus (q : QueuePair) (p : Packet) (s : State) : Res :=
  copyOut q p 64 (par p 0 8) (par p 8 4) 4096 (s.fabric.links.flatMap linkRecord) [] s

/-- DISABLE, ENABLE or RETRAIN of one link. -/
def controlLink (op n : Nat) (s : State) : State :=
  let l := findLink s n
  if op = 0 then
    if l.state = .disabled then s
    else if l.carries && !l.replay.isEmpty then updLink n (fun l => { l with closing := true }) s
    else disableLink n s
  else if op = 1 then updLink n (fun l => if l.state = .disabled then { l with state := .training } else l) s
  else
    settleReserve (updLink n (fun l => { l with state := .training, latched := false, downTimes := [] }) (linkDown' n s))

/-- LINK_CONTROL. -/
def cmdLinkControl (_q : QueuePair) (p : Packet) (s : State) : Res :=
  let link := par p 0 1
  let op := par p 1 1
  if 2 < op || (63 < link && link ≠ 0xFF) then fail stBadLength s
  else if link = 0xFF then ok [] ((List.range 64).foldl (fun s n => controlLink op n s) s)
  else ok [] (controlLink op link s)

/-- GROUP_JOIN. -/
def cmdGroupJoin (_q : QueuePair) (p : Packet) (s : State) : Res :=
  let n := pktPart p
  let id := par32 p 0
  let coord := par p 4 4
  let mm := par p 8 2
  let me := fabAddr s n
  let mine := (s.fabric.groups.filter fun g => g.part = n).length
  if id = 0 || id = 0xFFFFFFFF || 2 ^ 19 ≤ coord || (coord = me && (mm = 0 || 32768 < mm)) then fail stBadLength s
  else if (findGroup s n id).isSome then fail stNotPermitted s
  else if 16 ≤ mine || 64 ≤ s.fabric.groups.length || 1048576 < 131072 * ((s.fabric.groups.map (·.id)) ++ [id]).eraseDups.length then
    fail stNoResource s
  else
    let s := { s with fabric := { s.fabric with groups := s.fabric.groups ++ [Group.fresh id n coord mm (pktOrigin p)] } }
    (.accepted, sendView n coord 0x10 id 0 0 (toLE 4 me ++ toLE 1 0) s)

/-- GROUP_ADMIN. -/
def cmdGroupAdmin (q : QueuePair) (p : Packet) (s : State) : Res :=
  let n := pktPart p
  let id := par32 p 0
  let op := par p 4 1
  let target := par p 8 4
  let me := fabAddr s n
  match findGroup s n id with
  | none => fail stBadLength s
  | some g =>
    if 2 < op then fail stBadLength s
    else if op = 0 then
      if g.epoch = 0 then
        -- a join that still waits ends (R292)
        (.done stOk 0 [], g.waiters.foldl (fun s o => finish o stNotPermitted 0 [] s)
          (sendView n g.coord 0x11 id 0 0 (toLE 4 me) (dropGroup n id s)))
      else if g.leaver.isSome then fail stNotPermitted s
      else
        (.accepted, sendView n g.coord 0x11 id g.epoch 0 (toLE 4 me)
          (updGroup n id (fun g => { g with leaver := some (pktOrigin p), state := .leaving }) s))
    else if !q.operator then fail stNotPermitted s
    else if op = 1 then
      if g.coord ≠ me || !g.members.contains target then fail stNotPermitted s
      else
        (.accepted, concludeView n id (updGroup n id (fun g => { g with
          waiters := g.waiters ++ [pktOrigin p]
          proposal := { g.proposal with evicts := g.proposal.evicts ++ [target], members := g.proposal.members.filter (· ≠ target) } }) s))
    else if !g.members.contains target then fail stNotPermitted s
    else
      -- the new coordinator hears of it in a READY of the present epoch (assumption 111)
      ok [] (sendView n target 0x13 id g.epoch g.cseq (toLE 8 g.cseq ++ toLE 1 (if pinned s n id then 1 else 0))
        (updGroup n id (fun g => { g with
          coord := target
          proposal := if target = me then { Proposal.empty with evicts := if g.coord = me then [] else [g.coord] } else Proposal.empty
          replaced := if target = me ∧ g.coord ≠ me then some g.coord else none }) s))

def groupStateCode : GroupState → Nat
  | .joining => 0 | .member => 1 | .changing => 2 | .leaving => 3

/-- GROUP_STATUS. How long an operation has waited is a matter of time: a free value. -/
def cmdGroupStatus (_q : QueuePair) (p : Packet) (s : State) : Res :=
  match findGroup s (pktPart p) (par32 p 0) with
  | none => fail stNotPermitted s
  | some g =>
    let w := groupWaits s g
    ok (toLE 4 g.epoch ++ toLE 4 (if g.epoch = 0 then 0 else g.rank s) ++ toLE 4 g.members.length
      ++ toLE 1 (groupStateCode g.state) ++ zeros 3 ++ toLE 4 (if w then awaited s g else 0xFFFFFFFF)
      ++ toLE 4 (if w then min 0xFFFFFFFF (Config.freeNat s.draw 4) else 0) ++ toLE 8 g.cseq) { s with draw := s.draw + 1 }

/-- PACE_SET. -/
def cmdPaceSet (_q : QueuePair) (p : Packet) (s : State) : Res :=
  let n := pktPart p
  let f := par p 4 1
  let floor := par p 5 1
  match findGroup s n (par32 p 0) with
  | none => fail stBadLength s
  | some g =>
    if 1 < f || floor = 0 || 96 < floor then fail stBadLength s
    else ok [] (updGroup n g.id (fun g => { g with follow := decide (f = 1), floor := floor }) s)

end Sys2Proof.Machine
end

