-- ==== Sys2Proof/Machine/Faults.lean ====
section
/-! DEFINITION. What hides a fault and what does not: the device out of service (R408), tracts taken offline and their work
remapped (R402), lanes and rehoming (R31 to R38, R41), correctable-error buckets and mapping out (R39, R195, R198), and reads of
lines that come back changed (R186, R196, R197). -/
namespace Sys2Proof.Machine

/-! ### Out of service (R408) -/

/-- The device goes out of service: every step held or running completes with LOST_DATA, SOURCE 5, and every link is disabled. -/
def outOfService (cause : Nat) (s : State) : State :=
  if s.start.oos then s
  else
    let s := record 0x00 0x04 3 none (toLE 4 cause) { s with start := { s.start with oos := true, oosCause := cause } }
    let all := sortBy (fun a b => a.held.order ≤ b.held.order) (allSteps s)
    let s := s.partitions.foldl (fun s p => (List.range 8).foldl (fun s c => restoreCaches p.num c s) s) s
    let s := { s with partitions := s.partitions.map fun p => { p with contexts := p.contexts.map fun c => { c with
      sets := [], ineligible := [], released := [], step := none } } }
    let e := lostData 5 0xFFFFF 0 0
    let s := all.foldl (fun s f => finish f.held.origin e.status e.detail e.result s) s
    settleReserve ((List.range 64).foldl (fun s n => emptyLink n .disabled s) s)

/-! ### Tracts (R402) -/

def powerCode : TractPower → Nat
  | .off => 0 | .poweringOn => 1 | .parked => 2 | .running => 3 | .offline => 4

def offline (s : State) (t : Nat) : Bool := (findTract s t).power = .offline

/-- Tracts that a partition can run on. -/
def usableTracts (s : State) (p : Partition) : List Nat := (tractsOf p.tracts).filter fun t => !offline s t

/-- The lowest-numbered tract that is FREE: no partition owns it, and it is not OFFLINE. -/
def freeTract (s : State) : Option Nat := (List.range 64).find? fun t => (ownerOf s t).isNone && !offline s t

/-- Remove the offline tracts of a partition from a placement set; an empty set takes `low`. -/
def remapPlace (s : State) (low : Nat) (x : U64 × U64) : U64 × U64 :=
  let t := (tractsOf x.1).foldl (fun (m : U64) t => if offline s t then m &&& ~~~(1#64 <<< t) else m) x.1
  (if t = 0 then 1#64 <<< low else t, x.2)

/-- A TRACT_STATE record. -/
def recordTract (t added : Nat) (s : State) : State :=
  record 0x08 0x31 2 ((ownerOf s t).map (·.num)) (toLE 1 t ++ toLE 1 (powerCode (findTract s t).power) ++ toLE 1 added) s

/-- The work of a tract that is offline goes to the others; a FREE tract is added where there is no other. -/
def remapTract (part : BitVec 4) (t : Nat) (s : State) : State :=
  match findPart s part with
  | none => s
  | some p =>
    let low := match usableTracts s p with | u :: _ => some (u, 0xFF) | [] => (freeTract s).map fun f => (f, f)
    match low with
    | none => recordTract t 0xFF (updPart part (fun p => { p with stranded := true }) s)
    | some (u, added) =>
      let s := recordTract t added (updPart part (fun p => { p with
        tracts := if added = u then p.tracts ||| (1#64 <<< u) else p.tracts
        stranded := false
        plans := p.plans.map fun q => { q with place := q.place.map (remapPlace s u) } }) s)
      replayPart part s

/-- A tract is taken offline. -/
def tractOffline (t : Nat) (s : State) : State :=
  if offline s t then s
  else
    let s := settleReserve (updTract t (fun r => { r with power := .offline, groves := 0 }) s)
    match ownerOf s t with
    | some p => enqueue (some p.num) (.remap t) (lastRecord s) s
    | none => recordTract t 0xFF s

/-- A tract has become FREE: partitions that were left without one take it. -/
def relieveStranded (s : State) : State :=
  s.partitions.foldl (fun s p =>
    if p.stranded then
      match (tractsOf p.tracts).find? (offline s) with
      | some t => if (freeTract s).isSome then remapTract p.num t s else s
      | none => s
    else s) s

/-! ### Lanes (R31 to R34) -/

/-- Repairs of a core: from the map and in training. -/
def sparesOf (s : State) (core : Nat) : List Nat :=
  ((s.repairs.filter fun e => bitsOf e.toNat 0 20 = core).map fun e => bitsOf e.toNat 25 5)
    ++ ((s.training.filter fun l => l.core = core).map (·.spare))

/-- Pool lanes of a grove in use, in training included. -/
def poolUsed (s : State) (grove : Nat) : List Nat :=
  (((s.repairs.filter fun e => bitsOf e.toNat 0 20 / 256 = grove).map fun e => bitsOf e.toNat 25 5)
    ++ ((s.training.filter fun l => l.core / 256 = grove).map (·.spare))).filter fun x => 16 ≤ x

/-- The spare a lane takes: the channel's own first, then the grove's pool lanes, at most 4 for a channel. -/
def chooseSpare (s : State) (core : Nat) : Option Nat :=
  let mine := sparesOf s core
  if !mine.contains 0 then some 0
  else if !mine.contains 1 then some 1
  else if 4 ≤ (mine.filter fun x => 16 ≤ x).length then none
  else ((List.range 16).map (· + 16)).find? fun x => !(poolUsed s (core / 256)).contains x

/-- An entry of the repair map (R34), found in service. -/
def repairEntry (l : LaneTraining) : U64 :=
  BitVec.ofNat 64 (l.core + 2 ^ 20 * l.lane + 2 ^ 25 * l.spare + 2 ^ 30 + 2 ^ 32 * l.segment)

/-- LANE_SWITCH_OVER: the controller changes to the trained lane between two bursts, and the repair is kept (R33). -/
def laneSwitched (core lane : Nat) (s : State) : State :=
  match s.training.find? fun l => l.core = core && l.lane = lane with
  | none => s
  | some l =>
    let e := repairEntry l
    settleReserve (record 0x0B 0x10 1 none (toLE 8 e.toNat) { s with
      training := s.training.erase l
      repairs := sortBy (fun a b => entryKey a ≤ entryKey b) (s.repairs ++ [e]) })

/-! ### Rehoming (R36 to R38, R41) -/

/-- Physical layer that returns a line of a logical layer. -/
def physOfLine (s : State) (l : Nat) : Nat := physLayer s (lineLayer l) (lineCore l) (lineIndex l)

def channelMode (s : State) (core : Nat) : Option ChannelMode := (s.channels.find? fun c => c.core = core).map (·.mode)

def setChannel (core : Nat) (m : ChannelMode) (s : State) : State :=
  { s with channels := (s.channels.filter fun c => c.core ≠ core) ++ [⟨core, m⟩] }

/-- The tract whose rehoming area takes a column: its own, else the nearest of its partition with room (R37). DESIGN CHOICE, where the
spec is silent: of several equally near the lowest number; a column of a tract that no partition owns has no other place
(assumption 101). -/
def rehomePlace (s : State) (core : Nat) : Option Nat :=
  let t := tractOfCore core
  let room : Nat → Bool := fun t => decide ((rehomeTracts s).count t < 21)
  if room t then some t
  else
    match ownerOf s t with
    | none => none
    | some p =>
      ((tractsOf p.tracts).filter fun u => u ≠ t && room u).foldl (fun (b : Option Nat) u =>
        match b with
        | none => some u
        | some v => if (toTract s (core / 256) u).1 < (toTract s (core / 256) v).1 then some u else some v) none

/-- A column must be moved: its channel is left in corrected or degraded mode, and a copy begins; without a place the tract
goes offline. -/
def rehome (core lane : Nat) (s : State) : State :=
  let d := rehomePlace s core
  let s := setChannel core (if lane ≤ 17 then .corrected lane d else .degraded lane d) s
  match d with
  | none => tractOffline (tractOfCore core) s
  | some t =>
    let s := settleReserve (record 0x0B 0x11 1 none (toLE 4 core ++ toLE 1 t) s)
    enqueue none (.rehome core) (lastRecord s) s

/-- Addresses of token ids of a sequence from position `a` on. -/
def tokenAddrs (x : Partition) (r : SeqRec) (a n : Nat) : List Nat :=
  match x.regions.findSome? fun g => (g.offset r.tokAddr).map fun o => (g, o) with
  | some (g, o) => (List.range (4 * n)).map fun i => g.addr (o + 4 * a + i)
  | none => []

/-- A sequence can be recomputed from position `a` on: it has a source, and the token ids are not lost (R246). -/
def canRecompute (s : State) (x : Partition) (c : Cache) (seq a : Nat) : Bool :=
  hasSource c seq &&
    (match c.seqs.find? fun r => r.seq = seq with
     | some r =>
       let len := maxNat ((c.layers.filter fun y => y.seq = seq).map (·.length))
       (linesIn s (some .lost) (tokenAddrs x r a (len - a))).isEmpty
     | none => false)

/-- Queue a recomputation; one of the same sequence that has not begun takes it in. -/
def enqueueRegen (n : BitVec 4) (h : U32) (q first : Nat) (bad : List (Nat × Nat)) (s : State) : State :=
  let same : Job → Bool := fun j => !j.begun && (match j.act with | .recompute h' q' _ _ => h' = h && q' = q | _ => false)
  let merge : Job → Job := fun j => match j.act with
    | .recompute h' q' f b => { j with act := .recompute h' q' (min f first) ((b ++ bad).eraseDups) }
    | _ => j
  match findPart s n with
  | none => s
  | some p =>
    if p.acting.toList.any same || p.recovery.any same then
      updPart n (fun p => { p with
        acting := p.acting.map fun j => if same j then merge j else j, recovery := updWhere same merge p.recovery }) s
    else enqueue (some n) (.recompute h q first bad) (lastRecord s) s

/-- Caches with pages that have lost lines in a column are recomputed from the first such page on, where they have a source. -/
def losePages (core : Nat) (s : State) : State :=
  s.partitions.foldl (fun s p => p.caches.foldl (fun s c => c.layers.foldl (fun s r =>
    match r.pages.zipIdx.filter fun e => (e.1.lines p c).any fun l => lineCore l = core && lineState s l = some .lost with
    | [] => s
    | e :: es =>
      if hasSource c r.seq then
        enqueueRegen p.num c.handle r.seq ((c.spread s p.num).position (e.2 * c.pp)) ((e :: es).map fun e => (r.layer, e.2)) s
      else s) s) s) s

/-- A second fault in what the running copy of a column holds is an escalation: the copy ends, and the running step is replayed from
the last completed one (R41, R401); a copy still queued is forgotten. -/
def endCopy (core : Nat) (s : State) : State :=
  if (s.reserve.running.map (·.act)) = some (.rehome core) then
    let s := closeJob none (.rehome core) 2 s
    match ownerOf s (tractOfCore core) with
    | some p => replayPart p.num s
    | none => s
  else { s with reserve := { s.reserve with queue := s.reserve.queue.filter fun j => j.act ≠ .rehome core } }

/-- No reading path remains: every line of the column is uncorrectable, and caches with pages there are recomputed (R41). -/
def failChannel (core : Nat) (s : State) : State :=
  endCopy core (settleReserve (losePages core (setChannel core .failed s)))

/-- The valid root lines of a column that its copy, in ascending order of layer and LINE, has not reached. -/
def uncopied (s : State) (core copied : Nat) : List Nat :=
  (s.tags.filter fun t => t.state = .valid && decide (lineLayer t.line < 16) && lineCore t.line = core
    && decide (copied ≤ copyOrdinal t.line)).map (·.line)

/-- A second lane fails while the column is copied (R41): the lines copied are safe in the rehoming area, and the rest are lost; how
many are copied by then is a free value, none where the copy has not begun. -/
def breakCopy (core : Nat) (dest : Option Nat) (s : State) : State :=
  let n := if (s.reserve.running.map (·.act)) = some (.rehome core) then Config.freeNat s.draw 0 % 24577 else 0
  let s := setChannel core (.broken dest) { s with draw := s.draw + 1 }
  let s := (uncopied s core n).foldl (fun s l =>
    updLayer (physOfLine s l) (fun r => { r with lostLines := r.lostLines + 1 }) (loseLine (genAt s (l * 64)) l s)) s
  endCopy core (settleReserve (losePages core s))

/-- LANE_FAILING: a spare is trained where there is one, else the column is rehomed; a second lane that fails before the copy is done
ends it, and a lane that is failing already changes nothing. -/
def laneFailing (f : LaneFault) (s : State) : State :=
  let core := f.core.toNat
  let lane := f.lane.toNat
  let again := fun (old : Nat) (dest : Option Nat) =>
    if f.wholeChannel then failChannel core s
    else if lane = old then s
    else if dest.isNone then failChannel core s
    else breakCopy core dest s
  match channelMode s core with
  | some (.retired _) => s
  | some (.broken _) => s
  | some .failed => s
  | some (.corrected old d) => again old d
  | some (.degraded old d) => again old d
  | none =>
    if f.wholeChannel then failChannel core s
    else if s.training.any fun l => l.core = core && l.lane = lane then s
    else
      match chooseSpare s core with
      | some x => { s with training := s.training ++ [⟨core, lane, x, f.segment.toNat⟩] }
      | none => rehome core lane s

/-- Near-bank units over a column, one for each clearing layer. -/
def unitsOfCore (core : Nat) : List Nat := (List.range 4).map fun l => 65536 * l + core / 16

/-- REHOME_COPY_DONE: pages of the column's clearing segments leave, and the channel is retired. -/
def rehomeDone (core : Nat) (s : State) : State :=
  if (s.reserve.running.map (·.act)) = some (.rehome core) then
    match channelMode s core with
    | some m =>
      let s := setChannel core (.retired m.dest) s
      let s := (unitsOfCore core).foldl (fun s u =>
        let mine := (pagesOn s u).filter fun a =>
          match (findPart s a.1).bind fun x => (x.cache a.2.1).map fun c => (x, c) with
          | some (x, c) => ((nth (c.layerRec a.2.2.1 a.2.2.2.1).pages a.2.2.2.2 PageEntry.none).lines x c).any
              fun l => lineCore l = core
          | none => false
        mine.foldl (fun s a => switchIdle a (moveAway u a s)) s) s
      endJob none (.rehome core) s
    | none => endJob none (.rehome core) s
  else s

/-! ### Mapping out (R39, R40, R198) -/

def setLayer (phys st : Nat) (s : State) : State :=
  record 0x0B 0x12 2 none (toLE 1 phys ++ toLE 1 st)
    { s with layers := setAt s.layers phys fun _ => BitVec.ofNat 4 st }

/-- Lines of protected regions in a clearing layer. -/
def protectedLines (s : State) (l : Nat) : Nat :=
  (s.partitions.map fun p => ((p.regions.filter fun r => r.kind = 1 && decide (r.lfirst ≤ l) && decide (l < r.lfirst + r.lcount)).map
    fun r => r.ccount * 1024).sum).sum

/-- A clearing layer is withdrawn: computable pages in it are recomputed elsewhere, its other lines are lost. -/
def withdrawLayer (phys : Nat) (s : State) : State :=
  let s := setLayer phys 3 s
  let s := updLayer phys (fun r => { r with lostLines := r.lostLines + BitVec.ofNat 32 (protectedLines s (phys + 14)) }) s
  s.partitions.foldl (fun s p => p.caches.foldl (fun s c => c.layers.foldl (fun s r =>
    match r.pages.zipIdx.filter fun e => !e.1.root && e.1.loc / 1024 / 65536 + 2 = phys with
    | [] => s
    | e :: es =>
      if hasSource c r.seq then
        enqueueRegen p.num c.handle r.seq ((c.spread s p.num).position (e.2 * c.pp)) ((e :: es).map fun e => (r.layer, e.2)) s
      else s) s) s) s

/-- Absorption of a root layer begins: stripes whose parity lay on it simply lose it (R177). -/
def beginAbsorption (phys : Nat) (s : State) : State :=
  { s with
    rootOut := some phys, absorbed := []
    parity := memErase (fun a => parityIndex (lineCore (lineOf a)) (lineIndex (lineOf a)) + 6 = phys) s.parity }

/-- A DRAM layer fails as a whole: mapped out, withdrawn, or the second root layer over the device's life (R39). -/
def mapOut (phys : Nat) (s : State) : State :=
  if layerState s phys ≠ 0 then s
  else if phys < 6 then settleReserve (withdrawLayer phys s)
  else if s.rootOut.isSome then settleReserve (outOfService 1 (setLayer phys 4 s))
  else
    let s := settleReserve (setLayer phys 1 (beginAbsorption phys s))
    enqueue none (.absorb phys) (lastRecord s) s

/-- WHOLE_LAYER_FAULT. -/
def wholeLayerFault (l : Nat) (s : State) : State :=
  if l = 0 ∨ l = 1 ∨ l = 23 then (if layerState s l = 0 then settleReserve (outOfService 4 (setLayer l 4 s)) else s)
  else mapOut l s

/-- Columns below 2^20 whose parity index in row group `g` is `k`. -/
def columnsAt (k g : Nat) : Nat := (2 ^ 20 + 16 - (k + 34 - g) % 17) / 17

/-- Stripes, tag lines among them, in which a root layer held data: LINE 0 to 1,547 of every column (R177, R198). -/
def stripesOn (phys : Nat) : Nat :=
  ((List.range 25).map fun g => (if g < 24 then 64 else 12) * (2 ^ 20 - columnsAt (phys - 6) g)).sum

/-- The walk has reconstructed every stripe that was not absorbed out of turn; no stripe has parity any more (R177, R198). -/
def absorbAll (phys : Nat) (s : State) : State :=
  updLayer phys (fun r => { r with recon := r.recon + BitVec.ofNat 32 (stripesOn phys - s.absorbed.length) })
    { s with absorbed := [], parity := [] }

/-- ABSORPTION_DONE. -/
def absorptionDone (s : State) : State :=
  match s.reserve.running with
  | some ⟨.absorb l, _, _⟩ => endJob none (.absorb l) (settleReserve (setLayer l 2 (absorbAll l s)))
  | _ => s

/-! ### Correctable errors (R194, R195) -/

/-- One correction in the bucket of a physical layer. -/
def addToBucket (phys : Nat) (s : State) : State :=
  let r := findLayer s phys
  let limit := max 1 (bitsOf r.cebktCfg.toNat 0 24)
  if r.level.toNat + 1 < limit then updLayer phys (fun r => { r with level := r.level + 1 }) s
  else
    let s := updLayer phys (fun r => { r with level := 0, ovf := if r.ovf = 255 then 255 else r.ovf + 1 }) s
    let n := (findLayer s phys).ovf
    let s := settleReserve (record 0x0B 0x13 1 none (toLE 1 phys ++ toLE 1 n.toNat) s)
    if 3 ≤ n.toNat then mapOut phys s else s

/-- A lane of a channel is marked failing (R33). -/
def isFailing (s : State) (core lane : Nat) : Bool :=
  (s.training.any fun l => l.core = core && l.lane = lane)
    || (match channelMode s core with
        | some (.corrected l _) => l = lane
        | some (.degraded l _) => l = lane
        | _ => false)

/-- The lane that a correction is confined to (R25, R33). -/
def laneOfErrors (errs : List (Nat × Byte)) : Option Nat :=
  match ((errs.filter fun e => e.2 ≠ 0).map fun e => laneOf e.1).eraseDups with
  | [lane] => some lane
  | _ => none

/-- A correction confined to one lane is counted; sixteen within 2^20 bursts of the channel mark the lane failing (R33). -/
def countLane (core lane : Nat) (s : State) : State :=
  if isFailing s core lane then s
  else
    let hit : LaneCtr → LaneCtr := fun c => { c with hits := (c.hits.filter fun h => c.bursts < h.2 + 2 ^ 20) ++ [(lane, c.bursts)] }
    let s := { s with laneCounts := upsert (fun c => c.core = core) hit ⟨core, 0, []⟩ s.laneCounts }
    let n : Nat := (((s.laneCounts.filter fun c => c.core = core).map fun c => (c.hits.filter fun h => h.1 = lane).length)).sum
    if n < 16 then s
    else
      let clear : LaneCtr → LaneCtr := fun c => { c with hits := c.hits.filter fun h => h.1 ≠ lane }
      laneFailing ⟨BitVec.ofNat 20 core, BitVec.ofNat 5 lane, 31, false⟩
        { s with laneCounts := updWhere (fun c => c.core = core) clear s.laneCounts }

/-- A line is corrected. Corrections on a lane marked failing, or in a channel in corrected mode, stay out of the bucket (R195). -/
def countCorrected (phys core : Nat) (errs : List (Nat × Byte)) (s : State) : State :=
  let skip := (match channelMode s core with | some (.corrected _ _) => true | _ => false)
    || (errs.filter fun e => e.2 ≠ 0).all fun e => isFailing s core (laneOf e.1)
  let s := updLayer phys (fun r => { r with corr := r.corr + 1 }) s
  let s := if skip then s else addToBucket phys s
  match laneOfErrors errs with
  | some lane => countLane core lane s
  | none => s

/-- BUCKET_LEAK. -/
def bucketLeak (s : State) : State :=
  { s with layerRegs := s.layerRegs.map fun r => { r with
      level := BitVec.ofNat 24 (r.level.toNat - bitsOf r.cebktCfg.toNat 24 8) } }

/-- OVF_WINDOW_EXPIRY. -/
def windowExpiry (k : WindowKind) (s : State) : State :=
  settleReserve (match k with
    | .overflow l => updLayer l.toNat (fun r => { r with ovf := if r.ovf = 0 then 0 else r.ovf - 1 }) s
    | .unexplained => { s with reserve := { s.reserve with unexplained := s.reserve.unexplained - 1 } })

/-! ### Reads that come back changed (R186, R196, R197) -/

/-- Whether another line of the same stripe is uncorrectable too; a parity line stands in layer 20. -/
def stripeBad (bad : List Nat) (l : Nat) : Bool :=
  bad.any fun b => b ≠ l && lineCore b = lineCore l && lineIndex b = lineIndex l

/-- The line of a stripe that lies on the layer being absorbed, in a stripe not absorbed yet (R198). -/
def absorbedLine (s : State) (l : Nat) : Option Nat :=
  if 16 ≤ lineLayer l then none
  else ((List.range 16).map fun x => x * 2 ^ 31 + l % 2 ^ 31).find? (onAbsorbed s)

/-- No reconstruction: the line is set lost, with the line of its stripe that was still to be absorbed (R200). A replay is to write
the lines `rewritten` again (R411, outcome 1). -/
def loseRead (requester : Nat) (rewritten : List Nat) (l : Nat) (s : State) : State :=
  let part := (ownerOf s (tractOfCore (lineCore l))).map (·.num)
  let one := fun (s : State) (l : Nat) =>
    recordUncorr (l * 64) requester (if rewritten.contains l then 1 else 2) part (updLayer (physOfLine s l) (fun r => { r with lostLines := r.lostLines + 1 })
      (loseLine (genAt s (l * 64)) l s))
  let s' := one s l
  match absorbedLine s l with
  | some m => if m ≠ l ∧ stateOf s'.tags m = some .valid then one s' m else s'
  | none => s'

/-- The changes that a read finds at last in a line, symbol position and XOR: those of its first answer, or, after a misdirected
access, of the answer to the command reissued once (R186). -/
def errorsAt (first again : List (Nat × Byte)) : List (Nat × Byte) :=
  if decodePattern first = .misdirected && (misread first).isNone then again else first

def errorsOf (e : ReadErrors) (l : Nat) : List (Nat × Byte) :=
  let of : List (Nat × Nat × Byte) → List (Nat × Byte) := fun xs => (xs.filter fun x => x.1 = l).map fun x => (x.2.1, x.2.2)
  errorsAt (of e.symbols) (of e.again)

/-- A line can be formed from the other lines of its stripe (R196): one on the layer being absorbed, or one of a stripe that has none
there. -/
def canForm (s : State) (bad : List Nat) (l : Nat) : Bool :=
  hasParity s l && !stripeBad bad l && (onAbsorbed s l || (absorbedLine s l).isNone)

/-- A line is formed from its stripe (R196, R198). One on the layer being absorbed cannot be rewritten there. -/
def reconstruct (requester : Nat) (rewritten bad : List Nat) (l : Nat) (s : State) : Bool × State :=
  let part := (ownerOf s (tractOfCore (lineCore l))).map (·.num)
  if canForm s bad l then
    let s := updLayer (physOfLine s l) (fun r => { r with recon := r.recon + 1 }) s
    (true, if onAbsorbed s l then s else rebuildLine l (recordUncorr (l * 64) requester 0 part s))
  else (false, loseRead requester rewritten l s)

/-- Read a line that has content: corrected, reconstructed from parity, lost, or, with errors in five or more bytes that the
code mistakes, taken for good. Answers whether its bytes are taken for good; which bytes, says asRead. -/
def readLine (requester : Nat) (rewritten : List Nat) (e : ReadErrors) (l : Nat) (s : State) : Bool × State :=
  match lineState s l with
  | some .lost => (false, s)
  | _ =>
    let errs := errorsOf e l
    let phys := physOfLine s l
    let s := countBursts (lineCore l) 1 s
    if onAbsorbed s l then reconstruct requester rewritten e.badStripe l s
    else
      match decodePattern errs with
      | .clean => (true, s)
      | .corrected => (true, countCorrected phys (lineCore l) errs s)
      | _ =>
        match misread errs with
        | some (c, _) => (true, if c = [] then s else countCorrected phys (lineCore l) c s)
        | none => reconstruct requester rewritten e.badStripe l (updLayer phys (fun r => { r with uncorr := r.uncorr + 1 }) s)

/-- Read lines in order; good only if every one is. -/
def readLines (requester : Nat) (rewritten : List Nat) (e : ReadErrors) (ls : List Nat) (s : State) : Bool × State :=
  ls.foldl (fun (b : Bool × State) l => let r := readLine requester rewritten e l b.2; (b.1 && r.1, r.2)) (true, s)

/-- What the reader of a line takes it to hold: the line, or, where the code mistakes the errors, the line read wrong. -/
def asRead (e : ReadErrors) (l : Nat) (s : State) : State :=
  if onAbsorbed s l then s
  else
    match decodePattern (errorsOf e l) with
    | .clean | .corrected => s
    | _ => match misread (errorsOf e l) with
      | some (_, wrong) => garble l wrong s
      | none => s

/-- Lines as their reader takes them. -/
def asReadLines (e : ReadErrors) (ls : List Nat) (s : State) : State := ls.foldl (fun s l => asRead e l s) s

/-- The old line that a narrow write merges into (R189, R197): where it cannot be read, the line is set lost and the bytes that the
write does not cover are undefined. -/
def mergeLine (e : ReadErrors) (l : Nat) (s : State) : State :=
  let s := asRead e l (readLine 6 [] e l s).2
  if stateOf s.tags l = some .lost then
    putCells ((List.range 64).map fun i => (64 * l + i, Config.freeByte s.draw i)) { s with draw := s.draw + 1 }
  else s

end Sys2Proof.Machine
end

