-- ==== Sys2Proof/Machine/OpsMove.lean ====
section
/-! DEFINITION. GATHER, SCATTER and EMBED (R126, R127): slices along an axis, copied whole with their
block scales, converted, or added exactly. -/
namespace Sys2Proof.Machine

/-! ### Units: what a copy moves (an element, or a block with its scale) -/

/-- Extents of the units: blocks along the blocked dimension of a block format, elements otherwise. -/
def View.unitDims (v : View) : List Nat :=
  if v.t.fmt.isBlock then setAt v.dims v.t.blockDim (fun _ => blocksAlong v.dims v.t.blockDim) else v.dims

/-- Elements of a unit in storage. -/
def View.unitLen (v : View) : Nat := if v.t.fmt.isBlock then 32 else 1

/-- Codes of a unit, padding included. -/
def View.unitCodes (v : View) (u : Nat) : List Nat :=
  (List.range v.unitLen).map fun w => planeBits (v.byte false) ((u * v.unitLen + w) * v.t.fmt.bits) v.t.fmt.bits

/-- Sequence of a unit. -/
def View.unitSeq (v : View) (u : Nat) : Nat := if v.t.batched then coord v.unitDims v.t.seqDim u else 0

/-- The place with coordinate `i` along `ax`, of extent `n`, and the other coordinates of place `k` of `dims`. -/
def atSlice (dims : List Nat) (ax n i k : Nat) : Nat :=
  let inner := prod (dims.drop (ax + 1))
  (k / (inner * nth dims ax 1) * n + i) * inner + k % inner

/-- An index within an extent; 0xFFFF_FFFF never is (R127). -/
def goodIndex (extent i : Nat) : Bool := decide (i < extent) && i ≠ 0xFFFFFFFF

/-- Entries of IDX that the operator takes: all, or where the tensor whose slices they number is BATCHED along the axis those of the
step's sequences, later slots being neither read nor written (R165). -/
def idxUsed (e : Env) (s : State) (v : View) (ax : Nat) : Nat :=
  let n := (e.index s (e.f2 0x0C)).count
  if v.t.batched && v.t.seqDim = ax then min n (nth v.dims ax 1) else n

/-- Indices among the first `n` that are out of range (R116). -/
def badIndices (e : Env) (s : State) (n extent : Nat) : Nat :=
  ((List.range n).filter fun i => !goodIndex extent (e.idx s 0x0C i)).length

/-- What elements written bit for bit leave in a health record (R64, R69). -/
def View.tally (v : View) (ks : List Nat) : Counts :=
  if v.t.fmt = .aa128 then
    ks.foldl (fun c k =>
      match v.acc k with
      | none => c.add .nonfinite
      | some i => if i = 0 then c.add .zero
                  else (match accExp (v.maxFor (v.seq k)) (some i) with | some x => (c.add .plain).min x | none => c))
      Counts.zero
  else
    ks.foldl (fun c k =>
      match v.exact k with
      | .fin _ n _ =>
        if n = 0 then c.add .zero
        else if v.t.fmt.isBlock then
          (c.add .plain).min ((v.scale (blockOf v.dims v.t.blockDim k).1 : Int) - 127)
        else (match elemExp v.t (v.code k) with | some x => (c.add .plain).min x | none => c.add .plain)
      | _ => c.add .nonfinite) Counts.zero

/-- Copy units: destination unit and source unit, none for a unit of zeros; AA128 units whose anchor differs from
the destination's are written as the NaN tag (R57, R111). -/
def Env.copyUnits (e : Env) (i : Nat) (v : View) (us : List (Nat × Option Nat)) (anchor : Nat → Int)
    (s : State) : State :=
  let d := e.view s i
  let w := d.t.fmt.bits
  let codes : Nat × Option Nat → List Nat := fun x =>
    match x.2 with
    | none => List.replicate d.unitLen 0
    | some u =>
      if d.t.fmt = .aa128 ∧ v.maxFor (v.unitSeq u) ≠ anchor (d.unitSeq x.1) then [2 ^ 127] else v.unitCodes u
  let s := e.writePlane i false (us.flatMap fun x => codeCells w (x.1 * d.unitLen) (codes x)) s
  if d.t.fmt.isBlock then
    e.writePlane i true (us.map fun x => (x.1, match x.2 with | some u => v.byte true u | none => 0)) s
  else s

/-- Units whose AA128 anchor differs. -/
def anchorClashes (d v : View) (us : List (Nat × Option Nat)) (anchor : Nat → Int) : Nat :=
  if d.t.fmt = .aa128 then
    (us.filter fun x => match x.2 with
      | some u => v.maxFor (v.unitSeq u) ≠ anchor (d.unitSeq x.1)
      | none => false).length
  else 0

/-- Elements of a tensor whose unit is among those given by a predicate on the coordinate along `ax`. -/
def View.along (v : View) (ax : Nat) (p : Nat → Bool) : List Nat :=
  (List.range v.size).filter fun k => p (coord v.dims ax k)

/-- GATHER: slice IDX[i] of SRC to slice i of DST. A whole AA128 destination takes the largest source anchor of each
of its sequences; a part keeps the present one. -/
def opGather (e : Env) (s : State) : State :=
  let v := e.view s (e.f2 0x08)
  let out := e.f2 0x0A
  let d := e.view s out
  let ax := e.f1 0x0E
  let n := idxUsed e s d ax
  let ext := nth v.dims ax 1
  let dd := d.unitDims
  let us : List (Nat × Option Nat) := ((List.range (prod dd)).filter fun u => coord dd ax u < n).map fun u =>
    let i := e.idx s 0x0C (coord dd ax u)
    (u, if goodIndex ext i then some (atSlice dd ax (nth v.unitDims ax 1) i u) else none)
  let whole := decide (nth d.dims ax 1 ≤ n)
  let taken : Nat → List Int := fun q => us.filterMap fun x =>
    match x.2 with
    | some u => if d.unitSeq x.1 = q then some (v.maxFor (v.unitSeq u)) else none
    | none => none
  let anchor : Nat → Int := fun q =>
    if whole then (match taken q with | [] => d.maxFor q | m :: ms => ms.foldl max m) else d.maxFor q
  let clash := anchorClashes d v us anchor
  let s := e.note noteRange (badIndices e s n ext) s
  let s := e.note noteAnchor clash s
  let s := e.copyUnits out v us anchor s
  let s := if d.t.fmt = .aa128 then (if whole then e.putMaxima out ((List.range d.seqs).map anchor) s else s)
    else e.measure out s
  e.health out ((e.view s out).tally (d.along ax fun i => decide (i < n))) false s

/-- EMBED: as GATHER along dimension 0, each element converted through binary32. -/
def opEmbed (e : Env) (s : State) : State :=
  let v := e.view s (e.f2 0x08)
  let out := e.f2 0x0A
  let d := e.view s out
  let n := idxUsed e s d 0
  let ext := nth v.dims 0 1
  let s := e.note noteRange (badIndices e s n ext) s
  let r := e.writeSome out (d.along 0 fun i => decide (i < n)) (fun k =>
    let i := e.idx s 0x0C (coord d.dims 0 k)
    if goodIndex ext i then num32 (v.value (atSlice d.dims 0 ext i k)) else Num.zero) s
  e.health out r.2 false (e.measure out r.1)

/-- The source slices that name slice `j` of the destination, ascending. -/
def namers (idx : List Nat) (extent j : Nat) : List Nat :=
  (idx.zipIdx.filter fun x => x.1 = j && goodIndex extent x.1).map (·.2)

/-- SCATTER REPLACE: the largest source index wins; an AA128 destination keeps its anchor. -/
def opScatterReplace (e : Env) (s : State) : State :=
  let v := e.view s (e.f2 0x08)
  let out := e.f2 0x0A
  let d := e.view s out
  let ax := e.f1 0x0E
  let n := idxUsed e s v ax
  let idx := (List.range n).map (e.idx s 0x0C)
  let ext := nth d.dims ax 1
  let dd := d.unitDims
  let from' : Nat → Option Nat := fun j => (namers idx ext j).getLast?
  let us : List (Nat × Option Nat) := (List.range (prod dd)).filterMap fun u =>
    (from' (coord dd ax u)).map fun i => (u, some (atSlice dd ax (nth v.unitDims ax 1) i u))
  let clash := anchorClashes d v us d.maxFor
  let s := e.note noteRange (badIndices e s n ext) s
  let s := e.note noteAnchor clash s
  let s := e.copyUnits out v us d.maxFor s
  let s := e.measure out s
  e.health out ((e.view s out).tally (d.along ax fun j => (from' j).isSome)) false s

/-- SCATTER ADD: the exact sum of a destination slice and every source slice that names it, index 0 for the destination
and 1 + i for source row i (R114), at E = max(e_DST, e_SRC). -/
def opScatterAdd (e : Env) (s : State) : State :=
  let v := e.view s (e.f2 0x08)
  let out := e.f2 0x0A
  let d := e.view s out
  let ax := e.f1 0x0E
  let n := idxUsed e s v ax
  let idx := (List.range n).map (e.idx s 0x0C)
  let ext := nth d.dims ax 1
  let src : Nat → Nat → Nat := fun i k => atSlice d.dims ax (nth v.dims ax 1) i k
  let sum : Nat → Num := fun k =>
    let is := namers idx ext (coord d.dims ax k)
    let ts := d.term k :: (List.range idx.length).map fun i => if is.contains i then v.term (src i k) else Num.zero
    if opFast e.raw then num32 (Config.fastSum (e.fastKey s k) (ts.map rn))
    else
      let b := is.foldl (fun m i => max m (v.bound (v.seq (src i k)))) (d.bound (d.seq k))
      let r := accSum b (idx.length + 1) ts
      accNum r.1 r.2
  let ks := d.along ax fun j => !(namers idx ext j).isEmpty
  let s := e.note noteRange (badIndices e s n ext) s
  let r := e.writeSome out ks sum s
  e.health out r.2 false (e.measure out r.1)

def opScatter (e : Env) (s : State) : State :=
  if e.f1 0x0F = 1 then opScatterAdd e s else opScatterReplace e s

end Sys2Proof.Machine
end

