-- ==== Sys2Proof/Machine/OpsColl.lean ====
section
/-! DEFINITION. The five collectives (R140, R141, R295 to R297) and KV_SCATTER (R124, R125, R234, R241). -/
namespace Sys2Proof.Machine

/-! ### Contributions -/

/-- A member's SRC as a view, given the descriptor and extents they share. -/
def contribView (t : Tensor) (dims : List Nat) (c : Contribution) : View :=
  { t := { t with maxexp := c.maxexp }
    dims := dims
    byte := fun scales n => nth (if scales then c.scales else c.data) n 0
    seqMax := fun q => nth c.seqmax q c.maxexp }

/-- The group of a collective, if the partition may start an operation of it (R290). -/
def Env.group (e : Env) (s : State) : Option Group :=
  match findGroup s e.part (e.bits 0x10) with
  | some g => if g.epoch ≠ 0 && !g.stopped then some g else none
  | none => none

/-- Views of every rank's SRC in rank order, this member's own among them; none while one is missing. -/
def Env.allViews (e : Env) (s : State) (others : List Contribution) (dims : Contribution → List Nat) :
    Option (List View) :=
  match e.group s with
  | none => none
  | some g =>
    let own := e.view s (e.f2 0x08)
    (List.range g.members.length).mapM fun r =>
      if r = g.rank s then some own
      else (others.find? fun c => c.rank = r).map fun c => contribView own.t (dims c) c

/-! ### Sums (R141) -/

/-- The anchor at which a contributor's integers of NPROD products stand against the base, and the one of the result. -/
def collShift (nprod g : Nat) : Nat × Nat := (widen nprod, widen (g * nprod))

/-- Anchor of the result for a sequence: base + w, or with SEPARATE the largest anchor plus ceil(log2 G). -/
def collAnchor (separate : Bool) (nprod : Nat) (vs : List View) (own : View) (q : Nat) : Int :=
  if separate then (vs.map fun v => v.maxFor q).foldl max (own.maxFor q) + clog2Nat vs.length
  else own.maxFor q - (collShift nprod vs.length).1 + (collShift nprod vs.length).2

/-- The integer of one element: contributions added chunk by chunk of 2^24 products, each chunk re-aligned to the
result's anchor; a contribution whose anchor is not the expected one is the NaN tag (R57). -/
def collSum (separate : Bool) (nprod : Nat) (vs : List View) (own : View) (q k : Nat) : Acc :=
  let c := collAnchor separate nprod vs own q
  if separate then
    accFit ((vs.map fun v => accShift (v.acc k) (c - v.maxFor q).toNat).foldl accAdd (some 0))
  else
    let xs := vs.map fun v => if v.maxFor q = own.maxFor q then v.acc k else none
    let sh := (c - own.maxFor q).toNat
    let per := max 1 (2 ^ 24 / nprod)
    accFit (((chunks per (ceilDiv xs.length per) xs).map fun ch => accShift (ch.foldl accAdd (some 0)) sh).foldl accAdd (some 0))

/-- The fixed tree under fast reductions: adjacent partials added level by level, own operand on the left (R296). -/
def treeSum (xs : List F32) : F32 := (Nat.repeat pairUp 15 xs).headD f32Zero

/-! ### What a member sends into the tree (R295, R296) -/

/-- First element and length of the segments of `n` elements cut at multiples of `run`, at most `most` in one. -/
def segmentCuts (n run most : Nat) : List (Nat × Nat) :=
  (List.range (n / max 1 run)).flatMap fun j => (List.range (ceilDiv run most)).map fun i => (j * run + i * most, min most (run - i * most))

/-- Give the segments of one kind of element to the tree. -/
def Env.give (e : Env) (g : Group) (format per shift share : Nat) (anchor : Nat → Int) (elem : Nat → BitVec 128)
    (cuts : List (Nat × Nat)) (s : State) : State :=
  cuts.foldl (fun s c => giveSegment e.part g.id
    { cseq := g.cseq, offset := c.1, anchor := anchor c.1, format := format, widened := false, lo := g.rank s, hi := g.rank s,
      elems := (List.range c.2).map fun i => elem (c.1 + i), per := max 1 per, shift := shift, share := share, sent := false } s) s

/-- The contribution of a member to ALL_REDUCE or REDUCE_SCATTER: AA128 integers at the base anchor, or at the common anchor
with SEPARATE; binary32 under FAST; else the row maxima, and then terms at the largest of them. `share` is 0 for ALL_REDUCE. -/
def Env.contribute (e : Env) (vs : List View) (share : Nat) (s : State) : State :=
  match e.group s with
  | none => s
  | some g =>
    let own := e.view s (e.f2 0x08)
    let np := fld e.raw 0x20 8
    let sep := e.f1 0x18 % 2 = 1
    let n := own.size
    let run := if own.t.batched then prod (own.dims.drop (own.t.seqDim + 1)) else if share = 0 then n else share
    if opFast e.raw then
      e.give g 0x12 1 0 share (fun _ => 0) (fun k => (own.value k).setWidth 128) (segmentCuts n run 1016) s
    else if own.t.fmt = .aa128 then
      let c : Nat → Int := fun k => collAnchor true np vs own (own.seq k)
      if sep then
        e.give g 0x20 1 0 share c (fun k => accBits (accShift (own.acc k) (c k - own.maxFor (own.seq k)).toNat))
          (segmentCuts n run 254) s
      else
        let w := collShift np vs.length
        e.give g 0x20 (2 ^ 24 / np) (w.2 - w.1) share (fun k => own.maxFor (own.seq k)) (fun k => accBits (own.acc k))
          (segmentCuts n run 254) s
    else
      let b : Nat → Int := fun q => (vs.map fun v => v.bound q).foldl max (own.bound q)
      e.give g 0x20 1 0 share (fun k => b (own.seq k)) (fun k => accBits (floorTerm (b (own.seq k)) (num32 (own.value k))))
        (segmentCuts n run 254)
        (e.give g 0x80 1 0 0 (fun _ => 0) (fun q => (BitVec.ofInt 16 (own.bound q)).setWidth 128) (segmentCuts own.seqs own.seqs 2032) s)

/-- ALL_REDUCE and REDUCE_SCATTER: the sum, of which DST holds the elements from `first` on. -/
def opReduce (vs : List View) (first : Nat → Nat) (e : Env) (s : State) : State :=
  let out := e.f2 0x0A
  let own := e.view s (e.f2 0x08)
  let d := e.view s out
  let np := fld e.raw 0x20 8
  let sep := e.f1 0x18 % 2 = 1
  let wrong := if own.t.fmt = .aa128 ∧ ¬sep then
      (vs.flatMap fun v => (List.range d.size).filter fun k =>
        let q := own.seq (k + first d.size)
        v.maxFor q ≠ own.maxFor q).length
    else 0
  let s := e.note noteAnchor wrong s
  -- SRC's sequence for a sequence of DST, which REDUCE_SCATTER's parts along dimension 0 shift
  let src : Nat → Nat := fun q =>
    if d.t.batched then own.seq (q * prod (d.dims.drop (d.t.seqDim + 1)) + first d.size) else 0
  if opFast e.raw then
    let x : Nat → F32 := fun k => treeSum (vs.map fun v => v.value (k + first d.size))
    if d.t.fmt = .aa128 then
      let anchor : Nat → Int := fun q => if own.t.fmt = .aa128 then collAnchor sep np vs own q
        else (vs.map fun v => v.bound q).foldl max (own.bound q)
      e.writeAnchored out (fun k => floorTerm (anchor (own.seq (k + first d.size))) (num32 (x k))) (fun q => anchor (src q)) false s
    else e.write32 out x s
  else if own.t.fmt = .aa128 then
    if d.t.fmt = .aa128 then
      e.writeAnchored out (fun k => collSum sep np vs own (own.seq (k + first d.size)) (k + first d.size))
        (fun q => collAnchor sep np vs own (src q)) false s
    else
      let anchor := fun k => collAnchor sep np vs own (own.seq (k + first d.size))
      let above := ((List.range d.size).filter fun k => decide (32767 < anchor k)).length
      e.writeAll out (fun k =>
        if 32767 < anchor k then .nan false
        else Num.mul (accNum (anchor k) (collSum sep np vs own (own.seq (k + first d.size)) (k + first d.size))) own.l2)
        false (e.note noteOverflow above s)
  else
    -- terms at E, the largest e of R115 over the group
    let base : Nat → Int := fun q => (vs.map fun v => v.bound q).foldl max (own.bound q)
    let sum := fun (k : Nat) => accSum (base (own.seq k)) vs.length (vs.map fun v => v.term k)
    if d.t.fmt = .aa128 then
      e.writeAnchored out (fun k => (sum (k + first d.size)).2) (fun q => base (src q) + widen vs.length) false s
    else e.writeAll out (fun k => let r := sum (k + first d.size); accNum r.1 r.2) false s

/-! ### Copies (R141) -/

/-- Copy units from several views: destination unit, view, source unit. -/
def Env.copyFrom (e : Env) (out : Nat) (us : List (Nat × View × Nat)) (anchor : Nat → Int) (s : State) : State :=
  us.foldl (fun s x => e.copyUnits out x.2.1 [(x.1, some x.2.2)] anchor s) s

/-- Units of a copy whose AA128 anchor is not the one expected. -/
def copyClashes (d : View) (us : List (Nat × View × Nat)) (anchor : Nat → Int) : Nat :=
  if d.t.fmt = .aa128 then
    (us.filter fun x => x.2.1.maxFor (x.2.1.unitSeq x.2.2) ≠ anchor (d.unitSeq x.1)).length
  else 0

/-- Write copied units, their maxima and the health record. -/
def Env.finishCopy (e : Env) (us : List (Nat × View × Nat)) (anchor : Nat → Int) (whole : Bool) (bad : Nat)
    (rows : Nat) (s : State) : State :=
  let out := e.f2 0x0A
  let d := e.view s out
  let clash := copyClashes d us anchor
  let s := e.copyFrom out us anchor (e.note noteAnchor clash (e.note noteRange bad s))
  let s := if d.t.fmt = .aa128 then (if whole then e.putMaxima out ((List.range d.seqs).map anchor) s else s)
    else e.measure out s
  e.health out ((e.view s out).tally (d.along 0 fun i => decide (i < rows))) false s

/-- Copy units as a DATA packet carries them: of each unit its scale byte, if it has one, and its codes. The spec gives DATA no
layout: operation number, first unit and units are the model's (assumption 82). -/
def View.unitBytes (v : View) (u : Nat) : List Byte :=
  (if v.t.fmt.isBlock then [v.byte true u] else []) ++
    toLE (ceilDiv (v.unitLen * v.t.fmt.bits) 8) ((v.unitCodes u).zipIdx.map fun c => c.1 % 2 ^ v.t.fmt.bits * 2 ^ (v.t.fmt.bits * c.2)).sum

/-- Send units of a view to a member on the bulk VC, as many to a packet as its body of 4,096 bytes takes. -/
def Env.sendUnits (e : Env) (g : Group) (rank : Nat) (v : View) (us : List Nat) (s : State) : State :=
  let per := 4080 / max 1 (v.unitBytes 0).length
  (chunks per (ceilDiv us.length (max 1 per)) us).zipIdx.foldl (fun s c =>
    sendPacket e.part (g.addrOf rank) 0x01 2 g.id g.epoch
      (toLE 8 g.cseq ++ toLE 8 (c.2 * per) ++ c.1.flatMap v.unitBytes) s) s

/-- Send units of SRC to every other member that `units` gives any. -/
def Env.sendCopies (e : Env) (units : Nat → List Nat) (s : State) : State :=
  match e.group s with
  | none => s
  | some g =>
    let v := e.view s (e.f2 0x08)
    ((List.range g.members.length).filter (· ≠ g.rank s)).foldl (fun s r => e.sendUnits g r v (units r) s) s

/-- Combine the maxima of a result that is spread over the group with those of the other members (R50, R296). A sequence along
dimension 0 lies whole with one member. This member gives its own to the tree after those of its terms (assumption 105). -/
def Env.joinMaxima (e : Env) (others : List Contribution) (s : State) : State :=
  let out := e.f2 0x0A
  let d := e.view s out
  if d.t.fmt = .aa128 then s
  else
    let mine := (List.range d.seqs).map d.maxFor
    let s := match e.group s with
      | none => s
      | some g =>
        let first := (e.view s (e.f2 0x08)).seqs
        e.give g 0x80 1 0 0 (fun _ => 0) (fun i => (BitVec.ofInt 16 (nth mine (i - first) 0)).setWidth 128)
          ((segmentCuts mine.length mine.length 2032).map fun c => (first + c.1, c.2)) s
    if d.t.batched && d.t.seqDim = 0 then
      e.setMax out ((others.flatMap (·.outMax)).foldl max (e.view s out).t.maxexp) s
    else e.putMaxima out (mine.zipIdx.map fun m => (others.map fun c => nth c.outMax m.2 m.1).foldl max m.1) s

/-- ALL_GATHER: contributions in rank order along dimension 0. -/
def opAllGather (vs : List View) (e : Env) (s : State) : State :=
  let d := e.view s (e.f2 0x0A)
  let own := e.view s (e.f2 0x08)
  let n := nth own.unitDims 0 1
  let rows := nth own.dims 0 1
  let dd := d.unitDims
  let us := (List.range (prod dd)).map fun u =>
    let i := coord dd 0 u
    (u, nth vs (i / n) own, atSlice dd 0 (nth own.unitDims 0 1) (i % n) u)
  let anchor : Nat → Int := fun q =>
    if d.t.batched ∧ d.t.seqDim = 0 then (nth vs (q / rows) own).maxFor (q % rows) else own.maxFor q
  e.finishCopy us anchor true 0 (nth d.dims 0 1) s

/-- Rows before rank q's, and rank q's, by COUNTS. -/
def Env.sendRows (e : Env) (s : State) (q : Nat) : Nat × Nat :=
  (((List.range q).map (e.idx s 0x0C)).sum, e.idx s 0x0C q)

/-- Units of SRC in the rows that go to rank q; rows past SRC's extent do not exist. -/
def Env.rowUnits (e : Env) (s : State) (q : Nat) : List Nat :=
  let v := e.view s (e.f2 0x08)
  let r := e.sendRows s q
  (List.range (prod v.unitDims)).filter fun u => decide (r.1 ≤ coord v.unitDims 0 u) && decide (coord v.unitDims 0 u < r.1 + r.2)

/-- ALL_TO_ALL: what each rank sent, in sender rank order; rows past DST's extent, and counted rows past SRC's, are dropped
and count (R116). -/
def opAllToAll (vs : List View) (r : Nat) (e : Env) (s : State) : State :=
  let d := e.view s (e.f2 0x0A)
  let own := e.view s (e.f2 0x08)
  let n := nth d.dims 0 1
  let mine := e.sendRows s r
  let have' := nth own.dims 0 1
  let kept := min mine.2 (have' - mine.1)
  let rows : List (View × Nat) := vs.zipIdx.flatMap fun x =>
    if x.2 = r then (List.range kept).map fun i => (own, mine.1 + i)
    else (List.range (nth x.1.dims 0 0)).map fun i => (x.1, i)
  let dd := d.unitDims
  let us := ((List.range (prod dd)).filter fun u => coord dd 0 u < rows.length).map fun u =>
    let x := nth rows (coord dd 0 u) (own, 0)
    (u, x.1, atSlice dd 0 (nth x.1.unitDims 0 1) x.2 u)
  let whole := decide (n ≤ rows.length)
  let anchor : Nat → Int := fun q =>
    if d.t.batched ∧ d.t.seqDim = 0 then
      (if q < rows.length then let x := nth rows q (own, 0); x.1.maxFor x.2 else d.maxFor q)
    else if whole then own.maxFor q else d.maxFor q
  e.finishCopy us anchor whole ((mine.2 - kept) + (rows.length - n)) (min n rows.length) s

/-- BROADCAST: ROOT's SRC. -/
def opBroadcast (src : View) (e : Env) (s : State) : State :=
  let d := e.view s (e.f2 0x0A)
  let us := (List.range (prod d.unitDims)).map fun u => (u, src, u)
  e.finishCopy us src.maxFor true 0 (nth d.dims 0 1) s

/-! ### KV_SCATTER (R125, R234, R240 to R242) -/

/-- A row that is written: row index, sequence, position. -/
structure KvAct where
  row : Nat
  seq : Nat
  pos : Nat

/-- The rows of the operator under the rules of R125: those written, and how many are skipped. -/
def kvActs (e : Env) (s : State) (c : Cache) (layer : Nat) : List KvAct × Nat :=
  let n := nth (e.view s (e.f2 0x08)).four 1 1
  let above := e.f1 0x16 % 2 = 1
  let r := (List.range n).foldl (fun (a : List KvAct × Nat × List (Nat × Nat)) i =>
    let q := e.idx s 0x0C i
    let pos := e.idx s 0x0E i
    let len := match a.2.2.find? fun x => x.1 = q with | some x => x.2 | none => (c.layerRec q layer).length
    if c.isOpen q ∧ (pos = len ∨ (pos < len ∧ above = true)) then
      (a.1 ++ [⟨i, q, pos⟩], a.2.1, (q, pos + 1) :: a.2.2.filter fun x => x.1 ≠ q)
    else (a.1, a.2.1 + 1, a.2.2)) ([], 0, [])
  (r.1, r.2.1)

/-- Pages that the rows need beyond those attached. -/
def kvNeed (s : State) (part : BitVec 4) (c : Cache) (layer : Nat) (acts : List KvAct) : Nat :=
  let x := c.spread s part
  (((acts.map (·.seq)).eraseDups).map fun q =>
    maxNat ((acts.filter fun a => a.seq = q).map fun a => ceilDiv (x.held (a.pos + 1)) c.pp)
      - (c.layerRec q layer).pages.length).sum

/-- Whether the cache lacks pages or the device lacks page-table entries. -/
def kvLacks (s : State) (p : Partition) (c : Cache) (need : Nat) : Bool :=
  decide ((freePool s p c).length + (if c.spill then (freeRoot p c c.used).length else 0) < need)
    || decide (134217728 < entriesUsed s + need)

/-- Write one row at a position equal to the present length. -/
def kvAppend (e : Env) (h : U32) (layer : Nat) (kv vv : View) (a : KvAct) (s : State) : State :=
  match findPart s e.part with
  | none => s
  | some p =>
    match p.cache h with
    | none => s
    | some c =>
      let x := c.spread s e.part
      let r := c.layerRec a.seq layer
      if !x.holds a.pos then updCache e.part h (fun c => c.putLayer { r with length := a.pos + 1 }) s
      else
        let q := x.ordinal a.pos
        let s := if r.pages.length * c.pp ≤ q then attachPage e.part h a.seq layer s else s
        let c := (((findPart s e.part).bind fun p => p.cache h)).getD c
        let r := c.layerRec a.seq layer
        let src : View → Nat → Nat → Num := fun v g d => num32 (v.value ((a.row * c.hl + g) * c.d + d))
        let st := if c.bf16 then [] else
          let old := if q % 32 = 0 ∨ r.staging.isEmpty then stagingZero c else r.staging
          stagingOf c fun g i d => if i = q % 32 then bf16Of (src vv g d) else stagingGet c old g i d
        let cells := keyCells p c r q (src kv) ++
          (if c.bf16 then valCells p c r q (src vv) else blockCells p c r q st)
        updCache e.part h (fun c => c.putLayer { r with
            length := a.pos + 1, staging := st
            pages := setAt r.pages (q / c.pp) fun g => { g with restart := g.restart || g.moving.isSome } })
          (writeCells p.gen cells s)

/-- One row: an overwrite first cuts the sequence's layer, its pages staying attached until the step completes; what it changes is
kept for a step that fails. -/
def kvRow (e : Env) (h : U32) (layer : Nat) (kv vv : View) (s : State) (a : KvAct) : State :=
  let s := match (findPart s e.part).bind fun p => (p.cache h).map fun c => (p, c) with
    | none => s
    | some (p, c) =>
      let r := c.layerRec a.seq layer
      if r.length ≤ a.pos then s
      else keepLines p c r (((c.spread s e.part).held a.pos) / c.pp) s
  kvAppend e h layer kv vv a (truncateLayer e.part h a.seq layer a.pos true s)

/-- After the rows: maxima combined with those of the other members, and granules sealed. -/
def kvFinish (e : Env) (h : U32) (layer : Nat) (others : List (Nat × Int × Int)) (s : State) (q : Nat) : State :=
  match findPart s e.part with
  | none => s
  | some p =>
    match p.cache h with
    | none => s
    | some c =>
      let r := c.layerRec q layer
      let held := (c.spread s e.part).held r.length
      let mine := (ownMax s p c r true held r.length, ownMax s p c r false held r.length)
      let m := (others.filter fun x => x.1 = q).foldl (fun (m : Int × Int) x => (max m.1 x.2.1, max m.2 x.2.2)) mine
      let r' := { r with kmax := m.1, vmax := m.2 }
      resealFrom p c r' held 0 (updCache e.part h (fun c => c.putLayer r') s)

/-- Send this member's flag to the others, once (R234). -/
def sendAgree (part : BitVec 4) (g : Group) (lacks : Bool) (s : State) : State :=
  let me := g.rank s
  if g.agrees.any fun a => a.1 = g.cseq && a.2.1 = me then s
  else
    let s := updGroup part g.id (fun g => { g with agrees := g.agrees ++ [(g.cseq, me, lacks)] }) s
    (g.members.filter fun m => m ≠ fabAddr s part).foldl (fun s m =>
      sendPacket part m 0x04 0 g.id g.epoch (toLE 8 g.cseq ++ toLE 1 (if lacks then 1 else 0)) s) s

/-- The body of KV_SCATTER once it is decided whether the rows are written. -/
def kvWrite (e : Env) (h : U32) (layer : Nat) (acts : List KvAct) (skipped : Nat) (maxima : List (Nat × Int × Int))
    (s : State) : State :=
  let kv := e.view s (e.f2 0x08)
  let vv := e.view s (e.f2 0x0A)
  let s := acts.foldl (kvRow e h layer kv vv) (e.note noteRange skipped s)
  ((acts.map (·.seq)).eraseDups).foldl (kvFinish e h layer maxima) s

/-- Give this member's maxima of the touched sequences to the tree, once: KMAX and VMAX of the i-th sequence in the order first
touched, as elements 2i and 2i + 1 (R234, R296; assumption 105). They are those that the write will leave. -/
def giveMaxima (e : Env) (g : Group) (h : U32) (layer : Nat) (acts : List KvAct) (skipped : Nat) (s : State) : State :=
  match e.step s with
  | none => s
  | some r =>
    if r.maxGiven.contains e.op then s
    else
      let after := kvWrite e h layer acts skipped [] s
      let ms := ((acts.map (·.seq)).eraseDups).flatMap fun q =>
        match (findPart after e.part).bind fun p => p.cache h with
        | some c => let r := c.layerRec q layer; [r.kmax, r.vmax]
        | none => []
      e.give g 0x80 1 0 0 (fun _ => 0) (fun i => (BitVec.ofInt 16 (nth ms i 0)).setWidth 128) (segmentCuts ms.length ms.length 2032)
        (e.updStep (fun r => { r with maxGiven := r.maxGiven ++ [e.op] }) s)

/-- KV_SCATTER on a cache of one device. -/
def kvLocal (e : Env) (p : Partition) (c : Cache) (layer : Nat) (s : State) : State :=
  let a := kvActs e s c layer
  if kvLacks s p c (kvNeed s e.part c layer a.1) then e.updStep (fun r => { r with noResource := true }) s
  else kvWrite e c.handle layer a.1 a.2 [] s

/-- KV_SCATTER on a cache that spans a group: agree, then write on every member or on none. -/
def kvSpanning (e : Env) (g : Group) (lacks : Bool) (c : Cache) (layer : Nat) (peers : PeerAnswer) (s : State) : State :=
  let a := kvActs e s c layer
  let s := e.groupDone g.id s
  if lacks then e.updStep (fun r => { r with noResource := true }) s
  else kvWrite e c.handle layer a.1 a.2 peers.maxima s

end Sys2Proof.Machine
end

