-- ==== Sys2Proof/Machine/Division.lean ====
section
/-! DEFINITION. Attention divided between the near-bank units and the canopy (R210, R218, R219, R221): the tasks of an operator, and
what the units do with them. -/
namespace Sys2Proof.Machine

/-! ### Which positions a unit runs -/

/-- Pages of a unit's channel are on their way elsewhere. -/
def pagesLeaving (s : State) (u : Nat) : Bool :=
  (findUnit s u).migrating || (pagesOn s u).any fun a =>
    match (findPart s a.1).bind fun x => x.cache a.2.1 with
    | some c => (nth (c.layerRec a.2.2.1 a.2.2.2.1).pages a.2.2.2.2 PageEntry.none).moving.isSome
    | none => false

/-- Submissions of the running step: its batch size; a step that is not batched is one. -/
def Env.batchSize (e : Env) : Nat := e.batch.getD 1

/-- The rule a step was released under gives the eligible positions of a channel to its unit: every one in SERVICE, none in CANOPY
mode, and under dynamic division those of steps of BSPLIT submissions or more whose pages stay (R218, R219, R221). -/
def unitRuns (e : Env) (s : State) (p : Partition) (u : Nat) : Bool :=
  let v := findUnit s u
  match e.step s with
  | none => false
  | some r =>
    v.state = .inService && !v.stranded && computable s u &&
      (if r.batch.divMode = 1 then false
       else if r.batch.divMode = 0 && divisionState s p = 0 then true
       else !pagesLeaving s u && decide (r.batch.bsplit ≤ e.batchSize))

/-! ### Forming tasks (R210) -/

/-- A task that the operator gives to a unit, with the final maxima of its rows. -/
structure UnitJob where
  unit : Nat
  task : Task
  maxima : List F32

/-- A query row as a task carries it; an element above its bound travels as NaN (R51). -/
def Env.taskRow (q : View) (r : AttnRow) (anchor : Int) : TaskRow :=
  let at' : Nat → Nat := fun i => r.row * r.d + i
  if q.t.fmt.isBlock then
    { q := (List.range r.d).map fun i => BitVec.ofNat 8 (q.code (at' i))
      qscales := (List.range (r.d / 32)).map fun k =>
        if q.exceeds (at' (32 * k)) then 255 else BitVec.ofNat 8 (q.scale (blockOf q.dims q.t.blockDim (at' (32 * k))).1)
      pos := r.pos, anchor := anchor }
  else
    { q := (List.range r.d).flatMap fun i => toLE 2 (if q.exceeds (at' i) then 0x7FC0 else q.code (at' i))
      qscales := [], pos := r.pos, anchor := anchor }

/-- Units whose channels hold pages of a sequence's layer. -/
def LayerRec.units (r : LayerRec) : List Nat := ((r.pages.filter fun e => !e.root).map fun e => e.loc / 1024).eraseDups

/-- Tasks of batch row `b`: one for each channel, key-value head, chunk of R55 and group of rows, where any position is eligible. -/
def Env.rowJobs (e : Env) (s : State) (p : Partition) (c : Cache) (q : View) (x : AttnDims) (others : List AttnPartial)
    (b : Nat) : List UnitJob :=
  let seq := e.cacheSeq s 0x2A b
  let layer := e.f2 0x28
  let r := c.layerRec seq layer
  let src := cacheSrc s e.part p c r
  let per := x.hq / x.hkv
  ((r.units.filter (unitRuns e s p)).flatMap fun u => (List.range x.hkv).flatMap fun g =>
    (List.range (ceilDiv r.length (2 ^ 24))).flatMap fun k =>
      let rows := (List.range x.t).flatMap fun t => (List.range per).map fun h =>
        e.attnRow s q x ((b * x.t + t) * x.hq + g * per + h)
      (chunks (rowsPerTask x.d) (ceilDiv rows.length (max 1 (rowsPerTask x.d))) rows).map fun rs =>
        let anchor : AttnRow → Int := fun a => a.qmax + a.qK + src.kmax + src.kK + widen x.d
        { unit := u
          task :=
            { part := e.part, cache := c.handle, seq := seq, layer := layer, head := g
              rows := rs.map fun a => Env.taskRow q a (anchor a)
              ql2 := q.t.l2, scale := e.bits 0x18, causal := e.f1 0x20 % 2 = 1, window := e.f4 0x1C
              first := k * 2 ^ 24, count := min (2 ^ 24) (r.length - k * 2 ^ 24)
              wL := widen r.length, wA := widen r.length, anchorA := weightBound src.cb8 + src.vmax + src.vK }
          maxima := rs.map fun a => fmaxList (a.scores src ++ (others.filter fun o => o.row = a.row).map (·.max)) }).filter fun j =>
    match taskEnv s j.task with
    | some t => !(eligible s j.unit j.task t).isEmpty
    | none => false

/-- Every task of an ATTN_CLEARING. Rows of a closed sequence, and of one whose writes nothing orders, have none. -/
def Env.unitJobs (e : Env) (s : State) (others : List AttnPartial) : List UnitJob :=
  match e.cache s 0x24 with
  | none => []
  | some (p, c) =>
    let q := e.view s (e.f2 0x08)
    let x := e.attnDims q
    ((List.range x.b).filter fun b => c.isOpen (e.cacheSeq s 0x2A b) && !unordered e s (e.cacheSeq s 0x2A b)).flatMap
      (e.rowJobs s p c q x others)

/-! ### Running them (R211) -/

/-- A unit that still has work of its own to do. -/
def unitBusy (v : NbUnit) : Bool :=
  v.work.isSome || !v.waitingTasks.isEmpty || !v.repairing.isEmpty || v.reloading

/-- The first granule of a job whose check fails. -/
def UnitJob.mismatch (seen : State) (j : UnitJob) : Option Nat :=
  (taskEnv seen j.task).bind fun t => Machine.mismatch seen j.unit t (eligible seen j.unit j.task t)

/-- One job from its first slice to its partials. -/
def UnitJob.run (seen : State) (j : UnitJob) (s : State) : State :=
  match taskEnv seen j.task with
  | none => s
  | some t =>
    let js := eligible seen j.unit j.task t
    let n := taskCycles t.c js.length ((js.map (· / 32)).eraseDups).length j.task.rows.length
    let w := scoreTask seen j.task t js
    passTwo seen j.unit w t js j.maxima (ceilDiv n 131) (scored j.unit w t js s)

/-- The jobs of an operator run in slices that nothing here interrupts, so that the partials it combines are those of its own pass over
the same positions (R123). A mismatch discards its task, and the operator waits for the repair read; answers whether it may go on. -/
def runJobs (err : ReadErrors) (js : List UnitJob) (s : State) : Bool × State :=
  let seen := unitSees err s
  let s := { s with draw := seen.draw }
  let bad := js.filterMap fun j => (j.mismatch seen).map fun g => (j, g)
  if bad.isEmpty then (true, js.foldl (fun s j => j.run seen s) s)
  else (false, bad.foldl (fun s x => discardTask x.1.unit x.2 none s) s)

/-- Granules that the units read for some jobs: unit and number. -/
def jobGranules (s : State) (js : List UnitJob) : List (Nat × Nat) :=
  (js.flatMap fun j =>
    match taskEnv s j.task with
    | none => []
    | some t => (eligible s j.unit j.task t).flatMap fun i =>
        match positionGranules t i with | some (u, gs) => gs.map fun g => (u, g) | none => []).eraseDups

end Sys2Proof.Machine
end

