-- ==== Sys2Proof/Machine/OpsTrain.lean ====
section
/-! DEFINITION. Training operators: the optimiser step with its stochastic rounding (R66 to R68, R142, R143), the
cross-entropy loss (R144), and the backward variants of the normalisations and of softmax (R145). -/
namespace Sys2Proof.Machine

/-! ### Stochastic rounding (R66) -/

/-- Magnitude code of n / d rounded towards zero on a format's grid, with no upper limit. -/
def truncMag (mbits : Nat) (emin : Int) (n d : Nat) : Nat :=
  if n = 0 then 0
  else
    let e := max (flog2 n d) emin
    let k := (mbits : Int) - e
    let q := if 0 ≤ k then n * 2 ^ k.toNat / d else n / (d * 2 ^ (-k).toNat)
    (e - emin).toNat * 2 ^ mbits + q

/-- The two grid neighbours of a magnitude: code below, and floor(2^32 × distance ÷ spacing) from it. -/
def gridPlace (mbits : Nat) (emin : Int) (n d : Nat) : Nat × Nat × Bool :=
  let c := truncMag mbits emin n d
  let lo := magValue mbits emin c
  let hi := magValue mbits emin (c + 1)
  -- (n/d − lo) / (hi − lo)
  let num := (n * lo.2 - lo.1 * d) * hi.2
  let den := (hi.1 * lo.2 - lo.1 * hi.2) * d
  (c, 2 ^ 32 * num / den, num = 0)

/-- The code of x′ under the draw `u`: hi when u < f, lo otherwise, lo being the neighbour not above x′. A value above the
largest finite one saturates. The sign of a zero that a negative value is rounded up to is not stated: `zs`. -/
def stochastic (f : Fmt) (u : Nat) (zs : Bool) (x : Num) : Nat × Outcome3 :=
  match x with
  | .fin s n d =>
    let mb := if f = .int8 then 0 else f.mbits
    let em := if f = .int8 then 0 else f.emin
    let g := if f = .int8 then (n / d, 2 ^ 32 * (n % d) / d, decide (n % d = 0)) else gridPlace mb em n d
    let m :=
      if g.2.2 then g.1
      else if !s then (if u < g.2.1 then g.1 + 1 else g.1)
      else
        -- lo is the neighbour away from zero; the distance from it is the complement, floored
        let num := if f = .int8 then d - n % d else
          let lo := magValue mb em g.1
          let hi := magValue mb em (g.1 + 1)
          (hi.1 * d - n * hi.2) * lo.2
        let den := if f = .int8 then d else
          let lo := magValue mb em g.1
          let hi := magValue mb em (g.1 + 1)
          (hi.1 * lo.2 - lo.1 * hi.2) * d
        if u < 2 ^ 32 * num / den then g.1 else g.1 + 1
    let above := decide (f.maxCode < m)
    let m := min m f.maxCode
    let sign := s && (m ≠ 0 || n = 0 || zs)
    let code := if f = .int8 then (if s then (256 - m) % 256 else m) else (if sign then 2 ^ f.signBit else 0) + m
    (code, if above then .saturated else if m = 0 then .zero else .plain)
  | x => if f.isBlock then toElement f x else if f = .int8 then toInt8 x else toBinary f x

/-- Conversion of a tensor by stochastic rounding, element k with the draw of R68. DESIGN CHOICE: x is divided by L2SCALE of the tensor
before the scale is chosen, as in every other conversion; R66 names no L2SCALE (assumption 106). -/
def convertStochastic (t : Tensor) (dims : List Nat) (draw : Nat → Nat) (zs : Nat → Bool) (val : Nat → Num) : Conv :=
  let out : Nat → Num := fun k => Num.div (val k) (num32 t.l2)
  if t.fmt.isBlock then
    (List.range (blockCount dims t.blockDim)).foldl (fun (acc : Conv) j =>
      let ks := (List.range 32).map fun w => elemOf dims t.blockDim j w
      let vs := ks.map fun k => match k with | some k => out k | none => Num.zero
      let bad := (t.fmt = .cb6 ∨ t.fmt = .cb4) ∧ vs.any (fun v => !v.isFinite)
      let e := blockExp t.fmt vs
      let rs := (ks.zip vs).map fun x =>
        if bad then (0, Outcome3.nonfinite)
        else match x.1 with
          | some k => stochastic t.fmt (draw k) (zs k) (x.2.scale2 (-e))
          | none => (0, Outcome3.zero)
      let sc := if bad then 255 else (e + 127).toNat
      let os := (ks.zip rs).filterMap fun x => if x.1.isSome then some x.2.2 else none
      ⟨acc.data ++ codeCells t.fmt.bits (j * 32) (rs.map (·.1)), acc.scales ++ [(j, BitVec.ofNat 8 sc)],
        countBlock acc.counts sc os⟩) ⟨[], [], Counts.zero⟩
  else
    (List.range (prod dims)).foldl (fun (acc : Conv) k =>
      let r := stochastic t.fmt (draw k) (zs k) (out k)
      let c := acc.counts.add r.2
      ⟨acc.data ++ codeCells t.fmt.bits k [r.1], acc.scales,
        match elemExp t r.1 with | some x => c.min x | none => c⟩) ⟨[], [], Counts.zero⟩

/-! ### OPT_STEP (R142, R143) -/

/-- What the operator yields for one element: w′, m′, v′. -/
structure OptOut where
  w : F32
  m : F32
  v : F32

/-- R143 for one element. -/
def optElem (e : Env) (tp : F32) (g w m v : F32) : OptOut :=
  let lr := e.bits 0x20
  let b1 := e.bits 0x24
  let b2 := e.bits 0x28
  let eps := e.bits 0x2C
  let wd := e.bits 0x30
  if e.f1 0x1C = 0 then
    let m' := ffma b1 m g
    ⟨fsub w (fmul lr (fadd m' (fmul wd w))), m', v⟩
  else
    let m' := ffma b1 m (fmul (fsub f32One b1) g)
    let v' := ffma b2 v (fmul (fsub f32One b2) (fmul g g))
    let corr := fun (b : F32) => fsub f32One (fExp (fmul tp (fLog b)))
    let mh := fmul m' (fRecip (corr b1))
    let vh := fmul v' (fRecip (corr b2))
    let s := if (num32 vh).isZero then f32Zero else fmul vh (fRsqrt vh)
    let u := fmul mh (fRecip (fadd s eps))
    ⟨fsub w (fmul lr (fadd u (fmul wd w))), m', v'⟩

/-- OPT_STEP. A step count of 2^24 or more has no stated result: T′ is then free, and the value counts (R116). -/
def opOptStep (e : Env) (s : State) : State :=
  let grad := e.view s (e.f2 0x0E)
  let master := e.view s (e.f2 0x0A)
  let mom := e.view s (e.f2 0x10)
  let sq := e.view s (e.f2 0x14)
  let t := e.idx s 0x18 0
  let t' := (t + 1) % 2 ^ 64
  let tp := if t < 2 ^ 24 then f32OfNat t' else Config.stepValue t
  let adam := e.f1 0x1C = 1
  let gs := e.bits 0x34
  let r := fun k => optElem e tp (fmul (grad.value k) gs) (master.value k) (mom.value k)
    (if adam then sq.value k else f32Zero)
  let out := e.f2 0x08
  let w := e.tensor s out
  let seed := fld64 e.raw 0x38 + BitVec.ofNat 64 t'
  let u := fun k => (draw32 seed w.id (BitVec.ofNat 64 k) 0).toNat
  let c := convertStochastic w (e.dims w) u (fun k => Config.zeroSign (r k).w (u k)) (fun k => num32 (r k).w)
  let s' := e.note noteRange (if t < 2 ^ 24 then 0 else 1) s
  let s' := e.writePlane out true c.scales (e.writePlane out false c.data s')
  let s' := e.health out c.counts false (e.measure out s')
  let s' := e.write32 (e.f2 0x0C) (fun k => (r k).w) s'
  let s' := e.write32 (e.f2 0x12) (fun k => (r k).m) s'
  let s' := if adam then e.write32 (e.f2 0x16) (fun k => (r k).v) s' else s'
  if e.has 0x1A then e.putIndex 0x1A [t'] s' else s'

/-! ### LOSS_XENT (R144) -/

def opLoss (e : Env) (s : State) : State :=
  let v := e.view s (e.f2 0x08)
  let n := v.inner
  let rows := (List.range v.rowCount).map fun r => softRow e s (e.bits 0x14) v r
  let tgt : Nat → Nat := fun r => e.idx s 0x0A r
  let row : Nat → SoftRow := fun r => nth rows r ⟨[], f32NegInf, [], f32Zero⟩
  let bad := ((List.range v.rowCount).filter fun r => n ≤ tgt r && tgt r ≠ 0xFFFFFFFF).length
  let s' := e.note noteRange bad s
  let s' := e.write32 (e.f2 0x0C) (fun r =>
    if n ≤ tgt r then f32Zero
    else let x := row r; fsub (fadd (fLog x.l) x.m) (nth x.z (tgt r) f32NaN)) s'
  if e.has 0x0E then
    e.write32 (e.f2 0x0E) (fun k =>
      let r := k / n
      if n ≤ tgt r then f32Zero
      else
        let x := row r
        fmul (e.bits 0x10) (fsub (fmul (nth x.p (k % n) f32NaN) (fRecip x.l)) (if k % n = tgt r then f32One else f32Zero))) s'
  else s'

/-! ### Backward normalisations (R145) -/

/-- Σ over rows for each column: terms and their bound per row. -/
def Env.columnSum (e : Env) (s : State) (salt rows i : Nat) (bound : Nat → Int) (t : Nat → F32) : F32 :=
  let b := (List.range rows).map bound
  e.sum s (salt + i) (b.foldl max (b.headD 0)) rows ((List.range rows).map t)

def opRmsnormBwd (e : Env) (s : State) : State :=
  let x := e.view s (e.f2 0x08)
  let dy := e.view s (e.f2 0x0A)
  let st := e.view s (e.f2 0x10)
  let n := x.inner
  let rows := x.rowCount
  let g : Nat → Nat → F32 := fun r i => mulOpt (dy.cell r i) (e.vec s 0x0C i)
  let bs := (List.range rows).map fun r =>
    let sum := e.sum s r (dy.rowBound r + e.vecBound s 0x0C + x.rowBound r) n
      ((List.range n).map fun i => fmul (g r i) (x.cell r i))
    let rr := st.value r
    fmul (fmul rr rr) (fmul sum (nuOf n))
  let s' := e.write32 (e.f2 0x0E) (fun k =>
    let r := k / n
    let i := k % n
    fmul (st.value r) (fsub (g r i) (fmul (x.cell r i) (nth bs r f32NaN)))) s
  if e.has 0x12 then
    e.write32 (e.f2 0x12) (fun i => e.columnSum s rows rows i
      (fun r => dy.rowBound r + x.rowBound r + st.bound (st.seq r))
      (fun r => fmul (fmul (dy.cell r i) (x.cell r i)) (st.value r))) s'
  else s'

def opLayernormBwd (e : Env) (s : State) : State :=
  let x := e.view s (e.f2 0x08)
  let dy := e.view s (e.f2 0x0A)
  let st := e.view s (e.f2 0x10)
  let n := x.inner
  let rows := x.rowCount
  let g : Nat → Nat → F32 := fun r i => mulOpt (dy.cell r i) (e.vec s 0x0C i)
  let xh : Nat → Nat → F32 := fun r i => fmul (fsub (x.cell r i) (st.value (2 * r))) (st.value (2 * r + 1))
  let eg : Nat → Int := fun r => dy.rowBound r + e.vecBound s 0x0C
  let eh : Nat → Int := fun r => max (x.rowBound r) (st.bound (st.seq (2 * r))) + 1 + st.bound (st.seq (2 * r + 1))
  let sums := (List.range rows).map fun r =>
    (fmul (e.sum s (2 * r) (eg r) n ((List.range n).map (g r))) (nuOf n),
     fmul (e.sum s (2 * r + 1) (eg r + eh r) n ((List.range n).map fun i => fmul (g r i) (xh r i))) (nuOf n))
  let s' := e.write32 (e.f2 0x0E) (fun k =>
    let r := k / n
    let i := k % n
    let m := nth sums r (f32NaN, f32NaN)
    fmul (st.value (2 * r + 1)) (fsub (fsub (g r i) m.1) (fmul (xh r i) m.2))) s
  let s' := if e.has 0x12 then
      e.write32 (e.f2 0x12) (fun i => e.columnSum s (2 * rows) rows i (fun r => dy.rowBound r + eh r)
        (fun r => fmul (dy.cell r i) (xh r i))) s'
    else s'
  if e.has 0x14 then
    e.write32 (e.f2 0x14) (fun i => e.columnSum s (2 * rows + n) rows i dy.rowBound (fun r => dy.cell r i)) s'
  else s'

def opSoftmaxBwd (e : Env) (s : State) : State :=
  let y := e.view s (e.f2 0x08)
  let dy := e.view s (e.f2 0x0A)
  let n := y.inner
  let sums := (List.range y.rowCount).map fun r =>
    e.sum s r (dy.rowBound r + y.rowBound r) n ((List.range n).map fun i => fmul (dy.cell r i) (y.cell r i))
  e.write32 (e.f2 0x0C) (fun k =>
    let r := k / n
    scaled (e.bits 0x18) (fmul (y.cell r (k % n)) (fsub (dy.cell r (k % n)) (nth sums r f32NaN)))) s

end Sys2Proof.Machine
end

