-- ==== Sys2Proof/Machine/Operators.lean ====
section
/-! DEFINITION. The operators of a running step by their codes (R114): each runs when it may start (R168), reads its operands over the
vertical channels (R186, R196, R197), and has no effect before that. -/
namespace Sys2Proof.Machine

/-! ### Operands that are lost (R116, R184, R197, R407) -/

/-- The cache and the layer that an attention over pages reads. -/
def Env.readCache (e : Env) (s : State) : Option (Partition × Cache) :=
  if opCode e.raw = 0x21 then e.cache s 0x24 else none

/-- Sequences with pages that hold one of some lost lines: the first position of the first such page, and the pages. -/
def lostPages (s : State) (part : BitVec 4) (p : Partition) (c : Cache) (ls : List Nat) : List (Nat × Nat × List (Nat × Nat)) :=
  c.layers.filterMap fun r =>
    match r.pages.zipIdx.filter fun e => (e.1.lines p c).any fun l => ls.contains l with
    | [] => none
    | e :: es => some (r.seq, (c.spread s part).position (e.2 * c.pp), (e :: es).map fun e => (r.layer, e.2))

/-- Every one of some lost lines of pages can be recomputed. -/
def Env.recoverable (e : Env) (s : State) (ls : List Nat) : Bool :=
  match e.readCache s with
  | none => ls.isEmpty
  | some (p, c) => (lostPages s e.part p c ls).all fun x => canRecompute s p c x.1 x.2.1

/-- Have the pages of some lost lines recomputed: the operator waits, and the step is replayed afterwards (R217, R246). -/
def Env.regenerate (e : Env) (ls : List Nat) (s : State) : State :=
  match e.readCache s with
  | none => s
  | some (p, c) => (lostPages s e.part p c ls).foldl (fun s x => enqueueRegen e.part c.handle x.1 x.2.1 x.2.2 s) s

/-- Lines that operators of this kind copy by skid channels. -/
def Env.outLines (e : Env) (s : State) : List Nat :=
  ((tensorsOut e.raw).flatMap fun i =>
    let t := e.tensor s i
    (t.addrs (e.dims t)).map lineOf).eraseDups

/-- A skid channel marks the destination of a line that it cannot read as lost (R197): the lines of the outputs that take anything from
the lines `ls`, told by what a change of those does to the copy. -/
def Env.loseCopies (e : Env) (ls : List Nat) (body : State → State) (s : State) : State :=
  let cells := ls.flatMap fun l => (List.range 64).map fun i => (64 * l + i, ~~~(memGet s.mem (64 * l + i)))
  let flipped : State := { s with mem := memSetAll s.mem cells }
  let a := body s
  let b := body flipped
  ((e.outLines s).filter fun l => (List.range 64).any fun i => memGet a.mem (64 * l + i) ≠ memGet b.mem (64 * l + i)).foldl
    (fun s l => loseLine (genAt s (l * 64)) l s) a

/-- Run an operator whose operands are readable; `extra` are addresses in cache pages that it reads. Lost lines of pages with a source
are recomputed first; lost lines that operators of this step wrote are rewritten by a replay; any other lost line ends the step
(R197, R217, R407). -/
def Env.guarded (e : Env) (extra : List Nat) (body : State → State) (s : State) : State :=
  match e.step s with
  | none => s
  | some r =>
    let addrs := e.reads s
    let free := (linesIn s none (addrs ++ extra)).length
    match linesIn s (some .lost) addrs, linesIn s (some .lost) extra with
    | [], [] => e.finishOp (body (e.note noteFree free s))
    | ls, cs =>
      if (ls.all fun l => (e.rewritable s r).contains l) && e.recoverable s cs then
        if cs.isEmpty then replayStep e.part e.ctx e.op ls s else e.regenerate cs s
      else
        let first := match ls with | l :: _ => l | [] => cs.headD 0
        let source := match ls with | l :: _ => lineSource s l | [] => if withdrawnLine s first then 3 else 2
        let s := e.note noteFree free s
        e.finishOp (e.updStep (fun r => { r with lost := some (source, e.op, first * 64, ls.length + cs.length) })
          (if offGroves (opCode e.raw) then e.loseCopies ls body s else body s))

/-! ### Reads over the vertical channels (R11, R186, R189, R196, R197) -/

/-- A line of the reserved area in root layer 15, where descriptors lie (R176). -/
def inReserved (l : Nat) : Bool := lineLayer l = 15 && decide (1024 ≤ lineIndex l)

/-- A core's descriptor fetch meets changes in lines of the reserved area: corrected, reconstructed, or, uncorrectable, written again
from the second copy; answers whether the step is replayed for it. -/
def fetchDescriptor (err : ReadErrors) (part : BitVec 4) (l : Nat) (s : State) : Bool × State :=
  let errs := errorsOf err l
  let phys := physOfLine s l
  match decodePattern errs with
  | .clean => (false, s)
  | .corrected => (false, countCorrected phys (lineCore l) errs s)
  | _ =>
    let s := updLayer phys (fun r => { r with uncorr := r.uncorr + 1 }) s
    if canForm s err.badStripe l then
      (false, recordUncorr (l * 64) 0 0 (some part) (updLayer phys (fun r => { r with recon := r.recon + 1 }) s))
    else (true, recordUncorr (l * 64) 0 1 (some part) s)

/-- Lines that an operator writes in part: each is read first, to merge the write into it (R189). -/
def Env.merged (e : Env) (s : State) (ls : List Nat) : List Nat :=
  let outs := (tensorsOut e.raw).flatMap fun i =>
    let t := e.tensor s i
    t.addrs (e.dims t)
  ls.filter fun l =>
    let n := ((outs.filter fun a => lineOf a = l).eraseDups).length
    decide (0 < n) && decide (n < 64)

/-- Bytes that a read only mistook are as they were once it is over, where nothing has been written over them. -/
def ungarble (ls : List Nat) (before seen after : State) : State :=
  let cells := (ls.flatMap fun l => (List.range 64).map fun i => 64 * l + i).filter fun a =>
    memGet seen.mem a ≠ memGet before.mem a && memGet after.mem a = memGet seen.mem a
  { after with mem := memSetAll after.mem (cells.map fun a => (a, memGet before.mem a)) }

/-- The descriptor of an operator is fetched: whether its step is replayed for it, and the state. -/
def Env.descriptors (e : Env) (err : ReadErrors) (s : State) : Bool × State :=
  (((err.symbols.map (·.1)).eraseDups).filter inReserved).foldl (fun (b : Bool × State) l =>
    let x := fetchDescriptor err e.part l b.2
    (b.1 || x.1, x.2)) (false, s)

/-- The lines with content that an operator reads; `extra` are addresses in cache pages. -/
def Env.linesRead (e : Env) (extra : List Nat) (s : State) : List Nat :=
  (((e.reads s ++ extra).map lineOf).eraseDups).filter fun l => lineState s l = some .valid

/-- Those of them that come back changed. -/
def Env.changed (e : Env) (err : ReadErrors) (extra : List Nat) (s : State) : List Nat :=
  (e.linesRead extra s).filter fun l => (err.symbols.map (·.1)).contains l

/-- How an operator's data travels. -/
def Env.travels (e : Env) : NetKind := if offGroves (opCode e.raw) then .skidCopy else .operand

/-- The lines of an operator's operands are read, each once, and the old lines of its outputs that it merges. -/
def Env.readIn (e : Env) (r : RunningStep) (err : ReadErrors) (extra : List Nat) (s : State) : State :=
  let ls := e.linesRead extra s
  let s := (readLines (if offGroves (opCode e.raw) then 2 else 1) (e.rewritable s r) err ls
    (shareTravel e.travels false (e.workers s) ls s)).2
  ((e.merged s ((err.symbols.map (·.1)).eraseDups)).filter fun l => lineState s l = some .valid).foldl
    (fun s l => mergeLine err l s) s

/-- What is left of an operator that read `ls` changed, as `seen` for `before`: its results travel to their lines. -/
def Env.stored (e : Env) (ls : List Nat) (before seen after : State) : State :=
  let outs := e.outLines before
  shareTravel e.travels true (e.workers before) outs (ungarble (ls.filter fun l => !outs.contains l) before seen after)

/-- An operator's accesses, and its effect on what they return. -/
def Env.reading (e : Env) (err : ReadErrors) (extra : List Nat) (body : State → State) (s : State) : State :=
  match e.step s with
  | none => s
  | some r =>
    match e.descriptors err s with
    | (true, s) => replayStep e.part e.ctx e.op [] s
    | (false, s) =>
      let ls := e.changed err extra s
      let t := e.readIn r err extra s
      let u := asReadLines err ls t
      e.stored ls t u (e.guarded extra body u)

/-- One operator row of the table: no effect unless the operator may start. -/
def runOp (part : BitVec 4) (code : Nat) (op : Nat) (err : ReadErrors) (body : Env → State → State) (s : State) : State :=
  match opEnv s part code op with
  | none => s
  | some e => e.reading err [] (body e) s

/-! ### Attention over cache pages (R210, R211) -/

/-- ATTN_CLEARING: on a cache that spans devices it waits for the others' partials, and it waits for units that have work of their own
or whose granules fail their check. The units run what the division gives them, and the canopy reads the rest. -/
def runAttnClearing (part : BitVec 4) (op : Nat) (others : List AttnPartial) (err : ReadErrors) (s : State) : State :=
  match opEnv s part 0x21 op with
  | none => s
  | some e =>
    let js := e.unitJobs s others
    if !clearingReady others e s || js.any (fun j => unitBusy (findUnit s j.unit)) then s
    else
      let r := runJobs err js s
      if !r.1 then r.2
      else
        let gs := jobGranules s js
        let canopy := (clearingReads e s).filter fun a =>
          lineLayer (lineOf a) < 16 || !gs.contains (granuleOfLine (lineOf a))
        e.reading err canopy (opAttnClearing others e) r.2

/-! ### Running a collective -/

/-- A collective runs when its operator may start and every contribution it needs has come; until then it waits. -/
def runColl (part : BitVec 4) (code op : Nat) (err : ReadErrors) (views : Env → State → Option (List View))
    (body : List View → Env → State → State) (s : State) : State :=
  match opEnv s part code op with
  | none => s
  | some e =>
    match views e s with
    | none => s
    | some vs => e.reading err [] (fun s => e.groupDone (e.bits 0x10) (body vs e s)) s

/-- Own rank in the group of a collective. -/
def Env.rank (e : Env) (s : State) : Nat := match e.group s with | some g => g.rank s | none => 0

def runAllReduce (part : BitVec 4) (op : Nat) (others : List Contribution) (err : ReadErrors) (s : State) : State :=
  runColl part 0x80 op err (fun e s => e.allViews s others fun _ => (e.view s (e.f2 0x08)).dims)
    (fun vs e s => opReduce vs (fun _ => 0) e (e.contribute vs 0 s)) s

def runReduceScatter (part : BitVec 4) (op : Nat) (others : List Contribution) (err : ReadErrors) (s : State) : State :=
  runColl part 0x81 op err (fun e s => e.allViews s others fun _ => (e.view s (e.f2 0x08)).dims)
    (fun vs e s => e.joinMaxima others (opReduce vs (fun n => e.rank s * n) e (e.contribute vs (e.view s (e.f2 0x0A)).size s))) s

def runAllGather (part : BitVec 4) (op : Nat) (others : List Contribution) (err : ReadErrors) (s : State) : State :=
  runColl part 0x82 op err (fun e s => e.allViews s others fun _ => (e.view s (e.f2 0x08)).dims)
    (fun vs e s => opAllGather vs e (e.sendCopies (fun _ => List.range (prod (e.view s (e.f2 0x08)).unitDims)) s)) s

def runAllToAll (part : BitVec 4) (op : Nat) (others : List Contribution) (err : ReadErrors) (s : State) : State :=
  runColl part 0x83 op err (fun e s => e.allViews s others fun c => setAt (e.view s (e.f2 0x08)).dims 0 fun _ => c.rows)
    (fun vs e s => e.joinMaxima others (opAllToAll vs (e.rank s) e (e.sendCopies (e.rowUnits s) s))) s

/-- BROADCAST needs ROOT's contribution alone. -/
def runBroadcast (part : BitVec 4) (op : Nat) (others : List Contribution) (err : ReadErrors) (s : State) : State :=
  runColl part 0x84 op err (fun e s =>
      match e.group s with
      | none => none
      | some g =>
        let own := e.view s (e.f2 0x08)
        if e.f4 0x14 = g.rank s then some [own]
        else (others.find? fun c => c.rank = e.f4 0x14).map fun c => [contribView own.t own.dims c])
    (fun vs e s => opBroadcast (vs.headD (e.view s (e.f2 0x08))) e
      (if e.f4 0x14 = e.rank s then e.sendCopies (fun _ => List.range (prod (e.view s (e.f2 0x08)).unitDims)) s else s)) s

/-! ### KV_SCATTER (R125, R234) -/

/-- The lines of the pages that some rows were written to, and their way there (R11). -/
def kvTravel (e : Env) (h : U32) (layer : Nat) (acts : List KvAct) (body : State → State) (s : State) : State :=
  let s := body s
  match (findPart s e.part).bind fun p => (p.cache h).map fun c => (p, c) with
  | none => s
  | some (p, c) =>
    let x := c.spread s e.part
    let ls := (((acts.filter fun a => x.holds a.pos).flatMap fun a =>
      let r := c.layerRec a.seq layer
      if x.ordinal a.pos / c.pp < r.pages.length then
        (List.range (ceilDiv c.unitBytes 64)).map fun k => lineOf (cacheAddr p c r (x.ordinal a.pos) (64 * k))
      else []).eraseDups)
    shareTravel .operand true (e.workers s) ls s

/-- The row KV_SCATTER: on a spanning cache it waits until every member has answered, by the operand or by AGREE packets, and until the
combined maxima of every sequence it touches have come. -/
def runKvScatter (part : BitVec 4) (op : Nat) (peers : PeerAnswer) (err : ReadErrors) (s : State) : State :=
  match opEnv s part 0x22 op with
  | none => s
  | some e =>
    match e.cache s 0x10 with
    | none => s
    | some (p, c) =>
      let layer := e.f2 0x14
      if c.layout = 0 then e.reading err [] (kvTravel e c.handle layer (kvActs e s c layer).1 (kvLocal e p c layer)) s
      else
        match c.group.bind (findGroup s part) with
        | none => s
        | some g =>
          if g.epoch = 0 ∨ g.stopped then s
          else
            let a := kvActs e s c layer
            let own := kvLacks s p c (kvNeed s part c layer a.1)
            let s := sendAgree part g own s
            let me := g.rank s
            let heard : Nat → Option Bool := fun r =>
              (g.agrees.find? fun x => x.1 = g.cseq && x.2.1 = r).map fun x => x.2.2
            let others := (List.range g.members.length).filter (· ≠ me)
            if peers.all || others.all fun r => (heard r).isSome then
              let lacks := own || peers.lacks || others.any fun r => heard r = some true
              -- the maxima are combined before the operator completes (R234)
              let s := if lacks then s else giveMaxima e g c.handle layer a.1 a.2 s
              if lacks || others.isEmpty || ((a.1.map (·.seq)).eraseDups).all fun q => peers.maxima.any fun m => m.1 = q then
                e.reading err [] (kvTravel e c.handle layer a.1 (kvSpanning e g lacks c layer peers)) s
              else s
            else s

/-! ### Operators by code -/

/-- The operators that take nothing from outside the device. -/
def runLocal (part : BitVec 4) (code op : Nat) (err : ReadErrors) (s : State) : State :=
  match code with
  | 0x0001 => runOp part 0x0001 op err opScalePass s
  | 0x0002 => runOp part 0x0002 op err opQuantise s
  | 0x0010 => runOp part 0x0010 op err opGemm s
  | 0x0011 => runOp part 0x0011 op err opGemm s
  | 0x0012 => runOp part 0x0012 op err opGrouped s
  | 0x0020 => runOp part 0x0020 op err opAttnCanopy s
  | 0x0030 => runOp part 0x0030 op err opGather s
  | 0x0031 => runOp part 0x0031 op err opScatter s
  | 0x0032 => runOp part 0x0032 op err opEmbed s
  | 0x0040 => runOp part 0x0040 op err opTopk s
  | 0x0041 => runOp part 0x0041 op err opSort s
  | 0x0042 => runOp part 0x0042 op err opScan s
  | 0x0050 => runOp part 0x0050 op err (opConv true) s
  | 0x0051 => runOp part 0x0051 op err (opConv false) s
  | 0x0060 => runOp part 0x0060 op err opRmsnorm s
  | 0x0061 => runOp part 0x0061 op err opLayernorm s
  | 0x0062 => runOp part 0x0062 op err opSoftmax s
  | 0x0063 => runOp part 0x0063 op err opEltwise s
  | 0x0070 => runOp part 0x0070 op err opSample s
  | 0x0090 => runOp part 0x0090 op err opOptStep s
  | 0x0091 => runOp part 0x0091 op err opLoss s
  | 0x0120 => runOp part 0x0120 op err opAttnBwd s
  | 0x0150 => runOp part 0x0150 op err (opConvBwd true) s
  | 0x0151 => runOp part 0x0151 op err (opConvBwd false) s
  | 0x0160 => runOp part 0x0160 op err opRmsnormBwd s
  | 0x0161 => runOp part 0x0161 op err opLayernormBwd s
  | 0x0162 => runOp part 0x0162 op err opSoftmaxBwd s
  | _ => s

/-- Any operator, with nothing from other members but a cache's maxima: what a recomputation runs (R246). A collective of
more than one member then waits. -/
def runAny (part : BitVec 4) (maxima : List (Nat × Int × Int)) (code op : Nat) (s : State) : State :=
  match code with
  | 0x0021 => runAttnClearing part op [] .none s
  | 0x0022 => runKvScatter part op ⟨true, false, maxima⟩ .none s
  | 0x0080 => runAllReduce part op [] .none s
  | 0x0081 => runReduceScatter part op [] .none s
  | 0x0082 => runAllGather part op [] .none s
  | 0x0083 => runAllToAll part op [] .none s
  | 0x0084 => runBroadcast part op [] .none s
  | c => runLocal part c op .none s

end Sys2Proof.Machine
end

