-- ==== Sys2Proof/Machine/Recovery.lean ====
section
/-! DEFINITION. Repair reads and page regeneration (R216, R217, R246), and the recovery actions as they begin (R401). -/
namespace Sys2Proof.Machine

/-! ### Repair reads and regeneration (R216, R217, R246) -/

/-- The page that holds a granule of a unit. -/
def pageOfGranule (s : State) (u g : Nat) : Option (BitVec 4 × U32 × Nat × Nat × Nat) :=
  (pagesOn s u).find? fun a =>
    match (findPart s a.1).bind fun x => x.cache a.2.1 with
    | some c =>
      let e := nth (c.layerRec a.2.2.1 a.2.2.2.1).pages a.2.2.2.2 PageEntry.none
      decide (e.loc % 1024 ≤ g) && decide (g < e.loc % 1024 + c.page / 1024)
    | none => false

def recordSeal (u g row : Nat) (s : State) : State :=
  record 0x06 0x20 1 ((unitOwner s u).map (·.num)) (toLE 4 u ++ toLE 2 g ++ toLE 1 row) s

/-- A page that cannot be regenerated: its lines are set lost, no granule of it is sealed any more, and its entry shows LOST. -/
def losePage (part : BitVec 4) (h : U32) (seq layer i : Nat) (s : State) : State :=
  match (findPart s part).bind fun x => (x.cache h).map fun c => (x, c) with
  | none => s
  | some (x, c) =>
    let e := nth (c.layerRec seq layer).pages i PageEntry.none
    let ls := e.lines x c
    let s := ls.foldl (fun s l => updLayer (physOfLine s l) (fun r => { r with lostLines := r.lostLines + 1 }) (loseLine x.gen l s))
      (openPage c e.root e.loc s)
    record 0x05 0x22 3 (some part) (toLE 4 h.toNat ++ toLE 4 seq ++ toLE 8 ((c.spread s part).position (i * c.pp)) ++ toLE 8 0) s

/-- The third outcome of a repair read: the page is recomputed, or lost where there is no source. A second fault in a sequence
whose recomputation runs is an escalation: that recomputation is abandoned, and one that covers both faults takes its place. -/
def damagedPage (a : BitVec 4 × U32 × Nat × Nat × Nat) (s : State) : State :=
  match (findPart s a.1).bind fun x => (x.cache a.2.1).map fun c => (x, c) with
  | none => s
  | some (x, c) =>
    let bad := [(a.2.2.2.1, a.2.2.2.2)]
    if !hasSource c a.2.2.1 then losePage a.1 a.2.1 a.2.2.1 a.2.2.2.1 a.2.2.2.2 s
    else
      let first := (c.spread s a.1).position (a.2.2.2.2 * c.pp)
      match x.acting with
      | some ⟨.recompute h q f b, j, true⟩ =>
        if h = a.2.1 ∧ q = a.2.2.1 then
          let s := replayPart a.1 (closeJob (some a.1) (.recompute h q f b) 2 s)
          updPart a.1 (fun p => { p with acting := some ⟨.recompute h q (min f first) ((b ++ bad).eraseDups), j, false⟩ }) s
        else enqueueRegen a.1 a.2.1 a.2.2.1 first bad s
      | _ => enqueueRegen a.1 a.2.1 a.2.2.1 first bad s

/-- REPAIR_READ_DONE. -/
def repairRead (u : Nat) (r : RepairRead) (s : State) : State :=
  match (findUnit s u).repairing with
  | [] => s
  | (g, t) :: rest =>
    let a := mkAddr (unitLayer u) (unitColumn u + g / 64) (1024 * (g % 64))
    let mark := (findUnit s u).seals.find? fun x => x.1 = g
    let bad := r.uncorrectable
      || ((List.range 16).any fun i => lineState s (lineOf (a + 64 * i)) ≠ some .valid)
      || (match mark with
          | some x => x.2 ≠ crc32c ((List.range 1024).map fun n => memGet s.mem (a + n))
          | none => false)
    let phys := unitLayer u - 14
    let done := fun (s : State) => updUnit u (fun v => { v with repairing := rest }) s
    let again := fun (s : State) => startTask .none u (updUnit u (fun v => { v with
      waitingTasks := t.toList ++ v.waitingTasks }) (done s))
    if bad then
      let s := recordSeal u g 2 (done (if r.uncorrectable then updLayer phys (fun r => { r with uncorr := r.uncorr + 1 }) s else s))
      match pageOfGranule s u g with
      | some p => damagedPage p s
      | none => s
    else if 0 < r.corrected then
      again (Nat.repeat (fun s => addToBucket phys (updLayer phys (fun r => { r with corr := r.corr + 1 }) s)) r.corrected
        (recordSeal u g 0 s))
    else again (unitFault u (recordSeal u g 1 s))

/-- One run of the RECOMP plan for positions `a` to `a + n − 1`; none when it cannot run to its end. -/
def regenRun (part : BitVec 4) (h : U32) (seq a n : Nat) (maxima : List (Nat × Int × Int)) (s : State) : Option State :=
  match (findPart s part).bind fun x => (x.cache h).map fun c => (x, c) with
  | none => none
  | some (x, c) =>
    match c.recomp.bind x.plan, c.seqs.find? fun r => r.seq = seq with
    | some q, some rec =>
      let toks := tokenAddrs x rec a n
      if !(linesIn s (some .lost) toks).isEmpty then none
      else
        let arr := nth q.index c.rtokidx IndexArr.none
        let ids := readAt s toks
        let s := writeCells x.gen ((List.range arr.count).flatMap fun i =>
          cellsAt (arr.entryAddrs i) (if i < n then slice ids (4 * i) 4 else toLE 4 0xFFFFFFFF)) s
        let held : Held := { origin := ⟨0, 0, true⟩, plan := q.handle, cfgver := 0,
                             words := [BitVec.ofNat 64 seq, BitVec.ofNat 64 a, BitVec.ofNat 64 n] ++ List.replicate 8 0,
                             order := 0, fence := false }
        let ctx := c.ctx.toNat
        let s := updCtx part ctx (fun k => { k with step := some (RunningStep.start x ctx ⟨q.handle, [held], false, x.divMode, x.bsplit⟩) })
          (fillBindings x q [held] (freshGroves x s))
        let s := q.ops.zipIdx.foldl (fun s o => runAny part maxima (opCode o.1) o.2 s) s
        match stepOf s part ctx with
        | some r => if r.lost.isNone && !r.noResource && decide (q.ops.length ≤ r.done.length) then some (writeNotes part r s) else none
        | none => none
    | _, _ => none

/-- Runs of RECOMP, RCHUNK positions at a time, until every layer has its former length. -/
def regenAll (part : BitVec 4) (h : U32) (seq rchunk : Nat) (maxima : List (Nat × Int × Int)) :
    Nat → Nat → Nat → State → Option State
  | 0, _, _, s => some s
  | k + 1, a, len, s =>
    if len ≤ a then some s
    else
      let n := min rchunk (len - a)
      match regenRun part h seq a n maxima s with
      | some s => regenAll part h seq rchunk maxima k (a + n) len s
      | none => none

/-- PAGE_RECOMPUTE: the running recomputation regenerates the sequence from the damaged page on, and the abandoned step then
starts again from the regenerated state. A token line that is lost ends it: what it would have supplied is lost. -/
def pageRecompute (part : BitVec 4) (err : ReadErrors) (s : State) : State :=
  match findPart s part with
  | none => s
  | some x =>
    match x.acting with
    | some ⟨.recompute h seq a bad, _, true⟩ =>
      match x.cache h, (x.cache h).bind fun c => c.seqs.find? fun r => r.seq = seq with
      | some c, some rec =>
        -- firmware reads the token ids; a line reconstructed from parity hides its fault
        let toks := (((tokenAddrs x rec a (maxNat ((c.layers.filter fun r => r.seq = seq).map (·.length)) - a)).map lineOf).eraseDups).filter
          fun l => lineState s l = some .valid
        let s := (readLines 3 [] err toks s).2
        let ctx := c.ctx.toNat
        let old := c.layers.filter fun r => r.seq = seq
        let len := maxNat (old.map (·.length))
        let maxima := old.map fun r => (seq, r.kmax, r.vmax)
        let saved := (x.context ctx).step
        let back := fun (s : State) => updPart part (fun p => { p with current := x.current, acting := x.acting })
          (updCtx part ctx (fun k => { k with step := saved }) s)
        let tokensLost := !(linesIn s (some .lost) (tokenAddrs x rec a (len - a))).isEmpty
        if tokensLost then
          let s := bad.foldl (fun s x => losePage part h seq x.1 x.2 s) s
          replayPart part (closeJob (some part) (.recompute h seq a bad) 2 s)
        else
          let s1 := updCtx part ctx (fun k => { k with step := none })
            (updPart part (fun p => { p with acting := none, current := c.ctx }) s)
          let s2 := truncateSeq part c seq a s1
          match regenAll part h seq c.rchunk maxima (len - a) a len s2 with
          | none => s
          | some s3 =>
            let s4 := freshPart part (back s3)
            let s5 := match findPart s4 part, saved with
              | some p, some r => updCtx part ctx (fun k => { k with
                  step := some { RunningStep.start p ctx r.batch with replays := r.replays } }) s4
              | _, _ => s4
            endJob (some part) (.recompute h seq a bad)
              (record 0x05 0x22 1 (some part) (toLE 4 h.toNat ++ toLE 4 seq ++ toLE 8 a ++ toLE 8 (len - a)) s5)
      | _, _ => closeJob (some part) (.recompute h seq a bad) 1 s
    | _ => s

/-! ### Actions as they begin (R217, R401) -/

/-- The first effect of an action; replay and remapping are whole at once. -/
def beginAction (part : Option (BitVec 4)) (a : Action) (s : State) : State :=
  match part, a with
  | some n, .replay => endJob part a (replayPart n s)
  | some n, .remap t => endJob part a (remapTract n t s)
  | some _, .migrate u => leaveUnit u s
  | some n, .recompute h seq first _ =>
    match (findPart s n).bind fun x => (x.cache h).map fun c => (x, c) with
    | none => closeJob part a 1 s
    | some (x, c) =>
      let i := (c.spread s n).ordinal first / c.pp
      -- the running step is abandoned, its caches as they were, and every granule of the damaged page is open
      let s := freshPart n (restoreCaches n c.ctx.toNat s)
      let s := (c.layers.filter fun r => r.seq = seq).foldl (fun s r =>
        match r.pages[i]? with
        | some e => openPage c e.root e.loc s
        | none => s) s
      updCtx x.num c.ctx.toNat (fun k => { k with step := k.step.map RunningStep.again }) s
  | _, _ => s

/-- Begin every action that has been taken up and has not begun. -/
def beginJobs (s : State) : State :=
  let s := s.partitions.foldl (fun s p =>
    match (findPart s p.num).bind (·.acting) with
    | some ⟨a, c, false⟩ =>
      beginAction (some p.num) a (updPart p.num (fun p => { p with acting := some ⟨a, c, true⟩ }) s)
    | _ => s) s
  match s.reserve.running with
  | some ⟨a, c, false⟩ => beginAction none a { s with reserve := { s.reserve with running := some ⟨a, c, true⟩ } }
  | _ => s

/-- RECOVERY_ACTION_START. -/
def recoveryStart (part : Option (BitVec 4)) (s : State) : State := beginJobs (nextJob part s)

end Sys2Proof.Machine
end

