-- ==== Sys2Proof/Machine/Memory.lean ====
section
/-! DEFINITION. Root and clearing memory: regions (R179 to R182), windows (R307 to R309) and the host's reads and writes of
them, per-layer registers (R192 to R195), the repair and layer maps (R34, R35, R40), tags (R183), refresh (R191, R213) and the
channels' own events (R26, R29). -/
namespace Sys2Proof.Machine

/-! ### Regions -/

/-- Two regions of one partition share a segment. -/
def regionsMeet (a b : Region) : Bool :=
  decide (a.lfirst < b.lfirst + b.lcount) && decide (b.lfirst < a.lfirst + a.lcount) &&
    (if a.tracts = b.tracts then decide (a.cfirst < b.cfirst + b.ccount) && decide (b.cfirst < a.cfirst + a.ccount)
     else
      let l := max a.lfirst b.lfirst
      (List.range a.ccount).any fun i =>
        (b.offset (mkAddr l (partColumn (tractsOf a.tracts) (a.cfirst + i)) 0)).isSome)

/-- The region includes a segment of a withdrawn clearing layer. -/
def includesWithdrawn (s : State) (r : Region) : Bool :=
  (List.range r.lcount).any fun i => 16 ≤ r.lfirst + i && layerState s (r.lfirst + i - 14) = 3

/-- REGION_ALLOC: every line of the region is free, and with ZERO is then written as zero. -/
def cmdRegionAlloc (_q : QueuePair) (p : Packet) (s : State) : Res :=
  let kind := par p 0 1
  let host := decide (par p 1 1 / 2 % 2 = 1)
  let zero := decide (par p 1 1 % 2 = 1)
  let lf := par p 2 1
  let lc := par p 3 1
  let cf := par p 4 4
  let cc := par p 8 4
  match findPart s (pktPart p) with
  | none => fail stNotPermitted s
  | some x =>
    let t := 16384 * (tractsOf x.tracts).length
    let layers := if kind = 0 then decide (lf ≤ 15) && decide (lf + lc ≤ 16)
      else decide (16 ≤ lf) && decide (lf ≤ 19) && decide (lf + lc ≤ 20)
    let sixteen := kind ≠ 2 || (cf % 16 = 0 && cc % 16 = 0)
    if 2 < kind || (host && kind = 2) || !layers || lc = 0 || t ≤ cf || cc = 0 || t < cf + cc || !sixteen then
      fail stBadLength s
    else
      let h := freshHandle (s.partitions.flatMap fun p => p.regions.map (·.handle)) s
      let r : Region := { handle := h, kind := kind, host := host, zero := zero, lfirst := lf, lcount := lc, cfirst := cf,
                          ccount := cc, tracts := x.tracts, filling := if zero then some (pktOrigin p) else none }
      if 1024 ≤ x.regions.length || x.regions.any (regionsMeet r) || includesWithdrawn s r then fail stNoResource s
      else
        let s := freeLines r.holds { s with draw := s.draw + 1 }
        let s := updPart x.num (fun x => { x with regions := x.regions ++ [r] }) s
        if zero then (.accepted, s) else ok (toLE 4 h.toNat ++ zeros 4 ++ toLE 8 r.size) s

/-- Lines of a region in order of offset. -/
def Region.lines (r : Region) : List Nat := (List.range (r.size / 64)).map fun i => lineOf (r.addr (64 * i))

/-- ZERO_FILL_DONE: every line of the region is valid and zero. -/
def zeroFilled (part : BitVec 4) (h : U32) (s : State) : State :=
  match (findPart s part).bind fun x => (x.region h).map fun r => (x, r) with
  | none => s
  | some (x, r) =>
    match r.filling with
    | none => s
    | some o =>
      let s := r.lines.foldl (fun s l => writeLine x.gen s l ((List.range 64).map fun i => (64 * l + i, 0))) s
      finish o stOk 0 (toLE 4 h.toNat ++ zeros 4 ++ toLE 8 r.size)
        (updPart part (fun x => { x with regions := updWhere (fun r => r.handle = h) (fun r => { r with filling := none }) x.regions }) s)

/-- A loaded plan names an address in a region. -/
def planInRegion (q : Plan) (r : Region) : Bool :=
  let inR : Nat → Bool := fun a => (r.offset a).isSome
  ((List.range q.tensors.length).any fun i => (tensorRanges q i).any fun x => inR x.1)
    || (q.tensors.any fun t => t.batched && inR t.seqmax)
    || ((List.range q.index.length).any fun i => (indexRanges q i).any fun x => inR x.1)

/-- What R181 names as uses of a region. -/
def regionUsed (s : State) (x : Partition) (r : Region) : Bool :=
  let inR : Nat → Bool := fun a => (r.offset a).isSome
  x.plans.any (fun q => planInRegion q r) || regionTaken x r.handle
    || x.caches.any (fun c => c.seqs.any fun q => q.tokAddr ≠ 0 && inR q.tokAddr)
    || x.contexts.any (fun c => (match c.ring with | some g => inR g.base | none => false) || (c.saveSize ≠ 0 && inR c.save))
    || s.cxl.decoders.any fun d => d.bound = some (x.num, r.handle)

/-- REGION_FREE. -/
def cmdRegionFree (_q : QueuePair) (p : Packet) (s : State) : Res :=
  match (findPart s (pktPart p)).bind fun x => (x.region (par32 p 0)).map fun r => (x, r) with
  | none => fail stNotPermitted s
  | some (x, r) =>
    if regionUsed s x r then fail stNotPermitted s
    else
      let s := finishIf r.filling stOk (toLE 4 r.handle.toNat ++ zeros 4 ++ toLE 8 r.size) (freeLines r.holds s)
      ok [] (updPart x.num (fun x => { x with regions := x.regions.filter fun g => g.handle ≠ r.handle }) s)

/-- Lines of a region in the lost state: by their tags, and those of withdrawn layers and of columns without a path. -/
def lostLinesOf (s : State) (r : Region) : Nat :=
  let dead := if s.channels.any (fun c => c.mode = .failed) || (List.range 64).any (fun t => decide (15 ≤ plotsBad s t)) then
      ((List.range r.ccount).filter fun i => unreachableCore s (partColumn (tractsOf r.tracts) (r.cfirst + i))).length
    else 0
  ((s.tags.filter fun t => t.state = .lost && !deadLine s t.line && r.holds t.line).length)
    + ((List.range r.lcount).map fun i =>
        let l := r.lfirst + i
        (if 16 ≤ l ∧ layerState s (l - 14) = 3 then r.ccount else dead) * (segLen l / 64)).sum

/-- REGION_QUERY. -/
def cmdRegionQuery (_q : QueuePair) (p : Packet) (s : State) : Res :=
  match (findPart s (pktPart p)).bind fun x => x.region (par32 p 0) with
  | none => fail stNotPermitted s
  | some r =>
    ok (toLE 4 r.cfirst ++ toLE 4 r.ccount ++ toLE 1 r.lfirst ++ toLE 1 r.lcount ++ toLE 1 r.kind
      ++ toLE 1 ((if r.zero then 1 else 0) + (if r.host then 2 else 0)) ++ toLE 4 (min (2 ^ 32 - 1) (lostLinesOf s r))) s

/-! ### Windows (R307 to R309) -/

def updDecoder (n : Nat) (f : Decoder → Decoder) (s : State) : State :=
  { s with cxl := { s.cxl with decoders := setAt s.cxl.decoders n f } }

/-- HDM_BIND. -/
def cmdHdmBind (_q : QueuePair) (p : Packet) (s : State) : Res :=
  let n := par p 0 1
  let part := par p 1 1
  if 3 < n || 15 < part then fail stBadLength s
  else
    match findPart s (BitVec.ofNat 4 part) with
    | none => fail stNotPermitted s
    | some x =>
      if x.scrubbing then fail stScrubbing s
      else if x.confidential then fail stConfidential s
      else
        match x.region (par32 p 4) with
        | none => fail stNotPermitted s
        | some r =>
          if !r.host || (nth s.cxl.decoders n Decoder.fresh).bound.isSome then fail stNotPermitted s
          else ok (toLE 8 r.size ++ toLE 8 (2 ^ 28 * ceilDiv r.size (2 ^ 28)))
            (updDecoder n (fun d => { d with bound := some (BitVec.ofNat 4 part, r.handle) }) s)

/-- HDM_UNBIND: every access that arrived before has completed in this model. -/
def cmdHdmUnbind (_q : QueuePair) (p : Packet) (s : State) : Res :=
  let n := par p 0 1
  if 3 < n then fail stBadLength s else ok [] (updDecoder n (fun d => { d with bound := none }) s)

/-- HDM_STATUS. -/
def cmdHdmStatus (q : QueuePair) (p : Packet) (s : State) : Res :=
  ok (s.cxl.decoders.flatMap fun d =>
    match d.bound with
    | some (x, h) => toLE 4 (if q.operator || x = pktPart p then h.toNat else 0xFFFFFFFF)
    | none => toLE 4 0xFFFFFFFF) s

/-- HDM_DECODER_COMMIT. -/
def decoderCommit (n base : Nat) (size : Nat) (s : State) : State :=
  updDecoder n (fun d => { d with committed := true, base := BitVec.ofNat 64 base, size := size }) s

/-- The decoder whose committed window holds a host address, and the offset in it. -/
def decoderAt (s : State) (hpa : Nat) : Option (Nat × Nat) :=
  ((s.cxl.decoders.zipIdx.find? fun d => d.1.committed && decide (d.1.base.toNat ≤ hpa) && decide (hpa < d.1.base.toNat + d.1.size))).map
    fun d => (d.2, hpa - d.1.base.toNat)

/-- Where an access goes: addresses in a region, nothing there, or a partition being scrubbed. -/
inductive Window where
  | at (addrs : List Nat)
  | unbound
  | scrubbing

def windowAt (s : State) (n x len : Nat) : Window :=
  match (nth s.cxl.decoders n Decoder.fresh).bound with
  | none => .unbound
  | some (part, h) =>
    match (findPart s part).bind fun p => (p.region h).map fun r => (p, r) with
    | none => .unbound
    | some (p, r) =>
      if p.scrubbing then .scrubbing
      else if x + len ≤ r.size then .at ((List.range len).map fun i => r.addr (x + i))
      else .unbound

/-- One entry for each decoder and second (R307). -/
def noteUnbound (n : Nat) (s : State) : State :=
  if (nth s.cxl.decoders n Decoder.fresh).noted then s
  else recordHost 4 n (updDecoder n (fun d => { d with noted := true }) s)

/-- The columns of an access; each line of it takes a flit of its own. -/
def coresOf (addrs : List Nat) : List Nat := ((addrs.map lineOf).eraseDups).map lineCore

def cxlOut (bytes : List Byte) (poison : Bool) (s : State) : State := { s with out := s.out ++ [.cxlData bytes poison] }

/-- CXL_MEM_READ: a request of one flit to the column, and its line back (R252, R257). -/
def cxlRead (hpa len : Nat) (e : ReadErrors) (s : State) : State :=
  match decoderAt s hpa with
  | none => s
  | some (n, x) =>
    let poison := cxlOut (zeros len) true
    if s.start.oos then poison s
    else
      match windowAt s n x len with
      | .unbound => noteUnbound n (poison s)
      | .scrubbing => poison s
      | .at addrs =>
        let ls := (addrs.map lineOf).eraseDups
        let ls := ls.filter fun l => lineState s l ≠ none
        let r := readLines 4 [] e ls ((coresOf addrs).foldl (fun s c => cxlTravel c 1 2 s) s)
        let t := asReadLines e ls r.2
        if r.1 then cxlOut (readAt t addrs) false { r.2 with draw := t.draw } else poison r.2

/-- CXL_MEM_WRITE: a write narrower than a line merges into the old data, which is read first (R189). The line goes to the column
with its request, and the answer is one flit. -/
def cxlWrite (hpa : Nat) (data : List Byte) (e : ReadErrors) (s : State) : State :=
  match decoderAt s hpa with
  | none => s
  | some (n, x) =>
    if s.start.oos then s
    else
      match windowAt s n x data.length with
      | .unbound => noteUnbound n s
      | .scrubbing => s
      | .at addrs =>
        let ls := (addrs.map lineOf).eraseDups
        let ls := ls.filter fun l => lineState s l = some .valid
        let s := (coresOf addrs).foldl (fun s c => cxlTravel c 2 1 s) s
        writeAt addrs data (if data.length < 64 then ls.foldl (fun s l => mergeLine e l s) s else s)

/-! ### Registers of a layer (R193, R194) -/

/-- Lines of a pass in a layer: data and tag lines of every channel. -/
def passLines (phys : Nat) : Nat := if 6 ≤ phys then 1548 else 1032

/-- SCRUB_STAT.LINE: the least line a channel has not scrubbed; a channel that has not begun stands at 0. -/
def scrubLine (r : LayerRegs) : Nat :=
  if r.progress.length < 1048576 then 0 else (r.progress.map (·.2)).foldl min 2047

/-- Tracts at the short refresh interval. -/
def hotTracts (s : State) : Nat := (s.power.tracts.filter (·.hot)).length

/-- Registers by their offsets. -/
def layerReg (s : State) (l reg : Nat) : Option Nat :=
  let r := findLayer s l
  match reg with
  | 0x00 => some r.scrubCtl.toNat
  | 0x04 => some (scrubLine r + 2 ^ 16 * r.passes.toNat)
  | 0x10 => some r.cebktCfg.toNat
  | 0x14 => some (r.level.toNat + 2 ^ 24 * r.ovf.toNat)
  | 0x20 => some r.corr.toNat
  | 0x24 => some r.uncorr.toNat
  | 0x28 => some r.recon.toNat
  | 0x2C => some r.lostLines.toNat
  | 0x30 => some ((if 0 < hotTracts s then 1 else 0) + 2 ^ 8 * hotTracts s)
  | _ => none

/-- MEMREG_READ. -/
def cmdMemregRead (_q : QueuePair) (p : Packet) (s : State) : Res :=
  let l := par p 0 1
  if l < 2 || 22 < l then fail stBadLength s
  else
    match layerReg s l (par p 2 2) with
    | some v => ok (toLE 4 v) s
    | none => fail stBadLength s

/-- What a write leaves in a register; read-only fields stay. -/
def writeLayerReg (r : LayerRegs) (reg : Nat) (v : U32) : LayerRegs :=
  match reg with
  | 0x00 => { r with scrubCtl := v &&& 0xFFFF0003 }
  | 0x10 => { r with cebktCfg := v }
  | _ => r

/-- MEMREG_WRITE. -/
def cmdMemregWrite (_q : QueuePair) (p : Packet) (s : State) : Res :=
  let l := par p 0 1
  if l < 2 || 22 < l || (layerReg s l (par p 2 2)).isNone then fail stBadLength s
  else ok [] (updLayer l (fun r => writeLayerReg r (par p 2 2) (par32 p 4)) s)

/-! ### Scrubbing (R192, R216) -/

/-- SCRUB_PASS_START. -/
def scrubStart (l : Nat) (s : State) : State :=
  if (findLayer s l).scrubCtl.getLsbD 0 && !s.scrubbing.contains l then
    updLayer l (fun r => { r with progress := [] }) { s with scrubbing := s.scrubbing ++ [l] }
  else s

/-- The next line of a channel in the present pass (R192: ascending LINE). -/
def scrubNext (r : LayerRegs) (core : Nat) : Nat := ((r.progress.find? fun x => x.1 = core).map (·.2)).getD 0

/-- A channel has scrubbed a line; the pass ends when every channel has done its last. -/
def scrubStep (l core line : Nat) (s : State) : State :=
  let s := updLayer l (fun r => { r with progress := upsert (fun x => x.1 = core) (fun _ => (core, line + 1)) (core, 0) r.progress }) s
  let r := findLayer s l
  if r.progress.length = 1048576 ∧ r.progress.all (fun x => decide (passLines l ≤ x.2)) then
    updLayer l (fun r => { r with passes := r.passes + 1 }) { s with scrubbing := s.scrubbing.filter (· ≠ l) }
  else s

/-- What lies at a line of a channel in a physical layer: a data line by its device line number, a parity line, a tag line with the
logical layer whose tags it holds (none: the parity of tag lines), or nothing, in a layer mapped out. -/
inductive StoredLine where
  | data (l : Nat)
  | parity
  | tags (layer : Option Nat)
  | nothing

def storedAt (s : State) (phys core line : Nat) : StoredLine :=
  if phys < 6 then
    if line < 1024 then .data ((phys + 14) * 2 ^ 31 + core * 2 ^ 11 + line) else .tags (some (phys + 14))
  else
    match (List.range 16).find? fun l => physLayer s l core line = phys with
    | some l => if line < 1536 then .data (l * 2 ^ 31 + core * 2 ^ 11 + line) else .tags (some l)
    | none =>
      if !stripeParity s core line then .nothing
      else if line < 1536 then .parity else .tags none

/-- The XOR of the data lines of a stripe: what its parity line is to hold (R187). -/
def stripeXor (s : State) (core line : Nat) : List Byte :=
  (List.range 64).map fun i =>
    (List.range 16).foldl (fun b y => b ^^^ memGet s.mem (64 * (y * 2 ^ 31 + core * 2 ^ 11 + line) + i)) 0

/-- The parity line of a stripe is rewritten from the data (R192). -/
def rewriteParity (core line : Nat) (s : State) : State :=
  { s with parity := memSetAll s.parity (((List.range 64).map fun i => 64 * (core * 2 ^ 11 + line) + i).zip (stripeXor s core line)) }

/-- A correction of a layer that no lane is charged with: the parity line of R192. -/
def countMismatch (phys : Nat) (s : State) : State := addToBucket phys (updLayer phys (fun r => { r with corr := r.corr + 1 }) s)

/-- The lines whose tags a tag line holds. -/
def taggedLines (layer core tagLine : Nat) : List Nat :=
  (List.range 128).map fun i => layer * 2 ^ 31 + core * 2 ^ 11 + 128 * tagLine + i

/-- The changed bits of tag `i` of a tag line whose word differs by `wrong`: bits [4i + 3 : 4i] of its data (R183). -/
def wrongTag (wrong : List Byte) (i : Nat) : Nat := (nth wrong (8 + i / 2) 0).toNat / 16 ^ (i % 2) % 16

/-- The tag's four bits (R183): GEN, and STATE in bits 2 and 1. -/
def tagBits (t : Option LineTag) : Nat :=
  match t with
  | none => 2
  | some t => (if t.gen then 1 else 0) + (match t.state with | .valid => 0 | .lost => 4)

/-- A tag of which a miscorrection of its tag line changed bits (R186, R183). A line that becomes valid out of nothing, or under
the other key, holds bytes that the spec cannot give. STATE 3 is reserved and has no meaning: the tag stays. -/
def retag (change : Nat) (l : Nat) (s : State) : State :=
  let old := tagBits (tagOf s.tags l)
  let new := old ^^^ change
  let put := fun (st : LineState) => tagPut s.tags ⟨l, new % 2 = 1, st⟩
  if change = 0 then s
  else if new / 2 % 4 = 1 then { eraseLines (fun x => x = l) s with tags := s.tags.filter fun t => t.line ≠ l }
  else if new / 2 % 4 = 2 then { s with tags := put .lost }
  else if new / 2 % 4 = 3 then s
  else if old / 2 = 1 || old % 2 ≠ new % 2 then
    { putCells ((List.range 64).map fun i => (64 * l + i, Config.freeByte s.draw i)) s with tags := put .valid, draw := s.draw + 1 }
  else { s with tags := put .valid }

/-- The scrubber finds a sealed granule whose CRC differs: the unit's task is discarded and a repair read made (R216). -/
def sealMismatch (phys core line : Nat) (s : State) : State :=
  let u := 65536 * (phys - 2) + core / 16
  let g := 64 * (core % 16) + line / 16
  let v := findUnit s u
  if !(v.seals.any fun x => x.1 = g) || (v.repairing.any fun x => x.1 = g) then s
  else countUnit u (fun v => { v with mismatches := v.mismatches + 1 })
    (updUnit u (fun v => { v with repairing := v.repairing ++ [(g, v.work.map (·.task))], work := none }) s)

/-- A data line is scrubbed: a line without content counts nothing (R184); one that the scrubber mistakes is written back wrong. -/
def scrubData (e : ReadErrors) (l : Nat) (s : State) : State :=
  if lineState s l = some .valid then asRead e l (readLine 5 [] e l s).2 else s

/-- A parity line is scrubbed (R192, R196): with parity checking enabled it is compared with the XOR of the data, and it is rewritten
from the data where it differs or cannot be corrected; where the stripe has a second fault, the line that waits to be absorbed is
lost. -/
def scrubParity (phys core line : Nat) (errs : List (Nat × Byte)) (differs rebuilds : Bool) (s : State) : State :=
  match decodePattern errs with
  | .clean =>
    if (findLayer s phys).scrubCtl.getLsbD 1 && (differs || parityLine s core line ≠ stripeXor s core line) then
      rewriteParity core line (countMismatch phys s)
    else s
  | .corrected => countCorrected phys core errs s
  | _ =>
    match misread errs with
    | some (c, _) => if c = [] then s else countCorrected phys core c s
    | none =>
      let s := updLayer phys (fun x => { x with uncorr := x.uncorr + 1 }) s
      match absorbedLine s (core * 2 ^ 11 + line) with
      | some m => if stateOf s.tags m = some .valid then loseRead 5 [] m s else s
      | none => if rebuilds then rewriteParity core line (updLayer phys (fun x => { x with recon := x.recon + 1 }) s) else s

/-- A tag line of a logical layer, or the parity of tag lines (none), is scrubbed: lines whose tags cannot be read are lost. -/
def scrubTags (phys core line : Nat) (layer : Option Nat) (errs : List (Nat × Byte)) (rebuilds : Bool) (s : State) : State :=
  let tagged := taggedLines (layer.getD 0) core (line - (if phys < 6 then 1024 else 1536))
  match decodePattern errs with
  | .clean => s
  | .corrected => countCorrected phys core errs s
  | _ =>
    match misread errs with
    | some (c, wrong) =>
      let s := if c = [] then s else countCorrected phys core c s
      if layer.isSome then tagged.zipIdx.foldl (fun s x => retag (wrongTag wrong x.2) x.1 s) s else s
    | none =>
      let s := updLayer phys (fun x => { x with uncorr := x.uncorr + 1 }) s
      if rebuilds && decide (6 ≤ phys) && stripeParity s core line then updLayer phys (fun x => { x with recon := x.recon + 1 }) s
      else if layer.isSome then tagged.foldl (fun s x => loseRead 5 [] x s) s
      else s

/-- SCRUB_READ: the next line of a channel in a pass of its layer; no other line is read (R192). -/
def scrubbed (r : ScrubRead) (s : State) : State :=
  let phys := r.layer.toNat
  let core := r.core.toNat
  let line := r.line.toNat
  if !s.scrubbing.contains phys || !(findLayer s phys).scrubCtl.getLsbD 0 || scrubNext (findLayer s phys) core ≠ line
      || passLines phys ≤ line then s
  else
    let s := countBursts core 1 (scrubStep phys core line s)
    let errs := errorsAt r.symbols r.again
    match storedAt s phys core line with
    | .data l =>
      let s := scrubData ⟨r.symbols.map fun x => (l, x.1, x.2), if r.reconstructs then [] else [line + core * 2 ^ 11 + 20 * 2 ^ 31],
        r.again.map fun x => (l, x.1, x.2)⟩ l s
      if phys < 6 && r.sealDiffers then sealMismatch phys core line s else s
    | .parity => scrubParity phys core line errs r.parityDiffers r.reconstructs s
    | .tags layer => scrubTags phys core line layer errs r.reconstructs s
    | .nothing => s

/-! ### Maps (R34, R35, R40) -/

/-- REPAIR_MAP_READ. -/
def cmdRepairMap (q : QueuePair) (p : Packet) (s : State) : Res :=
  let first := par p 0 4
  let count := par p 4 4
  let es := (s.repairs.drop first).take count
  let res := toLE 4 es.length ++ toLE 4 s.repairs.length
  if count = 0 || 131071 < count then fail stBadLength s
  else if s.repairs.length ≤ first then ok res s
  else copyOut q p 8 (par p 8 8) (par p 16 4) (8 * count) (es.flatMap fun e => toLE 8 e.toNat) res s

/-- LAYER_MAP_READ. -/
def cmdLayerMap (_q : QueuePair) (p : Packet) (s : State) : Res :=
  let sel := par p 0 4
  if 1 < sel then fail stBadLength s
  else
    let ls := if sel = 0 then s.layers else s.layersCold
    let map := toLE 12 ((ls.zipIdx.map fun x => x.1.toNat * 2 ^ (4 * x.2)).sum)
    let columns := if sel = 0 then rehomedNow s else s.rehomedCold
    ok (map ++ toLE 2 columns.1 ++ toLE 2 columns.2) s

/-! ### The channels' own events -/

/-- TAG_WRITEBACK. -/
def tagWritten (core layer line : Nat) (s : State) : State :=
  { s with dirtyTags := s.dirtyTags.erase (core, layer, line) }

/-- REFRESH_DUE: issued at once, or owed by a segment of a unit in processor mode, never more than 4 (R191, R213). -/
def refreshDue (core layer : Nat) (s : State) : State :=
  let issue := { s with out := s.out ++ [.channel core (channelWord 3 layer 0)] }
  if 6 ≤ layer then issue
  else
    let u := 65536 * (layer - 2) + core / 16
    let v := findUnit s u
    if !v.processor then issue
    else
      let n := min 4 (nth v.owed (core % 16) 0 + 1)
      updUnit u (fun v => { v with
        owed := setAt v.owed (core % 16) fun _ => n
        owedMax := if v.owedMax.toNat < n then BitVec.ofNat 16 n else v.owedMax }) s

end Sys2Proof.Machine
end

