-- ==== Sys2Proof/Machine/Temps.lean ====
section
/-! DEFINITION. Believed temperatures (R363 to R366), in units of 0.0625 K. -/
namespace Sys2Proof.Machine

/-- A sensor before its first sample. -/
def Sensor.fresh (die idx : Nat) : Sensor :=
  { die := die, idx := idx, hist := [], suspect := false, implausible := [], differing := 0, leak := none, source := 0,
    estimate := 0, oneHigh := false, agreeing := 0, tripping := false }

def findSensor (s : State) (die idx : Nat) : Sensor :=
  (s.thermal.sensors.find? fun x => x.die = die && x.idx = idx).getD (Sensor.fresh die idx)

def updSensor (die idx : Nat) (f : Sensor → Sensor) (s : State) : State :=
  { s with thermal := { s.thermal with
      sensors := upsert (fun x => x.die = die && x.idx = idx) f (Sensor.fresh die idx) s.thermal.sensors } }

/-- The latest reading; 0 before the first. -/
def Sensor.reading (x : Sensor) : Int := x.hist.headD 0

/-- Change over the last 100 µs sample. -/
def Sensor.change (x : Sensor) : Int :=
  match x.hist with
  | a :: b :: _ => a - b
  | _ => 0

/-- Rise over the preceding 1 ms: ten samples. -/
def Sensor.slew (x : Sensor) : Int :=
  match x.hist, x.hist[10]? with
  | a :: _, some b => a - b
  | _, _ => 0

/-- More than 20 K/ms, while the partner changes by less than 2 K/ms (R365). -/
def implausible (x y : Sensor) : Bool := decide (32 < x.change.natAbs) && decide (10 * y.change.natAbs < 32)

/-- The higher plausible reading of a plot's two sensors. -/
def plotPlain (s : State) (plot : Nat) : Int :=
  let x := findSensor s 0 (2 * plot)
  let y := findSensor s 0 (2 * plot + 1)
  if implausible x y || implausible y x then min x.reading y.reading else max x.reading y.reading

/-- Plots that share an edge with a plot, in the 32 × 32 arrangement of the canopy (R22, R336). -/
def plotNeighbours (plot : Nat) : List Nat :=
  let t := plot / 16
  let x := 4 * (t % 8) + plot % 4
  let y := 4 * (t / 8) + plot % 16 / 4
  let at' := fun (x y : Nat) => 16 * (8 * (y / 4) + x / 4) + 4 * (y % 4) + x % 4
  (if x = 0 then [] else [at' (x - 1) y]) ++ (if x = 31 then [] else [at' (x + 1) y])
    ++ (if y = 0 then [] else [at' x (y - 1)]) ++ (if y = 31 then [] else [at' x (y + 1)])

/-- Whether a plot's pair is suspect. -/
def plotSuspect (s : State) (plot : Nat) : Bool := (findSensor s 0 (2 * plot)).suspect || (findSensor s 0 (2 * plot + 1)).suspect

/-- The believed temperature of a plot: for a suspect one never below the mean of its edge neighbours (R365). -/
def plotTemp (s : State) (plot : Nat) : Int :=
  let v := plotPlain s plot
  if plotSuspect s plot then
    let ns := (plotNeighbours plot).map (plotPlain s)
    max v (ns.foldl (· + ·) 0 / ns.length)
  else v

/-- The believed temperature of a tract area of L1 to L23 (R365, R366). -/
def areaTemp (s : State) (die area : Nat) : Int :=
  let x := findSensor s die area
  if x.source = 0 then x.reading else x.estimate

/-- The largest of a list of temperatures; 0 of none. -/
def maxTemp : List Int → Int
  | [] => 0
  | x :: xs => xs.foldl max x

/-- Plots and areas that have been sampled; the others stand at 0, as before their first sample. -/
def listedPlots (s : State) : List Nat := ((s.thermal.sensors.filter fun x => x.die = 0).map fun x => x.idx / 2).eraseDups
def listedAreas (s : State) (die : Nat) : List Nat := (s.thermal.sensors.filter fun x => x.die = die).map (·.idx)

/-- The highest believed plot temperature of a tract. -/
def tractTemp (s : State) (t : Nat) : Int :=
  maxTemp (((listedPlots s).filter fun p => p / 16 = t).map (plotTemp s))

/-- The highest believed temperature of a die. -/
def dieTemp (s : State) (die : Nat) : Int :=
  if die = 0 then maxTemp ((listedPlots s).map (plotTemp s)) else maxTemp ((listedAreas s die).map (areaTemp s die))

/-- The source of a die's highest believed temperature (R374). -/
def dieSource (s : State) (die : Nat) : Nat :=
  if die = 0 then 0
  else
    match (listedAreas s die).find? fun a => areaTemp s die a = dieTemp s die with
    | some a => (findSensor s die a).source
    | none => 0

/-- A die of DRAM (L2 to L22). -/
def isDram (die : Nat) : Bool := decide (2 ≤ die) && decide (die ≤ 22)

/-- Limits of R364 in 0.0625 K. -/
def elasticLimit (die : Nat) : Int := if isDram die then 1472 else 1600
def clampLimit (die : Nat) : Int := if isDram die then 1520 else 1632
def tripLimit (die : Nat) : Int := if isDram die then 1600 else 1680

/-- A temperature in units of 0.01 °C. -/
def centi (t : Int) : Int := t * 25 / 4

/-- T_in in 0.01 °C: 40 °C unless a COOLANT_SET is in force (R368). -/
def inletUsed (s : State) : Int := if s.thermal.reported then s.thermal.inlet else 4000

/-- Effective cap of R369 from the present CAP, P_th and k; 20 % of CAP while an abrupt loss is clamped (R371). -/
def effectiveCap (s : State) : Nat :=
  if s.thermal.abrupt then s.power.cap / 5 else min s.power.cap s.thermal.pTh * s.thermal.k / 1000

/-- Bring the effective cap up to date. -/
def settleCap (s : State) : State := { s with thermal := { s.thermal with effCap := effectiveCap s } }

/-- STATE of R374. -/
def thermalState (s : State) : Nat :=
  if s.thermal.abrupt then 4 else if s.thermal.clamp then 3 else if s.thermal.warning then 2
  else if s.thermal.effCap < s.power.cap then 1 else 0

end Sys2Proof.Machine
end

