-- ==== Sys2Proof/Machine/Power.lean ====
section
/-! DEFINITION. Power (R334 to R361): regulators, clocks and droop, the estimate of each 4 µs period, allowances and the
sharing of the cap, waking and parking, committed partitions and their admission, energy attribution, and the commands. -/
namespace Sys2Proof.Machine

/-! ### Stopping (R335, R372) -/

/-- Every clock stops, tag lines are written back and DRAM goes into self-refresh: only a cold start follows. -/
def haltAll (s : State) : State :=
  let s := enterSelfRefresh { s with dirtyTags := [] }
  { s with
    start := { s.start with halted := true }
    cxl := { s.cxl with up := false }
    pins := { s.pins with railOff := true } }

/-- VIN outside 1.70 to 1.90 V for 10 µs; without VIN nothing is driven and nothing runs. -/
def vinOut (mv : Nat) (s : State) : State :=
  if !s.pins.vin then s
  else if mv < 200 then
    { s with
      start := { s.start with halted := true, selfRefresh := false }
      cxl := { s.cxl with up := false, trained := false }
      pins := { s.pins with vin := false, alert := false, thermtrip := false, railOff := false } }
  else if mv < 1700 ∨ 1900 < mv then haltAll s
  else s

/-! ### Clocks (R340 to R342, R354) -/

/-- V(n) in half-microvolts. -/
def voltsOf (n : Nat) : Nat := 1200000 + (n - 32) * 9375

def isEast (t : Nat) : Bool := decide (4 ≤ t % 8)
def nOf (s : State) (east : Bool) : Nat := if east then s.power.nEast else s.power.nWest
def targetOf (s : State) (east : Bool) : Nat := if east then s.power.targetEast else s.power.targetWest

/-- n_eff of a tract (R342). -/
def nEff (s : State) (t : Nat) : Nat := nOf s (isEast t) * (findTract s t).m / 32

/-- n of a committed setting (R354). -/
def freqN (f : Nat) : Nat := match f with | 1 => 55 | 2 => 69 | 3 => 82 | _ => 0

/-- The committed partition that owns a tract, if any. -/
def committedOf (s : State) (t : Nat) : Option Partition :=
  match ownerOf s t with
  | some p => if p.freq = 0 then none else some p
  | none => none

/-- The n that a committed partition holds a half at. -/
def fixedN (s : State) (east : Bool) : Option Nat :=
  ((List.range 64).findSome? fun t => if isEast t = east then committedOf s t else none).map fun p => freqN p.freq

/-- A plot of the half is stretched. -/
def halfDroops (s : State) (east : Bool) : Bool := s.power.stretched.any fun plot => isEast (plot / 16) = east

/-- The set point of a plot at `n`, whose output at 12 A is V(n) (R336). -/
def setOf (n : Nat) : Nat := voltsOf n + 24000

/-- The set points of a half after 50 ns at 20 mV/µs: they rise towards a higher target at once, and fall once n has reached its
target (R341). -/
def rampSet (n target set : Nat) : Nat :=
  if set < setOf target then min (set + 2000) (setOf target)
  else if n = target then max (set - 2000) (setOf target)
  else set

/-- The next n of a half: it falls at once; it rises once every plot reads at least V of the target, at 12 A (DEDUCED, assumption
112); it holds while a plot of the half droops (R341, R344). -/
def nextN (n target set : Nat) (droops : Bool) : Nat :=
  if droops then n else if target < n then n - 1 else if n < target ∧ setOf target ≤ set then n + 1 else n

/-- FREQUENCY_STEP: 50 ns of a change of n and of the set points, which go on during a droop (R341, R344). -/
def stepFreq (east : Bool) (s : State) : State :=
  let n := nOf s east
  let t := targetOf s east
  let d := halfDroops s east
  let w := s.power
  { s with power :=
      if east then { w with nEast := nextN n t w.setEast d, setEast := rampSet n t w.setEast }
      else { w with nWest := nextN n t w.setWest d, setWest := rampSet n t w.setWest } }

/-! ### Droop (R343) -/

/-- Groves of a plot: 2 × 2 positions of its tract (R336). -/
def plotGroves (plot : Nat) : List Nat :=
  let y := 2 * (plot % 16 / 4)
  let x := 2 * (plot % 4)
  [8 * y + x, 8 * y + x + 1, 8 * (y + 1) + x, 8 * (y + 1) + x + 1].map fun q => groveAt (plot / 16) q

/-- A detector fires: the plot's cycles are stretched. -/
def droopStart (plot : Nat) (s : State) : State :=
  if s.power.stretched.contains plot then s
  else { s with power := { s.power with stretched := s.power.stretched ++ [plot] } }

/-- The stretch ends; its cycles have counted in STRETCHED (how many is a matter of time: free values), and a context switch
that it deferred goes on (R171). -/
def droopEnd (plot : Nat) (s : State) : State :=
  if !s.power.stretched.contains plot then s
  else
    let d := s.draw
    let s := { s with draw := s.draw + 1, power := { s.power with stretched := s.power.stretched.erase plot } }
    let s := (plotGroves plot).foldl (fun s g =>
      updLattice g (fun c => { c with stretched := c.stretched + BitVec.ofNat 64 (Config.freeNat d g) }) s) s
    match ownerOf s (plot / 16) with
    | some p => considerSwitch p.num s
    | none => s

/-! ### Regulators (R336 to R339) -/

/-- A tract's ceiling in tenths of a watt (R339); its full-rate allowance while at most 2 plot regulators are bad. -/
def ceilingOf (s : State) (t : Nat) : Nat :=
  let f := plotsBad s t
  if f ≤ 2 then Config.fullRate t else (18 - f) * Config.fullRate t / 16

/-- The tract a regulator belongs to; floor regulators serve two. -/
def regTract (die index : Nat) : Option Nat := if die = 0 then some (index / 16) else if die = 23 then none else some index

/-- The admitted charge of a tract in tenths of a watt; 0 if it is elastic (R355). -/
def chargeOf (s : State) (t : Nat) : Nat :=
  match committedOf s t with
  | some p => Config.charge t (freqN p.freq)
  | none => 0

/-- A POWER_NOTE record: 0 correction suspect, 1 committed tract slowed. -/
def recordPowerNote (kind : Nat) (ratio : F32) (part : Option (BitVec 4)) (s : State) : State :=
  record 0x08 0x32 0 part (toLE 1 kind ++ toLE 4 ratio.toNat) s

/-- A REGULATOR record: 0 failed, 1 suspect. A floor regulator serves two tracts, and the ceiling it reports is not stated. -/
def recordRegulator (die index kind : Nat) (s : State) : State :=
  let t := regTract die index
  let c := match t with | some t => ceilingOf s t | none => Config.freeNat s.draw index
  record 0x08 0x30 1 ((t.bind (ownerOf s)).map (·.num)) (toLE 1 die ++ toLE 2 index ++ toLE 1 kind ++ toLE 4 c) s

/-- Failed regulators of a die. -/
def failedOn (s : State) (die : Nat) : Nat := (s.power.regulators.filter fun r => r.die = die && r.failed).length

/-- What follows from the number of regulators that have failed (R339). -/
def afterRegulator (die index : Nat) (s : State) : State :=
  if die = 0 then
    let t := index / 16
    if 7 ≤ plotsBad s t then tractOffline t s
    else if 3 ≤ plotsBad s t ∧ ceilingOf s t < chargeOf s t then
      recordPowerNote 1 (rn (Num.ofRatio (ceilingOf s t) (chargeOf s t))) ((ownerOf s t).map (·.num)) s
    else s
  else if die = 1 ∨ die = 23 then (if 5 ≤ failedOn s die then outOfService 2 s else s)
  else if 9 ≤ failedOn s die then wholeLayerFault die s
  else s

/-- Set what is known of a regulator. -/
def updRegulator (die index : Nat) (f : Regulator → Regulator) (s : State) : State :=
  { s with power := { s.power with
      regulators := upsert (fun r => r.die = die && r.index = index) f ⟨die, index, false, false, 0⟩ s.power.regulators } }

def findRegulator (s : State) (die index : Nat) : Regulator :=
  (s.power.regulators.find? fun r => r.die = die && r.index = index).getD ⟨die, index, false, false, 0⟩

/-- A tract's routers that have lost or kept their power: the distance table is reissued when routes change (R261, R267). -/
def settleRoutes (t : Nat) (old s : State) : State :=
  if decide (15 ≤ plotsBad old t) = decide (15 ≤ plotsBad s t) then s else reissueTable s

/-- A regulator fails; a suspect one moves from suspect to failed and is counted once. -/
def failRegulator (die index : Nat) (s : State) : State :=
  if (findRegulator s die index).failed then s
  else
    let t := updRegulator die index (fun r => { r with suspect := false, failed := true }) s
    let t := if die = 0 then updTract (index / 16) (fun r => { r with paused := decide (r.power = .poweringOn) }) t else t
    settleRoutes (index / 16) s (afterRegulator die index (settleReserve (recordRegulator die index 0 t)))

/-- One 1 ms check of a path, in microvolts (R338). -/
def pathChecked (die index measured expected : Nat) (s : State) : State :=
  let r := findRegulator s die index
  if r.failed then s
  else if 2 * expected < measured then failRegulator die index s
  else if 5 * expected + 20000 < 4 * measured then
    let s := updRegulator die index (fun r => { r with excess := r.excess + 1 }) s
    if r.excess + 1 = 10 ∧ !r.suspect then
      let t := updRegulator die index (fun r => { r with suspect := true }) s
      let t := settleReserve (recordRegulator die index 1 t)
      if die = 0 then settleRoutes (index / 16) s (afterRegulator die index t) else t
    else s
  else updRegulator die index (fun r => { r with excess := 0 }) s

/-! ### What a tract runs (R351) -/

/-- Tracts of an operator's placement set. -/
def opTracts (q : Plan) (raw : List Byte) : U64 := (nth q.place (opPlace raw) (0, 0)).1

/-- The operator of lowest index that runs in a tract now: completed neither itself nor waiting for another. -/
def tractOp (s : State) (p : Partition) (t : Nat) : Option (RunningStep × List Byte) :=
  match (p.context p.current.toNat).step with
  | none => none
  | some r =>
    match p.plan r.batch.plan with
    | none => none
    | some q =>
      let st := settledOps s p.num r
      ((List.range q.ops.length).find? fun i => opReady q r.done st i && hasTract (opTracts q (nth q.ops i [])) t).map
        fun i => (r, nth q.ops i [])

/-- A tract's present tag. -/
def tagOfTract (s : State) (t : Nat) : Option Nat :=
  match ownerOf s t with
  | some p => (tractOp s p t).map fun x => opPhase x.2
  | none => none

/-- Released work of its partition uses a tract (R353). -/
def tractWanted (s : State) (t : Nat) : Bool :=
  match ownerOf s t with
  | none => false
  | some p =>
    p.contexts.any fun c => ((c.step.map (·.batch)).toList ++ c.released).any fun b =>
      match p.plan b.plan with
      | some q => q.ops.any fun o => hasTract (opTracts q o) t
      | none => false

/-! ### Profiles (R351) -/

/-- DA and DV of a phase in a tract, in milliwatts. -/
def profileOf (p : Partition) (tag t : Nat) : Nat × Nat :=
  match p.profiles.find? fun x => x.1 = tag && x.2.1 = t with
  | some x => x.2.2
  | none => (93750, 56250)

/-- The profile of the tag that runs in a tract; none runs: nothing is demanded. -/
def demandProfile (s : State) (t : Nat) : Nat × Nat :=
  match ownerOf s t, tagOfTract s t with
  | some p, some g => profileOf p g t
  | _, _ => (0, 0)

/-- Arithmetic power at an effective rate and the n of its half, scaled from DA by f × V(n)². -/
def arithAt (da rate n : Nat) : Nat := da * rate * voltsOf n ^ 2 / (96 * 1800000 ^ 2)

def leakNow (s : State) (t : Nat) : Nat :=
  let r := findTract s t
  Config.leakage t (if r.power = .running || r.power = .poweringOn then nOf s (isEast t) else 0) (tractTemp s t)

/-! ### The estimate of a period (R345, R346) -/

/-- Σ count × weight over counters, in tenths of a picojoule. -/
def weigh (counts : List Nat) (ks : List Nat) : Nat := (ks.map fun k => nth counts k 0 * Config.weight k).sum

/-- A tract's energy of one period in nanojoules: arithmetic, vertical and near-bank, refresh, leakage. The last of the ten
counters is REF; VLINE, NBRD, NBOP and REF do not scale with V. -/
structure Energy where
  arith : Nat
  vert : Nat
  near : Nat
  ref : Nat
  leak : Nat

def Energy.total (e : Energy) : Nat := e.arith + e.vert + e.near + e.ref + e.leak

def tractEnergy (s : State) (t : Nat) (counts : List Nat) : Energy :=
  { arith := weigh counts [0, 1, 2, 3, 4, 8] * voltsOf (nOf s (isEast t)) ^ 2 / (1800000 ^ 2 * 10000)
    vert := weigh counts [5] / 10000
    near := weigh counts [6, 7] / 10000
    ref := weigh counts [9] / 10000
    leak := 4 * leakNow s t }

/-- An estimate corrected by the factor of R346; while the factor is suspect, its share of the measured energy. -/
def corrected (s : State) (total measured e : Nat) : Nat :=
  if s.power.corrSuspect then (if total = 0 then 0 else measured * e / total)
  else if s.power.corrDen = 0 then e else e * s.power.corrNum / s.power.corrDen

/-! ### Allowances (R347 to R349) -/

/-- Periods of 4 µs in a second and in a millisecond. -/
def perSecond : Nat := 250000
def perMilli : Nat := 250

/-- (L × T − E_past) ÷ 4 µs in milliwatts, for a limit of `watts` over `k` periods; energies in nanojoules. -/
def allowanceOf (watts k : Nat) (past : List Nat) : Nat := (watts * 4000 * k - (past.take (k - 1)).sum) / 4

/-- The same for a current limit, converted at the measured VIN: milliamperes over `k` periods. -/
def currentAllowance (amps k : Nat) (past : List Nat) (mv : Nat) : Nat :=
  (amps * 1000 * k - (past.take (k - 1)).sum) * mv / 1000

/-- The four package and rail allowances, with the numbers by which LIMITER names them. -/
def packageAllowances (s : State) (mv : Nat) : List (Nat × Nat) :=
  let p := s.power
  [(allowanceOf s.thermal.effCap (p.window * perSecond) p.energyHist, if s.thermal.effCap < p.cap then 5 else 1),
   (p.burst * 1000, 2),
   (currentAllowance p.fastA 25 p.railHist mv, 3),
   (currentAllowance p.contA 2500 p.railHist mv, 4)]

/-- The smallest, the first among equals. -/
def smallest : List (Nat × Nat) → Nat × Nat
  | [] => (0, 0)
  | x :: xs => xs.foldl (fun b y => if y.1 < b.1 then y else b) x

/-- The package allowance of the next period in milliwatts, and what set it: the lowest of all that apply (R349, R371, R375). -/
def nextAllowance (s : State) (mv : Nat) : Nat × Nat :=
  smallest ((if s.power.brake then [(2500000, 6)] else []) ++ (if s.thermal.abrupt then [(s.power.cap * 200, 5)] else [])
    ++ packageAllowances s mv)

/-! ### Sharing (R350, R351, R354) -/

/-- The largest number below 2^bits that satisfies a predicate true up to some number; 0 where none does. -/
def largest (ok : Nat → Bool) : Nat → Nat → Nat
  | 0, acc => acc
  | b + 1, acc => largest ok b (if ok (acc + 2 ^ b) then acc + 2 ^ b else acc)

/-- A running elastic tract in the sharing: its number, DA, DV, demand and the most it may take. -/
structure Share where
  t : Nat
  da : Nat
  dv : Nat
  demand : Nat
  most : Nat

/-- Tracts that share: running, or powering on after their step-down (R353). -/
def sharing (s : State) (t : Nat) : Bool :=
  let r := findTract s t
  decide (r.power = .running) || (decide (r.power = .poweringOn) && r.stepped)

def shareOf (s : State) (t : Nat) : Share :=
  let d := demandProfile s t
  let dem := d.1 + d.2 + leakNow s t
  { t := t, da := d.1, dv := d.2, demand := dem,
    most := if plotsBad s t ≤ 2 then dem else min dem (100 * ceilingOf s t) }

/-- The grant at a common level L: 20 W at least. -/
def Share.grantAt (x : Share) (l : Nat) : Nat := max 20000 (min l x.most)

/-- The common level of R350. -/
def commonLevel (xs : List Share) (b : Nat) : Nat := largest (fun l => decide ((xs.map (·.grantAt l)).sum ≤ b)) 24 0

/-- The rate at most which a partition follows its groups' notices (R300). -/
def followRate (s : State) (part : BitVec 4) : Nat :=
  (s.fabric.groups.filter fun g => g.part = part && g.follow && !g.notices.isEmpty).foldl (fun r g =>
    min r (max (g.notices.foldl (fun m n => min m n.2.1) 96) g.floor)) 96

/-- Effective rate and vertical share (in 1/1,024) that fit a grant (R351). -/
def fitShare (x : Share) (grant top : Nat) (fixed : Option Nat) : Nat × Nat :=
  let fits := fun (k : Nat) => decide (x.dv * k / 1024 + arithAt x.da (top * k / 1024) (fixed.getD (max 32 (top * k / 1024))) ≤ grant)
  let k := if x.demand ≤ grant || fits 1024 then 1024 else largest fits 10 0
  (top * k / 1024, k)

/-- The largest issue share whose predicted power fits the grant (R342). -/
def fitM (x : Share) (grant n k rate : Nat) : Nat :=
  max 1 (min 32 (largest (fun m => decide (n * m / 32 ≤ rate) &&
    (decide (x.demand ≤ grant) || decide (x.dv * k / 1024 + arithAt x.da (n * m / 32) n ≤ grant))) 6 0))

/-- The largest common m of the committed tracts at which their charges fit what remains (R370). -/
def committedM (charges rest : Nat) : Nat :=
  max 1 (min 32 (largest (fun m => decide (charges * m / 32 ≤ rest)) 6 0))

/-- The largest m of a committed tract that fits its ceiling (R354). -/
def ceilingM (s : State) (t : Nat) : Nat :=
  let c := chargeOf s t
  if c ≤ ceilingOf s t || plotsBad s t ≤ 2 then 32 else committedM c (ceilingOf s t)

/-- Issue shares, grants and the halves' targets for the next period. `floor` is the floor's estimate in milliwatts. -/
def shareCap (floor : Nat) (s : State) : State :=
  let ts := (List.range 64)
  let comm := ts.filter fun t => (committedOf s t).isSome && sharing s t
  let elas := (ts.filter fun t => (committedOf s t).isNone && sharing s t).map (shareOf s)
  let idle := ts.filter fun t => !sharing s t
  let mw := fun (l : List Nat) => (l.map fun t => (findTract s t).est).sum / 4
  let a := s.power.allowance
  let used := floor + mw comm + mw idle
  let b := a - used
  let short := decide (b < 20000 * elas.length)
  let pressed := short && (s.power.brake || s.thermal.clamp || s.thermal.abrupt)
  let rest := a - (floor + mw idle + 20000 * elas.length)
  let charges := 100 * (comm.map fun t => chargeOf s t).sum
  let level := commonLevel elas b
  let rates := elas.map fun x =>
    let fixed := fixedN s (isEast x.t)
    let own := match ownerOf s x.t with | some p => followRate s p.num | none => 96
    let g := if short then 20000 else x.grantAt level
    (x, g, fitShare x g (min own (fixed.getD 96)) fixed)
  let half := fun (east : Bool) =>
    match fixedN s east with
    | some n => n
    | none => if short then 32 else max 32 (maxNat ((rates.filter fun r => isEast r.1.t = east).map fun r => r.2.2.1))
  let s := { s with power := { s.power with targetWest := half false, targetEast := half true } }
  let s := rates.foldl (fun s r =>
    updTract r.1.t (fun x => { x with
      m := if short then 1 else fitM r.1 r.2.1 (half (isEast r.1.t)) r.2.2.2 r.2.2.1
      grant := r.2.1, demand := r.1.demand, lineBudget := r.2.2.2 }) s) s
  comm.foldl (fun s t =>
    let d := shareOf s t
    updTract t (fun x => { x with
      m := min (ceilingM s t) (if pressed then committedM charges rest else 32)
      grant := 100 * chargeOf s t, demand := d.demand, lineBudget := 1024 }) s) s

/-! ### Pace (R299) -/

/-- The cause of a partition's pace. -/
def paceCause (s : State) (p : Partition) (ts : List Nat) : Nat :=
  if s.power.brake then 3
  else if s.thermal.abrupt || s.thermal.clamp || decide (s.thermal.effCap < s.power.cap) then 2
  else if ts.any fun t => decide (2 < plotsBad s t) then 5
  else if p.switching.isSome then 4
  else if ts.any fun t => decide ((findTract s t).grant < (findTract s t).demand) then 1
  else 0

/-- A partition tells its groups its pace: the lowest n_eff over its running tracts. -/
def paceOf (p : Partition) (s : State) : State :=
  let ts := (tractsOf p.tracts).filter fun t => (findTract s t).power = .running
  let n := ts.foldl (fun n t => min n (max 1 (nEff s t))) 96
  sendPace p.num n (paceCause s p ts) s

def paceAll (s : State) : State := s.partitions.foldl (fun s p => paceOf p s) s

/-! ### Energy (R356) -/

/-- Charge energy to queue pairs of the step that runs: a batch of B charges 1 ÷ B to each. -/
def chargeStep (hs : List Held) (nj : Nat) (s : State) : State :=
  hs.foldl (fun s h => if h.origin.dead then s
    else updPair h.origin.qp (fun q => { q with energy := q.energy + nj / hs.length }) s) s

/-- Charge a tract's energy of a period, its share of the floor's with it. -/
def chargeTract (t nj share : Nat) (s : State) : State :=
  match ownerOf s t with
  | none => { s with power := { s.power with unattributed := s.power.unattributed + nj + share } }
  | some p =>
    let s := updPart p.num (fun x => { x with energy := x.energy + nj + share }) s
    match tractOp s p t with
    | some (r, _) => chargeStep r.batch.steps nj s
    | none => s

/-- Parts of the floor's energy that fabric flits took: one for each partition that belongs to a group, and the transit flits'. The
spec gives no weight for them, so each is a free value, up to what is left of the floor's. -/
def fabricParts (d fl : Nat) (s : State) : List (Option (BitVec 4) × Nat) :=
  let ps := (s.partitions.filter fun p => s.fabric.groups.any fun g => g.part = p.num).map fun p => some p.num
  ((ps ++ [none]).foldl (fun (a : List (Option (BitVec 4) × Nat) × Nat) x =>
    let e := Config.freeNat d (512 + (match x with | some (n : BitVec 4) => n.toNat | none => 16)) % (a.2 + 1)
    (a.1 ++ [(x, e)], a.2 - e)) ([], fl)).1

def fabricEnergy (d fl : Nat) (s : State) : Nat := ((fabricParts d fl s).map (·.2)).sum

/-- Fabric flits sent are charged to their source partition and its running queue pair, transit flits to UNATTRIBUTED (R356). -/
def chargeFabric (d fl : Nat) (s : State) : State :=
  (fabricParts d fl s).foldl (fun s x =>
    match x.1.bind (findPart s) with
    | none => { s with power := { s.power with unattributed := s.power.unattributed + x.2 } }
    | some p =>
      let s := updPart p.num (fun y => { y with energy := y.energy + x.2 }) s
      match (p.context p.current.toNat).step with
      | some r => chargeStep r.batch.steps x.2 s
      | none => s) s

/-! ### One period (R348) -/

/-- The profiles after a period in which a tag ran (R351): one eighth of the way towards the scaled figures. -/
def updProfile (s : State) (t : Nat) (e : Energy) (st : State) : State :=
  match ownerOf s t, tagOfTract s t with
  | some p, some g =>
    let old := profileOf p g t
    let rate := nEff s t
    let n := nOf s (isEast t)
    let k := (findTract s t).lineBudget
    let da := if rate = 0 then old.1 else e.arith * 96 * 1800000 ^ 2 / (4 * rate * voltsOf n ^ 2)
    let dv := if k = 0 then old.2 else (e.vert + e.near) * 1024 / (4 * k)
    let move := fun (o x : Nat) => (7 * o + x) / 8
    updPart p.num (fun x => { x with profiles :=
      (x.profiles.filter fun y => !(y.1 = g && y.2.1 = t)) ++ [(g, t, move old.1 da, move old.2 dv)] }) st
  | _, _ => st

/-- The ratio by which predicted power exceeds an allowance. -/
def scaleFor (allow predicted : Nat) : Nat × Nat := if predicted ≤ allow then (1, 1) else (allow, predicted)

/-- Sums for the means published while a partition is confidential. -/
def sumTract (r : TractRec) : TractRec :=
  { r with secPower := r.secPower + r.est / 4, secGrant := r.secGrant + r.grant, secDemand := r.secDemand + r.demand }

/-- Two consecutive 100 µs windows above the peak rail current stop the device (R335). -/
def checkRail (s : State) : State :=
  if s.power.tick ≠ 0 then s
  else
    let above := decide (7200000 * 25 < (s.power.railHist.take 25).sum)
    let n := if above then s.power.overWindows + 1 else 0
    let s := { s with power := { s.power with overWindows := n } }
    if 2 ≤ n then haltAll s else s

/-- Clock cycles of the groves of the tracts that have power (R106): how many a period holds is a matter of the clock's steps and
stretches within it, so the rise is a free value, the same for every grove of a tract. -/
def countCycles (s : State) : State :=
  (s.power.tracts.filter fun t => t.power ≠ .off && t.power ≠ .offline).foldl (fun s t =>
    (grovesOf t.num).foldl (fun s g =>
      updLattice g (fun c => { c with cycles := c.cycles + BitVec.ofNat 64 (Config.freeNat s.draw (2 ^ 20 + t.num)) }) s) s) s

/-- POWER_PERIOD: what the last 4 µs counted and measured is charged, and the next period's shares are set. -/
def powerPeriod (p : PowerSample) (s : State) : State :=
  let es := p.counts.zipIdx.map fun c => tractEnergy s c.2 c.1
  let floor := 4 * Config.floorPower s.draw
  let total := (es.map Energy.total).sum + floor
  let measured := p.millivolts * p.milliamps / 250
  let fix := corrected s total measured
  let cs := es.map fun e => fix e.total
  let fl := fix floor
  let package := cs.sum + fl
  let root := (es.map fun e => fix (e.vert + e.ref)).sum
  let clearing := (es.map fun e => fix e.near).sum
  let d := s.draw
  let rest := fl - fabricEnergy d fl s
  let s1 : State := { countCycles s with draw := s.draw + 1 }
  let s1 : State := es.zipIdx.foldl (fun st e => updProfile s e.2 e.1 st) s1
  let s1 : State := cs.zipIdx.foldl (fun st c =>
    chargeTract c.2 c.1 (rest / 64) (updTract c.2 (fun r => { r with est := c.1, paused := false, hist := (c.1 :: r.hist).take perMilli }) st)) s1
  let s1 : State := chargeFabric d fl s1
  let w := s1.power
  let s1 : State := { s1 with power := { w with
    device := w.device + package
    estSince := w.estSince + total
    voltHist := (p.millivolts :: w.voltHist).take perMilli
    ampHist := (p.milliamps :: w.ampHist).take perMilli
    railHist := (p.milliamps :: w.railHist).take 2500
    energyHist := (package :: w.energyHist).take (60 * perSecond)
    measHist := (measured :: w.measHist).take perSecond
    canopyHist := ((es.map fun e => fix (e.arith + e.leak)).sum :: w.canopyHist).take perSecond
    rootHist := (root :: w.rootHist).take perMilli
    clearHist := (clearing :: w.clearHist).take perMilli
    secPower := w.secPower + measured / 4, secIin := w.secIin + p.milliamps, secRoot := w.secRoot + root / 4
    secClearing := w.secClearing + clearing / 4, secCount := w.secCount + 1
    tick := (w.tick + 1) % 25 } }
  let a := nextAllowance s1 p.millivolts
  let rs := scaleFor (allowanceOf 2400 25 s1.power.rootHist) (root / 4)
  let cl := scaleFor (allowanceOf 600 25 s1.power.clearHist) (clearing / 4)
  let lim := if a.2 = 6 then 6 else if rs ≠ (1, 1) then 7 else if cl ≠ (1, 1) then 8 else a.2
  let s1 : State := { s1 with power := { s1.power with allowance := a.1, limiter := lim, rootScale := rs, clearScale := cl } }
  let s1 : State := shareCap (fl / 4) s1
  let s1 : State := { s1 with power := { s1.power with tracts := s1.power.tracts.map sumTract } }
  checkRail (if s1.power.tick = 0 then paceAll s1 else s1)

/-- CORRECTION_UPDATE: each 1 ms the estimates are set against the measured energy (R346). -/
def correction (mv ma : Nat) (s : State) : State :=
  let measured := mv * ma
  let est := s.power.estSince
  let s := { s with power := { s.power with estSince := 0 } }
  if est = 0 then s
  else
    let ratio := rn (Num.ofRatio measured est)
    if 4 * est ≤ 5 * measured ∧ 4 * measured ≤ 5 * est then
      { s with power := { s.power with correction := ratio, corrNum := measured, corrDen := est, corrSuspect := false } }
    else
      let first := !s.power.corrSuspect
      let s := { s with power := { s.power with corrSuspect := true } }
      if first then recordPowerNote 0 ratio none s else s

/-! ### PWR_BRAKE# (R349, R438) -/

/-- The contact changes; it is honoured from STAGE 0x03 on. -/
def setBrake (on : Bool) (s : State) : State :=
  let s := { s with pins := { s.pins with brake := on } }
  if !alive s || s.start.stage.toNat < 3 then s
  else paceAll { s with power := { s.power with brake := on } }

/-! ### Parking and waking (R353) -/

/-- The tract can run work: its regulators are on and its groves ungated. -/
def tractPark (t : Nat) (s : State) : State :=
  if (findTract s t).power = .running && !tractWanted s t then updTract t (fun r => { r with power := .parked, groves := 0 }) s else s

def tractWake (t : Nat) (s : State) : State :=
  let r := findTract s t
  if (r.power = .parked || r.power = .off) && tractWanted s t then
    updTract t (fun r => { r with power := .poweringOn, groves := 0, stepped := false }) s
  else s

/-- The package estimate of the last period in milliwatts. -/
def packageEstimate (s : State) : Nat := s.power.energyHist.headD 0 / 4

/-- GROVE_UNGATE: one more grove where the headroom admits it; with the 64th the tract runs. -/
def ungate (t : Nat) (s : State) : State :=
  if (findTract s t).power = .poweringOn && !(findTract s t).paused && decide (100 * Config.groveCharge + packageEstimate s ≤ s.power.allowance) then
    updTract t (fun r => { r with groves := r.groves + 1, power := if 63 ≤ r.groves then .running else .poweringOn }) s
  else s

/-- Tracts that share an edge with a tract in the 8 × 8 arrangement. -/
def tractNeighbours (t : Nat) : List Nat :=
  (if t < 8 then [] else [t - 8]) ++ (if t % 8 = 0 then [] else [t - 1]) ++ (if t % 8 = 7 then [] else [t + 1])
    ++ (if 56 ≤ t then [] else [t + 8])

/-- WAKE_DEFERRAL_LIMIT: the busiest neighbour's m falls by 4, once for each power-on. -/
def wakeLimit (t : Nat) (s : State) : State :=
  let r := findTract s t
  if r.power = .poweringOn && !r.stepped then
    let ns := (tractNeighbours t).filter fun n => (committedOf s n).isNone && (findTract s n).power = .running
    let best := ns.foldl (fun (b : Option Nat) n =>
      match b with
      | none => some n
      | some x => if (findTract s x).est < (findTract s n).est then some n else b) none
    let s := updTract t (fun r => { r with stepped := true }) s
    match best with
    | some n => updTract n (fun r => { r with m := max 1 (r.m - 4) }) s
    | none => s
  else s

/-! ### Admission (R355) -/

/-- Tenths of a watt that the admission needs, for a choice of frequency by tract (0 elastic). -/
def admissionNeed (freq : Nat → Nat) : Nat :=
  8000 + ((List.range 64).map fun t => if freq t = 0 then 200 else Config.charge t (freqN (freq t))).sum

/-- The frequency setting of a tract's partition. -/
def freqOf (s : State) (t : Nat) : Nat := match ownerOf s t with | some p => p.freq | none => 0

/-- Watts by which an admission exceeds a cap. -/
def shortfall (freq : Nat → Nat) (cap : Nat) : Nat := ceilDiv (admissionNeed freq - 10 * cap) 10

def anyCommitted (s : State) : Bool := s.partitions.any fun p => p.freq ≠ 0

/-! ### Commands (R357 to R360) -/

/-- The limits of POWER_CAP_SET in 16 parameter bytes: whether each field is within its limits. -/
def powerParamsOk (s : State) (b : List Byte) : Bool :=
  let cap := fld b 0 4
  let burst := fld b 4 4
  let win := fld b 8 2
  let fa := fld b 10 2
  let ca := fld b 12 2
  let newCap := if cap = 0 then s.power.cap else cap
  (cap = 0 || (2500 ≤ cap && cap ≤ 9500)) && (burst = 0 || (newCap ≤ burst && burst ≤ 10800)) && win ≤ 60
    && (fa = 0 || (1000 ≤ fa && fa ≤ 7200)) && (ca = 0 || (1000 ≤ ca && ca ≤ 6000))

/-- The limits set; a CAP above the present BURST raises BURST. -/
def setPower (b : List Byte) (s : State) : State :=
  let pick := fun (v old : Nat) => if v = 0 then old else v
  let w := s.power
  let cap := pick (fld b 0 4) w.cap
  settleCap { s with power := { w with
    cap := cap, burst := max cap (pick (fld b 4 4) w.burst), window := pick (fld b 8 2) w.window,
    fastA := pick (fld b 10 2) w.fastA, contA := pick (fld b 12 2) w.contA } }

/-- POWER_CAP_SET. -/
def cmdPowerCap (_q : QueuePair) (p : Packet) (s : State) : Res :=
  let b := slice p.inl 0 16
  if !powerParamsOk s b then fail stBadLength s
  else
    let s' := setPower b s
    let need := shortfall (freqOf s) s'.thermal.effCap
    if anyCommitted s && need ≠ 0 then (.done stNoResource (BitVec.ofNat 32 need) [], s)
    else ok [] s'

/-- Watts, the mean over `k` periods of nanojoules. -/
def meanWatts (k : Nat) (l : List Nat) : Nat := (l.take k).sum / (4000 * k)

def anyConfidential (s : State) : Bool := s.partitions.any (·.confidential)

def statusPower (s : State) : Nat := if anyConfidential s then s.power.pubPower else meanWatts perMilli s.power.measHist
def statusIin (s : State) : Nat := if anyConfidential s then s.power.pubIin else (s.power.ampHist.take perMilli).sum / (1000 * perMilli)
def statusRoot (s : State) : Nat := if anyConfidential s then s.power.pubRoot else meanWatts perMilli s.power.rootHist
def statusClearing (s : State) : Nat := if anyConfidential s then s.power.pubClearing else meanWatts perMilli s.power.clearHist

/-- EFFECTIVE_CAP after the thermal response and PWR_BRAKE#. -/
def shownCap (s : State) : Nat := if s.power.brake then min 2500 s.thermal.effCap else s.thermal.effCap

/-- The device record of R358. -/
def powerRecord (s : State) : List Byte :=
  let w := s.power
  toLE 4 (statusPower s) ++ toLE 4 (meanWatts (w.window * perSecond) w.energyHist) ++ toLE 4 w.cap ++ toLE 4 (shownCap s)
    ++ toLE 4 w.burst ++ toLE 2 w.fastA ++ toLE 2 w.contA ++ toLE 2 ((w.voltHist.take perMilli).sum / perMilli)
    ++ toLE 2 (statusIin s) ++ toLE 1 w.nWest ++ toLE 1 w.nEast ++ toLE 1 w.limiter
    ++ toLE 1 ((if w.brake then 1 else 0) + (if (fixedN s false).isSome then 2 else 0)
        + (if (fixedN s true).isSome then 4 else 0) + (if w.corrSuspect then 8 else 0))
    ++ toLE 4 w.correction.toNat ++ toLE 4 (((List.range 64).map (chargeOf s)).sum / 10) ++ toLE 4 (statusRoot s)
    ++ toLE 4 (statusClearing s) ++ zeros 16

/-- A tract record of R358, as the pair's reader sees it. -/
def tractRecord (s : State) (q : QueuePair) (p : Packet) (t : Nat) : List Byte :=
  let o := ownerOf s t
  let own := match o with | some x => decide (x.num = pktPart p) | none => false
  if !q.operator && !own then toLE 1 t ++ [0xFF, 0, 1] ++ zeros 28
  else
    let r := findTract s t
    let conf := match o with | some x => x.confidential | none => false
    let fixed := (committedOf s t).isSome
    let susp := s.power.regulators.any fun x => x.die = 0 && x.index / 16 = t && x.suspect
    toLE 1 t ++ toLE 1 (match o with | some x => x.num.toNat | none => 0xFF) ++ toLE 1 (powerCode r.power)
      ++ toLE 1 ((if fixed then 2 else 0) + (if conf then 4 else 0) + (if susp then 8 else 0))
      ++ toLE 1 r.m ++ toLE 1 (nEff s t) ++ toLE 1 (plotsBad s t)
      ++ toLE 1 (if conf then 0xFF else (tagOfTract s t).getD 0xFF)
      ++ toLE 4 ((if conf then r.pubPower else r.hist.sum / (4 * perMilli)) / 100)
      ++ toLE 4 ((if conf then r.pubGrant else r.grant) / 100)
      ++ toLE 4 ((if conf then r.pubDemand else r.demand) / 100)
      ++ toLE 4 (ceilingOf s t) ++ toLE 4 (chargeOf s t) ++ zeros 4

/-- POWER_STATUS. -/
def cmdPowerStatus (q : QueuePair) (p : Packet) (s : State) : Res :=
  copyOut q p 64 (par p 0 8) (par p 8 4) 2112
    (powerRecord s ++ (List.range 64).flatMap (tractRecord s q p))
    (toLE 4 (statusPower s) ++ toLE 4 (shownCap s)) s

/-- Halves in which a partition has tracts. -/
def halvesOf (x : Partition) : List Bool := ((tractsOf x.tracts).map isEast).eraseDups

/-- FIXED_FREQ_SET. -/
def cmdFixedFreq (_q : QueuePair) (p : Packet) (s : State) : Res :=
  let n := par p 0 1
  let f := par p 1 1
  if 15 < n || 3 < f then fail stBadLength s
  else
    let part := BitVec.ofNat 4 n
    match findPart s part with
    | none => fail stNotPermitted s
    | some x =>
      if x.scrubbing then fail stScrubbing s
      else
        let set := fun (s : State) =>
          let s := updPart part (fun y => { y with freq := f }) s
          { s with power := { s.power with
              targetWest := (fixedN s false).getD s.power.targetWest, targetEast := (fixedN s true).getD s.power.targetEast } }
        if f = 0 then ok [] (set s)
        else if s.partitions.any fun y => y.num ≠ part && y.freq ≠ 0 && y.freq ≠ f
            && (halvesOf y).any (halvesOf x).contains then fail stNotPermitted s
        else
          let need := shortfall (fun t => if hasTract x.tracts t then f else freqOf s t) s.thermal.effCap
          if need ≠ 0 then (.done stNoResource (BitVec.ofNat 32 need) [], s)
          else ok [] (set s)

/-- ENERGY_READ: the counter in millijoules and its age. Published figures are at most 1,000 ms old: the age is a free value then. -/
def cmdEnergyRead (q : QueuePair) (p : Packet) (s : State) : Res :=
  let sel := par p 0 1
  let id := par p 1 1
  let answer := fun (nj : Nat) (published : Bool) =>
    ok (toLE 8 (nj / 1000000) ++ toLE 4 (if published then Config.freeNat s.draw 0 % 1001 else 0)) { s with draw := s.draw + 1 }
  if 3 < sel then fail stBadLength s
  else if sel = 0 then
    match namedPart q p id with
    | .error e => e.reply s
    | .ok n =>
      match findPart s n with
      | none => fail stNotPermitted s
      | some x => answer (if x.confidential then x.pubEnergy else x.energy) x.confidential
  else if sel = 1 then
    if 63 < id then fail stBadLength s
    else
      match findPair s (BitVec.ofNat 6 id) with
      | none => fail stNotPermitted s
      | some x =>
        if !q.operator && x.qp ≠ q.qp && !(x.part = q.part && q.part.isSome) then fail stNotPermitted s
        else
          let conf := match x.part with
            | some n => (match findPart s n with | some y => y.confidential | none => false)
            | none => false
          answer (if conf then x.pubEnergy else x.energy) conf
  else if !q.operator then fail stNotPermitted s
  else if sel = 2 then answer (if anyConfidential s then s.power.pubDevice else s.power.device) (anyConfidential s)
  else answer (if anyConfidential s then s.power.pubUnattributed else s.power.unattributed) (anyConfidential s)

end Sys2Proof.Machine
end

