-- ==== Sys2Proof/Machine/Thermal.lean ====
section
/-! DEFINITION. Cooling (R362 to R375): samples, suspect sensors, hot tracts, the cross-checks of hidden layers, the measured
resistance and the effective cap, warning and clamp, abrupt loss, the trip, and the commands. -/
namespace Sys2Proof.Machine

/-- ALERT# is asserted for a thermal cause, while ALERT_EN is set (R373). -/
def assertAlert (s : State) : State :=
  if s.thermal.alertEn then { s with pins := { s.pins with alert := true } } else s

/-- A THERMAL record: STATE, and a sensor with its reading. -/
def recordThermal (sev die idx : Nat) (reading : Int) (s : State) : State :=
  record 0x09 0x38 sev none (toLE 1 (thermalState s) ++ toLE 1 die ++ toLE 2 idx ++ toLEInt 2 (centi reading)) s

/-- A THERMAL record of a cause that no sensor shows: what it names is not stated, so those fields are free values. -/
def recordCooling (sev : Nat) (s : State) : State :=
  let d := s.draw
  record 0x09 0x38 sev none (toLE 1 (thermalState s) ++ toLE 1 (Config.freeNat d 0) ++ toLE 2 (Config.freeNat d 1)
    ++ toLE 2 (Config.freeNat d 2)) { s with draw := s.draw + 1 }

/-- A SENSOR record: 0 suspect, 1 hidden hot, 2 one estimate high. -/
def recordSensor (die idx kind : Nat) (s : State) : State := record 0x09 0x39 1 none (toLE 1 die ++ toLE 2 idx ++ toLE 1 kind) s

/-! ### The trip (R372) -/

/-- The device trips: clocks stop, tags are written back, DRAM goes into self-refresh, both pins are asserted. -/
def trip (die idx : Nat) (reading : Int) (s : State) : State :=
  let s := haltAll (recordThermal 3 die idx reading s)
  { s with pins := { s.pins with thermtrip := true } }

/-- A sensor on which the readings alone trip: both sensors of a plot, or two adjoining areas of a die. -/
def rawTrip (s : State) : Option Sensor :=
  s.thermal.sensors.find? fun x =>
    decide (tripLimit x.die ≤ x.reading) &&
      (if x.die = 0 then decide (tripLimit 0 ≤ (findSensor s 0 (x.idx / 2 * 2 + (1 - x.idx % 2))).reading)
       else (tractNeighbours x.idx).any fun n => decide (tripLimit x.die ≤ (findSensor s x.die n).reading))

/-- The believed temperature that a listed sensor stands for. -/
def Sensor.believed (s : State) (x : Sensor) : Int := if x.die = 0 then plotTemp s (x.idx / 2) else areaTemp s x.die x.idx

/-- What trips, if anything, after a sample. -/
def tripCause (s : State) : Option Sensor :=
  match rawTrip s with
  | some x => some x
  | none => s.thermal.sensors.find? fun x => x.tripping && decide (tripLimit x.die ≤ x.believed s)

/-! ### Samples (R363 to R365) -/

/-- One reading taken. -/
def takeReading (r : Reading) (s : State) : State :=
  updSensor r.die.toNat r.sensor (fun x => { x with
    hist := (r.value :: x.hist).take 11
    implausible := (x.implausible.map (· + 1)).filter fun a => decide (a < 10000) }) s

/-- Mark a plot's pair suspect, with one record that names sensor `idx` of it; both count against the reserve. -/
def markPair (idx : Nat) (s : State) : State :=
  if plotSuspect s (idx / 2) then s
  else
    let set := fun (k : Nat) => updSensor 0 (2 * (idx / 2) + k) (fun x => { x with suspect := true })
    settleReserve (recordSensor 0 idx 0 (set 1 (set 0 s)))

/-- The checks on a plot's pair after a sample. -/
def checkPair (plot : Nat) (s : State) : State :=
  let i := 2 * plot
  let x := findSensor s 0 i
  let y := findSensor s 0 (i + 1)
  let note := fun (b : Bool) (v : Sensor) => if b then { v with implausible := 0 :: v.implausible } else v
  let apart := decide (128 < (x.reading - y.reading).natAbs)
  let s := updSensor 0 i (fun v => { note (implausible x y) v with differing := if apart then v.differing + 1 else 0 }) s
  let s := updSensor 0 (i + 1) (note (implausible y x)) s
  let s := if 100000 ≤ (findSensor s 0 i).differing then markPair i s else s
  let s := if 10 < (findSensor s 0 i).implausible.length then markPair i s else s
  if 10 < (findSensor s 0 (i + 1)).implausible.length then markPair (i + 1) s else s

/-- A tract becomes hot when a DRAM reading or estimate of it exceeds 85 °C (R191). -/
def heatTracts (s : State) : State :=
  (s.thermal.sensors.filter fun x => isDram x.die).foldl (fun s x =>
    if 1360 < x.reading ∨ 1360 < areaTemp s x.die x.idx then updTract x.idx (fun r => { r with hot := true }) s else s) s

/-- TRACT_COOLED: every DRAM reading and estimate of the tract has stayed at or below 83 °C for 100 ms (R191). -/
def tractCooled (t : Nat) (s : State) : State :=
  if (s.thermal.sensors.filter fun x => isDram x.die && x.idx = t).any fun x =>
      decide (1328 < x.reading) || decide (1328 < areaTemp s x.die x.idx) then s
  else updTract t (fun r => { r with hot := false }) s

/-- Sensors, not suspect, that rise by more than 2 K/ms (R371). -/
def risingFast (s : State) : Nat := (s.thermal.sensors.filter fun x => !x.suspect && decide (32 < x.slew)).length

/-- A believed temperature at or above a limit. -/
def anyAbove (limit : Nat → Int) (s : State) : Bool := (List.range 24).any fun d => decide (limit d ≤ dieTemp s d)

/-- The clamp begins: every clamped partition tells its groups (R370). -/
def beginClamp (s : State) : State :=
  if s.thermal.clamp then s else paceAll { s with thermal := { s.thermal with clamp := true } }

/-- An abrupt loss is declared (R371). -/
def declareAbrupt (s : State) : State :=
  let s := settleCap { s with thermal := { s.thermal with abrupt := true } }
  let s := assertAlert s
  match s.thermal.sensors.find? fun x => !x.suspect && decide (32 < x.slew) with
  | some x => paceAll (recordThermal 1 x.die x.idx x.reading s)
  | none => s

/-- Flags for the rule of two consecutive samples, and the sums of the means published. -/
def endSample (s : State) : State :=
  let hot := (List.range 24).map fun d => centi (dieTemp s d)
  let old := s.thermal.secHottest
  { s with thermal := { s.thermal with
      sensors := s.thermal.sensors.map fun x => { x with tripping := decide (tripLimit x.die ≤ x.believed s) }
      secHottest := hot.zipIdx.map fun h => h.1 + nth old h.2 0
      secRth := s.thermal.secRth + s.thermal.rMeas
      secCount := s.thermal.secCount + 1 } }

/-- SENSOR_SAMPLE. -/
def sensorSample (rs : List Reading) (s : State) : State :=
  let s := rs.foldl (fun s r => takeReading r s) s
  let plots := ((rs.filter fun r => r.die = 0).map fun r => r.sensor / 2).eraseDups
  let s := heatTracts (plots.foldl (fun s p => checkPair p s) s)
  match tripCause s with
  | some x => trip x.die x.idx x.reading s
  | none =>
    let s := if !s.thermal.abrupt && decide (8 ≤ risingFast s) then declareAbrupt s else s
    let s := if anyAbove clampLimit s then beginClamp s else s
    endSample s

/-- ABRUPT_RECHECK: 5 ms after the loss, a slew that persists trips the device. -/
def abruptRecheck (rs : List Reading) (s : State) : State :=
  let s := rs.foldl (fun s r => takeReading r s) s
  if s.thermal.abrupt && decide (8 ≤ risingFast s) then
    match s.thermal.sensors.find? fun x => !x.suspect && decide (32 < x.slew) with
    | some x => trip x.die x.idx x.reading s
    | none => s
  else s

/-- ABRUPT_CLEAR: slews below 0.5 K/ms and R_meas below 1.5 × R_nom. -/
def abruptClear (s : State) : State :=
  if s.thermal.abrupt && s.thermal.sensors.all (fun x => decide (x.slew < 8)) && decide (2 * s.thermal.rMeas < 3 * Config.rNom) then
    settleCap { s with thermal := { s.thermal with abrupt := false, k := 500 } }
  else s

/-! ### The hidden hot middle layer (R366) -/

/-- LEAKAGE_MEASURE. -/
def leakageMeasured (layer area current : Nat) (s : State) : State :=
  updSensor layer area (fun x => { x with leak := some (Config.leakageCurve layer area current) }) s

/-- The interpolation of an area: what its power is estimated at is not given by layer, so it is a free value. -/
def interpolated (s : State) (die area : Nat) : Int :=
  let up := if die = 1 then tractTemp s area else areaTemp s (die - 1) area
  (up + areaTemp s (die + 1) area) / 2
    + ((Config.selfHeating die area * Config.freeNat s.draw (64 * die + area) * 16 / 10000000 : Nat) : Int)

/-- The check of one area. -/
def checkHidden (die area : Nat) (s : State) : State :=
  let x := findSensor s die area
  let i := interpolated s die area
  let above := fun (e : Int) => decide (x.reading + 96 < e)
  let byLeak := match x.leak with | some l => above l | none => false
  if byLeak && above i then
    let l := x.leak.getD i
    let s := updSensor die area (fun v => { v with
      source := if l ≤ i then 1 else 2, estimate := min l i, suspect := true, agreeing := 0, oneHigh := false }) s
    if x.source = 0 then recordSensor die area 1 s else s
  else if byLeak || above i then
    let s := updSensor die area (fun v => { v with oneHigh := true, agreeing := 0 }) s
    if x.oneHigh then s else recordSensor die area 2 s
  else
    let within := fun (e : Int) => decide (x.reading ≤ e + 96)
    let agree := within i && (match x.leak with | some l => within l | none => false)
    let n := if x.source ≠ 0 ∧ agree then x.agreeing + 1 else 0
    updSensor die area (fun v => { v with
      oneHigh := false, agreeing := n, source := if 60 ≤ n then 0 else v.source }) s

/-- HIDDEN_HOT_CHECK: every tract area of L1 to L22. -/
def hiddenCheck (s : State) : State :=
  let xs := s.thermal.sensors.filter fun x => decide (1 ≤ x.die) && decide (x.die ≤ 22)
  let s := xs.foldl (fun s x => checkHidden x.die x.idx s) s
  settleReserve (heatTracts { s with
    draw := s.draw + 1
    thermal := { s.thermal with hiddenHot := s.thermal.sensors.any fun x => decide (x.source ≠ 0) } })

/-! ### Resistance, cap, warning and clamp (R367 to R370) -/

/-- Mean believed temperature of the 1,024 plots, in 10^-7 K. -/
def meanCanopy (s : State) : Int := ((listedPlots s).map (plotTemp s)).foldl (· + ·) 0 * 625000 / 1024

/-- A new sample of R_meas in 10^-7 K/W, for `p` watts. -/
def sampleRth (s : State) (p : Nat) : Int :=
  (meanCanopy s - (Config.rJc : Int) * meanWatts perSecond s.power.canopyHist - inletUsed s * 100000) / (p : Int)

/-- P_th in watts; no limit while R_meas is not positive. -/
def thermalAllowance (s : State) : Nat :=
  if s.thermal.rMeas ≤ 0 then 2 ^ 32 - 1 else ((7325 - inletUsed s) * 100000 / s.thermal.rMeas).toNat

/-- The conditions of the warning and of the clamp. -/
def warningHolds (s : State) : Bool :=
  decide ((s.thermal.warn : Int) * Config.rNom ≤ 100 * s.thermal.rMeas) || decide (10 * s.thermal.pTh < admissionNeed (freqOf s))

def clampHolds (s : State) : Bool := decide (3 * (Config.rNom : Int) ≤ 2 * s.thermal.rMeas) || anyAbove clampLimit s

/-- THERMAL_COMPUTATION. -/
def thermalCompute (seconds : Nat) (s : State) : State :=
  let s := { s with thermal := { s.thermal with age := min seconds 65535 } }
  let p := meanWatts perSecond s.power.measHist
  let s := if p < 1000 then s
    else { s with thermal := { s.thermal with rMeas := Config.smoothRth s.thermal.rMeas (sampleRth s p) } }
  let s := { s with thermal := { s.thermal with pTh := thermalAllowance s } }
  let was := s.thermal.warning
  let now := warningHolds s
  let s := settleCap { s with thermal := { s.thermal with warning := now } }
  let s := if now then assertAlert s else s
  let s := if now && !was then recordCooling 1 s else s
  if clampHolds s then beginClamp s else s

/-- K_ADJUST: every 10 ms down, every 100 ms up. -/
def kAdjust (slow : Bool) (s : State) : State :=
  if slow then
    if (List.range 24).all fun d => decide (dieTemp s d + 48 ≤ elasticLimit d) then
      { s with thermal := { s.thermal with k := min 1000 (s.thermal.k + 10) } }
    else s
  else if anyAbove elasticLimit s then { s with thermal := { s.thermal with k := max 200 (s.thermal.k - 20) } }
  else s

/-- CLAMP_END: neither condition has held for 1 s. -/
def clampEnd (s : State) : State :=
  if s.thermal.clamp && !clampHolds s then paceAll { s with thermal := { s.thermal with clamp := false } } else s

/-- ALERT_RELEASE: no thermal cause remains. -/
def alertRelease (s : State) : State :=
  let h := s.thermal
  if h.warning || h.clamp || h.abrupt || h.flowLow then s else { s with pins := { s.pins with alert := false } }

/-- WARNING_NOTE. -/
def warningNote (s : State) : State := if s.thermal.warning then recordCooling 1 s else s

/-- COOLANT_STALE. -/
def coolantStale (s : State) : State := { s with thermal := { s.thermal with reported := false } }

/-! ### Commands (R368, R373, R374) -/

/-- COOLANT_SET. -/
def cmdCoolantSet (_q : QueuePair) (p : Packet) (s : State) : Res :=
  let inlet := sfld16 p.inl 0
  let flow := par p 2 2
  if inlet < 500 ∨ 5000 < inlet ∨ 2000 < flow then fail stBadLength s
  else
    let low := decide (1 ≤ flow) && decide (flow ≤ 79)
    let s := { s with thermal := { s.thermal with inlet := inlet, flow := flow, reported := true, age := 0, flowLow := low } }
    let s := if 4000 < inlet then recordCooling 1 s else s
    ok [] (if low then recordCooling 1 (assertAlert s) else s)

/-- The parameters of THERMAL_RESPONSE_SET in 8 bytes. -/
def thermalParamsOk (b : List Byte) : Bool :=
  let warn := fld b 0 2
  let stale := fld b 2 2
  (warn = 0 || (105 ≤ warn && warn ≤ 149)) && stale ≤ 3600

def setThermal (b : List Byte) (s : State) : State :=
  let pick := fun (v old : Nat) => if v = 0 then old else v
  let en := fld b 4 1 % 2 = 1
  let s := { s with thermal := { s.thermal with
    warn := pick (fld b 0 2) s.thermal.warn, stale := pick (fld b 2 2) s.thermal.stale, alertEn := en } }
  if en then s else { s with pins := { s.pins with alert := false } }

/-- THERMAL_RESPONSE_SET. -/
def cmdThermalResponse (_q : QueuePair) (p : Packet) (s : State) : Res :=
  let b := slice p.inl 0 8
  if thermalParamsOk b then ok [] (setThermal b s) else fail stBadLength s

/-- HOTTEST of each die in 0.01 °C, and R_meas, as readers see them. -/
def shownHottest (s : State) (die : Nat) : Int := if anyConfidential s then nth s.thermal.pubHottest die 0 else centi (dieTemp s die)
def shownRth (s : State) : Int := if anyConfidential s then s.thermal.pubRth else s.thermal.rMeas

/-- A resistance in 10^-7 K/W as binary32 K/W. -/
def rthBytes (r : Int) : List Byte := toLE 4 (rn (Num.ofRatio r 10000000)).toNat

/-- The record of R374. -/
def thermalRecord (s : State) : List Byte :=
  let h := s.thermal
  toLEInt 4 (inletUsed s) ++ toLE 2 h.age ++ toLE 2 h.flow ++ rthBytes (shownRth s) ++ rthBytes Config.rNom ++ toLE 4 h.pTh
    ++ toLE 4 (shownCap s) ++ toLE 1 (thermalState s)
    ++ toLE 1 ((if h.reported then 0 else 1) + (if suspectSensors s ≠ 0 then 2 else 0) + (if h.hiddenHot then 4 else 0)
        + (if hotTracts s ≠ 0 then 8 else 0) + (if s.pins.alert then 16 else 0))
    ++ toLE 2 (suspectSensors s) ++ toLE 2 h.k ++ zeros 2 ++ ((List.range 24).flatMap fun d => toLEInt 2 (shownHottest s d))
    ++ ((List.range 24).flatMap fun d => toLE 1 (dieSource s d)) ++ zeros 24

/-- THERMAL_STATUS. -/
def cmdThermalStatus (q : QueuePair) (p : Packet) (s : State) : Res :=
  copyOut q p 64 (par p 0 8) (par p 8 4) 128 (thermalRecord s) (toLE 4 (shownCap s) ++ toLE 1 (thermalState s)) s

end Sys2Proof.Machine
end

