-- ==== Sys2Proof/Machine/Settings.lean ====
section
/-! DEFINITION. Configuration sets (R414, R415), calendar time (R410), the reserve record (R406), the recorder's rate limit
(R411) and the figures of confidential partitions published once per second (R356, R358, R374). -/
namespace Sys2Proof.Machine

/-! ### Configuration sets (R414) -/

/-- One item: ID and value. -/
structure Item where
  id : Nat
  value : List Byte

/-- The items of a set from a position on; none where one runs past the end, or bytes are left over. -/
def parseItems : Nat → List Byte → Option (List Item)
  | 0, b => if b.isEmpty then some [] else none
  | n + 1, b =>
    let len := fld b 2 2
    let size := 8 + 8 * ceilDiv len 8
    if b.length < size then none else (parseItems n (b.drop size)).map fun r => ⟨fld b 0 2, slice b 8 len⟩ :: r

def itemsOf (set : List Byte) : Option (List Item) := parseItems (fld set 6 2) (set.drop 64)

/-- Whether an item's value is one its own command would take. -/
def itemOk (s : State) (i : Item) : Bool :=
  let v := i.value
  match i.id with
  | 1 => v.length = 2 && fld v 0 2 ≤ 0x7FFE
  | 2 =>
    let c := fld v 2 2
    8 ≤ v.length && v.length = 8 + 8 * c && 1 ≤ c && fld v 0 2 + c ≤ 32768 && (List.range c).all fun k => routeOk (fld v (8 + 8 * k) 8)
  | 3 => v.length = 16 && powerParamsOk s v
  | 4 => v.length = 8 && thermalParamsOk v
  | 5 => v.length = 168
  | 6 => v.length = 4 && 10 ≤ fld v 0 2 && fld v 0 2 ≤ 3600
  | 7 => v.length = 8
  | _ => false

/-- The item of an ID in a set. -/
def itemIn (set : List Byte) (id : Nat) : Option (List Byte) :=
  (((itemsOf set).getD []).find? fun i => i.id = id).map (·.value)

def setVersion (c : Option ConfigSet) : U32 := match c with | some x => x.version | none => 0

/-- The checks of R414 on a set of `n` bytes: a header, CRC or item fault, or a BASE that is not in force. -/
def checkSet (s : State) (set : List Byte) : Option Stop :=
  let v := fld32 set 8
  let size := fld set 16 4
  if fld set 0 4 ≠ 0x5A474346 || fld set 4 2 ≠ 1 || 64 < fld set 6 2 || size < 64 || 327680 < size || set.length ≠ size then
    some (.plain stBadLength)
  else if (crc32c (set.take 20 ++ zeros 4 ++ set.drop 24)).toNat ≠ fld set 20 4 then some (.plain stBadLength)
  else if v = 0 || v = setVersion s.config.inForce || v = setVersion s.config.previous then some (.plain stBadLength)
  else if fld32 set 12 ≠ cfgVersion s then some (.plain stConfig)
  else
    match itemsOf set with
    | none => some (.plain stBadLength)
    | some l =>
      if (l.map (·.id)).eraseDups.length ≠ l.length || l.any (fun i => !itemOk s i) then some (.plain stBadLength)
      else none

/-- The device id that a set gives. -/
def setDevId (set : List Byte) : Nat := match itemIn set 1 with | some v => fld v 0 2 | none => 0x7FFF

/-- A DEVICE_ID change only while no partition belongs to a group. -/
def idChangeBarred (s : State) (set : List Byte) : Bool :=
  decide (setDevId set ≠ s.fabric.devId.toNat) && !s.fabric.groups.isEmpty

/-- SCRUB_CTL and CEBKT_CFG of each layer. -/
def setScrub (v : List Byte) (s : State) : State :=
  (List.range 21).foldl (fun s i =>
    updLayer (i + 2) (fun r => writeLayerReg (writeLayerReg r 0 (fld32 v (8 * i))) 16 (fld32 v (8 * i + 4))) s) s

/-- The links that are enabled train where they were off; the others are turned off, as every link is while the device is
out of service (R408). -/
def setLinks (given : U64) (s : State) : State :=
  let mask : U64 := if s.start.oos then 0 else given
  (List.range 64).foldl (fun s n => controlLink (if mask.getLsbD n then 1 else 0) n s) s

/-- The running values that a set supplies; an absent item takes its default (R414). Routes learned from a peer stay. -/
def supply (c : Option ConfigSet) (s : State) : State :=
  let set := match c with | some x => x.bytes | none => []
  let item := fun (id : Nat) => if set.isEmpty then none else itemIn set id
  let s := match item 1 with
    | some v => if fld v 0 2 = s.fabric.devId.toNat then s else setFabricId (fld v 0 2) s
    | none => { s with fabric := { s.fabric with devId := 0x7FFF } }
  let s := { s with fabric := { s.fabric with routes := s.fabric.routes.filter fun r => r.2.getLsbD 27 } }
  let s := match item 2 with
    | some v => setRoutes (fld v 0 2) ((List.range (fld v 2 2)).map fun k => fld v (8 + 8 * k) 8) s
    | none => s
  let s := { s with power := { s.power with cap := 8000, burst := 9500, window := 8, fastA := 7200, contA := 6000 } }
  let s := match item 3 with | some v => setPower v s | none => settleCap s
  let s := { s with thermal := { s.thermal with warn := 115, stale := 60, alertEn := true } }
  let s := match item 4 with | some v => setThermal v s | none => s
  let s := setScrub ((item 5).getD ((List.range 21).flatMap fun _ => toLE 4 0x05A00003 ++ toLE 4 0x10010000)) s
  let s := { s with testPeriod := match item 6 with | some v => fld v 0 2 | none => 60 }
  setLinks (match item 7 with | some v => fld64 v 0 | none => BitVec.allOnes 64) s

/-- A CONFIG record: 0 applied, 1 confirmed, 2 rolled back, 3 rolled back automatically. -/
def recordConfig (event : Nat) (other : U32) (s : State) : State :=
  record 0x02 0x70 0 none (toLE 1 event ++ zeros 3 ++ toLE 4 (cfgVersion s).toNat ++ toLE 4 other.toNat) s

/-- The previous set comes into force CONFIRMED; the other is discarded. -/
def rollBack (event : Nat) (s : State) : State :=
  let other := cfgVersion s
  let s := { s with config := { s.config with inForce := s.config.previous, previous := none, pending := false } }
  recordConfig event other (supply s.config.inForce s)

/-! ### Commands (R415) -/

/-- CONFIG_READ. -/
def cmdConfigRead (q : QueuePair) (p : Packet) (s : State) : Res :=
  let sel := par p 0 1
  if 1 < sel then fail stBadLength s
  else
    match if sel = 0 then s.config.inForce else s.config.previous with
    | none => ok (zeros 12) s
    | some c =>
      let pend := if sel = 0 && s.config.pending then 1 else 0
      copyOut q p 1 (par p 4 8) (par p 12 4) c.bytes.length c.bytes
        (toLE 4 c.version.toNat ++ toLE 1 pend ++ zeros 3 ++ toLE 4 c.bytes.length) s

/-- CONFIG_APPLY: the set is copied; it is validated and written to flash before it comes into force. -/
def cmdConfigApply (q : QueuePair) (p : Packet) (s : State) : Res :=
  let src := par p 0 8
  let n := par p 8 4
  if s.config.pending then fail stNotPermitted s
  else
    match takeBuffer s q p src (min n 327680) with
    | .error e => e.reply s
    | .ok set =>
      if fld set 16 4 ≠ n then fail stExceeds s
      else if idChangeBarred s set then fail stNotPermitted s
      else (.accepted, { s with config := { s.config with applying := s.config.applying ++ [(pktOrigin p, set)] } })

/-- CONFIG_APPLY_DONE. -/
def applyDone (s : State) : State :=
  match s.config.applying with
  | [] => s
  | (o, set) :: rest =>
    let s := { s with config := { s.config with applying := rest } }
    if s.config.pending || idChangeBarred s set then finish o stNotPermitted 0 [] s
    else
      match checkSet s set with
      | some e => finish o e.status e.detail e.result s
      | none =>
        let other := cfgVersion s
        let c : ConfigSet := ⟨fld32 set 8, set⟩
        let s := { s with config := { s.config with inForce := some c, previous := s.config.inForce, pending := true } }
        finish o stOk 0 [] (recordConfig 0 other (raiseEvent evConfig (supply (some c) s)))

/-- CONFIG_CONFIRM. -/
def cmdConfigConfirm (_q : QueuePair) (p : Packet) (s : State) : Res :=
  if !s.config.pending then fail stNotPermitted s
  else if par32 p 0 ≠ cfgVersion s then fail stConfig s
  else ok [] (recordConfig 1 (setVersion s.config.previous) { s with config := { s.config with pending := false } })

/-- CONFIG_ROLLBACK. -/
def cmdConfigRollback (_q : QueuePair) (_p : Packet) (s : State) : Res :=
  if s.config.previous.isNone then fail stNotPermitted s else ok [] (rollBack 2 s)

/-- CONFIG_AUTO_ROLLBACK. -/
def autoRollback (s : State) : State := if s.config.pending then rollBack 3 s else s

/-! ### Calendar time and the reserve -/

/-- A time word in its 8 bytes. -/
def wordBytes (t : Nat × Nat) : List Byte := toLE 8 (t.1 + 2 ^ 48 * t.2)

/-- TIME_SET. -/
def cmdTimeSet (_q : QueuePair) (p : Packet) (s : State) : Res :=
  let t := par p 0 8
  if 2 ^ 48 ≤ t then fail stBadLength s
  else
    let old := timeWord s
    let s := { s with recorder := { s.recorder with time := some (t, par p 8 2, Config.elapsedMs s.draw) } }
    ok [] (record 0x00 0x02 0 none (wordBytes old ++ wordBytes (timeWord s)) s)

/-- RESERVE_STATUS. -/
def cmdReserveStatus (q : QueuePair) (p : Packet) (s : State) : Res :=
  let m := s.reserve.atMask.toNat
  let rec64 := toLE 1 ((if reserveLow s then 1 else 0) + (if s.start.oos then 2 else 0)) ++ zeros 3 ++ toLE 4 m
    ++ (reserveRows s).flatMap fun r => toLE 2 r.value ++ toLE 2 r.threshold
  copyOut q p 64 (par p 0 8) (par p 8 4) 64 rec64 (toLE 4 m) s

/-! ### Once in a second -/

/-- DROPPED: a second has passed (assumption 3), and what was not written in it is reported in one record. Entries that are
written once in a second may be written anew. -/
def secondPassed (s : State) : State :=
  let n := s.recorder.dropped
  let fresh : Decoder → Decoder := fun d => { d with noted := false }
  let s : State := { s with
    recorder := { s.recorder with inSecond := 0, dropped := 0 }
    cxl := { s.cxl with decoders := s.cxl.decoders.map fresh }
    fabric := { s.fabric with noted := [] } }
  let s := if s.power.corrSuspect then recordPowerNote 0 s.power.correction none s else s
  if n = 0 then s else record 0x00 0x05 0 none (toLE 8 n) s

/-- The mean of a sum; of nothing, 0. -/
def meanOf (sum n : Nat) : Nat := if n = 0 then 0 else sum / n

/-- CONFIDENTIAL_PUBLICATION. -/
def publishSecond (s : State) : State :=
  let w := s.power
  let h := s.thermal
  let k := w.secCount
  let part : Partition → Partition := fun p => { p with pubEnergy := p.energy }
  let pair : QueuePair → QueuePair := fun q => { q with pubEnergy := q.energy }
  let tract : TractRec → TractRec := fun r => { r with
    pubPower := meanOf r.secPower k, pubGrant := meanOf r.secGrant k, pubDemand := meanOf r.secDemand k
    secPower := 0, secGrant := 0, secDemand := 0 }
  { s with
    partitions := s.partitions.map part
    pairs := s.pairs.map pair
    power := { w with
      pubDevice := w.device, pubUnattributed := w.unattributed
      pubPower := meanOf w.secPower k / 1000, pubIin := meanOf w.secIin k / 1000
      pubRoot := meanOf w.secRoot k / 1000, pubClearing := meanOf w.secClearing k / 1000
      secPower := 0, secIin := 0, secRoot := 0, secClearing := 0, secCount := 0
      tracts := w.tracts.map tract }
    thermal := { h with
      pubHottest := if h.secCount = 0 then h.pubHottest else h.secHottest.map fun x => x / (h.secCount : Int)
      pubRth := if h.secCount = 0 then h.pubRth else h.secRth / (h.secCount : Int)
      secHottest := [], secRth := 0, secCount := 0 } }

end Sys2Proof.Machine
end

