-- ==== Sys2Proof/Machine/Partitions.lean ====
section
/-! DEFINITION. Partitions (R376 to R380), memory keys and the sweep (R390 to R394), confidential mode (R395) and the scrub
between tenants (R397). -/
namespace Sys2Proof.Machine

/-- A partition as PARTITION_CREATE makes it. -/
def Partition.make (n : Nat) (tracts : U64) (confidential : Bool) (inst : U64) : Partition :=
  { num := BitVec.ofNat 4 n, tracts := tracts, scrubbing := false, confidential := confidential, inst := inst,
    keyLive := true, sweeping := false, gen := false, rotations := 0, sweepSince := 0, energy := 0, pubEnergy := 0,
    release := none, regions := [], plans := [], caches := [], contexts := List.replicate 8 Context.fresh, current := 0,
    expired := false, switching := none, divMode := 0, bsplit := 16, freq := 0, stranded := false, recovery := [],
    acting := none, deferred := [], profiles := [] }

/-- A tract at the start of a lease: OFF, its temperature state kept. -/
def TractRec.off (r : TractRec) : TractRec :=
  if r.power = .offline then r else { TractRec.fresh r.num with hot := r.hot }

/-- PARTITION_CREATE. -/
def cmdPartitionCreate (_q : QueuePair) (p : Packet) (s : State) : Res :=
  let n := par p 0 1
  let tracts := fld64 p.inl 8
  if 15 < n || (findPart s (BitVec.ofNat 4 n)).isSome || tracts = 0
      || (tractsOf tracts).any (fun t => (ownerOf s t).isSome || offline s t) then fail stNotPermitted s
  else
    let c := s.start.createCount + 1
    let inst : U64 := s.start.coldCount.setWidth 64 <<< 32 ||| c.setWidth 64
    let s := { s with
      start := { s.start with createCount := c }
      partitions := s.partitions ++ [Partition.make n tracts (par p 1 1 % 2 = 1) inst] }
    ok (toLE 8 inst.toNat) ((tractsOf tracts).foldl (fun s t => updTract t TractRec.off s) s)

/-! ### The scrub (R379, R397) -/

/-- Who waits for something of a partition that the scrub ends: validations, fills, unloads, migrations, deferred commands. -/
def scrubWaiters (s : State) (x : Partition) : List Origin :=
  ((s.loading.filter fun l => l.part = x.num).map (·.origin)) ++ x.regions.filterMap (·.filling)
    ++ x.plans.filterMap (·.unloading) ++ (x.caches.flatMap fun c => c.migrations.map (·.1)) ++ x.deferred.map pktOrigin

/-- Near-bank units beneath a set of tracts. -/
def unitOfTracts (m : U64) (u : Nat) : Bool := hasTract m (tractOfCore (u % 65536 * 16))

/-- A unit whose partition is scrubbed: no task, no seal, counters zero; memory mode. -/
def NbUnit.scrubbed (v : NbUnit) : NbUnit :=
  { NbUnit.fresh v.unit with state := v.state, lastFault := v.lastFault }

/-- t0 and the stops that follow it: steps held or released end cancelled, everything else of the partition stops. -/
def beginScrub (n : BitVec 4) (o : Option Origin) (s : State) : State :=
  match findPart s n with
  | none => s
  | some x =>
    let mine := sortBy (fun a b => a.held.order ≤ b.held.order) ((allSteps s).filter fun f => f.part = n)
    let waiters := scrubWaiters s x
    let s := updPart n (fun p => { p with
      scrubbing := true, sweeping := false, keyLive := false, release := o, expired := false, switching := none
      recovery := [], acting := none, deferred := []
      contexts := p.contexts.map fun c => { c with sets := [], ineligible := [], released := [], step := none, saved := [] }
      regions := p.regions.map fun r => { r with filling := none }
      plans := p.plans.map fun q => { q with unloading := none }
      caches := p.caches.map fun c => { c with migrations := [] } }) s
    let s := { s with
      loading := s.loading.filter fun l => l.part ≠ n
      units := s.units.map fun v => if unitOfTracts x.tracts v.unit then v.scrubbed else v }
    let s := clearFabric (fabAddr s n) s
    let s := mine.foldl (fun s f => finish f.held.origin stOk detailCancelled (zeros 16) s) s
    waiters.foldl (fun s o => finish o stScrubbing 0 [] s) s

/-- PARTITION_RELEASE. -/
def cmdPartitionRelease (_q : QueuePair) (p : Packet) (s : State) : Res :=
  let n := par p 0 1
  if 15 < n then fail stBadLength s
  else
    let part := BitVec.ofNat 4 n
    match findPart s part with
    | none => fail stNotPermitted s
    | some x =>
      if x.scrubbing then fail stScrubbing s
      else if s.pairs.any (fun q => q.part = some part) || s.fabric.groups.any (fun g => g.part = part) then fail stNotPermitted s
      else (.accepted, beginScrub part (some (pktOrigin p)) s)

/-- The scrub's end: every line beneath the tracts free, counters zero, decoders unbound, tracts FREE and OFF, the partition
gone. -/
def endScrub (n : BitVec 4) (s : State) : State :=
  match findPart s n with
  | none => s
  | some x =>
    if !x.scrubbing then s
    else
      let mineGrove := fun (g : Nat) => hasTract x.tracts (tractOfCore (256 * g))
      let unbind : Decoder → Decoder := fun d =>
        { d with bound := match d.bound with | some (m, h) => if m = n then none else some (m, h) | none => none }
      let s := clearRouters x.tracts (freeLines (fun l => hasTract x.tracts (tractOfCore (lineCore l))) s)
      let s := { s with
        partitions := s.partitions.filter fun p => p.num ≠ n
        groves := s.groves.filter fun g => !mineGrove g.num
        lattice := s.lattice.filter fun c => !mineGrove c.grove
        net := s.net.filter fun c => !mineGrove c.grove
        netNoted := s.netNoted.filter fun g => !mineGrove g
        cxl := { s.cxl with decoders := s.cxl.decoders.map unbind } }
      let s := (tractsOf x.tracts).foldl (fun s t => updTract t TractRec.off s) s
      settleReserve (relieveStranded (finishIf x.release stOk (toLE 8 (x.energy / 1000000)) s))

/-- PARTITION_STATUS. -/
def cmdPartitionStatus (q : QueuePair) (p : Packet) (s : State) : Res :=
  match namedPart q p (par p 0 1) with
  | .error e => e.reply s
  | .ok n =>
    match findPart s n with
    | none => ok (zeros 16) s
    | some x =>
      ok (toLE 1 (if x.scrubbing then 2 else 1) ++ toLE 1 ((if x.confidential then 1 else 0) + (if x.sweeping then 2 else 0))
        ++ zeros 2 ++ toLE 8 x.tracts.toNat ++ toLE 4 x.regions.length) s

/-! ### Confidential mode (R395) -/

/-- CONFIDENTIAL_SET. Figures published from then on start from the present ones. -/
def cmdConfidentialSet (q : QueuePair) (p : Packet) (s : State) : Res :=
  if par p 1 1 ≠ 1 then fail stBadLength s
  else
    match namedPart q p (par p 0 1) with
    | .error e => e.reply s
    | .ok n =>
      match findPart s n with
      | none => fail stNotPermitted s
      | some x =>
        if x.scrubbing then fail stScrubbing s
        else if s.cxl.decoders.any fun d => (d.bound.map (·.1)) = some n then fail stNotPermitted s
        else if x.confidential then ok [] s
        else ok [] (updPart n (fun y => { y with confidential := true, pubEnergy := y.energy }) s)

/-! ### Keys (R391 to R394) -/

/-- KEY_ROTATE. -/
def cmdKeyRotate (q : QueuePair) (p : Packet) (s : State) : Res :=
  match namedPart q p (par p 0 1) with
  | .error e => e.reply s
  | .ok n =>
    match findPart s n with
    | none => fail stNotPermitted s
    | some x =>
      if x.scrubbing then fail stScrubbing s
      else if x.sweeping then fail stBusyRekey s
      else
        ok (toLE 4 (x.rotations + 1).toNat ++ toLE 1 (if x.gen then 0 else 1))
          (updPart n (fun y => { y with
            gen := !y.gen, rotations := y.rotations + 1, sweeping := true, sweepSince := Config.elapsedMs s.draw })
            { s with draw := s.draw + 1 })

/-- Lines of a partition whose tags name the old generation. -/
def oldLines (s : State) (x : Partition) : List LineTag :=
  s.tags.filter fun t => t.gen ≠ x.gen && hasTract x.tracts (tractOfCore (lineCore t.line))

/-- KEY_STATUS. -/
def cmdKeyStatus (q : QueuePair) (p : Packet) (s : State) : Res :=
  match namedPart q p (par p 0 1) with
  | .error e => e.reply s
  | .ok n =>
    match findPart s n with
    | none => ok (toLE 1 2 ++ zeros 15) s
    | some x =>
      let st := if !x.keyLive then 2 else if x.sweeping then 1 else 0
      let left := if x.sweeping then most ((oldLines s x).map fun t => lineCore t.line) else 0
      let ms := if x.sweeping then min (Config.elapsedMs s.draw - x.sweepSince) (2 ^ 32 - 1) else 0
      ok (toLE 1 st ++ toLE 1 (if x.gen then 1 else 0) ++ zeros 2 ++ toLE 4 x.rotations.toNat ++ toLE 4 left ++ toLE 4 ms)
        { s with draw := s.draw + 1 }

/-- The line a sweep comes to next: the lowest LINE, on every column. -/
def nextSweep : List LineTag → Option LineTag
  | [] => none
  | t :: ts => some (ts.foldl (fun b u => if lineIndex u.line < lineIndex b.line then u else b) t)

/-- The sweep reads a line and writes it back under the new generation (R391): its errors are corrected or it is formed from its
stripe, otherwise it is lost with its tag's GEN updated (R399). The spec gives this reader no code among the requesters of R197: the
code of a record is a free value (assumption 118). -/
def sweepLine (e : ReadErrors) (gen : Bool) (l : Nat) (s : State) : State :=
  let s := if lineState s l = some .valid then asRead e l (readLine (Config.freeNat s.draw 6) [] e l { s with draw := s.draw + 1 }).2
    else s
  match tagOf s.tags l with
  | none => s
  | some t => { s with tags := tagPut s.tags { t with gen := gen }, dirtyTags := touchTag l s.dirtyTags }

/-- SWEEP_REWRITE: one line takes the new generation, a lost one only in its tag; after the last the state is STABLE. -/
def sweepOne (n : BitVec 4) (e : ReadErrors) (s : State) : State :=
  match findPart s n with
  | none => s
  | some x =>
    if !x.sweeping then s
    else
      let s := match nextSweep (oldLines s x) with
        | none => s
        | some t => sweepLine e x.gen t.line s
      if (oldLines s x).isEmpty then updPart n (fun y => { y with sweeping := false }) s else s

end Sys2Proof.Machine
end

