-- ==== Sys2Proof/Machine/Starting.lean ====
section
/-! DEFINITION. Firmware (R384 to R386), attestation and service inspection (R383, R387 to R389), start-up (R417 to R422), warm
reset (R421, R424), Function Level Reset (R423) and the I3C sideband (R434). -/
namespace Sys2Proof.Machine

/-! ### Firmware images (R384 to R386) -/

/-- The first check of R385 that an image fails: form, key slot and signature, body digest, security version. -/
def imageFault (s : State) (img : List Byte) : Option Stop :=
  let body := fld img 0x10 8
  let slot := fld img 0x0C 1
  if fld img 0 4 ≠ 0x5A474657 || body + 512 ≠ img.length || body = 0 || 134217216 < body then some (badLength 1)
  else if 3 < slot || s.firmware.revoked.getLsbD slot || !Config.sm2Valid slot (img.take 64) (slice img 64 64) then
    some (badLength 2)
  else if Config.sm3 (img.drop 512) ≠ slice img 0x20 32 then some (badLength 3)
  else if fld img 8 4 < s.firmware.fusedSvn then some (.plain stNotPermitted)
  else none

/-- The image in a slot. -/
def slotImage (s : State) (b : Bool) : Option (List Byte) := if b then s.firmware.slotB else s.firmware.slotA

/-- A slot holds an image that passes R385. -/
def slotGood (s : State) (b : Bool) : Bool :=
  match slotImage s b with
  | some img => (imageFault s img).isNone
  | none => false

def setSlot (b : Bool) (img : Option (List Byte)) (s : State) : State :=
  { s with firmware := if b then { s.firmware with slotB := img } else { s.firmware with slotA := img } }

/-- A SECURITY record: 0 inspection, 1 stage, 2 activate, 3 fallback; the tracts inspected. -/
def recordSecurity (kind : Nat) (tracts : U64) (s : State) : State :=
  record 0x0A 0x61 0 none (toLE 1 kind ++ toLE 8 tracts.toNat) s

/-- FW_STAGE: the image is copied into the slot that is not running; it is checked afterwards. -/
def cmdFwStage (q : QueuePair) (p : Packet) (s : State) : Res :=
  let n := par p 8 4
  if n < 512 || 134217728 < n then fail stBadLength s
  else
    match takeBuffer s q p (par p 0 8) n with
    | .error e => e.reply s
    | .ok img =>
      let s := setSlot (!s.firmware.runsB) none s
      (.accepted, { s with firmware := { s.firmware with staging := s.firmware.staging ++ [(pktOrigin p, img)] } })

/-- FW_STAGE_DONE: after a failure the slot is left empty. -/
def stageDone (s : State) : State :=
  match s.firmware.staging with
  | [] => s
  | (o, img) :: rest =>
    let s := { s with firmware := { s.firmware with staging := rest } }
    match imageFault s img with
    | some e => finish o e.status e.detail e.result (setSlot (!s.firmware.runsB) none s)
    | none =>
      finish o stOk 0 (toLE 4 (imageVersion img).toNat) (recordSecurity 1 0 (setSlot (!s.firmware.runsB) (some img) s))

/-- FW_ACTIVATE. -/
def cmdFwActivate (_q : QueuePair) (p : Packet) (s : State) : Res :=
  let slot := par p 0 1
  if 1 < slot then fail stBadLength s
  else if !slotGood s (decide (slot = 1)) then fail stNotPermitted s
  else
    ok [] (settleReserve (recordSecurity 2 0
      { s with firmware := { s.firmware with bootB := decide (slot = 1), fallbacks := 0 } }))

/-- The slot a start runs, and whether it is the fallback; none where neither verifies. -/
def bootChoice (s : State) : Option (Bool × Bool) :=
  let b := s.firmware.bootB
  if slotGood s b then some (b, false) else if slotGood s (!b) then some (!b, true) else none

/-! ### Attestation (R387 to R389) -/

/-- The 64-byte record of a partition number (R389). -/
def partitionRecord (s : State) (n : Nat) : List Byte :=
  match findPart s (BitVec.ofNat 4 n) with
  | none => toLE 1 n ++ zeros 63
  | some p =>
    let plans := sortBy (fun (a b : Plan) => decide (a.handle.toNat ≤ b.handle.toNat)) p.plans
    let digest := if plans.isEmpty then zeros 32 else Config.sm3 (plans.flatMap fun q => Config.sm3 q.image)
    toLE 1 n ++ toLE 1 (if p.scrubbing then 2 else 1)
      ++ toLE 1 ((if p.confidential then 1 else 0) + (if p.sweeping then 2 else 0)) ++ toLE 1 (if p.gen then 1 else 0)
      ++ toLE 4 p.rotations.toNat ++ toLE 8 p.tracts.toNat ++ toLE 8 p.inst.toNat ++ toLE 4 plans.length ++ zeros 4 ++ digest

/-- Type and value of a measurement (R388); none for an index that has none. -/
def measurement (s : State) (i : Nat) : Option (Nat × List Byte) :=
  let img := runningImage s
  if i = 1 then some (0x00, Config.romDigest)
  else if i = 2 then some (0x01, slice img 0x20 32)
  else if i = 3 then
    some (0x82, toLE 4 s.firmware.fusedSvn ++ toLE 1 s.firmware.revoked.toNat ++ toLE 1 (fld img 0x0C 1)
      ++ toLE 4 (barRead s 0).toNat ++ zeros 6)
  else if i = 4 then some (0x03, Config.sm3 (match s.config.inForce with | some c => c.bytes | none => []))
  else if 0x10 ≤ i ∧ i ≤ 0x1F then some (0x84, partitionRecord s (i - 0x10))
  else none

/-- A measurement block in DMTF format: index, specification, sizes, type, value. -/
def measurementBlock (i : Nat) (m : Nat × List Byte) : List Byte :=
  toLE 1 i ++ toLE 1 1 ++ toLE 2 (m.2.length + 3) ++ toLE 1 m.1 ++ toLE 2 m.2.length ++ m.2

/-- The indices of R388. -/
def measurementIndices : List Nat := [1, 2, 3, 4] ++ (List.range 16).map (· + 0x10)

/-- An SPDM answer, signed by the alias key of this start where it is to be signed. -/
def spdmOut (body : List Byte) (signed : Bool) (nonce : List Byte) (s : State) : State :=
  { s with out := s.out ++ [.spdm body (if signed then Config.aliasSign s.firmware.aliasEpoch (nonce ++ body) else [])] }

/-- The SPDM error answer: invalid request. -/
def spdmError (s : State) : State := spdmOut [0x7F, 0x01] false [] s

/-- GET_MEASUREMENTS: index 0 asks how many there are, 0xFF for all. -/
def getMeasurements (i : Nat) (nonce : List Byte) (signed : Bool) (s : State) : State :=
  let block := fun (k : Nat) => match measurement s k with | some m => measurementBlock k m | none => []
  if i = 0 then spdmOut (toLE 1 measurementIndices.length) signed nonce s
  else if i = 0xFF then spdmOut (measurementIndices.flatMap block) signed nonce s
  else if measurementIndices.contains i then spdmOut (block i) signed nonce s
  else spdmError s

/-- The measurements that CHALLENGE_AUTH summarises: those of the start. -/
def challengeBody (s : State) : List Byte :=
  Config.sm3 (Config.certificateChain s.firmware.aliasEpoch)
    ++ Config.sm3 ([1, 2, 3].flatMap fun k => match measurement s k with | some m => measurementBlock k m | none => [])

/-- CHALLENGE: slot 0 only. -/
def challenged (slot : Nat) (nonce : List Byte) (s : State) : State :=
  if slot = 0 then spdmOut (challengeBody s) true nonce s else spdmError s

/-- GET_CERTIFICATE: a portion of slot 0's chain. -/
def certificate (slot off len : Nat) (s : State) : State :=
  let chain := Config.certificateChain s.firmware.aliasEpoch
  if slot = 0 ∧ off < chain.length then spdmOut ((chain.drop off).take len) false [] s else spdmError s

/-- A tract that service inspection may read: not of a confidential partition, not being scrubbed. -/
def inspectable (s : State) (t : Nat) : Bool :=
  match ownerOf s t with
  | some p => !p.confidential && !p.scrubbing
  | none => true

/-- SERVICE_INSPECTION. -/
def serviceInspect (token nonce : List Byte) (tracts : U64) (s : State) : State :=
  if !Config.tokenValid Config.serial token nonce then spdmError s
  else
    let ts := (tractsOf tracts).filter (inspectable s)
    if ts.isEmpty then spdmError s
    else
      let m := ts.foldl (fun (m : U64) t => m ||| (1#64 <<< t)) 0
      let s := recordSecurity 0 m s
      { s with
        draw := s.draw + 1
        out := s.out ++ ts.map fun t => .inspection t (Config.inspection t s.draw) }

/-! ### What every start does (R386, R411, R415) -/

/-- A START record: kind 0 cold, 1 warm. -/
def recordStart (kind : Nat) (fallback : Bool) (s : State) : State :=
  record 0x00 0x01 0 none
    (toLE 1 kind ++ toLE 1 (if s.firmware.runsB then 1 else 0) ++ toLE 1 (if fallback then 1 else 0) ++ zeros 1
      ++ toLE 4 (imageVersion (runningImage s)).toNat ++ toLE 4 s.start.coldCount.toNat) s

/-- The slot chosen runs; a new alias key belongs to the start. -/
def bootSlot (kind : Nat) (b fallback : Bool) (s : State) : State :=
  let f := s.firmware
  let s := recordStart kind fallback { s with
    start := { s.start with stage := 2 }
    firmware := { f with
      runsB := b, fallbacks := if fallback then f.fallbacks + 1 else f.fallbacks, aliasEpoch := f.aliasEpoch + 1 } }
  if fallback then settleReserve (recordSecurity 3 0 s) else s

/-- Neither slot verifies: recovery mode (R422). -/
def bootNone (kind : Nat) (s : State) : State :=
  recordStart kind false { s with
    start := { s.start with stage := 0xF1 }
    firmware := { s.firmware with runsB := s.firmware.bootB, aliasEpoch := s.firmware.aliasEpoch + 1 } }

/-- The running values come from the set in force; a PENDING one is rolled back. -/
def startConfig (s : State) : State := if s.config.pending then rollBack 3 s else supply s.config.inForce s

/-- A die that cannot be mapped out. -/
def floorDie (l : BitVec 5) : Bool := l = 0 || l = 1 || l = 23

/-- The start stops: the device is out of service without READY. -/
def stopAtBringUp (l : Nat) (s : State) : State :=
  outOfService 4 (setLayer l 4 { s with start := { s.start with stage := 0xF2 } })

/-- Training of every link: those without a peer are DISABLED. -/
def trainLinks (peers : List LinkPeer) (s : State) : State :=
  (List.range 64).foldl (fun s n => trainingDone n (nth peers n ⟨false, 0x7FFF, 0xFF, 0⟩) s) s

/-- READY: the fused SVN advances to the image's. -/
def reachReady (s : State) : State :=
  settleReserve { s with
    start := { s.start with stage := 0x40, ready := true, inReset := false }
    firmware := { s.firmware with fusedSvn := max s.firmware.fusedSvn (fld (runningImage s) 8 4) } }

/-! ### Cold start (R418, R419, R424) -/

/-- A FAILED unit until its test at a cold start completes; every other one is as new. -/
def coldUnit (v : NbUnit) : Option NbUnit :=
  if v.state = .failed then some { NbUnit.fresh v.unit with state := .failed, retest := true } else none

/-- The layer map that a cold start finds: a root layer mapped out in the device's life stays so (R39). -/
def coldLayers (s : State) : List (BitVec 4) :=
  match s.rootOut with
  | none => State.reset.layers
  | some f => setAt State.reset.layers f fun _ => 2

/-- VIN has reached 1.75 V: what flash, fuses and the pins hold is all that remains. -/
def coldBase (straps : BitVec 2) (s : State) : State :=
  let r := State.reset
  { r with
    pending := s.pending, out := s.out, draw := s.draw, order := s.order
    pins := { vin := true, perst := true, brake := s.pins.brake, alert := false, thermtrip := false, railOff := false }
    start := { r.start with stage := 1, i3cAddr := 0x30 + straps.setWidth 7, coldCount := s.start.coldCount + 1 }
    repairs := s.repairs, rootOut := s.rootOut, layers := coldLayers s
    units := s.units.filterMap coldUnit
    recorder := { s.recorder with inSecond := 0, dropped := 0, time := none }
    config := { s.config with applying := [] }
    firmware := { s.firmware with staging := [] } }

/-- A DRAM layer fails bring-up: nothing is in it, so nothing is reconstructed. -/
def coldLayer (l : Nat) (s : State) : State :=
  if layerState s l ≠ 0 then s
  else if l < 6 then setLayer l 3 s
  else if s.rootOut.isSome then setLayer l 4 s
  else setLayer l 2 { s with rootOut := some l }

/-- The repair map has an entry for a lane of a channel. -/
def hasRepair (s : State) (core lane : Nat) : Bool := s.repairs.any fun e => entryKey e = core * 32 + lane

/-- A lane fails its test (R32): where the map has its repair already the result adds nothing, else a spare takes its place, or its
column is rehomed with nothing copied (R425). -/
def coldLane (f : LaneFault) (s : State) : State :=
  let core := f.core.toNat
  if (channelMode s core).isSome || (!f.wholeChannel && hasRepair s core f.lane.toNat) then s
  else
    match if f.wholeChannel then none else chooseSpare s core with
    | some x =>
      laneSwitched core f.lane.toNat { s with training := s.training ++ [⟨core, f.lane.toNat, x, f.segment.toNat⟩] }
    | none =>
      let d := rehomePlace s core
      let s := setChannel core (.retired d) s
      match d with
      | none => tractOffline (tractOfCore core) s
      | some t => settleReserve (record 0x0B 0x11 1 none (toLE 4 core ++ toLE 1 t) s)

/-- READY, and at it the causes that remain: a second root layer, the regulators, a channel controller (R408). -/
def causesRemain (b : BringUp) (s : State) : State :=
  let s := if (List.range 17).any fun k => layerState s (k + 6) = 4 then outOfService 1 s else s
  let s := b.regulators.foldl (fun s r => failRegulator r.1.toNat r.2.toNat s) s
  if b.controllerFault then outOfService 3 s else s

/-- Bring-up of the layers, then links, then READY, where a cause that remains takes the device out of service. -/
def coldBringUp (b : BringUp) (s : State) : State :=
  match b.badLayers.find? floorDie with
  | some l => stopAtBringUp l.toNat s
  | none =>
    let s := b.badLayers.foldl (fun s l => coldLayer l.toNat s) s
    let s := trainPhases (b.badLanes.foldl (fun s f => coldLane f s) s)
    let s := { s with layersCold := s.layers, rehomedCold := rehomedNow s }
    causesRemain b (reachReady (trainLinks b.links s))

/-- COLD_START. -/
def coldStarted (b : BringUp) (s : State) : State :=
  let s := coldBase b.straps s
  match bootChoice s with
  | none => bootNone 0 s
  | some (x, fb) =>
    let s := startConfig (bootSlot 0 x fb s)
    coldBringUp b { s with power := { s.power with brake := s.pins.brake } }

/-! ### Warm reset (R421, R424) -/

/-- Actions that a warm reset leaves to be done: a replay has nothing left to replay. -/
def keptJobs (js : List Job) : List Job :=
  (js.filter fun j => j.act ≠ .replay).map fun j => { j with begun := false }

/-- The action that runs in a queue is abandoned; its fault remains, so it is queued again. -/
def abandonJobs (s : State) : State :=
  let s := s.partitions.foldl (fun s p =>
    match p.acting with
    | none => s
    | some j => updPart p.num (fun x => { x with acting := none, recovery := keptJobs (j :: x.recovery) })
        (if j.begun then closeJob (some p.num) j.act 1 s else s)) s
  match s.reserve.running with
  | none => s
  | some j =>
    let s := if j.begun then closeJob none j.act 1 s else s
    { s with reserve := { s.reserve with running := none, queue := keptJobs (j :: s.reserve.queue) } }

/-- LEAVE goes to the coordinator of each group that no open spanning cache pins; the others must evict this member. -/
def sendLeaves (s : State) : State :=
  s.fabric.groups.foldl (fun s g =>
    if pinned s g.part g.id then s
    else sendView g.part g.coord 0x11 g.id g.epoch 0 (toLE 4 (fabAddr s g.part)) s) s

/-- Caches with a GROUP are closed. -/
def closeSpanning (s : State) : State :=
  s.partitions.foldl (fun s p => (p.caches.filter fun c => c.group.isSome).foldl (fun s c =>
    updPart p.num (fun x => { x with caches := x.caches.filter fun k => k.handle ≠ c.handle }) (freePages p c c.used s)) s) s

/-- A page whose copy was under way stays where it is. -/
def PageEntry.settled (e : PageEntry) : PageEntry := { e with moving := Option.none, restart := false }

/-- A partition over a warm reset: no step, no command, everything else as it was. -/
def Partition.rested (p : Partition) : Partition :=
  { p with
    release := none, expired := false, switching := none, deferred := [], recovery := keptJobs p.recovery
    contexts := p.contexts.map fun c => { c with sets := [], ineligible := [], released := [], step := none }
    regions := p.regions.map fun r => { r with filling := none }
    plans := p.plans.map fun q => { q with unloading := none }
    caches := p.caches.map fun c => { c with
      migrations := [], layers := c.layers.map fun r => { r with pages := r.pages.map PageEntry.settled } } }

/-- A unit over a warm reset: memory mode, untested unless FAILED, its seal table to be reloaded from the mirror (R208). -/
def NbUnit.rested (v : NbUnit) : NbUnit :=
  { v with
    state := if v.state = .failed then .failed else .untested, processor := false, reloading := !v.seals.isEmpty
    work := none, waitingTasks := [], repairing := [], owed := List.replicate 16 0, held := 0, tested := false, retest := false }

/-- A tract starts again OFF, unless it is OFFLINE. -/
def Power.rested (w : Power) : Power :=
  { Power.fresh with
    brake := w.brake, regulators := w.regulators, device := w.device, unattributed := w.unattributed
    pubDevice := w.pubDevice, pubUnattributed := w.pubUnattributed, tracts := w.tracts.map TractRec.off }

/-- WARM_RESET: steps stop, caches are restored, tags are written back and every DRAM layer is in self-refresh. -/
def warmReset (s : State) : State :=
  if !s.start.ready then s
  else
    let s := s.partitions.foldl (fun s p => (List.range 8).foldl (fun s c => restoreCaches p.num c s) s) s
    let s := closeSpanning (sendLeaves (abandonJobs s))
    let s := enterSelfRefresh { s with dirtyTags := [] }
    let f := s.fabric
    { s with
      pins := { s.pins with perst := true }
      start := { s.start with stage := 1, ready := false, inReset := true }
      cxl := { s.cxl with
        up := false, trained := false, decoders := List.replicate 4 Decoder.fresh, ideError := [], ideKeys := [] }
      bar := Bar0.fresh
      pairs := [], loading := [], testRun := [], training := [], groves := [], routers := [], unitsPassed := false
      partitions := s.partitions.map Partition.rested
      units := s.units.map NbUnit.rested
      fabric := { Fabric.fresh with
        devId := f.devId, links := f.links.map fun l => if l.state = .disabled then l else l.restart .training }
      power := s.power.rested
      config := { s.config with applying := [] }
      firmware := { s.firmware with staging := [] }
      reserve := { s.reserve with queue := keptJobs s.reserve.queue } }

/-- Every partition is scrubbed: the image has changed. -/
def scrubAll (s : State) : State :=
  s.partitions.foldl (fun s p => endScrub p.num (beginScrub p.num none s)) s

/-- The second half of a warm reset: PERST# is released. -/
def warmStarted (b : BringUp) (s : State) : State :=
  let old := runningImage s
  let s := { s with pins := { s.pins with perst := false } }
  match bootChoice s with
  | none =>
    let s := bootNone 1 s
    { s with start := { s.start with inReset := false } }
  | some (x, fb) =>
    let s := bootSlot 1 x fb s
    let s := trainPhases (exitSelfRefresh s)
    let s := if fb || runningImage s ≠ old then scrubAll s else s
    let s := startConfig { s with power := { s.power with brake := s.pins.brake } }
    match b.badLayers.find? floorDie with
    | some l =>
      let s := stopAtBringUp l.toNat s
      { s with start := { s.start with inReset := false } }
    | none => b.badLayers.foldl (fun s l => wholeLayerFault l.toNat s) (reachReady (trainLinks b.links s))

/-- PERST_DEASSERT. -/
def perstReleased (b : BringUp) (s : State) : State :=
  if s.start.inReset then warmStarted b s else { s with pins := { s.pins with perst := false } }

/-- A reset of the port before READY: the start goes on. -/
def portReset (s : State) : State :=
  if s.start.ready then s
  else { s with pins := { s.pins with perst := true }, cxl := { s.cxl with up := false, trained := false } }

/-- The link has trained and STAGE has reached 0x04. -/
def configurationReady (s : State) : State :=
  if s.pins.perst || s.cxl.trained || s.start.stage.toNat < 4 || s.start.inReset then s else cxlRetrained s

/-! ### Function Level Reset (R423) -/

/-- Nobody is answered any more. -/
def Origin.ended (o : Origin) : Origin := { o with dead := true }
def Held.ended (h : Held) : Held := { h with origin := h.origin.ended }
def Batch.ended (b : Batch) : Batch := { b with steps := b.steps.map Held.ended }

/-- A partition whose commands have ended without a completion: held steps are gone, released ones run to their end. -/
def Partition.unanswered (p : Partition) : Partition :=
  { p with
    release := p.release.map Origin.ended
    deferred := []
    contexts := p.contexts.map fun c => { c with
      sets := [], ineligible := [], released := c.released.map Batch.ended
      step := c.step.map fun r => { r with batch := r.batch.ended } }
    regions := p.regions.map fun r => { r with filling := r.filling.map Origin.ended }
    plans := p.plans.map fun q => { q with unloading := q.unloading.map Origin.ended }
    caches := p.caches.map fun c => { c with migrations := [] } }

/-- FUNCTION_LEVEL_RESET. -/
def functionReset (s : State) : State :=
  let group : Group → Group := fun g => { g with waiters := g.waiters.map Origin.ended, leaver := g.leaver.map Origin.ended }
  let stage : Origin × List Byte → Origin × List Byte := fun x => (x.1.ended, x.2)
  { s with
    pairs := [], loading := []
    bar := { s.bar with
      agreed := 0, negotiated := false, admqEn := false, admqDel := false, events := 0, mask := 0
      msix := List.replicate 65 MsixEntry.fresh, pba := 0 }
    partitions := s.partitions.map Partition.unanswered
    fabric := { s.fabric with groups := s.fabric.groups.map group }
    testRun := s.testRun.map Origin.ended
    config := { s.config with applying := s.config.applying.map stage }
    firmware := { s.firmware with staging := s.firmware.staging.map stage } }

/-! ### The I3C sideband (R434) -/

/-- The highest temperature of the DRAM layers. -/
def hottestDram (s : State) : Int := maxTemp ((List.range 21).map fun i => shownHottest s (i + 2))

/-- A sideband register. -/
def sideband (s : State) (off : Nat) : U32 :=
  if off = 0 then
    BitVec.ofNat 32 (s.start.stage.toNat + (if s.start.ready then 2 ^ 8 else 0) + (if s.start.oos then 2 ^ 9 else 0)
      + (if reserveLow s then 2 ^ 10 else 0) + (if s.pins.alert then 2 ^ 11 else 0))
  else if off = 4 then fld32 (toLEInt 2 (shownHottest s 0) ++ toLEInt 2 (hottestDram s)) 0
  else if off = 8 then BitVec.ofNat 32 (statusPower s % 2 ^ 16 + 2 ^ 16 * (shownCap s % 2 ^ 16))
  else if off = 12 then
    BitVec.ofNat 32 (thermalState s + (if s.thermal.flowLow then 8 else 0))
  else 0

/-- I3C_READ: the target answers from STAGE 0x01 on, while VIN is present. -/
def i3cAnswer (off : Nat) (s : State) : State :=
  { s with out := s.out ++ [.i3c (if s.pins.vin && s.start.stage ≠ 0 then some (sideband s off) else none)] }

end Sys2Proof.Machine
end

