-- ==== Sys2Proof/Machine/Packets.lean ====
section
/-! DEFINITION. A command packet from the ring to its completion: fetch (R319), the checks of R325, FENCE (R324), the command's
own part by its opcode (R331), and what follows by itself once commands or steps have ended. -/
namespace Sys2Proof.Machine

/-! ### Fetching (R319) -/

/-- The next entry of a pair can be fetched: in recovery mode from pair 0 alone (R422). -/
def canFetch (s : State) (q : QueuePair) : Bool :=
  hostReach s && controlOpen s && (s.start.ready || q.qp = 0) && q.state = .active && q.tail ≠ q.fetch && q.room

/-- The entry at the fetch point has been read. -/
def QueuePair.fetched (q : QueuePair) (p : Packet) : QueuePair :=
  { q with fetch := (q.fetch + 1) % q.depth, outstanding := q.outstanding ++ [⟨p.tag, p.opcode, false, false⟩] }

/-! ### Parameters (R322, R323) -/

/-- PLEN without its reserved bits. -/
def plenOf (p : Packet) : Nat := p.plen.toNat % 2 ^ 20

/-- The parameter bytes, or why they cannot be had (check 10). -/
def paramBytes (s : State) (q : QueuePair) (p : Packet) : Except Stop (List Byte) :=
  if pktInline p then .ok (p.inl.take (plenOf p))
  else if isDevice p.paddr.toNat then
    match bufferAddrs s q.operator (pktPart p) p.paddr.toNat (plenOf p) with
    | some addrs => readBuffer s addrs
    | none => .error ⟨stExceeds, 0x05000000, []⟩
  else
    match p.hostParams with
    | some b => .ok (padTo (plenOf p) b)
    | none => .error (badLength 4)

/-- A field of the parameters, where they can be read at all. -/
def peek (s : State) (q : QueuePair) (p : Packet) (off len : Nat) : Nat :=
  match paramBytes s q p with
  | .ok b => fld b off len
  | .error _ => 0

/-! ### The checks of R325 -/

/-- Class of an opcode. -/
def clsOf (p : Packet) : Nat := p.opcode.toNat / 256

/-- The command acts on its issuing partition (R325). -/
def actsOn (s : State) (q : QueuePair) (p : Packet) : Bool :=
  let c := p.opcode.toNat
  clsOf p = 4 || clsOf p = 5 || clsOf p = 0x0C || [0x0301, 0x0302, 0x0303, 0x0601, 0x0710, 0x0711, 0x0712, 0x0713].contains c
    || ([0x0A03, 0x0A04, 0x0A10, 0x0A11].contains c && peek s q p 0 1 = 0xFF)
    || (c = 0x0602 && peek s q p 0 4 = 0xFF)
    || (c = 0x0804 && peek s q p 0 1 = 0 && peek s q p 1 1 = 0xFF)

/-- PARTITION and CONTEXT agree with the binding (R317); where the command acts on its partition, that exists, and so does the
context of a command that uses one. -/
def bindingOk (s : State) (q : QueuePair) (p : Packet) : Bool :=
  (match q.part with | some n => decide (p.part.toNat = n.toNat) | none => true)
    && (match q.ctx with | some c => decide (p.ctx.toNat = c.toNat) | none => true)
    && (!actsOn s q p || (decide (p.part.toNat ≤ 15) && (findPart s (pktPart p)).isSome
        && (decide (p.ctx.toNat ≤ 7) || (clsOf p ≠ 4 && clsOf p ≠ 5))))

/-- What recovery mode accepts (R422). -/
def recoveryAccepts (p : Packet) : Bool := [0x0A20, 0x0A21, 0x0201].contains p.opcode.toNat

/-- The issuing partition is being scrubbed. -/
def issuerScrubbing (s : State) (p : Packet) : Bool :=
  match findPart s (pktPart p) with
  | some x => x.scrubbing
  | none => false

/-- Commands that the device out of service still carries out (R408). -/
def servedOos (p : Packet) : Bool := [0x0103, 0x0102, 0x0B02, 0x0201, 0x0B01].contains p.opcode.toNat

/-- An operator pair names a confidential partition with a command that is closed to it (R396). -/
def deniedConfidential (s : State) (q : QueuePair) (p : Packet) : Bool :=
  q.operator && (clsOf p = 4 || clsOf p = 5 || clsOf p = 0x0C || [0x0301, 0x0302, 0x0303, 0x0601].contains p.opcode.toNat)
    && (match findPart s (pktPart p) with | some x => x.confidential | none => false)

/-- Checks 1 to 9, in order: the first failure. -/
def headerFault (s : State) (q : QueuePair) (p : Packet) : Option Stop :=
  match findCommand p.opcode.toNat with
  | none => some (.plain stBadOpcode)
  | some row =>
    if p.plen.toNat / 2 ^ 20 ≠ 0 then some (badLength 1)
    else if plenOf p = 0 then some (.plain stOk)
    else if !agreed s featBase || !agreed s row.feature || (pktExpert p && !agreed s featExpert) then some (.plain stFeature)
    else if !bindingOk s q p || (row.operatorOnly && !q.operator) || (!s.start.ready && !recoveryAccepts p) then
      some (.plain stNotPermitted)
    else if actsOn s q p && issuerScrubbing s p && p.opcode ≠ 0x0A03 then some (.plain stScrubbing)
    else if (row.expert && !pktExpert p) || (pktExpert p && !q.expertOk) then some (.plain stExpert)
    else if p.cfgver ≠ 0 && p.cfgver ≠ cfgVersion s then some (.plain stConfig)
    else if pktInline p && decide (96 < plenOf p) then some (badLength 2)
    else if !row.accepts (plenOf p) then some (badLength 3)
    else none

/-- All checks before the command's own: the packet with its parameters in place, or the failure. -/
def passChecks (s : State) (q : QueuePair) (p : Packet) : Except Stop Packet :=
  match headerFault s q p with
  | some e => .error e
  | none =>
    match paramBytes s q p with
    | .error e => .error e
    | .ok b =>
      if s.start.oos && !servedOos p then .error (lostData 5 0xFFFFF 0 0)
      else if deniedConfidential s q p then .error (.plain stConfidential)
      else .ok { p with inl := padTo 96 b }

/-! ### Running a command -/

/-- A command's own part. -/
abbrev CmdBody := QueuePair → Packet → State → Res

/-- The command's own part by its opcode, for a command that starts after its fetch (R324). -/
def commandBodies : List (Nat × CmdBody) :=
  [(0x0101, cmdQueueCreate), (0x0102, cmdQueueDelete), (0x0103, cmdQueueStatus), (0x0201, cmdConfigRead),
   (0x0202, cmdConfigApply), (0x0203, cmdConfigConfirm), (0x0204, cmdConfigRollback), (0x0301, cmdRegionAlloc),
   (0x0302, cmdRegionFree), (0x0303, cmdRegionQuery), (0x0310, cmdHdmBind), (0x0311, cmdHdmUnbind),
   (0x0312, cmdHdmStatus), (0x0401, cmdStepSubmit), (0x0402, cmdPlanLoad), (0x0403, cmdPlanUnload),
   (0x0404, cmdStepCancel), (0x0405, cmdBatchSet), (0x0406, cmdContextSet), (0x0501, cmdCacheOpen),
   (0x0502, cmdCacheClose), (0x0503, cmdCacheSeq)] ++
  [(0x0504, cmdCacheSeqQuery), (0x0505, cmdCacheMigrate), (0x0506, cmdCacheStatus), (0x0601, cmdClearingDivision),
   (0x0602, cmdClearingStatus), (0x0603, cmdClearingTestSet), (0x0701, cmdFabricId), (0x0702, cmdRouteSet),
   (0x0703, cmdRouteRead), (0x0704, cmdLinkStatus), (0x0705, cmdLinkControl), (0x0710, cmdGroupJoin),
   (0x0711, cmdGroupAdmin), (0x0712, cmdGroupStatus), (0x0713, cmdPaceSet), (0x0740, cmdNetDistance),
   (0x0801, cmdPowerCap), (0x0802, cmdPowerStatus), (0x0803, cmdFixedFreq), (0x0804, cmdEnergyRead)] ++
  [(0x0901, cmdCoolantSet), (0x0902, cmdThermalStatus), (0x0903, cmdThermalResponse), (0x0A01, cmdPartitionCreate),
   (0x0A02, cmdPartitionRelease), (0x0A03, cmdPartitionStatus), (0x0A04, cmdConfidentialSet), (0x0A10, cmdKeyRotate),
   (0x0A11, cmdKeyStatus), (0x0A20, cmdFwStage), (0x0A21, cmdFwActivate), (0x0B01, cmdTimeSet),
   (0x0B02, cmdReserveStatus), (0x0B12, cmdMemregRead), (0x0B13, cmdMemregWrite), (0x0B20, cmdRepairMap),
   (0x0B21, cmdLayerMap), (0x0C01, cmdHealthRingSet), (0x0C02, cmdHealthRingStatus), (0x0D10, cmdLatticeCounters),
   (0x0D11, cmdClearingCounters), (0x0D12, cmdNetCounters)]

def commandBody (p : Packet) : CmdBody :=
  match commandBodies.find? fun c => c.1 = p.opcode.toNat with
  | some c => c.2
  | none => fun _ _ s => fail stBadOpcode s

/-- ACCEPTED, once for a command. -/
def accept (o : Origin) (s : State) : State :=
  match findPair s o.qp with
  | some q => if q.unaccepted o.tag then post o.qp ⟨o.tag, stAccepted, 0, []⟩ s else s
  | none => s

/-- Post what a command's own part answers. -/
def deliver (p : Packet) (r : Res) : State :=
  match r.1 with
  | .done st d b => finish (pktOrigin p) st d b r.2
  | .accepted => accept (pktOrigin p) r.2
  | .acceptedThen st d b => finish (pktOrigin p) st d b (accept (pktOrigin p) r.2)
  | .waits => r.2

/-! ### FENCE (R324) -/

/-- A command with FENCE that waits for the earlier ones; a step submission does not. -/
def waitsFence (p : Packet) : Bool := pktFence p && p.opcode ≠ 0x0401

/-- The newest command fetched waits. -/
def holdLast : List Outstanding → List Outstanding
  | [] => []
  | [o] => [{ o with waits := true }]
  | o :: os => o :: holdLast os

/-- The oldest command that waits starts. -/
def startFirst : List Outstanding → List Outstanding
  | [] => []
  | o :: os => if o.waits then { o with waits := false } :: os else o :: startFirst os

/-- No command fetched before the oldest one that waits is without its final completion. -/
def QueuePair.clear (q : QueuePair) : Bool :=
  match q.outstanding with
  | o :: _ => o.waits
  | [] => true

/-- The oldest command of a pair that has not started may start: with FENCE once every earlier one has posted its final
completion. -/
def startHead (qp : BitVec 6) (s : State) : State :=
  match findPair s qp with
  | none => s
  | some q =>
    match q.fenced with
    | [] => s
    | p :: rest =>
      if waitsFence p && !q.clear then s
      else deliver p (commandBody p q p (updPair qp (fun q => { q with
        fenced := rest, outstanding := startFirst q.outstanding }) s))

/-- Everything that follows by itself: steps that may be released, recovery actions that begin, commands that waited for a step
or for earlier commands. -/
def settleOnce (s : State) : State :=
  let s := finishDeletions (finishUnloads (runDeferred (beginJobs (pump (settleReserve s)))))
  (s.pairs.map (·.qp)).foldl (fun s qp => startHead qp s) s

/-- Rounds of `settleOnce`: each command that waits can start in one of them. -/
def settle (s : State) : State := Nat.repeat settleOnce (2 + (s.pairs.map fun q => q.fenced.length).sum) s

/-! ### A packet -/

/-- A command that has been fetched and has passed its checks starts, or waits behind a FENCE; a step submission starts when it is
fetched (R162, R324). -/
def launchCommand (q : QueuePair) (body : CmdBody) (p : Packet) (s : State) : State :=
  if p.opcode = 0x0401 || (q.fenced.isEmpty && (!waitsFence p || q.outstanding.isEmpty)) then deliver p (body q p s)
  else updPair p.qp (fun q => { q with fenced := q.fenced ++ [p], outstanding := holdLast q.outstanding }) s

/-- The entry of pair `p.qp` at its fetch point, which is `p`, is fetched; nothing happens where the fetcher cannot fetch. -/
def fetchPacket (body : CmdBody) (p : Packet) (s : State) : State :=
  match findPair s p.qp with
  | none => s
  | some q =>
    if !canFetch s q then s
    else
      let s := updPair p.qp (fun q => q.fetched p) s
      settle (match passChecks s q p with
        | .error e => finish (pktOrigin p) e.status e.detail e.result s
        | .ok p => launchCommand q body p s)

/-! ### Events -/

/-- Rangers run: not stopped, not within a reset, not in recovery mode. -/
def started (s : State) : Bool := alive s && !s.start.inReset && s.start.stage ≠ 0 && s.start.stage ≠ 0xF1

/-- An event of the running device. -/
def event (f : State → State) (s : State) : State := if started s then settle (f s) else s

/-- An event of the floor's own hardware, which runs whenever VIN is present and the clocks have not been stopped. -/
def floorEvent (f : State → State) (s : State) : State := if alive s then settle (f s) else s

/-- An access of the host to a register. -/
def hostAccess (f : State → State) (s : State) : State := if hostReach s then settle (f s) else s

/-- The tracts of an operator's placement set run; one that is OFFLINE takes no part (R353, R402). -/
def tractsRun (s : State) (part : BitVec 4) (op : Nat) : Bool :=
  match findPart s part with
  | none => false
  | some p =>
    match (p.context p.current.toNat).step.bind fun r => p.plan r.batch.plan with
    | none => false
    | some q => (tractsOf (opTracts q (nth q.ops op []))).all fun t =>
        (findTract s t).power = .running || (findTract s t).power = .offline

/-- An operator row: it takes effect where the operator may start and its tracts run. -/
def operatorEvent (part : BitVec 4) (op : Nat) (f : State → State) (s : State) : State :=
  if started s && tractsRun s part op then settle (f s) else s

/-- The outcome of a row: its effect, or the fault for operands that nobody can form. -/
def answer (wf : Bool) (s : State) : Host.Outcome State Fault Refusal := if wf then .next s else .fault .illFormed

end Sys2Proof.Machine
end

