-- ==== Sys2Proof/WellFormed.lean ====
section
/-! DEFINITION. Which commands a sender can form: operands that name something the block has (a layer, a
regulator, a sensor, a lane) and data of the size its port carries. -/
namespace Sys2Proof

/-- A submission entry is 128 bytes: its inline part is 96 (R322). A row's packet carries the row's opcode, or one that no row
has (R325 check 1). -/
def Packet.wf (p : Packet) (code : Nat) : Bool :=
  p.inl.length = 96 && (p.opcode.toNat = code || (Machine.findCommand p.opcode.toNat).isNone)

/-- A row's packet of the fabric is of the row's type (R282). -/
def FabPacket.wf (p : FabPacket) (ptype : Byte) : Bool := p.ptype = ptype

/-- A layer whose regulators measure leakage: L1 to L22 (R336, R366). -/
def leakLayer (l : BitVec 5) : Bool := 1 ≤ l.toNat && l.toNat ≤ 22

/-- A DRAM layer: physical 2 to 22 (R191, R194). -/
def dramLayer (l : BitVec 5) : Bool := 2 ≤ l.toNat && l.toNat ≤ 22

/-- A die of the stack: 0 to 23. -/
def stackDie (l : BitVec 5) : Bool := l.toNat ≤ 23

/-- A lane of a channel that a repair can replace: 0 to 22 (R34). -/
def laneWf (lane : BitVec 5) : Bool := lane.toNat ≤ 22

/-- A lane fault: a lane that a repair can replace, and the layer at or below which it was found, 31 if not located (R34). -/
def LaneFault.wf (f : LaneFault) : Bool := laneWf f.lane && (f.segment.toNat ≤ 22 || f.segment = 31)

/-- A regulator of R336. -/
def regulatorWf (die : BitVec 5) (index : BitVec 10) : Bool :=
  if die = 0 then true
  else if die.toNat ≤ 22 then index.toNat < 64
  else die.toNat = 23 && index.toNat < 32

/-- A sensor of R363. -/
def Reading.wf (r : Reading) : Bool :=
  if r.die = 0 then r.sensor < 2048 else r.die.toNat ≤ 23 && r.sensor < 64

/-- One power period counts every tract (R345). -/
def PowerSample.wf (p : PowerSample) : Bool := p.counts.length = 64

/-- A slice uses at most 131 near-bank cycles (R209). -/
def BoundaryWork.wf (w : BoundaryWork) : Bool := w.cycles ≤ 131

/-- A scrubbed line lies in a DRAM layer, its changed symbols among the 76 of the codeword (R185, R186, R192). -/
def ScrubRead.wf (r : ScrubRead) : Bool := dramLayer r.layer && (r.symbols ++ r.again).all fun e => e.1 < 76

/-- A router has a neighbour north, south, east or west (R250). -/
def meshPort (g : BitVec 12) (d : Nat) : Bool :=
  match d with
  | 0 => 64 ≤ g.toNat
  | 1 => g.toNat < 4032
  | 2 => g.toNat % 64 < 63
  | 3 => 0 < g.toNat % 64
  | _ => false

/-- A packet of the canopy network: 1 or 2 flits on the control VC, 1 to 17 on the others; multicast on the reduction and bulk
VCs only (R251, R252, R256). -/
def NetPacket.wf (p : NetPacket) : Bool :=
  1 ≤ p.flits && (if p.kind.vc = 0 then p.flits ≤ 2 else p.flits ≤ 17) &&
    match p.dest with
    | .grove _ => true
    | .multicast _ _ => p.kind.vc = 1 || p.kind.vc = 2
    | .shaft s => s.toNat ≤ 16

/-- A port at which a packet can arrive: a neighbour's link, the grove's own port for a packet of the grove, or a shaft's where one
attaches (R250, R257). -/
def arrivalPort (g : BitVec 12) (port : BitVec 3) (p : NetPacket) : Bool :=
  if port = 4 then p.src = g
  else if port = 5 then p.src = g && (List.range 17).any fun sh => (Machine.attachRouters sh).contains g.toNat
  else meshPort g port.toNat

/-- A command that a channel controller sends: bits [29:19] and OP 7 stay unused, and both parities are right (R26). -/
def channelCmdWf (w : U32) : Bool :=
  Machine.channelAccepts (w.toNat / 8 % 32) w || (w.toNat / 8 % 32 = 31 && Machine.channelAccepts 2 w)

/-- What expires from a window names a DRAM layer (R194, R403). -/
def WindowKind.wf : WindowKind → Bool
  | .overflow l => dramLayer l
  | .unexplained => true

/-- A CXL.mem access stays within one 64-byte line. -/
def lineAccess (hpa : U64) (len : Nat) : Bool := hpa.toNat % 64 + len ≤ 64

/-- What a start's tests can find. -/
def BringUp.wf (b : BringUp) : Bool :=
  b.badLayers.all stackDie && b.badLanes.all LaneFault.wf && b.links.length ≤ 64 && b.regulators.all fun r => regulatorWf r.1 r.2

/-- The well-formed commands. -/
def Instr.wf : Instr → Bool
  | .coldStart b => b.wf
  | .perstDeassert b => b.wf
  | .queueCreate p => p.wf 0x0101
  | .queueDelete p => p.wf 0x0102
  | .queueStatus p => p.wf 0x0103
  | .configRead p => p.wf 0x0201
  | .configApply p => p.wf 0x0202
  | .configConfirm p => p.wf 0x0203
  | .configRollback p => p.wf 0x0204
  | .regionAlloc p => p.wf 0x0301
  | .regionFree p => p.wf 0x0302
  | .regionQuery p => p.wf 0x0303
  | .hdmBind p => p.wf 0x0310
  | .hdmUnbind p => p.wf 0x0311
  | .hdmStatus p => p.wf 0x0312
  | .stepSubmit p => p.wf 0x0401
  | .planLoad p => p.wf 0x0402
  | .planUnload p => p.wf 0x0403
  | .stepCancel p => p.wf 0x0404
  | .batchSet p => p.wf 0x0405
  | .contextSet p => p.wf 0x0406
  | .cacheOpen p => p.wf 0x0501
  | .cacheClose p => p.wf 0x0502
  | .cacheSeq p => p.wf 0x0503
  | .cacheSeqQuery p => p.wf 0x0504
  | .cacheMigrate p => p.wf 0x0505
  | .cacheStatus p => p.wf 0x0506
  | .clearingDivision p => p.wf 0x0601
  | .clearingStatus p => p.wf 0x0602
  | .clearingTestSet p => p.wf 0x0603
  | .fabricIdSet p => p.wf 0x0701
  | .routeSet p => p.wf 0x0702
  | .routeRead p => p.wf 0x0703
  | .linkStatus p => p.wf 0x0704
  | .linkControl p => p.wf 0x0705
  | .groupJoin p => p.wf 0x0710
  | .groupAdmin p => p.wf 0x0711
  | .groupStatus p => p.wf 0x0712
  | .paceSet p => p.wf 0x0713
  | .netDistanceRead p => p.wf 0x0740
  | .powerCapSet p => p.wf 0x0801
  | .powerStatus p => p.wf 0x0802
  | .fixedFreqSet p => p.wf 0x0803
  | .energyRead p => p.wf 0x0804
  | .coolantSet p => p.wf 0x0901
  | .thermalStatus p => p.wf 0x0902
  | .thermalResponseSet p => p.wf 0x0903
  | .partitionCreate p => p.wf 0x0A01
  | .partitionRelease p => p.wf 0x0A02
  | .partitionStatus p => p.wf 0x0A03
  | .confidentialSet p => p.wf 0x0A04
  | .keyRotate p => p.wf 0x0A10
  | .keyStatus p => p.wf 0x0A11
  | .fwStage p => p.wf 0x0A20
  | .fwActivate p => p.wf 0x0A21
  | .timeSet p => p.wf 0x0B01
  | .reserveStatus p => p.wf 0x0B02
  | .memregRead p => p.wf 0x0B12
  | .memregWrite p => p.wf 0x0B13
  | .repairMapRead p => p.wf 0x0B20
  | .layerMapRead p => p.wf 0x0B21
  | .healthRingSet p => p.wf 0x0C01
  | .healthRingStatus p => p.wf 0x0C02
  | .latticeCountersRead p => p.wf 0x0D10
  | .clearingCountersRead p => p.wf 0x0D11
  | .netCountersRead p => p.wf 0x0D12
  | .sliceBoundary _ w => w.wf
  | .refreshDue _ layer => dramLayer layer
  | .channelCommandTimeout _ cmd => channelCmdWf cmd
  | .laneFailing f => f.wf
  | .laneSwitchOver _ lane => laneWf lane
  | .scrubPassStart layer => dramLayer layer
  | .scrubRead r => r.wf
  | .wholeLayerFault layer => stackDie layer
  | .cxlMemRead hpa len _ => lineAccess hpa len
  | .cxlMemWrite hpa bs _ => lineAccess hpa bs.length
  | .networkPacketArrival grove p => p.packet.wf && arrivalPort grove p.port p.packet
  | .meshFlitResend grove dir => meshPort grove dir.toNat
  | .meshWireFailing grove dir _ => meshPort grove dir.toNat
  | .meshLinkDegrade grove dir _ => meshPort grove dir.toNat
  | .flitReceive _ flit _ => decide (flit.length = 256)
  | .data p => p.wf 0x01
  | .segment p => p.wf 0x02
  | .token p => p.wf 0x03
  | .agree p => p.wf 0x04
  | .join p => p.wf 0x10
  | .leave p => p.wf 0x11
  | .prepare p => p.wf 0x12
  | .ready p => p.wf 0x13
  | .commit p => p.wf 0x14
  | .abandon p => p.wf 0x15
  | .pace p => p.wf 0x18
  | .unreachable p => p.wf 0x1C
  | .refused p => p.wf 0x1D
  | .powerPeriod p => p.wf
  | .regulatorFailure die index => regulatorWf die index
  | .pathCheck die index _ _ => regulatorWf die index
  | .sensorSample readings => readings.all Reading.wf
  | .abruptRecheck readings => readings.all Reading.wf
  | .leakageMeasure layer _ _ => leakLayer layer
  | .ovfWindowExpiry kind => kind.wf
  | _ => true

end Sys2Proof
end

