-- ==== Sys2Proof/Machine/RowsFabric.lean ====
section
/-! DEFINITION. One meaning for each row of the table: the canopy network and the fabric. -/
namespace Sys2Proof.Machine

/-- FABRIC_ID_SET (R280). -/
def execFabricIdSet (p : Packet) (s : State) : Host.Outcome State Fault Refusal :=
  answer (p.wf 0x0701) (fetchPacket cmdFabricId p s)

/-- ROUTE_SET (R287). -/
def execRouteSet (p : Packet) (s : State) : Host.Outcome State Fault Refusal :=
  answer (p.wf 0x0702) (fetchPacket cmdRouteSet p s)

/-- ROUTE_READ (R287). -/
def execRouteRead (p : Packet) (s : State) : Host.Outcome State Fault Refusal :=
  answer (p.wf 0x0703) (fetchPacket cmdRouteRead p s)

/-- LINK_STATUS (R278). -/
def execLinkStatus (p : Packet) (s : State) : Host.Outcome State Fault Refusal :=
  answer (p.wf 0x0704) (fetchPacket cmdLinkStatus p s)

/-- LINK_CONTROL (R279). -/
def execLinkControl (p : Packet) (s : State) : Host.Outcome State Fault Refusal :=
  answer (p.wf 0x0705) (fetchPacket cmdLinkControl p s)

/-- GROUP_JOIN (R292). -/
def execGroupJoin (p : Packet) (s : State) : Host.Outcome State Fault Refusal :=
  answer (p.wf 0x0710) (fetchPacket cmdGroupJoin p s)

/-- GROUP_ADMIN (R293). -/
def execGroupAdmin (p : Packet) (s : State) : Host.Outcome State Fault Refusal :=
  answer (p.wf 0x0711) (fetchPacket cmdGroupAdmin p s)

/-- GROUP_STATUS (R294). -/
def execGroupStatus (p : Packet) (s : State) : Host.Outcome State Fault Refusal :=
  answer (p.wf 0x0712) (fetchPacket cmdGroupStatus p s)

/-- PACE_SET (R300). -/
def execPaceSet (p : Packet) (s : State) : Host.Outcome State Fault Refusal :=
  answer (p.wf 0x0713) (fetchPacket cmdPaceSet p s)

/-- NET_DISTANCE_READ (R264). -/
def execNetDistanceRead (p : Packet) (s : State) : Host.Outcome State Fault Refusal :=
  answer (p.wf 0x0740) (fetchPacket cmdNetDistance p s)

/-- A step with nothing to take up lets the network run for a cycle, while a flit or a wait is left in it (R253). -/
def idle (s : State) : State := if netQuiet s then s else event netCycle s

/-- NETWORK_PACKET_ARRIVAL (R255). -/
def execNetworkPacketArrival (grove : BitVec 12) (p : PortPacket) (s : State) :
    Host.Outcome State Fault Refusal :=
  answer (p.packet.wf && arrivalPort grove p.port p.packet) (event (netArrival grove.toNat p.port.toNat p.packet) s)

/-- MESH_FLIT_RESEND (R251). -/
def execMeshFlitResend (grove : BitVec 12) (dir : BitVec 2) (s : State) : Host.Outcome State Fault Refusal :=
  answer (meshPort grove dir.toNat) (event (meshResend grove.toNat dir.toNat) s)

/-- MESH_WIRE_FAILING (R251). -/
def execMeshWireFailing (grove : BitVec 12) (dir : BitVec 2) (wire : WireErrors) (s : State) :
    Host.Outcome State Fault Refusal :=
  answer (meshPort grove dir.toNat) (event (meshWire grove.toNat dir.toNat wire.wire wire.corrections) s)

/-- MESH_LINK_DEGRADE (R262). -/
def execMeshLinkDegrade (grove : BitVec 12) (dir : BitVec 2) (stage : MeshStage) (s : State) : Host.Outcome State Fault Refusal :=
  answer (meshPort grove dir.toNat) (event (meshDegrade grove.toNat dir.toNat stage) s)

/-- FLIT_RECEIVE (R272). -/
def execFlitReceive (link : BitVec 6) (flit : List Byte) (fecFailed : Bool) (s : State) : Host.Outcome State Fault Refusal :=
  answer (decide (flit.length = 256)) (event (flitReceived link.toNat flit fecFailed) s)

/-- ACK_DEADLINE (R273). -/
def execAckDeadline (link : BitVec 6) (s : State) : Host.Outcome State Fault Refusal :=
  .next (event (ackDeadline link.toNat) s)

/-- LOSS_OF_LOCK (R277). -/
def execLossOfLock (link : BitVec 6) (s : State) : Host.Outcome State Fault Refusal :=
  .next (event (failLink link.toNat) s)

/-- LINK_LANE_FAILURE (R277). -/
def execLinkLaneFailure (link : BitVec 6) (lane : BitVec 3) (s : State) : Host.Outcome State Fault Refusal :=
  .next (event (laneFailure link.toNat lane.toNat) s)

/-- LINK_RETRAIN_TIMER (R276). -/
def execLinkRetrainTimer (link : BitVec 6) (s : State) : Host.Outcome State Fault Refusal :=
  .next (event (retrainTimer link.toNat) s)

/-- LINK_TRAINING_DONE (R276). -/
def execLinkTrainingDone (link : BitVec 6) (peer : LinkPeer) (s : State) : Host.Outcome State Fault Refusal :=
  .next (event (trainingDone link.toNat peer) s)

/-- UNROUTABLE_RETRY (R285). -/
def execUnroutableRetry (s : State) : Host.Outcome State Fault Refusal :=
  .next (event unroutableRetry s)

/-- DATA (R282). -/
def execData (p : FabPacket) (s : State) : Host.Outcome State Fault Refusal :=
  answer (p.wf 0x01) (event (receive p (dataHandler p)) s)

/-- SEGMENT (R295). -/
def execSegment (p : FabPacket) (s : State) : Host.Outcome State Fault Refusal :=
  answer (p.wf 0x02) (event (receive p (segmentHandler p)) s)

/-- TOKEN (R297). -/
def execToken (p : FabPacket) (s : State) : Host.Outcome State Fault Refusal :=
  answer (p.wf 0x03) (event (receive p (tokenHandler p)) s)

/-- AGREE (R234). -/
def execAgree (p : FabPacket) (s : State) : Host.Outcome State Fault Refusal :=
  answer (p.wf 0x04) (event (receive p (agreeHandler p)) s)

/-- JOIN (R290). -/
def execJoin (p : FabPacket) (s : State) : Host.Outcome State Fault Refusal :=
  answer (p.wf 0x10) (event (receive p (joinHandler p)) s)

/-- LEAVE (R290). -/
def execLeave (p : FabPacket) (s : State) : Host.Outcome State Fault Refusal :=
  answer (p.wf 0x11) (event (receive p (leaveHandler p)) s)

/-- VIEW_GATHER_EXPIRY (R290). -/
def execViewGatherExpiry (part : BitVec 4) (group : U32) (s : State) : Host.Outcome State Fault Refusal :=
  .next (event (gatherExpiry part group) s)

/-- PREPARE (R290). -/
def execPrepare (p : FabPacket) (s : State) : Host.Outcome State Fault Refusal :=
  answer (p.wf 0x12) (event (receive p (prepareHandler p)) s)

/-- READY (R291). -/
def execReady (p : FabPacket) (s : State) : Host.Outcome State Fault Refusal :=
  answer (p.wf 0x13) (event (receive p (readyHandler p)) s)

/-- COMMIT (R290). -/
def execCommit (p : FabPacket) (s : State) : Host.Outcome State Fault Refusal :=
  answer (p.wf 0x14) (event (receive p (commitHandler p)) s)

/-- ABANDON (R291). -/
def execAbandon (p : FabPacket) (s : State) : Host.Outcome State Fault Refusal :=
  answer (p.wf 0x15) (event (receive p (abandonHandler p)) s)

/-- PACE (R299). -/
def execPace (p : FabPacket) (s : State) : Host.Outcome State Fault Refusal :=
  answer (p.wf 0x18) (event (receive p (paceHandler p)) s)

/-- UNREACHABLE (R285). -/
def execUnreachable (p : FabPacket) (s : State) : Host.Outcome State Fault Refusal :=
  answer (p.wf 0x1C) (event (receive p (unreachableHandler p)) s)

/-- REFUSED (R301). -/
def execRefused (p : FabPacket) (s : State) : Host.Outcome State Fault Refusal :=
  answer (p.wf 0x1D) (event (receive p (refusedHandler p)) s)

/-- GROUP_WAIT_NOTE (R298). -/
def execGroupWaitNote (part : BitVec 4) (group : U32) (s : State) : Host.Outcome State Fault Refusal :=
  .next (event (groupWaitNote part group) s)

end Sys2Proof.Machine
end

