-- ==== Sys2Proof/Machine/RowsHost.lean ====
section
/-! DEFINITION. One meaning for each row of the table: the contacts, start-up and resets, the registers of BAR0, queue pairs, configuration, and the CXL port. -/
namespace Sys2Proof.Machine

/-- COLD_START (R418). -/
def execColdStart (b : BringUp) (s : State) : Host.Outcome State Fault Refusal :=
  answer b.wf (coldStarted b s)

/-- CONFIGURATION_READINESS (R420). -/
def execConfigurationReadiness (s : State) : Host.Outcome State Fault Refusal :=
  .next (floorEvent configurationReady s)

/-- CONFIG_REQUEST (R420). -/
def execConfigRequest (reg : BitVec 12) (s : State) : Host.Outcome State Fault Refusal :=
  .next (floorEvent (configRequest reg.toNat) s)

/-- WARM_RESET (R421). -/
def execWarmReset (s : State) : Host.Outcome State Fault Refusal :=
  .next (floorEvent warmReset s)

/-- PERST_DEASSERT (R421). -/
def execPerstDeassert (b : BringUp) (s : State) : Host.Outcome State Fault Refusal :=
  answer b.wf (floorEvent (perstReleased b) s)

/-- PORT_RESET_BEFORE_READY (R425). -/
def execPortResetBeforeReady (s : State) : Host.Outcome State Fault Refusal :=
  .next (floorEvent portReset s)

/-- FUNCTION_LEVEL_RESET (R423). -/
def execFunctionLevelReset (s : State) : Host.Outcome State Fault Refusal :=
  .next (hostAccess functionReset s)

/-- VIN_OUT_OF_RANGE (R335). -/
def execVinOutOfRange (millivolts : Nat) (s : State) : Host.Outcome State Fault Refusal :=
  .next (vinOut millivolts s)

/-- PWR_BRAKE_ASSERT (R349). -/
def execPwrBrakeAssert (s : State) : Host.Outcome State Fault Refusal :=
  .next (setBrake true s)

/-- PWR_BRAKE_RELEASE (R349). -/
def execPwrBrakeRelease (s : State) : Host.Outcome State Fault Refusal :=
  .next (setBrake false s)

/-- CXL_LANE_FAILURE (R305). -/
def execCxlLaneFailure (lane : BitVec 3) (s : State) : Host.Outcome State Fault Refusal :=
  .next (floorEvent (cxlLaneFailed lane.toNat) s)

/-- I3C_READ (R434). -/
def execI3cRead (offset : Byte) (s : State) : Host.Outcome State Fault Refusal :=
  .next (i3cAnswer offset.toNat s)

/-- DOORBELL_SQ_TAIL (R318). -/
def execDoorbellSqTail (qp : BitVec 6) (value : U32) (s : State) : Host.Outcome State Fault Refusal :=
  .next (hostAccess (writeTailOpen qp value) s)

/-- DOORBELL_CQ_HEAD (R318). -/
def execDoorbellCqHead (qp : BitVec 6) (value : U32) (s : State) : Host.Outcome State Fault Refusal :=
  .next (hostAccess (writeHeadOpen qp value) s)

/-- NEGOTIATE (R315). -/
def execNegotiate (s : State) : Host.Outcome State Fault Refusal :=
  .next (hostAccess doNegotiate s)

/-- ADMQ_ENABLE (R317). -/
def execAdmqEnable (s : State) : Host.Outcome State Fault Refusal :=
  .next (hostAccess setAdmq s)

/-- ADMQ_DISABLE (R317). -/
def execAdmqDisable (s : State) : Host.Outcome State Fault Refusal :=
  .next (hostAccess clearAdmq s)

/-- ADMQ_DELETION_DONE (R317). -/
def execAdmqDeletionDone (s : State) : Host.Outcome State Fault Refusal :=
  .next (floorEvent admqDeleted s)

/-- QERR_CLEAR (R316). -/
def execQerrClear (hi : Bool) (value : U32) (s : State) : Host.Outcome State Fault Refusal :=
  .next (hostAccess (clearQerr hi value) s)

/-- EVENTS_CLEAR (R329). -/
def execEventsClear (value : U32) (s : State) : Host.Outcome State Fault Refusal :=
  .next (hostAccess (clearEvents value) s)

/-- EVENT_MASK_WRITE (R329). -/
def execEventMaskWrite (value : U32) (s : State) : Host.Outcome State Fault Refusal :=
  .next (hostAccess (setMask value) s)

/-- REGISTER_WRITE (R312). -/
def execRegisterWrite (offset : BitVec 16) (size : Nat) (value : U32) (s : State) : Host.Outcome State Fault Refusal :=
  .next (hostAccess (barWriteSized offset.toNat size value) s)

/-- REC_START_WRITE (R413). -/
def execRecStartWrite (value : U32) (s : State) : Host.Outcome State Fault Refusal :=
  .next (hostAccess (startFill value) s)

/-- RECORDER_FILL_DONE (R413). -/
def execRecorderFillDone (s : State) : Host.Outcome State Fault Refusal :=
  .next (floorEvent fillDone s)

/-- COAL_TIME_EXPIRY (R329). -/
def execCoalTimeExpiry (qp : BitVec 6) (s : State) : Host.Outcome State Fault Refusal :=
  .next (floorEvent (coalExpired qp) s)

/-- ACCEPTED_TIMEOUT (R330). -/
def execAcceptedTimeout (qp : BitVec 6) (tag : U32) (s : State) : Host.Outcome State Fault Refusal :=
  .next (floorEvent (acceptedTimeout qp tag) s)

/-- QUEUE_CREATE (R320). -/
def execQueueCreate (p : Packet) (s : State) : Host.Outcome State Fault Refusal :=
  answer (p.wf 0x0101) (fetchPacket cmdQueueCreate p s)

/-- QUEUE_DELETE (R321). -/
def execQueueDelete (p : Packet) (s : State) : Host.Outcome State Fault Refusal :=
  answer (p.wf 0x0102) (fetchPacket cmdQueueDelete p s)

/-- QUEUE_STATUS (R321). -/
def execQueueStatus (p : Packet) (s : State) : Host.Outcome State Fault Refusal :=
  answer (p.wf 0x0103) (fetchPacket cmdQueueStatus p s)

/-- CONFIG_READ (R415). -/
def execConfigRead (p : Packet) (s : State) : Host.Outcome State Fault Refusal :=
  answer (p.wf 0x0201) (fetchPacket cmdConfigRead p s)

/-- CONFIG_APPLY (R415). -/
def execConfigApply (p : Packet) (s : State) : Host.Outcome State Fault Refusal :=
  answer (p.wf 0x0202) (fetchPacket cmdConfigApply p s)

/-- CONFIG_APPLY_DONE (R415). -/
def execConfigApplyDone (s : State) : Host.Outcome State Fault Refusal :=
  .next (event applyDone s)

/-- CONFIG_CONFIRM (R415). -/
def execConfigConfirm (p : Packet) (s : State) : Host.Outcome State Fault Refusal :=
  answer (p.wf 0x0203) (fetchPacket cmdConfigConfirm p s)

/-- CONFIG_ROLLBACK (R415). -/
def execConfigRollback (p : Packet) (s : State) : Host.Outcome State Fault Refusal :=
  answer (p.wf 0x0204) (fetchPacket cmdConfigRollback p s)

/-- CONFIG_AUTO_ROLLBACK (R415). -/
def execConfigAutoRollback (s : State) : Host.Outcome State Fault Refusal :=
  .next (event autoRollback s)

/-- CXL_MEM_READ (R199). -/
def execCxlMemRead (hpa : U64) (len : Nat) (e : ReadErrors) (s : State) : Host.Outcome State Fault Refusal :=
  answer (lineAccess hpa len) (hostAccess (cxlRead hpa.toNat len e) s)

/-- CXL_MEM_WRITE (R307). -/
def execCxlMemWrite (hpa : U64) (data : List Byte) (e : ReadErrors) (s : State) : Host.Outcome State Fault Refusal :=
  answer (lineAccess hpa data.length) (hostAccess (cxlWrite hpa.toNat data e) s)

/-- IDE_CHECK_FAILURE (R310). -/
def execIdeCheckFailure (stream : Byte) (s : State) : Host.Outcome State Fault Refusal :=
  .next (hostAccess (ideFailed stream) s)

/-- IDE_KM (R310). -/
def execIdeKm (stream : Byte) (setKey : Bool) (s : State) : Host.Outcome State Fault Refusal :=
  .next (hostAccess (ideKeyed stream setKey) s)

/-- GET_MEASUREMENTS (R388). -/
def execGetMeasurements (index : Byte) (nonce : List Byte) (signed : Bool) (s : State) : Host.Outcome State Fault Refusal :=
  .next (hostAccess (getMeasurements index.toNat nonce signed) s)

/-- CHALLENGE (R387). -/
def execChallenge (slot : Byte) (nonce : List Byte) (s : State) : Host.Outcome State Fault Refusal :=
  .next (hostAccess (challenged slot.toNat nonce) s)

/-- SERVICE_INSPECTION (R383). -/
def execServiceInspection (token : List Byte) (nonce : List Byte) (tracts : U64) (s : State) : Host.Outcome State Fault Refusal :=
  .next (hostAccess (serviceInspect token nonce tracts) s)

/-- GET_CERTIFICATE (R387). -/
def execGetCertificate (slot : Byte) (offset : Nat) (len : Nat) (s : State) : Host.Outcome State Fault Refusal :=
  .next (hostAccess (certificate slot.toNat offset len) s)

/-- CXL_LINK_DOWN (R333). -/
def execCxlLinkDown (s : State) : Host.Outcome State Fault Refusal :=
  .next (floorEvent cxlDown s)

/-- CXL_LINK_RETRAINED (R333). -/
def execCxlLinkRetrained (s : State) : Host.Outcome State Fault Refusal :=
  .next (floorEvent cxlBack s)

/-- HDM_DECODER_COMMIT (R307). -/
def execHdmDecoderCommit (decoder : BitVec 2) (base : U64) (size : Nat) (s : State) : Host.Outcome State Fault Refusal :=
  .next (hostAccess (decoderCommit decoder.toNat base.toNat size) s)

/-- MAILBOX_COMMAND (R306). -/
def execMailboxCommand (opcode : BitVec 16) (payload : List Byte) (s : State) : Host.Outcome State Fault Refusal :=
  .next (hostAccess (mailbox opcode payload) s)

/-- HDM_BIND (R308). -/
def execHdmBind (p : Packet) (s : State) : Host.Outcome State Fault Refusal :=
  answer (p.wf 0x0310) (fetchPacket cmdHdmBind p s)

/-- HDM_UNBIND (R309). -/
def execHdmUnbind (p : Packet) (s : State) : Host.Outcome State Fault Refusal :=
  answer (p.wf 0x0311) (fetchPacket cmdHdmUnbind p s)

/-- HDM_STATUS (R309). -/
def execHdmStatus (p : Packet) (s : State) : Host.Outcome State Fault Refusal :=
  answer (p.wf 0x0312) (fetchPacket cmdHdmStatus p s)

/-- TIME_SET (R410). -/
def execTimeSet (p : Packet) (s : State) : Host.Outcome State Fault Refusal :=
  answer (p.wf 0x0B01) (fetchPacket cmdTimeSet p s)

/-- DROPPED (R411). -/
def execDropped (s : State) : Host.Outcome State Fault Refusal :=
  .next (floorEvent secondPassed s)

end Sys2Proof.Machine
end

