-- ==== Sys2Proof/Machine/RowsMemory.lean ====
section
/-! DEFINITION. One meaning for each row of the table: root memory, the vertical channels, clearing layers and recovery. -/
namespace Sys2Proof.Machine

/-- REGION_ALLOC (R179). -/
def execRegionAlloc (p : Packet) (s : State) : Host.Outcome State Fault Refusal :=
  answer (p.wf 0x0301) (fetchPacket cmdRegionAlloc p s)

/-- ZERO_FILL_DONE (R179). -/
def execZeroFillDone (part : BitVec 4) (region : U32) (s : State) : Host.Outcome State Fault Refusal :=
  .next (event (zeroFilled part region) s)

/-- REGION_FREE (R181). -/
def execRegionFree (p : Packet) (s : State) : Host.Outcome State Fault Refusal :=
  answer (p.wf 0x0302) (fetchPacket cmdRegionFree p s)

/-- REGION_QUERY (R182). -/
def execRegionQuery (p : Packet) (s : State) : Host.Outcome State Fault Refusal :=
  answer (p.wf 0x0303) (fetchPacket cmdRegionQuery p s)

/-- CLEARING_DIVISION (R221). -/
def execClearingDivision (p : Packet) (s : State) : Host.Outcome State Fault Refusal :=
  answer (p.wf 0x0601) (fetchPacket cmdClearingDivision p s)

/-- CLEARING_STATUS (R223). -/
def execClearingStatus (p : Packet) (s : State) : Host.Outcome State Fault Refusal :=
  answer (p.wf 0x0602) (fetchPacket cmdClearingStatus p s)

/-- CLEARING_TEST_SET (R222). -/
def execClearingTestSet (p : Packet) (s : State) : Host.Outcome State Fault Refusal :=
  answer (p.wf 0x0603) (fetchPacket cmdClearingTestSet p s)

/-- CLEARING_TEST_RUN_DONE (R222). -/
def execClearingTestRunDone (failed : List (BitVec 18)) (s : State) : Host.Outcome State Fault Refusal :=
  .next (event (testRunDone failed) s)

/-- NEAR_BANK_TASK (R211). -/
def execNearBankTask (unit : BitVec 18) (u : TaskUse) (s : State) : Host.Outcome State Fault Refusal :=
  .next (event (nearBankTask unit.toNat u.task u.errors) s)

/-- FINAL_MAXIMA_ARRIVAL (R211). -/
def execFinalMaximaArrival (unit : BitVec 18) (u : MaximaUse) (s : State) : Host.Outcome State Fault Refusal :=
  .next (event (finalMaxima unit.toNat u.maxima u.errors) s)

/-- PROCESSOR_MODE_ENTRY (R203). -/
def execProcessorModeEntry (unit : BitVec 18) (test : Bool) (s : State) : Host.Outcome State Fault Refusal :=
  .next (event (processorEntry unit.toNat test) s)

/-- SLICE_BOUNDARY (R209). -/
def execSliceBoundary (unit : BitVec 18) (w : BoundaryWork) (s : State) : Host.Outcome State Fault Refusal :=
  answer w.wf (event (sliceBoundary unit.toNat w) s)

/-- REPAIR_READ_DONE (R216). -/
def execRepairReadDone (unit : BitVec 18) (r : RepairRead) (s : State) : Host.Outcome State Fault Refusal :=
  .next (event (repairRead unit.toNat r) s)

/-- PAGE_RECOMPUTE (R246). -/
def execPageRecompute (u : PartUse) (s : State) : Host.Outcome State Fault Refusal :=
  .next (event (pageRecompute u.part u.errors) s)

/-- UNIT_SELF_TEST (R220). -/
def execUnitSelfTest (unit : BitVec 18) (passed : Bool) (s : State) : Host.Outcome State Fault Refusal :=
  .next (event (selfTested unit.toNat passed) s)

/-- UNIT_MIGRATION_DONE (R220). -/
def execUnitMigrationDone (unit : BitVec 18) (s : State) : Host.Outcome State Fault Refusal :=
  .next (event (unitMigrated unit.toNat) s)

/-- SEAL_TABLE_RELOAD_DONE (R208). -/
def execSealTableReloadDone (unit : BitVec 18) (s : State) : Host.Outcome State Fault Refusal :=
  .next (event (sealReloaded unit.toNat) s)

/-- REFRESH_DUE (R191). -/
def execRefreshDue (core : BitVec 20) (layer : BitVec 5) (s : State) : Host.Outcome State Fault Refusal :=
  answer (dramLayer layer) (event (refreshDue core.toNat layer.toNat) s)

/-- TRACT_COOLED (R191). -/
def execTractCooled (tract : BitVec 6) (s : State) : Host.Outcome State Fault Refusal :=
  .next (event (tractCooled tract.toNat) s)

/-- PHASE_RETRAIN (R29). -/
def execPhaseRetrain (core : BitVec 20) (s : State) : Host.Outcome State Fault Refusal :=
  .next (event (phaseRetrained core.toNat) s)

/-- TAG_WRITEBACK (R183). -/
def execTagWriteback (core : BitVec 20) (layer : BitVec 5) (tagLine : BitVec 4) (s : State) : Host.Outcome State Fault Refusal :=
  .next (event (tagWritten core.toNat layer.toNat tagLine.toNat) s)

/-- CHANNEL_COMMAND_TIMEOUT (R26). -/
def execChannelCommandTimeout (core : BitVec 20) (cmd : U32) (s : State) : Host.Outcome State Fault Refusal :=
  .next (event (commandTimeout core.toNat cmd) s)

/-- LANE_FAILING (R33). -/
def execLaneFailing (f : LaneFault) (s : State) : Host.Outcome State Fault Refusal :=
  answer (laneWf f.lane) (event (laneFailing f) s)

/-- LANE_SWITCH_OVER (R33). -/
def execLaneSwitchOver (core : BitVec 20) (lane : BitVec 5) (s : State) : Host.Outcome State Fault Refusal :=
  answer (laneWf lane) (event (laneSwitched core.toNat lane.toNat) s)

/-- REHOME_COPY_DONE (R36). -/
def execRehomeCopyDone (core : BitVec 20) (s : State) : Host.Outcome State Fault Refusal :=
  .next (event (rehomeDone core.toNat) s)

/-- SCRUB_PASS_START (R192). -/
def execScrubPassStart (layer : BitVec 5) (s : State) : Host.Outcome State Fault Refusal :=
  answer (dramLayer layer) (event (scrubStart layer.toNat) s)

/-- SCRUB_READ (R192). -/
def execScrubRead (r : ScrubRead) (s : State) : Host.Outcome State Fault Refusal :=
  answer r.wf (event (scrubbed r) s)

/-- BUCKET_LEAK (R195). -/
def execBucketLeak (s : State) : Host.Outcome State Fault Refusal :=
  .next (event bucketLeak s)

/-- WHOLE_LAYER_FAULT (R39). -/
def execWholeLayerFault (layer : BitVec 5) (s : State) : Host.Outcome State Fault Refusal :=
  answer (stackDie layer) (event (wholeLayerFault layer.toNat) s)

/-- ABSORPTION_DONE (R198). -/
def execAbsorptionDone (s : State) : Host.Outcome State Fault Refusal :=
  .next (event absorptionDone s)

/-- MEMREG_READ (R193). -/
def execMemregRead (p : Packet) (s : State) : Host.Outcome State Fault Refusal :=
  answer (p.wf 0x0B12) (fetchPacket cmdMemregRead p s)

/-- MEMREG_WRITE (R193). -/
def execMemregWrite (p : Packet) (s : State) : Host.Outcome State Fault Refusal :=
  answer (p.wf 0x0B13) (fetchPacket cmdMemregWrite p s)

/-- REPAIR_MAP_READ (R35). -/
def execRepairMapRead (p : Packet) (s : State) : Host.Outcome State Fault Refusal :=
  answer (p.wf 0x0B20) (fetchPacket cmdRepairMap p s)

/-- LAYER_MAP_READ (R40). -/
def execLayerMapRead (p : Packet) (s : State) : Host.Outcome State Fault Refusal :=
  answer (p.wf 0x0B21) (fetchPacket cmdLayerMap p s)

/-- RESERVE_STATUS (R406). -/
def execReserveStatus (p : Packet) (s : State) : Host.Outcome State Fault Refusal :=
  answer (p.wf 0x0B02) (fetchPacket cmdReserveStatus p s)

/-- LATTICE_COUNTERS_READ (R105). -/
def execLatticeCountersRead (p : Packet) (s : State) : Host.Outcome State Fault Refusal :=
  answer (p.wf 0x0D10) (fetchPacket cmdLatticeCounters p s)

/-- CLEARING_COUNTERS_READ (R224). -/
def execClearingCountersRead (p : Packet) (s : State) : Host.Outcome State Fault Refusal :=
  answer (p.wf 0x0D11) (fetchPacket cmdClearingCounters p s)

/-- NET_COUNTERS_READ (R266). -/
def execNetCountersRead (p : Packet) (s : State) : Host.Outcome State Fault Refusal :=
  answer (p.wf 0x0D12) (fetchPacket cmdNetCounters p s)

/-- RECOVERY_ACTION_START (R401). -/
def execRecoveryActionStart (part : Option (BitVec 4)) (s : State) : Host.Outcome State Fault Refusal :=
  .next (event (recoveryStart part) s)

/-- OVF_WINDOW_EXPIRY (R403). -/
def execOvfWindowExpiry (kind : WindowKind) (s : State) : Host.Outcome State Fault Refusal :=
  answer kind.wf (event (windowExpiry kind) s)

end Sys2Proof.Machine
end

