-- ==== Sys2Proof/Machine/RowsPower.lean ====
section
/-! DEFINITION. One meaning for each row of the table: power, cooling, partitions, keys and firmware. -/
namespace Sys2Proof.Machine

/-- POWER_CAP_SET (R357). -/
def execPowerCapSet (p : Packet) (s : State) : Host.Outcome State Fault Refusal :=
  answer (p.wf 0x0801) (fetchPacket cmdPowerCap p s)

/-- POWER_STATUS (R358). -/
def execPowerStatus (p : Packet) (s : State) : Host.Outcome State Fault Refusal :=
  answer (p.wf 0x0802) (fetchPacket cmdPowerStatus p s)

/-- FIXED_FREQ_SET (R359). -/
def execFixedFreqSet (p : Packet) (s : State) : Host.Outcome State Fault Refusal :=
  answer (p.wf 0x0803) (fetchPacket cmdFixedFreq p s)

/-- ENERGY_READ (R360). -/
def execEnergyRead (p : Packet) (s : State) : Host.Outcome State Fault Refusal :=
  answer (p.wf 0x0804) (fetchPacket cmdEnergyRead p s)

/-- COOLANT_SET (R368). -/
def execCoolantSet (p : Packet) (s : State) : Host.Outcome State Fault Refusal :=
  answer (p.wf 0x0901) (fetchPacket cmdCoolantSet p s)

/-- THERMAL_STATUS (R374). -/
def execThermalStatus (p : Packet) (s : State) : Host.Outcome State Fault Refusal :=
  answer (p.wf 0x0902) (fetchPacket cmdThermalStatus p s)

/-- THERMAL_RESPONSE_SET (R373). -/
def execThermalResponseSet (p : Packet) (s : State) : Host.Outcome State Fault Refusal :=
  answer (p.wf 0x0903) (fetchPacket cmdThermalResponse p s)

/-- PARTITION_CREATE (R378). -/
def execPartitionCreate (p : Packet) (s : State) : Host.Outcome State Fault Refusal :=
  answer (p.wf 0x0A01) (fetchPacket cmdPartitionCreate p s)

/-- PARTITION_RELEASE (R379). -/
def execPartitionRelease (p : Packet) (s : State) : Host.Outcome State Fault Refusal :=
  answer (p.wf 0x0A02) (fetchPacket cmdPartitionRelease p s)

/-- PARTITION_STATUS (R380). -/
def execPartitionStatus (p : Packet) (s : State) : Host.Outcome State Fault Refusal :=
  answer (p.wf 0x0A03) (fetchPacket cmdPartitionStatus p s)

/-- CONFIDENTIAL_SET (R395). -/
def execConfidentialSet (p : Packet) (s : State) : Host.Outcome State Fault Refusal :=
  answer (p.wf 0x0A04) (fetchPacket cmdConfidentialSet p s)

/-- KEY_ROTATE (R393). -/
def execKeyRotate (p : Packet) (s : State) : Host.Outcome State Fault Refusal :=
  answer (p.wf 0x0A10) (fetchPacket cmdKeyRotate p s)

/-- KEY_STATUS (R394). -/
def execKeyStatus (p : Packet) (s : State) : Host.Outcome State Fault Refusal :=
  answer (p.wf 0x0A11) (fetchPacket cmdKeyStatus p s)

/-- SWEEP_REWRITE (R391). -/
def execSweepRewrite (u : PartUse) (s : State) : Host.Outcome State Fault Refusal :=
  .next (event (sweepOne u.part u.errors) s)

/-- FW_STAGE (R385). -/
def execFwStage (p : Packet) (s : State) : Host.Outcome State Fault Refusal :=
  answer (p.wf 0x0A20) (fetchPacket cmdFwStage p s)

/-- FW_STAGE_DONE (R385). -/
def execFwStageDone (s : State) : Host.Outcome State Fault Refusal :=
  .next (floorEvent stageDone s)

/-- FW_ACTIVATE (R386). -/
def execFwActivate (p : Packet) (s : State) : Host.Outcome State Fault Refusal :=
  answer (p.wf 0x0A21) (fetchPacket cmdFwActivate p s)

/-- POWER_PERIOD (R348). -/
def execPowerPeriod (p : PowerSample) (s : State) : Host.Outcome State Fault Refusal :=
  answer p.wf (floorEvent (powerPeriod p) s)

/-- CORRECTION_UPDATE (R346). -/
def execCorrectionUpdate (millivolts : Nat) (milliamps : Nat) (s : State) : Host.Outcome State Fault Refusal :=
  .next (floorEvent (correction millivolts milliamps) s)

/-- FREQUENCY_STEP (R341). -/
def execFrequencyStep (east : Bool) (s : State) : Host.Outcome State Fault Refusal :=
  .next (floorEvent (stepFreq east) s)

/-- DROOP_DETECT (R343). -/
def execDroopDetect (plot : BitVec 10) (s : State) : Host.Outcome State Fault Refusal :=
  .next (floorEvent (droopStart plot.toNat) s)

/-- DROOP_STRETCH_END (R343). -/
def execDroopStretchEnd (plot : BitVec 10) (s : State) : Host.Outcome State Fault Refusal :=
  .next (floorEvent (droopEnd plot.toNat) s)

/-- REGULATOR_FAILURE (R339). -/
def execRegulatorFailure (die : BitVec 5) (index : BitVec 10) (s : State) : Host.Outcome State Fault Refusal :=
  answer (regulatorWf die index) (floorEvent (failRegulator die.toNat index.toNat) s)

/-- PATH_CHECK (R338). -/
def execPathCheck (die : BitVec 5) (index : BitVec 10) (measured : Nat) (expected : Nat) (s : State) : Host.Outcome State Fault Refusal :=
  answer (regulatorWf die index) (floorEvent (pathChecked die.toNat index.toNat measured expected) s)

/-- TRACT_PARK (R353). -/
def execTractPark (tract : BitVec 6) (s : State) : Host.Outcome State Fault Refusal :=
  .next (event (tractPark tract.toNat) s)

/-- TRACT_WAKE (R353). -/
def execTractWake (tract : BitVec 6) (s : State) : Host.Outcome State Fault Refusal :=
  .next (event (tractWake tract.toNat) s)

/-- GROVE_UNGATE (R353). -/
def execGroveUngate (tract : BitVec 6) (s : State) : Host.Outcome State Fault Refusal :=
  .next (event (ungate tract.toNat) s)

/-- WAKE_DEFERRAL_LIMIT (R353). -/
def execWakeDeferralLimit (tract : BitVec 6) (s : State) : Host.Outcome State Fault Refusal :=
  .next (event (wakeLimit tract.toNat) s)

/-- SENSOR_SAMPLE (R363). -/
def execSensorSample (readings : List Reading) (s : State) : Host.Outcome State Fault Refusal :=
  answer (readings.all Reading.wf) (floorEvent (sensorSample readings) s)

/-- ABRUPT_RECHECK (R371). -/
def execAbruptRecheck (readings : List Reading) (s : State) : Host.Outcome State Fault Refusal :=
  answer (readings.all Reading.wf) (floorEvent (abruptRecheck readings) s)

/-- ABRUPT_CLEAR (R371). -/
def execAbruptClear (s : State) : Host.Outcome State Fault Refusal :=
  .next (floorEvent abruptClear s)

/-- LEAKAGE_MEASURE (R366). -/
def execLeakageMeasure (layer : BitVec 5) (area : BitVec 6) (current : Nat) (s : State) : Host.Outcome State Fault Refusal :=
  answer (leakLayer layer) (floorEvent (leakageMeasured layer.toNat area.toNat current) s)

/-- HIDDEN_HOT_CHECK (R366). -/
def execHiddenHotCheck (s : State) : Host.Outcome State Fault Refusal :=
  .next (floorEvent hiddenCheck s)

/-- THERMAL_COMPUTATION (R367). -/
def execThermalComputation (seconds : Nat) (s : State) : Host.Outcome State Fault Refusal :=
  .next (floorEvent (thermalCompute seconds) s)

/-- K_ADJUST (R369). -/
def execKAdjust (slow : Bool) (s : State) : Host.Outcome State Fault Refusal :=
  .next (floorEvent (kAdjust slow) s)

/-- CLAMP_END (R370). -/
def execClampEnd (s : State) : Host.Outcome State Fault Refusal :=
  .next (floorEvent clampEnd s)

/-- ALERT_RELEASE (R370). -/
def execAlertRelease (s : State) : Host.Outcome State Fault Refusal :=
  .next (floorEvent alertRelease s)

/-- WARNING_NOTE (R370). -/
def execWarningNote (s : State) : Host.Outcome State Fault Refusal :=
  .next (floorEvent warningNote s)

/-- COOLANT_STALE (R368). -/
def execCoolantStale (s : State) : Host.Outcome State Fault Refusal :=
  .next (floorEvent coolantStale s)

/-- CONFIDENTIAL_PUBLICATION (R356). -/
def execConfidentialPublication (s : State) : Host.Outcome State Fault Refusal :=
  .next (event publishSecond s)

/-- SCRUB_DONE (R397). -/
def execScrubDone (part : BitVec 4) (s : State) : Host.Outcome State Fault Refusal :=
  .next (event (endScrub part) s)

end Sys2Proof.Machine
end

