-- ==== Sys2Proof/Machine/RowsSteps.lean ====
section
/-! DEFINITION. One meaning for each row of the table: step plans, contexts, caches and the operators of the catalogue. -/
namespace Sys2Proof.Machine

/-- STEP_SUBMIT (R161). -/
def execStepSubmit (p : Packet) (s : State) : Host.Outcome State Fault Refusal :=
  answer (p.wf 0x0401) (fetchPacket cmdStepSubmit p s)

/-- WAIT_LIMIT_EXPIRY (R167). -/
def execWaitLimitExpiry (part : BitVec 4) (ctx : BitVec 3) (plan : U32) (s : State) : Host.Outcome State Fault Refusal :=
  .next (event (waitExpired part ctx plan) s)

/-- STEP_ELIGIBLE (R162). -/
def execStepEligible (qp : BitVec 6) (tag : U32) (s : State) : Host.Outcome State Fault Refusal :=
  .next (event (stepEligible ⟨qp, tag, false⟩) s)

/-- STEP_START (R162). -/
def execStepStart (part : BitVec 4) (s : State) : Host.Outcome State Fault Refusal :=
  .next (event (stepStart part) s)

/-- STEP_COMPLETE (R163). -/
def execStepComplete (part : BitVec 4) (s : State) : Host.Outcome State Fault Refusal :=
  .next (event (stepComplete part) s)

/-- PLAN_LOAD (R156). -/
def execPlanLoad (p : Packet) (s : State) : Host.Outcome State Fault Refusal :=
  answer (p.wf 0x0402) (fetchPacket cmdPlanLoad p s)

/-- PLAN_VALIDATION_DONE (R158). -/
def execPlanValidationDone (qp : BitVec 6) (tag : U32) (s : State) : Host.Outcome State Fault Refusal :=
  .next (event (planValidated ⟨qp, tag, false⟩) s)

/-- PLAN_UNLOAD (R160). -/
def execPlanUnload (p : Packet) (s : State) : Host.Outcome State Fault Refusal :=
  answer (p.wf 0x0403) (fetchPacket cmdPlanUnload p s)

/-- STEP_CANCEL (R164). -/
def execStepCancel (p : Packet) (s : State) : Host.Outcome State Fault Refusal :=
  answer (p.wf 0x0404) (fetchPacket cmdStepCancel p s)

/-- BATCH_SET (R166). -/
def execBatchSet (p : Packet) (s : State) : Host.Outcome State Fault Refusal :=
  answer (p.wf 0x0405) (fetchPacket cmdBatchSet p s)

/-- CONTEXT_SET (R170). -/
def execContextSet (p : Packet) (s : State) : Host.Outcome State Fault Refusal :=
  answer (p.wf 0x0406) (fetchPacket cmdContextSet p s)

/-- SLICE_EXPIRY (R171). -/
def execSliceExpiry (part : BitVec 4) (s : State) : Host.Outcome State Fault Refusal :=
  .next (event (sliceExpired part) s)

/-- SLICE_OVERRUN (R171). -/
def execSliceOverrun (part : BitVec 4) (s : State) : Host.Outcome State Fault Refusal :=
  .next (event (sliceOverrun part) s)

/-- CONTEXT_SWITCH_DONE (R172). -/
def execContextSwitchDone (part : BitVec 4) (s : State) : Host.Outcome State Fault Refusal :=
  .next (event (switchDone part) s)

/-- CACHE_OPEN (R227). -/
def execCacheOpen (p : Packet) (s : State) : Host.Outcome State Fault Refusal :=
  answer (p.wf 0x0501) (fetchPacket cmdCacheOpen p s)

/-- CACHE_CLOSE (R247). -/
def execCacheClose (p : Packet) (s : State) : Host.Outcome State Fault Refusal :=
  answer (p.wf 0x0502) (fetchPacket cmdCacheClose p s)

/-- CACHE_SEQ (R239). -/
def execCacheSeq (p : Packet) (s : State) : Host.Outcome State Fault Refusal :=
  answer (p.wf 0x0503) (fetchPacket cmdCacheSeq p s)

/-- CACHE_SEQ_QUERY (R238). -/
def execCacheSeqQuery (p : Packet) (s : State) : Host.Outcome State Fault Refusal :=
  answer (p.wf 0x0504) (fetchPacket cmdCacheSeqQuery p s)

/-- CACHE_MIGRATE (R243). -/
def execCacheMigrate (p : Packet) (s : State) : Host.Outcome State Fault Refusal :=
  answer (p.wf 0x0505) (fetchPacket cmdCacheMigrate p s)

/-- MIGRATION_DONE (R243). -/
def execMigrationDone (qp : BitVec 6) (tag : U32) (s : State) : Host.Outcome State Fault Refusal :=
  .next (event (migrationDone ⟨qp, tag, false⟩) s)

/-- PAGE_SWITCH (R244). -/
def execPageSwitch (part : BitVec 4) (cache : U32) (s : State) : Host.Outcome State Fault Refusal :=
  .next (event (pageSwitch part cache) s)

/-- CACHE_STATUS (R248). -/
def execCacheStatus (p : Packet) (s : State) : Host.Outcome State Fault Refusal :=
  answer (p.wf 0x0506) (fetchPacket cmdCacheStatus p s)

/-- HEALTH_RING_SET (R70). -/
def execHealthRingSet (p : Packet) (s : State) : Host.Outcome State Fault Refusal :=
  answer (p.wf 0x0C01) (fetchPacket cmdHealthRingSet p s)

/-- HEALTH_RING_STATUS (R72). -/
def execHealthRingStatus (p : Packet) (s : State) : Host.Outcome State Fault Refusal :=
  answer (p.wf 0x0C02) (fetchPacket cmdHealthRingStatus p s)

/-- SCALE_PASS (R139). -/
def execScalePass (part : BitVec 4) (u : OpUse) (s : State) : Host.Outcome State Fault Refusal :=
  .next (operatorEvent part u.op.toNat (runLocal part 0x0001 u.op.toNat u.errors) s)

/-- QUANTISE (R139). -/
def execQuantise (part : BitVec 4) (u : OpUse) (s : State) : Host.Outcome State Fault Refusal :=
  .next (operatorEvent part u.op.toNat (runLocal part 0x0002 u.op.toNat u.errors) s)

/-- GEMM (R118). -/
def execGemm (part : BitVec 4) (u : OpUse) (s : State) : Host.Outcome State Fault Refusal :=
  .next (operatorEvent part u.op.toNat (runLocal part 0x0010 u.op.toNat u.errors) s)

/-- GEMM_BATCHED (R118). -/
def execGemmBatched (part : BitVec 4) (u : OpUse) (s : State) : Host.Outcome State Fault Refusal :=
  .next (operatorEvent part u.op.toNat (runLocal part 0x0011 u.op.toNat u.errors) s)

/-- GEMM_GROUPED (R119). -/
def execGemmGrouped (part : BitVec 4) (u : OpUse) (s : State) : Host.Outcome State Fault Refusal :=
  .next (operatorEvent part u.op.toNat (runLocal part 0x0012 u.op.toNat u.errors) s)

/-- ATTN_CANOPY (R122). -/
def execAttnCanopy (part : BitVec 4) (u : OpUse) (s : State) : Host.Outcome State Fault Refusal :=
  .next (operatorEvent part u.op.toNat (runLocal part 0x0020 u.op.toNat u.errors) s)

/-- GATHER (R127). -/
def execGather (part : BitVec 4) (u : OpUse) (s : State) : Host.Outcome State Fault Refusal :=
  .next (operatorEvent part u.op.toNat (runLocal part 0x0030 u.op.toNat u.errors) s)

/-- SCATTER (R127). -/
def execScatter (part : BitVec 4) (u : OpUse) (s : State) : Host.Outcome State Fault Refusal :=
  .next (operatorEvent part u.op.toNat (runLocal part 0x0031 u.op.toNat u.errors) s)

/-- EMBED (R127). -/
def execEmbed (part : BitVec 4) (u : OpUse) (s : State) : Host.Outcome State Fault Refusal :=
  .next (operatorEvent part u.op.toNat (runLocal part 0x0032 u.op.toNat u.errors) s)

/-- TOPK (R129). -/
def execTopk (part : BitVec 4) (u : OpUse) (s : State) : Host.Outcome State Fault Refusal :=
  .next (operatorEvent part u.op.toNat (runLocal part 0x0040 u.op.toNat u.errors) s)

/-- SORT (R129). -/
def execSort (part : BitVec 4) (u : OpUse) (s : State) : Host.Outcome State Fault Refusal :=
  .next (operatorEvent part u.op.toNat (runLocal part 0x0041 u.op.toNat u.errors) s)

/-- SCAN (R130). -/
def execScan (part : BitVec 4) (u : OpUse) (s : State) : Host.Outcome State Fault Refusal :=
  .next (operatorEvent part u.op.toNat (runLocal part 0x0042 u.op.toNat u.errors) s)

/-- CONV1D (R132). -/
def execConv1d (part : BitVec 4) (u : OpUse) (s : State) : Host.Outcome State Fault Refusal :=
  .next (operatorEvent part u.op.toNat (runLocal part 0x0050 u.op.toNat u.errors) s)

/-- CONV2D (R132). -/
def execConv2d (part : BitVec 4) (u : OpUse) (s : State) : Host.Outcome State Fault Refusal :=
  .next (operatorEvent part u.op.toNat (runLocal part 0x0051 u.op.toNat u.errors) s)

/-- RMSNORM (R134). -/
def execRmsnorm (part : BitVec 4) (u : OpUse) (s : State) : Host.Outcome State Fault Refusal :=
  .next (operatorEvent part u.op.toNat (runLocal part 0x0060 u.op.toNat u.errors) s)

/-- LAYERNORM (R134). -/
def execLayernorm (part : BitVec 4) (u : OpUse) (s : State) : Host.Outcome State Fault Refusal :=
  .next (operatorEvent part u.op.toNat (runLocal part 0x0061 u.op.toNat u.errors) s)

/-- SOFTMAX (R134). -/
def execSoftmax (part : BitVec 4) (u : OpUse) (s : State) : Host.Outcome State Fault Refusal :=
  .next (operatorEvent part u.op.toNat (runLocal part 0x0062 u.op.toNat u.errors) s)

/-- ELTWISE (R135). -/
def execEltwise (part : BitVec 4) (u : OpUse) (s : State) : Host.Outcome State Fault Refusal :=
  .next (operatorEvent part u.op.toNat (runLocal part 0x0063 u.op.toNat u.errors) s)

/-- SAMPLE (R138). -/
def execSample (part : BitVec 4) (u : OpUse) (s : State) : Host.Outcome State Fault Refusal :=
  .next (operatorEvent part u.op.toNat (runLocal part 0x0070 u.op.toNat u.errors) s)

/-- OPT_STEP (R143). -/
def execOptStep (part : BitVec 4) (u : OpUse) (s : State) : Host.Outcome State Fault Refusal :=
  .next (operatorEvent part u.op.toNat (runLocal part 0x0090 u.op.toNat u.errors) s)

/-- LOSS_XENT (R144). -/
def execLossXent (part : BitVec 4) (u : OpUse) (s : State) : Host.Outcome State Fault Refusal :=
  .next (operatorEvent part u.op.toNat (runLocal part 0x0091 u.op.toNat u.errors) s)

/-- ATTN_CANOPY_BWD (R145). -/
def execAttnCanopyBwd (part : BitVec 4) (u : OpUse) (s : State) : Host.Outcome State Fault Refusal :=
  .next (operatorEvent part u.op.toNat (runLocal part 0x0120 u.op.toNat u.errors) s)

/-- CONV1D_BWD (R145). -/
def execConv1dBwd (part : BitVec 4) (u : OpUse) (s : State) : Host.Outcome State Fault Refusal :=
  .next (operatorEvent part u.op.toNat (runLocal part 0x0150 u.op.toNat u.errors) s)

/-- CONV2D_BWD (R145). -/
def execConv2dBwd (part : BitVec 4) (u : OpUse) (s : State) : Host.Outcome State Fault Refusal :=
  .next (operatorEvent part u.op.toNat (runLocal part 0x0151 u.op.toNat u.errors) s)

/-- RMSNORM_BWD (R145). -/
def execRmsnormBwd (part : BitVec 4) (u : OpUse) (s : State) : Host.Outcome State Fault Refusal :=
  .next (operatorEvent part u.op.toNat (runLocal part 0x0160 u.op.toNat u.errors) s)

/-- LAYERNORM_BWD (R145). -/
def execLayernormBwd (part : BitVec 4) (u : OpUse) (s : State) : Host.Outcome State Fault Refusal :=
  .next (operatorEvent part u.op.toNat (runLocal part 0x0161 u.op.toNat u.errors) s)

/-- SOFTMAX_BWD (R145). -/
def execSoftmaxBwd (part : BitVec 4) (u : OpUse) (s : State) : Host.Outcome State Fault Refusal :=
  .next (operatorEvent part u.op.toNat (runLocal part 0x0162 u.op.toNat u.errors) s)

/-- ATTN_CLEARING (R210). -/
def execAttnClearing (part : BitVec 4) (u : OpUse) (others : List AttnPartial) (s : State) : Host.Outcome State Fault Refusal :=
  .next (operatorEvent part u.op.toNat (runAttnClearing part u.op.toNat others u.errors) s)

/-- KV_SCATTER (R125). -/
def execKvScatter (part : BitVec 4) (u : OpUse) (peers : PeerAnswer) (s : State) : Host.Outcome State Fault Refusal :=
  .next (operatorEvent part u.op.toNat (runKvScatter part u.op.toNat peers u.errors) s)

/-- ALL_REDUCE (R141). -/
def execAllReduce (part : BitVec 4) (u : OpUse) (others : List Contribution) (s : State) : Host.Outcome State Fault Refusal :=
  .next (operatorEvent part u.op.toNat (runAllReduce part u.op.toNat others u.errors) s)

/-- REDUCE_SCATTER (R141). -/
def execReduceScatter (part : BitVec 4) (u : OpUse) (others : List Contribution) (s : State) : Host.Outcome State Fault Refusal :=
  .next (operatorEvent part u.op.toNat (runReduceScatter part u.op.toNat others u.errors) s)

/-- ALL_GATHER (R141). -/
def execAllGather (part : BitVec 4) (u : OpUse) (others : List Contribution) (s : State) : Host.Outcome State Fault Refusal :=
  .next (operatorEvent part u.op.toNat (runAllGather part u.op.toNat others u.errors) s)

/-- ALL_TO_ALL (R141). -/
def execAllToAll (part : BitVec 4) (u : OpUse) (others : List Contribution) (s : State) : Host.Outcome State Fault Refusal :=
  .next (operatorEvent part u.op.toNat (runAllToAll part u.op.toNat others u.errors) s)

/-- BROADCAST (R141). -/
def execBroadcast (part : BitVec 4) (u : OpUse) (others : List Contribution) (s : State) : Host.Outcome State Fault Refusal :=
  .next (operatorEvent part u.op.toNat (runBroadcast part u.op.toNat others u.errors) s)

end Sys2Proof.Machine
end

