-- ==== Sys2Proof/Machine/Dispatch.lean ====
section
/-! DEFINITION. The dispatch: one arm for each command of the table, each one direct call of its meaning. -/
namespace Sys2Proof.Machine

def exec (i : Instr) (s : State) : Host.Outcome State Fault Refusal :=
  match i with
  | .coldStart b => Sys2Proof.Machine.execColdStart b s
  | .configurationReadiness => Sys2Proof.Machine.execConfigurationReadiness s
  | .configRequest reg => Sys2Proof.Machine.execConfigRequest reg s
  | .warmReset => Sys2Proof.Machine.execWarmReset s
  | .perstDeassert b => Sys2Proof.Machine.execPerstDeassert b s
  | .portResetBeforeReady => Sys2Proof.Machine.execPortResetBeforeReady s
  | .functionLevelReset => Sys2Proof.Machine.execFunctionLevelReset s
  | .vinOutOfRange millivolts => Sys2Proof.Machine.execVinOutOfRange millivolts s
  | .pwrBrakeAssert => Sys2Proof.Machine.execPwrBrakeAssert s
  | .pwrBrakeRelease => Sys2Proof.Machine.execPwrBrakeRelease s
  | .cxlLaneFailure lane => Sys2Proof.Machine.execCxlLaneFailure lane s
  | .i3cRead offset => Sys2Proof.Machine.execI3cRead offset s
  | .doorbellSqTail qp value => Sys2Proof.Machine.execDoorbellSqTail qp value s
  | .doorbellCqHead qp value => Sys2Proof.Machine.execDoorbellCqHead qp value s
  | .negotiate => Sys2Proof.Machine.execNegotiate s
  | .admqEnable => Sys2Proof.Machine.execAdmqEnable s
  | .admqDisable => Sys2Proof.Machine.execAdmqDisable s
  | .admqDeletionDone => Sys2Proof.Machine.execAdmqDeletionDone s
  | .qerrClear hi value => Sys2Proof.Machine.execQerrClear hi value s
  | .eventsClear value => Sys2Proof.Machine.execEventsClear value s
  | .eventMaskWrite value => Sys2Proof.Machine.execEventMaskWrite value s
  | .registerWrite offset size value => Sys2Proof.Machine.execRegisterWrite offset size value s
  | .recStartWrite value => Sys2Proof.Machine.execRecStartWrite value s
  | .recorderFillDone => Sys2Proof.Machine.execRecorderFillDone s
  | .coalTimeExpiry qp => Sys2Proof.Machine.execCoalTimeExpiry qp s
  | .acceptedTimeout qp tag => Sys2Proof.Machine.execAcceptedTimeout qp tag s
  | .queueCreate p => Sys2Proof.Machine.execQueueCreate p s
  | .queueDelete p => Sys2Proof.Machine.execQueueDelete p s
  | .queueStatus p => Sys2Proof.Machine.execQueueStatus p s
  | .configRead p => Sys2Proof.Machine.execConfigRead p s
  | .configApply p => Sys2Proof.Machine.execConfigApply p s
  | .configApplyDone => Sys2Proof.Machine.execConfigApplyDone s
  | .configConfirm p => Sys2Proof.Machine.execConfigConfirm p s
  | .configRollback p => Sys2Proof.Machine.execConfigRollback p s
  | .configAutoRollback => Sys2Proof.Machine.execConfigAutoRollback s
  | .regionAlloc p => Sys2Proof.Machine.execRegionAlloc p s
  | .zeroFillDone part region => Sys2Proof.Machine.execZeroFillDone part region s
  | .regionFree p => Sys2Proof.Machine.execRegionFree p s
  | .regionQuery p => Sys2Proof.Machine.execRegionQuery p s
  | .hdmBind p => Sys2Proof.Machine.execHdmBind p s
  | .hdmUnbind p => Sys2Proof.Machine.execHdmUnbind p s
  | .hdmStatus p => Sys2Proof.Machine.execHdmStatus p s
  | .stepSubmit p => Sys2Proof.Machine.execStepSubmit p s
  | .waitLimitExpiry part ctx plan => Sys2Proof.Machine.execWaitLimitExpiry part ctx plan s
  | .stepEligible qp tag => Sys2Proof.Machine.execStepEligible qp tag s
  | .stepStart part => Sys2Proof.Machine.execStepStart part s
  | .stepComplete part => Sys2Proof.Machine.execStepComplete part s
  | .planLoad p => Sys2Proof.Machine.execPlanLoad p s
  | .planValidationDone qp tag => Sys2Proof.Machine.execPlanValidationDone qp tag s
  | .planUnload p => Sys2Proof.Machine.execPlanUnload p s
  | .stepCancel p => Sys2Proof.Machine.execStepCancel p s
  | .batchSet p => Sys2Proof.Machine.execBatchSet p s
  | .contextSet p => Sys2Proof.Machine.execContextSet p s
  | .sliceExpiry part => Sys2Proof.Machine.execSliceExpiry part s
  | .sliceOverrun part => Sys2Proof.Machine.execSliceOverrun part s
  | .cacheOpen p => Sys2Proof.Machine.execCacheOpen p s
  | .cacheClose p => Sys2Proof.Machine.execCacheClose p s
  | .cacheSeq p => Sys2Proof.Machine.execCacheSeq p s
  | .cacheSeqQuery p => Sys2Proof.Machine.execCacheSeqQuery p s
  | .cacheMigrate p => Sys2Proof.Machine.execCacheMigrate p s
  | .migrationDone qp tag => Sys2Proof.Machine.execMigrationDone qp tag s
  | .pageSwitch part cache => Sys2Proof.Machine.execPageSwitch part cache s
  | .cacheStatus p => Sys2Proof.Machine.execCacheStatus p s
  | .clearingDivision p => Sys2Proof.Machine.execClearingDivision p s
  | .clearingStatus p => Sys2Proof.Machine.execClearingStatus p s
  | .clearingTestSet p => Sys2Proof.Machine.execClearingTestSet p s
  | .clearingTestRunDone failed => Sys2Proof.Machine.execClearingTestRunDone failed s
  | .fabricIdSet p => Sys2Proof.Machine.execFabricIdSet p s
  | .routeSet p => Sys2Proof.Machine.execRouteSet p s
  | .routeRead p => Sys2Proof.Machine.execRouteRead p s
  | .linkStatus p => Sys2Proof.Machine.execLinkStatus p s
  | .linkControl p => Sys2Proof.Machine.execLinkControl p s
  | .groupJoin p => Sys2Proof.Machine.execGroupJoin p s
  | .groupAdmin p => Sys2Proof.Machine.execGroupAdmin p s
  | .groupStatus p => Sys2Proof.Machine.execGroupStatus p s
  | .paceSet p => Sys2Proof.Machine.execPaceSet p s
  | .netDistanceRead p => Sys2Proof.Machine.execNetDistanceRead p s
  | .powerCapSet p => Sys2Proof.Machine.execPowerCapSet p s
  | .powerStatus p => Sys2Proof.Machine.execPowerStatus p s
  | .fixedFreqSet p => Sys2Proof.Machine.execFixedFreqSet p s
  | .energyRead p => Sys2Proof.Machine.execEnergyRead p s
  | .coolantSet p => Sys2Proof.Machine.execCoolantSet p s
  | .thermalStatus p => Sys2Proof.Machine.execThermalStatus p s
  | .thermalResponseSet p => Sys2Proof.Machine.execThermalResponseSet p s
  | .partitionCreate p => Sys2Proof.Machine.execPartitionCreate p s
  | .partitionRelease p => Sys2Proof.Machine.execPartitionRelease p s
  | .partitionStatus p => Sys2Proof.Machine.execPartitionStatus p s
  | .confidentialSet p => Sys2Proof.Machine.execConfidentialSet p s
  | .keyRotate p => Sys2Proof.Machine.execKeyRotate p s
  | .keyStatus p => Sys2Proof.Machine.execKeyStatus p s
  | .sweepRewrite part => Sys2Proof.Machine.execSweepRewrite part s
  | .fwStage p => Sys2Proof.Machine.execFwStage p s
  | .fwStageDone => Sys2Proof.Machine.execFwStageDone s
  | .fwActivate p => Sys2Proof.Machine.execFwActivate p s
  | .timeSet p => Sys2Proof.Machine.execTimeSet p s
  | .reserveStatus p => Sys2Proof.Machine.execReserveStatus p s
  | .memregRead p => Sys2Proof.Machine.execMemregRead p s
  | .memregWrite p => Sys2Proof.Machine.execMemregWrite p s
  | .repairMapRead p => Sys2Proof.Machine.execRepairMapRead p s
  | .layerMapRead p => Sys2Proof.Machine.execLayerMapRead p s
  | .healthRingSet p => Sys2Proof.Machine.execHealthRingSet p s
  | .healthRingStatus p => Sys2Proof.Machine.execHealthRingStatus p s
  | .latticeCountersRead p => Sys2Proof.Machine.execLatticeCountersRead p s
  | .clearingCountersRead p => Sys2Proof.Machine.execClearingCountersRead p s
  | .netCountersRead p => Sys2Proof.Machine.execNetCountersRead p s
  | .scalePass part op => Sys2Proof.Machine.execScalePass part op s
  | .quantise part op => Sys2Proof.Machine.execQuantise part op s
  | .gemm part op => Sys2Proof.Machine.execGemm part op s
  | .gemmBatched part op => Sys2Proof.Machine.execGemmBatched part op s
  | .gemmGrouped part op => Sys2Proof.Machine.execGemmGrouped part op s
  | .attnCanopy part op => Sys2Proof.Machine.execAttnCanopy part op s
  | .attnClearing part op others => Sys2Proof.Machine.execAttnClearing part op others s
  | .kvScatter part op peers => Sys2Proof.Machine.execKvScatter part op peers s
  | .gather part op => Sys2Proof.Machine.execGather part op s
  | .scatter part op => Sys2Proof.Machine.execScatter part op s
  | .embed part op => Sys2Proof.Machine.execEmbed part op s
  | .topk part op => Sys2Proof.Machine.execTopk part op s
  | .sort part op => Sys2Proof.Machine.execSort part op s
  | .scan part op => Sys2Proof.Machine.execScan part op s
  | .conv1d part op => Sys2Proof.Machine.execConv1d part op s
  | .conv2d part op => Sys2Proof.Machine.execConv2d part op s
  | .rmsnorm part op => Sys2Proof.Machine.execRmsnorm part op s
  | .layernorm part op => Sys2Proof.Machine.execLayernorm part op s
  | .softmax part op => Sys2Proof.Machine.execSoftmax part op s
  | .eltwise part op => Sys2Proof.Machine.execEltwise part op s
  | .sample part op => Sys2Proof.Machine.execSample part op s
  | .allReduce part op others => Sys2Proof.Machine.execAllReduce part op others s
  | .reduceScatter part op others => Sys2Proof.Machine.execReduceScatter part op others s
  | .allGather part op others => Sys2Proof.Machine.execAllGather part op others s
  | .allToAll part op others => Sys2Proof.Machine.execAllToAll part op others s
  | .broadcast part op others => Sys2Proof.Machine.execBroadcast part op others s
  | .optStep part op => Sys2Proof.Machine.execOptStep part op s
  | .lossXent part op => Sys2Proof.Machine.execLossXent part op s
  | .attnCanopyBwd part op => Sys2Proof.Machine.execAttnCanopyBwd part op s
  | .conv1dBwd part op => Sys2Proof.Machine.execConv1dBwd part op s
  | .conv2dBwd part op => Sys2Proof.Machine.execConv2dBwd part op s
  | .rmsnormBwd part op => Sys2Proof.Machine.execRmsnormBwd part op s
  | .layernormBwd part op => Sys2Proof.Machine.execLayernormBwd part op s
  | .softmaxBwd part op => Sys2Proof.Machine.execSoftmaxBwd part op s
  | .nearBankTask unit task => Sys2Proof.Machine.execNearBankTask unit task s
  | .finalMaximaArrival unit maxima => Sys2Proof.Machine.execFinalMaximaArrival unit maxima s
  | .processorModeEntry unit test => Sys2Proof.Machine.execProcessorModeEntry unit test s
  | .sliceBoundary unit w => Sys2Proof.Machine.execSliceBoundary unit w s
  | .repairReadDone unit r => Sys2Proof.Machine.execRepairReadDone unit r s
  | .pageRecompute part => Sys2Proof.Machine.execPageRecompute part s
  | .unitSelfTest unit passed => Sys2Proof.Machine.execUnitSelfTest unit passed s
  | .refreshDue core layer => Sys2Proof.Machine.execRefreshDue core layer s
  | .tractCooled tract => Sys2Proof.Machine.execTractCooled tract s
  | .phaseRetrain core => Sys2Proof.Machine.execPhaseRetrain core s
  | .tagWriteback core layer tagLine => Sys2Proof.Machine.execTagWriteback core layer tagLine s
  | .channelCommandTimeout core cmd => Sys2Proof.Machine.execChannelCommandTimeout core cmd s
  | .laneFailing f => Sys2Proof.Machine.execLaneFailing f s
  | .laneSwitchOver core lane => Sys2Proof.Machine.execLaneSwitchOver core lane s
  | .rehomeCopyDone core => Sys2Proof.Machine.execRehomeCopyDone core s
  | .scrubPassStart layer => Sys2Proof.Machine.execScrubPassStart layer s
  | .scrubRead r => Sys2Proof.Machine.execScrubRead r s
  | .bucketLeak => Sys2Proof.Machine.execBucketLeak s
  | .wholeLayerFault layer => Sys2Proof.Machine.execWholeLayerFault layer s
  | .absorptionDone => Sys2Proof.Machine.execAbsorptionDone s
  | .cxlMemRead hpa len e => Sys2Proof.Machine.execCxlMemRead hpa len e s
  | .cxlMemWrite hpa data e => Sys2Proof.Machine.execCxlMemWrite hpa data e s
  | .ideCheckFailure stream => Sys2Proof.Machine.execIdeCheckFailure stream s
  | .ideKm stream setKey => Sys2Proof.Machine.execIdeKm stream setKey s
  | .getMeasurements index nonce signed => Sys2Proof.Machine.execGetMeasurements index nonce signed s
  | .challenge slot nonce => Sys2Proof.Machine.execChallenge slot nonce s
  | .serviceInspection token nonce tracts => Sys2Proof.Machine.execServiceInspection token nonce tracts s
  | .networkPacketArrival grove p => Sys2Proof.Machine.execNetworkPacketArrival grove p s
  | .meshFlitResend grove dir => Sys2Proof.Machine.execMeshFlitResend grove dir s
  | .meshWireFailing grove dir wire => Sys2Proof.Machine.execMeshWireFailing grove dir wire s
  | .meshLinkDegrade grove dir stage => Sys2Proof.Machine.execMeshLinkDegrade grove dir stage s
  | .flitReceive link flit fecFailed => Sys2Proof.Machine.execFlitReceive link flit fecFailed s
  | .ackDeadline link => Sys2Proof.Machine.execAckDeadline link s
  | .lossOfLock link => Sys2Proof.Machine.execLossOfLock link s
  | .linkLaneFailure link lane => Sys2Proof.Machine.execLinkLaneFailure link lane s
  | .linkRetrainTimer link => Sys2Proof.Machine.execLinkRetrainTimer link s
  | .linkTrainingDone link peer => Sys2Proof.Machine.execLinkTrainingDone link peer s
  | .unroutableRetry => Sys2Proof.Machine.execUnroutableRetry s
  | .data p => Sys2Proof.Machine.execData p s
  | .segment p => Sys2Proof.Machine.execSegment p s
  | .token p => Sys2Proof.Machine.execToken p s
  | .agree p => Sys2Proof.Machine.execAgree p s
  | .join p => Sys2Proof.Machine.execJoin p s
  | .leave p => Sys2Proof.Machine.execLeave p s
  | .viewGatherExpiry part group => Sys2Proof.Machine.execViewGatherExpiry part group s
  | .prepare p => Sys2Proof.Machine.execPrepare p s
  | .ready p => Sys2Proof.Machine.execReady p s
  | .commit p => Sys2Proof.Machine.execCommit p s
  | .abandon p => Sys2Proof.Machine.execAbandon p s
  | .pace p => Sys2Proof.Machine.execPace p s
  | .unreachable p => Sys2Proof.Machine.execUnreachable p s
  | .refused p => Sys2Proof.Machine.execRefused p s
  | .groupWaitNote part group => Sys2Proof.Machine.execGroupWaitNote part group s
  | .powerPeriod p => Sys2Proof.Machine.execPowerPeriod p s
  | .correctionUpdate millivolts milliamps => Sys2Proof.Machine.execCorrectionUpdate millivolts milliamps s
  | .frequencyStep east => Sys2Proof.Machine.execFrequencyStep east s
  | .droopDetect plot => Sys2Proof.Machine.execDroopDetect plot s
  | .droopStretchEnd plot => Sys2Proof.Machine.execDroopStretchEnd plot s
  | .regulatorFailure die index => Sys2Proof.Machine.execRegulatorFailure die index s
  | .pathCheck die index measured expected => Sys2Proof.Machine.execPathCheck die index measured expected s
  | .tractPark tract => Sys2Proof.Machine.execTractPark tract s
  | .tractWake tract => Sys2Proof.Machine.execTractWake tract s
  | .groveUngate tract => Sys2Proof.Machine.execGroveUngate tract s
  | .wakeDeferralLimit tract => Sys2Proof.Machine.execWakeDeferralLimit tract s
  | .sensorSample readings => Sys2Proof.Machine.execSensorSample readings s
  | .abruptRecheck readings => Sys2Proof.Machine.execAbruptRecheck readings s
  | .abruptClear => Sys2Proof.Machine.execAbruptClear s
  | .leakageMeasure layer area current => Sys2Proof.Machine.execLeakageMeasure layer area current s
  | .hiddenHotCheck => Sys2Proof.Machine.execHiddenHotCheck s
  | .thermalComputation seconds => Sys2Proof.Machine.execThermalComputation seconds s
  | .kAdjust slow => Sys2Proof.Machine.execKAdjust slow s
  | .clampEnd => Sys2Proof.Machine.execClampEnd s
  | .alertRelease => Sys2Proof.Machine.execAlertRelease s
  | .warningNote => Sys2Proof.Machine.execWarningNote s
  | .coolantStale => Sys2Proof.Machine.execCoolantStale s
  | .recoveryActionStart part => Sys2Proof.Machine.execRecoveryActionStart part s
  | .dropped => Sys2Proof.Machine.execDropped s
  | .confidentialPublication => Sys2Proof.Machine.execConfidentialPublication s
  | .scrubDone part => Sys2Proof.Machine.execScrubDone part s
  | .unitMigrationDone unit => Sys2Proof.Machine.execUnitMigrationDone unit s
  | .contextSwitchDone part => Sys2Proof.Machine.execContextSwitchDone part s
  | .sealTableReloadDone unit => Sys2Proof.Machine.execSealTableReloadDone unit s
  | .ovfWindowExpiry kind => Sys2Proof.Machine.execOvfWindowExpiry kind s
  | .cxlLinkDown => Sys2Proof.Machine.execCxlLinkDown s
  | .cxlLinkRetrained => Sys2Proof.Machine.execCxlLinkRetrained s
  | .hdmDecoderCommit decoder base size => Sys2Proof.Machine.execHdmDecoderCommit decoder base size s
  | .mailboxCommand opcode payload => Sys2Proof.Machine.execMailboxCommand opcode payload s
  | .getCertificate slot offset len => Sys2Proof.Machine.execGetCertificate slot offset len s

end Sys2Proof.Machine
end

