-- ==== Sys2Proof/Safety.lean ====
section
/-! DEFINITION. The terms claims are made in: memory in its canonical form, a block in which nothing waits, a command packet that
is fetched and passes every check, and the outcomes of packets, events and operators. -/
namespace Sys2Proof.Machine

/-! ### Invariants -/

/-- The memory holds addresses strictly rising and no zero; the tags stand in strictly rising order of lines. -/
def Sound (s : State) : Prop :=
  Memory.wf s.mem = true ∧ s.tags.Pairwise fun a b => a.line < b.line

/-- Every record held has a number below NEXT. -/
def RecorderSound (r : Recorder) : Prop := ∀ e ∈ r.records, e.1 < r.next

/-- The records held stand in rising order of their numbers. -/
def RecorderRising (r : Recorder) : Prop := r.records.Pairwise fun a b => a.1 < b.1

/-- What each line of memory holds reads as in `s`: no byte of memory differs. -/
def sameBytes (s t : State) : Prop := ∀ a, memGet t.mem a = memGet s.mem a

/-! ### Nothing waits -/

/-- A context with nothing that could be released. -/
def Context.quiet (c : Context) : Prop := (∀ b ∈ c.sets, b.due = Option.none) ∧ ∀ h ∈ c.ineligible, h.fence = true

/-- A job that has begun, or none. -/
def begunJob (j : Option Job) : Prop := ∀ x, j = some x → x.begun = true

/-- A partition in which nothing waits to follow by itself. -/
def Partition.quiet (p : Partition) : Prop :=
  p.deferred = [] ∧ (∀ q ∈ p.plans, q.unloading = Option.none) ∧ (∀ c ∈ p.contexts, c.quiet) ∧ begunJob p.acting

/-- No pair is being deleted or holds a command behind a FENCE, no partition has anything waiting, no action waits to begin,
and the reserve is up to date. -/
structure Quiet (s : State) : Prop where
  pairs : ∀ q ∈ s.pairs, q.fenced = [] ∧ q.deleter = Option.none
  parts : ∀ p ∈ s.partitions, p.quiet
  running : begunJob s.reserve.running
  reserve : atMaskOf s = s.reserve.atMask

/-! ### Packets -/

/-- The state once the entry at the fetch point of its pair has been read. -/
def fetchedState (p : Packet) (s : State) : State := updPair p.qp (fun q => q.fetched p) s

/-- Packet `p`, of the row with this opcode, is fetched from pair `q`, passes the checks of R325 as `c`, its parameters in
place, and starts at once: no FENCE holds it, its own or that of a command which waits, or it is a step submission. -/
structure Fetches (code : Nat) (s : State) (q : QueuePair) (p c : Packet) : Prop where
  size : p.inl.length = 96
  opcode : p.opcode.toNat = code
  pair : findPair s p.qp = some q
  fetch : canFetch s q = true
  checks : passChecks (fetchedState p s) q p = .ok c
  starts : c.opcode = 0x0401 ∨ q.fenced = [] ∧ (waitsFence c = false ∨ q.outstanding = [])

/-- The command of packet `p` has its final completion with STATUS OK and result `r` posted on `t`. -/
def completes (p : Packet) (r : List Byte) (t : State) : Host.Outcome State Fault Refusal :=
  .next (settle (finish (pktOrigin p) stOk 0 r t))

/-- The command of packet `p` is accepted on `t`; its final completion comes later. -/
def accepts (p : Packet) (t : State) : Host.Outcome State Fault Refusal := .next (settle (accept (pktOrigin p) t))

/-! ### Events and operators -/

/-- The event has this effect, and what waited for it follows. -/
def happens (t : State) : Host.Outcome State Fault Refusal := .next (settle t)

/-- Operator `op` of the step that partition `part` runs may start on `s`, its tracts run, its descriptor has been fetched (`d`), and
none of its input lines, nor of those at the addresses `extra` in cache pages, is lost once they have been read with the errors `err`:
`e` is what the operator works with, `t` the state after the reads, `u` that state as the operator takes it. -/
structure Starts (code : Nat) (part : BitVec 4) (op : Nat) (err : ReadErrors) (extra : List Nat) (e : Env) (s d t u : State) :
    Prop where
  started : started s = true
  tracts : tractsRun s part op = true
  env : opEnv s part code op = some e
  fetched : e.descriptors err s = (false, d)
  read : ∃ r, e.step s = some r ∧ t = e.readIn r err extra d
  seen : u = asReadLines err (e.changed err extra d) t
  step : (e.step u).isSome = true
  reads : linesIn u (some .lost) (e.reads u) = []
  pages : linesIn u (some .lost) extra = []

/-- Free lines that operator `e` reads, and those at the addresses `extra`, noted with the step (R411). -/
def Env.noted (e : Env) (extra : List Nat) (s : State) : State :=
  e.note noteFree (linesIn s Option.none (e.reads s ++ extra)).length s

/-- The operator is completed on `v`, and its results travel to their lines: `d`, `t` and `u` as in `Starts`. -/
def Env.ends (e : Env) (err : ReadErrors) (extra : List Nat) (d t u v : State) : Host.Outcome State Fault Refusal :=
  happens (e.stored (e.changed err extra d) t u (e.finishOp v))

/-- A fabric packet of this type is addressed to the device and passes the checks of its arrival: `t` is what its handler finds. -/
structure Arrives (ptype : Byte) (s : State) (p : FabPacket) (t : State) : Prop where
  started : started s = true
  type : p.ptype = ptype
  here : p.dst.toNat = s.fabric.devId.toNat
  taken : checkArrival p { s with fabric := { s.fabric with arrivals := s.fabric.arrivals.erase p } } = .take t

/-- What follows the handling of a packet that has arrived: packets of its flow that it released, and credits (R274, R283). -/
def received (t : State) : Host.Outcome State Fault Refusal := happens (returnCredits (releaseReorder t))

/-- Everything but the pairs, what has been driven and BAR0 is the same: what a command that only reads leaves. -/
def onlyPort (s t : State) : Prop := t = { s with pairs := t.pairs, out := t.out, bar := t.bar }

end Sys2Proof.Machine
end

