-- ==== Sys2Proof/Certificates/Slice0/Obligations.lean ====
section
/-! DEFINITION. The statements for the provers, from the numbered rules of the spec: what each command leaves, what every step
keeps, and what nothing may change. -/
open Sys2Proof Sys2Proof.Machine

/-- With command c at the front of the queue, a step is exec of c on the state whose queue is the rest. A step on an empty
queue leaves the state as it is where no router of the canopy network holds a flit, a history or a wait; where one does and
the device runs, the network runs one cycle, and what waited for it follows: both are the model's choice (assumption 1).
(R324, R331.) -/
def Obligations.StepRunsTheFrontCommand : Prop :=
  (∀ (c : Instr) (rest : List Instr) (s : State), step { s with pending := c :: rest } = exec c { s with pending := rest }) ∧
  ∀ s : State, s.pending = [] → (netQuiet s = true → step s = .next s) ∧
    (netQuiet s = false → started s = true → step s = happens (netCycle s)) ∧ (started s = false → step s = .next s)

/-- For every command and every state: a well-formed command answers a next state, and a command with an operand that no
sender can form stops with the fault illFormed; nothing is refused. (R8, R325.) -/
def Obligations.EveryFormableCommandRuns : Prop :=
  ∀ (i : Instr) (s : State), (i.wf = true → ∃ t, exec i s = .next t) ∧ (i.wf = false → exec i s = .fault .illFormed)

/-- Whatever command is at the front, none included: where memory lists addresses strictly rising with no zero and the tags
stand in strictly rising order of lines, the next state's do so too; and where the parity bytes are listed so, they are so
in the next state. (R183, R184, R187, R189, R424.) -/
def Obligations.StepKeepsMemoryForms : Prop :=
  (∀ s t : State, Sound s → step s = .next t → Sound t) ∧
  ∀ s t : State, Memory.wf s.parity = true → step s = .next t → Memory.wf t.parity = true

/-- At reset memory lists nothing and no line has a tag, so both forms hold, every byte reads as zero, and no stripe has a
parity byte other than zero. (R184, R418.) -/
def Obligations.ResetHasMemoryForms : Prop :=
  Sound State.reset ∧ State.reset.tags = [] ∧ State.reset.parity = [] ∧ ∀ a, memGet State.reset.mem a = 0

/-- The commands that wait after a step are those that waited before it less the front one, in the same order; no effect of
any command puts a command into the queue or takes one out. (R319, R324.) -/
def Obligations.QueueIsFirstInFirstOut : Prop :=
  ∀ s t : State, step s = .next t → t.pending = s.pending.tail

/-- Across every step, resets and cold starts included, the number the recorder gives next does not fall; and where every
record held has a number below NEXT, so it is after the step; and where moreover the records held stand in rising order of
their numbers, they do so after it. At reset both hold. (R409, R412, R424.) -/
def Obligations.RecordNumbersNeverRepeat : Prop :=
  (RecorderSound State.reset.recorder ∧ RecorderRising State.reset.recorder) ∧ ∀ s t : State, step s = .next t →
    s.recorder.next ≤ t.recorder.next ∧ (RecorderSound s.recorder → RecorderSound t.recorder) ∧
    (RecorderSound s.recorder → RecorderRising s.recorder → RecorderRising t.recorder)

/-- Across every step, a cold start and a firmware activation included, the fused SVN stays or rises; and an image with a
lower one than is fused fails its check (it is not staged, activated or booted). (R384, R424.) -/
def Obligations.FusedSvnNeverFalls : Prop :=
  (∀ s t : State, step s = .next t → s.firmware.fusedSvn ≤ t.firmware.fusedSvn) ∧
  ∀ (s : State) (img : List Byte), fld img 8 4 < s.firmware.fusedSvn → imageFault s img ≠ none

/-- In a state in which no pair is being deleted or holds a command behind a FENCE, no held step is due, no plan is being
unloaded, no command waits for a step, no recovery action waits to begin and the reserve is up to date, settling leaves the
state exactly as it is. (R162, R321, R324, R401, R403.) -/
def Obligations.SettlingAQuietBlockDoesNothing : Prop :=
  ∀ s : State, Quiet s → settle s = s

/-- PWR_BRAKE# being asserted or released sets the brake of the power controller, from STAGE 0x03 on, and every partition's
pace is reckoned anew; before that the level of the contact alone changes; a configuration request is answered with the
register from configuration readiness on (link trained and STAGE at least 0x04) and with Request Retry Status before; a lane
failure that leaves one half whole retrains at x4 and raises LINK_WIDTH, one that spoils both halves takes the link down;
link down lets completions wait; a retrained link posts what waited and fires what waited. (That the halves are lanes 0 to 3
and 4 to 7 is R304's; that the port recovers only when one half is whole is DEDUCED, log 22.) (R305, R333, R335, R349,
R420.) -/
def Obligations.PowerAndPortEvents : Prop :=
  (∀ s : State, alive s = true → 3 ≤ s.start.stage.toNat →
    exec .pwrBrakeAssert s =
      .next (paceAll { s with pins := { s.pins with brake := true }, power := { s.power with brake := true } }) ∧
    exec .pwrBrakeRelease s =
      .next (paceAll { s with pins := { s.pins with brake := false }, power := { s.power with brake := false } })) ∧
  (∀ s : State, alive s = false ∨ s.start.stage.toNat < 3 →
    exec .pwrBrakeAssert s = .next { s with pins := { s.pins with brake := true } } ∧
    exec .pwrBrakeRelease s = .next { s with pins := { s.pins with brake := false } }) ∧
  (∀ (s : State) (reg : BitVec 12), alive s = true →
    exec (.configRequest reg) s = happens { s with out := s.out ++
      [if s.cxl.trained ∧ 4 ≤ s.start.stage.toNat then .configData (Config.configSpace reg.toNat) else .configRetry] }) ∧
  (∀ (s : State) (lane : BitVec 3), alive s = true → s.cxl.x4 = false →
    (s.cxl.badLanes ||| (1#8 <<< lane.toNat)) &&& 0x0F#8 = 0 ∨ (s.cxl.badLanes ||| (1#8 <<< lane.toNat)) &&& 0xF0#8 = 0 →
    exec (.cxlLaneFailure lane) s = happens (raiseEvent evWidth
      { s with cxl := { s.cxl with badLanes := s.cxl.badLanes ||| (1#8 <<< lane.toNat), x4 := true } })) ∧
  (∀ (s : State) (lane : BitVec 3), alive s = true →
    (s.cxl.badLanes ||| (1#8 <<< lane.toNat)) &&& 0x0F#8 ≠ 0 → (s.cxl.badLanes ||| (1#8 <<< lane.toNat)) &&& 0xF0#8 ≠ 0 →
    exec (.cxlLaneFailure lane) s = happens
      { s with cxl := { s.cxl with badLanes := s.cxl.badLanes ||| (1#8 <<< lane.toNat), up := false } }) ∧
  (∀ s : State, alive s = true → exec .cxlLinkDown s = happens { s with cxl := { s.cxl with up := false } }) ∧
  ∀ s : State, alive s = true → s.cxl.trained = true → s.start.inReset = false → s.cxl.badLanes = 0 →
    exec .cxlLinkRetrained s = happens (s.pairs.foldl (fun s q => flush q.qp s)
      (firePending { s with cxl := { s.cxl with up := true, trained := true } }))

/-- The first NEGOTIATE of a device that is READY writes the agreed bits as requested AND offered (bits 0 to 7 at B0) and
sets AGREED; a later NEGOTIATE, or a later write of any of the four requested registers, changes nothing but the recorder:
one HOST record. Before the first NEGOTIATE a write replaces the 32 requested bits it addresses and no others. (That the
record is of kind 1 for both is R411's.) (R315, R316.) -/
def Obligations.NegotiationTakesEffectOnce : Prop :=
  (∀ s : State, hostReach s = true → s.start.ready = true → s.start.stage = 0x40 → s.bar.negotiated = false →
    exec .negotiate s = happens { s with bar := { s.bar with agreed := s.bar.requested &&& 0xFF, negotiated := true } }) ∧
  (∀ s : State, hostReach s = true → s.start.ready = true → s.bar.negotiated = true →
    exec .negotiate s = happens (recordHost 1 0 s)) ∧
  (∀ (s : State) (k : Nat) (v : U32), hostReach s = true → k < 4 → s.bar.negotiated = true →
    exec (.registerWrite (BitVec.ofNat 16 (0x1010 + 4 * k)) 4 v) s = happens (recordHost 1 0 s)) ∧
  ∀ (s : State) (k : Nat) (v : U32), hostReach s = true → k < 4 → s.bar.negotiated = false →
    ∃ bar : Bar0, exec (.registerWrite (BitVec.ofNat 16 (0x1010 + 4 * k)) 4 v) s = happens { s with bar := bar } ∧
      bar = { s.bar with requested := bar.requested } ∧
      ∀ j, j < 4 → part32 bar.requested j = if j = k then v else part32 s.bar.requested j

/-- On a READY device: setting ADMQ_EN with LOG2DEPTH 1 to 16 and aligned bases adds pair 0 (operator role, any partition
and context, vector 0, every completion interrupts, EXPERT_OK and QUIET_ACCEPT clear) and sets ADMQ_EN; with a bad depth or
a misaligned base ADMQ_EN stays 0 and pair 0 has a queue error; while ADMQ_DEL is set the write is discarded. Clearing
ADMQ_EN sets ADMQ_DEL and begins the deletion, and when every command fetched from the pair has posted its final completion
the pair and ADMQ_DEL are gone. On a READY device ADMQ_SQ, ADMQ_CQ and ADMQ_CFG take a 32-bit write while ADMQ_EN and
ADMQ_DEL are 0, the low bits of CFG alone being kept; while either is 1 the write is discarded. A write that is not 4 bytes,
or not aligned, or at 0x8000 and above is discarded whatever it names. (R317, R316, R312.) -/
def Obligations.AdminPairRules : Prop :=
  ((∀ s : State, hostReach s = true → s.start.ready = true → s.bar.admqEn = false → s.bar.admqDel = false → admqGood s = true →
    exec .admqEnable s = happens { s with
      bar := { s.bar with admqEn := true }
      pairs := s.pairs ++ [{
        qp := 0, operator := true, part := none, ctx := none, expertOk := false, quietAccept := false, vector := 0
        coalCount := 1, coalTime := 0, sqBase := s.bar.admqSq, cqBase := s.bar.admqCq, depth := 2 ^ s.bar.admqCfg.toNat
        fetch := 0, tail := 0, slot := 0, head := 0, phase := true, cseq := 0, gathered := 0, state := .active
        deleter := none, outstanding := [], waiting := [], fenced := [], energy := 0, pubEnergy := 0 }] }) ∧
  (∀ s : State, admqGood s = true ↔ 1 ≤ s.bar.admqCfg.toNat ∧ s.bar.admqCfg.toNat ≤ 16 ∧ s.bar.admqSq.toNat % 4096 = 0 ∧
    s.bar.admqCq.toNat % 4096 = 0) ∧
  (∀ s : State, hostReach s = true → s.start.ready = true → s.bar.admqEn = false → s.bar.admqDel = false → admqGood s = false →
    exec .admqEnable s = happens (queueError 0 s)) ∧
  (∀ s : State, hostReach s = true → s.bar.admqDel = true → exec .admqEnable s = happens s) ∧
  (∀ s : State, hostReach s = true → s.start.ready = true → s.bar.admqEn = true →
    exec .admqDisable s = happens (beginDeletion 0 none { s with bar := { s.bar with admqEn := false, admqDel := true } })) ∧
  ∀ (s : State) (q : QueuePair), alive s = true → s.bar.admqDel = true → findPair s 0 = some q → q.outstanding = [] →
    exec .admqDeletionDone s = happens
      { s with pairs := s.pairs.filter fun x => x.qp ≠ 0, bar := { s.bar with admqDel := false } }) ∧
  ((∀ (s : State) (v : U32), hostReach s = true → s.start.ready = true → s.bar.admqEn = false → s.bar.admqDel = false →
    exec (.registerWrite 0x3008 4 v) s = happens { s with bar := { s.bar with
      admqSq := ((s.bar.admqSq >>> 32) <<< 32) ||| v.setWidth 64 } } ∧
    exec (.registerWrite 0x300C 4 v) s = happens { s with bar := { s.bar with
      admqSq := (s.bar.admqSq.setWidth 32).setWidth 64 ||| (v.setWidth 64 <<< 32) } } ∧
    exec (.registerWrite 0x3010 4 v) s = happens { s with bar := { s.bar with
      admqCq := ((s.bar.admqCq >>> 32) <<< 32) ||| v.setWidth 64 } } ∧
    exec (.registerWrite 0x3014 4 v) s = happens { s with bar := { s.bar with
      admqCq := (s.bar.admqCq.setWidth 32).setWidth 64 ||| (v.setWidth 64 <<< 32) } } ∧
    exec (.registerWrite 0x3018 4 v) s = happens { s with bar := { s.bar with admqCfg := v.setWidth 5 } }) ∧
  (∀ (s : State) (off : BitVec 16) (v : U32), hostReach s = true → off ∈ [0x3008#16, 0x300C#16, 0x3010#16, 0x3014#16, 0x3018#16] →
    s.bar.admqEn = true ∨ s.bar.admqDel = true → exec (.registerWrite off 4 v) s = happens s) ∧
  ∀ (s : State) (off : BitVec 16) (size : Nat) (v : U32), hostReach s = true →
    size ≠ 4 ∨ off.toNat % 4 ≠ 0 ∨ 0x8000 ≤ off.toNat → exec (.registerWrite off size v) s = happens s)

/-- Ones written to QERR or EVENTS clear those bits and no others. A write of EVENT_MASK sets the five mask bits, and vector
64 fires where and only where a bit newly set has its event. An event whose bit is 0 sets it and fires vector 64 where its
mask bit is set; an event whose bit is 1 already changes nothing. With the link up and the vector's mask bit clear, firing
it sends one MSI-X message; otherwise its bit of the pending-bit array is set. COAL_TIME after the first ungathered
completion clears the gathered count of the pair and fires its vector; with nothing gathered nothing happens. (What an
interrupt does while the link is down is the CXL retry of R333 carried over to it: DEDUCED, log 23.) (R316, R329, R333.) -/
def Obligations.StatusRegistersClearByOnes : Prop :=
  ((∀ (s : State) (v : U32), hostReach s = true →
    exec (.qerrClear false v) s = happens { s with bar := { s.bar with qerr := s.bar.qerr &&& ~~~(v.setWidth 64) } } ∧
    exec (.qerrClear true v) s = happens { s with bar := { s.bar with qerr := s.bar.qerr &&& ~~~(v.setWidth 64 <<< 32) } } ∧
    exec (.eventsClear v) s = happens { s with bar := { s.bar with events := s.bar.events &&& ~~~(v.setWidth 5) } }) ∧
  (∀ (s : State) (v : U32), hostReach s = true →
    ((∃ k, k < 5 ∧ v.getLsbD k = true ∧ s.bar.mask.getLsbD k = false ∧ s.bar.events.getLsbD k = true) →
      exec (.eventMaskWrite v) s = happens (fireVector 64 { s with bar := { s.bar with mask := v.setWidth 5 } })) ∧
    ((∀ k, k < 5 → v.getLsbD k = true → s.bar.mask.getLsbD k = false → s.bar.events.getLsbD k = false) →
      exec (.eventMaskWrite v) s = happens { s with bar := { s.bar with mask := v.setWidth 5 } })) ∧
  (∀ (s : State) (k : Nat), k < 5 → s.bar.events.getLsbD k = true → raiseEvent k s = s) ∧
  ∀ (s : State) (k : Nat), k < 5 → s.bar.events.getLsbD k = false →
    ∃ t : State, raiseEvent k s = (if s.bar.mask.getLsbD k then fireVector 64 t else t) ∧
      t = { s with bar := { s.bar with events := t.bar.events } } ∧
      ∀ j, j < 5 → t.bar.events.getLsbD j = (s.bar.events.getLsbD j || decide (j = k))) ∧
  ((∀ (s : State) (v : Nat), v < 65 → s.cxl.up = true → (nth s.bar.msix v MsixEntry.fresh).ctrl.getLsbD 0 = false →
    fireVector v s = { s with out := s.out ++ [.msix v] }) ∧
  (∀ (s : State) (v : Nat), v < 65 → s.cxl.up = false ∨ (nth s.bar.msix v MsixEntry.fresh).ctrl.getLsbD 0 = true →
    fireVector v s = { s with bar := { s.bar with pba := s.bar.pba ||| (1#65 <<< v) } }) ∧
  (∀ (s : State) (qp : BitVec 6) (q : QueuePair), alive s = true → findPair s qp = some q → q.gathered ≠ 0 →
    exec (.coalTimeExpiry qp) s = happens (fireVector q.vector (updPair qp (fun q => { q with gathered := 0 }) s))) ∧
  ∀ (s : State) (qp : BitVec 6) (q : QueuePair), alive s = true → findPair s qp = some q → q.gathered = 0 →
    exec (.coalTimeExpiry qp) s = happens s)

/-- Of a READY device: an SQ_TAIL below the depth that does not fall back behind entries still to be fetched becomes the
tail; a CQ_HEAD below the depth that does not pass the posting point becomes the head, and completions that waited for room
are posted; a value at or beyond the depth, an SQ_TAIL that overtakes the fetch point or a CQ_HEAD that passes the posting
point is discarded: the pair's QERR bit is set, one HOST record is written, and the pair stops fetching; a doorbell of a
pair that does not exist, or before READY, is discarded. (R318, R319, R420.) -/
def Obligations.DoorbellRules : Prop :=
  (∀ (s : State) (qp : BitVec 6) (v : U32) (q : QueuePair), hostReach s = true → s.start.ready = true → findPair s qp = some q →
    v.toNat % 65536 < q.depth →
    (q.tail + q.depth - q.fetch) % q.depth ≤ (v.toNat % 65536 + q.depth - q.fetch) % q.depth →
    exec (.doorbellSqTail qp v) s = happens (updPair qp (fun q => { q with tail := v.toNat % 65536 }) s)) ∧
  (∀ (s : State) (qp : BitVec 6) (v : U32) (q : QueuePair), hostReach s = true → s.start.ready = true → findPair s qp = some q →
    q.depth ≤ v.toNat % 65536 ∨ (v.toNat % 65536 + q.depth - q.fetch) % q.depth < (q.tail + q.depth - q.fetch) % q.depth →
    exec (.doorbellSqTail qp v) s = happens (stopPair qp (queueError qp.toNat s))) ∧
  (∀ (s : State) (qp : BitVec 6) (v : U32) (q : QueuePair), hostReach s = true → s.start.ready = true → findPair s qp = some q →
    v.toNat % 65536 < q.depth →
    (v.toNat % 65536 + q.depth - q.head) % q.depth ≤ (q.slot + q.depth - q.head) % q.depth →
    exec (.doorbellCqHead qp v) s = happens (flush qp (updPair qp (fun q => { q with head := v.toNat % 65536 }) s))) ∧
  (∀ (s : State) (qp : BitVec 6) (v : U32) (q : QueuePair), hostReach s = true → s.start.ready = true → findPair s qp = some q →
    q.depth ≤ v.toNat % 65536 ∨ (q.slot + q.depth - q.head) % q.depth < (v.toNat % 65536 + q.depth - q.head) % q.depth →
    exec (.doorbellCqHead qp v) s = happens (stopPair qp (queueError qp.toNat s))) ∧
  (∀ (s : State) (qp : BitVec 6) (v : U32), hostReach s = true → findPair s qp = none ∨ controlOpen s = false →
    exec (.doorbellSqTail qp v) s = happens s ∧ exec (.doorbellCqHead qp v) s = happens s) ∧
  ∀ (s : State) (qp : Nat), queueError qp s =
    recordHost 0 qp (raiseEvent evQerr { s with bar := { s.bar with qerr := s.bar.qerr ||| (1#64 <<< qp) } })

/-- While the ring of a pair has room, nothing waits and the link is up, a completion is written into the pair's next slot:
its tag, status, detail and 16-byte result, RESERVE_LOW while a reserve meets its threshold, PHASE of the present pass, and
CSEQ; the slot advances around the ring, PHASE inverts when it wraps, CSEQ advances by one, and the command has ended, or
counts as accepted where the status is ACCEPTED. Otherwise it waits behind those that wait already, and nothing else
changes. (R319, R326, R328, R329.) -/
def Obligations.CompletionsAreWrittenInOrder : Prop :=
  (∀ (s : State) (qp : BitVec 6) (w : Waiting) (q : QueuePair), findPair s qp = some q → q.waiting = [] → q.room = true →
    s.cxl.up = true →
    post qp w s = gather q w { updPair q.qp (fun q => { q with
        slot := (q.slot + 1) % q.depth
        phase := if q.slot + 1 = q.depth then !q.phase else q.phase
        cseq := q.cseq + 1
        outstanding := if w.status = stAccepted then markTag w.tag q.outstanding else dropTag w.tag q.outstanding }) s with
      out := s.out ++ [.completion q.qp q.slot
        { tag := w.tag, status := w.status, reserveLow := s.reserve.atMask != 0, phase := q.phase, detail := w.detail
          result := padTo 16 w.result, cseq := q.cseq }] }) ∧
  (∀ (s : State) (qp : BitVec 6) (w : Waiting) (q : QueuePair), findPair s qp = some q →
    q.waiting ≠ [] ∨ q.room = false ∨ s.cxl.up = false →
    post qp w s = updPair qp (fun q => { q with waiting := q.waiting ++ [w] }) s) ∧
  (∀ (s : State) (q : QueuePair) (w : Waiting), w.status = stAccepted → q.quietAccept = true → gather q w s = s) ∧
  (∀ (s : State) (q : QueuePair) (w : Waiting), w.status ≠ stAccepted ∨ q.quietAccept = false →
    q.coalCount ≤ q.gathered + 1 ∨ q.coalTime = 0 →
    gather q w s = fireVector q.vector (updPair q.qp (fun q => { q with gathered := 0 }) s)) ∧
  (∀ (s : State) (q : QueuePair) (w : Waiting), w.status ≠ stAccepted ∨ q.quietAccept = false →
    q.gathered + 1 < q.coalCount → q.coalTime ≠ 0 →
    gather q w s = updPair q.qp (fun q => { q with gathered := q.gathered + 1 }) s) ∧
  (∀ q : QueuePair, q.room = true ↔ (q.slot + q.depth - q.head) % q.depth + 1 < q.depth) ∧
  ∀ (s : State) (qp : BitVec 6) (tag : U32) (q : QueuePair), alive s = true → findPair s qp = some q → q.unaccepted tag = true →
    q.waiting = [] → exec (.acceptedTimeout qp tag) s = happens (post qp ⟨tag, stAccepted, 0, []⟩ s)

/-- An entry that fails a check has no effect but its completion: for each of the 62 packet rows it is the row's whole
effect on the state after the fetch. The first failure in this order decides: an opcode not listed; PLEN bits 31 to 20; PLEN
zero (OK with a zero result); a feature not agreed; binding, role or missing partition; a scrubbing partition; EXPERT;
CFGVER; a length over 96 inline; a length the command does not accept. (R325, R327, R314, R322.) -/
def Obligations.ChecksComeInOrder : Prop :=
  (∀ (body : CmdBody) (p : Packet) (s : State) (q : QueuePair) (e : Stop), findPair s p.qp = some q → canFetch s q = true →
    passChecks (fetchedState p s) q p = .error e →
    fetchPacket body p s = settle (finish (pktOrigin p) e.status e.detail e.result (fetchedState p s))) ∧
  (∀ (s : State) (q : QueuePair) (p : Packet), findCommand p.opcode.toNat = none → headerFault s q p = some ⟨0x0101, 0, []⟩) ∧
  ∀ (s : State) (q : QueuePair) (p : Packet) (row : CmdRow), findCommand p.opcode.toNat = some row →
    (p.plen.toNat / 2 ^ 20 ≠ 0 → headerFault s q p = some ⟨0x0102, 0x01000000, []⟩) ∧
    (p.plen = 0 → headerFault s q p = some ⟨0x0000, 0, []⟩) ∧
    (p.plen ≠ 0 → p.plen.toNat < 2 ^ 20 →
      ((s.bar.agreed.getLsbD 0 = false ∨ s.bar.agreed.getLsbD row.feature = false ∨ (pktExpert p = true ∧ s.bar.agreed.getLsbD 1 = false)) →
        headerFault s q p = some ⟨0x0104, 0, []⟩) ∧
      (s.bar.agreed.getLsbD 0 = true → s.bar.agreed.getLsbD row.feature = true → (pktExpert p = true → s.bar.agreed.getLsbD 1 = true) →
        ((bindingOk s q p = false ∨ (row.operatorOnly = true ∧ q.operator = false) ∨ (s.start.ready = false ∧ recoveryAccepts p = false)) →
          headerFault s q p = some ⟨0x0301, 0, []⟩) ∧
        (bindingOk s q p = true → (row.operatorOnly = true → q.operator = true) → s.start.ready = true →
          ((actsOn s q p = true ∧ issuerScrubbing s p = true ∧ p.opcode ≠ 0x0A03) → headerFault s q p = some ⟨0x0202, 0, []⟩) ∧
          ((actsOn s q p = false ∨ issuerScrubbing s p = false ∨ p.opcode = 0x0A03) →
            (((row.expert = true ∧ pktExpert p = false) ∨ (pktExpert p = true ∧ q.expertOk = false)) →
              headerFault s q p = some ⟨0x0105, 0, []⟩) ∧
            ((row.expert = true → pktExpert p = true) → (pktExpert p = true → q.expertOk = true) →
              ((p.cfgver ≠ 0 ∧ p.cfgver ≠ cfgVersion s) → headerFault s q p = some ⟨0x0106, 0, []⟩) ∧
              (p.cfgver = 0 ∨ p.cfgver = cfgVersion s →
                (pktInline p = true → 96 < p.plen.toNat → headerFault s q p = some ⟨0x0102, 0x02000000, []⟩) ∧
                ((pktInline p = false ∨ p.plen.toNat ≤ 96) → row.accepts p.plen.toNat = false →
                  headerFault s q p = some ⟨0x0102, 0x03000000, []⟩) ∧
                ((pktInline p = false ∨ p.plen.toNat ≤ 96) → row.accepts p.plen.toNat = true → headerFault s q p = none)))))))

/-- A command that passes its checks starts at once where no command of its pair waits and it carries no FENCE or nothing
earlier is outstanding; a STEP_SUBMIT starts at once in every case. Another command that carries FENCE while an earlier one
has not ended, or that comes behind one that waits, is kept in order, marked as waiting, and has no effect yet. The oldest
of those kept does not start while it carries FENCE and a command fetched before it is outstanding; it starts, its mark
gone, once it has no FENCE or nothing outstanding of its pair was fetched before it. (R162, R324.) -/
def Obligations.FenceHoldsACommandBack : Prop :=
  (∀ (body : CmdBody) (p c : Packet) (s : State) (q : QueuePair), findPair s p.qp = some q → canFetch s q = true →
    passChecks (fetchedState p s) q p = .ok c → q.fenced = [] → waitsFence c = false ∨ q.outstanding = [] →
    fetchPacket body p s = settle (deliver c (body q c (fetchedState p s)))) ∧
  (∀ (body : CmdBody) (p c : Packet) (s : State) (q : QueuePair), findPair s p.qp = some q → canFetch s q = true →
    passChecks (fetchedState p s) q p = .ok c → c.opcode = 0x0401 →
    fetchPacket body p s = settle (deliver c (body q c (fetchedState p s)))) ∧
  (∀ (body : CmdBody) (p c : Packet) (s : State) (q : QueuePair), findPair s p.qp = some q → canFetch s q = true →
    passChecks (fetchedState p s) q p = .ok c → c.opcode ≠ 0x0401 → q.fenced ≠ [] ∨ (waitsFence c = true ∧ q.outstanding ≠ []) →
    fetchPacket body p s = settle (updPair c.qp
      (fun q => { q with fenced := q.fenced ++ [c], outstanding := holdLast q.outstanding }) (fetchedState p s))) ∧
  (∀ p : Packet, waitsFence p = true ↔ pktFence p = true ∧ p.opcode ≠ 0x0401) ∧
  (∀ (os : List Outstanding) (o : Outstanding), holdLast (os ++ [o]) = os ++ [{ o with waits := true }]) ∧
  ∀ (s : State) (qp : BitVec 6) (q : QueuePair) (p : Packet) (rest : List Packet), findPair s qp = some q → q.fenced = p :: rest →
    (waitsFence p = true → (∃ o os, q.outstanding = o :: os ∧ o.waits = false) → startHead qp s = s) ∧
    (waitsFence p = false ∨ (∀ o os, q.outstanding = o :: os → o.waits = true) →
      startHead qp s = deliver p (commandBody p q p (updPair qp
        (fun q => { q with fenced := rest, outstanding := startFirst q.outstanding }) s)))

/-- QUEUE_CREATE with every field within its limits, a pair number not in use and an existing partition adds the pair,
empty, bound as the parameters say, and completes OK; a number in use, 0 or above 63 gives NOT_PERMITTED. QUEUE_DELETE of
another pair begins the deletion and waits; of the issuing pair it gives NOT_PERMITTED. QUEUE_STATUS reports fetch point,
next slot, commands outstanding, steps held and the state, zeros for an absent pair. (R320, R321.) -/
def Obligations.QueueCommands : Prop :=
  (∀ (s : State) (q : QueuePair) (p c : Packet), Fetches 0x0101 s q p c →
    1 ≤ par c 0 1 → par c 0 1 ≤ 63 → findPair (fetchedState p s) (BitVec.ofNat 6 (par c 0 1)) = none →
    1 ≤ par c 1 1 → par c 1 1 ≤ 16 → par c 2 1 ≤ 1 → par c 6 1 ≤ 63 → par c 24 2 ≤ 1000 → par c 8 8 % 4096 = 0 → par c 16 8 % 4096 = 0 →
    par c 3 1 ≤ 15 ∨ (par c 3 1 = 255 ∧ par c 2 1 = 0) → par c 4 1 ≤ 7 ∨ (par c 4 1 = 255 ∧ par c 2 1 = 0) →
    par c 3 1 = 255 ∨ (findPart s (BitVec.ofNat 4 (par c 3 1))).isSome →
    exec (.queueCreate p) s = completes p [] { fetchedState p s with pairs := (fetchedState p s).pairs ++ [{
      qp := BitVec.ofNat 6 (par c 0 1), operator := decide (par c 2 1 = 0)
      part := if par c 3 1 = 255 then none else some (BitVec.ofNat 4 (par c 3 1))
      ctx := if par c 4 1 = 255 then none else some (BitVec.ofNat 3 (par c 4 1))
      expertOk := decide (par c 5 1 % 2 = 1), quietAccept := decide (par c 5 1 / 2 % 2 = 1), vector := par c 6 1
      coalCount := par c 7 1, coalTime := par c 24 2, sqBase := BitVec.ofNat 64 (par c 8 8), cqBase := BitVec.ofNat 64 (par c 16 8)
      depth := 2 ^ par c 1 1, fetch := 0, tail := 0, slot := 0, head := 0, phase := true, cseq := 0, gathered := 0
      state := .active, deleter := none, outstanding := [], waiting := [], fenced := [], energy := 0, pubEnergy := 0 }] }) ∧
  (∀ (s : State) (q : QueuePair) (p c : Packet), Fetches 0x0101 s q p c →
    par c 0 1 = 0 ∨ 63 < par c 0 1 ∨ (findPair (fetchedState p s) (BitVec.ofNat 6 (par c 0 1))).isSome →
    exec (.queueCreate p) s = .next (settle (finish (pktOrigin p) stNotPermitted 0 [] (fetchedState p s)))) ∧
  (∀ (s : State) (q d : QueuePair) (p c : Packet), Fetches 0x0102 s q p c → 1 ≤ par c 0 1 → par c 0 1 ≤ 63 →
    BitVec.ofNat 6 (par c 0 1) ≠ p.qp → findPair (fetchedState p s) (BitVec.ofNat 6 (par c 0 1)) = some d → d.state ≠ .deleting →
    exec (.queueDelete p) s = happens (beginDeletion (BitVec.ofNat 6 (par c 0 1)) (some (pktOrigin p)) (fetchedState p s))) ∧
  (∀ (s : State) (q : QueuePair) (p c : Packet), Fetches 0x0102 s q p c → 1 ≤ par c 0 1 → par c 0 1 ≤ 63 →
    BitVec.ofNat 6 (par c 0 1) = p.qp →
    exec (.queueDelete p) s = .next (settle (finish (pktOrigin p) stNotPermitted 0 [] (fetchedState p s)))) ∧
  (∀ (s : State) (q d : QueuePair) (p c : Packet), Fetches 0x0103 s q p c → par c 0 1 ≤ 63 →
    q.operator = true ∨ BitVec.ofNat 6 (par c 0 1) = q.qp →
    findPair (fetchedState p s) (BitVec.ofNat 6 (par c 0 1)) = some d →
    exec (.queueStatus p) s = completes p (toLE 2 d.fetch ++ toLE 2 d.slot ++ toLE 4 d.outstanding.length
      ++ toLE 4 (heldOfPair (fetchedState p s) d.qp) ++ toLE 1 (match d.state with | .active => 1 | .stopped => 2 | .deleting => 3)
      ++ zeros 3) (fetchedState p s)) ∧
  ∀ (s : State) (q : QueuePair) (p c : Packet), Fetches 0x0103 s q p c → par c 0 1 ≤ 63 → q.operator = true →
    findPair (fetchedState p s) (BitVec.ofNat 6 (par c 0 1)) = none →
    exec (.queueStatus p) s = completes p (zeros 16) (fetchedState p s)

/-- CONFIG_READ reports a zero result where the set asked for is absent, and otherwise copies its bytes to DEST and reports
version, PENDING and size. CONFIG_APPLY of a set whose SIZE is the header's and that changes no DEVICE_ID while a group
exists is ACCEPTED and kept to be validated; while a set is PENDING it gives NOT_PERMITTED. A set that passes R414 comes
into force PENDING, the old one becomes previous, the running values follow it, EVENTS.CONFIG is set, and CONFIG record 0 is
written; one that fails ends with its status, the configuration as it was. CONFIG_CONFIRM of the PENDING version makes it
CONFIRMED; of another it gives CONFIG_VERSION_MISMATCH; with nothing PENDING it gives NOT_PERMITTED. CONFIG_ROLLBACK brings
the previous set into force CONFIRMED, discards the other and keeps no previous; the automatic rollback does so for a
PENDING set with record event 3. (R415, R414, R411.) -/
def Obligations.ConfigurationCommands : Prop :=
  (∀ (s : State) (q : QueuePair) (p c : Packet), Fetches 0x0201 s q p c →
    (par c 0 1 = 0 ∧ s.config.inForce = none) ∨ (par c 0 1 = 1 ∧ s.config.previous = none) →
    exec (.configRead p) s = completes p (zeros 12) (fetchedState p s)) ∧
  (∀ (s : State) (q : QueuePair) (p c : Packet) (k : ConfigSet) (b : Option (List Nat)), Fetches 0x0201 s q p c →
    par c 0 1 = 0 → s.config.inForce = some k → k.bytes.length ≤ par c 12 4 →
    paramBuffer (fetchedState p s) q c (par c 4 8) (par c 12 4) = .ok b →
    exec (.configRead p) s = completes p
      (toLE 4 k.version.toNat ++ toLE 1 (if s.config.pending then 1 else 0) ++ zeros 3 ++ toLE 4 k.bytes.length)
      (putBuffer q c b (par c 4 8) k.bytes (fetchedState p s))) ∧
  (∀ (s : State) (q : QueuePair) (p c : Packet) (set : List Byte), Fetches 0x0202 s q p c → s.config.pending = false →
    takeBuffer (fetchedState p s) q c (par c 0 8) (min (par c 8 4) 327680) = .ok set → fld set 16 4 = par c 8 4 →
    idChangeBarred (fetchedState p s) set = false →
    exec (.configApply p) s = accepts p { fetchedState p s with config := { s.config with
      applying := s.config.applying ++ [(pktOrigin p, set)] } }) ∧
  (∀ (s : State) (q : QueuePair) (p c : Packet), Fetches 0x0202 s q p c → s.config.pending = true →
    exec (.configApply p) s = .next (settle (finish (pktOrigin p) stNotPermitted 0 [] (fetchedState p s)))) ∧
  (∀ (s : State) (o : Origin) (set : List Byte) (rest : List (Origin × List Byte)), started s = true →
    s.config.applying = (o, set) :: rest → s.config.pending = false →
    idChangeBarred { s with config := { s.config with applying := rest } } set = false →
    checkSet { s with config := { s.config with applying := rest } } set = none →
    exec .configApplyDone s = happens (finish o stOk 0 [] (recordConfig 0 (cfgVersion s) (raiseEvent evConfig
      (supply (some ⟨fld32 set 8, set⟩) { s with config :=
        { inForce := some ⟨fld32 set 8, set⟩, previous := s.config.inForce, pending := true, applying := rest } }))))) ∧
  (∀ (s : State) (o : Origin) (set : List Byte) (rest : List (Origin × List Byte)) (e : Stop), started s = true →
    s.config.applying = (o, set) :: rest → s.config.pending = false →
    idChangeBarred { s with config := { s.config with applying := rest } } set = false →
    checkSet { s with config := { s.config with applying := rest } } set = some e →
    exec .configApplyDone s = happens (finish o e.status e.detail e.result
      { s with config := { s.config with applying := rest } })) ∧
  (∀ (s : State) (q : QueuePair) (p c : Packet), Fetches 0x0203 s q p c →
    (s.config.pending = false → exec (.configConfirm p) s = .next (settle (finish (pktOrigin p) stNotPermitted 0 [] (fetchedState p s)))) ∧
    (s.config.pending = true → par32 c 0 ≠ cfgVersion s →
      exec (.configConfirm p) s = .next (settle (finish (pktOrigin p) stConfig 0 [] (fetchedState p s)))) ∧
    (s.config.pending = true → par32 c 0 = cfgVersion s →
      exec (.configConfirm p) s = completes p [] (recordConfig 1 (setVersion s.config.previous)
        { fetchedState p s with config := { s.config with pending := false } }))) ∧
  (∀ (s : State) (q : QueuePair) (p c : Packet), Fetches 0x0204 s q p c →
    (s.config.previous = none → exec (.configRollback p) s = .next (settle (finish (pktOrigin p) stNotPermitted 0 [] (fetchedState p s)))) ∧
    (s.config.previous ≠ none → exec (.configRollback p) s = completes p [] (recordConfig 2 (cfgVersion s)
      (supply s.config.previous { fetchedState p s with config :=
        { inForce := s.config.previous, previous := none, pending := false, applying := s.config.applying } })))) ∧
  ∀ s : State, started s = true → s.config.pending = true →
    exec .configAutoRollback s = happens (recordConfig 3 (cfgVersion s) (supply s.config.previous { s with config :=
      { inForce := s.config.previous, previous := none, pending := false, applying := s.config.applying } }))

/-- A record whose body is at most 1,008 bytes is LEN words of 8 bytes long; its class, type, PVALID with PARTITION, REDUCED
and severity stand at their bits and SEQ is the low half of its number; a record about no partition has PVALID 0; a reduced
record has LEN 2 and its time cut to whole seconds; the time word and the body, zero-padded to 8 bytes, follow. Fewer than
2,000 records of this second having been written, a record takes the number NEXT, NEXT advances by one, EVENTS.RECORDER is
set, and what is held afterwards is the new record, the records below 4,096 and those among the latest 4,096. Beyond 2,000 a
record is only counted. When the second has passed (the row DROPPED, log 3) the counts are cleared, and what was not written
is reported in one DROPPED record. (R409, R410, R411, R412.) -/
def Obligations.RecordsAreNumberedAndLimited : Prop :=
  (∀ (n cls typ sev : Nat) (part : Option (BitVec 4)) (reduced : Bool) (t : Nat × Nat) (body : List Byte),
    cls < 256 → typ < 256 → sev < 4 → body.length ≤ 1008 → t.1 < 2 ^ 48 → t.2 < 2 ^ 16 →
    ∀ b, b = recordBytes n cls typ sev part reduced t body →
    b.length = 8 * fld b 0 1 ∧ fld b 1 1 = cls ∧ fld b 2 1 = typ ∧ fld b 3 1 / 64 = sev ∧ fld b 4 4 = n % 2 ^ 32 ∧
    fld b 3 1 % 64 = (match part with | some x => 16 + x.toNat | none => 0) + (if reduced then 32 else 0) ∧
    (reduced = true → fld b 0 1 = 2 ∧ fld b 8 6 = t.1 / 1000 * 1000) ∧
    (reduced = false → fld b 8 6 = t.1 ∧ slice b 16 body.length = body ∧ ∀ i, 16 + body.length ≤ i → nth b i 0 = 0) ∧
    fld b 14 2 = t.2) ∧
  ((∀ (s : State) (cls typ sev : Nat) (part : Option (BitVec 4)) (body : List Byte), s.recorder.inSecond < 2000 →
    ∃ bytes t, record cls typ sev part body s = raiseEvent evRecorder t ∧
      bytes = recordBytes s.recorder.next cls typ sev part (match part with
        | some x => (match findPart s x with | some y => y.confidential | none => false) | none => false) (timeWord s) body ∧
      t = { s with draw := s.draw + 1, recorder := t.recorder } ∧
      t.recorder.next = s.recorder.next + 1 ∧ t.recorder.inSecond = s.recorder.inSecond + 1 ∧
      t.recorder.dropped = s.recorder.dropped ∧ t.recorder.time = s.recorder.time ∧
      ∀ e, e ∈ t.recorder.records ↔ e = (s.recorder.next, bytes) ∨
        (e ∈ s.recorder.records ∧ (e.1 < 4096 ∨ t.recorder.next ≤ e.1 + 4096))) ∧
  (∀ (s : State) (cls typ sev : Nat) (part : Option (BitVec 4)) (body : List Byte), 2000 ≤ s.recorder.inSecond →
    record cls typ sev part body s = { s with recorder := { s.recorder with dropped := s.recorder.dropped + 1 } }) ∧
  (∀ s : State, alive s = true → s.power.corrSuspect = false → s.recorder.dropped = 0 →
    exec .dropped s = happens { s with
      recorder := { s.recorder with inSecond := 0, dropped := 0 }
      cxl := { s.cxl with decoders := s.cxl.decoders.map fun d => { d with noted := false } }
      fabric := { s.fabric with noted := [] } }) ∧
  ∀ s : State, alive s = true → s.power.corrSuspect = false → s.recorder.dropped ≠ 0 →
    exec .dropped s = happens (record 0x00 0x05 0 none (toLE 8 s.recorder.dropped) { s with
      recorder := { s.recorder with inSecond := 0, dropped := 0 }
      cxl := { s.cxl with decoders := s.cxl.decoders.map fun d => { d with noted := false } }
      fabric := { s.fabric with noted := [] } }))

/-- A write of REC_START.LO sets the low half of the start and BUSY; one of REC_START.HI sets the high half alone. Where
BUSY is set, the end of the fill clears it and sets GAP, COUNT, REC_FIRST and the window: REC_FIRST is the number wanted,
GAP clear, unless that is 4,096 or more and below NEXT less 4,096; then it is NEXT less 4,096, GAP set. The window holds
COUNT whole records from its offset 0, consecutive in number from REC_FIRST, at most 256 of at most 4,096 bytes together;
where the records held stand in rising order, it ends only where 256 are in it, or the next one is not held or does not fit.
Where every record held has a number below NEXT, a REC_FIRST at or beyond NEXT leaves COUNT 0. Without BUSY the end of a
fill does nothing. Window bytes beyond BYTES read as zero; a record written later leaves the window as it is. The cursor
registers read as R413's table lays them out. (R412, R413.) -/
def Obligations.RecorderWindowFills : Prop :=
  (∀ (s : State) (v : U32), hostReach s = true →
    exec (.recStartWrite v) s = happens { s with bar := { s.bar with
      recStart := ((s.bar.recStart >>> 32) <<< 32) ||| v.setWidth 64, recBusy := true } } ∧
    exec (.registerWrite 0x400C 4 v) s = happens { s with bar := { s.bar with
      recStart := (s.bar.recStart.setWidth 32).setWidth 64 ||| (v.setWidth 64 <<< 32) } }) ∧
  (∀ s : State, alive s = true → s.bar.recBusy = false → exec .recorderFillDone s = happens s) ∧
  (∀ s : State, alive s = true → s.bar.recBusy = true →
    ∃ (n : Nat) (gap : Bool) (bs : List (List Byte)),
      exec .recorderFillDone s = happens { s with bar := { s.bar with
        recBusy := false, recGap := gap, recCount := bs.length, recFirst := BitVec.ofNat 64 n, window := bs.flatten } } ∧
      (gap = true ↔ 4096 ≤ s.bar.recStart.toNat ∧ s.bar.recStart.toNat + 4096 < s.recorder.next) ∧
      n = (if gap then s.recorder.next - 4096 else s.bar.recStart.toNat) ∧
      bs.length ≤ 256 ∧ bs.flatten.length ≤ 4096 ∧
      (∀ i b, bs[i]? = some b → (n + i, b) ∈ s.recorder.records) ∧
      (RecorderRising s.recorder → bs.length = 256 ∨
        ∀ b, (n + bs.length, b) ∈ s.recorder.records → 4096 < bs.flatten.length + b.length) ∧
      (RecorderSound s.recorder → s.recorder.next ≤ n → bs = [])) ∧
  (∀ (s : State) (k : Nat), k < 1024 → s.bar.window.length ≤ 4 * k → barRead s (0x5000 + 4 * k) = 0) ∧
  (∀ (s : State) (cls typ sev : Nat) (part : Option (BitVec 4)) (body : List Byte),
    (record cls typ sev part body s).bar.window = s.bar.window) ∧
  ∀ s : State, barRead s 0x4000 = BitVec.ofNat 32 s.recorder.next ∧
    barRead s 0x4004 = BitVec.ofNat 32 (s.recorder.next % 2 ^ 64 / 2 ^ 32) ∧
    barRead s 0x4008 = s.bar.recStart.setWidth 32 ∧ barRead s 0x400C = (s.bar.recStart >>> 32).setWidth 32 ∧
    barRead s 0x4014 = s.bar.recFirst.setWidth 32 ∧ barRead s 0x4018 = (s.bar.recFirst >>> 32).setWidth 32 ∧
    (∀ k, 7 ≤ k → k < 1024 → barRead s (0x4000 + 4 * k) = 0) ∧
    (s.bar.window.length ≤ 4096 → s.bar.recCount ≤ 256 → ∀ j,
      (barRead s 0x4010).getLsbD j = if j < 13 then s.bar.window.length.testBit j else if j < 22 then s.bar.recCount.testBit (j - 13)
        else if j = 30 then s.bar.recGap else if j = 31 then s.bar.recBusy else false)

/-- TIME_SET with bits 63 to 48 of TIME zero sets the base and its uncertainty, backwards too, and writes one TIME_SET
record with the old and the new time word; otherwise it gives BAD_LENGTH. From then on the time word counts the milliseconds
elapsed since (a free value, log 3) from TIME, with one millisecond more of uncertainty for each 3,333. RESERVE_STATUS
copies its 64 bytes to DEST and reports AT_MASK. RESERVE_LOW is set exactly while some bit of AT_MASK is. (R410, R406,
R328.) -/
def Obligations.TimeAndReserveCommands : Prop :=
  (∀ (s : State) (q : QueuePair) (p c : Packet), Fetches 0x0B01 s q p c → par c 0 8 < 2 ^ 48 →
    ∀ t : State, t = { fetchedState p s with recorder := { s.recorder with
      time := some (par c 0 8, par c 8 2, Config.elapsedMs s.draw) } } →
    exec (.timeSet p) s = completes p [] (record 0x00 0x02 0 none (wordBytes (timeWord s) ++ wordBytes (timeWord t)) t)) ∧
  (∀ (s : State) (q : QueuePair) (p c : Packet), Fetches 0x0B01 s q p c → 2 ^ 48 ≤ par c 0 8 →
    exec (.timeSet p) s = .next (settle (finish (pktOrigin p) stBadLength 0 [] (fetchedState p s)))) ∧
  (∀ (s : State) (ms unc at0 : Nat), s.recorder.time = some (ms, unc, at0) →
    timeWord s = ((ms + (Config.elapsedMs s.draw - at0)) % 2 ^ 48, min 0xFFFE (unc + (Config.elapsedMs s.draw - at0) / 3333))) ∧
  (∀ s : State, s.recorder.time = none → (timeWord s).2 = 0xFFFF) ∧
  (∀ (s : State) (q : QueuePair) (p c : Packet) (b : Option (List Nat)), Fetches 0x0B02 s q p c → par c 0 8 % 64 = 0 → 64 ≤ par c 8 4 →
    paramBuffer (fetchedState p s) q c (par c 0 8) (par c 8 4) = .ok b →
    exec (.reserveStatus p) s = completes p (toLE 4 s.reserve.atMask.toNat) (putBuffer q c b (par c 0 8)
      (toLE 1 ((if reserveLow s then 1 else 0) + (if s.start.oos then 2 else 0)) ++ zeros 3 ++ toLE 4 s.reserve.atMask.toNat
        ++ (reserveRows (fetchedState p s)).flatMap fun r => toLE 2 r.value ++ toLE 2 r.threshold) (fetchedState p s))) ∧
  ∀ s : State, reserveLow s = true ↔ ∃ k, k < 14 ∧ s.reserve.atMask.getLsbD k = true

/-- Memory and tags being in their forms, a write of cells of distinct addresses that lie in a line which can be reached and
lies on no layer that is being absorbed leaves each of them reading as written and every other byte of memory as it was. A
line on the layer being absorbed takes its stripe's bytes from parity first, and the stripe has no parity from then on;
bytes of other lines stay as they were. In both cases a free or valid line becomes valid; a lost line becomes valid where
all 64 bytes are written and stays lost otherwise; every other line keeps its tag. A write to a line of a withdrawn clearing
layer, of a column without a path, or left behind by a broken copy is discarded. Where memory and parity are in their forms
and the stripe of the line has parity, one byte written changes that byte of its stripe's parity line by old data XOR new
data, and no other byte of parity. (R184, R189, R41, R39, R187, R188, R196, R198.) -/
def Obligations.WritesTouchOnlyTheirBytes : Prop :=
  (∀ (s : State) (gen : Bool) (l : Nat) (cells : List Host.Cell), Sound s → deadLine s l = false → (∀ x ∈ cells, lineOf x.1 = l) →
    (cells.Pairwise fun x y => x.1 ≠ y.1) → ∀ t, t = writeLine gen s l cells →
    (∀ x ∈ cells, memGet t.mem x.1 = x.2) ∧
    (onAbsorbed s l = false → ∀ a, (∀ x ∈ cells, x.1 ≠ a) → memGet t.mem a = memGet s.mem a) ∧
    (onAbsorbed s l = true → (∀ a, lineOf a ≠ l → memGet t.mem a = memGet s.mem a) ∧
      (∀ i, i < 64 → (∀ x ∈ cells, x.1 ≠ 64 * l + i) → memGet t.mem (64 * l + i) = nth (fromParity s l) i 0) ∧ hasParity t l = false) ∧
    (stateOf s.tags l ≠ some .lost ∨ 64 ≤ cells.length → tagOf t.tags l = some ⟨l, gen, .valid⟩) ∧
    (stateOf s.tags l = some .lost → cells.length < 64 → tagOf t.tags l = some ⟨l, gen, .lost⟩) ∧
    (∀ k, k ≠ l → tagOf t.tags k = tagOf s.tags k) ∧
    (onAbsorbed s l = false →
      t = { s with mem := t.mem, parity := t.parity, tags := t.tags, dirtyTags := t.dirtyTags, laneCounts := t.laneCounts })) ∧
  (∀ (s : State) (gen : Bool) (l : Nat) (cells : List Host.Cell), deadLine s l = true → writeLine gen s l cells = s) ∧
  ∀ (s : State) (gen : Bool) (a : Nat) (b : Byte), Sound s → Memory.wf s.parity = true → deadLine s (lineOf a) = false →
    onAbsorbed s (lineOf a) = false → hasParity s (lineOf a) = true → ∀ t, t = writeLine gen s (lineOf a) [(a, b)] →
    memGet t.parity (parityPlace a) = memGet s.parity (parityPlace a) ^^^ memGet s.mem a ^^^ b ∧
    ∀ x, x ≠ parityPlace a → memGet t.parity x = memGet s.parity x

/-- After lines are freed each of them has no tag and every byte of it reads as zero; every other line keeps its tag and its
bytes, and nothing else changes but parity and the tag lines that are to be written back. A line set lost keeps its bytes,
but nothing reads it: its state is lost, and no other line's tag changes. (R181, R184, R187, R407.) -/
def Obligations.FreedLinesReadZero : Prop :=
  (∀ (s : State) (p : Nat → Bool) (t : State), t = freeLines p s →
    (∀ a, memGet t.mem a = if p (lineOf a) then 0 else memGet s.mem a) ∧
    (∀ l, tagOf t.tags l = if p l then none else tagOf s.tags l) ∧
    t = { s with mem := t.mem, parity := t.parity, tags := t.tags, dirtyTags := t.dirtyTags }) ∧
  ∀ (s : State) (gen : Bool) (l : Nat), Sound s →
    lineState (loseLine gen l s) l = some .lost ∧ (∀ a, memGet (loseLine gen l s).mem a = memGet s.mem a) ∧
    ∀ k, k ≠ l → tagOf (loseLine gen l s).tags k = tagOf s.tags k

/-- For a region within the layers 0 to 19 and the columns of its partition's tracts: each of its bytes has a valid device
address (in no hole, not in the reserved area) of one of its layers, and the place of that address in the region is the byte
it came from, so two bytes never share an address; and an address that is not one of these has no place in the region.
(R174, R175, R178, R180, R176.) -/
def Obligations.RegionBytesHaveOneAddress : Prop :=
  ∀ r : Region, r.lfirst + r.lcount ≤ 20 → 0 < r.ccount → r.cfirst + r.ccount ≤ 16384 * (tractsOf r.tracts).length →
    (∀ x, x < r.size → r.offset (r.addr x) = some x ∧ validAddr (r.addr x) = true ∧
      r.lfirst ≤ addrLayer (r.addr x) ∧ addrLayer (r.addr x) < r.lfirst + r.lcount) ∧
    ∀ a x, a < 2 ^ 42 → r.offset a = some x → x < r.size ∧ r.addr x = a

/-- In every column and row group the sixteen root layers and the parity line lie in L6 to L22, each physical layer holding
one of them; the parity of row group g of column c lies at index (c + g) mod 17 and logical layer l at (P + 1 + l) mod 17.
Once a root layer has been mapped out, what it held lies where the parity was, no two logical layers share a physical one,
and none lies on the layer mapped out. Clearing layers 16 to 19 lie in L2 to L5. (R177, R198.) -/
def Obligations.StripesLieOnDistinctLayers : Prop :=
  (∀ core line : Nat, parityIndex core line = (core + line / 64) % 17 ∧
    ∀ l, physIndex core line l = (parityIndex core line + 1 + l) % 17) ∧
  (∀ core line l : Nat, l < 16 → physIndex core line l < 17 ∧ physIndex core line l ≠ parityIndex core line ∧
    ∀ k, k < 16 → physIndex core line k = physIndex core line l → k = l) ∧
  (∀ (s : State) (f core line : Nat), 6 ≤ f → f ≤ 22 → layerState s f = 2 →
    (∀ g, 6 ≤ g → g ≤ 22 → layerState s g = 2 → g = f) →
    ∀ l, l < 16 → physLayer s l core line ≠ f ∧ 6 ≤ physLayer s l core line ∧ physLayer s l core line ≤ 22 ∧
      ∀ k, k < 16 → physLayer s k core line = physLayer s l core line → k = l) ∧
  ∀ (s : State) (core line l : Nat), 16 ≤ l → l ≤ 19 → physLayer s l core line = l - 14

/-- REGION_ALLOC within the limits of its table, meeting no region and no withdrawn layer, adds the region with a fresh
handle (log 4) and makes every line of it free: without ZERO it completes OK with handle and size; with ZERO it is ACCEPTED,
and at the end of the fill zeros are written to every line of the region and the final completion is posted. A broken limit
gives BAD_LENGTH; a shared segment, 1,024 regions or a withdrawn layer gives NO_RESOURCE. REGION_FREE of a region that
nothing uses and nothing fills makes its lines free and takes it away; an unknown handle or a region in use gives
NOT_PERMITTED. REGION_QUERY reports the region and its lost lines; an unknown handle gives NOT_PERMITTED. (R179, R180, R181,
R182, R184.) -/
def Obligations.RegionCommands : Prop :=
  (∀ (s : State) (q : QueuePair) (p c : Packet) (x : Partition) (r : Region), Fetches 0x0301 s q p c →
    findPart s (pktPart p) = some x → par c 0 1 ≤ 2 → (par c 0 1 = 0 → par c 2 1 + par c 3 1 ≤ 16) →
    (par c 0 1 ≠ 0 → 16 ≤ par c 2 1 ∧ par c 2 1 + par c 3 1 ≤ 20) → 1 ≤ par c 3 1 → 1 ≤ par c 8 4 →
    par c 4 4 + par c 8 4 ≤ 16384 * (tractsOf x.tracts).length →
    (par c 0 1 = 2 → par c 4 4 % 16 = 0 ∧ par c 8 4 % 16 = 0 ∧ par c 1 1 / 2 % 2 = 0) →
    r = { handle := freshHandle (s.partitions.flatMap fun p => p.regions.map (·.handle)) s, kind := par c 0 1
          host := decide (par c 1 1 / 2 % 2 = 1), zero := decide (par c 1 1 % 2 = 1), lfirst := par c 2 1, lcount := par c 3 1
          cfirst := par c 4 4, ccount := par c 8 4, tracts := x.tracts
          filling := if par c 1 1 % 2 = 1 then some (pktOrigin p) else none } →
    (x.regions.length < 1024 → x.regions.any (regionsMeet r) = false → includesWithdrawn s r = false →
      (par c 1 1 % 2 = 0 → exec (.regionAlloc p) s = completes p (toLE 4 r.handle.toNat ++ zeros 4 ++ toLE 8 r.size)
        (updPart x.num (fun x => { x with regions := x.regions ++ [r] }) (freeLines r.holds { fetchedState p s with draw := s.draw + 1 }))) ∧
      (par c 1 1 % 2 = 1 → exec (.regionAlloc p) s = accepts p
        (updPart x.num (fun x => { x with regions := x.regions ++ [r] }) (freeLines r.holds { fetchedState p s with draw := s.draw + 1 })))) ∧
    (1024 ≤ x.regions.length ∨ x.regions.any (regionsMeet r) = true ∨ includesWithdrawn s r = true →
      exec (.regionAlloc p) s = .next (settle (finish (pktOrigin p) stNoResource 0 [] (fetchedState p s))))) ∧
  (∀ (s : State) (q : QueuePair) (p c : Packet) (x : Partition), Fetches 0x0301 s q p c → findPart s (pktPart p) = some x →
    2 < par c 0 1 ∨ par c 3 1 = 0 ∨ par c 8 4 = 0 ∨ 16384 * (tractsOf x.tracts).length < par c 4 4 + par c 8 4 ∨
      (par c 0 1 = 0 ∧ 16 < par c 2 1 + par c 3 1) ∨ (par c 0 1 ≠ 0 ∧ (par c 2 1 < 16 ∨ 20 < par c 2 1 + par c 3 1)) ∨
      (par c 0 1 = 2 ∧ (par c 1 1 / 2 % 2 = 1 ∨ par c 4 4 % 16 ≠ 0 ∨ par c 8 4 % 16 ≠ 0)) →
    exec (.regionAlloc p) s = .next (settle (finish (pktOrigin p) stBadLength 0 [] (fetchedState p s)))) ∧
  (∀ (s : State) (part : BitVec 4) (h : U32) (x : Partition) (r : Region) (o : Origin), started s = true →
    findPart s part = some x → x.region h = some r → r.filling = some o →
    exec (.zeroFillDone part h) s = happens (finish o stOk 0 (toLE 4 h.toNat ++ zeros 4 ++ toLE 8 r.size)
      (updPart part (fun x => { x with regions := updWhere (fun r => r.handle = h) (fun r => { r with filling := none }) x.regions })
        ((List.range (r.size / 64)).foldl (fun s i =>
          writeLine x.gen s (lineOf (r.addr (64 * i))) ((List.range 64).map fun j => (64 * lineOf (r.addr (64 * i)) + j, 0))) s)))) ∧
  (∀ (s : State) (q : QueuePair) (p c : Packet) (x : Partition) (r : Region), Fetches 0x0302 s q p c →
    findPart s (pktPart p) = some x → x.region (par32 c 0) = some r →
    (regionUsed (fetchedState p s) x r = false → r.filling = none →
      exec (.regionFree p) s = completes p [] (updPart x.num (fun x => { x with regions := x.regions.filter fun g => g.handle ≠ r.handle })
        (freeLines r.holds (fetchedState p s)))) ∧
    (regionUsed (fetchedState p s) x r = true →
      exec (.regionFree p) s = .next (settle (finish (pktOrigin p) stNotPermitted 0 [] (fetchedState p s))))) ∧
  (∀ (s : State) (q : QueuePair) (p c : Packet) (x : Partition), Fetches 0x0302 s q p c →
    findPart s (pktPart p) = some x → x.region (par32 c 0) = none →
    exec (.regionFree p) s = .next (settle (finish (pktOrigin p) stNotPermitted 0 [] (fetchedState p s)))) ∧
  ∀ (s : State) (q : QueuePair) (p c : Packet) (x : Partition), Fetches 0x0303 s q p c → findPart s (pktPart p) = some x →
    (∀ r : Region, x.region (par32 c 0) = some r → exec (.regionQuery p) s = completes p
      (toLE 4 r.cfirst ++ toLE 4 r.ccount ++ toLE 1 r.lfirst ++ toLE 1 r.lcount ++ toLE 1 r.kind
        ++ toLE 1 ((if r.zero then 1 else 0) + (if r.host then 2 else 0)) ++ toLE 4 (min (2 ^ 32 - 1) (lostLinesOf s r))) (fetchedState p s)) ∧
    (x.region (par32 c 0) = none →
      exec (.regionQuery p) s = .next (settle (finish (pktOrigin p) stNotPermitted 0 [] (fetchedState p s))))

/-- HDM_BIND of a HOST region of an existing partition that is neither scrubbing nor confidential to a decoder without a
region binds it and reports the region's size and the window size, the size rounded up to 256 MiB. A decoder that holds a
region, a region that is not HOST, an unknown handle or an absent partition gives NOT_PERMITTED; a scrubbing partition gives
SCRUBBING; a confidential one gives CONFIDENTIAL_DENIED; a decoder above 3 or a partition above 15 gives BAD_LENGTH.
HDM_UNBIND leaves the decoder without a region; above 3 it gives BAD_LENGTH. HDM_STATUS reports each decoder's handle, all
ones for one without a region and, to a tenant, for one of another partition. HDM_DECODER_COMMIT commits the decoder with
the base and the size given. (R307, R308, R309, R311, R395, R397.) -/
def Obligations.WindowCommands : Prop :=
  (∀ (s : State) (q : QueuePair) (p c : Packet) (x : Partition) (r : Region), Fetches 0x0310 s q p c → par c 0 1 ≤ 3 → par c 1 1 ≤ 15 →
    findPart s (BitVec.ofNat 4 (par c 1 1)) = some x → x.scrubbing = false → x.confidential = false → x.region (par32 c 4) = some r →
    (r.host = true → (nth s.cxl.decoders (par c 0 1) Decoder.fresh).bound = none →
      exec (.hdmBind p) s = completes p (toLE 8 r.size ++ toLE 8 (2 ^ 28 * ((r.size + (2 ^ 28 - 1)) / 2 ^ 28)))
        (updDecoder (par c 0 1) (fun d => { d with bound := some (BitVec.ofNat 4 (par c 1 1), r.handle) }) (fetchedState p s))) ∧
    (r.host = false ∨ (nth s.cxl.decoders (par c 0 1) Decoder.fresh).bound ≠ none →
      exec (.hdmBind p) s = .next (settle (finish (pktOrigin p) stNotPermitted 0 [] (fetchedState p s))))) ∧
  (∀ (s : State) (q : QueuePair) (p c : Packet), Fetches 0x0310 s q p c → par c 0 1 ≤ 3 → par c 1 1 ≤ 15 →
    (findPart s (BitVec.ofNat 4 (par c 1 1)) = none →
      exec (.hdmBind p) s = .next (settle (finish (pktOrigin p) stNotPermitted 0 [] (fetchedState p s)))) ∧
    ∀ x, findPart s (BitVec.ofNat 4 (par c 1 1)) = some x →
      (x.scrubbing = true → exec (.hdmBind p) s = .next (settle (finish (pktOrigin p) stScrubbing 0 [] (fetchedState p s)))) ∧
      (x.scrubbing = false → x.confidential = true →
        exec (.hdmBind p) s = .next (settle (finish (pktOrigin p) stConfidential 0 [] (fetchedState p s)))) ∧
      (x.scrubbing = false → x.confidential = false → x.region (par32 c 4) = none →
        exec (.hdmBind p) s = .next (settle (finish (pktOrigin p) stNotPermitted 0 [] (fetchedState p s))))) ∧
  (∀ (s : State) (q : QueuePair) (p c : Packet), Fetches 0x0310 s q p c → 3 < par c 0 1 ∨ 15 < par c 1 1 →
    exec (.hdmBind p) s = .next (settle (finish (pktOrigin p) stBadLength 0 [] (fetchedState p s)))) ∧
  (∀ (s : State) (q : QueuePair) (p c : Packet), Fetches 0x0311 s q p c →
    (par c 0 1 ≤ 3 →
      exec (.hdmUnbind p) s = completes p [] (updDecoder (par c 0 1) (fun d => { d with bound := none }) (fetchedState p s))) ∧
    (3 < par c 0 1 → exec (.hdmUnbind p) s = .next (settle (finish (pktOrigin p) stBadLength 0 [] (fetchedState p s))))) ∧
  (∀ (s : State) (q : QueuePair) (p c : Packet), Fetches 0x0312 s q p c →
    exec (.hdmStatus p) s = completes p (s.cxl.decoders.flatMap fun d => toLE 4 (match d.bound with
      | some (x, h) => if q.operator || x = pktPart p then h.toNat else 0xFFFFFFFF
      | none => 0xFFFFFFFF)) (fetchedState p s)) ∧
  ∀ (s : State) (n : BitVec 2) (base : U64) (size : Nat), hostReach s = true →
    exec (.hdmDecoderCommit n base size) s = happens (updDecoder n.toNat
      (fun d => { d with committed := true, base := base, size := size }) s)

/-- An access whose bytes lie in a committed window of a region that is bound, of a partition that is not scrubbing, on a
device in service: its request and its answer travel to the column and back; a read whose lines that have content can all be
read gives the bytes as read, without poison, and one with a line that cannot be read gives poison of its length; where none
of its lines is lost or on a layer being absorbed, and those with content read clean, the bytes are those of memory, and
memory, tags and parity stay as they are; a write of 64 bytes is written as it is, and before a narrower one the old lines
that are valid are read and merged. A decoder without a region, or an access past its region's end: a read gives poison and
a write has no effect, and one HOST record is written, for each decoder and second. In a scrubbing partition, and out of
service, a read gives poison and a write has no effect. An access outside every committed window has no effect, which is the
model's choice (log 40). (R307, R199, R184, R189, R197, R252, R257, R408.) -/
def Obligations.WindowAccesses : Prop :=
  (∀ (s : State) (hpa : U64) (len n x : Nat) (e : ReadErrors), hostReach s = true → lineAccess hpa len = true →
    decoderAt s hpa.toNat = some (n, x) → s.start.oos = false →
    (∀ addrs, windowAt s n x len = .at addrs →
      let ls := ((addrs.map lineOf).eraseDups).filter fun l => lineState s l ≠ none
      let r := readLines 4 [] e ls ((coresOf addrs).foldl (fun s c => cxlTravel c 1 2 s) s)
      (r.1 = true → exec (.cxlMemRead hpa len e) s =
        happens (cxlOut (readAt (asReadLines e ls r.2) addrs) false { r.2 with draw := (asReadLines e ls r.2).draw })) ∧
      (r.1 = false → exec (.cxlMemRead hpa len e) s = happens (cxlOut (zeros len) true r.2)) ∧
      ((∀ l ∈ addrs.map lineOf, lineState s l ≠ some .lost ∧ onAbsorbed s l = false ∧ decodePattern (errorsOf e l) = .clean) →
        ∃ u : State, exec (.cxlMemRead hpa len e) s = happens (cxlOut (addrs.map (memGet s.mem)) false u) ∧
          u.mem = s.mem ∧ u.tags = s.tags ∧ u.parity = s.parity)) ∧
    (windowAt s n x len = .scrubbing →
      exec (.cxlMemRead hpa len e) s = happens { s with out := s.out ++ [.cxlData (zeros len) true] }) ∧
    (windowAt s n x len = .unbound → (nth s.cxl.decoders n Decoder.fresh).noted = true →
      exec (.cxlMemRead hpa len e) s = happens { s with out := s.out ++ [.cxlData (zeros len) true] }) ∧
    (windowAt s n x len = .unbound → (nth s.cxl.decoders n Decoder.fresh).noted = false →
      exec (.cxlMemRead hpa len e) s = happens (recordHost 4 n (updDecoder n (fun d => { d with noted := true })
        { s with out := s.out ++ [.cxlData (zeros len) true] })))) ∧
  (∀ (s : State) (hpa : U64) (data : List Byte) (n x : Nat) (e : ReadErrors), hostReach s = true → lineAccess hpa data.length = true →
    decoderAt s hpa.toNat = some (n, x) → s.start.oos = false →
    (∀ addrs, windowAt s n x data.length = .at addrs →
      let t := (coresOf addrs).foldl (fun s c => cxlTravel c 2 1 s) s
      let ls := ((addrs.map lineOf).eraseDups).filter fun l => lineState s l = some .valid
      (data.length = 64 → exec (.cxlMemWrite hpa data e) s = happens (writeAt addrs data t)) ∧
      (data.length < 64 →
        exec (.cxlMemWrite hpa data e) s = happens (writeAt addrs data (ls.foldl (fun s l => mergeLine e l s) t)))) ∧
    (windowAt s n x data.length = .scrubbing → exec (.cxlMemWrite hpa data e) s = happens s) ∧
    (windowAt s n x data.length = .unbound → (nth s.cxl.decoders n Decoder.fresh).noted = true →
      exec (.cxlMemWrite hpa data e) s = happens s) ∧
    (windowAt s n x data.length = .unbound → (nth s.cxl.decoders n Decoder.fresh).noted = false →
      exec (.cxlMemWrite hpa data e) s = happens (recordHost 4 n (updDecoder n (fun d => { d with noted := true }) s)))) ∧
  (∀ (s : State) (hpa : U64) (len n x : Nat) (data : List Byte) (e : ReadErrors), hostReach s = true → decoderAt s hpa.toNat = some (n, x) →
    s.start.oos = true →
    (lineAccess hpa len = true → exec (.cxlMemRead hpa len e) s = happens { s with out := s.out ++ [.cxlData (zeros len) true] }) ∧
    (lineAccess hpa data.length = true → exec (.cxlMemWrite hpa data e) s = happens s)) ∧
  (∀ (s : State) (hpa : U64) (len : Nat) (data : List Byte) (e : ReadErrors), hostReach s = true → decoderAt s hpa.toNat = none →
    (lineAccess hpa len = true → exec (.cxlMemRead hpa len e) s = happens s) ∧
    (lineAccess hpa data.length = true → exec (.cxlMemWrite hpa data e) s = happens s)) ∧
  (∀ (s : State) (n x len : Nat), (nth s.cxl.decoders n Decoder.fresh).bound = none → windowAt s n x len = .unbound) ∧
  ∀ (s : State) (n x len : Nat) (part : BitVec 4) (h : U32) (y : Partition) (r : Region),
    (nth s.cxl.decoders n Decoder.fresh).bound = some (part, h) → findPart s part = some y → y.region h = some r →
    (y.scrubbing = true → windowAt s n x len = .scrubbing) ∧
    (y.scrubbing = false → x + len ≤ r.size → windowAt s n x len = .at ((List.range len).map fun i => r.addr (x + i))) ∧
    (y.scrubbing = false → r.size < x + len → windowAt s n x len = .unbound)

/-- MEMREG_READ of a listed offset of layers 2 to 22 reports the register. MEMREG_WRITE of SCRUB_CTL keeps EN, PCHK and
PERIOD of what is written, of CEBKT_CFG the whole word, and of a read-only register nothing. Of both, another layer or
offset gives BAD_LENGTH. REPAIR_MAP_READ with FIRST within the map copies up to COUNT entries from FIRST on and reports how
many were copied and how many there are; with FIRST beyond it nothing is copied; COUNT 0 or above 131,071 gives BAD_LENGTH.
LAYER_MAP_READ reports the four-bit states of the 24 layers, the columns rehomed and the rehoming places left, now with
SELECT 0 or as at the last cold start with SELECT 1; another SELECT gives BAD_LENGTH. (R193, R194, R34, R35, R40.) -/
def Obligations.LayerRegisters : Prop :=
  (∀ (s : State) (q : QueuePair) (p c : Packet) (v : Nat), Fetches 0x0B12 s q p c → 2 ≤ par c 0 1 → par c 0 1 ≤ 22 →
    layerReg s (par c 0 1) (par c 2 2) = some v → exec (.memregRead p) s = completes p (toLE 4 v) (fetchedState p s)) ∧
  (∀ (s : State) (q : QueuePair) (p c : Packet), Fetches 0x0B12 s q p c →
    par c 0 1 < 2 ∨ 22 < par c 0 1 ∨ layerReg s (par c 0 1) (par c 2 2) = none →
    exec (.memregRead p) s = .next (settle (finish (pktOrigin p) stBadLength 0 [] (fetchedState p s)))) ∧
  (∀ (s : State) (q : QueuePair) (p c : Packet), Fetches 0x0B13 s q p c →
    (2 ≤ par c 0 1 → par c 0 1 ≤ 22 →
      (par c 2 2 = 0 → exec (.memregWrite p) s = completes p [] (updLayer (par c 0 1)
        (fun r => { r with scrubCtl := par32 c 4 &&& 0xFFFF0003 }) (fetchedState p s))) ∧
      (par c 2 2 = 0x10 → exec (.memregWrite p) s = completes p [] (updLayer (par c 0 1)
        (fun r => { r with cebktCfg := par32 c 4 }) (fetchedState p s))) ∧
      (par c 2 2 ∈ [0x04, 0x14, 0x20, 0x24, 0x28, 0x2C, 0x30] → exec (.memregWrite p) s = completes p [] (fetchedState p s))) ∧
    (par c 0 1 < 2 ∨ 22 < par c 0 1 ∨ layerReg s (par c 0 1) (par c 2 2) = none →
      exec (.memregWrite p) s = .next (settle (finish (pktOrigin p) stBadLength 0 [] (fetchedState p s))))) ∧
  (∀ (s : State) (l : Nat) (r : LayerRegs), findLayer s l = r →
    layerReg s l 0x00 = some r.scrubCtl.toNat ∧ layerReg s l 0x04 = some (scrubLine r + 2 ^ 16 * r.passes.toNat) ∧
    layerReg s l 0x10 = some r.cebktCfg.toNat ∧
    layerReg s l 0x14 = some (r.level.toNat + 2 ^ 24 * r.ovf.toNat) ∧ layerReg s l 0x20 = some r.corr.toNat ∧
    layerReg s l 0x24 = some r.uncorr.toNat ∧ layerReg s l 0x28 = some r.recon.toNat ∧ layerReg s l 0x2C = some r.lostLines.toNat ∧
    layerReg s l 0x30 = some ((if 0 < hotTracts s then 1 else 0) + 2 ^ 8 * hotTracts s) ∧
    ∀ reg, reg ∉ [0x00, 0x04, 0x10, 0x14, 0x20, 0x24, 0x28, 0x2C, 0x30] → layerReg s l reg = none) ∧
  (∀ (s : State) (q : QueuePair) (p c : Packet) (b : Option (List Nat)), Fetches 0x0B20 s q p c → 1 ≤ par c 4 4 → par c 4 4 ≤ 131071 →
    par c 0 4 < s.repairs.length → par c 8 8 % 8 = 0 → 8 * par c 4 4 ≤ par c 16 4 →
    paramBuffer (fetchedState p s) q c (par c 8 8) (par c 16 4) = .ok b →
    exec (.repairMapRead p) s = completes p
      (toLE 4 (min (par c 4 4) (s.repairs.length - par c 0 4)) ++ toLE 4 s.repairs.length)
      (putBuffer q c b (par c 8 8) (((s.repairs.drop (par c 0 4)).take (par c 4 4)).flatMap fun e => toLE 8 e.toNat) (fetchedState p s))) ∧
  (∀ (s : State) (q : QueuePair) (p c : Packet), Fetches 0x0B20 s q p c →
    (1 ≤ par c 4 4 → par c 4 4 ≤ 131071 → s.repairs.length ≤ par c 0 4 →
      exec (.repairMapRead p) s = completes p (toLE 4 0 ++ toLE 4 s.repairs.length) (fetchedState p s)) ∧
    (par c 4 4 = 0 ∨ 131071 < par c 4 4 →
      exec (.repairMapRead p) s = .next (settle (finish (pktOrigin p) stBadLength 0 [] (fetchedState p s))))) ∧
  ∀ (s : State) (q : QueuePair) (p c : Packet), Fetches 0x0B21 s q p c →
    (∀ k, (par c 0 4 = 0 ∧ k = (s.layers, rehomedNow s)) ∨ (par c 0 4 = 1 ∧ k = (s.layersCold, s.rehomedCold)) →
      exec (.layerMapRead p) s = completes p
        (toLE 12 ((k.1.zipIdx.map fun x => x.1.toNat * 2 ^ (4 * x.2)).sum) ++ toLE 2 k.2.1 ++ toLE 2 k.2.2) (fetchedState p s)) ∧
    (1 < par c 0 4 → exec (.layerMapRead p) s = .next (settle (finish (pktOrigin p) stBadLength 0 [] (fetchedState p s))))

/-- COLD_START with any bring-up results: where the boot slot verifies, or fails and the other one does, and no die that
cannot be mapped out fails, the device is READY at STAGE 0x40 running that slot, every line free, without partition, pair,
group, loaded plan or agreed feature, decoders unbound, no configuration set PENDING, the fused SVN at least the image's and
never lower, and one more cold start counted, and out of service where a channel controller has its fatal fault still; where
neither slot verifies it stands in recovery mode (0xF1) without READY; where L0, L1 or L23 fails it stands at 0xF2, out of
service with cause 4, without READY. (That the whole sequence is one command, and that PERST# counts as asserted at its end,
are the model's choices.) (R417, R418, R419, R422, R424, R384, R386.) -/
def Obligations.ColdStartLeavesABareDevice : Prop :=
  (∀ (b : BringUp) (s : State) (x : Bool), b.wf = true →
    slotGood s s.firmware.bootB = true ∧ x = s.firmware.bootB ∨
      slotGood s s.firmware.bootB = false ∧ slotGood s (!s.firmware.bootB) = true ∧ x = !s.firmware.bootB →
    0 ∉ b.badLayers → 1 ∉ b.badLayers → 23 ∉ b.badLayers →
    ∃ t : State, exec (.coldStart b) s = .next t ∧ t.start.ready = true ∧ t.start.stage = 0x40 ∧ t.start.inReset = false ∧
      t.start.halted = false ∧ t.pins.vin = true ∧ t.firmware.runsB = x ∧ t.mem = [] ∧ t.tags = [] ∧ t.partitions = [] ∧
      t.pairs = [] ∧ t.loading = [] ∧ t.fabric.groups = [] ∧ t.bar.agreed = 0 ∧ t.bar.negotiated = false ∧
      (∀ d ∈ t.cxl.decoders, d.committed = false ∧ d.bound = none) ∧ t.config.pending = false ∧
      t.firmware.fusedSvn = max s.firmware.fusedSvn (fld (runningImage t) 8 4) ∧
      t.start.coldCount = s.start.coldCount + 1 ∧ (b.controllerFault = true → t.start.oos = true) ∧ t.pending = s.pending) ∧
  (∀ (b : BringUp) (s : State), b.wf = true → slotGood s false = false → slotGood s true = false →
    ∃ t : State, exec (.coldStart b) s = .next t ∧ t.start.stage = 0xF1 ∧ t.start.ready = false ∧ offeredNow t = 1 ∧
      t.mem = [] ∧ t.partitions = [] ∧ t.pairs = []) ∧
  ∀ (b : BringUp) (s : State), b.wf = true → slotGood s s.firmware.bootB = true →
    0 ∈ b.badLayers ∨ 1 ∈ b.badLayers ∨ 23 ∈ b.badLayers →
    ∃ t : State, exec (.coldStart b) s = .next t ∧ t.start.stage = 0xF2 ∧ t.start.ready = false ∧ t.start.oos = true ∧
      t.start.oosCause = 4 ∧ t.mem = [] ∧ t.partitions = []

/-- A warm reset of a READY device stops it: not READY, STAGE 0x01, DRAM in self-refresh, the port down; queue pairs,
agreement, bindings, validations, held and running steps and group memberships are gone; every partition is there as before
in number, tracts, INSTANCE, key state and confidential mode, with its regions and plans, and where no context ran a step
and no cache spans a group, every byte and tag is as before. Before READY it does nothing. When PERST# is released during
it, the boot slot verifies and no die that cannot be mapped out fails, the device is READY at STAGE 0x40; an image that
differs from the one that ran leaves no partition. (R421, R424, R386.) -/
def Obligations.WarmResetKeepsMemoryAndPartitions : Prop :=
  (∀ s : State, alive s = true → s.start.ready = true →
    ∃ t : State, exec .warmReset s = happens t ∧ t.start.ready = false ∧ t.start.stage = 1 ∧ t.start.inReset = true ∧
      t.start.selfRefresh = true ∧ t.cxl.up = false ∧ t.pairs = [] ∧ t.bar = Bar0.fresh ∧ t.loading = [] ∧ t.fabric.groups = [] ∧
      t.fabric.devId = s.fabric.devId ∧ (∀ d ∈ t.cxl.decoders, d.committed = false ∧ d.bound = none) ∧
      (∀ p ∈ t.partitions, ∀ c ∈ p.contexts, c.sets = [] ∧ c.ineligible = [] ∧ c.released = [] ∧ c.step = none) ∧
      (t.partitions.map fun p => (p.num, p.tracts, p.inst, p.keyLive, p.sweeping, p.gen, p.rotations, p.confidential)) =
        (s.partitions.map fun p => (p.num, p.tracts, p.inst, p.keyLive, p.sweeping, p.gen, p.rotations, p.confidential)) ∧
      (t.partitions.map fun p => (p.regions.map (·.handle), p.plans.map (·.handle), p.energy)) =
        (s.partitions.map fun p => (p.regions.map (·.handle), p.plans.map (·.handle), p.energy)) ∧
      ((∀ p ∈ s.partitions, (∀ c, c < 8 → (p.context c).step = none) ∧ ∀ c ∈ p.caches, c.group = none) →
        t.mem = s.mem ∧ t.tags = s.tags)) ∧
  (∀ s : State, alive s = true → s.start.ready = false → exec .warmReset s = happens s) ∧
  (∀ (b : BringUp) (s : State), b.wf = true → alive s = true → s.start.inReset = true →
    slotGood s s.firmware.bootB = true → 0 ∉ b.badLayers → 1 ∉ b.badLayers → 23 ∉ b.badLayers →
    ∃ t : State, exec (.perstDeassert b) s = happens t ∧ t.start.ready = true ∧ t.start.stage = 0x40 ∧ t.start.inReset = false ∧
      t.pins.perst = false ∧ t.firmware.runsB = s.firmware.bootB ∧
      (slotImage s s.firmware.bootB ≠ some (runningImage s) → t.partitions = [])) ∧
  (∀ (b : BringUp) (s : State), b.wf = true → alive s = true → s.start.inReset = true → slotGood s false = false →
    slotGood s true = false →
    ∃ t : State, exec (.perstDeassert b) s = happens t ∧ t.start.ready = false ∧ t.start.stage = 0xF1 ∧ t.start.inReset = false) ∧
  ∀ (b : BringUp) (s : State), b.wf = true → alive s = true → s.start.inReset = false →
    exec (.perstDeassert b) s = happens { s with pins := { s.pins with perst := false } }

/-- FUNCTION_LEVEL_RESET deletes every pair, clears agreement, and puts the MSI-X table, EVENTS and EVENT_MASK at their
reset values; held steps are gone without a completion, released and running ones stay and answer nobody; memory, tags,
CXL.mem, bindings, partitions' tracts, keys and regions, READY, power, thermal, recorder and firmware slots are untouched.
(That the requested bits, the ADMQ addresses and QERR stay is the model's choice.) (R423, R424.) -/
def Obligations.FunctionLevelResetKeepsTheDevice : Prop :=
  ∀ s : State, hostReach s = true →
    ∃ t : State, exec .functionLevelReset s = happens t ∧ t.pairs = [] ∧
      t.bar = { s.bar with
        agreed := 0, negotiated := false, admqEn := false, admqDel := false, events := 0, mask := 0
        msix := List.replicate 65 ⟨0, 0, 1⟩, pba := 0 } ∧
      t.mem = s.mem ∧ t.tags = s.tags ∧ t.cxl = s.cxl ∧ t.start = s.start ∧ t.pins = s.pins ∧ t.units = s.units ∧
      t.power = s.power ∧ t.thermal = s.thermal ∧ t.recorder = s.recorder ∧ t.reserve = s.reserve ∧
      t.firmware.slotA = s.firmware.slotA ∧ t.firmware.slotB = s.firmware.slotB ∧ t.config.inForce = s.config.inForce ∧
      (∀ p ∈ t.partitions, ∀ c ∈ p.contexts, c.sets = [] ∧ c.ineligible = [] ∧
        (∀ b ∈ c.released, ∀ h ∈ b.steps, h.origin.dead = true) ∧ ∀ r, c.step = some r → ∀ h ∈ r.batch.steps, h.origin.dead = true) ∧
      (t.partitions.map fun p => p.contexts.map fun c => (c.released.length, c.step.isSome)) =
        (s.partitions.map fun p => p.contexts.map fun c => (c.released.length, c.step.isSome)) ∧
      (t.partitions.map fun p => (p.num, p.tracts, p.inst, p.keyLive, p.gen, p.confidential, p.regions.map (·.handle))) =
        s.partitions.map fun p => (p.num, p.tracts, p.inst, p.keyLive, p.gen, p.confidential, p.regions.map (·.handle))

/-- A reset that arrives before READY asserts PERST# and takes the port down, nothing else; configuration readiness brings a
released port up once STAGE is at least 0x04, posting and firing what waited. VIN outside 1.70 to 1.90 V stops the clocks,
sends every layer into self-refresh and asserts RAIL_OFF_REQ#; within it nothing happens; without it nothing is driven. I3C
answers from STAGE 0x01 while VIN is there; the register at offset 0 holds STAGE, READY, OOS, RESERVE_LOW and ALERT#. (That
VIN below 200 mV counts as removed is the model's choice.) (R420, R425, R335, R434, R417.) -/
def Obligations.PortStartsAndSideband : Prop :=
  (∀ s : State, alive s = true → s.start.ready = false → exec .portResetBeforeReady s = happens
    { s with pins := { s.pins with perst := true }, cxl := { s.cxl with up := false, trained := false } }) ∧
  (∀ s : State, alive s = true → s.pins.perst = false → s.cxl.trained = false → 4 ≤ s.start.stage.toNat → s.start.inReset = false →
    s.cxl.badLanes = 0 →
    exec .configurationReadiness s = happens (s.pairs.foldl (fun s q => flush q.qp s)
      (firePending { s with cxl := { s.cxl with up := true, trained := true } }))) ∧
  (∀ s : State, alive s = true → s.pins.perst = true ∨ s.start.stage.toNat < 4 → exec .configurationReadiness s = happens s) ∧
  (∀ (s : State) (mv : Nat), s.pins.vin = true → 200 ≤ mv → mv < 1700 ∨ 1900 < mv → exec (.vinOutOfRange mv) s = .next { s with
    start := { s.start with halted := true, selfRefresh := true }
    out := s.out ++ [.channels (channelWord 5 31 0)]
    dirtyTags := [], cxl := { s.cxl with up := false }, pins := { s.pins with railOff := true } }) ∧
  (∀ (s : State) (mv : Nat), s.pins.vin = true → 1700 ≤ mv → mv ≤ 1900 → exec (.vinOutOfRange mv) s = .next s) ∧
  (∀ (s : State) (mv : Nat), s.pins.vin = true → mv < 200 → ∃ t : State, exec (.vinOutOfRange mv) s = .next t ∧
    t.pins.vin = false ∧ t.cxl.up = false ∧ t.pins.railOff = false ∧ t.pins.alert = false ∧ t.pins.thermtrip = false ∧
    alive t = false) ∧
  (∀ (s : State) (off : Byte), s.pins.vin = true → s.start.stage ≠ 0 →
    exec (.i3cRead off) s = .next { s with out := s.out ++ [.i3c (some (sideband s off.toNat))] }) ∧
  (∀ (s : State) (off : Byte), s.pins.vin = false ∨ s.start.stage = 0 →
    exec (.i3cRead off) s = .next { s with out := s.out ++ [.i3c none] }) ∧
  ∀ s : State, (sideband s 0).setWidth 8 = s.start.stage ∧ (sideband s 0).getLsbD 8 = s.start.ready ∧
    (sideband s 0).getLsbD 9 = s.start.oos ∧ (sideband s 0).getLsbD 10 = (s.reserve.atMask != 0) ∧
    (sideband s 0).getLsbD 11 = s.pins.alert ∧ ∀ k, 12 ≤ k → (sideband s 0).getLsbD k = false

/-- FW_STAGE with SIZE 512 to 134,217,728 and a readable SRC empties the slot that is not running, keeps the copied image
for its checks and posts ACCEPTED; another SIZE is BAD_LENGTH. When the checks are done the first that fails decides: form
(BAD_LENGTH, 1), key slot and signature (2), body digest (3), a security version below the fused one (NOT_PERMITTED), the
slot left empty; where all pass the image lies in the slot that is not running, a SECURITY record is written and the result
gives VERSION. FW_ACTIVATE of a slot that holds a verified image makes it the boot slot and completes OK; of any other
NOT_PERMITTED. (That recovery mode counts the boot slot as the running one, and that the record is of kind 1 on success
alone, are the model's choices.) (R384, R385, R386.) -/
def Obligations.FirmwareImages : Prop :=
  (∀ (s : State) (q : QueuePair) (p c : Packet) (img : List Byte), Fetches 0x0A20 s q p c → 512 ≤ par c 8 4 → par c 8 4 ≤ 134217728 →
    takeBuffer (fetchedState p s) q c (par c 0 8) (par c 8 4) = .ok img →
    exec (.fwStage p) s = accepts p { fetchedState p s with firmware :=
      if s.firmware.runsB then { s.firmware with slotA := none, staging := s.firmware.staging ++ [(pktOrigin p, img)] }
      else { s.firmware with slotB := none, staging := s.firmware.staging ++ [(pktOrigin p, img)] } }) ∧
  (∀ (s : State) (q : QueuePair) (p c : Packet), Fetches 0x0A20 s q p c → par c 8 4 < 512 ∨ 134217728 < par c 8 4 →
    exec (.fwStage p) s = .next (settle (finish (pktOrigin p) stBadLength 0 [] (fetchedState p s)))) ∧
  (∀ (s : State) (o : Origin) (img : List Byte) (rest : List (Origin × List Byte)), alive s = true →
    s.firmware.staging = (o, img) :: rest →
    let kept : State := { s with firmware :=
      if s.firmware.runsB then { s.firmware with slotA := none, staging := rest } else { s.firmware with slotB := none, staging := rest } }
    let form := fld img 0 4 = 0x5A474657 ∧ fld img 0x10 8 + 512 = img.length ∧ 1 ≤ fld img 0x10 8 ∧ fld img 0x10 8 ≤ 134217216
    let key := fld img 0x0C 1 ≤ 3 ∧ s.firmware.revoked.getLsbD (fld img 0x0C 1) = false ∧
      Config.sm2Valid (fld img 0x0C 1) (img.take 64) (slice img 64 64) = true
    let digest := Config.sm3 (img.drop 512) = slice img 0x20 32
    (¬form → exec .fwStageDone s = happens (finish o 0x0102 0x01000000 [] kept)) ∧
    (form → ¬key → exec .fwStageDone s = happens (finish o 0x0102 0x02000000 [] kept)) ∧
    (form → key → ¬digest → exec .fwStageDone s = happens (finish o 0x0102 0x03000000 [] kept)) ∧
    (form → key → digest → fld img 8 4 < s.firmware.fusedSvn → exec .fwStageDone s = happens (finish o 0x0301 0 [] kept)) ∧
    (form → key → digest → s.firmware.fusedSvn ≤ fld img 8 4 → exec .fwStageDone s =
      happens (finish o 0x0000 0 (toLE 4 (fld img 4 4)) (recordSecurity 1 0 { s with firmware :=
        if s.firmware.runsB then { s.firmware with slotA := some img, staging := rest }
        else { s.firmware with slotB := some img, staging := rest } })))) ∧
  (∀ (s : State) (q : QueuePair) (p c : Packet), Fetches 0x0A21 s q p c → par c 0 1 ≤ 1 →
    slotGood s (decide (par c 0 1 = 1)) = true →
    exec (.fwActivate p) s = completes p [] (settleReserve (recordSecurity 2 0 { fetchedState p s with
      firmware := { s.firmware with bootB := decide (par c 0 1 = 1), fallbacks := 0 } }))) ∧
  ∀ (s : State) (q : QueuePair) (p c : Packet), Fetches 0x0A21 s q p c → par c 0 1 ≤ 1 →
    slotGood s (decide (par c 0 1 = 1)) = false →
    exec (.fwActivate p) s = .next (settle (finish (pktOrigin p) stNotPermitted 0 [] (fetchedState p s)))

/-- A request for a measurement that exists answers its block, signed where asked: the ROM digest, the running image's
digest, the security state, the digest of the set in force and the 16 partition records, in which an absent partition has
STATE 0 and zeros; index 0 answers their number, 0xFF all of them, any other index an error. CHALLENGE and GET_CERTIFICATE,
up to the chain's end, answer for slot 0 alone and with an error else, a challenge signed by the alias key of this start.
Service inspection with a valid token returns the state of every tract asked for that belongs to no confidential or
scrubbing partition, in one recorder entry; with an invalid token, or no such tract, nothing. A failed IDE check puts its
stream in the error state with one record; a key set anew ends it. The mailbox serves the mandatory commands and no others.
(The DMTF block layout, index 0 and the error answer are PRESUMED of SPDM 1.2.) (R383, R387, R388, R389, R310, R306.) -/
def Obligations.SecureChannelsAndMailbox : Prop :=
  (∀ (s : State) (i : Byte) (nonce : List Byte) (signed : Bool) (m : Nat × List Byte), hostReach s = true → measurement s i.toNat = some m →
    exec (.getMeasurements i nonce signed) s = happens { s with out := s.out ++ [.spdm (measurementBlock i.toNat m)
      (if signed then Config.aliasSign s.firmware.aliasEpoch (nonce ++ measurementBlock i.toNat m) else [])] }) ∧
  (∀ s : State, measurement s 1 = some (0x00, Config.romDigest) ∧ measurement s 2 = some (0x01, slice (runningImage s) 0x20 32) ∧
    measurement s 3 = some (0x82, toLE 4 s.firmware.fusedSvn ++ toLE 1 s.firmware.revoked.toNat ++
      toLE 1 (fld (runningImage s) 0x0C 1) ++ toLE 4 (barRead s 0).toNat ++ zeros 6) ∧
    (∀ c, s.config.inForce = some c → measurement s 4 = some (0x03, Config.sm3 c.bytes)) ∧
    (∀ n, n < 16 → findPart s (BitVec.ofNat 4 n) = none → measurement s (0x10 + n) = some (0x84, BitVec.ofNat 8 n :: zeros 63)) ∧
    ∀ i : Byte, (measurement s i.toNat).isSome ↔ i.toNat ∈ [1, 2, 3, 4] ∨ 0x10 ≤ i.toNat ∧ i.toNat ≤ 0x1F) ∧
  (∀ (s : State) (nonce : List Byte) (signed : Bool), hostReach s = true →
    exec (.getMeasurements 0 nonce signed) s = happens { s with out := s.out ++ [.spdm [20]
      (if signed then Config.aliasSign s.firmware.aliasEpoch (nonce ++ [20]) else [])] } ∧
    ∀ all, all = ([1, 2, 3, 4] ++ (List.range 16).map (· + 0x10)).flatMap (fun k => match measurement s k with
        | some m => measurementBlock k m | none => []) →
      exec (.getMeasurements 0xFF nonce signed) s = happens { s with out := s.out ++ [.spdm all
        (if signed then Config.aliasSign s.firmware.aliasEpoch (nonce ++ all) else [])] }) ∧
  (∀ (s : State) (i : Byte) (nonce : List Byte) (signed : Bool), hostReach s = true → i ≠ 0 → i ≠ 0xFF → measurement s i.toNat = none →
    exec (.getMeasurements i nonce signed) s = happens { s with out := s.out ++ [.spdm [0x7F, 0x01] []] }) ∧
  (∀ (s : State) (slot : Byte) (nonce : List Byte), hostReach s = true →
    exec (.challenge slot nonce) s = happens { s with out := s.out ++ [if slot = 0 then
      .spdm (challengeBody s) (Config.aliasSign s.firmware.aliasEpoch (nonce ++ challengeBody s)) else .spdm [0x7F, 0x01] []] }) ∧
  (∀ (s : State) (off len : Nat), hostReach s = true → off < (Config.certificateChain s.firmware.aliasEpoch).length →
    exec (.getCertificate 0 off len) s = happens { s with out := s.out ++
      [.spdm (((Config.certificateChain s.firmware.aliasEpoch).drop off).take len) []] }) ∧
  (∀ (s : State) (slot : Byte) (off len : Nat), hostReach s = true →
    slot ≠ 0 ∨ (Config.certificateChain s.firmware.aliasEpoch).length ≤ off →
    exec (.getCertificate slot off len) s = happens { s with out := s.out ++ [.spdm [0x7F, 0x01] []] }) ∧
  (∀ (s : State) (token nonce : List Byte) (tracts : U64), hostReach s = true →
    Config.tokenValid Config.serial token nonce = false ∨ (∀ t ∈ tractsOf tracts, inspectable s t = false) →
    exec (.serviceInspection token nonce tracts) s = happens { s with out := s.out ++ [.spdm [0x7F, 0x01] []] }) ∧
  (∀ (s : State) (token nonce : List Byte) (tracts : U64) (t : Nat), hostReach s = true →
    Config.tokenValid Config.serial token nonce = true → t ∈ tractsOf tracts → inspectable s t = true →
    ∃ m : U64, (∀ k, k < 64 → hasTract m k = (hasTract tracts k && inspectable s k)) ∧
      exec (.serviceInspection token nonce tracts) s = happens
        { recordSecurity 0 m s with
          draw := (recordSecurity 0 m s).draw + 1
          out := (recordSecurity 0 m s).out ++ (tractsOf m).map fun t => .inspection t (Config.inspection t (recordSecurity 0 m s).draw) }) ∧
  (∀ (s : State) (t : Nat), inspectable s t = true ↔
    ∀ p, ownerOf s t = some p → p.confidential = false ∧ p.scrubbing = false) ∧
  (∀ (s : State) (stream : Byte), hostReach s = true → ∃ e : List Byte, stream ∈ e ∧ (∀ x ∈ s.cxl.ideError, x ∈ e) ∧
    exec (.ideCheckFailure stream) s = happens (recordHost 2 stream.toNat { s with cxl := { s.cxl with ideError := e } })) ∧
  (∀ (s : State) (stream : Byte) (setKey : Bool), hostReach s = true → ∃ k : List (Byte × Nat),
    exec (.ideKm stream setKey) s = happens { s with cxl := { s.cxl with
      ideKeys := k, ideError := if setKey then s.cxl.ideError.filter (· ≠ stream) else s.cxl.ideError } } ∧
    ∃ n, (stream, n + 1) ∈ k) ∧
  ∀ (s : State) (op : BitVec 16) (payload : List Byte), hostReach s = true →
    exec (.mailboxCommand op payload) s = happens { s with out := s.out ++ [if Config.mailboxMandatory op.toNat then
      .mailbox true (Config.mailboxReply op.toNat payload) else .mailbox false []] }

/-- PARTITION_CREATE of a number not in use over a non-empty set of tracts, each FREE and not OFFLINE, adds the partition
(GEN 0, key live, energy 0, eight fresh contexts, no region, plan or cache), counts one more creation, reports INSTANCE made
of the two counts, and puts its tracts OFF, the others as they were; otherwise NOT_PERMITTED and nothing changes.
PARTITION_RELEASE with a bound pair or a group gives NOT_PERMITTED; otherwise ACCEPTED, and the scrub begins: the partition
is SCRUBBING, its key destroyed, its steps gone, no byte of memory yet changed. PARTITION_STATUS reports state, mode bits,
TRACTS and the number of regions, zeros for an absent partition. (R376, R378, R379, R380, R164.) -/
def Obligations.PartitionsAreMadeAndReleased : Prop :=
  (∀ (s : State) (q : QueuePair) (p c : Packet), Fetches 0x0A01 s q p c → par c 0 1 ≤ 15 →
    findPart s (BitVec.ofNat 4 (par c 0 1)) = none → fld64 c.inl 8 ≠ 0 →
    (∀ t, t < 64 → hasTract (fld64 c.inl 8) t = true → ownerOf s t = none ∧ (findTract s t).power ≠ .offline) →
    let inst : U64 := BitVec.ofNat 64 (s.start.coldCount.toNat * 2 ^ 32 + (s.start.createCount + 1).toNat)
    ∃ w : Power, exec (.partitionCreate p) s = completes p (toLE 8 inst.toNat) { fetchedState p s with
        power := w, start := { s.start with createCount := s.start.createCount + 1 }
        partitions := s.partitions ++ [{
          num := BitVec.ofNat 4 (par c 0 1), tracts := fld64 c.inl 8, scrubbing := false
          confidential := decide (par c 1 1 % 2 = 1), inst := inst, keyLive := true, sweeping := false, gen := false, rotations := 0
          sweepSince := 0, energy := 0, pubEnergy := 0, release := none, regions := [], plans := [], caches := []
          contexts := List.replicate 8 Context.fresh, current := 0, expired := false, switching := none, divMode := 0, bsplit := 16
          freq := 0, stranded := false, recovery := [], acting := none, deferred := [], profiles := [] }] } ∧
      w = { s.power with tracts := w.tracts } ∧
      ∀ t, t < 64 → if hasTract (fld64 c.inl 8) t then (findTract { s with power := w } t).power = .off
        else findTract { s with power := w } t = findTract s t) ∧
  (∀ (s : State) (q : QueuePair) (p c : Packet), Fetches 0x0A01 s q p c →
    15 < par c 0 1 ∨ (findPart s (BitVec.ofNat 4 (par c 0 1))).isSome ∨ fld64 c.inl 8 = 0 ∨
      (∃ t, t < 64 ∧ hasTract (fld64 c.inl 8) t = true ∧ ((ownerOf s t).isSome ∨ (findTract s t).power = .offline)) →
    exec (.partitionCreate p) s = .next (settle (finish (pktOrigin p) stNotPermitted 0 [] (fetchedState p s)))) ∧
  (∀ (s : State) (q : QueuePair) (p c : Packet) (x : Partition), Fetches 0x0A02 s q p c → par c 0 1 ≤ 15 →
    findPart s (BitVec.ofNat 4 (par c 0 1)) = some x → x.scrubbing = false →
    (∀ k ∈ (fetchedState p s).pairs, k.part ≠ some x.num) → (∀ g ∈ s.fabric.groups, g.part ≠ x.num) →
    exec (.partitionRelease p) s = accepts p (beginScrub x.num (some (pktOrigin p)) (fetchedState p s))) ∧
  (∀ (s : State) (q : QueuePair) (p c : Packet) (x : Partition), Fetches 0x0A02 s q p c → par c 0 1 ≤ 15 →
    findPart s (BitVec.ofNat 4 (par c 0 1)) = some x → x.scrubbing = false →
    (∃ k ∈ (fetchedState p s).pairs, k.part = some x.num) ∨ (∃ g ∈ s.fabric.groups, g.part = x.num) →
    exec (.partitionRelease p) s = .next (settle (finish (pktOrigin p) stNotPermitted 0 [] (fetchedState p s)))) ∧
  (∀ (s : State) (n : BitVec 4) (o : Option Origin) (x : Partition), findPart s n = some x →
    ∃ y : Partition, findPart (beginScrub n o s) n = some y ∧ y.scrubbing = true ∧ y.keyLive = false ∧ y.sweeping = false ∧
      y.release = o ∧ y.tracts = x.tracts ∧ (∀ c ∈ y.contexts, c.sets = [] ∧ c.ineligible = [] ∧ c.released = [] ∧ c.step = none) ∧
      (beginScrub n o s).mem = s.mem ∧ (beginScrub n o s).tags = s.tags ∧
      ∀ m, m ≠ n → findPart (beginScrub n o s) m = findPart s m) ∧
  (∀ (s : State) (q : QueuePair) (p c : Packet) (n : BitVec 4) (x : Partition), Fetches 0x0A03 s q p c →
    namedPart q c (par c 0 1) = .ok n → findPart s n = some x →
    exec (.partitionStatus p) s = completes p (toLE 1 (if x.scrubbing then 2 else 1) ++
      toLE 1 ((if x.confidential then 1 else 0) + (if x.sweeping then 2 else 0)) ++ zeros 2 ++ toLE 8 x.tracts.toNat ++
      toLE 4 x.regions.length) (fetchedState p s)) ∧
  (∀ (s : State) (q : QueuePair) (p c : Packet) (n : BitVec 4), Fetches 0x0A03 s q p c →
    namedPart q c (par c 0 1) = .ok n → findPart s n = none →
    exec (.partitionStatus p) s = completes p (zeros 16) (fetchedState p s)) ∧
  ∀ (q : QueuePair) (p : Packet) (n : Nat),
    (n = 0xFF → namedPart q p n = .ok (pktPart p)) ∧ (15 < n → n ≠ 0xFF → namedPart q p n = .error ⟨stBadLength, 0, []⟩) ∧
    (n ≤ 15 → q.operator = true ∨ pktPart p = BitVec.ofNat 4 n → namedPart q p n = .ok (BitVec.ofNat 4 n)) ∧
    (n ≤ 15 → q.operator = false → pktPart p ≠ BitVec.ofNat 4 n → namedPart q p n = .error ⟨stNotPermitted, 0, []⟩)

/-- SCRUB_DONE of a partition that is SCRUBBING: the partition is gone, every line beneath its tracts is free and reads
zero, every line of other tracts keeps its tag and its bytes, no grove beneath its tracts holds anything, no decoder is
bound to it, its tracts are OFF unless OFFLINE, and the release's final completion reports its energy in millijoules. Of a
partition that is not SCRUBBING it does nothing. (Stated where no other partition waits for a tract; one that does takes a
freed tract.) (R379, R397, R307.) -/
def Obligations.ScrubLeavesNothing : Prop :=
  (∀ (s : State) (n : BitVec 4) (x : Partition), started s = true → findPart s n = some x → x.scrubbing = true →
    (∀ p ∈ s.partitions, p.num ≠ n → p.stranded = false) →
    ∃ u : State, exec (.scrubDone n) s = happens (settleReserve (finishIf x.release stOk (toLE 8 (x.energy / 1000000)) u)) ∧
      u.partitions = s.partitions.filter (fun p => p.num ≠ n) ∧
      (∀ l, hasTract x.tracts (tractOfCore (lineCore l)) = true →
        tagOf u.tags l = none ∧ ∀ a, lineOf a = l → memGet u.mem a = 0) ∧
      (∀ l, hasTract x.tracts (tractOfCore (lineCore l)) = false →
        tagOf u.tags l = tagOf s.tags l ∧ ∀ a, lineOf a = l → memGet u.mem a = memGet s.mem a) ∧
      (∀ d ∈ u.cxl.decoders, ∀ b, d.bound = some b → b.1 ≠ n) ∧
      (∀ t, t < 64 → hasTract x.tracts t = true → (findTract u t).power = .off ∨ (findTract u t).power = .offline) ∧
      (∀ t, t < 64 → hasTract x.tracts t = false → findTract u t = findTract s t) ∧
      (∀ g ∈ u.groves, hasTract x.tracts (tractOfCore (256 * g.num)) = false) ∧
      u.pairs = s.pairs ∧ u.bar = s.bar ∧ u.recorder = s.recorder) ∧
  ∀ (s : State) (n : BitVec 4), started s = true → (∀ x, findPart s n = some x → x.scrubbing = false) →
    exec (.scrubDone n) s = happens s

/-- KEY_ROTATE outside a sweep flips GEN, counts a rotation, becomes SWEEPING and reports both; during a sweep BUSY_REKEY
and nothing changes; while SCRUBBING, SCRUBBING. A sweep rewrite takes one line of the old generation, at the lowest LINE
there is: where it reads clean, or is lost or in no state to be read, its tag has the new generation, and no byte and no
other tag changes; where it can be neither corrected nor formed from its stripe, it is lost under the new generation; when
no line of the old generation is left the state is STABLE, and outside a sweep nothing happens. KEY_STATUS reports STABLE,
SWEEPING or NONE, GEN and ROTATIONS, and while sweeping the lines left in the column that has most; NONE for an absent
partition. CONFIDENTIAL_SET with another ENABLE than 1 gives BAD_LENGTH; while a decoder is bound to the partition it gives
NOT_PERMITTED; otherwise it sets the mode. Each second the published energies become the counters' values and the published
figures the means of the second. (That all columns' rewrites are taken lowest LINE first is R391's walk; DESIGN CHOICE
across columns.) (R391, R392, R393, R394, R395, R396, R399, R360.) -/
def Obligations.KeysRotateAndSweep : Prop :=
  (∀ (s : State) (q : QueuePair) (p c : Packet) (n : BitVec 4) (x : Partition), Fetches 0x0A10 s q p c →
    namedPart q c (par c 0 1) = .ok n → findPart s n = some x →
    (x.scrubbing = false → x.sweeping = false → exec (.keyRotate p) s = completes p
      (toLE 4 (x.rotations + 1).toNat ++ toLE 1 (if x.gen then 0 else 1))
      { updPart n (fun y => { y with gen := !y.gen, rotations := y.rotations + 1, sweeping := true, sweepSince := Config.elapsedMs s.draw })
          (fetchedState p s) with draw := s.draw + 1 }) ∧
    (x.scrubbing = false → x.sweeping = true →
      exec (.keyRotate p) s = .next (settle (finish (pktOrigin p) stBusyRekey 0 [] (fetchedState p s)))) ∧
    (x.scrubbing = true → exec (.keyRotate p) s = .next (settle (finish (pktOrigin p) stScrubbing 0 [] (fetchedState p s))))) ∧
  (∀ (s : State) (n : BitVec 4) (e : ReadErrors) (x : Partition), started s = true → findPart s n = some x → x.sweeping = true →
    oldLines s x = [] → exec (.sweepRewrite ⟨n, e⟩) s = happens (updPart n (fun y => { y with sweeping := false }) s)) ∧
  (∀ (s : State) (n : BitVec 4) (x : Partition), started s = true → Sound s → findPart s n = some x → x.sweeping = true →
    oldLines s x ≠ [] → ∃ t : LineTag, t ∈ oldLines s x ∧ (∀ k ∈ oldLines s x, lineIndex t.line ≤ lineIndex k.line) ∧ ∀ e : ReadErrors,
      (lineState s t.line ≠ some .valid ∨ (onAbsorbed s t.line = false ∧ decodePattern (errorsOf e t.line) = .clean) →
        ∃ u : State, exec (.sweepRewrite ⟨n, e⟩) s = happens u ∧ u.mem = s.mem ∧ tagOf u.tags t.line = some { t with gen := x.gen } ∧
          (∀ l, l ≠ t.line → tagOf u.tags l = tagOf s.tags l) ∧
          findPart u n = some { x with sweeping := !(oldLines u x).isEmpty } ∧
          u = { s with tags := u.tags, dirtyTags := u.dirtyTags, partitions := u.partitions, draw := u.draw
                       laneCounts := u.laneCounts }) ∧
      (lineState s t.line = some .valid → onAbsorbed s t.line = false → decodePattern (errorsOf e t.line) = .uncorrectable →
        misread (errorsOf e t.line) = none → canForm s e.badStripe t.line = false →
        ∃ u : State, exec (.sweepRewrite ⟨n, e⟩) s = happens u ∧ u.mem = s.mem ∧ tagOf u.tags t.line = some ⟨t.line, x.gen, .lost⟩)) ∧
  (∀ (s : State) (n : BitVec 4) (e : ReadErrors), started s = true → (∀ x, findPart s n = some x → x.sweeping = false) →
    exec (.sweepRewrite ⟨n, e⟩) s = happens s) ∧
  (∀ (s : State) (q : QueuePair) (p c : Packet) (n : BitVec 4) (x : Partition), Fetches 0x0A11 s q p c →
    namedPart q c (par c 0 1) = .ok n → findPart s n = some x →
    ∃ left ms, ms < 2 ^ 32 ∧ exec (.keyStatus p) s = completes p
      (toLE 1 (if x.keyLive = false then 2 else if x.sweeping then 1 else 0) ++ toLE 1 (if x.gen then 1 else 0) ++ zeros 2 ++
        toLE 4 x.rotations.toNat ++ toLE 4 left ++ toLE 4 ms) { fetchedState p s with draw := s.draw + 1 } ∧
      (x.sweeping = false → left = 0 ∧ ms = 0) ∧
      (x.sweeping = true → left = most ((oldLines s x).map fun t => lineCore t.line))) ∧
  (∀ (s : State) (q : QueuePair) (p c : Packet) (n : BitVec 4), Fetches 0x0A11 s q p c →
    namedPart q c (par c 0 1) = .ok n → findPart s n = none →
    exec (.keyStatus p) s = completes p (2 :: zeros 15) (fetchedState p s)) ∧
  (∀ (s : State) (q : QueuePair) (p c : Packet) (n : BitVec 4) (x : Partition), Fetches 0x0A04 s q p c → par c 1 1 = 1 →
    namedPart q c (par c 0 1) = .ok n → findPart s n = some x → x.scrubbing = false →
    ((∃ d ∈ s.cxl.decoders, ∃ b, d.bound = some b ∧ b.1 = n) →
      exec (.confidentialSet p) s = .next (settle (finish (pktOrigin p) stNotPermitted 0 [] (fetchedState p s)))) ∧
    ((∀ d ∈ s.cxl.decoders, ∀ b, d.bound = some b → b.1 ≠ n) → x.confidential = true →
      exec (.confidentialSet p) s = completes p [] (fetchedState p s)) ∧
    ((∀ d ∈ s.cxl.decoders, ∀ b, d.bound = some b → b.1 ≠ n) → x.confidential = false →
      exec (.confidentialSet p) s = completes p []
        (updPart n (fun y => { y with confidential := true, pubEnergy := y.energy }) (fetchedState p s)))) ∧
  (∀ (s : State) (q : QueuePair) (p c : Packet), Fetches 0x0A04 s q p c → par c 1 1 ≠ 1 →
    exec (.confidentialSet p) s = .next (settle (finish (pktOrigin p) stBadLength 0 [] (fetchedState p s)))) ∧
  ∀ s : State, started s = true → ∃ t : State, exec .confidentialPublication s = happens t ∧
    t = { s with partitions := t.partitions, pairs := t.pairs, power := t.power, thermal := t.thermal } ∧
    t.partitions = s.partitions.map (fun p => { p with pubEnergy := p.energy }) ∧
    t.pairs = s.pairs.map (fun q => { q with pubEnergy := q.energy }) ∧
    t.power.pubDevice = s.power.device ∧ t.power.pubUnattributed = s.power.unattributed ∧ t.power.device = s.power.device ∧
    (s.power.secCount ≠ 0 → t.power.pubPower = s.power.secPower / s.power.secCount / 1000 ∧
      t.power.pubIin = s.power.secIin / s.power.secCount / 1000) ∧
    t.power.secCount = 0 ∧ t.power.secPower = 0 ∧ t.thermal.secCount = 0

/-- STEP_SUBMIT of a loaded plan that is not being unloaded, and of which no PLAN_UNLOAD has been fetched that will take
effect, is ACCEPTED and takes the next place in fetch order: behind a FENCE with earlier commands outstanding it is not yet
eligible; a step of a BATCHED plan joins the open set of its plan and context, due at the fill target; any other waits for
release. Of any other plan it is NOT_PERMITTED. A FENCE step becomes eligible once it is the oldest outstanding command of
its pair. The wait limit makes the open set due as late; BATCH_SET within its limits sets the rule and makes due every set
that meets it. A release takes steps whose CFGVER still matches as one batch, under the division rule in force; a step whose
CFGVER does not ends with CONFIG_MISMATCH. STEP_CANCEL reports 2 for no submission, 1 for a released one, 0 for a held one,
which ends OK and CANCELLED; the earlier submission decides. (That WAIT 0 releases each step as a set of its own is
DEDUCED.) (R13, R161, R162, R164, R165, R166, R167, R170, R173.) -/
def Obligations.StepsAreHeldForTheirBatch : Prop :=
  (∀ (s : State) (q : QueuePair) (p c : Packet) (x : Partition) (r : Plan), Fetches 0x0401 s q p c →
    findPart s (pktPart c) = some x → x.plan (par32 c 0) = some r → r.unloading = none →
    unloadFetched (fetchedState p s) x r.handle = false →
    let h : Held := {
      origin := pktOrigin p, plan := par32 c 0, cfgver := c.cfgver
      words := (List.range 11).map fun i => if 8 * i + 16 ≤ c.plen.toNat % 2 ^ 20 then fld64 c.inl (8 * i + 8) else 0
      order := s.order, fence := false }
    let t : State := { fetchedState p s with order := s.order + 1 }
    (pktFence c = true → q.outstanding ≠ [] → exec (.stepSubmit p) s = accepts p
      (updCtx (pktPart c) (pktCtx c) (fun k => { k with ineligible := k.ineligible ++ [{ h with fence := true }] }) t)) ∧
    (pktFence c = false ∨ q.outstanding = [] → r.batched = true → r.wait ≠ 0 → exec (.stepSubmit p) s = accepts p
      (pump (updCtx (pktPart c) (pktCtx c) (fun k => { k with sets := addToSets r.fill h k.sets }) t))) ∧
    (pktFence c = false ∨ q.outstanding = [] → r.batched = true → r.wait = 0 → exec (.stepSubmit p) s = accepts p
      (pump (updCtx (pktPart c) (pktCtx c) (fun k => { k with sets := k.sets ++ [⟨r.handle, [h], some (decide (r.fill ≠ 1))⟩] }) t))) ∧
    (pktFence c = false ∨ q.outstanding = [] → r.batched = false → exec (.stepSubmit p) s = accepts p
      (pump (updCtx (pktPart c) (pktCtx c) (fun k => { k with ineligible := k.ineligible ++ [h] }) t)))) ∧
  (∀ (s : State) (q : QueuePair) (p c : Packet), Fetches 0x0401 s q p c →
    (∀ x r, findPart s (pktPart c) = some x → x.plan (par32 c 0) = some r →
      r.unloading ≠ none ∨ unloadFetched (fetchedState p s) x r.handle = true) →
    exec (.stepSubmit p) s = .next (settle (finish (pktOrigin p) stNotPermitted 0 [] (fetchedState p s)))) ∧
  (∀ (fill : Nat) (h : Held) (l : List BatchSet), (∀ b ∈ l, b.plan = h.plan → b.due ≠ none) →
    addToSets fill h l = l ++ [⟨h.plan, [h], if fill ≤ 1 then some false else none⟩]) ∧
  (∀ (fill : Nat) (h : Held) (l m : List BatchSet) (b : BatchSet), (∀ b ∈ l, b.plan = h.plan → b.due ≠ none) → b.plan = h.plan →
    b.due = none → (∀ k ∈ b.steps, k.order ≤ h.order) → b.steps.Pairwise (fun x y => x.order ≤ y.order) →
    addToSets fill h (l ++ b :: m) =
      l ++ ⟨b.plan, b.steps ++ [h], if fill ≤ b.steps.length + 1 then some false else none⟩ :: m) ∧
  (∀ (s : State) (qp : BitVec 6) (tag : U32) (f : Found) (q : QueuePair) (o : Outstanding) (rest : List Outstanding),
    started s = true → (allSteps s).find? (fun f => f.held.is ⟨qp, tag, false⟩ && f.held.fence && !f.released) = some f →
    findPair s qp = some q → q.outstanding = o :: rest → (∀ w ∈ q.waiting, w.status = stAccepted) →
    (o.tag = tag → exec (.stepEligible qp tag) s = happens (makeEligible f.part f.ctx { f.held with fence := false }
      (updCtx f.part f.ctx (fun c => { c with ineligible := c.ineligible.erase f.held }) s))) ∧
    (o.tag ≠ tag → exec (.stepEligible qp tag) s = happens s)) ∧
  (∀ (s : State) (n : BitVec 4) (c : BitVec 3) (h : U32), started s = true → exec (.waitLimitExpiry n c h) s = happens
    (pump (updCtx n c.toNat (fun k => { k with sets := k.sets.map fun b =>
      if b.plan = h ∧ b.due = none then { b with due := some true } else b }) s))) ∧
  (∀ (s : State) (q : QueuePair) (p c : Packet) (x : Partition) (r : Plan), Fetches 0x0405 s q p c →
    findPart s (pktPart c) = some x → x.plan (par32 c 0) = some r →
    (r.batched = true → 1 ≤ par c 4 2 → par c 4 2 ≤ r.batchMax → par c 6 2 ≤ 10000 → exec (.batchSet p) s = completes p []
      (releaseFilled (pktPart c) (par32 c 0) (par c 4 2) (par c 6 2)
        (updPlan (pktPart c) (par32 c 0) (fun q => { q with fill := par c 4 2, wait := par c 6 2 }) (fetchedState p s)))) ∧
    (r.batched = false ∨ par c 4 2 = 0 ∨ r.batchMax < par c 4 2 ∨ 10000 < par c 6 2 →
      exec (.batchSet p) s = .next (settle (finish (pktOrigin p) stBadLength 0 [] (fetchedState p s))))) ∧
  (∀ (s : State) (n : BitVec 4) (x : Partition) (c : Nat) (plan : U32) (steps : List Held) (late : Bool), steps ≠ [] →
    findPart s n = some x → (∀ h ∈ steps, h.cfgver = 0 ∨ h.cfgver = cfgVersion s) →
    release n c plan steps late s = updCtx n c
      (fun k => { k with released := k.released ++ [⟨plan, steps, late, x.divMode, x.bsplit⟩] }) s) ∧
  (∀ (s : State) (n : BitVec 4) (c : Nat) (plan : U32) (h : Held) (late : Bool), h.cfgver ≠ 0 → h.cfgver ≠ cfgVersion s →
    release n c plan [h] late s = finish h.origin stConfig 0 [] s) ∧
  ∀ (s : State) (q : QueuePair) (p c : Packet), Fetches 0x0404 s q p c →
    let mine := (allSteps (fetchedState p s)).filter fun f => f.held.origin = ⟨p.qp, par32 c 0, false⟩
    (mine = [] → exec (.stepCancel p) s = completes p (toLE 4 2) (fetchedState p s)) ∧
    ∀ f ∈ mine, (∀ g ∈ mine, g = f ∨ f.held.order < g.held.order) →
      (f.released = true → exec (.stepCancel p) s = completes p (toLE 4 1) (fetchedState p s)) ∧
      (f.released = false → exec (.stepCancel p) s = completes p (toLE 4 0) (finish f.held.origin stOk 0x80000000 []
        { fetchedState p s with partitions := s.partitions.map fun p => { p with contexts := p.contexts.map fun c => { c with
          sets := ((c.sets.map fun b => { b with steps := b.steps.filter (· ≠ f.held) }).filter fun b => !b.steps.isEmpty)
          ineligible := c.ineligible.filter (· ≠ f.held) } } }))

/-- The oldest released batch of the running context starts when no step of it runs, no switch is under way, no page is
being regenerated, no tract is lacking and the device runs: the groves of the partition hold nothing of an earlier step, IN
bindings are written, no operator is done, and the caches of the context are kept as they are; while a step runs or a switch
is under way no other starts. Where data was lost, pages lacked or every operator is done, the step ends and what may follow
it follows; before that STEP_COMPLETE does nothing. At its end the step is gone and each slot completes in order: LOST_DATA
where data was lost; NO_RESOURCE where pages lacked; else OK with B, SLOT, the late bit and its result words. A slice that
expires with other work waiting marks the context; with none waiting it changes nothing. At a boundary without droop the
switch begins to another context that has work; while a plot droops none begins. A context whose slice has expired is
switched out within its step: nothing of it is left in the groves, and no byte is written but in its save area (where no
root layer is being absorbed). When the switch is done the new context runs, what was saved of it back in the groves.
CONTEXT_SET sets weight, slice and save area within their limits; another context, weight or slice gives BAD_LENGTH. (Which
of several waiting contexts is chosen, by running time for weight, is the model's reading; what the save area's bytes are is
free.) (R159, R162, R163, R168, R170, R171, R172, R407.) -/
def Obligations.StepsRunOneAtATime : Prop :=
  (∀ (s : State) (n : BitVec 4) (p : Partition) (b : Batch) (bs : List Batch), started s = true → running s = true →
    findPart s n = some p → p.scrubbing = false → p.switching = none → p.stranded = false → p.regenerating = false → p.expired = false →
    (p.context p.current.toNat).step = none → (p.context p.current.toNat).released = b :: bs →
    ∃ (u : State) (r : RunningStep), exec (.stepStart n) s = happens (updCtx n p.current.toNat
        (fun c => { c with released := bs, step := some r }) (fillBindings p ((p.plan b.plan).getD Plan.none) b.steps u)) ∧
      u = { s with netNoted := u.netNoted, groves := u.groves } ∧
      (∀ g ∈ u.groves, hasTract p.tracts (tractOfCore (256 * g.num)) = true → g.store = [] ∧ ∀ c ∈ g.cores, c.accs = []) ∧
      r.batch = b ∧ r.done = [] ∧ r.lost = none ∧ r.noResource = false ∧ r.replays = 0 ∧ r.before = p.caches.filter (fun c => c.ctx.toNat = p.current.toNat)) ∧
  (∀ (s : State) (n : BitVec 4) (p : Partition), started s = true → findPart s n = some p → p.switching ≠ none ∨
    (p.context p.current.toNat).step ≠ none → exec (.stepStart n) s = happens s) ∧
  (∀ (s : State) (n : BitVec 4) (p : Partition) (r : RunningStep), started s = true → running s = true → findPart s n = some p →
    (p.context p.current.toNat).step = some r → p.switching = none → p.regenerating = false →
    r.lost.isSome ∨ r.noResource = true ∨ ((p.plan r.batch.plan).getD Plan.none).ops.length ≤ r.done.length →
    exec (.stepComplete n) s = happens (considerSwitch n (pump (endStep n p.current.toNat s)))) ∧
  (∀ (s : State) (n : BitVec 4) (p : Partition) (r : RunningStep), started s = true → findPart s n = some p →
    (p.context p.current.toNat).step = some r → r.lost = none → r.noResource = false →
    r.done.length < ((p.plan r.batch.plan).getD Plan.none).ops.length → exec (.stepComplete n) s = happens s) ∧
  (∀ (s s' : State) (q : Plan) (r : RunningStep),
    (∀ src op addr k, r.lost = some (src, op, addr, k) → postStep s q r s' = r.batch.steps.foldl (fun t h =>
      finish h.origin stLostData (BitVec.ofNat 32 (src * 2 ^ 24 + op % 2 ^ 20)) (toLE 8 addr ++ toLE 8 k) t) s') ∧
    (r.lost = none → r.noResource = true →
      postStep s q r s' = r.batch.steps.foldl (fun t h => finish h.origin stNoResource 0 [] t) s') ∧
    (r.lost = none → r.noResource = false → postStep s q r s' = r.batch.steps.zipIdx.foldl (fun t h => finish h.1.origin stOk
      (BitVec.ofNat 32 (r.batch.steps.length + 2 ^ 16 * h.2 + (if r.batch.late then 2 ^ 30 else 0))) (outWords s q h.2) t) s')) ∧
  (∀ (s : State) (n : BitVec 4) (c : Nat) (p : Partition), findPart s n = some p → c < p.contexts.length →
    ∀ y, findPart (endStep n c s) n = some y → (y.context c).step = none) ∧
  (∀ (s : State) (n : BitVec 4) (p : Partition), started s = true → findPart s n = some p →
    (nextContext p = none → exec (.sliceExpiry n) s = happens s) ∧
    (nextContext p ≠ none → exec (.sliceExpiry n) s = happens (considerSwitch n (updPart n (fun p => { p with expired := true }) s)))) ∧
  (∀ (s : State) (n : BitVec 4) (p : Partition) (k : Nat), findPart s n = some p → p.switching = none →
    (p.context p.current.toNat).step = none → nextContext p = some k →
    (p.expired = true ∨ (p.context p.current.toNat).released = [] → drooping s p = false →
      considerSwitch n s = updPart n (fun p => { p with switching := some (BitVec.ofNat 3 k) }) s) ∧
    (drooping s p = true → considerSwitch n s = s)) ∧
  (∀ p : Partition, (∀ k, nextContext p = some k → k ≠ p.current.toNat ∧ (p.context k).working = true) ∧
    (nextContext p = none → ∀ k, k < p.contexts.length → k ≠ p.current.toNat → (p.context k).working = false)) ∧
  (∀ (s : State) (n : BitVec 4) (p : Partition) (k : Nat), started s = true → findPart s n = some p → p.expired = true →
    (p.context p.current.toNat).step.isSome → p.switching = none → drooping s p = false → nextContext p = some k →
    exec (.sliceOverrun n) s = happens (updPart n (fun p => { p with switching := some (BitVec.ofNat 3 k) })
      (saveUnderstory p p.current.toNat s))) ∧
  (∀ (s : State) (p : Partition) (c a : Nat), (∀ l, onAbsorbed s l = false) →
    (∀ q r o, regionAt s (p.context c).save = some (q, r) → r.offset (p.context c).save = some o →
      ∀ i, i < (p.context c).saveSize → r.addr (o + i) ≠ a) →
    memGet (saveUnderstory p c s).mem a = memGet s.mem a) ∧
  (∀ (s : State) (p : Partition) (c : Nat), let mine : Grove → Bool := fun g => hasTract p.tracts (tractOfCore (256 * g.num))
    (saveUnderstory p c s).groves = s.groves.filter (fun g => !mine g) ∧
    ((p.context c).saved = [] → restoreUnderstory p c s = s) ∧
    ((p.context c).saved ≠ [] →
      (restoreUnderstory p c s).groves = s.groves.filter (fun g => !mine g) ++ (p.context c).saved)) ∧
  (∀ (s : State) (n : BitVec 4) (p : Partition) (k : BitVec 3), started s = true → findPart s n = some p → p.switching = some k →
    exec (.contextSwitchDone n) s = happens (updCtx n k.toNat (fun c => { c with served := c.served + c.slice })
      (updPart n (fun p => { p with current := k, expired := false, switching := none }) (restoreUnderstory p k.toNat s)))) ∧
  (∀ (s : State) (q : QueuePair) (p c : Packet) (x : Partition), Fetches 0x0406 s q p c → findPart s (pktPart c) = some x →
    par c 0 1 ≤ 7 → 1 ≤ par c 1 1 → 1000 ≤ par c 4 4 → par c 4 4 ≤ 1000000 →
    par c 16 8 = 0 ∨ (∃ r o, x.regions.findSome? (fun r => (r.offset (par c 8 8)).map fun o => (r, o)) = some (r, o) ∧
      par c 8 8 % 64 = 0 ∧ par c 8 8 < 2 ^ 42 ∧ validAddr (par c 8 8) = true ∧
      150 * 2 ^ 20 * (tractsOf x.tracts).length ≤ par c 16 8 ∧ r.kind = 0 ∧ o + par c 16 8 ≤ r.size) →
    exec (.contextSet p) s = completes p [] (updCtx (pktPart c) (par c 0 1) (fun k => { k with
      weight := par c 1 1, slice := par c 4 4, save := par c 8 8, saveSize := par c 16 8 }) (fetchedState p s))) ∧
  ∀ (s : State) (q : QueuePair) (p c : Packet), Fetches 0x0406 s q p c → (findPart s (pktPart c)).isSome →
    7 < par c 0 1 ∨ par c 1 1 = 0 ∨ par c 4 4 < 1000 ∨ 1000000 < par c 4 4 →
    exec (.contextSet p) s = .next (settle (finish (pktOrigin p) stBadLength 0 [] (fetchedState p s)))

/-- PLAN_LOAD of an aligned, readable image whose length field says its size is ACCEPTED and its image kept for validation;
a misaligned one is BAD_LENGTH, one above 16 MiB or of another length LENGTH_EXCEEDS_TARGET. When its validation is done the
first failure found is the final completion; where there is none the plan is loaded under a handle that no loaded plan has,
and OK reports it. PLAN_UNLOAD of a loaded plan marks it and makes its open sets due; while a step of each plan being
unloaded is held or released nothing follows, and a partition's one plan is removed, and the command completes OK, once none
is; an unknown plan is NOT_PERMITTED. A fresh handle is never one in use. (The value of a handle is free: log 4.) (R156,
R157, R158, R160.) -/
def Obligations.PlansAreLoadedAndUnloaded : Prop :=
  (∀ (s : State) (q : QueuePair) (p c : Packet) (img : List Byte), Fetches 0x0402 s q p c → par c 0 8 % 64 = 0 → par c 8 4 ≤ 16777216 →
    takeBuffer (fetchedState p s) q c (par c 0 8) (par c 8 4) = .ok img → fld img 8 4 = par c 8 4 →
    exec (.planLoad p) s = accepts p { fetchedState p s with loading := s.loading ++
      [⟨pktOrigin p, pktPart c, BitVec.ofNat 3 (pktCtx c), pktExpert c, img⟩] }) ∧
  (∀ (s : State) (q : QueuePair) (p c : Packet), Fetches 0x0402 s q p c →
    (par c 0 8 % 64 ≠ 0 → exec (.planLoad p) s = .next (settle (finish (pktOrigin p) stBadLength 0 [] (fetchedState p s)))) ∧
    (par c 0 8 % 64 = 0 → 16777216 < par c 8 4 →
      exec (.planLoad p) s = .next (settle (finish (pktOrigin p) stExceeds 0 [] (fetchedState p s)))) ∧
    ∀ img, par c 0 8 % 64 = 0 → par c 8 4 ≤ 16777216 → takeBuffer (fetchedState p s) q c (par c 0 8) (par c 8 4) = .ok img →
      fld img 8 4 ≠ par c 8 4 → exec (.planLoad p) s = .next (settle (finish (pktOrigin p) stExceeds 0 [] (fetchedState p s)))) ∧
  (∀ (s : State) (qp : BitVec 6) (tag : U32) (l : Loading) (x : Partition), started s = true →
    s.loading.find? (fun l => l.origin = ⟨qp, tag, false⟩) = some l → findPart s l.part = some x →
    let h := freshHandle (s.partitions.flatMap fun p => p.plans.map (·.handle)) s
    let plan := parsePlan l.image l.ctx h
    let t : State := { s with loading := s.loading.erase l }
    (∀ f, validate ⟨x, l.expert, plan, s.fabric.groups⟩ (imageBytes s) = some f →
      exec (.planValidationDone qp tag) s = happens (finish ⟨qp, tag, false⟩ f.status f.detail [] t)) ∧
    (validate ⟨x, l.expert, plan, s.fabric.groups⟩ (imageBytes s) = none →
      exec (.planValidationDone qp tag) s = happens (finish ⟨qp, tag, false⟩ stOk 0 (toLE 4 h.toNat)
        (updPart l.part (fun p => { p with plans := p.plans ++ [plan] }) { t with draw := s.draw + 1 })))) ∧
  (∀ (used : List U32) (s : State), used.length < 2 ^ 32 - 1 → freshHandle used s ∉ used ∧ freshHandle used s ≠ 0xFFFFFFFF) ∧
  (∀ (s : State) (q : QueuePair) (p c : Packet) (x : Partition) (r : Plan), Fetches 0x0403 s q p c →
    findPart s (pktPart c) = some x → x.plan (par32 c 0) = some r → r.unloading = none →
    (∀ k ∈ x.caches, k.recomp ≠ some (par32 c 0)) →
    exec (.planUnload p) s = happens ((List.range 8).foldl (fun s k => releaseLate (pktPart c) k (par32 c 0) s)
      (updPlan (pktPart c) (par32 c 0) (fun q => { q with unloading := some (pktOrigin p) }) (fetchedState p s)))) ∧
  (∀ (s : State) (q : QueuePair) (p c : Packet), Fetches 0x0403 s q p c →
    (∀ x, findPart s (pktPart c) = some x → x.plan (par32 c 0) = none) →
    exec (.planUnload p) s = .next (settle (finish (pktOrigin p) stNotPermitted 0 [] (fetchedState p s)))) ∧
  (∀ s : State, (∀ x ∈ s.partitions, ∀ r ∈ x.plans, r.unloading = none ∨ planBusy x r.handle = true) → finishUnloads s = s) ∧
  ∀ (s : State) (x : Partition) (r : Plan) (o : Origin), s.partitions = [x] → x.plans = [r] → r.unloading = some o →
    planBusy x r.handle = false → finishUnloads s = finish o stOk 0 [] { s with partitions := [{ x with plans := [] }] }

/-- A CACHE_OPEN whose fields pass R227's checks, with fewer than 16 caches, a pool page and a free table entry, adds an
empty cache with the fields of the parameters and reports handle, pool pages and PP; a field that fails gives its status,
and 16 caches, no pool page or a full page table gives NO_RESOURCE. CACHE_CLOSE frees the pages and removes a cache that no
plan names and whose context has no released step, and a migration still in progress ends with the pages it had moved; else
NOT_PERMITTED. CACHE_SEQ waits for the context's running step; then OPEN adds the sequence, RELEASE removes it, TRUNCATE
shortens every layer to the length at most, TOKENS sets the count, of a new array or of the one there is; the last three of
a sequence not open give NOT_PERMITTED. CACHE_SEQ_QUERY of all layers reports open, pages and tokens; of one layer its
length, maxima and pages, and with COUNT the number of page entries it copies to DEST. CACHE_STATUS reports free pages of
pool and spill region and open sequences. (R227, R228, R229, R238, R239, R247, R248.) -/
def Obligations.CachesOpenAndCloseSequences : Prop :=
  (∀ (s : State) (q : QueuePair) (p c : Packet) (x : Partition), Fetches 0x0501 s q p c → findPart s (pktPart c) = some x →
    let h := freshHandle (s.partitions.flatMap fun p => p.caches.map (·.handle)) s
    let opt (n : Nat) : Option U32 := if n = 0xFFFFFFFF then none else some (BitVec.ofNat 32 n)
    let k : Cache := {
      handle := h, layout := par c 0 1, bf16 := par c 1 1 = 0x11, pageLog2 := par c 2 1, spill := par c 3 1 % 2 = 1
      nlayer := par c 4 2, hl := par c 6 2, d := par c 8 2, ctx := BitVec.ofNat 3 (par c 10 1), maxseq := par c 12 4
      pool := par32 c 16, spillreg := opt (par c 20 4), stagingReg := opt (par c 24 4), group := opt (par c 28 4)
      chunkPages := par c 32 4, recomp := opt (par c 36 4), rtokidx := par c 40 2, rchunk := par c 44 4
      seqs := [], layers := [], migrations := [] }
    (∀ e, checkCacheOpen (fetchedState p s) x c k = some e →
      exec (.cacheOpen p) s = .next (settle (finish (pktOrigin p) e 0 [] (fetchedState p s)))) ∧
    (checkCacheOpen (fetchedState p s) x c k = none → x.caches.length < 16 → poolPages s x k ≠ 0 → entriesUsed s < 134217728 →
      exec (.cacheOpen p) s = completes p (toLE 4 h.toNat ++ toLE 4 (poolPages s x k) ++ toLE 4 k.pp)
        (updPart x.num (fun p => { p with caches := p.caches ++ [k] }) { fetchedState p s with draw := s.draw + 1 })) ∧
    (checkCacheOpen (fetchedState p s) x c k = none → 16 ≤ x.caches.length ∨ poolPages s x k = 0 ∨ 134217728 ≤ entriesUsed s →
      exec (.cacheOpen p) s = .next (settle (finish (pktOrigin p) stNoResource 0 [] (fetchedState p s))))) ∧
  (∀ (s : State) (q : QueuePair) (p c : Packet) (x : Partition) (k : Cache), Fetches 0x0502 s q p c →
    findPart s (pktPart c) = some x → x.cache (par32 c 0) = some k →
    (planNames x k.handle = false → (x.context k.ctx.toNat).working = false →
      exec (.cacheClose p) s = completes p [] (k.migrations.foldl (fun s m => finish m.1 stOk 0 (toLE 4 m.2.2.2.2) s)
        (settleReserve (updPart x.num (fun p => { p with caches := p.caches.filter fun m => m.handle ≠ k.handle })
          (freePages x k k.used (fetchedState p s)))))) ∧
    (planNames x k.handle = true ∨ (x.context k.ctx.toNat).working = true →
      exec (.cacheClose p) s = .next (settle (finish (pktOrigin p) stNotPermitted 0 [] (fetchedState p s))))) ∧
  (∀ (s : State) (q : QueuePair) (p c : Packet) (x : Partition) (k : Cache), Fetches 0x0503 s q p c →
    findPart s (pktPart c) = some x → x.cache (par32 c 0) = some k →
    ((x.context k.ctx.toNat).step.isSome → exec (.cacheSeq p) s = happens
      (updPart x.num (fun x => { x with deferred := x.deferred ++ [c] }) (fetchedState p s))) ∧
    ((x.context k.ctx.toNat).step = none → par c 4 4 < k.maxseq →
      (par c 8 1 = 0 → k.isOpen (par c 4 4) = false → checkTokens x (par c 24 8) (par c 32 8) = none →
        exec (.cacheSeq p) s = completes p [] (updCache (pktPart c) k.handle (fun k => { k with
          seqs := k.seqs ++ [⟨par c 4 4, par c 24 8, if par c 24 8 = 0 then 0 else par c 32 8, 0⟩]
          layers := k.layers.filter fun r => r.seq ≠ par c 4 4 }) (fetchedState p s))) ∧
      (par c 8 1 = 1 → k.isOpen (par c 4 4) = true → exec (.cacheSeq p) s = completes p [] (settleReserve
        ((List.range k.nlayer).foldl (fun s l => truncateLayer (pktPart c) k.handle (par c 4 4) l (par c 16 8) false s)
          (fetchedState p s)))) ∧
      (par c 8 1 = 2 → k.isOpen (par c 4 4) = true → exec (.cacheSeq p) s = completes p []
        (settleReserve (releaseSeq (pktPart c) k.handle (par c 4 4) (fetchedState p s)))) ∧
      (par c 8 1 = 3 → k.isOpen (par c 4 4) = true → par c 24 8 ≠ 0 → checkTokens x (par c 24 8) (par c 32 8) = none →
        par c 16 8 ≤ par c 32 8 / 4 → exec (.cacheSeq p) s = completes p [] (updCache (pktPart c) k.handle (fun k => { k with
          seqs := k.seqs.map fun r => if r.seq = par c 4 4 then { r with tokAddr := par c 24 8, tokSize := par c 32 8, tokCount := par c 16 8 }
            else r }) (fetchedState p s))) ∧
      (par c 8 1 = 3 → par c 24 8 = 0 → ∀ o, k.seqs.find? (fun r => r.seq = par c 4 4) = some o → par c 16 8 ≤ o.tokSize / 4 →
        exec (.cacheSeq p) s = completes p [] (updCache (pktPart c) k.handle (fun k => { k with
          seqs := k.seqs.map fun r => if r.seq = par c 4 4 then { r with tokSize := o.tokSize, tokCount := par c 16 8 } else r })
          (fetchedState p s))) ∧
      (1 ≤ par c 8 1 → par c 8 1 ≤ 3 → k.isOpen (par c 4 4) = false →
        exec (.cacheSeq p) s = .next (settle (finish (pktOrigin p) stNotPermitted 0 [] (fetchedState p s)))))) ∧
  (∀ (s : State) (n : BitVec 4) (h : U32) (seq layer len : Nat) (x y : Partition) (k m : Cache), findPart s n = some x →
    x.cache h = some k → findPart (truncateLayer n h seq layer len false s) n = some y → y.cache h = some m →
    (m.layerRec seq layer).length = min len (k.layerRec seq layer).length) ∧
  (∀ (s : State) (n : BitVec 4) (h : U32) (seq : Nat) (y : Partition) (m : Cache), findPart (releaseSeq n h seq s) n = some y →
    y.cache h = some m → m.isOpen seq = false ∧ ∀ r ∈ m.layers, r.seq ≠ seq) ∧
  (∀ (s : State) (q : QueuePair) (p c : Packet) (x : Partition) (k : Cache), Fetches 0x0504 s q p c →
    findPart s (pktPart c) = some x → x.cache (par32 c 0) = some k → par c 4 4 < k.maxseq → par c 12 4 ≤ 2 ^ 24 →
    (par c 8 2 = 0xFFFF → ∀ r, k.seqs.find? (fun r => r.seq = par c 4 4) = some r → exec (.cacheSeqQuery p) s = completes p
      (1 :: zeros 3 ++ toLE 4 ((k.layers.filter fun r => r.seq = par c 4 4).map fun r => r.pages.length).sum ++ toLE 8 r.tokCount)
      (fetchedState p s)) ∧
    (par c 8 2 = 0xFFFF → k.seqs.find? (fun r => r.seq = par c 4 4) = none → exec (.cacheSeqQuery p) s = completes p
      (zeros 4 ++ toLE 4 ((k.layers.filter fun r => r.seq = par c 4 4).map fun r => r.pages.length).sum ++ zeros 8)
      (fetchedState p s)) ∧
    (par c 8 2 < k.nlayer → par c 8 2 ≠ 0xFFFF →
      let r := k.layerRec (par c 4 4) (par c 8 2)
      let n := min (par c 28 4 + par c 12 4) r.pages.length - par c 28 4
      (par c 12 4 = 0 → exec (.cacheSeqQuery p) s = completes p
        (toLE 8 r.length ++ toLEInt 2 r.kmax ++ toLEInt 2 r.vmax ++ toLE 4 r.pages.length) (fetchedState p s)) ∧
      ∀ b : Option (List Nat), par c 12 4 ≠ 0 → par c 16 8 % 8 = 0 → 8 * par c 12 4 ≤ par c 24 4 →
        paramBuffer (fetchedState p s) q c (par c 16 8) (par c 24 4) = .ok b →
        exec (.cacheSeqQuery p) s = completes p (toLE 8 r.length ++ toLEInt 2 r.kmax ++ toLEInt 2 r.vmax ++ toLE 4 n)
          (putBuffer q c b (par c 16 8) ((List.range n).flatMap fun i =>
            entryBytes s x k r ((k.spread s x.num).held r.length) (par c 28 4 + i)) (fetchedState p s)))) ∧
  ∀ (s : State) (q : QueuePair) (p c : Packet) (x : Partition) (k : Cache), Fetches 0x0506 s q p c →
    findPart s (pktPart c) = some x → x.cache (par32 c 0) = some k →
    exec (.cacheStatus p) s = completes p (toLE 4 (freePool s x k).length ++ toLE 4 (freeRoot x k k.used).length ++
      toLE 4 k.seqs.length ++ toLE 4 (min (2 ^ 32 - 1) (134217728 - entriesUsed s))) (fetchedState p s)

/-- CACHE_MIGRATE of layers an open sequence has, with room for every page that moves, gives each a place, is ACCEPTED and
noted, no page moved yet; without room NO_RESOURCE, of a sequence not open NOT_PERMITTED. PAGE_SWITCH does nothing while a
step of the context runs; otherwise a page with a complete copy lies at its new place, every byte of a valid line of it
reads there as it read at the old one, and each migration of its sequence and layer counts it (stated for one page that
moves). MIGRATION_DONE completes OK with the number of pages moved once none of its pages is moving; before that it does
nothing. (That the copy is taken at the switch is the model's choice.) (R243, R244.) -/
def Obligations.PagesMoveBetweenPoolAndSpill : Prop :=
  (∀ (s : State) (q : QueuePair) (p c : Packet) (x : Partition) (k : Cache), Fetches 0x0505 s q p c →
    findPart s (pktPart c) = some x → x.cache (par32 c 0) = some k →
    let root : Bool := decide (par c 12 1 = 1)
    let ms := moveList k (par c 4 4) (par c 8 2) (par c 10 2) (par c 16 4) (par c 20 4) root
    (k.isOpen (par c 4 4) = true → 1 ≤ par c 10 2 → par c 8 2 + par c 10 2 ≤ k.nlayer → par c 12 1 ≤ 1 →
      (par c 12 1 = 1 → k.spillreg ≠ none) → par c 20 4 ≠ 0 →
      (ms.length ≤ (if root then (freeRoot x k k.used).length else (freePool s x k).length) →
        exec (.cacheMigrate p) s = accepts p (updCache (pktPart c) k.handle (fun k => { k with
            migrations := k.migrations ++ [(pktOrigin p, par c 4 4, par c 8 2, par c 10 2, 0)] })
          (ms.foldl (fun s m => startMove (pktPart c) k.handle (par c 4 4) m.1 m.2 root s) (fetchedState p s)))) ∧
      ((if root then (freeRoot x k k.used).length else (freePool s x k).length) < ms.length →
        exec (.cacheMigrate p) s = .next (settle (finish (pktOrigin p) stNoResource 0 [] (fetchedState p s))))) ∧
    (k.isOpen (par c 4 4) = false →
      exec (.cacheMigrate p) s = .next (settle (finish (pktOrigin p) stNotPermitted 0 [] (fetchedState p s))))) ∧
  (∀ (s : State) (n : BitVec 4) (h : U32) (x : Partition) (k : Cache), started s = true → findPart s n = some x → x.cache h = some k →
    (x.context k.ctx.toNat).step.isSome → exec (.pageSwitch n h) s = happens s) ∧
  (∀ (s : State) (n : BitVec 4) (h : U32) (x : Partition) (k : Cache) (seq layer i : Nat) (e : PageEntry) (w : Bool × Nat),
    started s = true → Sound s → findPart s n = some x → x.cache h = some k → (x.context k.ctx.toNat).step = none →
    movingPages k = [(seq, layer, i)] → i < (k.layerRec seq layer).pages.length →
    e = nth (k.layerRec seq layer).pages i PageEntry.none → e.moving = some w → e.restart = false →
    (∀ a b, a < k.page / 64 → b < k.page / 64 →
      lineOf (e.addr x k (64 * a)) ≠ lineOf (pageAddr x k w.1 w.2 (64 * b)) ∧
      (lineOf (pageAddr x k w.1 w.2 (64 * a)) = lineOf (pageAddr x k w.1 w.2 (64 * b)) → a = b)) →
    ∃ t : State, exec (.pageSwitch n h) s = happens t ∧
      (∀ y m, findPart t n = some y → y.cache h = some m →
        nth (m.layerRec seq layer).pages i PageEntry.none = ⟨w.1, w.2, none, false⟩ ∧
          m.migrations = k.migrations.map (countMove seq layer)) ∧
      ∀ a j, a < k.page / 64 → j < 64 → lineState s (lineOf (e.addr x k (64 * a))) = some .valid →
        deadLine s (lineOf (pageAddr x k w.1 w.2 (64 * a))) = false →
        memGet t.mem (pageAddr x k w.1 w.2 (64 * a) + j) = memGet s.mem (e.addr x k (64 * a) + j)) ∧
  ∀ (s : State) (qp : BitVec 6) (tag : U32) (x : Partition) (k : Cache) (seq lf lc pages : Nat), started s = true →
    (s.partitions.flatMap fun x => x.caches.flatMap fun c => c.migrations.map fun m => (x, c, m)).find?
      (fun y => y.2.2.1 = ⟨qp, tag, false⟩) = some (x, k, ⟨qp, tag, false⟩, seq, lf, lc, pages) →
    ((∀ y ∈ movingPages k, ¬(y.1 = seq ∧ lf ≤ y.2.1 ∧ y.2.1 < lf + lc)) → exec (.migrationDone qp tag) s = happens
      (finish ⟨qp, tag, false⟩ stOk 0 (toLE 4 pages) (updCache x.num k.handle
        (fun c => { c with migrations := c.migrations.erase (⟨qp, tag, false⟩, seq, lf, lc, pages) }) s))) ∧
    ((∃ y ∈ movingPages k, y.1 = seq ∧ lf ≤ y.2.1 ∧ y.2.1 < lf + lc) → exec (.migrationDone qp tag) s = happens s)

/-- Over G members with chunks of C positions, the member of rank r holds exactly the positions whose chunk number leaves r
by G: the position of every ordinal is held and has that ordinal, every held position is the position of its ordinal, and
the number of held positions below a length is the count the page table uses. (R230, R233.) -/
def Obligations.PositionsAreDividedExactly : Prop :=
  ∀ (g r chunk : Nat), 1 ≤ g → r < g → 1 ≤ chunk →
    let x : Spread := ⟨g, r, chunk⟩
    (∀ q, x.holds (x.position q) = true ∧ x.ordinal (x.position q) = q) ∧
    (∀ p, x.holds p = true → x.position (x.ordinal p) = p) ∧
    (∀ p, ∃ r', r' < g ∧ (⟨g, r', chunk⟩ : Spread).holds p = true ∧ ∀ k, k < g → (⟨g, k, chunk⟩ : Spread).holds p = true → k = r') ∧
    ∀ len, x.held len = ((List.range len).filter x.holds).length

/-- A channel enters processor mode for a self-test, which takes its tasks from it, and for tasks that wait where one
computable region holds its 16 segments, its unit is in service and its pages are not stranded; otherwise nothing happens.
At a boundary in processor mode every refresh owed is issued and counted once, what is served goes in R209's order, other
accesses beyond those served are held for the next, and a channel without work returns to memory mode; a parity error in a
buffer runs the task again. A task of a partition that does not own the unit is refused and recorded; one for a FAILED unit
or in CANOPY mode has no effect; one that arrives at a unit that cannot start it waits, divided where it has too many rows;
at a unit that is ready pass 1 leaves each row's maximum over its eligible positions, and the scores that fit, with the unit
and sends the maxima; the final maxima bring pass 2: its integers are sent, the unit is free and counts a task. In both a
granule whose check fails, on the bytes as the unit reads them, discards the task and starts a repair read. No byte of
memory changes. A seal table reloaded lets a waiting task start. (What the accesses waited in cycles is a free value; the
counters of a confidential partition's unit stay.) (R203, R204, R205, R208, R209, R210, R211, R216, R220, R221, R226, R377.)
-/
def Obligations.NearBankUnitsWorkInSlices : Prop :=
  (∀ (s : State) (u : BitVec 18), started s = true →
    ((findUnit s u.toNat).state ≠ .failed ∨ (findUnit s u.toNat).retest = true →
      ∃ t : State, exec (.processorModeEntry u true) s = happens t ∧
        findUnit t u.toNat = { findUnit s u.toNat with
          processor := true, work := none, waitingTasks := []
          state := if (findUnit s u.toNat).state = .failed then .failed else .testing } ∧
        t = { s with units := t.units }) ∧
    ((findUnit s u.toNat).state = .failed → (findUnit s u.toNat).retest = false →
      exec (.processorModeEntry u true) s = happens s)) ∧
  (∀ (s : State) (u : BitVec 18), started s = true →
    (computable s u.toNat = true → (findUnit s u.toNat).state = .inService → (findUnit s u.toNat).stranded = false →
      (findUnit s u.toNat).waitingTasks ≠ [] → exec (.processorModeEntry u false) s =
        happens (startTask .none u.toNat (updUnit u.toNat (fun v => { v with processor := true }) s))) ∧
    (computable s u.toNat = false ∨ (findUnit s u.toNat).state ≠ .inService ∨ (findUnit s u.toNat).stranded = true ∨
      (findUnit s u.toNat).waitingTasks = [] → exec (.processorModeEntry u false) s = happens s)) ∧
  (∀ (s : State) (u : BitVec 18) (w : BoundaryWork), started s = true → w.wf = true →
    let v := findUnit s u.toNat
    let stay := !v.stranded && (w.unitWork || v.work.isSome || !v.waitingTasks.isEmpty)
    let served := if stay then min w.served (v.held + w.other) else v.held + w.other
    (v.processor = false → exec (.sliceBoundary u w) s = happens s) ∧
    (v.processor = true → ∃ t : State,
      exec (.sliceBoundary u w) s = happens (if w.bufferFault then bufferError u.toNat t else t) ∧
      t = { s with units := t.units, draw := s.draw + 1
                   out := s.out ++ [.boundary u.toNat (boundaryOrder v.owed w.cxl served)] } ∧
      (findUnit t u.toNat).owed = List.replicate 16 0 ∧ (findUnit t u.toNat).held = v.held + w.other - served ∧
      (findUnit t u.toNat).processor = stay ∧ (findUnit t u.toNat).reloading = (v.reloading || w.sealFault) ∧
      (findUnit t u.toNat).work = v.work ∧ (findUnit t u.toNat).seals = v.seals ∧
      ((∀ p, unitOwner s u.toNat = some p → p.confidential = false) →
        (findUnit t u.toNat).refreshes = v.refreshes + BitVec.ofNat 64 (maxNat v.owed) ∧
        (findUnit t u.toNat).slices = v.slices + (if w.cycles = 0 then 0 else 1) ∧
        (w.cxl + v.held + w.other = 0 → (findUnit t u.toNat).waitCycles = v.waitCycles)))) ∧
  (∀ (owed : List Nat) (cxl other : Nat), boundaryOrder owed cxl other =
    (if ∃ x ∈ owed, 4 ≤ x then [BankService.refresh] else []) ++ List.replicate cxl .cxl ++
      List.replicate (maxNat owed - (if ∃ x ∈ owed, 4 ≤ x then 1 else 0)) .refresh ++ List.replicate other .other) ∧
  (∀ (s : State) (u : BitVec 18) (k : Task) (e : ReadErrors), started s = true →
    (unitOwner s u.toNat).map (·.num) ≠ some k.part →
    exec (.nearBankTask u ⟨k, e⟩) s = happens (firebreak 2 k.part (unitOwner s u.toNat) s)) ∧
  (∀ (s : State) (u : BitVec 18) (k : Task) (e : ReadErrors) (p : Partition), started s = true → unitOwner s u.toNat = some p →
    p.num = k.part →
    let v := findUnit s u.toNat
    let ks := splitTask (match p.cache k.cache with | some c => c.d | none => 0) k
    (v.state = .failed ∨ modeInForce p = 1 → exec (.nearBankTask u ⟨k, e⟩) s = happens s) ∧
    (v.state ≠ .failed → modeInForce p ≠ 1 → unitReady v = false → ∃ t : State,
      exec (.nearBankTask u ⟨k, e⟩) s = happens t ∧ t = { s with units := t.units } ∧
      findUnit t u.toNat = { v with waitingTasks := v.waitingTasks ++ ks }) ∧
    (modeInForce p ≠ 1 → unitReady v = true → v.waitingTasks = [] → ks = [k] → ∀ x : TaskEnv, taskEnv s k = some x →
      let seen := unitSees e s
      let js := eligible s u.toNat k x
      (mismatch seen u.toNat x js = none →
        ∃ t : State, exec (.nearBankTask u ⟨k, e⟩) s = happens t ∧
          t = { s with units := t.units, draw := seen.draw
                       out := s.out ++ [.unitMaxima u.toNat (k.rows.map fun r => fmaxList (js.map (taskScore seen k x r)))] } ∧
          findUnit t u.toNat = { v with work := some (scoreTask seen k x js), tagCache := (findUnit t u.toNat).tagCache }) ∧
      (∀ g, mismatch seen u.toNat x js = some g →
        ∃ t : State, exec (.nearBankTask u ⟨k, e⟩) s = happens t ∧ t = { s with units := t.units, draw := seen.draw } ∧
          findUnit t u.toNat = { v with
            repairing := [(g, some k)], mismatches := if p.confidential then v.mismatches else v.mismatches + 1 }))) ∧
  (∀ (d : Nat) (k : Task), (k.rows ≠ [] → k.rows.length ≤ 2112 / (d + 1) → splitTask d k = [k]) ∧
    ∀ j ∈ splitTask d k, j.rows.length * (d + 1) ≤ 2112 ∧ ∃ rs, j = { k with rows := rs }) ∧
  (∀ (s : State) (u : BitVec 18) (ms : List F32) (e : ReadErrors) (w : UnitTask) (x : TaskEnv), started s = true →
    (findUnit s u.toNat).work = some w → (findUnit s u.toNat).state = .inService → (findUnit s u.toNat).processor = true →
    taskEnv s w.task = some x →
    let seen := unitSees e s
    let js := eligible s u.toNat w.task x
    let ps := w.task.rows.zipIdx.map fun r =>
      rowPartials seen w.task x js r.1 (passTwoScore seen w.task x js w.scores (r.2, r.1)) (nth ms r.2 f32NegInf)
    (mismatch seen u.toNat x js = none →
      ∃ t : State, exec (.finalMaximaArrival u ⟨ms, e⟩) s = happens (startTask .none u.toNat t) ∧
        t = { s with units := t.units, draw := seen.draw
                     out := s.out ++ [.unitPartials u.toNat (ps.map (·.1)) (ps.map (·.2))] } ∧
        (findUnit t u.toNat).work = none ∧ (findUnit t u.toNat).accs = ps.flatMap (fun r => r.1 :: r.2) ∧
        ((∀ p, unitOwner s u.toNat = some p → p.confidential = false) →
          (findUnit t u.toNat).tasks = (findUnit s u.toNat).tasks + 1)) ∧
    (∀ g, mismatch seen u.toNat x js = some g →
      exec (.finalMaximaArrival u ⟨ms, e⟩) s = happens (discardTask u.toNat g (some w.task) { s with draw := seen.draw }))) ∧
  (∀ (s : State) (u : BitVec 18) (ms : List F32) (e : ReadErrors), started s = true → (findUnit s u.toNat).work = none ∨
    (findUnit s u.toNat).state ≠ .inService ∨ (findUnit s u.toNat).processor = false →
    exec (.finalMaximaArrival u ⟨ms, e⟩) s = happens s) ∧
  (∀ (s : State) (u g : Nat) (k : Task), (findUnit (discardTask u g (some k) s) u).work = none ∧
    (∃ o, (g, o) ∈ (findUnit (discardTask u g (some k) s) u).repairing) ∧ (discardTask u g (some k) s).mem = s.mem) ∧
  ∀ (s : State) (u : BitVec 18), started s = true →
    exec (.sealTableReloadDone u) s = happens (startTask .none u.toNat (updUnit u.toNat (fun v => { v with reloading := false }) s))

/-- A unit that passes its self-test is in service, one that was FAILED with its count of faults from zero and a record; one
that fails and had not failed becomes FAILED: memory mode, without tasks; a FAILED unit that was not to be tested again
stays as it is. A completed run of tests puts every unit that passed in service, fails the others, and answers every waiting
command with their number. The first repair read of a unit: one that finds the granule good counts a unit fault, and its
task runs again; one that corrected counts in the layer's bucket, and its task runs again; one that found it bad records so,
and the page it lies in is damaged. Migration of a unit's pages ends where none lies in its channel any more. A
recomputation that has begun reads the token ids, regenerates the sequence from the damaged position and ends with one
record, and the step that was abandoned for it starts again; a lost token ends it, the damaged pages lost; where a run of
the plan cannot end, nothing but the reads has happened. (R216, R217, R220, R222, R223, R245, R246, R411.) -/
def Obligations.UnitsAreTestedAndRepaired : Prop :=
  (∀ (s : State) (u : BitVec 18), started s = true →
    let v := findUnit s u.toNat
    let s1 : State := { updUnit u.toNat (fun v => { v with testLines := some s.draw, retest := false }) s with draw := s.draw + 1 }
    (v.state = .failed → v.retest = false → ∀ b, exec (.unitSelfTest u b) s = happens s) ∧
    (v.state ≠ .failed ∨ v.retest = true →
      ∃ t : State, exec (.unitSelfTest u true) s = happens (if v.state = .failed then settleReserve (recordUnit u.toNat t) else t) ∧
        t = { s with units := t.units, draw := s.draw + 1 } ∧ findUnit t u.toNat = { v with
          state := .inService, tested := true, retest := false, testLines := some s.draw
          lastFault := if v.state = .failed then none else v.lastFault
          migrating := if v.state = .failed then false else v.migrating
          stranded := if v.state = .failed then false else v.stranded }) ∧
    (v.state = .failed → v.retest = true → exec (.unitSelfTest u false) s = happens s1) ∧
    (v.state ≠ .failed → exec (.unitSelfTest u false) s = happens (failUnit u.toNat s1))) ∧
  (∀ (s : State) (u : Nat), (findUnit (failUnit u s) u).state = .failed ∧ (findUnit (failUnit u s) u).processor = false ∧
    (findUnit (failUnit u s) u).work = none ∧ (findUnit (failUnit u s) u).waitingTasks = [] ∧ (failUnit u s).mem = s.mem ∧
    ∀ v, v ≠ u → findUnit (failUnit u s) v = findUnit s v) ∧
  (∀ (s : State) (bad : List (BitVec 18)), started s = true → s.testRun ≠ [] → ∃ t : State,
    exec (.clearingTestRunDone bad) s = happens (s.testRun.foldl (fun s o => finish o stOk 0 (toLE 4 bad.length) s) t) ∧
    t.testRun = [] ∧ t.mem = s.mem ∧ (∀ u ∈ bad, (findUnit t u.toNat).state = .failed) ∧
    ∀ u : BitVec 18, u ∉ bad → (findUnit t u.toNat).state = if (findUnit s u.toNat).state = .failed then .failed else .inService) ∧
  (∀ (s : State) (bad : List (BitVec 18)), started s = true → s.testRun = [] → exec (.clearingTestRunDone bad) s = happens s) ∧
  (∀ (s : State) (u : BitVec 18) (r : RepairRead) (g : Nat) (k : Option Task) (rest : List (Nat × Option Task)), started s = true →
    (findUnit s u.toNat).repairing = (g, k) :: rest →
    let a := mkAddr (unitLayer u.toNat) (unitColumn u.toNat + g / 64) (1024 * (g % 64))
    let good := r.uncorrectable = false ∧ (∀ i, i < 16 → lineState s (lineOf (a + 64 * i)) = some .valid) ∧
      ∀ x, (findUnit s u.toNat).seals.find? (fun x => x.1 = g) = some x → x.2 = crc32c ((List.range 1024).map fun n => memGet s.mem (a + n))
    let next (t : State) := updUnit u.toNat (fun v => { v with repairing := rest }) t
    let again (t : State) := startTask .none u.toNat (updUnit u.toNat (fun v => { v with
      waitingTasks := k.toList ++ v.waitingTasks }) (next t))
    let found : State := if r.uncorrectable then updLayer (unitLayer u.toNat - 14) (fun r => { r with uncorr := r.uncorr + 1 }) s else s
    (good → r.corrected = 0 → exec (.repairReadDone u r) s = happens (again (unitFault u.toNat (recordSeal u.toNat g 1 s)))) ∧
    (good → 0 < r.corrected → exec (.repairReadDone u r) s = happens (again (Nat.repeat (fun s => addToBucket (unitLayer u.toNat - 14)
      (updLayer (unitLayer u.toNat - 14) (fun r => { r with corr := r.corr + 1 }) s)) r.corrected (recordSeal u.toNat g 0 s)))) ∧
    (¬good → (∀ t, t = recordSeal u.toNat g 2 (next found) →
      (pageOfGranule t u.toNat g = none → exec (.repairReadDone u r) s = happens t) ∧
      ∀ p, pageOfGranule t u.toNat g = some p → exec (.repairReadDone u r) s = happens (damagedPage p t)))) ∧
  (∀ (s : State) (u : BitVec 18) (r : RepairRead), started s = true → (findUnit s u.toNat).repairing = [] →
    exec (.repairReadDone u r) s = happens s) ∧
  (∀ (s : State) (u : BitVec 18) (p : Partition), started s = true → pagesOn s u.toNat = [] → unitOwner s u.toNat = some p →
    exec (.unitMigrationDone u) s = happens (endJob (some p.num) (.migrate u.toNat)
      (settleReserve (updUnit u.toNat (fun v => { v with migrating := false }) s)))) ∧
  (∀ (s : State) (n : BitVec 4) (e : ReadErrors) (x : Partition) (h : U32) (seq a : Nat) (bad : List (Nat × Nat)) (cause : Option Nat)
    (c : Cache) (rec : SeqRec), started s = true → findPart s n = some x → x.acting = some ⟨.recompute h seq a bad, cause, true⟩ →
    x.cache h = some c → c.seqs.find? (fun r => r.seq = seq) = some rec →
    let old := c.layers.filter fun r => r.seq = seq
    let len := maxNat (old.map (·.length))
    let s1 : State := (readLines 3 [] e ((((tokenAddrs x rec a (len - a)).map lineOf).eraseDups).filter
      fun l => lineState s l = some .valid) s).2
    let ran := regenAll n h seq c.rchunk (old.map fun r => (seq, r.kmax, r.vmax)) (len - a) a len
      (truncateSeq n c seq a (updCtx n c.ctx.toNat (fun k => { k with step := none })
        (updPart n (fun p => { p with acting := none, current := c.ctx }) s1)))
    let recomputed (t : State) := happens (endJob (some n) (.recompute h seq a bad) (record 0x05 0x22 1 (some n)
      (toLE 4 h.toNat ++ toLE 4 seq ++ toLE 8 a ++ toLE 8 (len - a)) t))
    let back (t : State) := freshPart n (updPart n (fun p => { p with current := x.current, acting := x.acting })
      (updCtx n c.ctx.toNat (fun k => { k with step := (x.context c.ctx.toNat).step }) t))
    (linesIn s1 (some .lost) (tokenAddrs x rec a (len - a)) ≠ [] → exec (.pageRecompute ⟨n, e⟩) s = happens (replayPart n
      (closeJob (some n) (.recompute h seq a bad) 2 (bad.foldl (fun s y => losePage n h seq y.1 y.2 s) s1)))) ∧
    (linesIn s1 (some .lost) (tokenAddrs x rec a (len - a)) = [] →
      (ran = none → exec (.pageRecompute ⟨n, e⟩) s = happens s1) ∧
      ∀ t, ran = some t →
        ((x.context c.ctx.toNat).step = none → exec (.pageRecompute ⟨n, e⟩) s = recomputed (back t)) ∧
        ∀ r p, (x.context c.ctx.toNat).step = some r → findPart (back t) n = some p →
          exec (.pageRecompute ⟨n, e⟩) s = recomputed (updCtx n c.ctx.toNat (fun k => { k with
            step := some { RunningStep.start p c.ctx.toNat r.batch with replays := r.replays } }) (back t)))) ∧
  ∀ (s : State) (n : BitVec 4) (e : ReadErrors) (x : Partition), started s = true → findPart s n = some x → x.acting = none →
    exec (.pageRecompute ⟨n, e⟩) s = happens s

/-- CLEARING_DIVISION with MODE 0 to 2 (1 and 2 with EXPERT) and BSPLIT 1 to 4,096 sets both for the issuing partition; MODE
1 or 2 without EXPERT gives EXPERT_NOT_ENABLED, another MODE or BSPLIT BAD_LENGTH. CLEARING_STATUS reports failed units by
layer, units testing, division state, MODE and BSPLIT. CLEARING_TEST_SET with PERIOD 10 to 3,600 sets it; RUN 1 is ACCEPTED
and answered when the run is done; another PERIOD or RUN gives BAD_LENGTH. The counter reads copy the records of FIRST and
on to DEST and report how many; a record that is withheld from the reader holds its number, owner 0xFF and the withheld flag
only. HEALTH_RING_SET attaches a ring with zeros in its header, or detaches it. (That ENABLE 0 leaves BASE and RECORDS
unchecked, and that attaching writes the header's 64 bytes as zeros, are the model's choices.) (R70, R105, R106, R221, R222,
R223, R224, R225, R266.) -/
def Obligations.ClearingCommandsAndCounters : Prop :=
  (∀ (s : State) (q : QueuePair) (p c : Packet), Fetches 0x0601 s q p c →
    (par c 0 1 ≤ 2 → (par c 0 1 ≠ 0 → pktExpert c = true) → 1 ≤ par c 2 2 → par c 2 2 ≤ 4096 → exec (.clearingDivision p) s =
      completes p [] (updPart (pktPart c) (fun x => { x with divMode := par c 0 1, bsplit := par c 2 2 }) (fetchedState p s))) ∧
    (1 ≤ par c 0 1 → par c 0 1 ≤ 2 → pktExpert c = false →
      exec (.clearingDivision p) s = .next (settle (finish (pktOrigin p) stExpert 0 [] (fetchedState p s)))) ∧
    (2 < par c 0 1 ∨ (par c 0 1 ≠ 0 → pktExpert c = true) ∧ (par c 2 2 = 0 ∨ 4096 < par c 2 2) →
      exec (.clearingDivision p) s = .next (settle (finish (pktOrigin p) stBadLength 0 [] (fetchedState p s))))) ∧
  (∀ (s : State) (q : QueuePair) (p c : Packet) (n : BitVec 4) (x : Partition), Fetches 0x0602 s q p c →
    namedPart q c (par c 0 4) = .ok n → findPart s n = some x →
    exec (.clearingStatus p) s = completes p (((List.range 4).flatMap fun l =>
        toLE 2 ((s.units.filter fun u => u.state = .failed && u.unit / 65536 = l).length)) ++
      toLE 4 (s.units.filter fun u => u.state = .testing).length ++ toLE 1 (divisionState s x) ++ toLE 1 x.divMode ++ toLE 2 x.bsplit)
      (fetchedState p s)) ∧
  (∀ (s : State) (q : QueuePair) (p c : Packet), Fetches 0x0603 s q p c →
    (10 ≤ par c 0 2 → par c 0 2 ≤ 3600 → par c 2 1 = 0 →
      exec (.clearingTestSet p) s = completes p [] { fetchedState p s with testPeriod := par c 0 2 }) ∧
    (10 ≤ par c 0 2 → par c 0 2 ≤ 3600 → par c 2 1 = 1 →
      exec (.clearingTestSet p) s = accepts p { fetchedState p s with
        testPeriod := par c 0 2, testRun := s.testRun ++ [pktOrigin p] }) ∧
    (par c 0 2 < 10 ∨ 3600 < par c 0 2 ∨ 1 < par c 2 1 →
      exec (.clearingTestSet p) s = .next (settle (finish (pktOrigin p) stBadLength 0 [] (fetchedState p s))))) ∧
  (∀ (s : State) (q : QueuePair) (p c : Packet) (b : Option (List Nat)), par c 8 8 % 64 = 0 → 64 * par c 4 4 ≤ par c 16 4 →
    paramBuffer (fetchedState p s) q c (par c 8 8) (par c 16 4) = .ok b → 1 ≤ par c 4 4 →
    let copied (limit : Nat) (rec : Nat → List Byte) := completes p (toLE 4 (min (par c 0 4 + par c 4 4) limit - par c 0 4))
      (putBuffer q c b (par c 8 8) ((List.range (min (par c 0 4 + par c 4 4) limit - par c 0 4)).flatMap fun i => rec (par c 0 4 + i))
        (fetchedState p s))
    (Fetches 0x0D10 s q p c → par c 4 4 ≤ 4096 → par c 0 4 < 4096 →
      exec (.latticeCountersRead p) s = copied 4096 (latticeRecord (fetchedState p s) q c)) ∧
    (Fetches 0x0D11 s q p c → par c 4 4 ≤ 262144 → par c 0 4 < 262144 →
      exec (.clearingCountersRead p) s = copied 262144 (unitRecord (fetchedState p s) q c)) ∧
    (Fetches 0x0D12 s q p c → par c 4 4 ≤ 4096 → par c 0 4 < 4096 →
      exec (.netCountersRead p) s = copied 4096 (netRecord (fetchedState p s) q c))) ∧
  (∀ (s : State) (q : QueuePair) (p : Packet) (g : Nat), q.operator = false →
    (∀ x, ownerOf s (tractOfCore (256 * g)) = some x → x.num ≠ pktPart p) →
    latticeRecord s q p g = padTo 64 (toLE 2 g ++ [0xFF, 1]) ∧ netRecord s q p g = padTo 64 (toLE 2 g ++ [0xFF, 1])) ∧
  (∀ (s : State) (q : QueuePair) (p : Packet) (u : Nat), q.operator = false →
    (∀ x, unitOwner s u = some x → x.num ≠ pktPart p) → unitRecord s q p u = padTo 64 (toLE 4 u ++ [0xFF, 1])) ∧
  (∀ (s : State) (q : QueuePair) (p : Packet) (g : Nat) (k : LatticeCtr), q.operator = true → ownerOf s (tractOfCore (256 * g)) = none →
    s.lattice.find? (fun c => c.grove = g) = some k → latticeRecord s q p g = toLE 2 g ++ [0xFF, 0, 0, 0, 0, 0] ++
      toLE 8 k.passes.toNat ++ toLE 8 k.bubbles.toNat ++ toLE 8 k.retries.toNat ++ toLE 8 k.vector.toNat ++
      toLE 8 k.replayed.toNat ++ toLE 8 k.stretched.toNat ++ toLE 8 k.cycles.toNat) ∧
  (∀ (s : State) (q : QueuePair) (p c : Packet) (x : Partition) (r : Region) (o : Nat), Fetches 0x0C01 s q p c →
    findPart s (pktPart c) = some x → par c 12 1 ≤ 7 → par c 13 1 = 1 → par c 0 8 < 2 ^ 42 → validAddr (par c 0 8) = true →
    x.regions.findSome? (fun r => (r.offset (par c 0 8)).map fun o => (r, o)) = some (r, o) → par c 0 8 % 64 = 0 → r.kind ≠ 2 →
    (∃ k, 4 ≤ k ∧ k ≤ 20 ∧ par c 8 4 = 2 ^ k) → o + 64 + 64 * par c 8 4 ≤ r.size →
    exec (.healthRingSet p) s = completes p [] (updCtx (pktPart c) (par c 12 1)
      (fun k => { k with ring := some ⟨par c 0 8, par c 8 4, 0, 0⟩ })
      (writeAt ((List.range 64).map fun i => r.addr (o + i)) (zeros 64) (fetchedState p s)))) ∧
  ∀ (s : State) (q : QueuePair) (p c : Packet), Fetches 0x0C01 s q p c → par c 12 1 ≤ 7 → par c 13 1 = 0 →
    exec (.healthRingSet p) s = completes p [] (updCtx (pktPart c) (par c 12 1) (fun k => { k with ring := none }) (fetchedState p s))

/-- HEALTH_RING_STATUS has opcode 0x0C02 and takes a 4-byte parameter, CONTEXT, 0 to 7: the result reports PRODUCED in bytes
0 to 7 and DROPPED in bytes 8 to 15 of the ring attached to that context of the issuing partition, and zero in both where no
ring is attached; nothing else changes. A parameter of another length or value is not accepted. (R72.) -/
def Obligations.HealthRingStatusReportsTheRing : Prop :=
  (∀ (s : State) (q : QueuePair) (p c : Packet) (x : Partition) (r : HealthRing), Fetches 0x0C02 s q p c →
    findPart s (pktPart c) = some x → par c 0 4 ≤ 7 → (x.context (par c 0 4)).ring = some r →
    exec (.healthRingStatus p) s = completes p (toLE 8 r.produced ++ toLE 8 r.dropped) (fetchedState p s)) ∧
  (∀ (s : State) (q : QueuePair) (p c : Packet) (x : Partition), Fetches 0x0C02 s q p c →
    findPart s (pktPart c) = some x → par c 0 4 ≤ 7 → (x.context (par c 0 4)).ring = none →
    exec (.healthRingStatus p) s = completes p (zeros 16) (fetchedState p s)) ∧
  (∀ (s : State) (q : QueuePair) (p c : Packet), Fetches 0x0C02 s q p c → 7 < par c 0 4 →
    exec (.healthRingStatus p) s = .next (settle (finish (pktOrigin p) stBadLength 0 [] (fetchedState p s)))) ∧
  ∃ row : CmdRow, findCommand 0x0C02 = some row ∧ ∀ n, row.accepts n = true ↔ n = 4

/-- A refresh is issued to its layer, or, of a clearing segment whose unit is in processor mode, owed, at most 4. Retraining
replaces the phase offsets of one column; a tag write-back cleans one tag line; a command that times out is sent again and
counted; a tract leaves the hot interval where no reading or estimate of its DRAM is above 83 °C. A scrub pass starts only
with EN set. A scrub read takes the next line of its channel in a running pass, and no other: a valid data line is read as
any reader would, one without content only counted as scrubbed, a parity line and a tag line by their own rules. A line that
is not lost and not on a layer being absorbed is read so: errors confined to one lane, or in at most two symbols, are
corrected and counted; others, where the line can be formed from its stripe, leave it as its stripe gives it, and every
other byte as it was; otherwise the line is lost and no byte changes. Only errors in five or more bytes can be mistaken for
a pattern that is corrected; the reader then takes the line for good, and only the 16-byte blocks that hold a wrong byte
read otherwise. A correction that fills the bucket empties it and counts an overflow; below the third nothing is mapped out.
The leak lowers every level, never below zero. (Error patterns are decoded by R186; bytes of a block read wrong are free
values, R390, log 32; phase offsets are free values.) (R26, R29, R183, R184, R186, R191, R192, R194, R195, R196, R197,
R213.) -/
def Obligations.ChannelsRefreshAndScrub : Prop :=
  (∀ (s : State) (core : BitVec 20) (layer : BitVec 5), started s = true → 2 ≤ layer.toNat → layer.toNat ≤ 22 →
    let u := 65536 * (layer.toNat - 2) + core.toNat / 16
    (6 ≤ layer.toNat ∨ (findUnit s u).processor = false → exec (.refreshDue core layer) s =
      happens { s with out := s.out ++ [.channel core.toNat (channelWord 3 layer.toNat 0)] }) ∧
    (layer.toNat < 6 → (findUnit s u).processor = true → ∃ t : State, exec (.refreshDue core layer) s = happens t ∧
      t = { s with units := t.units } ∧ ∀ k, k < (findUnit s u).owed.length → nth (findUnit t u).owed k 0 =
        if k = core.toNat % 16 then min 4 (nth (findUnit s u).owed k 0 + 1) else nth (findUnit s u).owed k 0)) ∧
  (∀ (s : State) (core : BitVec 20), started s = true → exec (.phaseRetrain core) s = happens { s with
    draw := s.draw + 1
    phases := (s.phases.filter fun x => x.1 ≠ core.toNat) ++
      (List.range 21).map fun i => (core.toNat, i + 2, Config.phaseOffset core.toNat (i + 2) s.draw) }) ∧
  (∀ (s : State) (core : BitVec 20) (layer : BitVec 5) (line : BitVec 4), started s = true →
    exec (.tagWriteback core layer line) s =
      happens { s with dirtyTags := s.dirtyTags.erase (core.toNat, layer.toNat, line.toNat) }) ∧
  (∀ (s : State) (core : BitVec 20) (cmd : U32), started s = true → ∃ e : List (Nat × Nat),
    exec (.channelCommandTimeout core cmd) s = happens { s with laneErrors := e, out := s.out ++ [.channel core.toNat cmd] } ∧
    ((∀ n, (core.toNat, n) ∉ s.laneErrors) → e = s.laneErrors ++ [(core.toNat, 1)])) ∧
  (∀ (s : State) (k : BitVec 6), started s = true →
    let warm := ∃ x ∈ s.thermal.sensors, isDram x.die = true ∧ x.idx = k.toNat ∧ (1328 < x.reading ∨ 1328 < areaTemp s x.die x.idx)
    (warm → exec (.tractCooled k) s = happens s) ∧
    (¬warm → exec (.tractCooled k) s = happens (updTract k.toNat (fun r => { r with hot := false }) s))) ∧
  (∀ (s : State) (l : BitVec 5), started s = true → 2 ≤ l.toNat → l.toNat ≤ 22 →
    ((findLayer s l.toNat).scrubCtl.getLsbD 0 = true → l.toNat ∉ s.scrubbing → exec (.scrubPassStart l) s =
      happens (updLayer l.toNat (fun r => { r with progress := [] }) { s with scrubbing := s.scrubbing ++ [l.toNat] })) ∧
    ((findLayer s l.toNat).scrubCtl.getLsbD 0 = false ∨ l.toNat ∈ s.scrubbing → exec (.scrubPassStart l) s = happens s)) ∧
  (∀ (s : State) (r : ScrubRead), started s = true → r.wf = true →
    let reg := findLayer s r.layer.toNat
    let u : State := countBursts r.core.toNat 1 (scrubStep r.layer.toNat r.core.toNat r.line.toNat s)
    (r.layer.toNat ∉ s.scrubbing ∨ reg.scrubCtl.getLsbD 0 = false ∨ scrubNext reg r.core.toNat ≠ r.line.toNat ∨
      passLines r.layer.toNat ≤ r.line.toNat → exec (.scrubRead r) s = happens s) ∧
    (r.layer.toNat ∈ s.scrubbing → reg.scrubCtl.getLsbD 0 = true → scrubNext reg r.core.toNat = r.line.toNat →
      r.line.toNat < passLines r.layer.toNat →
      (∀ l, storedAt s r.layer.toNat r.core.toNat r.line.toNat = .data l → 6 ≤ r.layer.toNat ∨ r.sealDiffers = false →
        (lineState s l = some .valid →
          let e : ReadErrors := ⟨r.symbols.map fun x => (l, x.1, x.2),
            if r.reconstructs then [] else [r.line.toNat + r.core.toNat * 2 ^ 11 + 20 * 2 ^ 31], r.again.map fun x => (l, x.1, x.2)⟩
          exec (.scrubRead r) s = happens (asRead e l (readLine 5 [] e l u).2)) ∧
        (lineState s l ≠ some .valid → exec (.scrubRead r) s = happens u)) ∧
      (storedAt s r.layer.toNat r.core.toNat r.line.toNat = .parity → exec (.scrubRead r) s = happens (scrubParity r.layer.toNat
        r.core.toNat r.line.toNat (errorsAt r.symbols r.again) r.parityDiffers r.reconstructs u)) ∧
      (∀ y, storedAt s r.layer.toNat r.core.toNat r.line.toNat = .tags y → exec (.scrubRead r) s = happens (scrubTags r.layer.toNat
        r.core.toNat r.line.toNat y (errorsAt r.symbols r.again) r.reconstructs u)) ∧
      (storedAt s r.layer.toNat r.core.toNat r.line.toNat = .nothing → exec (.scrubRead r) s = happens u))) ∧
  (∀ (s : State) (who l : Nat) (again : List Nat) (e : ReadErrors), Sound s → lineState s l ≠ some .lost → onAbsorbed s l = false →
    let errs := errorsOf e l
    let u : State := countBursts (lineCore l) 1 s
    ((∀ x ∈ errs, x.2 = 0) → readLine who again e l s = (true, u) ∧ asRead e l u = u) ∧
    ((∃ x ∈ errs, x.2 ≠ 0) → (∀ x ∈ errs, x.2 ≠ 0 → x.1 < 72) →
      ((∃ k, ∀ x ∈ errs, x.2 ≠ 0 → laneOf x.1 = k) ∨ (∃ a b, ∀ x ∈ errs, x.2 ≠ 0 → x.1 = a ∨ x.1 = b)) →
      readLine who again e l s = (true, countCorrected (physOfLine s l) (lineCore l) errs u) ∧ asRead e l u = u) ∧
    (¬(∀ x ∈ errs, x.2 = 0) → ¬((∀ x ∈ errs, x.2 ≠ 0 → x.1 < 72) ∧
        ((∃ k, ∀ x ∈ errs, x.2 ≠ 0 → laneOf x.1 = k) ∨ (∃ a b, ∀ x ∈ errs, x.2 ≠ 0 → x.1 = a ∨ x.1 = b))) →
      (misread errs = none → canForm s e.badStripe l = true →
        (readLine who again e l s).1 = true ∧ (readLine who again e l s).2.tags = s.tags ∧
        ∀ a, memGet (readLine who again e l s).2.mem a = if lineOf a = l then nth (fromParity s l) (a % 64) 0 else memGet s.mem a) ∧
      (misread errs = none → canForm s e.badStripe l = false →
        (readLine who again e l s).1 = false ∧ (readLine who again e l s).2.mem = s.mem ∧
        stateOf (readLine who again e l s).2.tags l = some .lost) ∧
      (misread errs = none → asRead e l u = u) ∧
      ∀ c w, misread errs = some (c, w) →
        readLine who again e l s = (true, if c = [] then u else countCorrected (physOfLine s l) (lineCore l) c u) ∧
        asRead e l u = garble l w u)) ∧
  (∀ (s : State) (l : Nat) (w : List Byte), Memory.wf s.mem = true → (garble l w s).tags = s.tags ∧
    ∀ a, a / 64 ≠ l ∨ (∀ i, i < 16 → nth w (8 + 16 * (a % 64 / 16) + i) 0 = 0) → memGet (garble l w s).mem a = memGet s.mem a) ∧
  (∀ errs : List (Nat × Byte), ((patternWord errs).filter (· ≠ 0)).length < 5 → misread errs = none) ∧
  (∀ (s : State) (phys : Nat), let r := findLayer s phys
    (r.level.toNat + 1 < max 1 (bitsOf r.cebktCfg.toNat 0 24) →
      addToBucket phys s = updLayer phys (fun r => { r with level := r.level + 1 }) s) ∧
    (max 1 (bitsOf r.cebktCfg.toNat 0 24) ≤ r.level.toNat + 1 → r.ovf.toNat ≤ 1 → (∃ k ∈ s.layerRegs, k.layer = phys) →
      (findLayer (addToBucket phys s) phys).level = 0 ∧ (findLayer (addToBucket phys s) phys).ovf = r.ovf + 1 ∧
      (addToBucket phys s).layers = s.layers ∧ (addToBucket phys s).mem = s.mem)) ∧
  ∀ s : State, started s = true → ∃ t : State, exec .bucketLeak s = happens t ∧ t = { s with layerRegs := t.layerRegs } ∧
    t.layerRegs.length = s.layerRegs.length ∧ ∀ k, k < s.layerRegs.length →
      (nth t.layerRegs k (LayerRegs.fresh 0)).level.toNat =
        (nth s.layerRegs k (LayerRegs.fresh 0)).level.toNat - (nth s.layerRegs k (LayerRegs.fresh 0)).cebktCfg.toNat / 2 ^ 24

/-- A failing lane of a channel in normal service takes the lowest spare that is free and trains it; where there is none its
column is rehomed; a fault of the whole channel fails the channel. While a column is being copied the same lane changes
nothing, a second lane breaks the copy off, and a fault of the whole channel, or a second lane where there is no place to
copy to, fails the channel; of a retired, broken or failed one nothing is left to fail. A lane that switches over is a new
entry of the repair map, with its record. The end of a rehoming copy retires the channel. A fault of L0, L1 or L23, and of a
second root layer over the device's life, takes the device out of service: no step is left in any context; of a clearing
layer withdraws it; of a first root layer starts its absorption, whose end leaves state 2 and no parity. The device's
recovery queue runs one action at a time, oldest first. (The rest of an absorption is one event; that the copy ends where a
fault breaks it off is R41's.) (R32, R33, R34, R36, R38, R39, R40, R41, R198, R400, R401, R408.) -/
def Obligations.LanesLayersAndRecovery : Prop :=
  (∀ (s : State) (f : LaneFault), started s = true → f.lane.toNat ≤ 22 → channelMode s f.core.toNat = none → f.wholeChannel = false →
    (∀ k ∈ s.training, ¬(k.core = f.core.toNat ∧ k.lane = f.lane.toNat)) →
    (∀ x, chooseSpare s f.core.toNat = some x → exec (.laneFailing f) s =
      happens { s with training := s.training ++ [⟨f.core.toNat, f.lane.toNat, x, f.segment.toNat⟩] }) ∧
    (chooseSpare s f.core.toNat = none → exec (.laneFailing f) s = happens (rehome f.core.toNat f.lane.toNat s))) ∧
  (∀ (s : State) (f : LaneFault), started s = true → f.lane.toNat ≤ 22 →
    (channelMode s f.core.toNat = none → f.wholeChannel = true →
      exec (.laneFailing f) s = happens (failChannel f.core.toNat s)) ∧
    (∀ m, channelMode s f.core.toNat = some m → (∃ d, m = .retired d ∨ m = .broken d) ∨ m = .failed →
      exec (.laneFailing f) s = happens s) ∧
    (∀ k d, channelMode s f.core.toNat = some (.corrected k d) ∨ channelMode s f.core.toNat = some (.degraded k d) →
      (f.wholeChannel = false → f.lane.toNat = k → exec (.laneFailing f) s = happens s) ∧
      (f.wholeChannel = true ∨ (f.lane.toNat ≠ k ∧ d = none) → exec (.laneFailing f) s = happens (failChannel f.core.toNat s)) ∧
      (f.wholeChannel = false → f.lane.toNat ≠ k → d ≠ none → exec (.laneFailing f) s = happens (breakCopy f.core.toNat d s)))) ∧
  (∀ (s : State) (core : Nat) (d : Option Nat), channelMode (failChannel core s) core = some .failed ∧
    channelMode (breakCopy core d s) core = some (.broken d) ∧
    ∀ c, c ≠ core → channelMode (failChannel core s) c = channelMode s c ∧ channelMode (breakCopy core d s) c = channelMode s c) ∧
  (∀ (s : State) (core : Nat), let used := sparesOf s core
    (0 ∉ used → chooseSpare s core = some 0) ∧ (0 ∈ used → 1 ∉ used → chooseSpare s core = some 1) ∧
    (∀ x, chooseSpare s core = some x → x ∉ used ∨ 16 ≤ x) ∧
    (∀ x, chooseSpare s core = some x → 2 ≤ x → 16 ≤ x ∧ x < 32 ∧ x ∉ poolUsed s (core / 256) ∧
      (used.filter fun y => 16 ≤ y).length < 4)) ∧
  (∀ (s : State) (core lane t : Nat), rehomePlace s core = some t →
    channelMode (rehome core lane s) core = some (if lane ≤ 17 then .corrected lane (some t) else .degraded lane (some t))) ∧
  (∀ (s : State) (core : BitVec 20) (lane : BitVec 5) (l : LaneTraining), started s = true → lane.toNat ≤ 22 →
    s.training.find? (fun l => l.core = core.toNat && l.lane = lane.toNat) = some l →
    ∃ t : State, exec (.laneSwitchOver core lane) s = happens (settleReserve (record 0x0B 0x10 1 none (toLE 8 (repairEntry l).toNat) t)) ∧
      t = { s with training := s.training.erase l, repairs := t.repairs } ∧ t.repairs.length = s.repairs.length + 1 ∧
      repairEntry l ∈ t.repairs ∧ ∀ e ∈ s.repairs, e ∈ t.repairs) ∧
  (∀ (s : State) (core : BitVec 20) (m : ChannelMode) (j : Job), started s = true → s.reserve.running = some j →
    j.act = .rehome core.toNat → channelMode s core.toNat = some m → ∃ t : State,
    exec (.rehomeCopyDone core) s = happens (endJob none (.rehome core.toNat) t) ∧ channelMode t core.toNat = some (.retired m.dest)) ∧
  (∀ (s : State) (core : BitVec 20), started s = true → (∀ j, s.reserve.running = some j → j.act ≠ .rehome core.toNat) →
    exec (.rehomeCopyDone core) s = happens s) ∧
  (∀ (s : State) (l : BitVec 5), started s = true → l.toNat ≤ 23 →
    (layerState s l.toNat = 0 → l = 0 ∨ l = 1 ∨ l = 23 →
      exec (.wholeLayerFault l) s = happens (settleReserve (outOfService 4 (setLayer l.toNat 4 s)))) ∧
    (layerState s l.toNat = 0 → 2 ≤ l.toNat → l.toNat < 6 → exec (.wholeLayerFault l) s = happens (settleReserve (withdrawLayer l.toNat s))) ∧
    (layerState s l.toNat = 0 → 6 ≤ l.toNat → l.toNat ≤ 22 → s.rootOut ≠ none →
      exec (.wholeLayerFault l) s = happens (settleReserve (outOfService 1 (setLayer l.toNat 4 s)))) ∧
    (layerState s l.toNat = 0 → 6 ≤ l.toNat → l.toNat ≤ 22 → s.rootOut = none →
      ∀ t, t = settleReserve (setLayer l.toNat 1 (beginAbsorption l.toNat s)) →
        exec (.wholeLayerFault l) s = happens (enqueue none (.absorb l.toNat) (lastRecord t) t)) ∧
    (layerState s l.toNat ≠ 0 → exec (.wholeLayerFault l) s = happens s)) ∧
  (∀ (s : State) (phys st : Nat), phys < s.layers.length → st < 16 → layerState (setLayer phys st s) phys = st ∧
    (setLayer phys st s).mem = s.mem ∧ ∀ k, k ≠ phys → layerState (setLayer phys st s) k = layerState s k) ∧
  (∀ (s : State) (cause : Nat), s.start.oos = false → (outOfService cause s).start.oos = true ∧
    (outOfService cause s).start.oosCause = cause ∧
    ∀ p ∈ (outOfService cause s).partitions, ∀ c ∈ p.contexts, c.sets = [] ∧ c.ineligible = [] ∧ c.released = [] ∧ c.step = none) ∧
  (∀ (s : State) (l : Nat) (cause : Option Nat), started s = true → s.reserve.running = some ⟨.absorb l, cause, true⟩ →
    exec .absorptionDone s = happens (endJob none (.absorb l) (settleReserve (setLayer l 2 (absorbAll l s)))) ∧
    (absorbAll l s).parity = [] ∧ (absorbAll l s).absorbed = [] ∧ (absorbAll l s).mem = s.mem ∧ (absorbAll l s).tags = s.tags) ∧
  (∀ (s : State) (part : Option (BitVec 4)), started s = true →
    exec (.recoveryActionStart part) s = happens (beginJobs (nextJob part s))) ∧
  (∀ (s : State) (j : Job) (js : List Job), s.reserve.queue = j :: js →
    (s.reserve.running = none → nextJob none s = { s with reserve := { s.reserve with running := some j, queue := js } }) ∧
    (s.reserve.running ≠ none → nextJob none s = s)) ∧
  (∀ (s : State) (a : Action) (cause : Option Nat),
    (s.reserve.running = none → s.reserve.queue = [] →
      enqueue none a cause s = { s with reserve := { s.reserve with running := some ⟨a, cause, false⟩ } }) ∧
    (s.reserve.running ≠ none ∨ s.reserve.queue ≠ [] →
      enqueue none a cause s = { s with reserve := { s.reserve with queue := s.reserve.queue ++ [⟨a, cause, false⟩] } })) ∧
  (∀ (s : State) (l : BitVec 5), started s = true → 2 ≤ l.toNat → l.toNat ≤ 22 → exec (.ovfWindowExpiry (.overflow l)) s =
    happens (settleReserve (updLayer l.toNat (fun r => { r with ovf := if r.ovf = 0 then 0 else r.ovf - 1 }) s))) ∧
  ∀ s : State, started s = true → exec (.ovfWindowExpiry .unexplained) s =
    happens (settleReserve { s with reserve := { s.reserve with unexplained := s.reserve.unexplained - 1 } })

/-- FABRIC_ID_SET below 0x7FFF with no group sets the id, has every UP link send HELLO and tries held packets again.
ROUTE_SET of entries that each name at most 4 different links replaces the entries it covers and no other; ROUTE_READ and
LINK_STATUS copy entries and records. LINK_CONTROL acts on one link or all: DISABLE makes a link that waits for an
acknowledgement close, any other DISABLED; ENABLE trains a DISABLED link; RETRAIN trains at once and clears the count of
three. GROUP_JOIN with room adds a joining group, is ACCEPTED and sends JOIN to the coordinator; without room it is
NO_RESOURCE. GROUP_ADMIN LEAVE of a member sends LEAVE, a joiner's ends its join; EVICT by the coordinator joins the
proposal; RECOORD names the new coordinator and tells it. GROUP_STATUS reports epoch, rank, members, state, the rank awaited
and CSEQ; PACE_SET sets follow and floor. NET_DISTANCE_READ copies distance records and gives the table's generation. (How
the new coordinator hears of RECOORD, which failure an unknown group gives, and where HELLO goes: assumptions 111, 117 and
103; how long an operation waited is a free value.) (R265, R278, R279, R280, R284, R286, R287, R292, R293, R294, R300.) -/
def Obligations.FabricIsConfigured : Prop :=
  (∀ (s : State) (q : QueuePair) (p c : Packet), Fetches 0x0701 s q p c →
    (par c 0 2 ≤ 0x7FFE → s.fabric.groups = [] → exec (.fabricIdSet p) s = completes p [] (setFabricId (par c 0 2) (fetchedState p s))) ∧
    (par c 0 2 ≤ 0x7FFE → s.fabric.groups ≠ [] →
      exec (.fabricIdSet p) s = .next (settle (finish (pktOrigin p) stNotPermitted 0 [] (fetchedState p s)))) ∧
    (0x7FFE < par c 0 2 → exec (.fabricIdSet p) s = .next (settle (finish (pktOrigin p) stBadLength 0 [] (fetchedState p s))))) ∧
  (∀ (s : State) (id : Nat), setFabricId id s = retryHeld
    (((s.fabric.links.filter fun l => l.state = .up).map (·.num)).foldl (fun s n => toQueue n [.hello] s)
      { s with fabric := { s.fabric with devId := BitVec.ofNat 15 id } })) ∧
  (∀ (s : State) (q : QueuePair) (p c : Packet) (b : List Byte), Fetches 0x0702 s q p c → 1 ≤ par c 2 2 →
    par c 0 2 + par c 2 2 ≤ 32768 → par c 8 8 % 8 = 0 → 8 * par c 2 2 ≤ par c 16 4 →
    takeBuffer (fetchedState p s) q c (par c 8 8) (8 * par c 2 2) = .ok b →
    ((∀ k, k < par c 2 2 → routeOk (fld b (8 * k) 8) = true) → exec (.routeSet p) s =
      completes p [] (setRoutes (par c 0 2) ((List.range (par c 2 2)).map fun k => fld b (8 * k) 8) (fetchedState p s))) ∧
    ((∃ k, k < par c 2 2 ∧ routeOk (fld b (8 * k) 8) = false) →
      exec (.routeSet p) s = .next (settle (finish (pktOrigin p) stBadLength 0 [] (fetchedState p s))))) ∧
  (∀ (s : State) (first : Nat) (es : List Nat) (dst : Nat), dst ≠ s.fabric.devId.toNat → (∀ e ∈ es, e < 2 ^ 27) →
    routeEntry (setRoutes first es s) dst =
      if first ≤ dst ∧ dst < first + es.length then nth es (dst - first) 0 else routeEntry s dst) ∧
  (∀ (s : State) (q : QueuePair) (p c : Packet) (b : Option (List Nat)), Fetches 0x0703 s q p c → 1 ≤ par c 2 2 →
    par c 0 2 + par c 2 2 ≤ 32768 → par c 8 8 % 8 = 0 → 8 * par c 2 2 ≤ par c 16 4 →
    paramBuffer (fetchedState p s) q c (par c 8 8) (par c 16 4) = .ok b →
    exec (.routeRead p) s = completes p [] (putBuffer q c b (par c 8 8)
      ((List.range (par c 2 2)).flatMap fun k => toLE 8 (routeEntry s (par c 0 2 + k))) (fetchedState p s))) ∧
  (∀ (s : State) (q : QueuePair) (p c : Packet) (b : Option (List Nat)), Fetches 0x0704 s q p c → par c 0 8 % 64 = 0 →
    4096 ≤ par c 8 4 → paramBuffer (fetchedState p s) q c (par c 0 8) (par c 8 4) = .ok b →
    exec (.linkStatus p) s = completes p [] (putBuffer q c b (par c 0 8) (s.fabric.links.flatMap linkRecord) (fetchedState p s))) ∧
  (∀ (s : State) (q : QueuePair) (p c : Packet), Fetches 0x0705 s q p c → par c 1 1 ≤ 2 →
    (par c 0 1 ≤ 63 → exec (.linkControl p) s = completes p [] (controlLink (par c 1 1) (par c 0 1) (fetchedState p s))) ∧
    (par c 0 1 = 0xFF → exec (.linkControl p) s = completes p []
      ((List.range 64).foldl (fun s n => controlLink (par c 1 1) n s) (fetchedState p s)))) ∧
  (∀ (s : State) (n : Nat), (∃ l ∈ s.fabric.links, l.num = n) →
    ((findLink s n).carries = true → (findLink s n).replay ≠ [] →
      controlLink 0 n s = updLink n (fun l => { l with closing := true }) s) ∧
    ((findLink s n).carries = false ∨ (findLink s n).replay = [] → (findLink (controlLink 0 n s) n).state = .disabled) ∧
    ((findLink s n).state = .disabled → (findLink (controlLink 1 n s) n).state = .training) ∧
    ((findLink s n).state ≠ .disabled → findLink (controlLink 1 n s) n = findLink s n) ∧
    (findLink (controlLink 2 n s) n).state = .training ∧ (findLink (controlLink 2 n s) n).latched = false ∧
    (findLink (controlLink 2 n s) n).downTimes = []) ∧
  (∀ (s : State) (q : QueuePair) (p c : Packet), Fetches 0x0710 s q p c →
    let n := pktPart c
    let id := par32 c 0
    let bad := id = 0 ∨ id = 0xFFFFFFFF ∨ 2 ^ 19 ≤ par c 4 4 ∨ (par c 4 4 = fabAddr s n ∧ (par c 8 2 = 0 ∨ 32768 < par c 8 2))
    let full := 16 ≤ (s.fabric.groups.filter fun g => g.part = n).length ∨ 64 ≤ s.fabric.groups.length ∨
      8 < ((s.fabric.groups.map (·.id)) ++ [id]).eraseDups.length
    let ends := fun (st : BitVec 16) => exec (.groupJoin p) s = .next (settle (finish (pktOrigin p) st 0 [] (fetchedState p s)))
    (bad → ends stBadLength) ∧ (¬ bad → (findGroup s n id).isSome → ends stNotPermitted) ∧
    (¬ bad → findGroup s n id = none → full → ends stNoResource) ∧
    (¬ bad → findGroup s n id = none → ¬ full →
      exec (.groupJoin p) s = accepts p (sendView n (par c 4 4) 0x10 id 0 0 (toLE 4 (fabAddr s n) ++ [0]) { fetchedState p s with
        fabric := { s.fabric with
          groups := s.fabric.groups ++ [Group.fresh id n (par c 4 4) (par c 8 2) (pktOrigin p)] } }))) ∧
  (∀ (s : State) (q : QueuePair) (p c : Packet), Fetches 0x0711 s q p c →
    let n := pktPart c
    let id := par32 c 0
    let target := par c 8 4
    let me := fabAddr s n
    let s1 := fetchedState p s
    let ends := fun (st : BitVec 16) => exec (.groupAdmin p) s = .next (settle (finish (pktOrigin p) st 0 [] s1))
    (findGroup s n id = none → ends stBadLength) ∧
    ∀ g, findGroup s n id = some g →
      (2 < par c 4 1 → ends stBadLength) ∧
      (par c 4 1 = 0 → g.epoch = 0 → exec (.groupAdmin p) s = completes p [] (g.waiters.foldl
        (fun s o => finish o stNotPermitted 0 [] s) (sendView n g.coord 0x11 id 0 0 (toLE 4 me) (dropGroup n id s1)))) ∧
      (par c 4 1 = 0 → g.epoch ≠ 0 → (g.leaver.isSome → ends stNotPermitted) ∧
        (g.leaver = none → exec (.groupAdmin p) s = accepts p (sendView n g.coord 0x11 id g.epoch 0 (toLE 4 me)
          (updGroup n id (fun g => { g with leaver := some (pktOrigin p), state := .leaving }) s1)))) ∧
      (1 ≤ par c 4 1 → par c 4 1 ≤ 2 → q.operator = false ∨ target ∉ g.members → ends stNotPermitted) ∧
      (par c 4 1 = 1 → g.coord ≠ me → ends stNotPermitted) ∧
      (par c 4 1 = 1 → q.operator = true → g.coord = me → target ∈ g.members →
        exec (.groupAdmin p) s = accepts p (concludeView n id (updGroup n id (fun g => { g with
          waiters := g.waiters ++ [pktOrigin p]
          proposal := { g.proposal with
            evicts := g.proposal.evicts ++ [target], members := g.proposal.members.filter (· ≠ target) } }) s1))) ∧
      (par c 4 1 = 2 → q.operator = true → target ∈ g.members →
        exec (.groupAdmin p) s = completes p [] (sendView n target 0x13 id g.epoch g.cseq
          (toLE 8 g.cseq ++ [if pinned s n id then 1 else 0]) (updGroup n id (fun g => { g with
            coord := target
            proposal := if target = me then { Proposal.empty with evicts := if g.coord = me then [] else [g.coord] } else Proposal.empty
            replaced := if target = me ∧ g.coord ≠ me then some g.coord else none }) s1)))) ∧
  (∀ (s : State) (q : QueuePair) (p c : Packet), Fetches 0x0712 s q p c →
    (findGroup s (pktPart c) (par32 c 0) = none →
      exec (.groupStatus p) s = .next (settle (finish (pktOrigin p) stNotPermitted 0 [] (fetchedState p s)))) ∧
    ∀ g, findGroup s (pktPart c) (par32 c 0) = some g → ∃ waited, (groupWaits s g = false → waited = 0) ∧
      exec (.groupStatus p) s = completes p (toLE 4 g.epoch ++ toLE 4 (if g.epoch = 0 then 0 else g.rank s) ++
        toLE 4 g.members.length ++ toLE 1 (groupStateCode g.state) ++ zeros 3 ++
        toLE 4 (if groupWaits s g then awaited s g else 0xFFFFFFFF) ++ toLE 4 waited ++ toLE 8 g.cseq)
        { fetchedState p s with draw := s.draw + 1 }) ∧
  (∀ (s : State) (q : QueuePair) (p c : Packet), Fetches 0x0713 s q p c →
    (findGroup s (pktPart c) (par32 c 0) = none ∨ 1 < par c 4 1 ∨ par c 5 1 = 0 ∨ 96 < par c 5 1 →
      exec (.paceSet p) s = .next (settle (finish (pktOrigin p) stBadLength 0 [] (fetchedState p s)))) ∧
    ((findGroup s (pktPart c) (par32 c 0)).isSome → par c 4 1 ≤ 1 → 1 ≤ par c 5 1 → par c 5 1 ≤ 96 →
      exec (.paceSet p) s = completes p [] (updGroup (pktPart c) (par32 c 0)
        (fun g => { g with follow := decide (par c 4 1 = 1), floor := par c 5 1 }) (fetchedState p s)))) ∧
  ∀ (s : State) (q : QueuePair) (p c : Packet) (b : Option (List Nat)), Fetches 0x0740 s q p c → 1 ≤ par c 4 4 → par c 4 4 ≤ 4096 →
    par c 0 4 < 4096 → par c 8 8 % 64 = 0 → 192 * par c 4 4 ≤ par c 16 4 →
    paramBuffer (fetchedState p s) q c (par c 8 8) (par c 16 4) = .ok b →
    let n := min (par c 0 4 + par c 4 4) 4096 - par c 0 4
    exec (.netDistanceRead p) s = completes p (toLE 4 n ++ toLE 4 s.distGen.toNat) (putBuffer q c b (par c 8 8)
      ((List.range n).flatMap fun i => distanceRecord s (par c 0 4 + i)) (fetchedState p s))

/-- A canopy packet that comes in at a link of a router in an idle network: its first flit goes one step along its order
within the cycle; a one-flit packet for the grove itself is ejected; where it would leave the tract, or the network, with a
stamp that does not own its destination, it is dropped as R255 says. A packet injected at a grove's own port is stamped with
the tract's partition, and goes X-then-Y, or Y-then-X where only that is open, or by the relay; both orders join two routers
in as many steps as they are apart. A resend counts and holds the port for 4 cycles; a wire with 16 corrections in 2^20
flits is failing; a change of stage reissues the distance table. A flit on a link that does not carry is ignored but for its
counters; one that fails its checks, or is out of sequence, is discarded, and the first such flit causes one NAK; one in
sequence moves the number expected, and a whole packet for the device arrives. A failed link goes DOWN, counted, what it has
not delivered sent another way, the third time within an hour to stay; one that is closing is DISABLED; a timer lets the
others train again; training ends UP, HALF, DOWN or DISABLED by the lanes found, and a peer without a route gets one. Held
packets are tried again in order. (Codewords corrected are free values.) (R251, R253, R254, R255, R262, R271, R272, R273,
R276, R277, R279, R285.) -/
def Obligations.LinksAndCanopyCarryPackets : Prop :=
  (∀ (s : State) (g : BitVec 12) (port : BitVec 3) (p : NetPacket), started s = true → p.wf = true → arrivalPort g port p = true →
    exec (.networkPacketArrival g ⟨port, p⟩) s = happens (netArrival g.toNat port.toNat p s)) ∧
  (∀ (s : State) (g d : BitVec 12) (port : Nat) (p : NetPacket), s.routers = [] → port < 4 → p.wf = true → p.dest = .grove d →
    p.via = none →
    let t := netArrival g.toNat port p s
    (∀ k, nextDir g.toNat d.toNat p.yFirst = some k → (leavesTract g.toNat k = false ∨ stampOk s p = true) →
      t = { s with net := t.net, mesh := t.mesh, routers := t.routers, draw := s.draw + 1, out := s.out ++ [.netForward g k p] }) ∧
    (d = g → p.flits = 1 → stampOk s p = true →
      t = { s with net := t.net, mesh := t.mesh, routers := t.routers, draw := s.draw + 1, out := s.out ++ [.netEject g p] }) ∧
    (stampOk s p = false → (d = g ∨ ∃ k, nextDir g.toNat d.toNat p.yFirst = some k ∧ leavesTract g.toNat k = true) →
      t = { dropPacket p s with net := t.net, mesh := t.mesh, routers := t.routers, draw := t.draw })) ∧
  (∀ (s : State) (g d : Nat) (dst : BitVec 12) (p : NetPacket), p.dest = .grove dst →
    netArrival g 4 p s = netCycle (injectTo g 4 dst.toNat
      (match ownerOf s (tractOfCore (256 * g)) with | some x => { p with stamp := x.num } | none => p) s) ∧
    (pathOpen s (xyPath g d) = true →
      injectTo g 4 d p s = offerPacket g 4 { p with yFirst := false, via := none } [d] s) ∧
    (pathOpen s (xyPath g d) = false → pathOpen s (yxPath g d) = true →
      injectTo g 4 d p s = offerPacket g 4 { p with yFirst := true, via := none } [d] s) ∧
    (pathOpen s (xyPath g d) = false → pathOpen s (yxPath g d) = false →
      injectTo g 4 d p s = offerPacket g 4 { p with
        yFirst := false, via := some (BitVec.ofNat 12 (relayRouter s g d)) } [d] s)) ∧
  (∀ a b : Nat, a < 4096 → b < 4096 → (xyPath a b).length = manhattan a b ∧ (yxPath a b).length = manhattan a b) ∧
  (∀ (s : State) (g : BitVec 12) (d : BitVec 2), started s = true → meshPort g d.toNat = true →
    let r := ((findRouter s g.toNat).port d.toNat).replay
    (r = [] → exec (.meshFlitResend g d) s = happens s) ∧
    (r ≠ [] → exec (.meshFlitResend g d) s = happens (updNet g.toNat (fun c => { c with resends := c.resends + 1 })
      (updRouter g.toNat (Router.updPort d.toNat fun p => { p with busy := p.busy + 4 }) s)))) ∧
  (∀ (s : State) (g : BitVec 12) (d : BitVec 2) (w n : Nat), started s = true → meshPort g d.toNat = true →
    exec (.meshWireFailing g d ⟨w, n⟩) s = happens (updMesh g.toNat d.toNat (MeshLink.corrected w n) s)) ∧
  (∀ (l : MeshLink) (w n : Nat), (MeshLink.corrected w n l).wires =
    if 16 ≤ ((l.corrections.filter fun c => decide (l.flits < c.2 + 2 ^ 20)).filter (·.1 = w)).length + min n 16 ∧ w ∉ l.wires then
      l.wires ++ [w] else l.wires) ∧
  (∀ (s : State) (g : BitVec 12) (d : BitVec 2) (st : MeshStage), started s = true → meshPort g d.toNat = true →
    ((meshLink s g.toNat d.toNat).stage = st → exec (.meshLinkDegrade g d st) s = happens s) ∧
    ((meshLink s g.toNat d.toNat).stage ≠ st → exec (.meshLinkDegrade g d st) s =
      happens (reissueTable (settleReserve (updMesh g.toNat d.toNat (fun l => { l with stage := st }) s))) ∧
      (meshLink (updMesh g.toNat d.toNat (fun l => { l with stage := st }) s) g.toNat d.toNat).stage = st)) ∧
  (∀ s : State, (reissueTable s).distGen = s.distGen + 1) ∧
  (∀ (s : State) (l : BitVec 6) (flit : List Byte) (fec : Bool), started s = true → flit.length = 256 →
    let k := findLink s l.toNat
    let u : State := { updLink l.toNat (fun k => { k with
        cwUncorr := if fec then k.cwUncorr + 1 else k.cwUncorr
        cwCorrected := k.cwCorrected + BitVec.ofNat 64 (Config.freeNat s.draw 2) }) s with draw := s.draw + 1 }
    (k.state = .disabled ∨ k.state = .down → exec (.flitReceive l flit fec) s = happens u) ∧
    (k.state = .up ∨ k.state = .half ∨ k.state = .training →
      (fec = true ∨ fld32 flit 0xFC ≠ crc32c (flit.take 0xFC) ∨ 2 < fld flit 0 8 % 16 ∨ fld flit 0 8 / 2 ^ 8 % 2 ^ 12 ≠ k.rxNext →
        exec (.flitReceive l flit fec) s = happens (discardFlit l.toNat u)) ∧
      (fec = false → fld32 flit 0xFC = crc32c (flit.take 0xFC) → fld flit 0 8 / 2 ^ 8 % 2 ^ 12 = k.rxNext →
        (fld flit 0 8 % 16 = 0 → exec (.flitReceive l flit fec) s = happens (takeHeader l.toNat (fld flit 0 8) u)) ∧
        (fld flit 0 8 % 16 = 1 → k.state = .training → exec (.flitReceive l flit fec) s = happens u) ∧
        (fld flit 0 8 % 16 = 2 ∨ fld flit 0 8 % 16 = 1 ∧ k.state ≠ .training →
          exec (.flitReceive l flit fec) s = happens (acceptFlit l.toNat flit u))))) ∧
  (∀ (s : State) (n : Nat) (flit : List Byte), (∃ l ∈ s.fabric.links, l.num = n) →
    let l := findLink s n
    (l.naked = true → discardFlit n s = s) ∧
    (l.naked = false → (findLink (discardFlit n s) n).naked = true ∧
      (discardFlit n s).out = s.out ++ [.flit n (flitBytes 0 0 false false l.txNext ((l.rxNext + 4095) % 4096) true
        (l.returning s).1 (l.returning s).2 [])]) ∧
    (l.closing = false → (findLink (acceptFlit n flit s) n).rxNext = (l.rxNext + 1) % 4096 ∧
      (findLink (acceptFlit n flit s) n).naked = false)) ∧
  (∀ (s : State) (p : FabPacket), hasId s = true → p.bodylen.toNat ≤ 4096 → p.bodylen.toNat = p.body.length →
    (p.dst.toNat = s.fabric.devId.toNat →
      packetIn p s = { s with fabric := { s.fabric with arrivals := s.fabric.arrivals ++ [p] } }) ∧
    (p.dst.toNat ≠ s.fabric.devId.toNat → packetIn p s = transit p s)) ∧
  (∀ (s : State) (l : BitVec 6), started s = true →
    let k := findLink s l.toNat
    (k.carries = true → exec (.lossOfLock l) s = happens (linkDown' l.toNat s)) ∧
    (k.carries = false → exec (.lossOfLock l) s = happens s) ∧
    (k.replay = [] → exec (.ackDeadline l) s = happens s) ∧
    (k.replay ≠ [] → (k.closing = true → exec (.ackDeadline l) s = happens (disableLink l.toNat s)) ∧
      (k.closing = false → k.carries = true → exec (.ackDeadline l) s = happens (linkDown' l.toNat s)) ∧
      (k.closing = false → k.carries = false → exec (.ackDeadline l) s = happens s))) ∧
  (∀ (s : State) (n : Nat), (∃ l ∈ s.fabric.links, l.num = n) →
    let k := findLink (linkDown' n s) n
    let now := Config.elapsedMs s.draw
    k.state = .down ∧ k.downs = (findLink s n).downs + 1 ∧ k.replay = [] ∧ k.queue = [] ∧
    k.latched = decide (2 ≤ ((findLink s n).downTimes.filter fun t => decide (now ≤ t + 3600000)).length) ∧
    (findLink (disableLink n s) n).state = .disabled ∧ (findLink (disableLink n s) n).downs = (findLink s n).downs) ∧
  (∀ (s : State) (l : BitVec 6) (lane : BitVec 3), started s = true →
    let k := findLink s l.toNat
    let bad := k.badLanes ||| (1#8 <<< lane.toNat)
    let u := updLink l.toNat (fun k => { k with badLanes := bad }) s
    (k.state = .up ∨ (k.state = .half ∧ lowHalf bad = true ∧ highHalf bad = true) →
      exec (.linkLaneFailure l lane) s = happens (linkDown' l.toNat u)) ∧
    (k.state ≠ .up → (k.state ≠ .half ∨ lowHalf bad = false ∨ highHalf bad = false) →
      exec (.linkLaneFailure l lane) s = happens u)) ∧
  (∀ (s : State) (l : BitVec 6), started s = true → exec (.linkRetrainTimer l) s = happens { s with fabric := { s.fabric with
    links := s.fabric.links.map fun k =>
      if k.num = l.toNat ∧ k.state = .down ∧ k.latched = false then { k with state := .training } else k } }) ∧
  (∀ (s : State) (l : BitVec 6) (peer : LinkPeer), started s = true →
    ((findLink s l.toNat).state ≠ .training → exec (.linkTrainingDone l peer) s = happens s) ∧
    ((findLink s l.toNat).state = .training → (∃ k ∈ s.fabric.links, k.num = l.toNat) → ∃ t : State,
      exec (.linkTrainingDone l peer) s = happens t ∧
      (peer.present = false → (findLink t l.toNat).state = .disabled) ∧
      (peer.present = true → lowHalf peer.badLanes = true → highHalf peer.badLanes = true → (findLink t l.toNat).state = .down) ∧
      (peer.present = true → peer.badLanes = 0 → (findLink t l.toNat).state = .up ∧ (findLink t l.toNat).width = 8) ∧
      (peer.present = true → peer.badLanes ≠ 0 → lowHalf peer.badLanes = false ∨ highHalf peer.badLanes = false →
        (findLink t l.toNat).state = .half ∧ (findLink t l.toNat).width = 4) ∧
      (peer.present = true → lowHalf peer.badLanes = false ∨ highHalf peer.badLanes = false → peer.id ≠ 0x7FFF →
        peer.id ≠ s.fabric.devId → routeEntry s peer.id.toNat / 2 ^ 24 % 8 = 0 →
        routeEntry t peer.id.toNat = l.toNat + 2 ^ 24 + 2 ^ 27))) ∧
  ∀ s : State, started s = true → exec .unroutableRetry s =
    happens (s.fabric.held.foldl (fun s p => launch p s) { s with fabric := { s.fabric with held := [] } })

/-- A packet for another device goes on; one for this device with a bad length or BCRC is dropped and recorded, one for a
partition that is SCRUBBING or absent, or that R301 does not admit, is REFUSED, one behind its turn is dropped, and one
ahead of it, or of a later view, waits in the reorder store, or before it while the store is full. One that is taken acts by
its type: DATA is delivered; a SEGMENT waits, or joins this member's own partial where it follows it, or is the result that
goes back down; a TOKEN goes up, or from the parent releases and goes down; AGREE keeps the member's flag; JOIN and LEAVE
reach the coordinator's proposal; PREPARE is answered READY once its whole list is here, and stops group operations; READY
is gathered, and once every answer is in the proposal is committed, or abandoned where a member is pinned; COMMIT gives the
view; ABANDON restores the old one; PACE is kept when newer and passed on; UNREACHABLE is recorded; REFUSED ends the flow.
The gather window's end sends PREPARE; the wait note records the rank awaited. The fixed tree's children have their parent.
(Layouts of view packets, that they take part in no flow, and what a READY of the present epoch tells: assumptions 41 and
111.) (R281, R282, R283, R290, R291, R293, R295, R296, R297, R298, R299, R301.) -/
def Obligations.FabricPacketsAreHandled : Prop :=
  (∀ (s : State) (p : FabPacket), started s = true →
    let s0 : State := { s with fabric := { s.fabric with arrivals := s.fabric.arrivals.erase p } }
    ∀ x ∈ [(Instr.data, 0x01#8), (.segment, 0x02), (.token, 0x03), (.agree, 0x04), (.join, 0x10), (.leave, 0x11), (.prepare, 0x12),
        (.ready, 0x13), (.commit, 0x14), (.abandon, 0x15), (.pace, 0x18), (.unreachable, 0x1C), (.refused, 0x1D)],
      p.ptype = x.2 →
      (p.dst.toNat ≠ s.fabric.devId.toNat → exec (x.1 p) s = happens (transit p s0)) ∧
      (p.dst.toNat = s.fabric.devId.toNat → ∀ t, checkArrival p s0 = .drop t → exec (x.1 p) s = happens (returnCredits t))) ∧
  (∀ (s : State) (p : FabPacket), p.bodylen.toNat ≤ 4096 → p.bodylen.toNat = p.body.length →
    p.bcrc = (if p.body = [] then 0 else crc32c p.body) →
    (findPart s p.dstPart = none → (p.ptype = 0x1C → checkArrival p s = .take s) ∧
      (p.ptype ≠ 0x1C → checkArrival p s = .drop (refusePacket stNotPermitted p s))) ∧
    ∀ x, findPart s p.dstPart = some x →
    (x.scrubbing = true → checkArrival p s = .drop (refusePacket stScrubbing p s)) ∧
    (x.scrubbing = false → admitted s p = false → checkArrival p s = .drop (refusePacket stNotPermitted p s)) ∧
    (x.scrubbing = false → admitted s p = true → p.pflags.getLsbD 0 = true ∨ isView p.ptype.toNat = true ∨ p.group = 0 ∨
      p.src.toNat = s.fabric.devId.toNat → checkArrival p s = .take s) ∧
    (x.scrubbing = false → admitted s p = true → p.pflags.getLsbD 0 = false → isView p.ptype.toNat = false → p.group ≠ 0 →
      p.src.toNat ≠ s.fabric.devId.toNat →
      let later := ∃ g, findGroup s p.dstPart p.group = some g ∧ g.epoch < p.epoch.toNat
      (p.pseq.toNat < flowNext s p → checkArrival p s = .drop s) ∧
      (flowNext s p ≤ p.pseq.toNat → flowNext s p < p.pseq.toNat ∨ later →
        (p ∈ s.fabric.reorder → checkArrival p s = .drop s) ∧
        (p ∉ s.fabric.reorder → 131072 < reorderFlits s + p.flits →
          checkArrival p s = .drop { s with fabric := { s.fabric with arrivals := s.fabric.arrivals ++ [p] } }) ∧
        (p ∉ s.fabric.reorder → reorderFlits s + p.flits ≤ 131072 →
          checkArrival p s = .drop { s with fabric := { s.fabric with reorder := s.fabric.reorder ++ [p] } })) ∧
      (p.pseq.toNat = flowNext s p → ¬ later → checkArrival p s = .take (bumpFlow p s)))) ∧
  (∀ (s : State) (p : FabPacket), 4096 < p.bodylen.toNat ∨ p.bodylen.toNat ≠ p.body.length →
    checkArrival p s = .drop (recordPacket 4 p.header s)) ∧
  (∀ (s : State) (p : FabPacket), p.bodylen.toNat ≤ 4096 → p.bodylen.toNat = p.body.length →
    p.bcrc ≠ (if p.body = [] then 0 else crc32c p.body) → checkArrival p s = .drop (settleReserve (recordPacket 2 p.header
      { s with reserve := { s.reserve with unexplained := s.reserve.unexplained + 1 } }))) ∧
  (∀ (s t : State) (p : FabPacket), Arrives 0x01 s p t → exec (.data p) s = received { t with out := t.out ++ [.delivered p] }) ∧
  (∀ (s t : State) (p : FabPacket) (g : Group), findGroup t p.dstPart p.group = some g →
    let n := p.dstPart
    let a := fld p.body 0 4 % 2 ^ 19
    let x := parseSegment p.body
    let u := updGroup n p.group (fun g => { g with partials := g.partials ++ [x] }) t
    (Arrives 0x02 s p t → g.own x = none → exec (.segment p) s = received u) ∧
    (∀ z, g.own x = some z → Arrives 0x02 s p t →
      (z.sent = false → exec (.segment p) s = received (settleSegment n p.group x u)) ∧
      (z.sent = true → x.lo = 0 → x.hi + 1 = g.members.length → exec (.segment p) s = received (sendResult n g
        { x with share := z.share } (updGroup n p.group (fun g => { g with partials := g.partials.erase z }) t))) ∧
      (z.sent = true → x.lo ≠ 0 ∨ x.hi + 1 ≠ g.members.length → exec (.segment p) s = received t)) ∧
    (∀ z y, g.own x = some z → (g.partials.find? fun y => y.same x && y.lo = z.hi + 1) = some y →
      y.anchor = z.anchor → y.widened = z.widened → meetSegment n p.group x t = updGroup n p.group (fun g => { g with
        partials := ((g.partials.erase z).erase y) ++ [(z.join y).closeChunk g.members.length] }) t) ∧
    (Arrives 0x03 s p t → g.rank t ≤ rankIn g.members p.srcAddr →
      exec (.token p) s = received (tokenUp n p.group (fld p.body 0 8) (fld p.body 8 4) t)) ∧
    (Arrives 0x03 s p t → rankIn g.members p.srcAddr < g.rank t → exec (.token p) s = received
      ((treeChildren g.members.length (g.rank t)).foldl (fun s k => sendPacket n (g.addrOf k) 0x03 0 p.group g.epoch
          (toLE 8 (fld p.body 0 8) ++ zeros 4) s)
        (updGroup n p.group (fun g => { g with
          releases := if fld p.body 0 8 ∈ g.releases then g.releases else g.releases ++ [fld p.body 0 8] }) t))) ∧
    (∀ c r : Nat, g.rank t ≠ 0 → tokenUp n p.group c r t =
      sendPacket n (g.addrOf (treeParent (g.rank t))) 0x03 0 p.group g.epoch (toLE 8 c ++ toLE 4 r) t) ∧
    (∀ c r : Nat, g.rank t = 0 → (∀ k, k < g.members.length → k = r ∨ (c, k) ∈ g.tokens) → (c, r) ∉ g.tokens →
      tokenUp n p.group c r t = (treeChildren g.members.length 0).foldl (fun s k =>
        sendPacket n (g.addrOf k) 0x03 0 p.group g.epoch (toLE 8 c ++ zeros 4) s) (updGroup n p.group (fun k => { k with
          tokens := g.tokens.filter fun t => t.1 ≠ c, releases := k.releases ++ [c] }) t)) ∧
    (Arrives 0x04 s p t → exec (.agree p) s = received (updGroup n p.group (fun g => { g with
      agrees := (g.agrees.filter fun x => ¬(x.1 = fld p.body 0 8 ∧ x.2.1 = rankIn g.members p.srcAddr)) ++
        [(fld p.body 0 8, rankIn g.members p.srcAddr, decide (fld p.body 8 1 % 2 = 1))] }) t)) ∧
    (Arrives 0x10 s p t → (g.coord ≠ fabAddr t n → exec (.join p) s = received t) ∧
      (g.coord = fabAddr t n → exec (.join p) s = received (updGroup n p.group (fun g => { g with proposal := { g.proposal with
        joins := if a ∈ g.proposal.joins ∨ a ∈ g.members then g.proposal.joins else g.proposal.joins ++ [a]
        pinned := if fld p.body 4 1 % 2 = 1 then g.proposal.pinned ++ [a] else g.proposal.pinned } }) t))) ∧
    (Arrives 0x11 s p t → (g.coord ≠ fabAddr t n → exec (.leave p) s = received t) ∧
      (g.coord = fabAddr t n → exec (.leave p) s = received (updGroup n p.group (fun g => { g with proposal := { g.proposal with
        joins := g.proposal.joins.filter (· ≠ a)
        leaves := if a ∈ g.proposal.leaves ∨ a ∉ g.members then g.proposal.leaves else g.proposal.leaves ++ [a] } }) t))) ∧
    (Arrives 0x12 s p t → p.epoch.toNat ≤ g.epoch → exec (.prepare p) s = received t) ∧
    (∀ y old, findPart t n = some y → Arrives 0x12 s p t → g.epoch < p.epoch.toNat →
      (g.prepared = none → old = []) → (∀ e m ms, g.prepared = some (e, m, ms) → old = if e = p.epoch.toNat then ms else []) →
      let b := if g.epoch = 0 then 0 else g.cseq + ((List.range 8).filter fun c => waitsAtGroup t y p.group c).length
      let m := p.pseq.toNat / 2 ^ 48
      let ms := (old ++ membersOf p.body).eraseDups
      let v := updGroup n p.group (fun g => { g with prepared := some (p.epoch.toNat, m, ms) }) t
      let w := updGroup n p.group (fun g => { g with
        stopped := decide (g.epoch ≠ 0), state := if g.state = .member then .changing else g.state }) v
      (ms.length < m → exec (.prepare p) s = received v) ∧
      (m ≤ ms.length → exec (.prepare p) s = received
        (sendView n p.srcAddr 0x13 p.group p.epoch.toNat b (toLE 8 b ++ [if pinned t n p.group then 1 else 0]) w))) ∧
    (Arrives 0x13 s p t →
      (g.epoch ≠ 0 → p.epoch.toNat = g.epoch → exec (.ready p) s = received (updGroup n p.group (fun g => { g with
        recoords := (g.recoords ++ [p.srcAddr]).eraseDups }) t)) ∧
      (g.proposal.sent = true → p.epoch.toNat = g.epoch + 1 →
        exec (.ready p) s = received (concludeView n p.group (updGroup n p.group (fun g => { g with
          proposal := { g.proposal with answers := (g.proposal.answers.filter fun x => x.1 ≠ p.srcAddr) ++
            [(p.srcAddr, fld p.body 0 8, decide (fld p.body 8 1 % 2 = 1))] } }) t))) ∧
      (p.epoch.toNat ≠ g.epoch ∨ g.epoch = 0 → g.proposal.sent = false ∨ p.epoch.toNat ≠ g.epoch + 1 →
        exec (.ready p) s = received t)) ∧
    (let pr := g.proposal
      let answered := pr.sent = true ∧ ∀ m ∈ g.audience, ∃ x ∈ pr.answers, x.1 = m
      let held := (∃ m ∈ pr.members, m ∈ pr.pinned) ∨ ∃ x ∈ pr.answers, x.2.2 = true
      let b := maxNat (pr.answers.map fun x => x.2.1) + (if pr.evicts = [] then 0 else 2 ^ 47)
      (¬ answered → concludeView n p.group t = t) ∧
      (answered → held → concludeView n p.group t = g.audience.foldl (fun s m =>
        sendView n m 0x15 p.group (g.epoch + 1) 0 (toLE 4 (g.epoch + 1) ++ toLE 4 1) s)
          (updGroup n p.group (fun g => { g with proposal := pr.later pr.evicts }) t)) ∧
      (answered → ¬ held → concludeView n p.group t = g.audience.foldl (fun s m => (memberBodies pr.members).foldl (fun s x =>
        sendView n m 0x14 p.group (g.epoch + 1) (listWord b pr.members) x s) s)
          (updGroup n p.group (fun g => { g with proposal := pr.later [] }) t))) ∧
    (Arrives 0x14 s p t → p.epoch.toNat ≤ g.epoch → exec (.commit p) s = received t) ∧
    (∀ old, Arrives 0x14 s p t → g.epoch < p.epoch.toNat → (g.commit = none → old = []) →
      (∀ e b m ms, g.commit = some (e, b, m, ms) → old = if e = p.epoch.toNat then ms else []) →
      exec (.commit p) s = received (releaseReorder (switchView n p.group (updGroup n p.group (fun g => { g with
        commit := some (p.epoch.toNat, p.pseq.toNat % 2 ^ 48, p.pseq.toNat / 2 ^ 48, (old ++ membersOf p.body).eraseDups)
        stopped := false }) t)))) ∧
    (Arrives 0x15 s p t → (p.epoch.toNat ≤ g.epoch → exec (.abandon p) s = received t) ∧
      (g.epoch < p.epoch.toNat → g.epoch = 0 → exec (.abandon p) s = received (g.waiters.foldl
        (fun s o => finish o stNotPermitted 0 [] s) (dropGroup n p.group t))) ∧
      (g.epoch < p.epoch.toNat → g.epoch ≠ 0 → exec (.abandon p) s = received (finishIf g.leaver stNotPermitted []
        (updGroup n p.group (fun g => { g with
          state := .member, stopped := false, leaver := none, prepared := none, commit := none }) t)))) ∧
    (Arrives 0x18 s p t → (∀ x, g.notices.find? (fun x => x.1 = p.srcAddr) = some x → x.2.1 < fld p.body 4 4) →
      exec (.pace p) s = received (relayPace p g (updGroup n p.group (fun g => { g with
        notices := (g.notices.filter fun x => x.1 ≠ p.srcAddr) ++
          [(p.srcAddr, fld p.body 4 4, fld p.body 0 1, fld p.body 1 1)] }) t))) ∧
    (Arrives 0x18 s p t → (∃ x, g.notices.find? (fun x => x.1 = p.srcAddr) = some x ∧ fld p.body 4 4 ≤ x.2.1) →
      exec (.pace p) s = received t)) ∧
  (∀ (s t : State) (p : FabPacket), Arrives 0x1C s p t → exec (.unreachable p) s = received (recordPacket 0 p.body t)) ∧
  (∀ (s t : State) (p : FabPacket), Arrives 0x1D s p t →
    let h := parsePacket 0 (p.body.drop 2)
    let key := (h.group, h.epoch, h.srcAddr, h.dstAddr)
    exec (.refused p) s = received (recordPacket 1 h.header { t with fabric := { t.fabric with
      refused := if key ∈ t.fabric.refused then t.fabric.refused else t.fabric.refused ++ [key]
      held := t.fabric.held.filter fun q => (q.group, q.epoch, q.srcAddr, q.dstAddr) ≠ key } })) ∧
  (∀ (s : State) (n : BitVec 4) (id : U32), started s = true →
    (findGroup s n id = none → exec (.viewGatherExpiry n id) s = happens s ∧ exec (.groupWaitNote n id) s = happens s) ∧
    ∀ g, findGroup s n id = some g →
      let pr := g.proposal
      let may := g.coord = fabAddr s n ∧ pr.sent = false ∧ pr.idle = false ∧ g.takenOver = true ∧
        (g.epoch ≠ 0 ∨ g.minMembers ≤ pr.joins.length)
      (¬ may → exec (.viewGatherExpiry n id) s = happens s) ∧
      (may → ∃ ms : List Nat,
        (∀ m, m ∈ ms ↔ (m ∈ g.members ∨ m ∈ pr.joins) ∧ m ∉ pr.leaves ∧ m ∉ pr.evicts) ∧ ms.Pairwise (· < ·) ∧
        exec (.viewGatherExpiry n id) s = happens
          ((((g.members.filter fun m => !pr.evicts.contains m) ++ ms).eraseDups).foldl (fun s m => (memberBodies ms).foldl (fun s b =>
            sendView n m 0x12 id (g.epoch + 1) (listWord 0 ms) b s) s)
            (updGroup n id (fun k => { k with proposal := { pr with sent := true, members := ms, answers := [] } }) s))) ∧
      (groupWaits s g = false → exec (.groupWaitNote n id) s = happens s) ∧
      (groupWaits s g = true → let k := if g.waitSeconds = 0 then 1 else g.waitSeconds + 60
        exec (.groupWaitNote n id) s = happens (record 0x07 0x42 0 (some n) (toLE 4 id.toNat ++ toLE 4 (awaited s g) ++ toLE 4 k)
          (updGroup n id (fun g => { g with waitSeconds := k }) s)))) ∧
  ∀ g r k, r < g → g ≤ 32768 → (k ∈ treeChildren g r ↔ r ≠ k ∧ 0 < k ∧ k < g ∧ treeParent k = r)

/-- POWER_CAP_SET within its limits, with no committed partition or with the admission kept, sets each limit whose field is
not zero, raises BURST to CAP where it is below, and brings the effective cap up to date; an admission broken completes
NO_RESOURCE with the shortfall and changes nothing. POWER_STATUS copies the device record and 64 tract records, another's
tract withheld from a tenant. FIXED_FREQ_SET sets a partition's frequency and holds the halves of its tracts at that n; it
fails where two committed partitions would share a half at different frequencies, or with the shortfall. ENERGY_READ reports
whole millijoules. COOLANT_SET keeps inlet and flow, records an inlet above 40 °C and a low flow, and asserts ALERT# for the
latter. THERMAL_STATUS copies its record. THERMAL_RESPONSE_SET keeps what its zero fields leave; with ALERT_EN clear ALERT#
falls. (Age of a figure published: a free value of at most 1,000.) (R355, R357, R358, R359, R360, R368, R369, R373, R374,
R347.) -/
def Obligations.PowerAndCoolingAreSetAndRead : Prop :=
  (∀ (s : State) (q : QueuePair) (p c : Packet), Fetches 0x0801 s q p c →
    let cap := if par c 0 4 = 0 then s.power.cap else par c 0 4
    let good := (par c 0 4 = 0 ∨ 2500 ≤ par c 0 4 ∧ par c 0 4 ≤ 9500) ∧ (par c 4 4 = 0 ∨ cap ≤ par c 4 4 ∧ par c 4 4 ≤ 10800) ∧
      par c 8 2 ≤ 60 ∧ (par c 10 2 = 0 ∨ 1000 ≤ par c 10 2 ∧ par c 10 2 ≤ 7200) ∧
      (par c 12 2 = 0 ∨ 1000 ≤ par c 12 2 ∧ par c 12 2 ≤ 6000)
    let u := setPower (slice c.inl 0 16) (fetchedState p s)
    (¬good → exec (.powerCapSet p) s = .next (settle (finish (pktOrigin p) stBadLength 0 [] (fetchedState p s)))) ∧
    (good → anyCommitted s = false ∨ admissionNeed (freqOf s) ≤ 10 * u.thermal.effCap → exec (.powerCapSet p) s = completes p [] u) ∧
    (good → anyCommitted s = true → 10 * u.thermal.effCap < admissionNeed (freqOf s) → exec (.powerCapSet p) s =
      .next (settle (finish (pktOrigin p) stNoResource (BitVec.ofNat 32 (shortfall (freqOf s) u.thermal.effCap)) [] (fetchedState p s)))) ∧
    u = { fetchedState p s with power := u.power, thermal := { s.thermal with effCap := effectiveCap u } } ∧
    u.power = { s.power with
      cap := cap
      burst := max cap (if par c 4 4 = 0 then s.power.burst else par c 4 4)
      window := if par c 8 2 = 0 then s.power.window else par c 8 2
      fastA := if par c 10 2 = 0 then s.power.fastA else par c 10 2
      contA := if par c 12 2 = 0 then s.power.contA else par c 12 2 }) ∧
  (∀ (s : State) (q : QueuePair) (p c : Packet) (b : Option (List Nat)), Fetches 0x0802 s q p c → par c 0 8 % 64 = 0 →
    2112 ≤ par c 8 4 → paramBuffer (fetchedState p s) q c (par c 0 8) (par c 8 4) = .ok b →
    exec (.powerStatus p) s = completes p (toLE 4 (statusPower s) ++ toLE 4 (shownCap s))
      (putBuffer q c b (par c 0 8) (powerRecord s ++ (List.range 64).flatMap (tractRecord s q c)) (fetchedState p s))) ∧
  (∀ (s : State) (q : QueuePair) (p : Packet) (t : Nat), (powerRecord s).length = 64 ∧ (tractRecord s q p t).length = 32 ∧
    (q.operator = false → (∀ x, ownerOf s t = some x → x.num ≠ pktPart p) →
      tractRecord s q p t = toLE 1 t ++ [0xFF, 0, 1] ++ zeros 28)) ∧
  (∀ (s : State) (q : QueuePair) (p c : Packet) (x : Partition), Fetches 0x0803 s q p c → par c 0 1 ≤ 15 → par c 1 1 ≤ 3 →
    findPart s (BitVec.ofNat 4 (par c 0 1)) = some x → x.scrubbing = false →
    let n := BitVec.ofNat 4 (par c 0 1)
    let clash := ∃ y ∈ s.partitions, y.num ≠ n ∧ y.freq ≠ 0 ∧ y.freq ≠ par c 1 1 ∧ ∃ h ∈ halvesOf y, h ∈ halvesOf x
    let freq := fun t => if hasTract x.tracts t then par c 1 1 else freqOf s t
    (par c 1 1 = 0 ∨ ¬clash ∧ admissionNeed freq ≤ 10 * s.thermal.effCap → ∃ t : State, exec (.fixedFreqSet p) s = completes p [] t ∧
      t = { updPart n (fun y => { y with freq := par c 1 1 }) (fetchedState p s) with
        power := { s.power with targetWest := t.power.targetWest, targetEast := t.power.targetEast } } ∧
      ∀ east k, fixedN t east = some k → targetOf t east = k) ∧
    (par c 1 1 ≠ 0 → clash → exec (.fixedFreqSet p) s = .next (settle (finish (pktOrigin p) stNotPermitted 0 [] (fetchedState p s)))) ∧
    (par c 1 1 ≠ 0 → ¬clash → 10 * s.thermal.effCap < admissionNeed freq → exec (.fixedFreqSet p) s = .next (settle
      (finish (pktOrigin p) stNoResource (BitVec.ofNat 32 (shortfall freq s.thermal.effCap)) [] (fetchedState p s))))) ∧
  (freqN 1 = 55 ∧ freqN 2 = 69 ∧ freqN 3 = 82 ∧ ∀ freq cap, 10 * cap < admissionNeed freq →
    10 * (cap + shortfall freq cap) < admissionNeed freq + 10 ∧ admissionNeed freq ≤ 10 * (cap + shortfall freq cap)) ∧
  (∀ (s : State) (q : QueuePair) (p c : Packet), Fetches 0x0804 s q p c →
    (∀ n x, par c 0 1 = 0 → namedPart q c (par c 1 1) = .ok n → findPart s n = some x →
      ∃ age ≤ 1000, exec (.energyRead p) s = completes p
        (toLE 8 ((if x.confidential then x.pubEnergy else x.energy) / 1000000) ++ toLE 4 (if x.confidential then age else 0))
        { fetchedState p s with draw := s.draw + 1 }) ∧
    (∀ x, par c 0 1 = 1 → par c 1 1 ≤ 63 → q.operator = true → findPair (fetchedState p s) (BitVec.ofNat 6 (par c 1 1)) = some x →
      (∀ n y, x.part = some n → findPart s n = some y → y.confidential = false) →
      exec (.energyRead p) s = completes p (toLE 8 (x.energy / 1000000) ++ toLE 4 0) { fetchedState p s with draw := s.draw + 1 }) ∧
    (2 ≤ par c 0 1 → par c 0 1 ≤ 3 → q.operator = true → anyConfidential s = false → exec (.energyRead p) s = completes p
      (toLE 8 ((if par c 0 1 = 2 then s.power.device else s.power.unattributed) / 1000000) ++ toLE 4 0)
      { fetchedState p s with draw := s.draw + 1 })) ∧
  (∀ (s : State) (q : QueuePair) (p c : Packet), Fetches 0x0901 s q p c →
    let inlet := sfld16 c.inl 0
    let flow := par c 2 2
    let u : State := { fetchedState p s with thermal := { s.thermal with
      inlet := inlet, flow := flow, reported := true, age := 0, flowLow := decide (1 ≤ flow ∧ flow ≤ 79) } }
    let v := if 4000 < inlet then recordCooling 1 u else u
    (500 ≤ inlet → inlet ≤ 5000 → flow ≤ 2000 → exec (.coolantSet p) s =
      completes p [] (if 1 ≤ flow ∧ flow ≤ 79 then recordCooling 1 (assertAlert v) else v)) ∧
    (inlet < 500 ∨ 5000 < inlet ∨ 2000 < flow →
      exec (.coolantSet p) s = .next (settle (finish (pktOrigin p) stBadLength 0 [] (fetchedState p s))))) ∧
  (∀ s : State, (assertAlert s).pins.alert = (s.pins.alert || s.thermal.alertEn)) ∧
  (∀ (s : State) (q : QueuePair) (p c : Packet) (b : Option (List Nat)), Fetches 0x0902 s q p c → par c 0 8 % 64 = 0 →
    128 ≤ par c 8 4 → paramBuffer (fetchedState p s) q c (par c 0 8) (par c 8 4) = .ok b →
    exec (.thermalStatus p) s = completes p (toLE 4 (shownCap s) ++ toLE 1 (thermalState s))
      (putBuffer q c b (par c 0 8) (thermalRecord s) (fetchedState p s))) ∧
  (∀ s : State, (thermalRecord s).length = 128) ∧
  ∀ (s : State) (q : QueuePair) (p c : Packet), Fetches 0x0903 s q p c →
    let good := (par c 0 2 = 0 ∨ 105 ≤ par c 0 2 ∧ par c 0 2 ≤ 149) ∧ par c 2 2 ≤ 3600
    let en := decide (par c 4 1 % 2 = 1)
    (good → exec (.thermalResponseSet p) s = completes p [] { fetchedState p s with
      thermal := { s.thermal with
        warn := if par c 0 2 = 0 then s.thermal.warn else par c 0 2
        stale := if par c 2 2 = 0 then s.thermal.stale else par c 2 2, alertEn := en }
      pins := { s.pins with alert := s.pins.alert && en } }) ∧
    (¬good → exec (.thermalResponseSet p) s = .next (settle (finish (pktOrigin p) stBadLength 0 [] (fetchedState p s))))

/-- The allowance of a period is at most each limit's (L × T − E_past) ÷ 4 µs, at most 2,500 W under PWR_BRAKE# and 20 % of
CAP under an abrupt loss; grants are at least 20 W, their sum at the common level is at most the budget, and no higher level
keeps to it. A millisecond whose ratio lies in 0.80 to 1.25 sets the correction factor, another makes it suspect. In 50 ns
the set points of a half rise by at most 1 mV towards a higher target and fall so once n is there; n takes one step nearer
its target, upwards only where the set points stand at the target's, and none while a plot of the half droops. A regulator
that fails is recorded once, its tract's power-on pauses, and the tract's ceiling falls to (18 − F) ÷ 16, with 7 the tract
goes OFFLINE, with 9 of a DRAM layer the layer is mapped out, with 5 of L1 or L23 the device is out of service; ten high
drops make a path suspect; a tract's routers losing power reissues the distance table. A tract without released work parks;
one with work powers on grove by grove where the headroom admits it, and RUNS with the 64th; after 1 ms its busiest
neighbour's m falls by 4, once. (That the set points, in half-microvolts at 12 A, stand for what the plots read: assumption
112. Cycles stretched are free values.) (R336, R338, R339, R341, R343, R344, R346, R348, R349, R350, R353, R356.) -/
def Obligations.PowerIsKeptWithinItsLimits : Prop :=
  (∀ (s : State) (p : PowerSample), alive s = true → p.wf = true → exec (.powerPeriod p) s = happens (powerPeriod p s)) ∧
  (∀ (s : State) (mv : Nat), (∀ x ∈ packageAllowances s mv, (nextAllowance s mv).1 ≤ x.1) ∧
    (s.power.brake = true → (nextAllowance s mv).1 ≤ 2500000) ∧ (s.thermal.abrupt = true → (nextAllowance s mv).1 ≤ 200 * s.power.cap)) ∧
  (∀ (watts k : Nat) (past : List Nat), (past.take (k - 1)).sum ≤ watts * 4000 * k →
    4 * allowanceOf watts k past + (past.take (k - 1)).sum ≤ watts * 4000 * k ∧
    watts * 4000 * k < 4 * (allowanceOf watts k past + 1) + (past.take (k - 1)).sum) ∧
  (∀ (xs : List Share) (b : Nat), 20000 * xs.length ≤ b → (xs.map (·.grantAt (commonLevel xs b))).sum ≤ b ∧
    (commonLevel xs b + 1 < 2 ^ 24 → b < (xs.map (·.grantAt (commonLevel xs b + 1))).sum) ∧
    ∀ x ∈ xs, 20000 ≤ x.grantAt (commonLevel xs b) ∧ x.grantAt (commonLevel xs b) ≤ max 20000 x.most) ∧
  (∀ (s : State) (mv ma : Nat), alive s = true →
    let est := s.power.estSince
    let u : State := { s with power := { s.power with estSince := 0 } }
    (est = 0 → exec (.correctionUpdate mv ma) s = happens u) ∧
    (est ≠ 0 → 4 * est ≤ 5 * (mv * ma) → 4 * (mv * ma) ≤ 5 * est → exec (.correctionUpdate mv ma) s = happens { s with power :=
      { s.power with
        estSince := 0, correction := rn (Num.ofRatio (mv * ma) est), corrNum := mv * ma, corrDen := est, corrSuspect := false } }) ∧
    (est ≠ 0 → 5 * (mv * ma) < 4 * est ∨ 5 * est < 4 * (mv * ma) → exec (.correctionUpdate mv ma) s = happens
      (if s.power.corrSuspect then u
       else recordPowerNote 0 (rn (Num.ofRatio (mv * ma) est)) none { u with power := { u.power with corrSuspect := true } }))) ∧
  (∀ (s : State) (east : Bool), alive s = true →
    let t := stepFreq east s
    let set := fun (u : State) (e : Bool) => if e then u.power.setEast else u.power.setWest
    let full := setOf (targetOf s east)
    exec (.frequencyStep east) s = happens t ∧
    t = { s with power := { s.power with
      nWest := t.power.nWest, nEast := t.power.nEast, setWest := t.power.setWest, setEast := t.power.setEast } } ∧
    nOf t (!east) = nOf s (!east) ∧ set t (!east) = set s (!east) ∧
    (halfDroops s east = true → nOf t east = nOf s east) ∧
    (halfDroops s east = false →
      (nOf s east < targetOf s east → full ≤ set s east → nOf t east = nOf s east + 1) ∧
      (nOf s east < targetOf s east → set s east < full → nOf t east = nOf s east) ∧
      (nOf s east = targetOf s east → nOf t east = nOf s east) ∧
      (targetOf s east < nOf s east → nOf t east + 1 = nOf s east)) ∧
    (set s east < full → set t east = min (set s east + 2000) full) ∧
    (full ≤ set s east → nOf s east = targetOf s east → set t east = max (set s east - 2000) full) ∧
    (full ≤ set s east → nOf s east ≠ targetOf s east → set t east = set s east)) ∧
  (∀ (s : State) (plot : BitVec 10), alive s = true →
    (plot.toNat ∉ s.power.stretched → exec (.droopDetect plot) s = happens { s with power := { s.power with
      stretched := s.power.stretched ++ [plot.toNat] } }) ∧
    (plot.toNat ∈ s.power.stretched → exec (.droopDetect plot) s = happens s) ∧
    (plot.toNat ∉ s.power.stretched → exec (.droopStretchEnd plot) s = happens s) ∧
    (plot.toNat ∈ s.power.stretched → ∃ t : State,
      t = { s with draw := s.draw + 1, lattice := t.lattice
                   power := { s.power with stretched := s.power.stretched.erase plot.toNat } } ∧
      (ownerOf s (plot.toNat / 16) = none → exec (.droopStretchEnd plot) s = happens t) ∧
      ∀ x, ownerOf s (plot.toNat / 16) = some x → exec (.droopStretchEnd plot) s = happens (considerSwitch x.num t))) ∧
  (∀ (s : State) (die : BitVec 5) (index : BitVec 10), alive s = true → regulatorWf die index = true →
    let d := die.toNat
    let i := index.toNat
    let bad := updRegulator d i (fun r => { r with suspect := false, failed := true }) s
    let hold := if d = 0 then updTract (i / 16) (fun r => { r with paused := decide (r.power = .poweringOn) }) bad else bad
    ((findRegulator s d i).failed = true → exec (.regulatorFailure die index) s = happens s) ∧
    ((findRegulator s d i).failed = false → exec (.regulatorFailure die index) s = happens
      (settleRoutes (i / 16) s (afterRegulator d i (settleReserve (recordRegulator d i 0 hold))))) ∧
    ∀ measured expected,
      ((findRegulator s d i).failed = true → exec (.pathCheck die index measured expected) s = happens s) ∧
      ((findRegulator s d i).failed = false →
      (2 * expected < measured → exec (.pathCheck die index measured expected) s = exec (.regulatorFailure die index) s) ∧
      (measured ≤ 2 * expected → 4 * measured ≤ 5 * expected + 20000 → exec (.pathCheck die index measured expected) s =
        happens (updRegulator d i (fun r => { r with excess := 0 }) s)) ∧
      (measured ≤ 2 * expected → 5 * expected + 20000 < 4 * measured →
        let more := updRegulator d i (fun r => { r with excess := r.excess + 1 }) s
        let mark := settleReserve (recordRegulator d i 1 (updRegulator d i (fun r => { r with suspect := true }) more))
        ((findRegulator s d i).excess ≠ 9 ∨ (findRegulator s d i).suspect = true →
          exec (.pathCheck die index measured expected) s = happens more) ∧
        ((findRegulator s d i).excess = 9 → (findRegulator s d i).suspect = false →
          exec (.pathCheck die index measured expected) s =
            happens (if d = 0 then settleRoutes (i / 16) s (afterRegulator d i mark) else mark))))) ∧
  (∀ (t : Nat) (old s : State), ((15 ≤ plotsBad old t ↔ 15 ≤ plotsBad s t) → settleRoutes t old s = s) ∧
    (¬(15 ≤ plotsBad old t ↔ 15 ≤ plotsBad s t) → settleRoutes t old s = reissueTable s)) ∧
  (∀ (s : State) (d i : Nat), (d = 0 → plotsBad s (i / 16) ≤ 2 → afterRegulator d i s = s) ∧
    (d = 0 → 3 ≤ plotsBad s (i / 16) → plotsBad s (i / 16) ≤ 6 → chargeOf s (i / 16) ≤ ceilingOf s (i / 16) → afterRegulator d i s = s) ∧
    (d = 0 → 3 ≤ plotsBad s (i / 16) → plotsBad s (i / 16) ≤ 6 → ceilingOf s (i / 16) < chargeOf s (i / 16) →
      afterRegulator d i s = recordPowerNote 1 (rn (Num.ofRatio (ceilingOf s (i / 16)) (chargeOf s (i / 16))))
        ((ownerOf s (i / 16)).map (·.num)) s) ∧
    (d = 0 → 7 ≤ plotsBad s (i / 16) → afterRegulator d i s = tractOffline (i / 16) s) ∧
    (d = 1 ∨ d = 23 → afterRegulator d i s = if 5 ≤ failedOn s d then outOfService 2 s else s) ∧
    (2 ≤ d → d ≤ 22 → afterRegulator d i s = if 9 ≤ failedOn s d then wholeLayerFault d s else s)) ∧
  (∀ (s : State) (t : Nat), (plotsBad s t ≤ 2 → ceilingOf s t = Config.fullRate t) ∧
    (3 ≤ plotsBad s t → ceilingOf s t = (18 - plotsBad s t) * Config.fullRate t / 16)) ∧
  ∀ (s : State) (t : BitVec 6), started s = true →
    let r := findTract s t.toNat
    let n := t.toNat
    (r.power = .running → tractWanted s n = false →
      exec (.tractPark t) s = happens (updTract n (fun r => { r with power := .parked, groves := 0 }) s)) ∧
    (r.power ≠ .running ∨ tractWanted s n = true → exec (.tractPark t) s = happens s) ∧
    (r.power = .parked ∨ r.power = .off → tractWanted s n = true → exec (.tractWake t) s = happens (updTract n (fun r => { r with
      power := .poweringOn, groves := 0, stepped := false }) s)) ∧
    (r.power ≠ .parked → r.power ≠ .off → exec (.tractWake t) s = happens s) ∧
    (tractWanted s n = false → exec (.tractWake t) s = happens s) ∧
    (r.power = .poweringOn → r.paused = false → 100 * Config.groveCharge + packageEstimate s ≤ s.power.allowance →
      exec (.groveUngate t) s = happens (updTract n (fun r => { r with
        groves := r.groves + 1, power := if 63 ≤ r.groves then .running else .poweringOn }) s)) ∧
    (r.power ≠ .poweringOn ∨ r.paused = true ∨ s.power.allowance < 100 * Config.groveCharge + packageEstimate s →
      exec (.groveUngate t) s = happens s) ∧
    (r.power ≠ .poweringOn ∨ r.stepped = true → exec (.wakeDeferralLimit t) s = happens s) ∧
    (r.power = .poweringOn → r.stepped = false →
      let u := updTract n (fun r => { r with stepped := true }) s
      let near := fun k => k ∈ tractNeighbours n ∧ committedOf s k = none ∧ (findTract s k).power = .running
      ((∀ k, ¬near k) → exec (.wakeDeferralLimit t) s = happens u) ∧
      ∀ k, near k → (∀ j, near j → (findTract s j).est < (findTract s k).est ∨ (findTract s j).est = (findTract s k).est ∧ k ≤ j) →
        exec (.wakeDeferralLimit t) s = happens (updTract k (fun r => { r with m := max 1 (r.m - 4) }) u))

/-- A sample keeps each reading; where a trip condition then holds the device trips (clocks stopped, tag lines written back,
DRAM in self-refresh, THERMTRIP# and RAIL_OFF_REQ# asserted), else a loss of coolant with 8 rising sensors makes the state
ABRUPT with the effective cap at 20 % of CAP, and a temperature at a clamp limit begins the clamp; a slew that persists at
the recheck trips, and the state clears once no slew reaches 0.5 K/ms and R_meas is below 1.5 × R_nom. Two sensors of a plot
agree on the higher reading, or on the lower where one is implausible. Leakage is converted and kept; both estimates high
makes an area's temperature the lower of them and its sensor suspect, one alone is noted, and the reading is believed again
after 60 checks that agree with both within 6 K. The computation holds R_meas below 1,000 W and sets P_th, the warning and
the effective cap min(CAP, P_th) × k; k falls by 0.02 to 0.2 and rises by 0.01 to 1. The clamp ends and ALERT# is released
where no cause remains, a warning that lasts is recorded, and a stale inlet is taken as 40 °C. (That 6 K counts on both
sides: assumption 122.) (R363, R364, R365, R366, R367, R369, R370, R371, R372, R191.) -/
def Obligations.CoolingResponses : Prop :=
  (∀ (s : State) (rs : List Reading), alive s = true → rs.all Reading.wf = true →
    let plots := ((rs.filter fun r => r.die = 0).map fun r => r.sensor / 2).eraseDups
    let u := heatTracts (plots.foldl (fun s p => checkPair p s) (rs.foldl (fun s r => takeReading r s) s))
    (∀ x, tripCause u = some x → exec (.sensorSample rs) s = happens (trip x.die x.idx x.reading u)) ∧
    (tripCause u = none → u.thermal.abrupt = true ∨ risingFast u < 8 → anyAbove clampLimit u = false →
      exec (.sensorSample rs) s = happens (endSample u)) ∧
    (tripCause u = none → u.thermal.abrupt = false → 8 ≤ risingFast u → anyAbove clampLimit (declareAbrupt u) = false →
      exec (.sensorSample rs) s = happens (endSample (declareAbrupt u))) ∧
    (tripCause u = none → u.thermal.abrupt = true ∨ risingFast u < 8 → anyAbove clampLimit u = true →
      exec (.sensorSample rs) s = happens (endSample (beginClamp u))) ∧
    (tripCause u = none → u.thermal.abrupt = false → 8 ≤ risingFast u → anyAbove clampLimit (declareAbrupt u) = true →
      exec (.sensorSample rs) s = happens (endSample (beginClamp (declareAbrupt u))))) ∧
  (∀ s : State, (declareAbrupt s).thermal.abrupt = true ∧ (declareAbrupt s).thermal.effCap = s.power.cap / 5 ∧
    (beginClamp s).thermal.clamp = true) ∧
  (∀ (s : State) (r : Reading), (findSensor (takeReading r s) r.die.toNat r.sensor).reading = r.value) ∧
  (∀ (s : State) (d i : Nat) (v : Int), let t := trip d i v s
    t.start.halted = true ∧ t.start.selfRefresh = true ∧ t.dirtyTags = [] ∧ t.pins.thermtrip = true ∧ t.pins.railOff = true ∧
      t.mem = s.mem ∧ alive t = false) ∧
  (∀ (s : State) (plot : Nat), plotSuspect s plot = false → let x := findSensor s 0 (2 * plot)
    let y := findSensor s 0 (2 * plot + 1)
    (implausible x y = false → implausible y x = false → plotTemp s plot = max x.reading y.reading) ∧
    (implausible x y = true ∨ implausible y x = true → plotTemp s plot = min x.reading y.reading)) ∧
  (∀ d, d ≤ 23 → elasticLimit d = 16 * (if 2 ≤ d ∧ d ≤ 22 then 92 else 100) ∧ clampLimit d = 16 * (if 2 ≤ d ∧ d ≤ 22 then 95 else 102) ∧
    tripLimit d = 16 * (if 2 ≤ d ∧ d ≤ 22 then 100 else 105)) ∧
  (∀ (s : State) (rs : List Reading), alive s = true → rs.all Reading.wf = true →
    let u := rs.foldl (fun s r => takeReading r s) s
    (u.thermal.abrupt = false ∨ risingFast u < 8 → exec (.abruptRecheck rs) s = happens u) ∧
    (u.thermal.abrupt = true → 8 ≤ risingFast u → ∃ x ∈ u.thermal.sensors, x.suspect = false ∧ 32 < x.slew ∧
      exec (.abruptRecheck rs) s = happens (trip x.die x.idx x.reading u))) ∧
  (∀ s : State, alive s = true →
    (s.thermal.abrupt = true → (∀ x ∈ s.thermal.sensors, x.slew < 8) → 2 * s.thermal.rMeas < 3 * Config.rNom →
      exec .abruptClear s = happens (settleCap { s with thermal := { s.thermal with abrupt := false, k := 500 } })) ∧
    (s.thermal.abrupt = false ∨ 3 * Config.rNom ≤ 2 * s.thermal.rMeas ∨ (∃ x ∈ s.thermal.sensors, 8 ≤ x.slew) →
      exec .abruptClear s = happens s)) ∧
  (∀ (s : State) (l : BitVec 5) (a : BitVec 6) (i : Nat), alive s = true → leakLayer l = true → ∃ t : State,
    exec (.leakageMeasure l a i) s = happens t ∧ t = { s with thermal := { s.thermal with sensors := t.thermal.sensors } } ∧
    (findSensor t l.toNat a.toNat).leak = some (Config.leakageCurve l.toNat a.toNat i)) ∧
  (∀ s : State, alive s = true → ∃ t : State, exec .hiddenHotCheck s = happens t ∧ t.mem = s.mem ∧
    ∀ d i, d = 0 ∨ d = 23 → findSensor t d i = findSensor s d i) ∧
  (∀ (s : State) (d a : Nat) (l : Int), (findSensor s d a).leak = some l → let x := findSensor s d a
    (x.reading + 96 < l → x.reading + 96 < interpolated s d a → let y := findSensor (checkHidden d a s) d a
      y.suspect = true ∧ y.source ≠ 0 ∧ y.estimate = min l (interpolated s d a)) ∧
    ((x.reading + 96 < l ↔ interpolated s d a ≤ x.reading + 96) → let y := findSensor (checkHidden d a s) d a
      y.oneHigh = true ∧ y.suspect = x.suspect ∧ y.source = x.source ∧ y.agreeing = 0) ∧
    (l ≤ x.reading + 96 → interpolated s d a ≤ x.reading + 96 → let y := findSensor (checkHidden d a s) d a
      let agree := x.reading ≤ l + 96 ∧ x.reading ≤ interpolated s d a + 96
      y.suspect = x.suspect ∧ y.oneHigh = false ∧ (x.source = 0 → y.source = 0) ∧
      (x.source ≠ 0 → agree → y.agreeing = x.agreeing + 1 ∧ y.source = if 59 ≤ x.agreeing then 0 else x.source) ∧
      (x.source ≠ 0 → ¬ agree → y.agreeing = 0 ∧ y.source = x.source))) ∧
  (∀ (s : State) (n : Nat), alive s = true → ∃ t : State, exec (.thermalComputation n) s = happens t ∧ t.thermal.age = min n 65535 ∧
    (meanWatts perSecond s.power.measHist < 1000 → t.thermal.rMeas = s.thermal.rMeas) ∧
    (1000 ≤ meanWatts perSecond s.power.measHist → t.thermal.rMeas = Config.smoothRth s.thermal.rMeas
      (sampleRth s (meanWatts perSecond s.power.measHist))) ∧
    t.thermal.pTh = (if t.thermal.rMeas ≤ 0 then 2 ^ 32 - 1 else ((7325 - inletUsed s) * 100000 / t.thermal.rMeas).toNat) ∧
    t.thermal.k = s.thermal.k ∧ t.thermal.effCap = effectiveCap t ∧
    (t.thermal.warning = true ↔ (s.thermal.warn : Int) * Config.rNom ≤ 100 * t.thermal.rMeas ∨ 10 * t.thermal.pTh < admissionNeed (freqOf s))) ∧
  (∀ s : State, s.thermal.abrupt = false → effectiveCap s = min s.power.cap s.thermal.pTh * s.thermal.k / 1000) ∧
  (∀ s : State, alive s = true →
    (anyAbove elasticLimit s = true → exec (.kAdjust false) s = happens { s with thermal := { s.thermal with k := max 200 (s.thermal.k - 20) } }) ∧
    (anyAbove elasticLimit s = false → exec (.kAdjust false) s = happens s) ∧
    ((∀ d, d < 24 → dieTemp s d + 48 ≤ elasticLimit d) →
      exec (.kAdjust true) s = happens { s with thermal := { s.thermal with k := min 1000 (s.thermal.k + 10) } }) ∧
    ((∃ d, d < 24 ∧ elasticLimit d < dieTemp s d + 48) → exec (.kAdjust true) s = happens s)) ∧
  ∀ s : State, alive s = true →
    (s.thermal.clamp = true → clampHolds s = false →
      exec .clampEnd s = happens (paceAll { s with thermal := { s.thermal with clamp := false } })) ∧
    (s.thermal.clamp = false ∨ clampHolds s = true → exec .clampEnd s = happens s) ∧
    (s.thermal.warning = false → s.thermal.clamp = false → s.thermal.abrupt = false → s.thermal.flowLow = false →
      exec .alertRelease s = happens { s with pins := { s.pins with alert := false } }) ∧
    (s.thermal.warning = true ∨ s.thermal.clamp = true ∨ s.thermal.abrupt = true ∨ s.thermal.flowLow = true →
      exec .alertRelease s = happens s) ∧
    exec .warningNote s = happens (if s.thermal.warning then recordCooling 1 s else s) ∧
    exec .coolantStale s = happens { s with thermal := { s.thermal with reported := false } }

/-- An operator that may start, whose tracts run and none of whose input lines is lost once they have been read, has its
effect on what those reads returned, its free lines noted, is then completed, and its results travel to their lines; one
that may not start yet, or whose tracts do not run, has no effect. A descriptor that its second copy had to restore, or a
lost line that the step can rewrite, replays the step; a lost line that it cannot rewrite ends in LOST_DATA: it is kept with
the step. ATTN_CLEARING waits for the other members' parts and for units with work of their own, and for a repair read where
a granule fails its check; a collective waits for every contribution (BROADCAST for ROOT's alone), and each completes its
group operation; KV_SCATTER on a cache of one device writes, on a spanning cache it sends this member's answer, gives its
maxima once every member has answered, and acts once those of every sequence it touches have come. (The errors a read meets
are operands of the rows: assumption 78.) (R114, R116, R125, R141, R162, R168, R197, R210, R211, R234, R353, R407.) -/
def Obligations.OperatorsRunWhenTheyMay : Prop :=
  (∀ (part : BitVec 4) (op : BitVec 15) (err : ReadErrors) (e : Env) (s d t u : State),
    ∀ x ∈ [(Instr.scalePass, 0x0001, opScalePass), (Instr.quantise, 0x0002, opQuantise), (Instr.gemm, 0x0010, opGemm),
        (Instr.gemmBatched, 0x0011, opGemm), (Instr.gemmGrouped, 0x0012, opGrouped), (Instr.attnCanopy, 0x0020, opAttnCanopy),
        (Instr.gather, 0x0030, opGather), (Instr.scatter, 0x0031, opScatter), (Instr.embed, 0x0032, opEmbed),
        (Instr.topk, 0x0040, opTopk), (Instr.sort, 0x0041, opSort), (Instr.scan, 0x0042, opScan),
        (Instr.conv1d, 0x0050, opConv true), (Instr.conv2d, 0x0051, opConv false), (Instr.rmsnorm, 0x0060, opRmsnorm),
        (Instr.layernorm, 0x0061, opLayernorm), (Instr.softmax, 0x0062, opSoftmax), (Instr.eltwise, 0x0063, opEltwise),
        (Instr.sample, 0x0070, opSample), (Instr.optStep, 0x0090, opOptStep), (Instr.lossXent, 0x0091, opLoss),
        (Instr.attnCanopyBwd, 0x0120, opAttnBwd), (Instr.conv1dBwd, 0x0150, opConvBwd true),
        (Instr.conv2dBwd, 0x0151, opConvBwd false), (Instr.rmsnormBwd, 0x0160, opRmsnormBwd),
        (Instr.layernormBwd, 0x0161, opLayernormBwd), (Instr.softmaxBwd, 0x0162, opSoftmaxBwd)],
      (Starts x.2.1 part op.toNat err [] e s d t u → exec (x.1 part ⟨op, err⟩) s = e.ends err [] d t u (x.2.2 e (e.noted [] u))) ∧
      (tractsRun s part op.toNat = false → exec (x.1 part ⟨op, err⟩) s = .next s) ∧
      (started s = true → tractsRun s part op.toNat = true →
        (opEnv s part x.2.1 op.toNat = none → exec (x.1 part ⟨op, err⟩) s = happens s) ∧
        (opEnv s part x.2.1 op.toNat = some e → (e.step s).isSome = true → e.descriptors err s = (true, d) →
          exec (x.1 part ⟨op, err⟩) s = happens (replayStep e.part e.ctx e.op [] d)) ∧
        ∀ r r' l ls, opEnv s part x.2.1 op.toNat = some e → e.step s = some r → e.descriptors err s = (false, d) →
          t = e.readIn r err [] d → u = asReadLines err (e.changed err [] d) t → e.step u = some r' →
          linesIn u (some .lost) (e.reads u) = l :: ls →
          ((∀ k ∈ l :: ls, k ∈ e.rewritable u r') → exec (x.1 part ⟨op, err⟩) s =
            happens (e.stored (e.changed err [] d) t u (replayStep e.part e.ctx e.op (l :: ls) u))) ∧
          ((∃ k ∈ l :: ls, k ∉ e.rewritable u r') → exec (x.1 part ⟨op, err⟩) s = e.ends err [] d t u (e.updStep
            (fun r => { r with lost := some (lineSource u l, e.op, l * 64, ls.length + 1) })
            (if offGroves (opCode e.raw) then e.loseCopies (l :: ls) (x.2.2 e) (e.noted [] u) else x.2.2 e (e.noted [] u)))))) ∧
  (∀ (e : Env) (r : RunningStep) (s : State), e.step s = some r →
    e.step (e.finishOp s) = some { r with done := r.done ++ [e.op] } ∧ (e.finishOp s).mem = s.mem) ∧
  (∀ (part : BitVec 4) (op : BitVec 15) (err : ReadErrors) (s : State) (others : List AttnPartial) (peers : PeerAnswer)
      (cs : List Contribution), started s = true → tractsRun s part op.toNat = true →
    ∀ x ∈ [(Instr.attnClearing part ⟨op, err⟩ others, 0x21), (Instr.kvScatter part ⟨op, err⟩ peers, 0x22),
      (Instr.allReduce part ⟨op, err⟩ cs, 0x80), (Instr.reduceScatter part ⟨op, err⟩ cs, 0x81), (Instr.allGather part ⟨op, err⟩ cs, 0x82),
      (Instr.allToAll part ⟨op, err⟩ cs, 0x83), (Instr.broadcast part ⟨op, err⟩ cs, 0x84)],
      opEnv s part x.2 op.toNat = none → exec x.1 s = happens s) ∧
  (∀ (part : BitVec 4) (op : BitVec 15) (err : ReadErrors) (e : Env) (s d t u : State) (others : List AttnPartial),
    started s = true → tractsRun s part op.toNat = true → opEnv s part 0x21 op.toNat = some e →
    let js := e.unitJobs s others
    let r := runJobs err js s
    let canopy := (clearingReads e s).filter fun a =>
      decide (lineLayer (lineOf a) < 16) || !(jobGranules s js).contains (granuleOfLine (lineOf a))
    (clearingReady others e s = false ∨ (∃ j ∈ js, unitBusy (findUnit s j.unit) = true) →
      exec (.attnClearing part ⟨op, err⟩ others) s = happens s) ∧
    (clearingReady others e s = true → (∀ j ∈ js, unitBusy (findUnit s j.unit) = false) →
      (r.1 = false → exec (.attnClearing part ⟨op, err⟩ others) s = happens r.2) ∧
      (r.1 = true → Starts 0x21 part op.toNat err canopy e r.2 d t u →
        exec (.attnClearing part ⟨op, err⟩ others) s = e.ends err canopy d t u (opAttnClearing others e (e.noted canopy u))))) ∧
  (∀ (part : BitVec 4) (op : BitVec 15) (err : ReadErrors) (e : Env) (s d t u : State) (peers : PeerAnswer) (p : Partition) (c : Cache),
    started s = true → tractsRun s part op.toNat = true → opEnv s part 0x22 op.toNat = some e → e.cache s 0x10 = some (p, c) →
    let layer := e.f2 0x14
    let acts := kvActs e s c layer
    (c.layout = 0 → Starts 0x22 part op.toNat err [] e s d t u → exec (.kvScatter part ⟨op, err⟩ peers) s =
      e.ends err [] d t u (kvTravel e c.handle layer acts.1 (kvLocal e p c layer) (e.noted [] u))) ∧
    ∀ g, c.layout ≠ 0 → c.group.bind (findGroup s part) = some g →
      (g.epoch = 0 ∨ g.stopped = true → exec (.kvScatter part ⟨op, err⟩ peers) s = happens s) ∧
      (g.epoch ≠ 0 → g.stopped = false →
        let own := kvLacks s p c (kvNeed s part c layer acts.1)
        let v := sendAgree part g own s
        let heard := fun r => (g.agrees.find? fun x => x.1 = g.cseq && x.2.1 = r).map fun x => x.2.2
        let others := (List.range g.members.length).filter (· ≠ g.rank v)
        let lacks := own || peers.lacks || others.any fun r => heard r = some true
        let w := if lacks then v else giveMaxima e g c.handle layer acts.1 acts.2 v
        let answered := peers.all = true ∨ ∀ r ∈ others, heard r ≠ none
        let combined := lacks = true ∨ others = [] ∨ ∀ a ∈ acts.1, ∃ m ∈ peers.maxima, m.1 = a.seq
        (¬ answered → exec (.kvScatter part ⟨op, err⟩ peers) s = happens v) ∧
        (answered → ¬ combined → exec (.kvScatter part ⟨op, err⟩ peers) s = happens w) ∧
        (answered → combined → Starts 0x22 part op.toNat err [] e w d t u → exec (.kvScatter part ⟨op, err⟩ peers) s =
          e.ends err [] d t u (kvTravel e c.handle layer acts.1 (kvSpanning e g lacks c layer peers) (e.noted [] u))))) ∧
  (∀ (part : BitVec 4) (op : BitVec 15) (err : ReadErrors) (e : Env) (s d t u : State) (others : List Contribution),
    let w := e.noted [] u
    let own := e.view s (e.f2 0x08)
    let views := e.allViews s others fun _ => own.dims
    let whole := fun (_ : Nat) => List.range (prod (e.view w (e.f2 0x08)).unitDims)
    let ends := fun x => e.ends err [] d t u (e.groupDone (e.bits 0x10) x)
    (∀ vs, views = some vs →
      (Starts 0x80 part op.toNat err [] e s d t u → exec (.allReduce part ⟨op, err⟩ others) s =
        ends (opReduce vs (fun _ => 0) e (e.contribute vs 0 w))) ∧
      (Starts 0x81 part op.toNat err [] e s d t u → exec (.reduceScatter part ⟨op, err⟩ others) s =
        ends (e.joinMaxima others (let v := e.contribute vs (e.view w (e.f2 0x0A)).size w
          opReduce vs (fun n => e.rank w * n) e v))) ∧
      (Starts 0x82 part op.toNat err [] e s d t u → exec (.allGather part ⟨op, err⟩ others) s =
        ends (opAllGather vs e (e.sendCopies whole w)))) ∧
    (∀ vs, Starts 0x83 part op.toNat err [] e s d t u →
      e.allViews s others (fun c => setAt own.dims 0 fun _ => c.rows) = some vs → exec (.allToAll part ⟨op, err⟩ others) s =
        ends (e.joinMaxima others (opAllToAll vs (e.rank w) e (e.sendCopies (e.rowUnits w) w)))) ∧
    (∀ g, Starts 0x84 part op.toNat err [] e s d t u → e.group s = some g →
      let out := if e.f4 0x14 = e.rank w then e.sendCopies whole w else w
      (e.f4 0x14 = g.rank s → exec (.broadcast part ⟨op, err⟩ others) s = ends (opBroadcast own e out)) ∧
      ∀ c, e.f4 0x14 ≠ g.rank s → others.find? (fun c => c.rank = e.f4 0x14) = some c →
        exec (.broadcast part ⟨op, err⟩ others) s = ends (opBroadcast (contribView own.t own.dims c) e out)) ∧
    (started s = true → tractsRun s part op.toNat = true →
      (views = none → (opEnv s part 0x80 op.toNat = some e → exec (.allReduce part ⟨op, err⟩ others) s = happens s) ∧
        (opEnv s part 0x81 op.toNat = some e → exec (.reduceScatter part ⟨op, err⟩ others) s = happens s) ∧
        (opEnv s part 0x82 op.toNat = some e → exec (.allGather part ⟨op, err⟩ others) s = happens s)) ∧
      (e.allViews s others (fun c => setAt own.dims 0 fun _ => c.rows) = none → opEnv s part 0x83 op.toNat = some e →
        exec (.allToAll part ⟨op, err⟩ others) s = happens s) ∧
      ∀ g, e.group s = some g → e.f4 0x14 ≠ g.rank s → (∀ c ∈ others, c.rank ≠ e.f4 0x14) → opEnv s part 0x84 op.toNat = some e →
        exec (.broadcast part ⟨op, err⟩ others) s = happens s))

/-- Adding AA128 integers gives one result whatever the order and wherever the sum is divided, the NaN tag staying set, and
a re-alignment is the floor. Conversion to a binary format gives a nearest value, infinity beyond the largest. The rank
order is a permutation in which every entry ranks before the next, numbers before NaN, equal keys by index. Experts' rows
follow one another without overlap. Under a causal mask with a window a query sees exactly its window. A kernel place meets
an input place where the padded positions agree, and the backward form is its converse. A scan multiplies, adds and keeps
each state. max and min give NaN for NaN and do not depend on the order of their operands. (R57, R58, R61, R73, R119, R121,
R127, R129, R130, R131, R136, R145.) -/
def Obligations.SumsAndOrdersAreExact : Prop :=
  (∀ l k : List Acc, l.Perm k → l.foldl accAdd (some 0) = k.foldl accAdd (some 0)) ∧
  (∀ l k : List Acc, (l ++ k).foldl accAdd (some 0) = accAdd (l.foldl accAdd (some 0)) (k.foldl accAdd (some 0))) ∧
  (∀ l : List Acc, none ∈ l → l.foldl accAdd (some 0) = none) ∧
  (∀ (i : Int) (n : Nat), accShift (some i) n = some (i / 2 ^ n) ∧ accShift none n = none) ∧
  (∀ b : Acc, (∀ i, b = some i → -(2 ^ 127) < i ∧ i < 2 ^ 127) → bitsAcc (accBits b) = b) ∧
  (∀ f ∈ [Fmt.f16, Fmt.bf16, Fmt.f32], ∀ (b : Bool) (n d : Nat), 0 < d →
    let r := toBinary f (.fin b n d)
    (∀ m, m ≤ f.maxCode → r.1 % 2 ^ f.signBit ≤ f.maxCode →
      let x := magValue f.mbits f.emin (r.1 % 2 ^ f.signBit)
      let y := magValue f.mbits f.emin m
      ((n * x.2 : Int) - x.1 * d).natAbs * y.2 ≤ ((n * y.2 : Int) - y.1 * d).natAbs * x.2) ∧
    (r.1 / 2 ^ f.signBit = if b then 1 else 0) ∧ (f.maxCode < r.1 % 2 ^ f.signBit → r.1 % 2 ^ f.signBit = f.maxCode + 1 ∧
      (magValue f.mbits f.emin f.maxCode).1 * d < n * (magValue f.mbits f.emin f.maxCode).2)) ∧
  (∀ (down : Bool) (xs : List Machine.Num), (∀ x ∈ xs, 0 < x.den) → (rankOrder down xs).Perm (List.range xs.length) ∧
    (rankOrder down xs).Pairwise fun i j => rankBefore down (nth xs i .zero, i) (nth xs j .zero, j) = true) ∧
  (∀ (offs : List Nat) (t : Nat), ((expertRows offs t).1.length = offs.length - 1) ∧
    ((expertRows offs t).1.Pairwise fun a b => a.2 ≤ b.1) ∧ ∀ r ∈ (expertRows offs t).1, r.1 ≤ r.2) ∧
  (∀ w p j : Nat, 0 < w → (visible true w p j = true ↔ j ≤ p ∧ p < j + w)) ∧
  (∀ p j : Nat, (visible true 0 p j = true ↔ j ≤ p) ∧ visible false 0 p j = true) ∧
  (∀ o k st dil pad ext i : Nat, convIn o k st dil pad ext = some i ↔ i + pad = o * st + k * dil ∧ i < ext) ∧
  (∀ i k st dil pad ext o : Nat, 0 < st → (convBack i k st dil pad ext = some o ↔ o * st + k * dil = i + pad ∧ o < ext)) ∧
  (∀ (a x : Nat → F32) (n t : Nat) (h : F32), (scanChain a x n t h).length = n ∧
    ∀ i, i < n → nth (scanChain a x n t h) i f32Zero =
      ffma (a (t + i)) (if i = 0 then h else nth (scanChain a x n t h) (i - 1) f32Zero) (x (t + i))) ∧
  (∀ a b : F32, ((num32 a).isNan || (num32 b).isNan) = true → fmax a b = f32NaN ∧ fmin a b = f32NaN) ∧
  ∀ a b : F32, fmax a b = fmax b a ∧ fmin a b = fmin b a

/-- A value of magnitude at most 127 becomes the nearest integer, ties to even, in two's complement; a larger one becomes
127 or −127 with its sign, and counts as a saturation where the nearest integer lies beyond the limit; an infinite value
becomes 127 or −127 with its sign and counts as a saturation; a NaN becomes 0 and counts as non-finite. (R63.) -/
def Obligations.ConversionToInt8 : Prop :=
  (∀ (b : Bool) (n d : Nat), 0 < d → n ≤ 127 * d → ∃ m, m ≤ 127 ∧ 2 * n ≤ (2 * m + 1) * d ∧ 2 * m * d ≤ 2 * n + d ∧
    (2 * n = (2 * m + 1) * d ∨ 2 * m * d = 2 * n + d → m % 2 = 0) ∧
    toInt8 (.fin b n d) = ((BitVec.ofInt 8 (if b then -(m : Int) else m)).toNat, if m = 0 then .zero else .plain)) ∧
  (∀ (b : Bool) (n d : Nat), 0 < d → 127 * d < n →
    (toInt8 (.fin b n d)).1 = (BitVec.ofInt 8 (if b then -127 else 127)).toNat ∧
    (255 * d ≤ 2 * n → toInt8 (.fin b n d) = ((BitVec.ofInt 8 (if b then -127 else 127)).toNat, .saturated))) ∧
  (∀ b : Bool, toInt8 (.inf b) = ((BitVec.ofInt 8 (if b then -127 else 127)).toNat, .saturated)) ∧
  ∀ b : Bool, toInt8 (.nan b) = (0, .nonfinite)

/-- In a block where nothing waits, a packet that fails a check, and each command whose result is in its completion, leaves
everything but the queue pairs, what is driven, and BAR0's interrupt bits as it was. Bytes written to addresses, to a buffer
or to a tensor's planes change no byte of another line, and while no layer is being absorbed no other byte at all; they
change nothing but memory, its parity and tags, the tag lines to be written back, the counts of bursts and, on a layer being
absorbed, what is absorbed; a whole output of a format without blocks, its tensor without a health record, changes only its
plane and its SEQMAX entries. (R8, R69, R111, R184, R187, R189, R198, R323, R325, R326.) -/
def Obligations.WhatACommandDoesNotTouch : Prop :=
  (∀ (body : CmdBody) (s : State) (q : QueuePair) (p : Packet) (e : Stop), Quiet s → findPair s p.qp = some q → canFetch s q = true →
    passChecks (fetchedState p s) q p = .error e → onlyPort s (fetchPacket body p s)) ∧
  (∀ (s t : State) (p : Packet), Quiet s → ∀ x ∈ [Instr.queueStatus, .regionQuery, .hdmStatus, .cacheStatus, .clearingStatus, .memregRead,
      .layerMapRead, .partitionStatus, .healthRingStatus], exec (x p) s = .next t → onlyPort s t) ∧
  (∀ (s : State) (addrs : List Nat) (bytes : List Byte), Sound s → let t := writeAt addrs bytes s
    (∀ a, lineOf a ∉ addrs.map lineOf → memGet t.mem a = memGet s.mem a) ∧
    t = { s with mem := t.mem, parity := t.parity, tags := t.tags, dirtyTags := t.dirtyTags, laneCounts := t.laneCounts
                 absorbed := t.absorbed, layerRegs := t.layerRegs } ∧
    ((∀ l, onAbsorbed s l = false) → (∀ a, a ∉ addrs → memGet t.mem a = memGet s.mem a) ∧
      t.absorbed = s.absorbed ∧ t.layerRegs = s.layerRegs)) ∧
  (∀ (s : State) (q : QueuePair) (p : Packet) (b : Option (List Nat)) (dest : Nat) (bytes : List Byte), Sound s →
    let t := putBuffer q p b dest bytes s
    (∀ l a, b = some l → lineOf a ∉ l.map lineOf → memGet t.mem a = memGet s.mem a) ∧
    ((∀ l, onAbsorbed s l = false) → ∀ l a, b = some l → a ∉ l → memGet t.mem a = memGet s.mem a) ∧
    (b = none → t.mem = s.mem ∧ t.tags = s.tags ∧ t.parity = s.parity) ∧
    t.partitions = s.partitions ∧ t.pairs = s.pairs ∧ t.fabric = s.fabric ∧ t.power = s.power ∧ t.thermal = s.thermal ∧
      t.config = s.config ∧ t.firmware = s.firmware ∧ t.reserve = s.reserve ∧ t.channels = s.channels ∧ t.units = s.units) ∧
  (∀ (s : State) (e : Env) (i : Nat) (scales : Bool) (cells : List Host.Cell), Sound s → let t := e.writePlane i scales cells s
    ((e.tensor s i).locus = 1 → t = { s with groves := t.groves }) ∧
    ((e.tensor s i).locus ≠ 1 → let addrs := cells.map fun c => (e.tensor s i).byteAddr scales c.1
      (∀ a, lineOf a ∉ addrs.map lineOf → memGet t.mem a = memGet s.mem a) ∧
      ((∀ l, onAbsorbed s l = false) → ∀ a, a ∉ addrs → memGet t.mem a = memGet s.mem a))) ∧
  ∀ (s : State) (e : Env) (i : Nat) (val : Nat → Machine.Num) (bound : Bool), Sound s → (∀ l, onAbsorbed s l = false) →
    let x := e.tensor s i
    x.fmt.isBlock = false → x.health = false → ∀ a, a ∉ x.addrs (e.dims x) →
      (x.batched = true → ∀ q, q < nth (e.dims x) x.seqDim 1 → a ∉ seqMaxAddrs s x q) →
      memGet (e.writeAll i val bound s).mem a = memGet s.mem a
end

