-- ==== Sys2Proof/Laws/Memory.lean ====
section
/-! SUPPORT. Device memory as a list in canonical form: what a read gives after each operation, and that every
operation keeps the form. -/
namespace Sys2Proof.Machine

/-- Every address listed lies above `a`. -/
def above (a : Nat) (m : List Host.Cell) : Prop := ∀ c ∈ m, a < c.1

theorem wf_nil : Memory.wf [] = true := rfl

/-- The form, one entry at a time. -/
theorem wf_cons (k : Nat) (v : Byte) (m : List Host.Cell) :
    Memory.wf ((k, v) :: m) = true ↔ v ≠ 0 ∧ above k m ∧ Memory.wf m = true := by
  induction m generalizing k v with
  | nil => simp [Memory.wf, above]
  | cons c m ih =>
    obtain ⟨k', v'⟩ := c
    have e : Memory.wf ((k, v) :: (k', v') :: m) = (v != 0 && decide (k < k') && Memory.wf ((k', v') :: m)) := rfl
    rw [e]
    simp only [Bool.and_eq_true, bne_iff_ne, decide_eq_true_eq]
    constructor
    · rintro ⟨⟨hv, hk⟩, hm⟩
      refine ⟨hv, ?_, hm⟩
      intro c hc
      rcases List.mem_cons.1 hc with rfl | hc
      · exact hk
      · exact Nat.lt_trans hk (((ih k' v').1 hm).2.1 c hc)
    · rintro ⟨hv, ha, hm⟩
      exact ⟨⟨hv, ha (k', v') (List.mem_cons_self ..)⟩, hm⟩

/-- Below every listed address a read gives zero. -/
theorem memGet_above {a : Nat} {m : List Host.Cell} (h : above a m) {x : Nat} (hx : x ≤ a) : memGet m x = 0 := by
  induction m with
  | nil => rfl
  | cons c m ih =>
    obtain ⟨k, v⟩ := c
    have hk : a < k := h (k, v) (List.mem_cons_self ..)
    have : k ≠ x := by omega
    simp only [memGet, if_neg this]
    exact ih fun c hc => h c (List.mem_cons_of_mem _ hc)

theorem memSet_above {a x : Nat} {b : Byte} {m : List Host.Cell} (h : above a m) (hx : a < x) : above a (memSet m x b) := by
  induction m with
  | nil => unfold memSet; split <;> intro c hc <;> simp_all
  | cons c m ih =>
    obtain ⟨k, v⟩ := c
    have hk : a < k := h (k, v) (List.mem_cons_self ..)
    have hm : above a m := fun c hc => h c (List.mem_cons_of_mem _ hc)
    unfold memSet
    repeat' split
    all_goals intro c hc
    · exact h c hc
    · rcases List.mem_cons.1 hc with rfl | hc
      · exact hx
      · exact h c hc
    · exact hm c hc
    · rcases List.mem_cons.1 hc with rfl | hc
      · exact hx
      · exact hm c hc
    · rcases List.mem_cons.1 hc with rfl | hc
      · exact hk
      · exact ih hm c hc

/-- Writing one byte keeps the form. -/
theorem memSet_wf {m : List Host.Cell} (a : Nat) (b : Byte) (h : Memory.wf m = true) : Memory.wf (memSet m a b) = true := by
  induction m with
  | nil => unfold memSet; split <;> simp_all [Memory.wf]
  | cons c m ih =>
    obtain ⟨k, v⟩ := c
    obtain ⟨hv, ha, hm⟩ := (wf_cons k v m).1 h
    unfold memSet
    split
    · rename_i hlt
      split
      · exact h
      · rename_i hb
        refine (wf_cons _ _ _).2 ⟨hb, ?_, h⟩
        intro c hc
        rcases List.mem_cons.1 hc with rfl | hc
        · exact hlt
        · exact Nat.lt_trans hlt (ha c hc)
    · split
      · rename_i _ heq
        split
        · exact hm
        · rename_i hb
          subst heq
          exact (wf_cons _ _ _).2 ⟨hb, ha, hm⟩
      · rename_i h1 h2
        exact (wf_cons _ _ _).2 ⟨hv, memSet_above ha (by omega), ih hm⟩

/-- A read after a write of one byte. -/
theorem memGet_memSet {m : List Host.Cell} (h : Memory.wf m = true) (a x : Nat) (b : Byte) :
    memGet (memSet m a b) x = if x = a then b else memGet m x := by
  induction m with
  | nil =>
    unfold memSet
    split
    · rename_i hb
      by_cases hx : x = a <;> simp [memGet, hx, hb]
    · by_cases hx : x = a
      · simp [memGet, hx]
      · simp [memGet, hx, Ne.symm hx]
  | cons c m ih =>
    obtain ⟨k, v⟩ := c
    obtain ⟨hv, ha, hm⟩ := (wf_cons k v m).1 h
    have hz : ∀ x, x ≤ k → memGet m x = 0 := fun x hx => memGet_above ha hx
    unfold memSet
    split
    · rename_i hlt
      split
      · rename_i hb
        by_cases hxa : x = a
        · have hkx : k ≠ x := by omega
          simp [memGet, hxa, hb, hz a (by omega), show k ≠ a by omega]
        · simp [hxa]
      · by_cases hxa : x = a
        · subst hxa; simp [memGet]
        · have : a ≠ x := fun h => hxa h.symm
          simp [memGet, hxa, this]
    · split
      · rename_i _ heq
        subst heq
        split
        · rename_i hb
          by_cases hxa : x = a
          · subst hxa; simp [hb, hz x (Nat.le_refl _)]
          · have : a ≠ x := fun h => hxa h.symm
            simp [memGet, hxa, this]
        · by_cases hxa : x = a
          · subst hxa; simp [memGet]
          · have : a ≠ x := fun h => hxa h.symm
            simp [memGet, hxa, this]
      · by_cases hkx : k = x
        · subst hkx
          have : ¬ k = a := by omega
          simp [memGet, this]
        · simp [memGet, hkx, ih hm]

theorem memSetAll_nil (m : List Host.Cell) : memSetAll m [] = m := rfl

theorem memSetAll_cons (m : List Host.Cell) (c : Host.Cell) (cs : List Host.Cell) :
    memSetAll m (c :: cs) = memSetAll (memSet m c.1 c.2) cs := rfl

/-- Writing cells keeps the form. -/
theorem memSetAll_wf {m : List Host.Cell} (cells : List Host.Cell) (h : Memory.wf m = true) :
    Memory.wf (memSetAll m cells) = true := by
  induction cells generalizing m with
  | nil => exact h
  | cons c cs ih => exact ih (memSet_wf c.1 c.2 h)

/-- A byte that no cell names is unchanged by a write of cells. -/
theorem memGet_memSetAll_other {m : List Host.Cell} (cells : List Host.Cell) (h : Memory.wf m = true) (x : Nat)
    (hx : ∀ c ∈ cells, c.1 ≠ x) : memGet (memSetAll m cells) x = memGet m x := by
  induction cells generalizing m with
  | nil => rfl
  | cons c cs ih =>
    rw [memSetAll_cons, ih (memSet_wf c.1 c.2 h) fun d hd => hx d (List.mem_cons_of_mem _ hd), memGet_memSet h]
    have : x ≠ c.1 := fun e => hx c (List.mem_cons_self ..) e.symm
    simp [this]

theorem filter_above {a : Nat} {m : List Host.Cell} (p : Host.Cell → Bool) (h : above a m) : above a (m.filter p) :=
  fun c hc => h c (List.mem_filter.1 hc).1

/-- Removing bytes keeps the form. -/
theorem memErase_wf {m : List Host.Cell} (p : Nat → Bool) (h : Memory.wf m = true) : Memory.wf (memErase p m) = true := by
  unfold memErase
  induction m with
  | nil => rfl
  | cons c m ih =>
    obtain ⟨k, v⟩ := c
    obtain ⟨hv, ha, hm⟩ := (wf_cons k v m).1 h
    simp only [List.filter_cons]
    split
    · exact (wf_cons _ _ _).2 ⟨hv, filter_above _ ha, ih hm⟩
    · exact ih hm

/-- What is removed reads as zero; every other byte is unchanged. -/
theorem memGet_memErase (p : Nat → Bool) (m : List Host.Cell) (x : Nat) :
    memGet (memErase p m) x = if p x then 0 else memGet m x := by
  unfold memErase
  induction m with
  | nil => simp [memGet]
  | cons c m ih =>
    obtain ⟨k, v⟩ := c
    simp only [List.filter_cons]
    by_cases hk : k = x
    · subst hk
      by_cases hp : p k <;> simp_all [memGet]
    · by_cases hp : p k <;> simp_all [memGet]

/-! ### Parity (R187, R188) -/

theorem parityByte_wf {par : List Host.Cell} (a : Nat) (old new : Byte) (h : Memory.wf par = true) :
    Memory.wf (parityByte par a old new) = true := memSet_wf _ _ h

/-- Writing cells keeps the form of the parity bytes. -/
theorem putBoth_wf (p : Nat → Bool) (cells : List Host.Cell) {m par : List Host.Cell} (h : Memory.wf par = true) :
    Memory.wf (putBoth p (m, par) cells).2 = true := by
  induction cells generalizing m par with
  | nil => exact h
  | cons c cs ih =>
    refine ih (m := memSet m c.1 c.2) ?_
    dsimp only
    split
    · exact parityByte_wf _ _ _ h
    · exact h

theorem parity_fold_wf {α : Type} (f : α → Nat × Byte × Byte) (xs : List α) {par : List Host.Cell} (h : Memory.wf par = true) :
    Memory.wf (xs.foldl (fun par x => parityByte par (f x).1 (f x).2.1 (f x).2.2) par) = true := by
  induction xs generalizing par with
  | nil => exact h
  | cons x xs ih => exact ih (parityByte_wf _ _ _ h)

/-! ### Tags -/

theorem tagPut_mem {ts : List LineTag} {t u : LineTag} (h : u ∈ tagPut ts t) : u = t ∨ u ∈ ts := by
  induction ts with
  | nil => simpa [tagPut] using h
  | cons v ts ih =>
    unfold tagPut at h
    repeat' split at h
    · rcases List.mem_cons.1 h with h | h
      · exact .inl h
      · exact .inr h
    · rcases List.mem_cons.1 h with h | h
      · exact .inl h
      · exact .inr (List.mem_cons_of_mem _ h)
    · rcases List.mem_cons.1 h with h | h
      · exact .inr (h ▸ List.mem_cons_self ..)
      · exact (ih h).imp id (List.mem_cons_of_mem _)

/-- The tags are held in rising order of lines, one for each line. -/
def tagsRising (ts : List LineTag) : Prop := ts.Pairwise fun a b => a.line < b.line

/-- Setting a tag keeps the order. -/
theorem tagPut_rising {ts : List LineTag} (t : LineTag) (h : tagsRising ts) : tagsRising (tagPut ts t) := by
  unfold tagsRising at *
  induction ts with
  | nil => simp [tagPut]
  | cons u us ih =>
    obtain ⟨hu, hus⟩ := List.pairwise_cons.1 h
    unfold tagPut
    repeat' split
    · rename_i hlt
      refine List.pairwise_cons.2 ⟨fun v hv => ?_, h⟩
      rcases List.mem_cons.1 hv with rfl | hv
      · exact hlt
      · exact Nat.lt_trans hlt (hu v hv)
    · rename_i _ heq
      exact List.pairwise_cons.2 ⟨fun v hv => heq ▸ hu v hv, hus⟩
    · rename_i h1 h2
      refine List.pairwise_cons.2 ⟨fun v hv => ?_, ih hus⟩
      rcases tagPut_mem hv with rfl | hv
      · omega
      · exact hu v hv

/-- The tag of a line after a tag has been set. -/
theorem tagOf_tagPut {ts : List LineTag} (h : tagsRising ts) (t : LineTag) (l : Nat) :
    tagOf (tagPut ts t) l = if l = t.line then some t else tagOf ts l := by
  unfold tagsRising at *
  unfold tagOf
  induction ts with
  | nil => by_cases hl : l = t.line <;> simp [tagPut, hl, eq_comm]
  | cons u us ih =>
    obtain ⟨hu, hus⟩ := List.pairwise_cons.1 h
    unfold tagPut
    by_cases hl : l = t.line
    · subst hl
      split
      · simp
      · split
        · simp
        · rename_i h1 h2
          have h3 : u.line ≠ t.line := fun e => h2 e.symm
          simp [h3, ih hus]
    · have hn : t.line ≠ l := fun e => hl e.symm
      split
      · simp [hn]
      · split
        · rename_i _ heq
          simp [hn, ← heq]
        · by_cases hu' : u.line = l
          · simp [hu']
          · simp [hu', hl, ih hus]

theorem tags_filter_rising {ts : List LineTag} (p : LineTag → Bool) (h : tagsRising ts) : tagsRising (ts.filter p) :=
  List.Pairwise.filter p h

theorem tags_fold_rising (us : List LineTag) (f : LineTag → LineTag) {ts : List LineTag} (h : tagsRising ts) :
    tagsRising (us.foldl (fun ts t => tagPut ts (f t)) ts) := by
  induction us generalizing ts with
  | nil => exact h
  | cons u us ih => exact ih (tagPut_rising (f u) h)

end Sys2Proof.Machine
end

