-- ==== Sys2Proof/Laws/Kept.lean ====
section
/-! SUPPORT. What nothing in the block ever breaks: memory, parity and tags in their forms, the queue left alone, record numbers and
the fused SVN never falling. One lemma for each definition that gives a state (Kept1 to Kept5): it keeps what it was given. -/
namespace Sys2Proof.Machine

/-- From the recorder `a` the recorder `b` can come about: NEXT has not fallen, and records stay below it and in rising order. -/
structure RecKept (a b : Recorder) : Prop where
  next : a.next ≤ b.next
  below : (∀ e ∈ a.records, e.1 < a.next) → ∀ e ∈ b.records, e.1 < b.next
  rising : (∀ e ∈ a.records, e.1 < a.next) → (a.records.Pairwise fun x y => x.1 < y.1) → b.records.Pairwise fun x y => x.1 < y.1

/-- The SVN fused stays or rises. -/
def FwKept (a b : Firmware) : Prop := a.fusedSvn ≤ b.fusedSvn

/-- From `z` the state `s` can come about by what the block does. -/
structure Kept (z s : State) : Prop where
  mem : Memory.wf z.mem = true → Memory.wf s.mem = true
  parity : Memory.wf z.parity = true → Memory.wf s.parity = true
  tags : tagsRising z.tags → tagsRising s.tags
  recd : RecKept z.recorder s.recorder
  svn : z.firmware.fusedSvn ≤ s.firmware.fusedSvn
  pending : s.pending = z.pending

theorem RecKept.refl (a : Recorder) : RecKept a a := ⟨Nat.le_refl _, fun h => h, fun _ h => h⟩

theorem RecKept.same {a b : Recorder} (h : b.next = a.next) (h' : b.records = a.records) : RecKept a b :=
  ⟨Nat.le_of_eq h.symm, by rw [h, h']; exact fun h => h, by rw [h']; exact fun _ h => h⟩

theorem RecKept.trans {a b c : Recorder} (h : RecKept a b) (h' : RecKept b c) : RecKept a c :=
  ⟨Nat.le_trans h.next h'.next, fun x => h'.below (h.below x), fun x y => h'.rising (h.below x) (h.rising x y)⟩

theorem RecKept.push (a : Recorder) (bs : List Byte) : RecKept a (a.push bs) := by
  refine ⟨Nat.le_succ _, fun h e he => ?_, fun h hr => ?_⟩
  · simp only [Recorder.push, List.mem_append, List.mem_filter, List.mem_singleton] at he
    rcases he with ⟨he, -⟩ | rfl
    · exact Nat.lt_succ_of_lt (h e he)
    · exact Nat.lt_succ_self _
  · refine List.pairwise_append.2 ⟨hr.filter _, List.pairwise_singleton _ _, fun x hx y hy => ?_⟩
    rw [List.mem_singleton.1 hy]
    exact h x (List.mem_filter.1 hx).1

theorem FwKept.refl (a : Firmware) : FwKept a a := Nat.le_refl _

theorem FwKept.same {a b : Firmware} (h : b.fusedSvn = a.fusedSvn) : FwKept a b := Nat.le_of_eq h.symm

theorem Kept.refl (z : State) : Kept z z := ⟨fun h => h, fun h => h, fun h => h, RecKept.refl _, Nat.le_refl _, rfl⟩

/-- `Kept` by the fields it speaks of. -/
structure KeptFields (z : State) (pending : List Instr) (mem parity : List Host.Cell) (tags : List LineTag)
    (recorder : Recorder) (firmware : Firmware) : Prop where
  mem : Memory.wf z.mem = true → Memory.wf mem = true
  parity : Memory.wf z.parity = true → Memory.wf parity = true
  tags : tagsRising z.tags → tagsRising tags
  recd : RecKept z.recorder recorder
  svn : z.firmware.fusedSvn ≤ firmware.fusedSvn
  pending : pending = z.pending

theorem kept_mk {z : State}
    {pending : List Instr} {out : List Output} {draw : Nat} {order : Nat} {pins : Pins} {start : StartUp} {cxl :
    CxlPort} {bar : Bar0} {pairs : List QueuePair} {partitions : List Partition} {loading : List Loading} {mem :
    List Host.Cell} {parity : List Host.Cell} {tags : List LineTag} {dirtyTags : List (Nat × Nat × Nat)} {layers
    : List (BitVec 4)} {layersCold : List (BitVec 4)} {rehomedCold : Nat × Nat} {rootOut : Option Nat} {absorbed
    : List (Nat × Nat)} {layerRegs : List LayerRegs} {scrubbing : List Nat} {repairs : List U64} {training :
    List LaneTraining} {laneErrors : List (Nat × Nat)} {laneCounts : List LaneCtr} {channels : List ChannelRec}
    {phases : List (Nat × Nat × Nat)} {phasesAt : Option Nat} {units : List NbUnit} {testPeriod : Nat} {testRun
    : List Origin} {unitsPassed : Bool} {lattice : List LatticeCtr} {groves : List Grove} {mesh : List MeshLink}
    {routers : List Router} {distGen : U32} {net : List NetCtr} {netNoted : List Nat} {fabric : Fabric} {power :
    Power} {thermal : Thermal} {recorder : Recorder} {config : ConfigStore} {firmware : Firmware} {reserve :
    Reserve} :
    Kept z (State.mk pending out draw order pins start cxl bar pairs partitions loading mem parity tags
      dirtyTags layers layersCold rehomedCold rootOut absorbed layerRegs scrubbing repairs training laneErrors
      laneCounts channels phases phasesAt units testPeriod testRun unitsPassed lattice groves mesh routers
      distGen net netNoted fabric power thermal recorder config firmware reserve) ↔
      KeptFields z pending mem parity tags recorder firmware :=
  ⟨fun h => ⟨h.mem, h.parity, h.tags, h.recd, h.svn, h.pending⟩, fun h => ⟨h.mem, h.parity, h.tags, h.recd, h.svn, h.pending⟩⟩

/-- An update that leaves queue, memory, parity and tags alone. -/
theorem kept_same {z s : State} {r : Recorder} {f : Firmware} (h : Kept z s) (hr : RecKept s.recorder r)
    (hf : FwKept s.firmware f) : KeptFields z s.pending s.mem s.parity s.tags r f :=
  ⟨h.mem, h.parity, h.tags, h.recd.trans hr, Nat.le_trans h.svn hf, h.pending⟩

/-- An update of memory or tags. -/
theorem kept_mem {z s : State} {m : List Host.Cell} {ts : List LineTag} (h : Kept z s)
    (hm : Memory.wf s.mem = true → Memory.wf m = true) (ht : tagsRising s.tags → tagsRising ts) :
    KeptFields z s.pending m s.parity ts s.recorder s.firmware :=
  ⟨fun x => hm (h.mem x), h.parity, fun x => ht (h.tags x), h.recd, h.svn, h.pending⟩

/-- An update of memory and parity. -/
theorem kept_arrays {z s : State} {m par : List Host.Cell} (h : Kept z s) (hm : Memory.wf s.mem = true → Memory.wf m = true)
    (hp : Memory.wf s.parity = true → Memory.wf par = true) : KeptFields z s.pending m par s.tags s.recorder s.firmware :=
  ⟨fun x => hm (h.mem x), fun x => hp (h.parity x), h.tags, h.recd, h.svn, h.pending⟩

theorem kept_ite {z a b : State} {c : Prop} [Decidable c] (ha : Kept z a) (hb : Kept z b) : Kept z (if c then a else b) := by
  split
  · exact ha
  · exact hb

theorem kept_ite_snd {α : Type} {z : State} {a b : α × State} {c : Prop} [Decidable c] (ha : Kept z a.2) (hb : Kept z b.2) :
    Kept z (if c then a else b).2 := by
  split
  · exact ha
  · exact hb

/-- The state of an answer that has been taken apart. -/
theorem kept_snd {α : Type} {z s : State} {r : α × State} {a : α} (h : Kept z r.2) (e : r = (a, s)) : Kept z s := by
  subst e
  exact h

theorem kept_fst {α : Type} {z s : State} {r : State × α} {a : α} (h : Kept z r.1) (e : r = (s, a)) : Kept z s := by
  subst e
  exact h

/-- `Kept` of the state of an outcome, where it is a next state. -/
def keptOut (z : State) (o : Host.Outcome State Fault Refusal) : Prop := ∀ t, o = .next t → Kept z t

theorem kept_next {z s : State} (h : Kept z s) : keptOut z (.next s) := by
  intro t e
  cases e
  exact h

theorem kept_foldl {α : Type} {z s : State} {f : State → α → State} (l : List α) (hf : ∀ s x, Kept z s → Kept z (f s x))
    (h : Kept z s) : Kept z (l.foldl f s) := by
  induction l generalizing s with
  | nil => exact h
  | cons x l ih => exact ih (hf s x h)

theorem kept_foldl_snd {α β : Type} {z : State} {f : β × State → α → β × State} (l : List α) {b : β × State}
    (hf : ∀ b x, Kept z b.2 → Kept z (f b x).2) (h : Kept z b.2) : Kept z (l.foldl f b).2 := by
  induction l generalizing b with
  | nil => exact h
  | cons x l ih => exact ih (hf b x h)

theorem kept_foldl_fst {α β : Type} {z : State} {f : State × β → α → State × β} (l : List α) {b : State × β}
    (hf : ∀ b x, Kept z b.1 → Kept z (f b x).1) (h : Kept z b.1) : Kept z (l.foldl f b).1 := by
  induction l generalizing b with
  | nil => exact h
  | cons x l ih => exact ih (hf b x h)

theorem kept_repeat {z s : State} {f : State → State} (n : Nat) (hf : ∀ s, Kept z s → Kept z (f s)) (h : Kept z s) :
    Kept z (Nat.repeat f n s) := by
  induction n with
  | zero => exact h
  | succ n ih => exact hf _ ih

end Sys2Proof.Machine
end

