-- ==== Sys2Proof/Laws/Kept1.lean ====
section
/-! SUPPORT. `Kept`, one lemma for each definition that gives a state: the shared operations, pages, steps and jobs. -/
namespace Sys2Proof.Machine

theorem kept_putCells {z} (cells s) (hk : Kept z s) :
    Kept z (putCells cells s) :=
  kept_mk.2 (kept_arrays hk (memSetAll_wf _) (putBoth_wf _ _))

theorem kept_eraseLines {z} (p s) (hk : Kept z s) :
    Kept z (eraseLines p s) :=
  kept_mk.2 (kept_arrays hk (memErase_wf _) (parity_fold_wf (fun c : Host.Cell => (c.1, c.2, 0)) _))

theorem kept_rebuildLine {z} (l s) (hk : Kept z s) :
    Kept z (rebuildLine l s) :=
  kept_mk.2 (kept_mem hk (memSetAll_wf _) (fun h => h))

theorem kept_absorbStripe {z} (l s) (hk : Kept z s) :
    Kept z (absorbStripe l s) :=
  kept_mk.2 (kept_arrays (kept_rebuildLine l s hk) (fun h => h) (memErase_wf _))

theorem kept_countBursts {z} (core n s) (hk : Kept z s) :
    Kept z (countBursts core n s) := by
  unfold countBursts
  repeat'
    first
      | intro _
      | with_reducible
          first
            | assumption | apply kept_ite | apply kept_same
      | simp only [kept_mk] | exact RecKept.push _ _ | exact RecKept.same rfl rfl | exact FwKept.same rfl
      | (refine kept_snd ?_ (by assumption)) | (refine kept_fst ?_ (by assumption)) | dsimp only | split

theorem kept_writeLine {z} (gen s l cells) (hk : Kept z s) :
    Kept z (writeLine gen s l cells) := by
  unfold writeLine
  refine kept_ite hk (kept_mk.2 (kept_mem ?_ (fun h => h) (tagPut_rising _)))
  exact kept_countBursts _ _ _ (kept_putCells _ _ (kept_ite (kept_absorbStripe _ _ hk) hk))

theorem kept_writeCells {z} (gen cells s) (hk : Kept z s) :
    Kept z (writeCells gen cells s) := by
  unfold writeCells
  repeat'
    first
      | intro _
      | with_reducible
          first
            | assumption | apply kept_ite | apply kept_writeLine | apply kept_foldl
      | dsimp only | split

theorem kept_loseLine {z} (gen l s) (hk : Kept z s) :
    Kept z (loseLine gen l s) := by
  exact kept_mk.2 (kept_mem hk (fun h => h) (tagPut_rising _))

theorem kept_freeLines {z} (p s) (hk : Kept z s) :
    Kept z (freeLines p s) :=
  kept_mk.2 (kept_mem (kept_eraseLines p s hk) (fun h => h) (tags_filter_rising _))

theorem kept_garble {z} (l wrong s) (hk : Kept z s) :
    Kept z (garble l wrong s) := by
  unfold garble
  exact kept_ite (kept_mk.2 (kept_mem hk (memSetAll_wf _) (fun h => h))) hk

theorem kept_updPair {z} (qp f s) (hk : Kept z s) :
    Kept z (updPair qp f s) := by
  unfold updPair
  repeat'
    first
      | intro _
      | with_reducible
          first
            | assumption | apply kept_ite | apply kept_same
      | simp only [kept_mk] | exact RecKept.push _ _ | exact RecKept.same rfl rfl | exact FwKept.same rfl
      | dsimp only | split

theorem kept_updPart {z} (n f s) (hk : Kept z s) :
    Kept z (updPart n f s) := by
  unfold updPart
  repeat'
    first
      | intro _
      | with_reducible
          first
            | assumption | apply kept_ite | apply kept_same
      | simp only [kept_mk] | exact RecKept.push _ _ | exact RecKept.same rfl rfl | exact FwKept.same rfl
      | dsimp only | split

theorem kept_updCtx {z} (n c f s) (hk : Kept z s) :
    Kept z (updCtx n c f s) := by
  unfold updCtx
  repeat'
    first
      | intro _
      | with_reducible
          first
            | assumption | apply kept_ite | apply kept_same | apply kept_updPart
      | simp only [kept_mk] | exact RecKept.push _ _ | exact RecKept.same rfl rfl | exact FwKept.same rfl
      | dsimp only | split

theorem kept_updPlan {z} (n h f s) (hk : Kept z s) :
    Kept z (updPlan n h f s) := by
  unfold updPlan
  repeat'
    first
      | intro _
      | with_reducible
          first
            | assumption | apply kept_ite | apply kept_same | apply kept_updPart
      | simp only [kept_mk] | exact RecKept.push _ _ | exact RecKept.same rfl rfl | exact FwKept.same rfl
      | dsimp only | split

theorem kept_updCache {z} (n h f s) (hk : Kept z s) :
    Kept z (updCache n h f s) := by
  unfold updCache
  repeat'
    first
      | intro _
      | with_reducible
          first
            | assumption | apply kept_ite | apply kept_same | apply kept_updPart
      | simp only [kept_mk] | exact RecKept.push _ _ | exact RecKept.same rfl rfl | exact FwKept.same rfl
      | dsimp only | split

theorem kept_updUnit {z} (u f s) (hk : Kept z s) :
    Kept z (updUnit u f s) := by
  unfold updUnit
  repeat'
    first
      | intro _
      | with_reducible
          first
            | assumption | apply kept_ite | apply kept_same
      | simp only [kept_mk] | exact RecKept.push _ _ | exact RecKept.same rfl rfl | exact FwKept.same rfl
      | dsimp only | split

theorem kept_updLink {z} (n f s) (hk : Kept z s) :
    Kept z (updLink n f s) := by
  unfold updLink
  repeat'
    first
      | intro _
      | with_reducible
          first
            | assumption | apply kept_ite | apply kept_same
      | simp only [kept_mk] | exact RecKept.push _ _ | exact RecKept.same rfl rfl | exact FwKept.same rfl
      | dsimp only | split

theorem kept_updTract {z} (t f s) (hk : Kept z s) :
    Kept z (updTract t f s) := by
  unfold updTract
  repeat'
    first
      | intro _
      | with_reducible
          first
            | assumption | apply kept_ite | apply kept_same
      | simp only [kept_mk] | exact RecKept.push _ _ | exact RecKept.same rfl rfl | exact FwKept.same rfl
      | dsimp only | split

theorem kept_updLayer {z} (l f s) (hk : Kept z s) :
    Kept z (updLayer l f s) := by
  unfold updLayer
  repeat'
    first
      | intro _
      | with_reducible
          first
            | assumption | apply kept_ite | apply kept_same
      | simp only [kept_mk] | exact RecKept.push _ _ | exact RecKept.same rfl rfl | exact FwKept.same rfl
      | dsimp only | split

theorem kept_fireVector {z} (v s) (hk : Kept z s) :
    Kept z (fireVector v s) := by
  unfold fireVector
  repeat'
    first
      | intro _
      | with_reducible
          first
            | assumption | apply kept_ite | apply kept_same
      | simp only [kept_mk] | exact RecKept.push _ _ | exact RecKept.same rfl rfl | exact FwKept.same rfl
      | dsimp only | split

theorem kept_firePending {z} (s) (hk : Kept z s) :
    Kept z (firePending s) := by
  unfold firePending
  repeat'
    first
      | intro _
      | with_reducible
          first
            | assumption | apply kept_ite | apply kept_same | apply kept_foldl
      | simp only [kept_mk] | exact RecKept.push _ _ | exact RecKept.same rfl rfl | exact FwKept.same rfl
      | dsimp only | split

theorem kept_raiseEvent {z} (k s) (hk : Kept z s) :
    Kept z (raiseEvent k s) := by
  unfold raiseEvent
  repeat'
    first
      | intro _
      | with_reducible
          first
            | assumption | apply kept_ite | apply kept_same | apply kept_fireVector
      | simp only [kept_mk] | exact RecKept.push _ _ | exact RecKept.same rfl rfl | exact FwKept.same rfl
      | dsimp only | split

theorem kept_record {z} (cls typ sev part body s) (hk : Kept z s) :
    Kept z (record cls typ sev part body s) := by
  unfold record
  repeat'
    first
      | intro _
      | with_reducible
          first
            | assumption | apply kept_ite | apply kept_same | apply kept_raiseEvent
      | simp only [kept_mk] | exact RecKept.push _ _ | exact RecKept.same rfl rfl | exact FwKept.same rfl
      | dsimp only | split

theorem kept_recordHost {z} (kind n s) (hk : Kept z s) :
    Kept z (recordHost kind n s) := by
  unfold recordHost
  repeat'
    first
      | intro _
      | with_reducible
          first
            | assumption | apply kept_ite | apply kept_record
      | dsimp only | split

theorem kept_recordUncorr {z} (addr requester outcome part s) (hk : Kept z s) :
    Kept z (recordUncorr addr requester outcome part s) := by
  unfold recordUncorr
  repeat'
    first
      | intro _
      | with_reducible
          first
            | assumption | apply kept_ite | apply kept_record
      | dsimp only | split

theorem kept_recordRecovery {z} (kind outcome cause part s) (hk : Kept z s) :
    Kept z (recordRecovery kind outcome cause part s) := by
  unfold recordRecovery
  repeat'
    first
      | intro _
      | with_reducible
          first
            | assumption | apply kept_ite | apply kept_record
      | dsimp only | split

theorem kept_gather {z} (q w s) (hk : Kept z s) :
    Kept z (gather q w s) := by
  unfold gather
  repeat'
    first
      | intro _
      | with_reducible
          first
            | assumption | apply kept_ite | apply kept_same | apply kept_fireVector | apply kept_updPair
      | simp only [kept_mk] | exact RecKept.push _ _ | exact RecKept.same rfl rfl | exact FwKept.same rfl
      | dsimp only | split

theorem kept_emit {z} (q w s) (hk : Kept z s) :
    Kept z (emit q w s) := by
  unfold emit
  repeat'
    first
      | intro _
      | with_reducible
          first
            | assumption | apply kept_ite | apply kept_same | apply kept_gather | apply kept_updPair
      | simp only [kept_mk] | exact RecKept.push _ _ | exact RecKept.same rfl rfl | exact FwKept.same rfl
      | dsimp only | split

theorem kept_post {z} (qp w s) (hk : Kept z s) :
    Kept z (post qp w s) := by
  unfold post
  repeat'
    first
      | intro _
      | with_reducible
          first
            | assumption | apply kept_ite | apply kept_same | apply kept_emit | apply kept_updPair
      | simp only [kept_mk] | exact RecKept.push _ _ | exact RecKept.same rfl rfl | exact FwKept.same rfl
      | dsimp only | split

theorem kept_flush {z} (qp s) (hk : Kept z s) :
    Kept z (flush qp s) := by
  unfold flush
  repeat'
    first
      | intro _
      | with_reducible
          first
            | assumption | apply kept_ite | apply kept_same | apply kept_post | apply kept_updPair | apply kept_foldl
      | simp only [kept_mk] | exact RecKept.push _ _ | exact RecKept.same rfl rfl | exact FwKept.same rfl
      | dsimp only | split

theorem kept_finish {z} (o status detail result s) (hk : Kept z s) :
    Kept z (finish o status detail result s) := by
  unfold finish
  repeat'
    first
      | intro _
      | with_reducible
          first
            | assumption | apply kept_ite | apply kept_post
      | dsimp only | split

theorem kept_finishIf {z} (o status result s) (hk : Kept z s) :
    Kept z (finishIf o status result s) := by
  unfold finishIf
  repeat'
    first
      | intro _
      | with_reducible
          first
            | assumption | apply kept_ite | apply kept_finish
      | dsimp only | split

theorem kept_updMesh {z} (g d f s) (hk : Kept z s) :
    Kept z (updMesh g d f s) := by
  unfold updMesh
  repeat'
    first
      | intro _
      | with_reducible
          first
            | assumption | apply kept_ite | apply kept_same
      | simp only [kept_mk] | exact RecKept.push _ _ | exact RecKept.same rfl rfl | exact FwKept.same rfl
      | dsimp only | split

theorem kept_updNet {z} (g f s) (hk : Kept z s) :
    Kept z (updNet g f s) := by
  unfold updNet
  repeat'
    first
      | intro _
      | with_reducible
          first
            | assumption | apply kept_ite | apply kept_same
      | simp only [kept_mk] | exact RecKept.push _ _ | exact RecKept.same rfl rfl | exact FwKept.same rfl
      | dsimp only | split

theorem kept_travel {z} (kind a b n s) (hk : Kept z s) :
    Kept z (travel kind a b n s) := by
  unfold travel
  repeat'
    first
      | intro _
      | with_reducible
          first
            | assumption | apply kept_ite | apply kept_updNet | apply kept_foldl | apply kept_foldl_snd
      | (refine kept_snd ?_ (by assumption)) | (refine kept_fst ?_ (by assumption)) | dsimp only | split

theorem kept_cxlTravel {z} (core request response s) (hk : Kept z s) :
    Kept z (cxlTravel core request response s) := by
  unfold cxlTravel
  repeat'
    first
      | intro _
      | with_reducible
          first
            | assumption | apply kept_ite | apply kept_travel
      | (refine kept_snd ?_ (by assumption)) | (refine kept_fst ?_ (by assumption)) | dsimp only | split

theorem kept_shareTravel {z} (kind out place ls s) (hk : Kept z s) :
    Kept z (shareTravel kind out place ls s) := by
  unfold shareTravel
  repeat'
    first
      | intro _
      | with_reducible
          first
            | assumption | apply kept_ite | apply kept_travel | apply kept_foldl | apply kept_foldl_snd
      | (refine kept_snd ?_ (by assumption)) | (refine kept_fst ?_ (by assumption)) | dsimp only | split

theorem kept_ok {z} (result s) (hk : Kept z s) :
    Kept z (ok result s).2 := by
  unfold ok
  repeat'
    first
      | intro _
      | with_reducible
          first
            | assumption | apply kept_ite | apply kept_ite_snd
      | dsimp only | split

theorem kept_fail {z} (st s) (hk : Kept z s) :
    Kept z (fail st s).2 := by
  unfold fail
  repeat'
    first
      | intro _
      | with_reducible
          first
            | assumption | apply kept_ite | apply kept_ite_snd
      | dsimp only | split

theorem kept_Stop.reply {z} (e s) (hk : Kept z s) :
    Kept z (Stop.reply e s).2 := by
  unfold Stop.reply
  repeat'
    first
      | intro _
      | with_reducible
          first
            | assumption | apply kept_ite | apply kept_ite_snd
      | dsimp only | split

theorem kept_writeAt {z} (addrs bytes s) (hk : Kept z s) :
    Kept z (writeAt addrs bytes s) := by
  unfold writeAt
  repeat'
    first
      | intro _
      | with_reducible
          first
            | assumption | apply kept_ite | apply kept_writeCells
      | dsimp only | split

theorem kept_putBuffer {z} (q p target a bytes s) (hk : Kept z s) :
    Kept z (putBuffer q p target a bytes s) := by
  unfold putBuffer
  repeat'
    first
      | intro _
      | with_reducible
          first
            | assumption | apply kept_ite | apply kept_same | apply kept_writeAt | apply kept_recordHost
      | simp only [kept_mk] | exact RecKept.push _ _ | exact RecKept.same rfl rfl | exact FwKept.same rfl
      | dsimp only | split

theorem kept_copyOut {z} (q p align dest size need bytes result s) (hk : Kept z s) :
    Kept z (copyOut q p align dest size need bytes result s).2 := by
  unfold copyOut
  repeat'
    first
      | intro _
      | with_reducible
          first
            | assumption | apply kept_ite | apply kept_fail | apply kept_Stop.reply | apply kept_ok
            | apply kept_putBuffer | apply kept_ite_snd
      | (refine kept_snd ?_ (by assumption)) | dsimp only | split

theorem kept_settleReserve {z} (s) (hk : Kept z s) :
    Kept z (settleReserve s) := by
  unfold settleReserve
  repeat'
    first
      | intro _
      | with_reducible
          first
            | assumption | apply kept_ite | apply kept_same | apply kept_raiseEvent | apply kept_record
            | apply kept_foldl
      | simp only [kept_mk] | exact RecKept.push _ _ | exact RecKept.same rfl rfl | exact FwKept.same rfl
      | dsimp only | split

theorem kept_firebreak {z} (row stamp owner s) (hk : Kept z s) :
    Kept z (firebreak row stamp owner s) := by
  unfold firebreak
  repeat'
    first
      | intro _
      | with_reducible
          first
            | assumption | apply kept_ite | apply kept_same | apply kept_settleReserve | apply kept_record
      | simp only [kept_mk] | exact RecKept.push _ _ | exact RecKept.same rfl rfl | exact FwKept.same rfl
      | dsimp only | split

theorem kept_queueError {z} (qp s) (hk : Kept z s) :
    Kept z (queueError qp s) := by
  unfold queueError
  repeat'
    first
      | intro _
      | with_reducible
          first
            | assumption | apply kept_ite | apply kept_same | apply kept_recordHost | apply kept_raiseEvent
      | simp only [kept_mk] | exact RecKept.push _ _ | exact RecKept.same rfl rfl | exact FwKept.same rfl
      | dsimp only | split

theorem kept_stopPair {z} (qp s) (hk : Kept z s) :
    Kept z (stopPair qp s) := by
  unfold stopPair
  repeat'
    first
      | intro _
      | with_reducible
          first
            | assumption | apply kept_ite | apply kept_same | apply kept_updPair
      | simp only [kept_mk] | exact RecKept.push _ _ | exact RecKept.same rfl rfl | exact FwKept.same rfl
      | dsimp only | split

theorem kept_Env.updStep {z} (e f s) (hk : Kept z s) :
    Kept z (Env.updStep e f s) := by
  unfold Env.updStep
  repeat'
    first
      | intro _
      | with_reducible
          first
            | assumption | apply kept_ite | apply kept_same | apply kept_updCtx
      | simp only [kept_mk] | exact RecKept.push _ _ | exact RecKept.same rfl rfl | exact FwKept.same rfl
      | dsimp only | split

theorem kept_updGrove {z} (g f s) (hk : Kept z s) :
    Kept z (updGrove g f s) := by
  unfold updGrove
  repeat'
    first
      | intro _
      | with_reducible
          first
            | assumption | apply kept_ite | apply kept_same
      | simp only [kept_mk] | exact RecKept.push _ _ | exact RecKept.same rfl rfl | exact FwKept.same rfl
      | (refine kept_snd ?_ (by assumption)) | (refine kept_fst ?_ (by assumption)) | dsimp only | split

theorem kept_writeStores {z} (cells s) (hk : Kept z s) :
    Kept z (writeStores cells s) := by
  unfold writeStores
  repeat'
    first
      | intro _
      | with_reducible
          first
            | assumption | apply kept_ite | apply kept_updGrove | apply kept_foldl | apply kept_foldl_snd
            | apply kept_same
      | simp only [kept_mk] | exact RecKept.push _ _ | exact RecKept.same rfl rfl | exact FwKept.same rfl
      | (refine kept_snd ?_ (by assumption)) | (refine kept_fst ?_ (by assumption)) | dsimp only | split

theorem kept_Env.writePlane {z} (e i scales cells s) (hk : Kept z s) :
    Kept z (Env.writePlane e i scales cells s) := by
  unfold Env.writePlane
  repeat'
    first
      | intro _
      | with_reducible
          first
            | assumption | apply kept_ite | apply kept_writeStores | apply kept_Env.updStep | apply kept_writeCells
      | dsimp only | split

theorem kept_Env.setMax {z} (e i m s) (hk : Kept z s) :
    Kept z (Env.setMax e i m s) := by
  unfold Env.setMax
  repeat'
    first
      | intro _
      | with_reducible
          first
            | assumption | apply kept_ite | apply kept_same | apply kept_updPlan
      | simp only [kept_mk] | exact RecKept.push _ _ | exact RecKept.same rfl rfl | exact FwKept.same rfl
      | dsimp only | split

theorem kept_Env.setSeqMax {z} (e i ms s) (hk : Kept z s) :
    Kept z (Env.setSeqMax e i ms s) := by
  unfold Env.setSeqMax
  repeat'
    first
      | intro _
      | with_reducible
          first
            | assumption | apply kept_ite | apply kept_writeCells
      | dsimp only | split

theorem kept_Env.putMaxima {z} (e i ms s) (hk : Kept z s) :
    Kept z (Env.putMaxima e i ms s) := by
  unfold Env.putMaxima
  repeat'
    first
      | intro _
      | with_reducible
          first
            | assumption | apply kept_ite | apply kept_Env.setMax | apply kept_Env.setSeqMax | apply kept_foldl
      | dsimp only | split

theorem kept_Env.measure {z} (e i s) (hk : Kept z s) :
    Kept z (Env.measure e i s) := by
  unfold Env.measure
  repeat'
    first
      | intro _
      | with_reducible
          first
            | assumption | apply kept_ite | apply kept_Env.putMaxima
      | dsimp only | split

theorem kept_publish {z} (part ctx bytes s) (hk : Kept z s) :
    Kept z (publish part ctx bytes s) := by
  unfold publish
  repeat'
    first
      | intro _
      | with_reducible
          first
            | assumption | apply kept_ite | apply kept_updCtx | apply kept_writeAt
      | dsimp only | split

theorem kept_Env.health {z} (e i c bound s) (hk : Kept z s) :
    Kept z (Env.health e i c bound s) := by
  unfold Env.health
  repeat'
    first
      | intro _
      | with_reducible
          first
            | assumption | apply kept_ite | apply kept_publish | apply kept_Env.updStep
      | dsimp only | split

theorem kept_Env.note {z} (e kind count s) (hk : Kept z s) :
    Kept z (Env.note e kind count s) := by
  unfold Env.note
  repeat'
    first
      | intro _
      | with_reducible
          first
            | assumption | apply kept_ite | apply kept_same | apply kept_Env.updStep
      | simp only [kept_mk] | exact RecKept.push _ _ | exact RecKept.same rfl rfl | exact FwKept.same rfl
      | dsimp only | split

theorem kept_Env.writeSome {z} (e i ks val s) (hk : Kept z s) :
    Kept z (Env.writeSome e i ks val s).1 := by
  unfold Env.writeSome
  repeat'
    first
      | intro _
      | with_reducible
          first
            | assumption | apply kept_ite | apply kept_Env.writePlane
      | dsimp only | split

theorem kept_Env.writeAll {z} (e i val bound s) (hk : Kept z s) :
    Kept z (Env.writeAll e i val bound s) := by
  unfold Env.writeAll
  repeat'
    first
      | intro _
      | with_reducible
          first
            | assumption | apply kept_ite | apply kept_Env.writeSome | apply kept_Env.health | apply kept_Env.measure
      | (refine kept_fst ?_ (by assumption)) | dsimp only | split

theorem kept_Env.write32 {z} (e i val s) (hk : Kept z s) :
    Kept z (Env.write32 e i val s) := by
  unfold Env.write32
  repeat'
    first
      | intro _
      | with_reducible
          first
            | assumption | apply kept_ite | apply kept_Env.writeAll
      | dsimp only | split

theorem kept_Env.writeAcc {z} (e i ks val s) (hk : Kept z s) :
    Kept z (Env.writeAcc e i ks val s) := by
  unfold Env.writeAcc
  repeat'
    first
      | intro _
      | with_reducible
          first
            | assumption | apply kept_ite | apply kept_Env.writePlane
      | dsimp only | split

theorem kept_Env.writeAnchored {z} (e i val anchor bound s) (hk : Kept z s) :
    Kept z (Env.writeAnchored e i val anchor bound s) := by
  unfold Env.writeAnchored
  repeat'
    first
      | intro _
      | with_reducible
          first
            | assumption | apply kept_ite | apply kept_Env.writeAcc | apply kept_Env.putMaxima | apply kept_Env.note
            | apply kept_Env.health
      | dsimp only | split

theorem kept_Env.putIndex {z} (e off vals s) (hk : Kept z s) :
    Kept z (Env.putIndex e off vals s) := by
  unfold Env.putIndex
  repeat'
    first
      | intro _
      | with_reducible
          first
            | assumption | apply kept_ite | apply kept_writeCells
      | dsimp only | split

theorem kept_updLattice {z} (g f s) (hk : Kept z s) :
    Kept z (updLattice g f s) := by
  unfold updLattice
  repeat'
    first
      | intro _
      | with_reducible
          first
            | assumption | apply kept_ite | apply kept_same
      | simp only [kept_mk] | exact RecKept.push _ _ | exact RecKept.same rfl rfl | exact FwKept.same rfl
      | (refine kept_snd ?_ (by assumption)) | (refine kept_fst ?_ (by assumption)) | dsimp only | split

theorem kept_Env.workGrove {z} (e x deal split nth_ g s) (hk : Kept z s) :
    Kept z (Env.workGrove e x deal split nth_ g s).1 := by
  unfold Env.workGrove
  repeat'
    first
      | intro _
      | with_reducible
          first
            | assumption | apply kept_ite | apply kept_updLattice | apply kept_updGrove | apply kept_foldl
            | apply kept_foldl_snd | apply kept_same
      | simp only [kept_mk] | exact RecKept.push _ _ | exact RecKept.same rfl rfl | exact FwKept.same rfl
      | (refine kept_snd ?_ (by assumption)) | (refine kept_fst ?_ (by assumption)) | dsimp only | split

theorem kept_Env.lattices {z} (e x s) (hk : Kept z s) :
    Kept z (Env.lattices e x s).1 :=
  kept_foldl_fst _ (fun _ _ hb => kept_Env.workGrove _ _ _ _ _ _ _ hb) hk

theorem kept_Env.clearLattices {z} (e s) (hk : Kept z s) :
    Kept z (Env.clearLattices e s) := by
  unfold Env.clearLattices
  repeat'
    first
      | intro _
      | with_reducible
          first
            | assumption | apply kept_ite | apply kept_updGrove | apply kept_foldl | apply kept_foldl_snd
            | apply kept_same
      | simp only [kept_mk] | exact RecKept.push _ _ | exact RecKept.same rfl rfl | exact FwKept.same rfl
      | (refine kept_snd ?_ (by assumption)) | (refine kept_fst ?_ (by assumption)) | dsimp only | split

theorem kept_openPartial {z} (c e held i s) (hk : Kept z s) :
    Kept z (openPartial c e held i s) := by
  unfold openPartial
  repeat'
    first
      | intro _
      | with_reducible
          first
            | assumption | apply kept_ite | apply kept_updUnit | apply kept_same
      | simp only [kept_mk] | exact RecKept.push _ _ | exact RecKept.same rfl rfl | exact FwKept.same rfl
      | (refine kept_snd ?_ (by assumption)) | (refine kept_fst ?_ (by assumption)) | dsimp only | split

theorem kept_reseal {z} (p c r held i s) (hk : Kept z s) :
    Kept z (reseal p c r held i s) := by
  unfold reseal
  repeat'
    first
      | intro _
      | with_reducible
          first
            | assumption | apply kept_ite | apply kept_same | apply kept_openPartial | apply kept_updUnit
      | simp only [kept_mk] | exact RecKept.push _ _ | exact RecKept.same rfl rfl | exact FwKept.same rfl
      | dsimp only | split

theorem kept_resealFrom {z} (p c r held first s) (hk : Kept z s) :
    Kept z (resealFrom p c r held first s) := by
  unfold resealFrom
  repeat'
    first
      | intro _
      | with_reducible
          first
            | assumption | apply kept_ite | apply kept_reseal | apply kept_foldl
      | dsimp only | split

theorem kept_openPage {z} (c root loc s) (hk : Kept z s) :
    Kept z (openPage c root loc s) := by
  unfold openPage
  repeat'
    first
      | intro _
      | with_reducible
          first
            | assumption | apply kept_ite | apply kept_same | apply kept_updUnit
      | simp only [kept_mk] | exact RecKept.push _ _ | exact RecKept.same rfl rfl | exact FwKept.same rfl
      | dsimp only | split

theorem kept_attachPage {z} (part h seq layer s) (hk : Kept z s) :
    Kept z (attachPage part h seq layer s) := by
  unfold attachPage
  repeat'
    first
      | intro _
      | with_reducible
          first
            | assumption | apply kept_ite | apply kept_updCache | apply kept_writeCells
      | dsimp only | split

theorem kept_freePage {z} (p c root loc s) (hk : Kept z s) :
    Kept z (freePage p c root loc s) := by
  unfold freePage
  repeat'
    first
      | intro _
      | with_reducible
          first
            | assumption | apply kept_ite | apply kept_openPage | apply kept_freeLines
      | dsimp only | split

theorem kept_freePages {z} (p c l s) (hk : Kept z s) :
    Kept z (freePages p c l s) := by
  unfold freePages
  repeat'
    first
      | intro _
      | with_reducible
          first
            | assumption | apply kept_ite | apply kept_freePage | apply kept_foldl
      | dsimp only | split

theorem kept_truncateLayer {z} (part h seq layer len keepPages s) (hk : Kept z s) :
    Kept z (truncateLayer part h seq layer len keepPages s) := by
  unfold truncateLayer
  repeat'
    first
      | intro _
      | with_reducible
          first
            | assumption | apply kept_ite | apply kept_same | apply kept_freePages | apply kept_writeCells
            | apply kept_resealFrom | apply kept_updCache
      | simp only [kept_mk] | exact RecKept.push _ _ | exact RecKept.same rfl rfl | exact FwKept.same rfl
      | dsimp only | split

theorem kept_releaseSeq {z} (part h seq s) (hk : Kept z s) :
    Kept z (releaseSeq part h seq s) := by
  unfold releaseSeq
  repeat'
    first
      | intro _
      | with_reducible
          first
            | assumption | apply kept_ite | apply kept_updCache | apply kept_freePages
      | dsimp only | split

theorem kept_keepLines {z} (p c r first s) (hk : Kept z s) :
    Kept z (keepLines p c r first s) := by
  unfold keepLines
  repeat'
    first
      | intro _
      | with_reducible
          first
            | assumption | apply kept_ite | apply kept_updCtx
      | (refine kept_snd ?_ (by assumption)) | (refine kept_fst ?_ (by assumption)) | dsimp only | split

theorem kept_putBack {z} (s x) (hk : Kept z s) :
    Kept z (putBack s x) := by
  unfold putBack
  repeat'
    first
      | intro _
      | with_reducible
          first
            | assumption | apply kept_ite | apply kept_putCells | apply kept_updUnit
      | (refine kept_snd ?_ (by assumption)) | (refine kept_fst ?_ (by assumption)) | dsimp only | split

theorem kept_restoreCaches {z} (part ctx s) (hk : Kept z s) :
    Kept z (restoreCaches part ctx s) := by
  unfold restoreCaches
  repeat'
    first
      | intro _
      | with_reducible
          first
            | assumption | apply kept_foldl | apply kept_putBack | apply kept_openPartial | apply kept_freePages
            | apply kept_updCache
      | dsimp only | split

theorem kept_release {z} (part ctx plan steps late s) (hk : Kept z s) :
    Kept z (release part ctx plan steps late s) := by
  unfold release
  repeat'
    first
      | intro _
      | with_reducible
          first
            | assumption | apply kept_ite | apply kept_same | apply kept_finish | apply kept_updCtx
            | apply kept_foldl
      | simp only [kept_mk] | exact RecKept.push _ _ | exact RecKept.same rfl rfl | exact FwKept.same rfl
      | dsimp only | split

theorem kept_pumpSet {z} (part ctx s) (hk : Kept z s) :
    Kept z (pumpSet part ctx s) := by
  unfold pumpSet
  repeat'
    first
      | intro _
      | with_reducible
          first
            | assumption | apply kept_ite | apply kept_release | apply kept_updCtx
      | dsimp only | split

theorem kept_pumpSingle {z} (part ctx s) (hk : Kept z s) :
    Kept z (pumpSingle part ctx s) := by
  unfold pumpSingle
  repeat'
    first
      | intro _
      | with_reducible
          first
            | assumption | apply kept_ite | apply kept_same | apply kept_release | apply kept_updCtx
      | simp only [kept_mk] | exact RecKept.push _ _ | exact RecKept.same rfl rfl | exact FwKept.same rfl
      | dsimp only | split

theorem kept_pumpCtx {z} (part ctx s) (hk : Kept z s) :
    Kept z (pumpCtx part ctx s) := by
  unfold pumpCtx
  repeat'
    first
      | intro _
      | with_reducible
          first
            | assumption | apply kept_ite | apply kept_pumpSet | apply kept_pumpSingle | apply kept_repeat
      | dsimp only | split

theorem kept_pump {z} (s) (hk : Kept z s) :
    Kept z (pump s) := by
  unfold pump
  repeat'
    first
      | intro _
      | with_reducible
          first
            | assumption | apply kept_ite | apply kept_pumpCtx | apply kept_foldl
      | dsimp only | split

theorem kept_makeEligible {z} (part ctx h s) (hk : Kept z s) :
    Kept z (makeEligible part ctx h s) := by
  unfold makeEligible
  repeat'
    first
      | intro _
      | with_reducible
          first
            | assumption | apply kept_ite | apply kept_same | apply kept_pump | apply kept_updCtx
      | simp only [kept_mk] | exact RecKept.push _ _ | exact RecKept.same rfl rfl | exact FwKept.same rfl
      | dsimp only | split

theorem kept_releaseLate {z} (part ctx plan s) (hk : Kept z s) :
    Kept z (releaseLate part ctx plan s) := by
  unfold releaseLate
  repeat'
    first
      | intro _
      | with_reducible
          first
            | assumption | apply kept_ite | apply kept_same | apply kept_pump | apply kept_updCtx
      | simp only [kept_mk] | exact RecKept.push _ _ | exact RecKept.same rfl rfl | exact FwKept.same rfl
      | dsimp only | split

theorem kept_releaseFilled {z} (part plan fill wait s) (hk : Kept z s) :
    Kept z (releaseFilled part plan fill wait s) := by
  unfold releaseFilled
  repeat'
    first
      | intro _
      | with_reducible
          first
            | assumption | apply kept_ite | apply kept_same | apply kept_pump | apply kept_updPart
      | simp only [kept_mk] | exact RecKept.push _ _ | exact RecKept.same rfl rfl | exact FwKept.same rfl
      | dsimp only | split

theorem kept_cancelHeld {z} (h s) (hk : Kept z s) :
    Kept z (cancelHeld h s) := by
  unfold cancelHeld
  repeat'
    first
      | intro _
      | with_reducible
          first
            | assumption | apply kept_ite | apply kept_same | apply kept_finish
      | simp only [kept_mk] | exact RecKept.push _ _ | exact RecKept.same rfl rfl | exact FwKept.same rfl
      | dsimp only | split

theorem kept_cancelQueue {z} (qp s) (hk : Kept z s) :
    Kept z (cancelQueue qp s) := by
  unfold cancelQueue
  repeat'
    first
      | intro _
      | with_reducible
          first
            | assumption | apply kept_ite | apply kept_cancelHeld | apply kept_foldl
      | dsimp only | split

theorem kept_cancelTag {z} (o s) (hk : Kept z s) :
    Kept z (cancelTag o s).2 := by
  unfold cancelTag
  repeat'
    first
      | intro _
      | with_reducible
          first
            | assumption | apply kept_ite | apply kept_cancelHeld | apply kept_ite_snd
      | dsimp only | split

theorem kept_fillBindings {z} (p q steps s) (hk : Kept z s) :
    Kept z (fillBindings p q steps s) := by
  unfold fillBindings
  repeat'
    first
      | intro _
      | with_reducible
          first
            | assumption | apply kept_ite | apply kept_writeCells
      | dsimp only | split

theorem kept_freshGroves {z} (p s) (hk : Kept z s) :
    Kept z (freshGroves p s) := by
  unfold freshGroves
  repeat'
    first
      | intro _
      | with_reducible
          first
            | assumption | apply kept_ite | apply kept_same
      | simp only [kept_mk] | exact RecKept.push _ _ | exact RecKept.same rfl rfl | exact FwKept.same rfl
      | (refine kept_snd ?_ (by assumption)) | (refine kept_fst ?_ (by assumption)) | dsimp only | split

theorem kept_freshPart {z} (part s) (hk : Kept z s) :
    Kept z (freshPart part s) := by
  unfold freshPart
  repeat'
    first
      | intro _
      | with_reducible
          first
            | assumption | apply kept_ite | apply kept_freshGroves
      | (refine kept_snd ?_ (by assumption)) | (refine kept_fst ?_ (by assumption)) | dsimp only | split

theorem kept_loseLines {z} (requester part ls s) (hk : Kept z s) :
    Kept z (loseLines requester part ls s) := by
  unfold loseLines
  repeat'
    first
      | intro _
      | with_reducible
          first
            | assumption | apply kept_ite | apply kept_recordUncorr | apply kept_loseLine | apply kept_foldl
      | dsimp only | split

theorem kept_replayStep {z} (part ctx op ls s) (hk : Kept z s) :
    Kept z (replayStep part ctx op ls s) := by
  unfold replayStep
  repeat'
    first
      | intro _
      | with_reducible
          first
            | assumption | apply kept_ite | apply kept_updLayer | apply kept_freshPart | apply kept_updCtx
            | apply kept_loseLine | apply kept_recordRecovery | apply kept_restoreCaches | apply kept_foldl
      | dsimp only | split

theorem kept_replayPart {z} (part s) (hk : Kept z s) :
    Kept z (replayPart part s) := by
  unfold replayPart
  repeat'
    first
      | intro _
      | with_reducible
          first
            | assumption | apply kept_ite | apply kept_replayStep | apply kept_foldl
      | dsimp only | split

theorem kept_Env.countGroves {z} (e s) (hk : Kept z s) :
    Kept z (Env.countGroves e s) := by
  unfold Env.countGroves
  repeat'
    first
      | intro _
      | with_reducible
          first
            | assumption | apply kept_ite | apply kept_updLattice | apply kept_same | apply kept_foldl
      | simp only [kept_mk] | exact RecKept.push _ _ | exact RecKept.same rfl rfl | exact FwKept.same rfl
      | dsimp only | split

theorem kept_Env.spendLanes {z} (e s) (hk : Kept z s) :
    Kept z (Env.spendLanes e s) := by
  unfold Env.spendLanes
  repeat'
    first
      | intro _
      | with_reducible
          first
            | assumption | apply kept_ite | apply kept_updGrove | apply kept_foldl | apply kept_foldl_snd
            | apply kept_same
      | simp only [kept_mk] | exact RecKept.push _ _ | exact RecKept.same rfl rfl | exact FwKept.same rfl
      | (refine kept_snd ?_ (by assumption)) | (refine kept_fst ?_ (by assumption)) | dsimp only | split

theorem kept_Env.finishOp {z} (e s) (hk : Kept z s) :
    Kept z (Env.finishOp e s) := by
  unfold Env.finishOp
  repeat'
    first
      | intro _
      | with_reducible
          first
            | assumption | apply kept_ite | apply kept_Env.spendLanes | apply kept_same | apply kept_Env.countGroves
            | apply kept_Env.updStep
      | simp only [kept_mk] | exact RecKept.push _ _ | exact RecKept.same rfl rfl | exact FwKept.same rfl
      | dsimp only | split

theorem kept_writeNotes {z} (part r s) (hk : Kept z s) :
    Kept z (writeNotes part r s) := by
  unfold writeNotes
  repeat'
    first
      | intro _
      | with_reducible
          first
            | assumption | apply kept_ite | apply kept_record | apply kept_foldl
      | dsimp only | split

theorem kept_trimCaches {z} (part ctx s) (hk : Kept z s) :
    Kept z (trimCaches part ctx s) := by
  unfold trimCaches
  repeat'
    first
      | intro _
      | with_reducible
          first
            | assumption | apply kept_ite | apply kept_updCache | apply kept_freePages | apply kept_foldl
      | dsimp only | split

theorem kept_spoilOutputs {z} (part q batch s) (hk : Kept z s) :
    Kept z (spoilOutputs part q batch s) := by
  unfold spoilOutputs
  repeat'
    first
      | intro _
      | with_reducible
          first
            | assumption | apply kept_ite | apply kept_same | apply kept_writeCells
      | simp only [kept_mk] | exact RecKept.push _ _ | exact RecKept.same rfl rfl | exact FwKept.same rfl
      | dsimp only | split

theorem kept_postStep {z} (s q r s') (hk : Kept z s') :
    Kept z (postStep s q r s') := by
  unfold postStep
  repeat'
    first
      | intro _
      | with_reducible
          first
            | assumption | apply kept_ite | apply kept_finish | apply kept_foldl
      | dsimp only | split

theorem kept_endStep {z} (part ctx s) (hk : Kept z s) :
    Kept z (endStep part ctx s) := by
  unfold endStep
  repeat'
    first
      | intro _
      | with_reducible
          first
            | assumption | apply kept_ite | apply kept_restoreCaches | apply kept_trimCaches
            | apply kept_spoilOutputs | apply kept_updCtx | apply kept_writeNotes | apply kept_postStep
      | dsimp only | split

theorem kept_considerSwitch {z} (part s) (hk : Kept z s) :
    Kept z (considerSwitch part s) := by
  unfold considerSwitch
  repeat'
    first
      | intro _
      | with_reducible
          first
            | assumption | apply kept_ite | apply kept_updPart
      | dsimp only | split

theorem kept_startStep {z} (part s) (hk : Kept z s) :
    Kept z (startStep part s) := by
  unfold startStep
  repeat'
    first
      | intro _
      | with_reducible
          first
            | assumption | apply kept_ite | apply kept_freshGroves | apply kept_same | apply kept_considerSwitch
            | apply kept_updCtx | apply kept_fillBindings
      | simp only [kept_mk] | exact RecKept.push _ _ | exact RecKept.same rfl rfl | exact FwKept.same rfl
      | dsimp only | split

theorem kept_saveUnderstory {z} (p c s) (hk : Kept z s) :
    Kept z (saveUnderstory p c s) := by
  unfold saveUnderstory
  repeat'
    first
      | intro _
      | with_reducible
          first
            | assumption | apply kept_ite | apply kept_updCtx | apply kept_same | apply kept_writeCells
      | simp only [kept_mk] | exact RecKept.push _ _ | exact RecKept.same rfl rfl | exact FwKept.same rfl
      | dsimp only | split

theorem kept_restoreUnderstory {z} (p ctx s) (hk : Kept z s) :
    Kept z (restoreUnderstory p ctx s) := by
  unfold restoreUnderstory
  repeat'
    first
      | intro _
      | with_reducible
          first
            | assumption | apply kept_ite | apply kept_updCtx | apply kept_same
      | simp only [kept_mk] | exact RecKept.push _ _ | exact RecKept.same rfl rfl | exact FwKept.same rfl
      | (refine kept_snd ?_ (by assumption)) | (refine kept_fst ?_ (by assumption)) | dsimp only | split

theorem kept_enqueue {z} (part a cause s) (hk : Kept z s) :
    Kept z (enqueue part a cause s) := by
  unfold enqueue
  repeat'
    first
      | intro _
      | with_reducible
          first
            | assumption | apply kept_ite | apply kept_same | apply kept_updPart
      | simp only [kept_mk] | exact RecKept.push _ _ | exact RecKept.same rfl rfl | exact FwKept.same rfl
      | dsimp only | split

theorem kept_nextJob {z} (part s) (hk : Kept z s) :
    Kept z (nextJob part s) := by
  unfold nextJob
  repeat'
    first
      | intro _
      | with_reducible
          first
            | assumption | apply kept_ite | apply kept_same | apply kept_updPart
      | simp only [kept_mk] | exact RecKept.push _ _ | exact RecKept.same rfl rfl | exact FwKept.same rfl
      | dsimp only | split

theorem kept_closeJob {z} (part a outcome s) (hk : Kept z s) :
    Kept z (closeJob part a outcome s) := by
  unfold closeJob
  repeat'
    first
      | intro _
      | with_reducible
          first
            | assumption | apply kept_ite | apply kept_same | apply kept_recordRecovery | apply kept_updPart
      | simp only [kept_mk] | exact RecKept.push _ _ | exact RecKept.same rfl rfl | exact FwKept.same rfl
      | dsimp only | split

theorem kept_endJob {z} (part a s) (hk : Kept z s) :
    Kept z (endJob part a s) := by
  unfold endJob
  repeat'
    first
      | intro _
      | with_reducible
          first
            | assumption | apply kept_ite | apply kept_closeJob
      | dsimp only | split

theorem kept_broadcastCommand {z} (op s) (hk : Kept z s) :
    Kept z (broadcastCommand op s) := by
  unfold broadcastCommand
  repeat'
    first
      | intro _
      | with_reducible
          first
            | assumption | apply kept_ite | apply kept_same
      | simp only [kept_mk] | exact RecKept.push _ _ | exact RecKept.same rfl rfl | exact FwKept.same rfl
      | (refine kept_snd ?_ (by assumption)) | (refine kept_fst ?_ (by assumption)) | dsimp only | split

theorem kept_enterSelfRefresh {z} (s) (hk : Kept z s) :
    Kept z (enterSelfRefresh s) := by
  unfold enterSelfRefresh
  repeat'
    first
      | intro _
      | with_reducible
          first
            | assumption | apply kept_ite | apply kept_broadcastCommand | apply kept_same
      | simp only [kept_mk] | exact RecKept.push _ _ | exact RecKept.same rfl rfl | exact FwKept.same rfl
      | (refine kept_snd ?_ (by assumption)) | (refine kept_fst ?_ (by assumption)) | dsimp only | split

theorem kept_exitSelfRefresh {z} (s) (hk : Kept z s) :
    Kept z (exitSelfRefresh s) := by
  unfold exitSelfRefresh
  repeat'
    first
      | intro _
      | with_reducible
          first
            | assumption | apply kept_ite | apply kept_broadcastCommand | apply kept_same
      | simp only [kept_mk] | exact RecKept.push _ _ | exact RecKept.same rfl rfl | exact FwKept.same rfl
      | (refine kept_snd ?_ (by assumption)) | (refine kept_fst ?_ (by assumption)) | dsimp only | split

theorem kept_commandTimeout {z} (core cmd s) (hk : Kept z s) :
    Kept z (commandTimeout core cmd s) := by
  unfold commandTimeout
  repeat'
    first
      | intro _
      | with_reducible
          first
            | assumption | apply kept_ite | apply kept_same
      | simp only [kept_mk] | exact RecKept.push _ _ | exact RecKept.same rfl rfl | exact FwKept.same rfl
      | dsimp only | split

theorem kept_trainPhases {z} (s) (hk : Kept z s) :
    Kept z (trainPhases s) := by
  unfold trainPhases
  repeat'
    first
      | intro _
      | with_reducible
          first
            | assumption | apply kept_ite | apply kept_same
      | simp only [kept_mk] | exact RecKept.push _ _ | exact RecKept.same rfl rfl | exact FwKept.same rfl
      | (refine kept_snd ?_ (by assumption)) | (refine kept_fst ?_ (by assumption)) | dsimp only | split

theorem kept_phaseRetrained {z} (core s) (hk : Kept z s) :
    Kept z (phaseRetrained core s) := by
  unfold phaseRetrained
  repeat'
    first
      | intro _
      | with_reducible
          first
            | assumption | apply kept_ite | apply kept_same
      | simp only [kept_mk] | exact RecKept.push _ _ | exact RecKept.same rfl rfl | exact FwKept.same rfl
      | dsimp only | split

end Sys2Proof.Machine
end

