-- ==== Sys2Proof/Laws/Kept2.lean ====
section
/-! SUPPORT. `Kept`, one lemma for each definition that gives a state: operators, the fabric and the collectives. -/
namespace Sys2Proof.Machine

theorem kept_Env.emitDot {z} (e i keep d acc bound s) (hk : Kept z s) :
    Kept z (Env.emitDot e i keep d acc bound s) := by
  unfold Env.emitDot
  repeat'
    first
      | intro _
      | with_reducible
          first
            | assumption | apply kept_ite | apply kept_same | apply kept_Env.writeAnchored | apply kept_Env.writeAll
            | apply kept_Env.note
      | simp only [kept_mk] | exact RecKept.push _ _ | exact RecKept.same rfl rfl | exact FwKept.same rfl
      | dsimp only | split

theorem kept_opGemm {z} (e s) (hk : Kept z s) :
    Kept z (opGemm e s) := by
  unfold opGemm
  repeat'
    first
      | intro _
      | with_reducible
          first
            | assumption | apply kept_ite | apply kept_Env.lattices | apply kept_Env.emitDot | apply kept_Env.note
      | dsimp only | split

theorem kept_opGrouped {z} (e s) (hk : Kept z s) :
    Kept z (opGrouped e s) := by
  unfold opGrouped
  repeat'
    first
      | intro _
      | with_reducible
          first
            | assumption | apply kept_ite | apply kept_Env.lattices | apply kept_Env.emitDot | apply kept_Env.note
      | dsimp only | split

theorem kept_opConv {z} (one e s) (hk : Kept z s) :
    Kept z (opConv one e s) := by
  unfold opConv
  repeat'
    first
      | intro _
      | with_reducible
          first
            | assumption | apply kept_ite | apply kept_Env.clearLattices | apply kept_Env.emitDot
            | apply kept_Env.note
      | dsimp only | split

theorem kept_opConvBwd {z} (one e s) (hk : Kept z s) :
    Kept z (opConvBwd one e s) := by
  unfold opConvBwd
  repeat'
    first
      | intro _
      | with_reducible
          first
            | assumption | apply kept_ite | apply kept_same | apply kept_Env.clearLattices | apply kept_Env.emitDot
            | apply kept_Env.note
      | simp only [kept_mk] | exact RecKept.push _ _ | exact RecKept.same rfl rfl | exact FwKept.same rfl
      | dsimp only | split

theorem kept_opScalePass {z} (e s) (hk : Kept z s) :
    Kept z (opScalePass e s) := by
  unfold opScalePass
  repeat'
    first
      | intro _
      | with_reducible
          first
            | assumption | apply kept_ite | apply kept_Env.measure
      | dsimp only | split

theorem kept_opQuantise {z} (e s) (hk : Kept z s) :
    Kept z (opQuantise e s) := by
  unfold opQuantise
  repeat'
    first
      | intro _
      | with_reducible
          first
            | assumption | apply kept_ite | apply kept_same | apply kept_updPlan | apply kept_Env.writeAll
      | simp only [kept_mk] | exact RecKept.push _ _ | exact RecKept.same rfl rfl | exact FwKept.same rfl
      | dsimp only | split

theorem kept_Env.writeRows {z} (e out v f s) (hk : Kept z s) :
    Kept z (Env.writeRows e out v f s) := by
  unfold Env.writeRows
  repeat'
    first
      | intro _
      | with_reducible
          first
            | assumption | apply kept_ite | apply kept_same | apply kept_Env.write32
      | simp only [kept_mk] | exact RecKept.push _ _ | exact RecKept.same rfl rfl | exact FwKept.same rfl
      | dsimp only | split

theorem kept_opRmsnorm {z} (e s) (hk : Kept z s) :
    Kept z (opRmsnorm e s) := by
  unfold opRmsnorm
  repeat'
    first
      | intro _
      | with_reducible
          first
            | assumption | apply kept_ite | apply kept_Env.writeRows | apply kept_Env.write32
      | dsimp only | split

theorem kept_opLayernorm {z} (e s) (hk : Kept z s) :
    Kept z (opLayernorm e s) := by
  unfold opLayernorm
  repeat'
    first
      | intro _
      | with_reducible
          first
            | assumption | apply kept_ite | apply kept_Env.writeRows | apply kept_Env.write32
      | dsimp only | split

theorem kept_opSoftmax {z} (e s) (hk : Kept z s) :
    Kept z (opSoftmax e s) := by
  unfold opSoftmax
  repeat'
    first
      | intro _
      | with_reducible
          first
            | assumption | apply kept_ite | apply kept_Env.write32
      | dsimp only | split

theorem kept_opEltwise {z} (e s) (hk : Kept z s) :
    Kept z (opEltwise e s) := by
  unfold opEltwise
  repeat'
    first
      | intro _
      | with_reducible
          first
            | assumption | apply kept_ite | apply kept_Env.write32
      | dsimp only | split

theorem kept_opScan {z} (e s) (hk : Kept z s) :
    Kept z (opScan e s) := by
  unfold opScan
  repeat'
    first
      | intro _
      | with_reducible
          first
            | assumption | apply kept_ite | apply kept_Env.write32
      | dsimp only | split

theorem kept_opTopk {z} (e s) (hk : Kept z s) :
    Kept z (opTopk e s) := by
  unfold opTopk
  repeat'
    first
      | intro _
      | with_reducible
          first
            | assumption | apply kept_ite | apply kept_Env.putIndex | apply kept_Env.writeAll
      | dsimp only | split

theorem kept_Env.writeCodes {z} (e i codes s) (hk : Kept z s) :
    Kept z (Env.writeCodes e i codes s) := by
  unfold Env.writeCodes
  repeat'
    first
      | intro _
      | with_reducible
          first
            | assumption | apply kept_ite | apply kept_Env.writePlane
      | dsimp only | split

theorem kept_opSort {z} (e s) (hk : Kept z s) :
    Kept z (opSort e s) := by
  unfold opSort
  repeat'
    first
      | intro _
      | with_reducible
          first
            | assumption | apply kept_ite | apply kept_Env.writeCodes | apply kept_Env.health
            | apply kept_Env.measure | apply kept_Env.putIndex
      | dsimp only | split

theorem kept_opSample {z} (e s) (hk : Kept z s) :
    Kept z (opSample e s) := by
  unfold opSample
  repeat'
    first
      | intro _
      | with_reducible
          first
            | assumption | apply kept_ite | apply kept_Env.note | apply kept_Env.putIndex
      | dsimp only | split

theorem kept_Env.writeAttn {z} (e x bound rows s) (hk : Kept z s) :
    Kept z (Env.writeAttn e x bound rows s) := by
  unfold Env.writeAttn
  repeat'
    first
      | intro _
      | with_reducible
          first
            | assumption | apply kept_ite | apply kept_Env.writeAll | apply kept_Env.write32
      | dsimp only | split

theorem kept_opAttnCanopy {z} (e s) (hk : Kept z s) :
    Kept z (opAttnCanopy e s) := by
  unfold opAttnCanopy
  repeat'
    first
      | intro _
      | with_reducible
          first
            | assumption | apply kept_ite | apply kept_Env.clearLattices | apply kept_Env.writeAttn
            | apply kept_Env.note
      | dsimp only | split

theorem kept_opAttnClearing {z} (others e s) (hk : Kept z s) :
    Kept z (opAttnClearing others e s) := by
  unfold opAttnClearing
  repeat'
    first
      | intro _
      | with_reducible
          first
            | assumption | apply kept_ite | apply kept_Env.writeAttn | apply kept_Env.note
      | dsimp only | split

theorem kept_opAttnBwd {z} (e s) (hk : Kept z s) :
    Kept z (opAttnBwd e s) := by
  unfold opAttnBwd
  repeat'
    first
      | intro _
      | with_reducible
          first
            | assumption | apply kept_ite | apply kept_Env.clearLattices | apply kept_Env.note
            | apply kept_Env.writeAll
      | dsimp only | split

theorem kept_putFlit {z} (n b lseq nak s) (hk : Kept z s) :
    Kept z (putFlit n b lseq nak s) := by
  unfold putFlit
  repeat'
    first
      | intro _
      | with_reducible
          first
            | assumption | apply kept_ite | apply kept_updLink | apply kept_same
      | simp only [kept_mk] | exact RecKept.push _ _ | exact RecKept.same rfl rfl | exact FwKept.same rfl
      | (refine kept_snd ?_ (by assumption)) | (refine kept_fst ?_ (by assumption)) | dsimp only | split

theorem kept_pumpLinkOnce {z} (n s) (hk : Kept z s) :
    Kept z (pumpLinkOnce n s) := by
  unfold pumpLinkOnce
  repeat'
    first
      | intro _
      | with_reducible
          first
            | assumption | apply kept_ite | apply kept_putFlit | apply kept_same | apply kept_updLink
      | dsimp only | split

theorem kept_pumpLink {z} (n s) (hk : Kept z s) :
    Kept z (pumpLink n s) := by
  unfold pumpLink
  repeat'
    first
      | intro _
      | with_reducible
          first
            | assumption | apply kept_ite | apply kept_pumpLinkOnce | apply kept_repeat
      | dsimp only | split

theorem kept_toQueue {z} (n bs s) (hk : Kept z s) :
    Kept z (toQueue n bs s) := by
  unfold toQueue
  repeat'
    first
      | intro _
      | with_reducible
          first
            | assumption | apply kept_ite | apply kept_pumpLink | apply kept_updLink | apply kept_same
      | simp only [kept_mk] | exact RecKept.push _ _ | exact RecKept.same rfl rfl | exact FwKept.same rfl
      | (refine kept_snd ?_ (by assumption)) | (refine kept_fst ?_ (by assumption)) | dsimp only | split

theorem kept_clearFabric {z} (addr s) (hk : Kept z s) :
    Kept z (clearFabric addr s) := by
  unfold clearFabric
  repeat'
    first
      | intro _
      | with_reducible
          first
            | assumption | apply kept_ite | apply kept_same
      | simp only [kept_mk] | exact RecKept.push _ _ | exact RecKept.same rfl rfl | exact FwKept.same rfl
      | (refine kept_snd ?_ (by assumption)) | (refine kept_fst ?_ (by assumption)) | dsimp only | split

theorem kept_toLink {z} (n p s) (hk : Kept z s) :
    Kept z (toLink n p s) := by
  unfold toLink
  repeat'
    first
      | intro _
      | with_reducible
          first
            | assumption | apply kept_ite | apply kept_toQueue | apply kept_same | apply kept_pumpLink
            | apply kept_updLink
      | simp only [kept_mk] | exact RecKept.push _ _ | exact RecKept.same rfl rfl | exact FwKept.same rfl
      | dsimp only | split

theorem kept_freshHello {z} (s) (hk : Kept z s) :
    Kept z (freshHello s) := by
  unfold freshHello
  repeat'
    first
      | intro _
      | with_reducible
          first
            | assumption | apply kept_ite | apply kept_toQueue | apply kept_foldl | apply kept_foldl_snd
      | (refine kept_snd ?_ (by assumption)) | (refine kept_fst ?_ (by assumption)) | dsimp only | split

theorem kept_returnCredits {z} (s) (hk : Kept z s) :
    Kept z (returnCredits s) := by
  unfold returnCredits
  repeat'
    first
      | intro _
      | with_reducible
          first
            | assumption | apply kept_ite | apply kept_putFlit | apply kept_foldl | apply kept_foldl_snd
            | apply kept_same
      | simp only [kept_mk] | exact RecKept.push _ _ | exact RecKept.same rfl rfl | exact FwKept.same rfl
      | (refine kept_snd ?_ (by assumption)) | (refine kept_fst ?_ (by assumption)) | dsimp only | split

theorem kept_recordPacket {z} (cause header s) (hk : Kept z s) :
    Kept z (recordPacket cause header s) := by
  unfold recordPacket
  repeat'
    first
      | intro _
      | with_reducible
          first
            | assumption | apply kept_ite | apply kept_record
      | dsimp only | split

theorem kept_recordPacketOnce {z} (cause addr header s) (hk : Kept z s) :
    Kept z (recordPacketOnce cause addr header s) := by
  unfold recordPacketOnce
  repeat'
    first
      | intro _
      | with_reducible
          first
            | assumption | apply kept_ite | apply kept_same | apply kept_recordPacket
      | simp only [kept_mk] | exact RecKept.push _ _ | exact RecKept.same rfl rfl | exact FwKept.same rfl
      | dsimp only | split

theorem kept_recordLink {z} (n s) (hk : Kept z s) :
    Kept z (recordLink n s) := by
  unfold recordLink
  repeat'
    first
      | intro _
      | with_reducible
          first
            | assumption | apply kept_ite | apply kept_record
      | dsimp only | split

theorem kept_holdPacket {z} (p s) (hk : Kept z s) :
    Kept z (holdPacket p s) := by
  unfold holdPacket
  repeat'
    first
      | intro _
      | with_reducible
          first
            | assumption | apply kept_ite | apply kept_same | apply kept_recordPacketOnce
      | simp only [kept_mk] | exact RecKept.push _ _ | exact RecKept.same rfl rfl | exact FwKept.same rfl
      | dsimp only | split

theorem kept_launch {z} (p s) (hk : Kept z s) :
    Kept z (launch p s) := by
  unfold launch
  repeat'
    first
      | intro _
      | with_reducible
          first
            | assumption | apply kept_ite | apply kept_same | apply kept_holdPacket | apply kept_toLink
      | simp only [kept_mk] | exact RecKept.push _ _ | exact RecKept.same rfl rfl | exact FwKept.same rfl
      | dsimp only | split

theorem kept_sendUnreachable {z} (p s) (hk : Kept z s) :
    Kept z (sendUnreachable p s) := by
  unfold sendUnreachable
  repeat'
    first
      | intro _
      | with_reducible
          first
            | assumption | apply kept_ite | apply kept_launch
      | dsimp only | split

theorem kept_transit {z} (p s) (hk : Kept z s) :
    Kept z (transit p s) := by
  unfold transit
  repeat'
    first
      | intro _
      | with_reducible
          first
            | assumption | apply kept_ite | apply kept_same | apply kept_recordPacket | apply kept_sendUnreachable
            | apply kept_toLink
      | simp only [kept_mk] | exact RecKept.push _ _ | exact RecKept.same rfl rfl | exact FwKept.same rfl
      | dsimp only | split

theorem kept_retryHeld {z} (s) (hk : Kept z s) :
    Kept z (retryHeld s) := by
  unfold retryHeld
  repeat'
    first
      | intro _
      | with_reducible
          first
            | assumption | apply kept_ite | apply kept_same | apply kept_launch | apply kept_foldl
      | simp only [kept_mk] | exact RecKept.push _ _ | exact RecKept.same rfl rfl | exact FwKept.same rfl
      | dsimp only | split

theorem kept_bumpFlow {z} (p s) (hk : Kept z s) :
    Kept z (bumpFlow p s) := by
  unfold bumpFlow
  repeat'
    first
      | intro _
      | with_reducible
          first
            | assumption | apply kept_ite | apply kept_same
      | simp only [kept_mk] | exact RecKept.push _ _ | exact RecKept.same rfl rfl | exact FwKept.same rfl
      | dsimp only | split

theorem kept_sendPacket {z} (part dst ptype vc group epoch body s) (hk : Kept z s) :
    Kept z (sendPacket part dst ptype vc group epoch body s) := by
  unfold sendPacket
  repeat'
    first
      | intro _
      | with_reducible
          first
            | assumption | apply kept_ite | apply kept_same | apply kept_launch | apply kept_bumpFlow
      | simp only [kept_mk] | exact RecKept.push _ _ | exact RecKept.same rfl rfl | exact FwKept.same rfl
      | dsimp only | split

theorem kept_sendView {z} (part dst ptype group epoch num body s) (hk : Kept z s) :
    Kept z (sendView part dst ptype group epoch num body s) := by
  unfold sendView
  repeat'
    first
      | intro _
      | with_reducible
          first
            | assumption | apply kept_ite | apply kept_launch
      | dsimp only | split

theorem kept_updGroup {z} (part id f s) (hk : Kept z s) :
    Kept z (updGroup part id f s) := by
  unfold updGroup
  repeat'
    first
      | intro _
      | with_reducible
          first
            | assumption | apply kept_ite | apply kept_same
      | simp only [kept_mk] | exact RecKept.push _ _ | exact RecKept.same rfl rfl | exact FwKept.same rfl
      | dsimp only | split

theorem kept_dropGroup {z} (part id s) (hk : Kept z s) :
    Kept z (dropGroup part id s) := by
  unfold dropGroup
  repeat'
    first
      | intro _
      | with_reducible
          first
            | assumption | apply kept_ite | apply kept_same
      | simp only [kept_mk] | exact RecKept.push _ _ | exact RecKept.same rfl rfl | exact FwKept.same rfl
      | dsimp only | split

theorem kept_switchView {z} (part id s) (hk : Kept z s) :
    Kept z (switchView part id s) := by
  unfold switchView
  repeat'
    first
      | intro _
      | with_reducible
          first
            | assumption | apply kept_ite | apply kept_same | apply kept_finishIf | apply kept_dropGroup
            | apply kept_updGroup | apply kept_finish | apply kept_replayStep | apply kept_foldl
      | simp only [kept_mk] | exact RecKept.push _ _ | exact RecKept.same rfl rfl | exact FwKept.same rfl
      | dsimp only | split

theorem kept_Group.completed {z} (part id s) (hk : Kept z s) :
    Kept z (Group.completed part id s) := by
  unfold Group.completed
  repeat'
    first
      | intro _
      | with_reducible
          first
            | assumption | apply kept_ite | apply kept_same | apply kept_switchView | apply kept_updGroup
      | simp only [kept_mk] | exact RecKept.push _ _ | exact RecKept.same rfl rfl | exact FwKept.same rfl
      | dsimp only | split

theorem kept_gatherExpiry {z} (part id s) (hk : Kept z s) :
    Kept z (gatherExpiry part id s) := by
  unfold gatherExpiry
  repeat'
    first
      | intro _
      | with_reducible
          first
            | assumption | apply kept_ite | apply kept_updGroup | apply kept_sendView | apply kept_foldl
      | dsimp only | split

theorem kept_concludeView {z} (part id s) (hk : Kept z s) :
    Kept z (concludeView part id s) := by
  unfold concludeView
  repeat'
    first
      | intro _
      | with_reducible
          first
            | assumption | apply kept_ite | apply kept_updGroup | apply kept_sendView | apply kept_foldl
      | dsimp only | split

theorem kept_tokenUp {z} (part id cseq rank s) (hk : Kept z s) :
    Kept z (tokenUp part id cseq rank s) := by
  unfold tokenUp
  repeat'
    first
      | intro _
      | with_reducible
          first
            | assumption | apply kept_ite | apply kept_sendPacket | apply kept_updGroup | apply kept_foldl
      | dsimp only | split

theorem kept_Env.groupDone {z} (e id s) (hk : Kept z s) :
    Kept z (Env.groupDone e id s) := by
  unfold Env.groupDone
  repeat'
    first
      | intro _
      | with_reducible
          first
            | assumption | apply kept_ite | apply kept_same | apply kept_Group.completed | apply kept_tokenUp
            | apply kept_Env.updStep
      | simp only [kept_mk] | exact RecKept.push _ _ | exact RecKept.same rfl rfl | exact FwKept.same rfl
      | dsimp only | split

theorem kept_meetSegment {z} (part id x s) (hk : Kept z s) :
    Kept z (meetSegment part id x s) := by
  unfold meetSegment
  repeat'
    first
      | intro _
      | with_reducible
          first
            | assumption | apply kept_ite | apply kept_updGroup | apply kept_record
      | dsimp only | split

theorem kept_sendResult {z} (part g x s) (hk : Kept z s) :
    Kept z (sendResult part g x s) := by
  unfold sendResult
  repeat'
    first
      | intro _
      | with_reducible
          first
            | assumption | apply kept_ite | apply kept_foldl | apply kept_sendPacket
      | dsimp only | split

theorem kept_passSegment {z} (part id x s) (hk : Kept z s) :
    Kept z (passSegment part id x s) := by
  unfold passSegment
  repeat'
    first
      | intro _
      | with_reducible
          first
            | assumption | apply kept_ite | apply kept_sendResult | apply kept_sendPacket | apply kept_updGroup
      | dsimp only | split

theorem kept_settleSegment {z} (part id x s) (hk : Kept z s) :
    Kept z (settleSegment part id x s) := by
  unfold settleSegment
  repeat'
    first
      | intro _
      | with_reducible
          first
            | assumption | apply kept_ite | apply kept_passSegment | apply kept_repeat | apply kept_meetSegment
      | dsimp only | split

theorem kept_takeSegment {z} (part id x s) (hk : Kept z s) :
    Kept z (takeSegment part id x s) := by
  unfold takeSegment
  repeat'
    first
      | intro _
      | with_reducible
          first
            | assumption | apply kept_ite | apply kept_same | apply kept_sendResult | apply kept_settleSegment
            | apply kept_updGroup
      | simp only [kept_mk] | exact RecKept.push _ _ | exact RecKept.same rfl rfl | exact FwKept.same rfl
      | dsimp only | split

theorem kept_giveSegment {z} (part id x s) (hk : Kept z s) :
    Kept z (giveSegment part id x s) := by
  unfold giveSegment
  repeat'
    first
      | intro _
      | with_reducible
          first
            | assumption | apply kept_ite | apply kept_same | apply kept_settleSegment | apply kept_updGroup
      | simp only [kept_mk] | exact RecKept.push _ _ | exact RecKept.same rfl rfl | exact FwKept.same rfl
      | dsimp only | split

theorem kept_relayPace {z} (p g s) (hk : Kept z s) :
    Kept z (relayPace p g s) := by
  unfold relayPace
  repeat'
    first
      | intro _
      | with_reducible
          first
            | assumption | apply kept_ite | apply kept_same | apply kept_launch | apply kept_foldl
      | simp only [kept_mk] | exact RecKept.push _ _ | exact RecKept.same rfl rfl | exact FwKept.same rfl
      | dsimp only | split

theorem kept_sendPace {z} (part pace cause s) (hk : Kept z s) :
    Kept z (sendPace part pace cause s) := by
  unfold sendPace
  repeat'
    first
      | intro _
      | with_reducible
          first
            | assumption | apply kept_ite | apply kept_same | apply kept_sendPacket | apply kept_updGroup
            | apply kept_foldl
      | simp only [kept_mk] | exact RecKept.push _ _ | exact RecKept.same rfl rfl | exact FwKept.same rfl
      | dsimp only | split

theorem kept_refusePacket {z} (st p s) (hk : Kept z s) :
    Kept z (refusePacket st p s) := by
  unfold refusePacket
  repeat'
    first
      | intro _
      | with_reducible
          first
            | assumption | apply kept_ite | apply kept_recordPacketOnce | apply kept_launch
      | dsimp only | split

/-- The state of a checked arrival. -/
def arrivalState : Arrival → State
  | .drop s => s
  | .take s => s

theorem kept_arrival_ite {z : State} {a b : Arrival} {c : Prop} [Decidable c] (ha : Kept z (arrivalState a))
    (hb : Kept z (arrivalState b)) : Kept z (arrivalState (if c then a else b)) := by
  split
  · exact ha
  · exact hb

theorem kept_arrival_drop {z : State} {a : State} (h : Kept z a) : Kept z (arrivalState (.drop a)) := h
theorem kept_arrival_take {z : State} {a : State} (h : Kept z a) : Kept z (arrivalState (.take a)) := h

theorem kept_dropped {z t : State} {r : Arrival} (h : Kept z (arrivalState r)) (e : r = .drop t) : Kept z t := by
  subst e
  exact h

theorem kept_taken {z t : State} {r : Arrival} (h : Kept z (arrivalState r)) (e : r = .take t) : Kept z t := by
  subst e
  exact h

theorem kept_checkArrival {z} (p s) (hk : Kept z s) : Kept z (arrivalState (checkArrival p s)) := by
  unfold checkArrival
  repeat'
    first
      | intro _
      | with_reducible
          first
            | assumption | apply kept_arrival_ite | apply kept_arrival_drop | apply kept_arrival_take
            | apply kept_same | apply kept_recordPacket | apply kept_settleReserve | apply kept_refusePacket
            | apply kept_bumpFlow
      | simp only [kept_mk] | exact RecKept.same rfl rfl | exact FwKept.same rfl | dsimp only | split

theorem kept_releaseReorder {z} (s) (hk : Kept z s) :
    Kept z (releaseReorder s) := by
  unfold releaseReorder
  repeat'
    first
      | intro _
      | with_reducible
          first
            | assumption | apply kept_ite | apply kept_same
      | simp only [kept_mk] | exact RecKept.push _ _ | exact RecKept.same rfl rfl | exact FwKept.same rfl
      | dsimp only | split

theorem kept_receive {z} (p handle s) (hk : Kept z s) (hf : ∀ t, Kept z t → Kept z (handle t)) :
    Kept z (receive p handle s) := by
  unfold receive
  have h1 : Kept z { s with fabric := { s.fabric with arrivals := s.fabric.arrivals.erase p } } :=
    kept_mk.2 (kept_same hk (RecKept.refl _) (FwKept.refl _))
  apply kept_ite
  · exact kept_transit _ _ h1
  · split
    · rename_i e
      exact kept_returnCredits _ (kept_dropped (kept_checkArrival _ _ h1) e)
    · rename_i e
      exact kept_returnCredits _ (kept_releaseReorder _ (hf _ (kept_taken (kept_checkArrival _ _ h1) e)))

theorem kept_Env.copyUnits {z} (e i v us anchor s) (hk : Kept z s) :
    Kept z (Env.copyUnits e i v us anchor s) := by
  unfold Env.copyUnits
  repeat'
    first
      | intro _
      | with_reducible
          first
            | assumption | apply kept_ite | apply kept_Env.writePlane
      | dsimp only | split

theorem kept_opGather {z} (e s) (hk : Kept z s) :
    Kept z (opGather e s) := by
  unfold opGather
  repeat'
    first
      | intro _
      | with_reducible
          first
            | assumption | apply kept_ite | apply kept_Env.note | apply kept_Env.copyUnits | apply kept_Env.putMaxima
            | apply kept_Env.measure | apply kept_Env.health | apply kept_foldl
      | dsimp only | split

theorem kept_opEmbed {z} (e s) (hk : Kept z s) :
    Kept z (opEmbed e s) := by
  unfold opEmbed
  repeat'
    first
      | intro _
      | with_reducible
          first
            | assumption | apply kept_ite | apply kept_Env.note | apply kept_Env.writeSome | apply kept_Env.health
            | apply kept_Env.measure
      | (refine kept_fst ?_ (by assumption)) | dsimp only | split

theorem kept_opScatterReplace {z} (e s) (hk : Kept z s) :
    Kept z (opScatterReplace e s) := by
  unfold opScatterReplace
  repeat'
    first
      | intro _
      | with_reducible
          first
            | assumption | apply kept_ite | apply kept_Env.note | apply kept_Env.copyUnits | apply kept_Env.measure
            | apply kept_Env.health
      | dsimp only | split

theorem kept_opScatterAdd {z} (e s) (hk : Kept z s) :
    Kept z (opScatterAdd e s) := by
  unfold opScatterAdd
  repeat'
    first
      | intro _
      | with_reducible
          first
            | assumption | apply kept_ite | apply kept_Env.note | apply kept_Env.writeSome | apply kept_Env.health
            | apply kept_Env.measure | apply kept_foldl
      | (refine kept_fst ?_ (by assumption)) | dsimp only | split

theorem kept_opScatter {z} (e s) (hk : Kept z s) :
    Kept z (opScatter e s) := by
  unfold opScatter
  repeat'
    first
      | intro _
      | with_reducible
          first
            | assumption | apply kept_ite | apply kept_opScatterAdd | apply kept_opScatterReplace
      | dsimp only | split

theorem kept_Env.give {z} (e g fm per shift share anchor elem cuts s) (hk : Kept z s) :
    Kept z (Env.give e g fm per shift share anchor elem cuts s) := by
  unfold Env.give
  repeat'
    first
      | intro _
      | with_reducible
          first
            | assumption | apply kept_ite | apply kept_foldl | apply kept_giveSegment
      | dsimp only | split

theorem kept_Env.contribute {z} (e vs share s) (hk : Kept z s) :
    Kept z (Env.contribute e vs share s) := by
  unfold Env.contribute
  repeat'
    first
      | intro _
      | with_reducible
          first
            | assumption | apply kept_ite | apply kept_foldl | apply kept_Env.give
      | dsimp only | split

theorem kept_opReduce {z} (vs first e s) (hk : Kept z s) :
    Kept z (opReduce vs first e s) := by
  unfold opReduce
  repeat'
    first
      | intro _
      | with_reducible
          first
            | assumption | apply kept_ite | apply kept_Env.note | apply kept_Env.writeAnchored
            | apply kept_Env.write32 | apply kept_Env.writeAll | apply kept_foldl
      | dsimp only | split

theorem kept_Env.copyFrom {z} (e out us anchor s) (hk : Kept z s) :
    Kept z (Env.copyFrom e out us anchor s) := by
  unfold Env.copyFrom
  repeat'
    first
      | intro _
      | with_reducible
          first
            | assumption | apply kept_ite | apply kept_Env.copyUnits | apply kept_foldl
      | dsimp only | split

theorem kept_Env.finishCopy {z} (e us anchor whole bad rows s) (hk : Kept z s) :
    Kept z (Env.finishCopy e us anchor whole bad rows s) := by
  unfold Env.finishCopy
  repeat'
    first
      | intro _
      | with_reducible
          first
            | assumption | apply kept_ite | apply kept_Env.copyFrom | apply kept_Env.note | apply kept_Env.putMaxima
            | apply kept_Env.measure | apply kept_Env.health
      | dsimp only | split

theorem kept_Env.sendUnits {z} (e g rank v us s) (hk : Kept z s) :
    Kept z (Env.sendUnits e g rank v us s) := by
  unfold Env.sendUnits
  repeat'
    first
      | intro _
      | with_reducible
          first
            | assumption | apply kept_ite | apply kept_sendPacket | apply kept_foldl | apply kept_foldl_snd
      | (refine kept_snd ?_ (by assumption)) | (refine kept_fst ?_ (by assumption)) | dsimp only | split

theorem kept_Env.sendCopies {z} (e units s) (hk : Kept z s) :
    Kept z (Env.sendCopies e units s) := by
  unfold Env.sendCopies
  repeat'
    first
      | intro _
      | with_reducible
          first
            | assumption | apply kept_ite | apply kept_Env.sendUnits | apply kept_foldl | apply kept_foldl_snd
      | (refine kept_snd ?_ (by assumption)) | (refine kept_fst ?_ (by assumption)) | dsimp only | split

theorem kept_Env.joinMaxima {z} (e others s) (hk : Kept z s) :
    Kept z (Env.joinMaxima e others s) := by
  unfold Env.joinMaxima
  repeat'
    first
      | intro _
      | with_reducible
          first
            | assumption | apply kept_ite | apply kept_Env.give | apply kept_Env.setMax | apply kept_Env.putMaxima
            | apply kept_foldl | apply kept_foldl_snd
      | (refine kept_snd ?_ (by assumption)) | (refine kept_fst ?_ (by assumption)) | dsimp only | split

theorem kept_opAllGather {z} (vs e s) (hk : Kept z s) :
    Kept z (opAllGather vs e s) := by
  unfold opAllGather
  repeat'
    first
      | intro _
      | with_reducible
          first
            | assumption | apply kept_ite | apply kept_Env.finishCopy
      | dsimp only | split

theorem kept_opAllToAll {z} (vs r e s) (hk : Kept z s) :
    Kept z (opAllToAll vs r e s) := by
  unfold opAllToAll
  repeat'
    first
      | intro _
      | with_reducible
          first
            | assumption | apply kept_ite | apply kept_Env.finishCopy
      | dsimp only | split

theorem kept_opBroadcast {z} (src e s) (hk : Kept z s) :
    Kept z (opBroadcast src e s) := by
  unfold opBroadcast
  repeat'
    first
      | intro _
      | with_reducible
          first
            | assumption | apply kept_ite | apply kept_Env.finishCopy
      | dsimp only | split

theorem kept_kvAppend {z} (e h layer kv vv a s) (hk : Kept z s) :
    Kept z (kvAppend e h layer kv vv a s) := by
  unfold kvAppend
  repeat'
    first
      | intro _
      | with_reducible
          first
            | assumption | apply kept_ite | apply kept_updCache | apply kept_attachPage | apply kept_writeCells
      | dsimp only | split

theorem kept_kvRow {z} (e h layer kv vv s a) (hk : Kept z s) :
    Kept z (kvRow e h layer kv vv s a) := by
  unfold kvRow
  repeat'
    first
      | intro _
      | with_reducible
          first
            | assumption | apply kept_ite | apply kept_keepLines | apply kept_kvAppend | apply kept_truncateLayer
      | dsimp only | split

theorem kept_kvFinish {z} (e h layer others s q) (hk : Kept z s) :
    Kept z (kvFinish e h layer others s q) := by
  unfold kvFinish
  repeat'
    first
      | intro _
      | with_reducible
          first
            | assumption | apply kept_ite | apply kept_resealFrom | apply kept_updCache | apply kept_foldl
      | dsimp only | split

theorem kept_sendAgree {z} (part g lacks s) (hk : Kept z s) :
    Kept z (sendAgree part g lacks s) := by
  unfold sendAgree
  repeat'
    first
      | intro _
      | with_reducible
          first
            | assumption | apply kept_ite | apply kept_same | apply kept_updGroup | apply kept_sendPacket
            | apply kept_foldl
      | simp only [kept_mk] | exact RecKept.push _ _ | exact RecKept.same rfl rfl | exact FwKept.same rfl
      | dsimp only | split

theorem kept_kvWrite {z} (e h layer acts skipped maxima s) (hk : Kept z s) :
    Kept z (kvWrite e h layer acts skipped maxima s) := by
  unfold kvWrite
  repeat'
    first
      | intro _
      | with_reducible
          first
            | assumption | apply kept_ite | apply kept_kvRow | apply kept_Env.note | apply kept_kvFinish
            | apply kept_foldl
      | dsimp only | split

theorem kept_giveMaxima {z} (e g h layer acts skipped s) (hk : Kept z s) :
    Kept z (giveMaxima e g h layer acts skipped s) := by
  unfold giveMaxima
  repeat'
    first
      | intro _
      | with_reducible
          first
            | assumption | apply kept_ite | apply kept_kvWrite | apply kept_Env.give | apply kept_Env.updStep
      | (refine kept_snd ?_ (by assumption)) | (refine kept_fst ?_ (by assumption)) | dsimp only | split

theorem kept_kvLocal {z} (e p c layer s) (hk : Kept z s) :
    Kept z (kvLocal e p c layer s) := by
  unfold kvLocal
  repeat'
    first
      | intro _
      | with_reducible
          first
            | assumption | apply kept_ite | apply kept_same | apply kept_Env.updStep | apply kept_kvWrite
      | simp only [kept_mk] | exact RecKept.push _ _ | exact RecKept.same rfl rfl | exact FwKept.same rfl
      | dsimp only | split

theorem kept_kvSpanning {z} (e g lacks c layer peers s) (hk : Kept z s) :
    Kept z (kvSpanning e g lacks c layer peers s) := by
  unfold kvSpanning
  repeat'
    first
      | intro _
      | with_reducible
          first
            | assumption | apply kept_ite | apply kept_same | apply kept_Env.groupDone | apply kept_Env.updStep
            | apply kept_kvWrite
      | simp only [kept_mk] | exact RecKept.push _ _ | exact RecKept.same rfl rfl | exact FwKept.same rfl
      | dsimp only | split

theorem kept_opOptStep {z} (e s) (hk : Kept z s) :
    Kept z (opOptStep e s) := by
  unfold opOptStep
  repeat'
    first
      | intro _
      | with_reducible
          first
            | assumption | apply kept_ite | apply kept_Env.note | apply kept_Env.writePlane | apply kept_Env.health
            | apply kept_Env.measure | apply kept_Env.write32 | apply kept_Env.putIndex
      | dsimp only | split

theorem kept_opLoss {z} (e s) (hk : Kept z s) :
    Kept z (opLoss e s) := by
  unfold opLoss
  repeat'
    first
      | intro _
      | with_reducible
          first
            | assumption | apply kept_ite | apply kept_Env.note | apply kept_Env.write32
      | dsimp only | split

theorem kept_opRmsnormBwd {z} (e s) (hk : Kept z s) :
    Kept z (opRmsnormBwd e s) := by
  unfold opRmsnormBwd
  repeat'
    first
      | intro _
      | with_reducible
          first
            | assumption | apply kept_ite | apply kept_Env.write32
      | dsimp only | split

theorem kept_opLayernormBwd {z} (e s) (hk : Kept z s) :
    Kept z (opLayernormBwd e s) := by
  unfold opLayernormBwd
  repeat'
    first
      | intro _
      | with_reducible
          first
            | assumption | apply kept_ite | apply kept_Env.write32
      | dsimp only | split

theorem kept_opSoftmaxBwd {z} (e s) (hk : Kept z s) :
    Kept z (opSoftmaxBwd e s) := by
  unfold opSoftmaxBwd
  repeat'
    first
      | intro _
      | with_reducible
          first
            | assumption | apply kept_ite | apply kept_Env.write32
      | dsimp only | split

end Sys2Proof.Machine
end

