-- ==== Sys2Proof/Laws/Kept3.lean ====
section
/-! SUPPORT. `Kept`, one lemma for each definition that gives a state: commands of plans, caches and clearing, the canopy, links and recovery. -/
namespace Sys2Proof.Machine

theorem kept_cmdPlanLoad {z} (q p s) (hk : Kept z s) :
    Kept z (cmdPlanLoad q p s).2 := by
  unfold cmdPlanLoad
  repeat'
    first
      | intro _
      | with_reducible
          first
            | assumption | apply kept_ite | apply kept_same | apply kept_fail | apply kept_Stop.reply
            | apply kept_ite_snd
      | simp only [kept_mk] | exact RecKept.push _ _ | exact RecKept.same rfl rfl | exact FwKept.same rfl
      | (refine kept_snd ?_ (by assumption)) | dsimp only | split

theorem kept_planValidated {z} (o s) (hk : Kept z s) :
    Kept z (planValidated o s) := by
  unfold planValidated
  repeat'
    first
      | intro _
      | with_reducible
          first
            | assumption | apply kept_ite | apply kept_same | apply kept_finish | apply kept_updPart
      | simp only [kept_mk] | exact RecKept.push _ _ | exact RecKept.same rfl rfl | exact FwKept.same rfl
      | dsimp only | split

theorem kept_cmdPlanUnload {z} (_q p s) (hk : Kept z s) :
    Kept z (cmdPlanUnload _q p s).2 := by
  unfold cmdPlanUnload
  repeat'
    first
      | intro _
      | with_reducible
          first
            | assumption | apply kept_ite | apply kept_fail | apply kept_updPlan | apply kept_releaseLate
            | apply kept_ite_snd | apply kept_foldl
      | (refine kept_snd ?_ (by assumption)) | dsimp only | split

theorem kept_finishUnloads {z} (s) (hk : Kept z s) :
    Kept z (finishUnloads s) := by
  unfold finishUnloads
  repeat'
    first
      | intro _
      | with_reducible
          first
            | assumption | apply kept_ite | apply kept_same | apply kept_finish | apply kept_updPart
            | apply kept_foldl
      | simp only [kept_mk] | exact RecKept.push _ _ | exact RecKept.same rfl rfl | exact FwKept.same rfl
      | dsimp only | split

theorem kept_cmdStepSubmit {z} (_q p s) (hk : Kept z s) :
    Kept z (cmdStepSubmit _q p s).2 := by
  unfold cmdStepSubmit
  repeat'
    first
      | intro _
      | with_reducible
          first
            | assumption | apply kept_ite | apply kept_same | apply kept_fail | apply kept_updCtx
            | apply kept_makeEligible | apply kept_ite_snd
      | simp only [kept_mk] | exact RecKept.push _ _ | exact RecKept.same rfl rfl | exact FwKept.same rfl
      | (refine kept_snd ?_ (by assumption)) | dsimp only | split

theorem kept_stepEligible {z} (o s) (hk : Kept z s) :
    Kept z (stepEligible o s) := by
  unfold stepEligible
  repeat'
    first
      | intro _
      | with_reducible
          first
            | assumption | apply kept_ite | apply kept_makeEligible | apply kept_updCtx
      | dsimp only | split

theorem kept_cmdStepCancel {z} (_q p s) (hk : Kept z s) :
    Kept z (cmdStepCancel _q p s).2 := by
  unfold cmdStepCancel
  repeat'
    first
      | intro _
      | with_reducible
          first
            | assumption | apply kept_ite | apply kept_cancelTag | apply kept_ok | apply kept_ite_snd
      | (refine kept_snd ?_ (by assumption)) | dsimp only | split

theorem kept_cmdBatchSet {z} (_q p s) (hk : Kept z s) :
    Kept z (cmdBatchSet _q p s).2 := by
  unfold cmdBatchSet
  repeat'
    first
      | intro _
      | with_reducible
          first
            | assumption | apply kept_ite | apply kept_fail | apply kept_ok | apply kept_releaseFilled
            | apply kept_updPlan | apply kept_ite_snd
      | (refine kept_snd ?_ (by assumption)) | dsimp only | split

theorem kept_waitExpired {z} (part ctx plan s) (hk : Kept z s) :
    Kept z (waitExpired part ctx plan s) := by
  unfold waitExpired
  repeat'
    first
      | intro _
      | with_reducible
          first
            | assumption | apply kept_ite | apply kept_releaseLate
      | dsimp only | split

theorem kept_cmdContextSet {z} (_q p s) (hk : Kept z s) :
    Kept z (cmdContextSet _q p s).2 := by
  unfold cmdContextSet
  repeat'
    first
      | intro _
      | with_reducible
          first
            | assumption | apply kept_ite | apply kept_fail | apply kept_ok | apply kept_updCtx | apply kept_ite_snd
      | (refine kept_snd ?_ (by assumption)) | dsimp only | split

theorem kept_sliceExpired {z} (part s) (hk : Kept z s) :
    Kept z (sliceExpired part s) := by
  unfold sliceExpired
  repeat'
    first
      | intro _
      | with_reducible
          first
            | assumption | apply kept_ite | apply kept_same | apply kept_considerSwitch | apply kept_updPart
      | simp only [kept_mk] | exact RecKept.push _ _ | exact RecKept.same rfl rfl | exact FwKept.same rfl
      | dsimp only | split

theorem kept_sliceOverrun {z} (part s) (hk : Kept z s) :
    Kept z (sliceOverrun part s) := by
  unfold sliceOverrun
  repeat'
    first
      | intro _
      | with_reducible
          first
            | assumption | apply kept_ite | apply kept_updPart | apply kept_saveUnderstory
      | dsimp only | split

theorem kept_switchDone {z} (part s) (hk : Kept z s) :
    Kept z (switchDone part s) := by
  unfold switchDone
  repeat'
    first
      | intro _
      | with_reducible
          first
            | assumption | apply kept_ite | apply kept_same | apply kept_restoreUnderstory | apply kept_updCtx
            | apply kept_updPart
      | simp only [kept_mk] | exact RecKept.push _ _ | exact RecKept.same rfl rfl | exact FwKept.same rfl
      | dsimp only | split

theorem kept_stepStart {z} (part s) (hk : Kept z s) :
    Kept z (stepStart part s) := by
  unfold stepStart
  repeat'
    first
      | intro _
      | with_reducible
          first
            | assumption | apply kept_ite | apply kept_startStep
      | dsimp only | split

theorem kept_stepComplete {z} (part s) (hk : Kept z s) :
    Kept z (stepComplete part s) := by
  unfold stepComplete
  repeat'
    first
      | intro _
      | with_reducible
          first
            | assumption | apply kept_ite | apply kept_considerSwitch | apply kept_pump | apply kept_endStep
      | dsimp only | split

theorem kept_cmdCacheOpen {z} (_q p s) (hk : Kept z s) :
    Kept z (cmdCacheOpen _q p s).2 := by
  unfold cmdCacheOpen
  repeat'
    first
      | intro _
      | with_reducible
          first
            | assumption | apply kept_ite | apply kept_same | apply kept_fail | apply kept_ok | apply kept_updPart
            | apply kept_ite_snd
      | simp only [kept_mk] | exact RecKept.push _ _ | exact RecKept.same rfl rfl | exact FwKept.same rfl
      | (refine kept_snd ?_ (by assumption)) | dsimp only | split

theorem kept_cmdCacheClose {z} (_q p s) (hk : Kept z s) :
    Kept z (cmdCacheClose _q p s).2 := by
  unfold cmdCacheClose
  repeat'
    first
      | intro _
      | with_reducible
          first
            | assumption | apply kept_ite | apply kept_fail | apply kept_freePages | apply kept_settleReserve
            | apply kept_updPart | apply kept_ok | apply kept_finish | apply kept_ite_snd | apply kept_foldl
      | (refine kept_snd ?_ (by assumption)) | dsimp only | split

theorem kept_truncateSeq {z} (part c seq len s) (hk : Kept z s) :
    Kept z (truncateSeq part c seq len s) := by
  unfold truncateSeq
  repeat'
    first
      | intro _
      | with_reducible
          first
            | assumption | apply kept_ite | apply kept_truncateLayer | apply kept_foldl
      | dsimp only | split

theorem kept_cacheSeqNow {z} (p s) (hk : Kept z s) :
    Kept z (cacheSeqNow p s).2 := by
  unfold cacheSeqNow
  repeat'
    first
      | intro _
      | with_reducible
          first
            | assumption | apply kept_ite | apply kept_fail | apply kept_updCache | apply kept_ok
            | apply kept_settleReserve | apply kept_truncateSeq | apply kept_releaseSeq | apply kept_ite_snd
      | (refine kept_snd ?_ (by assumption)) | dsimp only | split

theorem kept_cmdCacheSeq {z} (_q p s) (hk : Kept z s) :
    Kept z (cmdCacheSeq _q p s).2 := by
  unfold cmdCacheSeq
  repeat'
    first
      | intro _
      | with_reducible
          first
            | assumption | apply kept_ite | apply kept_fail | apply kept_updPart | apply kept_cacheSeqNow
            | apply kept_ite_snd
      | (refine kept_snd ?_ (by assumption)) | dsimp only | split

theorem kept_runDeferred {z} (s) (hk : Kept z s) :
    Kept z (runDeferred s) := by
  unfold runDeferred
  repeat'
    first
      | intro _
      | with_reducible
          first
            | assumption | apply kept_ite | apply kept_updPart | apply kept_cacheSeqNow | apply kept_finish
            | apply kept_foldl
      | (refine kept_snd ?_ (by assumption)) | dsimp only | split

theorem kept_cmdCacheSeqQuery {z} (q p s) (hk : Kept z s) :
    Kept z (cmdCacheSeqQuery q p s).2 := by
  unfold cmdCacheSeqQuery
  repeat'
    first
      | intro _
      | with_reducible
          first
            | assumption | apply kept_ite | apply kept_fail | apply kept_ok | apply kept_copyOut | apply kept_ite_snd
      | (refine kept_snd ?_ (by assumption)) | dsimp only | split

theorem kept_startMove {z} (part h seq layer i toRoot s) (hk : Kept z s) :
    Kept z (startMove part h seq layer i toRoot s) := by
  unfold startMove
  repeat'
    first
      | intro _
      | with_reducible
          first
            | assumption | apply kept_ite | apply kept_updCache
      | dsimp only | split

theorem kept_cmdCacheMigrate {z} (_q p s) (hk : Kept z s) :
    Kept z (cmdCacheMigrate _q p s).2 := by
  unfold cmdCacheMigrate
  repeat'
    first
      | intro _
      | with_reducible
          first
            | assumption | apply kept_ite | apply kept_fail | apply kept_startMove | apply kept_updCache
            | apply kept_ite_snd | apply kept_foldl
      | (refine kept_snd ?_ (by assumption)) | dsimp only | split

theorem kept_copyPage {z} (x c e place s) (hk : Kept z s) :
    Kept z (copyPage x c e place s) := by
  unfold copyPage
  repeat'
    first
      | intro _
      | with_reducible
          first
            | assumption | apply kept_ite | apply kept_writeCells | apply kept_loseLine | apply kept_foldl
      | dsimp only | split

theorem kept_switchPage {z} (part h seq layer i s) (hk : Kept z s) :
    Kept z (switchPage part h seq layer i s) := by
  unfold switchPage
  repeat'
    first
      | intro _
      | with_reducible
          first
            | assumption | apply kept_ite | apply kept_updCache | apply kept_reseal | apply kept_freePage
            | apply kept_copyPage
      | dsimp only | split

theorem kept_pageSwitch {z} (part h s) (hk : Kept z s) :
    Kept z (pageSwitch part h s) := by
  unfold pageSwitch
  repeat'
    first
      | intro _
      | with_reducible
          first
            | assumption | apply kept_ite | apply kept_switchPage | apply kept_foldl
      | dsimp only | split

theorem kept_migrationDone {z} (o s) (hk : Kept z s) :
    Kept z (migrationDone o s) := by
  unfold migrationDone
  repeat'
    first
      | intro _
      | with_reducible
          first
            | assumption | apply kept_ite | apply kept_finish | apply kept_updCache
      | dsimp only | split

theorem kept_cmdCacheStatus {z} (_q p s) (hk : Kept z s) :
    Kept z (cmdCacheStatus _q p s).2 := by
  unfold cmdCacheStatus
  repeat'
    first
      | intro _
      | with_reducible
          first
            | assumption | apply kept_ite | apply kept_fail | apply kept_ok | apply kept_ite_snd
      | (refine kept_snd ?_ (by assumption)) | dsimp only | split

theorem kept_recordUnit {z} (u s) (hk : Kept z s) :
    Kept z (recordUnit u s) := by
  unfold recordUnit
  repeat'
    first
      | intro _
      | with_reducible
          first
            | assumption | apply kept_ite | apply kept_record
      | dsimp only | split

theorem kept_moveAway {z} (u a s) (hk : Kept z s) :
    Kept z (moveAway u a s) := by
  unfold moveAway
  repeat'
    first
      | intro _
      | with_reducible
          first
            | assumption | apply kept_ite | apply kept_updUnit | apply kept_updCache
      | dsimp only | split

theorem kept_leaveUnit {z} (u s) (hk : Kept z s) :
    Kept z (leaveUnit u s) := by
  unfold leaveUnit
  repeat'
    first
      | intro _
      | with_reducible
          first
            | assumption | apply kept_ite | apply kept_same | apply kept_moveAway | apply kept_updUnit
            | apply kept_foldl
      | simp only [kept_mk] | exact RecKept.push _ _ | exact RecKept.same rfl rfl | exact FwKept.same rfl
      | dsimp only | split

theorem kept_failUnit {z} (u s) (hk : Kept z s) :
    Kept z (failUnit u s) := by
  unfold failUnit
  repeat'
    first
      | intro _
      | with_reducible
          first
            | assumption | apply kept_ite | apply kept_updUnit | apply kept_settleReserve | apply kept_recordUnit
            | apply kept_enqueue
      | dsimp only | split

theorem kept_switchIdle {z} (a s) (hk : Kept z s) :
    Kept z (switchIdle a s) := by
  unfold switchIdle
  repeat'
    first
      | intro _
      | with_reducible
          first
            | assumption | apply kept_ite | apply kept_switchPage
      | dsimp only | split

theorem kept_unitMigrated {z} (u s) (hk : Kept z s) :
    Kept z (unitMigrated u s) := by
  unfold unitMigrated
  repeat'
    first
      | intro _
      | with_reducible
          first
            | assumption | apply kept_ite | apply kept_switchIdle | apply kept_settleReserve | apply kept_updUnit
            | apply kept_endJob | apply kept_foldl
      | dsimp only | split

theorem kept_selfTested {z} (u passed s) (hk : Kept z s) :
    Kept z (selfTested u passed s) := by
  unfold selfTested
  repeat'
    first
      | intro _
      | with_reducible
          first
            | assumption | apply kept_ite | apply kept_same | apply kept_updUnit | apply kept_settleReserve
            | apply kept_recordUnit | apply kept_failUnit
      | simp only [kept_mk] | exact RecKept.push _ _ | exact RecKept.same rfl rfl | exact FwKept.same rfl
      | dsimp only | split

theorem kept_countUnit {z} (u f s) (hk : Kept z s) :
    Kept z (countUnit u f s) := by
  unfold countUnit
  repeat'
    first
      | intro _
      | with_reducible
          first
            | assumption | apply kept_ite | apply kept_updUnit
      | (refine kept_snd ?_ (by assumption)) | (refine kept_fst ?_ (by assumption)) | dsimp only | split

theorem kept_unitFault {z} (u s) (hk : Kept z s) :
    Kept z (unitFault u s) := by
  unfold unitFault
  repeat'
    first
      | intro _
      | with_reducible
          first
            | assumption | apply kept_ite | apply kept_countUnit | apply kept_same | apply kept_updUnit
            | apply kept_failUnit
      | simp only [kept_mk] | exact RecKept.push _ _ | exact RecKept.same rfl rfl | exact FwKept.same rfl
      | dsimp only | split

theorem kept_unitSees {z} (err s) (hk : Kept z s) :
    Kept z (unitSees err s) := by
  unfold unitSees
  repeat'
    first
      | intro _
      | with_reducible
          first
            | assumption | apply kept_ite | apply kept_garble | apply kept_foldl | apply kept_foldl_snd
      | (refine kept_snd ?_ (by assumption)) | (refine kept_fst ?_ (by assumption)) | dsimp only | split

theorem kept_discardTask {z} (u g t s) (hk : Kept z s) :
    Kept z (discardTask u g t s) := by
  unfold discardTask
  repeat'
    first
      | intro _
      | with_reducible
          first
            | assumption | apply kept_ite | apply kept_same | apply kept_countUnit | apply kept_updUnit
      | simp only [kept_mk] | exact RecKept.push _ _ | exact RecKept.same rfl rfl | exact FwKept.same rfl
      | dsimp only | split

theorem kept_scored {z} (u w e js s) (hk : Kept z s) :
    Kept z (scored u w e js s) := by
  unfold scored
  repeat'
    first
      | intro _
      | with_reducible
          first
            | assumption | apply kept_ite | apply kept_updUnit | apply kept_same
      | simp only [kept_mk] | exact RecKept.push _ _ | exact RecKept.same rfl rfl | exact FwKept.same rfl
      | (refine kept_snd ?_ (by assumption)) | (refine kept_fst ?_ (by assumption)) | dsimp only | split

theorem kept_passOne {z} (err u t s) (hk : Kept z s) :
    Kept z (passOne err u t s) := by
  unfold passOne
  repeat'
    first
      | intro _
      | with_reducible
          first
            | assumption | apply kept_ite | apply kept_unitSees | apply kept_scored | apply kept_same
            | apply kept_discardTask | apply kept_updUnit
      | simp only [kept_mk] | exact RecKept.push _ _ | exact RecKept.same rfl rfl | exact FwKept.same rfl
      | dsimp only | split

theorem kept_startTask {z} (err u s) (hk : Kept z s) :
    Kept z (startTask err u s) := by
  unfold startTask
  repeat'
    first
      | intro _
      | with_reducible
          first
            | assumption | apply kept_ite | apply kept_passOne | apply kept_updUnit
      | dsimp only | split

theorem kept_nearBankTask {z} (u t err s) (hk : Kept z s) :
    Kept z (nearBankTask u t err s) := by
  unfold nearBankTask
  repeat'
    first
      | intro _
      | with_reducible
          first
            | assumption | apply kept_ite | apply kept_firebreak | apply kept_startTask | apply kept_updUnit
      | dsimp only | split

theorem kept_passTwo {z} (seen u w e js ms slices s) (hk : Kept z s) :
    Kept z (passTwo seen u w e js ms slices s) := by
  unfold passTwo
  repeat'
    first
      | intro _
      | with_reducible
          first
            | assumption | apply kept_ite | apply kept_updUnit | apply kept_countUnit | apply kept_same
      | simp only [kept_mk] | exact RecKept.push _ _ | exact RecKept.same rfl rfl | exact FwKept.same rfl
      | (refine kept_snd ?_ (by assumption)) | (refine kept_fst ?_ (by assumption)) | dsimp only | split

theorem kept_finalMaxima {z} (u ms err s) (hk : Kept z s) :
    Kept z (finalMaxima u ms err s) := by
  unfold finalMaxima
  repeat'
    first
      | intro _
      | with_reducible
          first
            | assumption | apply kept_ite | apply kept_unitSees | apply kept_passTwo | apply kept_same
            | apply kept_discardTask | apply kept_updUnit | apply kept_startTask
      | simp only [kept_mk] | exact RecKept.push _ _ | exact RecKept.same rfl rfl | exact FwKept.same rfl
      | dsimp only | split

theorem kept_processorEntry {z} (u test s) (hk : Kept z s) :
    Kept z (processorEntry u test s) := by
  unfold processorEntry
  repeat'
    first
      | intro _
      | with_reducible
          first
            | assumption | apply kept_ite | apply kept_same | apply kept_updUnit | apply kept_startTask
      | simp only [kept_mk] | exact RecKept.push _ _ | exact RecKept.same rfl rfl | exact FwKept.same rfl
      | dsimp only | split

theorem kept_bufferError {z} (u s) (hk : Kept z s) :
    Kept z (bufferError u s) := by
  unfold bufferError
  repeat'
    first
      | intro _
      | with_reducible
          first
            | assumption | apply kept_ite | apply kept_startTask | apply kept_unitFault | apply kept_updUnit
            | apply kept_same
      | simp only [kept_mk] | exact RecKept.push _ _ | exact RecKept.same rfl rfl | exact FwKept.same rfl
      | (refine kept_snd ?_ (by assumption)) | (refine kept_fst ?_ (by assumption)) | dsimp only | split

theorem kept_sliceBoundary {z} (u w s) (hk : Kept z s) :
    Kept z (sliceBoundary u w s) := by
  unfold sliceBoundary
  repeat'
    first
      | intro _
      | with_reducible
          first
            | assumption | apply kept_ite | apply kept_countUnit | apply kept_bufferError | apply kept_same
            | apply kept_updUnit
      | simp only [kept_mk] | exact RecKept.push _ _ | exact RecKept.same rfl rfl | exact FwKept.same rfl
      | dsimp only | split

theorem kept_sealReloaded {z} (u s) (hk : Kept z s) :
    Kept z (sealReloaded u s) := by
  unfold sealReloaded
  repeat'
    first
      | intro _
      | with_reducible
          first
            | assumption | apply kept_ite | apply kept_same | apply kept_startTask | apply kept_updUnit
      | simp only [kept_mk] | exact RecKept.push _ _ | exact RecKept.same rfl rfl | exact FwKept.same rfl
      | dsimp only | split

theorem kept_cmdClearingDivision {z} (_q p s) (hk : Kept z s) :
    Kept z (cmdClearingDivision _q p s).2 := by
  unfold cmdClearingDivision
  repeat'
    first
      | intro _
      | with_reducible
          first
            | assumption | apply kept_ite | apply kept_fail | apply kept_ok | apply kept_updPart | apply kept_ite_snd
      | (refine kept_snd ?_ (by assumption)) | dsimp only | split

theorem kept_cmdClearingStatus {z} (q p s) (hk : Kept z s) :
    Kept z (cmdClearingStatus q p s).2 := by
  unfold cmdClearingStatus
  repeat'
    first
      | intro _
      | with_reducible
          first
            | assumption | apply kept_ite | apply kept_Stop.reply | apply kept_fail | apply kept_ok
            | apply kept_ite_snd
      | (refine kept_snd ?_ (by assumption)) | dsimp only | split

theorem kept_cmdClearingTestSet {z} (_q p s) (hk : Kept z s) :
    Kept z (cmdClearingTestSet _q p s).2 := by
  unfold cmdClearingTestSet
  repeat'
    first
      | intro _
      | with_reducible
          first
            | assumption | apply kept_ite | apply kept_same | apply kept_fail | apply kept_ok | apply kept_ite_snd
      | simp only [kept_mk] | exact RecKept.push _ _ | exact RecKept.same rfl rfl | exact FwKept.same rfl
      | (refine kept_snd ?_ (by assumption)) | dsimp only | split

theorem kept_testRunDone {z} (failed s) (hk : Kept z s) :
    Kept z (testRunDone failed s) := by
  unfold testRunDone
  repeat'
    first
      | intro _
      | with_reducible
          first
            | assumption | apply kept_ite | apply kept_same | apply kept_failUnit | apply kept_finish
            | apply kept_foldl
      | simp only [kept_mk] | exact RecKept.push _ _ | exact RecKept.same rfl rfl | exact FwKept.same rfl
      | dsimp only | split

theorem kept_copyRecords {z} (q p limit align size rec more s) (hk : Kept z s) :
    Kept z (copyRecords q p limit align size rec more s).2 := by
  unfold copyRecords
  repeat'
    first
      | intro _
      | with_reducible
          first
            | assumption | apply kept_ite | apply kept_fail | apply kept_ok | apply kept_copyOut | apply kept_ite_snd
      | (refine kept_snd ?_ (by assumption)) | dsimp only | split

theorem kept_cmdClearingCounters {z} (q p s) (hk : Kept z s) :
    Kept z (cmdClearingCounters q p s).2 := by
  unfold cmdClearingCounters
  repeat'
    first
      | intro _
      | with_reducible
          first
            | assumption | apply kept_ite | apply kept_copyRecords | apply kept_ite_snd
      | (refine kept_snd ?_ (by assumption)) | dsimp only | split

theorem kept_cmdLatticeCounters {z} (q p s) (hk : Kept z s) :
    Kept z (cmdLatticeCounters q p s).2 := by
  unfold cmdLatticeCounters
  repeat'
    first
      | intro _
      | with_reducible
          first
            | assumption | apply kept_ite | apply kept_copyRecords | apply kept_ite_snd
      | (refine kept_snd ?_ (by assumption)) | dsimp only | split

theorem kept_reissueTable {z} (s) (hk : Kept z s) :
    Kept z (reissueTable s) := by
  unfold reissueTable
  repeat'
    first
      | intro _
      | with_reducible
          first
            | assumption | apply kept_ite | apply kept_same | apply kept_record
      | simp only [kept_mk] | exact RecKept.push _ _ | exact RecKept.same rfl rfl | exact FwKept.same rfl
      | dsimp only | split

theorem kept_meshWire {z} (g d w n s) (hk : Kept z s) :
    Kept z (meshWire g d w n s) := by
  unfold meshWire
  repeat'
    first
      | intro _
      | with_reducible
          first
            | assumption | apply kept_ite | apply kept_updMesh
      | dsimp only | split

theorem kept_meshDegrade {z} (g d st s) (hk : Kept z s) :
    Kept z (meshDegrade g d st s) := by
  unfold meshDegrade
  repeat'
    first
      | intro _
      | with_reducible
          first
            | assumption | apply kept_ite | apply kept_same | apply kept_settleReserve | apply kept_updMesh
            | apply kept_reissueTable
      | simp only [kept_mk] | exact RecKept.push _ _ | exact RecKept.same rfl rfl | exact FwKept.same rfl
      | dsimp only | split

theorem kept_cmdNetDistance {z} (q p s) (hk : Kept z s) :
    Kept z (cmdNetDistance q p s).2 := by
  unfold cmdNetDistance
  repeat'
    first
      | intro _
      | with_reducible
          first
            | assumption | apply kept_ite | apply kept_copyRecords | apply kept_ite_snd
      | (refine kept_snd ?_ (by assumption)) | dsimp only | split

theorem kept_cmdNetCounters {z} (q p s) (hk : Kept z s) :
    Kept z (cmdNetCounters q p s).2 := by
  unfold cmdNetCounters
  repeat'
    first
      | intro _
      | with_reducible
          first
            | assumption | apply kept_ite | apply kept_copyRecords | apply kept_ite_snd
      | (refine kept_snd ?_ (by assumption)) | dsimp only | split

theorem kept_dropPacket {z} (p s) (hk : Kept z s) :
    Kept z (dropPacket p s) := by
  unfold dropPacket
  repeat'
    first
      | intro _
      | with_reducible
          first
            | assumption | apply kept_ite | apply kept_same | apply kept_settleReserve | apply kept_firebreak
      | simp only [kept_mk] | exact RecKept.push _ _ | exact RecKept.same rfl rfl | exact FwKept.same rfl
      | dsimp only | split

theorem kept_updRouter {z} (g f s) (hk : Kept z s) :
    Kept z (updRouter g f s) := by
  unfold updRouter
  repeat'
    first
      | intro _
      | with_reducible
          first
            | assumption | apply kept_ite | apply kept_same
      | simp only [kept_mk] | exact RecKept.push _ _ | exact RecKept.same rfl rfl | exact FwKept.same rfl
      | (refine kept_snd ?_ (by assumption)) | (refine kept_fst ?_ (by assumption)) | dsimp only | split

theorem kept_sendFlit {z} (g f exit s) (hk : Kept z s) :
    Kept z (sendFlit g f exit s) := by
  unfold sendFlit
  repeat'
    first
      | intro _
      | with_reducible
          first
            | assumption | apply kept_ite | apply kept_updRouter | apply kept_updNet | apply kept_updMesh
            | apply kept_same
      | simp only [kept_mk] | exact RecKept.push _ _ | exact RecKept.same rfl rfl | exact FwKept.same rfl
      | (refine kept_snd ?_ (by assumption)) | (refine kept_fst ?_ (by assumption)) | dsimp only | split

theorem kept_popFlit {z} (g k s) (hk : Kept z s) :
    Kept z (popFlit g k s) := by
  unfold popFlit
  repeat'
    first
      | intro _
      | with_reducible
          first
            | assumption | apply kept_ite | apply kept_updRouter | apply kept_same
      | simp only [kept_mk] | exact RecKept.push _ _ | exact RecKept.same rfl rfl | exact FwKept.same rfl
      | (refine kept_snd ?_ (by assumption)) | (refine kept_fst ?_ (by assumption)) | dsimp only | split

theorem kept_dropFlits {z} (r s) (hk : Kept z s) :
    Kept z (dropFlits r s) := by
  unfold dropFlits
  repeat'
    first
      | intro _
      | with_reducible
          first
            | assumption | apply kept_ite | apply kept_popFlit | apply kept_dropPacket | apply kept_foldl
            | apply kept_foldl_snd
      | (refine kept_snd ?_ (by assumption)) | (refine kept_fst ?_ (by assumption)) | dsimp only | split

theorem kept_routerCycle {z} (s0 r s) (hk : Kept z s) :
    Kept z (routerCycle s0 r s) := by
  unfold routerCycle
  repeat'
    first
      | intro _
      | with_reducible
          first
            | assumption | apply kept_ite | apply kept_updRouter | apply kept_updNet | apply kept_sendFlit
            | apply kept_popFlit | apply kept_foldl | apply kept_foldl_snd | apply kept_same
      | simp only [kept_mk] | exact RecKept.push _ _ | exact RecKept.same rfl rfl | exact FwKept.same rfl
      | (refine kept_snd ?_ (by assumption)) | (refine kept_fst ?_ (by assumption)) | dsimp only | split

theorem kept_netCycle {z} (s) (hk : Kept z s) :
    Kept z (netCycle s) := by
  unfold netCycle
  repeat'
    first
      | intro _
      | with_reducible
          first
            | assumption | apply kept_ite | apply kept_dropFlits | apply kept_routerCycle | apply kept_foldl
            | apply kept_foldl_snd | apply kept_same
      | simp only [kept_mk] | exact RecKept.push _ _ | exact RecKept.same rfl rfl | exact FwKept.same rfl
      | (refine kept_snd ?_ (by assumption)) | (refine kept_fst ?_ (by assumption)) | dsimp only | split

theorem kept_offerPacket {z} (g port p dests s) (hk : Kept z s) :
    Kept z (offerPacket g port p dests s) := by
  unfold offerPacket
  repeat'
    first
      | intro _
      | with_reducible
          first
            | assumption | apply kept_ite | apply kept_updRouter | apply kept_same
      | simp only [kept_mk] | exact RecKept.push _ _ | exact RecKept.same rfl rfl | exact FwKept.same rfl
      | (refine kept_snd ?_ (by assumption)) | (refine kept_fst ?_ (by assumption)) | dsimp only | split

theorem kept_injectTo {z} (g port d p s) (hk : Kept z s) :
    Kept z (injectTo g port d p s) := by
  unfold injectTo
  repeat'
    first
      | intro _
      | with_reducible
          first
            | assumption | apply kept_ite | apply kept_offerPacket | apply kept_same
      | simp only [kept_mk] | exact RecKept.push _ _ | exact RecKept.same rfl rfl | exact FwKept.same rfl
      | (refine kept_snd ?_ (by assumption)) | (refine kept_fst ?_ (by assumption)) | dsimp only | split

theorem kept_netArrival {z} (g port p s) (hk : Kept z s) :
    Kept z (netArrival g port p s) := by
  unfold netArrival
  repeat'
    first
      | intro _
      | with_reducible
          first
            | assumption | apply kept_ite | apply kept_injectTo | apply kept_offerPacket | apply kept_netCycle
            | apply kept_same | apply kept_dropPacket | apply kept_foldl
      | dsimp only | split

theorem kept_meshResend {z} (g d s) (hk : Kept z s) :
    Kept z (meshResend g d s) := by
  unfold meshResend
  repeat'
    first
      | intro _
      | with_reducible
          first
            | assumption | apply kept_ite | apply kept_same | apply kept_updRouter | apply kept_updNet
      | simp only [kept_mk] | exact RecKept.push _ _ | exact RecKept.same rfl rfl | exact FwKept.same rfl
      | dsimp only | split

theorem kept_clearRouters {z} (tracts s) (hk : Kept z s) :
    Kept z (clearRouters tracts s) := by
  unfold clearRouters
  repeat'
    first
      | intro _
      | with_reducible
          first
            | assumption | apply kept_ite | apply kept_same
      | simp only [kept_mk] | exact RecKept.push _ _ | exact RecKept.same rfl rfl | exact FwKept.same rfl
      | (refine kept_snd ?_ (by assumption)) | (refine kept_fst ?_ (by assumption)) | dsimp only | split

theorem kept_reforward {z} (p s) (hk : Kept z s) :
    Kept z (reforward p s) := by
  unfold reforward
  repeat'
    first
      | intro _
      | with_reducible
          first
            | assumption | apply kept_ite | apply kept_toLink | apply kept_holdPacket | apply kept_sendUnreachable
      | dsimp only | split

theorem kept_dropAuto {z} (n s) (hk : Kept z s) :
    Kept z (dropAuto n s) := by
  unfold dropAuto
  repeat'
    first
      | intro _
      | with_reducible
          first
            | assumption | apply kept_ite | apply kept_same
      | simp only [kept_mk] | exact RecKept.push _ _ | exact RecKept.same rfl rfl | exact FwKept.same rfl
      | dsimp only | split

theorem kept_emptyLink {z} (n st s) (hk : Kept z s) :
    Kept z (emptyLink n st s) := by
  unfold emptyLink
  repeat'
    first
      | intro _
      | with_reducible
          first
            | assumption | apply kept_ite | apply kept_dropAuto | apply kept_updLink | apply kept_retryHeld
            | apply kept_reforward | apply kept_foldl
      | dsimp only | split

theorem kept_disableLink {z} (n s) (hk : Kept z s) :
    Kept z (disableLink n s) := by
  unfold disableLink
  repeat'
    first
      | intro _
      | with_reducible
          first
            | assumption | apply kept_ite | apply kept_settleReserve | apply kept_emptyLink
      | (refine kept_snd ?_ (by assumption)) | (refine kept_fst ?_ (by assumption)) | dsimp only | split

theorem kept_linkDown' {z} (n s) (hk : Kept z s) :
    Kept z (linkDown' n s) := by
  unfold linkDown'
  repeat'
    first
      | intro _
      | with_reducible
          first
            | assumption | apply kept_ite | apply kept_same | apply kept_updLink | apply kept_settleReserve
            | apply kept_recordLink | apply kept_emptyLink
      | simp only [kept_mk] | exact RecKept.push _ _ | exact RecKept.same rfl rfl | exact FwKept.same rfl
      | dsimp only | split

theorem kept_failLink {z} (n s) (hk : Kept z s) :
    Kept z (failLink n s) := by
  unfold failLink
  repeat'
    first
      | intro _
      | with_reducible
          first
            | assumption | apply kept_ite | apply kept_linkDown'
      | dsimp only | split

theorem kept_ackDeadline {z} (n s) (hk : Kept z s) :
    Kept z (ackDeadline n s) := by
  unfold ackDeadline
  repeat'
    first
      | intro _
      | with_reducible
          first
            | assumption | apply kept_ite | apply kept_disableLink | apply kept_failLink
      | dsimp only | split

theorem kept_laneFailure {z} (n lane s) (hk : Kept z s) :
    Kept z (laneFailure n lane s) := by
  unfold laneFailure
  repeat'
    first
      | intro _
      | with_reducible
          first
            | assumption | apply kept_ite | apply kept_same | apply kept_updLink | apply kept_linkDown'
      | simp only [kept_mk] | exact RecKept.push _ _ | exact RecKept.same rfl rfl | exact FwKept.same rfl
      | dsimp only | split

theorem kept_retrainTimer {z} (n s) (hk : Kept z s) :
    Kept z (retrainTimer n s) := by
  unfold retrainTimer
  repeat'
    first
      | intro _
      | with_reducible
          first
            | assumption | apply kept_ite | apply kept_same | apply kept_updLink
      | simp only [kept_mk] | exact RecKept.push _ _ | exact RecKept.same rfl rfl | exact FwKept.same rfl
      | dsimp only | split

theorem kept_trainingDone {z} (n p s) (hk : Kept z s) :
    Kept z (trainingDone n p s) := by
  unfold trainingDone
  repeat'
    first
      | intro _
      | with_reducible
          first
            | assumption | apply kept_ite | apply kept_putFlit | apply kept_same | apply kept_updLink
            | apply kept_settleReserve | apply kept_retryHeld
      | simp only [kept_mk] | exact RecKept.push _ _ | exact RecKept.same rfl rfl | exact FwKept.same rfl
      | dsimp only | split

theorem kept_takeHeader {z} (n h s) (hk : Kept z s) :
    Kept z (takeHeader n h s) := by
  unfold takeHeader
  repeat'
    first
      | intro _
      | with_reducible
          first
            | assumption | apply kept_ite | apply kept_foldl | apply kept_putFlit | apply kept_disableLink
            | apply kept_same | apply kept_updLink | apply kept_pumpLink
      | simp only [kept_mk] | exact RecKept.push _ _ | exact RecKept.same rfl rfl | exact FwKept.same rfl
      | dsimp only | split

theorem kept_discardFlit {z} (n s) (hk : Kept z s) :
    Kept z (discardFlit n s) := by
  unfold discardFlit
  repeat'
    first
      | intro _
      | with_reducible
          first
            | assumption | apply kept_ite | apply kept_putFlit | apply kept_same | apply kept_updLink
      | simp only [kept_mk] | exact RecKept.push _ _ | exact RecKept.same rfl rfl | exact FwKept.same rfl
      | dsimp only | split

theorem kept_packetIn {z} (p s) (hk : Kept z s) :
    Kept z (packetIn p s) := by
  unfold packetIn
  repeat'
    first
      | intro _
      | with_reducible
          first
            | assumption | apply kept_ite | apply kept_same | apply kept_recordPacket | apply kept_transit
      | simp only [kept_mk] | exact RecKept.push _ _ | exact RecKept.same rfl rfl | exact FwKept.same rfl
      | dsimp only | split

theorem kept_acceptFlit {z} (n flit s) (hk : Kept z s) :
    Kept z (acceptFlit n flit s) := by
  unfold acceptFlit
  repeat'
    first
      | intro _
      | with_reducible
          first
            | assumption | apply kept_ite | apply kept_putFlit | apply kept_same | apply kept_updLink
            | apply kept_takeHeader | apply kept_packetIn
      | simp only [kept_mk] | exact RecKept.push _ _ | exact RecKept.same rfl rfl | exact FwKept.same rfl
      | dsimp only | split

theorem kept_flitReceived {z} (n flit fecFailed s) (hk : Kept z s) :
    Kept z (flitReceived n flit fecFailed s) := by
  unfold flitReceived
  repeat'
    first
      | intro _
      | with_reducible
          first
            | assumption | apply kept_ite | apply kept_same | apply kept_updLink | apply kept_discardFlit
            | apply kept_takeHeader | apply kept_acceptFlit
      | simp only [kept_mk] | exact RecKept.push _ _ | exact RecKept.same rfl rfl | exact FwKept.same rfl
      | dsimp only | split

theorem kept_joinHandler {z} (p s) (hk : Kept z s) :
    Kept z (joinHandler p s) := by
  unfold joinHandler
  repeat'
    first
      | intro _
      | with_reducible
          first
            | assumption | apply kept_ite | apply kept_updGroup
      | dsimp only | split

theorem kept_leaveHandler {z} (p s) (hk : Kept z s) :
    Kept z (leaveHandler p s) := by
  unfold leaveHandler
  repeat'
    first
      | intro _
      | with_reducible
          first
            | assumption | apply kept_ite | apply kept_updGroup
      | dsimp only | split

theorem kept_prepareHandler {z} (p s) (hk : Kept z s) :
    Kept z (prepareHandler p s) := by
  unfold prepareHandler
  repeat'
    first
      | intro _
      | with_reducible
          first
            | assumption | apply kept_ite | apply kept_updGroup | apply kept_sendView
      | dsimp only | split

theorem kept_readyHandler {z} (p s) (hk : Kept z s) :
    Kept z (readyHandler p s) := by
  unfold readyHandler
  repeat'
    first
      | intro _
      | with_reducible
          first
            | assumption | apply kept_ite | apply kept_concludeView | apply kept_updGroup
      | dsimp only | split

theorem kept_commitHandler {z} (p s) (hk : Kept z s) :
    Kept z (commitHandler p s) := by
  unfold commitHandler
  repeat'
    first
      | intro _
      | with_reducible
          first
            | assumption | apply kept_ite | apply kept_releaseReorder | apply kept_switchView | apply kept_updGroup
      | dsimp only | split

theorem kept_abandonHandler {z} (p s) (hk : Kept z s) :
    Kept z (abandonHandler p s) := by
  unfold abandonHandler
  repeat'
    first
      | intro _
      | with_reducible
          first
            | assumption | apply kept_ite | apply kept_same | apply kept_finish | apply kept_dropGroup
            | apply kept_finishIf | apply kept_updGroup | apply kept_foldl
      | simp only [kept_mk] | exact RecKept.push _ _ | exact RecKept.same rfl rfl | exact FwKept.same rfl
      | dsimp only | split

theorem kept_dataHandler {z} (p s) (hk : Kept z s) :
    Kept z (dataHandler p s) := by
  unfold dataHandler
  repeat'
    first
      | intro _
      | with_reducible
          first
            | assumption | apply kept_ite | apply kept_same
      | simp only [kept_mk] | exact RecKept.push _ _ | exact RecKept.same rfl rfl | exact FwKept.same rfl
      | dsimp only | split

theorem kept_segmentHandler {z} (p s) (hk : Kept z s) :
    Kept z (segmentHandler p s) := by
  unfold segmentHandler
  repeat'
    first
      | intro _
      | with_reducible
          first
            | assumption | apply kept_ite | apply kept_takeSegment
      | dsimp only | split

theorem kept_tokenHandler {z} (p s) (hk : Kept z s) :
    Kept z (tokenHandler p s) := by
  unfold tokenHandler
  repeat'
    first
      | intro _
      | with_reducible
          first
            | assumption | apply kept_ite | apply kept_updGroup | apply kept_sendPacket | apply kept_tokenUp
            | apply kept_foldl
      | dsimp only | split

theorem kept_agreeHandler {z} (p s) (hk : Kept z s) :
    Kept z (agreeHandler p s) := by
  unfold agreeHandler
  repeat'
    first
      | intro _
      | with_reducible
          first
            | assumption | apply kept_ite | apply kept_updGroup
      | dsimp only | split

theorem kept_paceHandler {z} (p s) (hk : Kept z s) :
    Kept z (paceHandler p s) := by
  unfold paceHandler
  repeat'
    first
      | intro _
      | with_reducible
          first
            | assumption | apply kept_ite | apply kept_relayPace | apply kept_updGroup
      | dsimp only | split

theorem kept_unreachableHandler {z} (p s) (hk : Kept z s) :
    Kept z (unreachableHandler p s) := by
  unfold unreachableHandler
  repeat'
    first
      | intro _
      | with_reducible
          first
            | assumption | apply kept_ite | apply kept_recordPacket
      | dsimp only | split

theorem kept_refusedHandler {z} (p s) (hk : Kept z s) :
    Kept z (refusedHandler p s) := by
  unfold refusedHandler
  repeat'
    first
      | intro _
      | with_reducible
          first
            | assumption | apply kept_ite | apply kept_same | apply kept_recordPacket
      | simp only [kept_mk] | exact RecKept.push _ _ | exact RecKept.same rfl rfl | exact FwKept.same rfl
      | dsimp only | split

theorem kept_groupWaitNote {z} (part id s) (hk : Kept z s) :
    Kept z (groupWaitNote part id s) := by
  unfold groupWaitNote
  repeat'
    first
      | intro _
      | with_reducible
          first
            | assumption | apply kept_ite | apply kept_record | apply kept_updGroup
      | dsimp only | split

theorem kept_unroutableRetry {z} (s) (hk : Kept z s) :
    Kept z (unroutableRetry s) := by
  unfold unroutableRetry
  repeat'
    first
      | intro _
      | with_reducible
          first
            | assumption | apply kept_ite | apply kept_retryHeld
      | dsimp only | split

theorem kept_setFabricId {z} (id s) (hk : Kept z s) :
    Kept z (setFabricId id s) := by
  unfold setFabricId
  repeat'
    first
      | intro _
      | with_reducible
          first
            | assumption | apply kept_ite | apply kept_freshHello | apply kept_same | apply kept_retryHeld
      | simp only [kept_mk] | exact RecKept.push _ _ | exact RecKept.same rfl rfl | exact FwKept.same rfl
      | dsimp only | split

theorem kept_cmdFabricId {z} (_q p s) (hk : Kept z s) :
    Kept z (cmdFabricId _q p s).2 := by
  unfold cmdFabricId
  repeat'
    first
      | intro _
      | with_reducible
          first
            | assumption | apply kept_ite | apply kept_fail | apply kept_ok | apply kept_setFabricId
            | apply kept_ite_snd
      | (refine kept_snd ?_ (by assumption)) | dsimp only | split

theorem kept_setRoutes {z} (first es s) (hk : Kept z s) :
    Kept z (setRoutes first es s) := by
  unfold setRoutes
  repeat'
    first
      | intro _
      | with_reducible
          first
            | assumption | apply kept_ite | apply kept_same | apply kept_retryHeld
      | simp only [kept_mk] | exact RecKept.push _ _ | exact RecKept.same rfl rfl | exact FwKept.same rfl
      | dsimp only | split

theorem kept_cmdRouteSet {z} (q p s) (hk : Kept z s) :
    Kept z (cmdRouteSet q p s).2 := by
  unfold cmdRouteSet
  repeat'
    first
      | intro _
      | with_reducible
          first
            | assumption | apply kept_ite | apply kept_fail | apply kept_Stop.reply | apply kept_ok
            | apply kept_setRoutes | apply kept_ite_snd
      | (refine kept_snd ?_ (by assumption)) | dsimp only | split

theorem kept_cmdRouteRead {z} (q p s) (hk : Kept z s) :
    Kept z (cmdRouteRead q p s).2 := by
  unfold cmdRouteRead
  repeat'
    first
      | intro _
      | with_reducible
          first
            | assumption | apply kept_ite | apply kept_fail | apply kept_copyOut | apply kept_ite_snd
      | (refine kept_snd ?_ (by assumption)) | dsimp only | split

theorem kept_cmdLinkStatus {z} (q p s) (hk : Kept z s) :
    Kept z (cmdLinkStatus q p s).2 := by
  unfold cmdLinkStatus
  repeat'
    first
      | intro _
      | with_reducible
          first
            | assumption | apply kept_ite | apply kept_copyOut | apply kept_ite_snd
      | (refine kept_snd ?_ (by assumption)) | dsimp only | split

theorem kept_controlLink {z} (op n s) (hk : Kept z s) :
    Kept z (controlLink op n s) := by
  unfold controlLink
  repeat'
    first
      | intro _
      | with_reducible
          first
            | assumption | apply kept_ite | apply kept_same | apply kept_disableLink | apply kept_settleReserve
            | apply kept_emptyLink | apply kept_updLink | apply kept_linkDown'
      | simp only [kept_mk] | exact RecKept.push _ _ | exact RecKept.same rfl rfl | exact FwKept.same rfl
      | dsimp only | split

theorem kept_cmdLinkControl {z} (_q p s) (hk : Kept z s) :
    Kept z (cmdLinkControl _q p s).2 := by
  unfold cmdLinkControl
  repeat'
    first
      | intro _
      | with_reducible
          first
            | assumption | apply kept_ite | apply kept_fail | apply kept_ok | apply kept_controlLink
            | apply kept_ite_snd | apply kept_foldl
      | (refine kept_snd ?_ (by assumption)) | dsimp only | split

theorem kept_cmdGroupJoin {z} (_q p s) (hk : Kept z s) :
    Kept z (cmdGroupJoin _q p s).2 := by
  unfold cmdGroupJoin
  repeat'
    first
      | intro _
      | with_reducible
          first
            | assumption | apply kept_ite | apply kept_same | apply kept_fail | apply kept_sendView
            | apply kept_ite_snd
      | simp only [kept_mk] | exact RecKept.push _ _ | exact RecKept.same rfl rfl | exact FwKept.same rfl
      | (refine kept_snd ?_ (by assumption)) | dsimp only | split

theorem kept_cmdGroupAdmin {z} (q p s) (hk : Kept z s) :
    Kept z (cmdGroupAdmin q p s).2 := by
  unfold cmdGroupAdmin
  repeat'
    first
      | intro _
      | with_reducible
          first
            | assumption | apply kept_ite | apply kept_fail | apply kept_finish | apply kept_sendView
            | apply kept_dropGroup | apply kept_updGroup | apply kept_concludeView | apply kept_ok
            | apply kept_ite_snd | apply kept_foldl
      | (refine kept_snd ?_ (by assumption)) | dsimp only | split

theorem kept_cmdGroupStatus {z} (_q p s) (hk : Kept z s) :
    Kept z (cmdGroupStatus _q p s).2 := by
  unfold cmdGroupStatus
  repeat'
    first
      | intro _
      | with_reducible
          first
            | assumption | apply kept_ite | apply kept_same | apply kept_fail | apply kept_ok | apply kept_ite_snd
      | simp only [kept_mk] | exact RecKept.push _ _ | exact RecKept.same rfl rfl | exact FwKept.same rfl
      | (refine kept_snd ?_ (by assumption)) | dsimp only | split

theorem kept_cmdPaceSet {z} (_q p s) (hk : Kept z s) :
    Kept z (cmdPaceSet _q p s).2 := by
  unfold cmdPaceSet
  repeat'
    first
      | intro _
      | with_reducible
          first
            | assumption | apply kept_ite | apply kept_fail | apply kept_ok | apply kept_updGroup
            | apply kept_ite_snd
      | (refine kept_snd ?_ (by assumption)) | dsimp only | split

theorem kept_outOfService {z} (cause s) (hk : Kept z s) :
    Kept z (outOfService cause s) := by
  unfold outOfService
  repeat'
    first
      | intro _
      | with_reducible
          first
            | assumption | apply kept_ite | apply kept_same | apply kept_record | apply kept_restoreCaches
            | apply kept_finish | apply kept_settleReserve | apply kept_emptyLink | apply kept_foldl
      | simp only [kept_mk] | exact RecKept.push _ _ | exact RecKept.same rfl rfl | exact FwKept.same rfl
      | dsimp only | split

theorem kept_recordTract {z} (t added s) (hk : Kept z s) :
    Kept z (recordTract t added s) := by
  unfold recordTract
  repeat'
    first
      | intro _
      | with_reducible
          first
            | assumption | apply kept_ite | apply kept_record
      | dsimp only | split

theorem kept_remapTract {z} (part t s) (hk : Kept z s) :
    Kept z (remapTract part t s) := by
  unfold remapTract
  repeat'
    first
      | intro _
      | with_reducible
          first
            | assumption | apply kept_ite | apply kept_recordTract | apply kept_updPart | apply kept_replayPart
      | dsimp only | split

theorem kept_tractOffline {z} (t s) (hk : Kept z s) :
    Kept z (tractOffline t s) := by
  unfold tractOffline
  repeat'
    first
      | intro _
      | with_reducible
          first
            | assumption | apply kept_ite | apply kept_settleReserve | apply kept_updTract | apply kept_enqueue
            | apply kept_recordTract
      | dsimp only | split

theorem kept_relieveStranded {z} (s) (hk : Kept z s) :
    Kept z (relieveStranded s) := by
  unfold relieveStranded
  repeat'
    first
      | intro _
      | with_reducible
          first
            | assumption | apply kept_ite | apply kept_remapTract | apply kept_foldl
      | dsimp only | split

theorem kept_laneSwitched {z} (core lane s) (hk : Kept z s) :
    Kept z (laneSwitched core lane s) := by
  unfold laneSwitched
  repeat'
    first
      | intro _
      | with_reducible
          first
            | assumption | apply kept_ite | apply kept_same | apply kept_settleReserve | apply kept_record
      | simp only [kept_mk] | exact RecKept.push _ _ | exact RecKept.same rfl rfl | exact FwKept.same rfl
      | dsimp only | split

theorem kept_setChannel {z} (core m s) (hk : Kept z s) :
    Kept z (setChannel core m s) := by
  unfold setChannel
  repeat'
    first
      | intro _
      | with_reducible
          first
            | assumption | apply kept_ite | apply kept_same
      | simp only [kept_mk] | exact RecKept.push _ _ | exact RecKept.same rfl rfl | exact FwKept.same rfl
      | dsimp only | split

theorem kept_rehome {z} (core lane s) (hk : Kept z s) :
    Kept z (rehome core lane s) := by
  unfold rehome
  repeat'
    first
      | intro _
      | with_reducible
          first
            | assumption | apply kept_ite | apply kept_setChannel | apply kept_tractOffline
            | apply kept_settleReserve | apply kept_record | apply kept_enqueue
      | dsimp only | split

theorem kept_enqueueRegen {z} (n h q first bad s) (hk : Kept z s) :
    Kept z (enqueueRegen n h q first bad s) := by
  unfold enqueueRegen
  repeat'
    first
      | intro _
      | with_reducible
          first
            | assumption | apply kept_ite | apply kept_updPart | apply kept_enqueue
      | dsimp only | split

theorem kept_losePages {z} (core s) (hk : Kept z s) :
    Kept z (losePages core s) := by
  unfold losePages
  repeat'
    first
      | intro _
      | with_reducible
          first
            | assumption | apply kept_ite | apply kept_same | apply kept_enqueueRegen | apply kept_foldl
      | simp only [kept_mk] | exact RecKept.push _ _ | exact RecKept.same rfl rfl | exact FwKept.same rfl
      | dsimp only | split

theorem kept_endCopy {z} (core s) (hk : Kept z s) :
    Kept z (endCopy core s) := by
  unfold endCopy
  repeat'
    first
      | intro _
      | with_reducible
          first
            | assumption | apply kept_ite | apply kept_closeJob | apply kept_replayPart | apply kept_same
      | simp only [kept_mk] | exact RecKept.push _ _ | exact RecKept.same rfl rfl | exact FwKept.same rfl
      | (refine kept_snd ?_ (by assumption)) | (refine kept_fst ?_ (by assumption)) | dsimp only | split

theorem kept_failChannel {z} (core s) (hk : Kept z s) :
    Kept z (failChannel core s) := by
  unfold failChannel
  repeat'
    first
      | intro _
      | with_reducible
          first
            | assumption | apply kept_ite | apply kept_endCopy | apply kept_same | apply kept_settleReserve
            | apply kept_losePages | apply kept_setChannel | apply kept_closeJob | apply kept_replayPart
      | simp only [kept_mk] | exact RecKept.push _ _ | exact RecKept.same rfl rfl | exact FwKept.same rfl
      | dsimp only | split

theorem kept_breakCopy {z} (core dest s) (hk : Kept z s) :
    Kept z (breakCopy core dest s) := by
  unfold breakCopy
  repeat'
    first
      | intro _
      | with_reducible
          first
            | assumption | apply kept_ite | apply kept_setChannel | apply kept_updLayer | apply kept_loseLine
            | apply kept_endCopy | apply kept_settleReserve | apply kept_losePages | apply kept_foldl
            | apply kept_foldl_snd | apply kept_same
      | simp only [kept_mk] | exact RecKept.push _ _ | exact RecKept.same rfl rfl | exact FwKept.same rfl
      | (refine kept_snd ?_ (by assumption)) | (refine kept_fst ?_ (by assumption)) | dsimp only | split

theorem kept_laneFailing {z} (f s) (hk : Kept z s) :
    Kept z (laneFailing f s) := by
  unfold laneFailing
  repeat'
    first
      | intro _
      | with_reducible
          first
            | assumption | apply kept_ite | apply kept_breakCopy | apply kept_same | apply kept_failChannel
            | apply kept_rehome
      | simp only [kept_mk] | exact RecKept.push _ _ | exact RecKept.same rfl rfl | exact FwKept.same rfl
      | dsimp only | split

theorem kept_rehomeDone {z} (core s) (hk : Kept z s) :
    Kept z (rehomeDone core s) := by
  unfold rehomeDone
  repeat'
    first
      | intro _
      | with_reducible
          first
            | assumption | apply kept_ite | apply kept_setChannel | apply kept_switchIdle | apply kept_moveAway
            | apply kept_endJob | apply kept_foldl
      | dsimp only | split

theorem kept_setLayer {z} (phys st s) (hk : Kept z s) :
    Kept z (setLayer phys st s) := by
  unfold setLayer
  repeat'
    first
      | intro _
      | with_reducible
          first
            | assumption | apply kept_ite | apply kept_same | apply kept_record
      | simp only [kept_mk] | exact RecKept.push _ _ | exact RecKept.same rfl rfl | exact FwKept.same rfl
      | dsimp only | split

theorem kept_withdrawLayer {z} (phys s) (hk : Kept z s) :
    Kept z (withdrawLayer phys s) := by
  unfold withdrawLayer
  repeat'
    first
      | intro _
      | with_reducible
          first
            | assumption | apply kept_ite | apply kept_same | apply kept_setLayer | apply kept_updLayer
            | apply kept_enqueueRegen | apply kept_foldl
      | simp only [kept_mk] | exact RecKept.push _ _ | exact RecKept.same rfl rfl | exact FwKept.same rfl
      | dsimp only | split

theorem kept_beginAbsorption {z} (phys s) (hk : Kept z s) :
    Kept z (beginAbsorption phys s) :=
  kept_mk.2 (kept_arrays hk (fun h => h) (memErase_wf _))

theorem kept_mapOut {z} (phys s) (hk : Kept z s) :
    Kept z (mapOut phys s) := by
  unfold mapOut
  repeat'
    first
      | intro _
      | with_reducible
          first
            | assumption | apply kept_ite | apply kept_beginAbsorption | apply kept_settleReserve
            | apply kept_withdrawLayer | apply kept_outOfService | apply kept_setLayer | apply kept_enqueue
      | dsimp only | split

theorem kept_wholeLayerFault {z} (l s) (hk : Kept z s) :
    Kept z (wholeLayerFault l s) := by
  unfold wholeLayerFault
  repeat'
    first
      | intro _
      | with_reducible
          first
            | assumption | apply kept_ite | apply kept_settleReserve | apply kept_outOfService | apply kept_setLayer
            | apply kept_mapOut
      | dsimp only | split

theorem kept_absorbAll {z} (phys s) (hk : Kept z s) :
    Kept z (absorbAll phys s) :=
  kept_updLayer _ _ _ (kept_mk.2 (kept_arrays hk (fun h => h) (fun _ => rfl)))

theorem kept_absorptionDone {z} (s) (hk : Kept z s) :
    Kept z (absorptionDone s) := by
  unfold absorptionDone
  repeat'
    first
      | intro _
      | with_reducible
          first
            | assumption | apply kept_ite | apply kept_absorbAll | apply kept_endJob | apply kept_settleReserve
            | apply kept_setLayer
      | dsimp only | split

theorem kept_addToBucket {z} (phys s) (hk : Kept z s) :
    Kept z (addToBucket phys s) := by
  unfold addToBucket
  repeat'
    first
      | intro _
      | with_reducible
          first
            | assumption | apply kept_ite | apply kept_same | apply kept_updLayer | apply kept_settleReserve
            | apply kept_record | apply kept_mapOut
      | simp only [kept_mk] | exact RecKept.push _ _ | exact RecKept.same rfl rfl | exact FwKept.same rfl
      | dsimp only | split

theorem kept_countLane {z} (core lane s) (hk : Kept z s) :
    Kept z (countLane core lane s) := by
  unfold countLane
  repeat'
    first
      | intro _
      | with_reducible
          first
            | assumption | apply kept_ite | apply kept_laneFailing | apply kept_same
      | simp only [kept_mk] | exact RecKept.push _ _ | exact RecKept.same rfl rfl | exact FwKept.same rfl
      | (refine kept_snd ?_ (by assumption)) | (refine kept_fst ?_ (by assumption)) | dsimp only | split

theorem kept_countCorrected {z} (phys core errs s) (hk : Kept z s) :
    Kept z (countCorrected phys core errs s) := by
  unfold countCorrected
  repeat'
    first
      | intro _
      | with_reducible
          first
            | assumption | apply kept_ite | apply kept_countLane | apply kept_updLayer | apply kept_addToBucket
      | dsimp only | split

theorem kept_bucketLeak {z} (s) (hk : Kept z s) :
    Kept z (bucketLeak s) := by
  unfold bucketLeak
  repeat'
    first
      | intro _
      | with_reducible
          first
            | assumption | apply kept_ite | apply kept_same
      | simp only [kept_mk] | exact RecKept.push _ _ | exact RecKept.same rfl rfl | exact FwKept.same rfl
      | dsimp only | split

theorem kept_windowExpiry {z} (k s) (hk : Kept z s) :
    Kept z (windowExpiry k s) := by
  unfold windowExpiry
  repeat'
    first
      | intro _
      | with_reducible
          first
            | assumption | apply kept_ite | apply kept_same | apply kept_settleReserve | apply kept_updLayer
      | simp only [kept_mk] | exact RecKept.push _ _ | exact RecKept.same rfl rfl | exact FwKept.same rfl
      | dsimp only | split

theorem kept_loseRead {z} (requester rewritten l s) (hk : Kept z s) :
    Kept z (loseRead requester rewritten l s) := by
  unfold loseRead
  repeat'
    first
      | intro _
      | with_reducible
          first
            | assumption | apply kept_ite | apply kept_recordUncorr | apply kept_updLayer | apply kept_loseLine
      | dsimp only | split

theorem kept_reconstruct {z} (requester rewritten bad l s) (hk : Kept z s) :
    Kept z (reconstruct requester rewritten bad l s).2 := by
  unfold reconstruct
  repeat'
    first
      | intro _
      | with_reducible
          first
            | assumption | apply kept_ite | apply kept_updLayer | apply kept_rebuildLine | apply kept_recordUncorr
            | apply kept_loseRead | apply kept_ite_snd | apply kept_same
      | simp only [kept_mk] | exact RecKept.push _ _ | exact RecKept.same rfl rfl | exact FwKept.same rfl
      | (refine kept_snd ?_ (by assumption)) | (refine kept_fst ?_ (by assumption)) | dsimp only | split

theorem kept_readLine {z} (requester rewritten e l s) (hk : Kept z s) :
    Kept z (readLine requester rewritten e l s).2 := by
  unfold readLine
  repeat'
    first
      | intro _
      | with_reducible
          first
            | assumption | apply kept_ite | apply kept_countBursts | apply kept_reconstruct
            | apply kept_countCorrected | apply kept_updLayer | apply kept_recordUncorr | apply kept_loseRead
            | apply kept_ite_snd
      | dsimp only | split

theorem kept_readLines {z} (requester rewritten e ls s) (hk : Kept z s) :
    Kept z (readLines requester rewritten e ls s).2 :=
  kept_foldl_snd _ (fun _ _ hb => kept_readLine _ _ _ _ _ hb) hk

theorem kept_asRead {z} (e l s) (hk : Kept z s) :
    Kept z (asRead e l s) := by
  unfold asRead
  repeat'
    first
      | with_reducible
          first
            | assumption | apply kept_garble
      | split

theorem kept_asReadLines {z} (e ls s) (hk : Kept z s) :
    Kept z (asReadLines e ls s) :=
  kept_foldl _ (fun s l hs => kept_asRead e l s hs) hk

theorem kept_mergeLine {z} (e l s) (hk : Kept z s) :
    Kept z (mergeLine e l s) := by
  unfold mergeLine
  repeat'
    first
      | intro _
      | with_reducible
          first
            | assumption | apply kept_ite | apply kept_asRead | apply kept_readLine | apply kept_putCells
            | apply kept_same
      | simp only [kept_mk] | exact RecKept.push _ _ | exact RecKept.same rfl rfl | exact FwKept.same rfl
      | (refine kept_snd ?_ (by assumption)) | (refine kept_fst ?_ (by assumption)) | dsimp only | split

theorem kept_UnitJob.run {z} (seen j s) (hk : Kept z s) :
    Kept z (UnitJob.run seen j s) := by
  unfold UnitJob.run
  repeat'
    first
      | intro _
      | with_reducible
          first
            | assumption | apply kept_ite | apply kept_passTwo | apply kept_scored
      | (refine kept_snd ?_ (by assumption)) | (refine kept_fst ?_ (by assumption)) | dsimp only | split

theorem kept_runJobs {z} (err js s) (hk : Kept z s) :
    Kept z (runJobs err js s).2 := by
  unfold runJobs
  repeat'
    first
      | intro _
      | with_reducible
          first
            | assumption | apply kept_ite | apply kept_unitSees | apply kept_UnitJob.run | apply kept_discardTask
            | apply kept_foldl | apply kept_foldl_snd | apply kept_ite_snd | apply kept_same
      | simp only [kept_mk] | exact RecKept.push _ _ | exact RecKept.same rfl rfl | exact FwKept.same rfl
      | (refine kept_snd ?_ (by assumption)) | (refine kept_fst ?_ (by assumption)) | dsimp only | split

theorem kept_Env.regenerate {z} (e ls s) (hk : Kept z s) :
    Kept z (Env.regenerate e ls s) := by
  unfold Env.regenerate
  repeat'
    first
      | intro _
      | with_reducible
          first
            | assumption | apply kept_ite | apply kept_enqueueRegen | apply kept_foldl | apply kept_foldl_snd
      | (refine kept_snd ?_ (by assumption)) | (refine kept_fst ?_ (by assumption)) | dsimp only | split

theorem kept_Env.loseCopies {z} (e ls body s) (hk : Kept z s) (hf : ∀ t, Kept z t → Kept z (body t)) :
    Kept z (Env.loseCopies e ls body s) := by
  unfold Env.loseCopies
  repeat'
    first
      | intro _
      | with_reducible
          first
            | assumption | apply kept_ite | apply kept_loseLine | apply kept_foldl | apply kept_foldl_snd
            | apply kept_same | apply hf
      | simp only [kept_mk] | exact RecKept.push _ _ | exact RecKept.same rfl rfl | exact FwKept.same rfl
      | (refine kept_snd ?_ (by assumption)) | (refine kept_fst ?_ (by assumption)) | dsimp only | split

theorem kept_Env.guarded {z} (e extra body s) (hk : Kept z s) (hf : ∀ t, Kept z t → Kept z (body t)) :
    Kept z (Env.guarded e extra body s) := by
  unfold Env.guarded
  repeat'
    first
      | intro _
      | with_reducible
          first
            | assumption | apply kept_ite | apply kept_Env.regenerate | apply kept_Env.loseCopies
            | apply kept_Env.finishOp | apply kept_Env.note | apply kept_replayStep | apply kept_Env.updStep
            | apply hf
      | dsimp only | split

theorem kept_fetchDescriptor {z} (err part l s) (hk : Kept z s) :
    Kept z (fetchDescriptor err part l s).2 := by
  unfold fetchDescriptor
  repeat'
    first
      | intro _
      | with_reducible
          first
            | assumption | apply kept_ite | apply kept_countCorrected | apply kept_updLayer | apply kept_recordUncorr
            | apply kept_ite_snd
      | (refine kept_snd ?_ (by assumption)) | (refine kept_fst ?_ (by assumption)) | dsimp only | split

theorem kept_ungarble {z} (ls before seen after) (hk : Kept z after) :
    Kept z (ungarble ls before seen after) :=
  kept_mk.2 (kept_mem hk (memSetAll_wf _) (fun h => h))

theorem kept_Env.descriptors {z} (e err s) (hk : Kept z s) :
    Kept z (Env.descriptors e err s).2 := by
  unfold Env.descriptors
  repeat'
    first
      | intro _
      | with_reducible
          first
            | assumption | apply kept_ite | apply kept_fetchDescriptor | apply kept_foldl | apply kept_foldl_snd
            | apply kept_ite_snd
      | (refine kept_snd ?_ (by assumption)) | (refine kept_fst ?_ (by assumption)) | dsimp only | split

theorem kept_Env.readIn {z} (e r err extra s) (hk : Kept z s) :
    Kept z (Env.readIn e r err extra s) := by
  unfold Env.readIn
  repeat'
    first
      | intro _
      | with_reducible
          first
            | assumption | apply kept_ite | apply kept_readLines | apply kept_shareTravel | apply kept_mergeLine
            | apply kept_foldl | apply kept_foldl_snd
      | (refine kept_snd ?_ (by assumption)) | (refine kept_fst ?_ (by assumption)) | dsimp only | split

theorem kept_Env.stored {z} (e ls before seen after) (hk : Kept z after) :
    Kept z (Env.stored e ls before seen after) := by
  unfold Env.stored
  repeat'
    first
      | intro _
      | with_reducible
          first
            | assumption | apply kept_ite | apply kept_shareTravel | apply kept_ungarble
      | (refine kept_snd ?_ (by assumption)) | (refine kept_fst ?_ (by assumption)) | dsimp only | split

theorem kept_Env.reading {z} (e err extra body s) (hk : Kept z s) (hf : ∀ t, Kept z t → Kept z (body t)) :
    Kept z (Env.reading e err extra body s) := by
  unfold Env.reading
  repeat'
    first
      | intro _
      | with_reducible
          first
            | assumption | apply kept_ite | apply kept_Env.descriptors | apply kept_replayStep
            | apply kept_Env.readIn | apply kept_asReadLines | apply kept_Env.stored | apply kept_Env.guarded
            | apply hf
      | (refine kept_snd ?_ (by assumption)) | (refine kept_fst ?_ (by assumption)) | dsimp only | split

theorem kept_runOp {z} (part code op err body s) (hk : Kept z s) (hf : ∀ x t, Kept z t → Kept z (body x t)) :
    Kept z (runOp part code op err body s) := by
  unfold runOp
  repeat'
    first
      | intro _
      | with_reducible
          first
            | assumption | apply kept_ite | apply kept_Env.reading | apply kept_Env.guarded | apply hf
      | dsimp only | split

theorem kept_runAttnClearing {z} (part op others err s) (hk : Kept z s) :
    Kept z (runAttnClearing part op others err s) := by
  unfold runAttnClearing
  repeat'
    first
      | intro _
      | with_reducible
          first
            | assumption | apply kept_ite | apply kept_runJobs | apply kept_Env.reading | apply kept_Env.guarded
            | apply kept_opAttnClearing
      | dsimp only | split

theorem kept_runColl {z} (part code op err views body s) (hk : Kept z s)
    (hf : ∀ x y t, Kept z t → Kept z (body x y t)) :
    Kept z (runColl part code op err views body s) := by
  unfold runColl
  repeat'
    first
      | intro _
      | with_reducible
          first
            | assumption | apply kept_ite | apply kept_Env.reading | apply kept_Env.guarded
            | apply kept_Env.groupDone | apply hf
      | dsimp only | split

theorem kept_runAllReduce {z} (part op others err s) (hk : Kept z s) :
    Kept z (runAllReduce part op others err s) := by
  unfold runAllReduce
  repeat'
    first
      | intro _
      | with_reducible
          first
            | assumption | apply kept_ite | apply kept_runColl | apply kept_opReduce | apply kept_Env.contribute
      | dsimp only | split

theorem kept_runReduceScatter {z} (part op others err s) (hk : Kept z s) :
    Kept z (runReduceScatter part op others err s) := by
  unfold runReduceScatter
  repeat'
    first
      | intro _
      | with_reducible
          first
            | assumption | apply kept_ite | apply kept_Env.joinMaxima | apply kept_runColl | apply kept_opReduce
            | apply kept_Env.contribute
      | dsimp only | split

theorem kept_runAllGather {z} (part op others err s) (hk : Kept z s) :
    Kept z (runAllGather part op others err s) := by
  unfold runAllGather
  repeat'
    first
      | intro _
      | with_reducible
          first
            | assumption | apply kept_ite | apply kept_Env.sendCopies | apply kept_runColl | apply kept_opAllGather
      | dsimp only | split

theorem kept_runAllToAll {z} (part op others err s) (hk : Kept z s) :
    Kept z (runAllToAll part op others err s) := by
  unfold runAllToAll
  repeat'
    first
      | intro _
      | with_reducible
          first
            | assumption | apply kept_ite | apply kept_Env.joinMaxima | apply kept_Env.sendCopies
            | apply kept_runColl | apply kept_opAllToAll
      | dsimp only | split

theorem kept_runBroadcast {z} (part op others err s) (hk : Kept z s) :
    Kept z (runBroadcast part op others err s) := by
  unfold runBroadcast
  repeat'
    first
      | intro _
      | with_reducible
          first
            | assumption | apply kept_ite | apply kept_Env.sendCopies | apply kept_runColl | apply kept_opBroadcast
      | dsimp only | split

theorem kept_kvTravel {z} (e h layer acts body s) (hk : Kept z s) (hf : ∀ t, Kept z t → Kept z (body t)) :
    Kept z (kvTravel e h layer acts body s) := by
  unfold kvTravel
  repeat'
    first
      | intro _
      | with_reducible
          first
            | assumption | apply kept_ite | apply kept_shareTravel | apply hf
      | (refine kept_snd ?_ (by assumption)) | (refine kept_fst ?_ (by assumption)) | dsimp only | split

theorem kept_runKvScatter {z} (part op peers err s) (hk : Kept z s) :
    Kept z (runKvScatter part op peers err s) := by
  unfold runKvScatter
  repeat'
    first
      | intro _
      | with_reducible
          first
            | assumption | apply kept_ite | apply kept_Env.reading | apply kept_kvTravel | apply kept_giveMaxima
            | apply kept_Env.guarded | apply kept_kvLocal | apply kept_sendAgree | apply kept_kvSpanning
      | dsimp only | split

theorem kept_runLocal {z} (part code op err s) (hk : Kept z s) :
    Kept z (runLocal part code op err s) := by
  unfold runLocal
  repeat'
    first
      | intro _
      | with_reducible
          first
            | assumption | apply kept_ite | apply kept_runOp | apply kept_opScalePass | apply kept_opQuantise
            | apply kept_opGemm | apply kept_opGrouped | apply kept_opAttnCanopy | apply kept_opGather
            | apply kept_opScatter | apply kept_opEmbed | apply kept_opTopk | apply kept_opSort | apply kept_opScan
            | apply kept_opConv | apply kept_opRmsnorm | apply kept_opLayernorm | apply kept_opSoftmax
            | apply kept_opEltwise | apply kept_opSample | apply kept_opOptStep | apply kept_opLoss
            | apply kept_opAttnBwd | apply kept_opConvBwd | apply kept_opRmsnormBwd | apply kept_opLayernormBwd
            | apply kept_opSoftmaxBwd
      | dsimp only | split

theorem kept_runAny {z} (part maxima code op s) (hk : Kept z s) :
    Kept z (runAny part maxima code op s) := by
  unfold runAny
  repeat'
    first
      | intro _
      | with_reducible
          first
            | assumption | apply kept_ite | apply kept_same | apply kept_runAttnClearing | apply kept_runKvScatter
            | apply kept_runAllReduce | apply kept_runReduceScatter | apply kept_runAllGather
            | apply kept_runAllToAll | apply kept_runBroadcast | apply kept_runLocal
      | simp only [kept_mk] | exact RecKept.push _ _ | exact RecKept.same rfl rfl | exact FwKept.same rfl
      | dsimp only | split

theorem kept_recordSeal {z} (u g row s) (hk : Kept z s) :
    Kept z (recordSeal u g row s) := by
  unfold recordSeal
  repeat'
    first
      | intro _
      | with_reducible
          first
            | assumption | apply kept_ite | apply kept_record
      | dsimp only | split

theorem kept_losePage {z} (part h seq layer i s) (hk : Kept z s) :
    Kept z (losePage part h seq layer i s) := by
  unfold losePage
  repeat'
    first
      | intro _
      | with_reducible
          first
            | assumption | apply kept_ite | apply kept_openPage | apply kept_updLayer | apply kept_loseLine
            | apply kept_record | apply kept_foldl
      | dsimp only | split

theorem kept_damagedPage {z} (a s) (hk : Kept z s) :
    Kept z (damagedPage a s) := by
  unfold damagedPage
  repeat'
    first
      | intro _
      | with_reducible
          first
            | assumption | apply kept_ite | apply kept_losePage | apply kept_replayPart | apply kept_closeJob
            | apply kept_updPart | apply kept_enqueueRegen
      | dsimp only | split

theorem kept_repairRead {z} (u r s) (hk : Kept z s) :
    Kept z (repairRead u r s) := by
  unfold repairRead
  repeat'
    first
      | intro _
      | with_reducible
          first
            | assumption | apply kept_ite | apply kept_startTask | apply kept_updUnit | apply kept_recordSeal
            | apply kept_damagedPage | apply kept_addToBucket | apply kept_updLayer | apply kept_unitFault
            | apply kept_repeat
      | dsimp only | split

/-- The state of an answer that may be none. -/
def keptOpt (z : State) (o : Option State) : Prop := ∀ t, o = some t → Kept z t

theorem kept_opt_none {z : State} : keptOpt z none := fun _ h => nomatch h

theorem kept_opt_some {z s : State} (h : Kept z s) : keptOpt z (some s) := fun _ e => by
  cases e
  exact h

theorem kept_opt_ite {z : State} {a b : Option State} {c : Prop} [Decidable c] (ha : keptOpt z a) (hb : keptOpt z b) :
    keptOpt z (if c then a else b) := by
  split
  · exact ha
  · exact hb

theorem kept_regenRun {z} (part h seq a n maxima s) (hk : Kept z s) :
    keptOpt z (regenRun part h seq a n maxima s) := by
  unfold regenRun
  repeat'
    first
      | with_reducible
          first
            | assumption | apply kept_freshGroves | apply kept_opt_ite | apply kept_opt_none | apply kept_opt_some
            | apply kept_writeCells | apply kept_updCtx | apply kept_fillBindings | apply kept_runAny
            | apply kept_writeNotes | apply kept_foldl
      | dsimp only | split | intro _

theorem kept_regenAll {z} (part h seq rchunk maxima k a len s) (hk : Kept z s) :
    keptOpt z (regenAll part h seq rchunk maxima k a len s) := by
  induction k generalizing a s with
  | zero => exact kept_opt_some hk
  | succ k ih =>
    unfold regenAll
    apply kept_opt_ite (kept_opt_some hk)
    dsimp only
    split
    · rename_i e
      exact ih _ _ (kept_regenRun _ _ _ _ _ _ _ hk _ e)
    · exact kept_opt_none

theorem kept_pageRecompute {z} (part err s) (hk : Kept z s) :
    Kept z (pageRecompute part err s) := by
  unfold pageRecompute
  repeat'
    first
      | intro _
      | with_reducible
          first
            | assumption | apply kept_ite | apply kept_readLines | apply kept_freshPart | apply kept_updPart
            | apply kept_updCtx | apply kept_losePage | apply kept_replayPart | apply kept_closeJob
            | apply kept_truncateSeq | apply kept_regenAll | apply kept_endJob | apply kept_record | apply kept_foldl
      | (refine kept_regenAll _ _ _ _ _ _ _ _ _ ?_ _ (by assumption)) | dsimp only | split

theorem kept_beginAction {z} (part a s) (hk : Kept z s) :
    Kept z (beginAction part a s) := by
  unfold beginAction
  repeat'
    first
      | intro _
      | with_reducible
          first
            | assumption | apply kept_ite | apply kept_freshPart | apply kept_endJob | apply kept_replayPart
            | apply kept_remapTract | apply kept_leaveUnit | apply kept_closeJob | apply kept_openPage
            | apply kept_restoreCaches | apply kept_updCtx | apply kept_foldl
      | dsimp only | split

theorem kept_beginJobs {z} (s) (hk : Kept z s) :
    Kept z (beginJobs s) := by
  unfold beginJobs
  repeat'
    first
      | intro _
      | with_reducible
          first
            | assumption | apply kept_ite | apply kept_same | apply kept_beginAction | apply kept_updPart
            | apply kept_foldl
      | simp only [kept_mk] | exact RecKept.push _ _ | exact RecKept.same rfl rfl | exact FwKept.same rfl
      | dsimp only | split

theorem kept_recoveryStart {z} (part s) (hk : Kept z s) :
    Kept z (recoveryStart part s) := by
  unfold recoveryStart
  repeat'
    first
      | intro _
      | with_reducible
          first
            | assumption | apply kept_ite | apply kept_beginJobs | apply kept_nextJob
      | dsimp only | split

end Sys2Proof.Machine
end

