-- ==== Sys2Proof/Laws/Kept4.lean ====
section
/-! SUPPORT. `Kept`, one lemma for each definition that gives a state: memory, host commands, power, cooling, partitions, starts and packets. -/
namespace Sys2Proof.Machine

theorem kept_updSensor {z} (die idx f s) (hk : Kept z s) :
    Kept z (updSensor die idx f s) := by
  unfold updSensor
  repeat'
    first
      | intro _
      | with_reducible
          first
            | assumption | apply kept_ite | apply kept_same
      | simp only [kept_mk] | exact RecKept.push _ _ | exact RecKept.same rfl rfl | exact FwKept.same rfl
      | dsimp only | split

theorem kept_settleCap {z} (s) (hk : Kept z s) :
    Kept z (settleCap s) := by
  unfold settleCap
  repeat'
    first
      | intro _
      | with_reducible
          first
            | assumption | apply kept_ite | apply kept_same
      | simp only [kept_mk] | exact RecKept.push _ _ | exact RecKept.same rfl rfl | exact FwKept.same rfl
      | dsimp only | split

theorem kept_haltAll {z} (s) (hk : Kept z s) :
    Kept z (haltAll s) := by
  unfold haltAll
  repeat'
    first
      | intro _
      | with_reducible
          first
            | assumption | apply kept_ite | apply kept_enterSelfRefresh | apply kept_same
      | simp only [kept_mk] | exact RecKept.push _ _ | exact RecKept.same rfl rfl | exact FwKept.same rfl
      | dsimp only | split

theorem kept_vinOut {z} (mv s) (hk : Kept z s) :
    Kept z (vinOut mv s) := by
  unfold vinOut
  repeat'
    first
      | intro _
      | with_reducible
          first
            | assumption | apply kept_ite | apply kept_same | apply kept_haltAll
      | simp only [kept_mk] | exact RecKept.push _ _ | exact RecKept.same rfl rfl | exact FwKept.same rfl
      | dsimp only | split

theorem kept_stepFreq {z} (east s) (hk : Kept z s) :
    Kept z (stepFreq east s) := by
  unfold stepFreq
  repeat'
    first
      | intro _
      | with_reducible
          first
            | assumption | apply kept_ite | apply kept_same
      | simp only [kept_mk] | exact RecKept.push _ _ | exact RecKept.same rfl rfl | exact FwKept.same rfl
      | dsimp only | split

theorem kept_droopStart {z} (plot s) (hk : Kept z s) :
    Kept z (droopStart plot s) := by
  unfold droopStart
  repeat'
    first
      | intro _
      | with_reducible
          first
            | assumption | apply kept_ite | apply kept_same
      | simp only [kept_mk] | exact RecKept.push _ _ | exact RecKept.same rfl rfl | exact FwKept.same rfl
      | dsimp only | split

theorem kept_droopEnd {z} (plot s) (hk : Kept z s) :
    Kept z (droopEnd plot s) := by
  unfold droopEnd
  repeat'
    first
      | intro _
      | with_reducible
          first
            | assumption | apply kept_ite | apply kept_updLattice | apply kept_same | apply kept_considerSwitch
            | apply kept_foldl
      | simp only [kept_mk] | exact RecKept.push _ _ | exact RecKept.same rfl rfl | exact FwKept.same rfl
      | dsimp only | split

theorem kept_recordPowerNote {z} (kind ratio part s) (hk : Kept z s) :
    Kept z (recordPowerNote kind ratio part s) := by
  unfold recordPowerNote
  repeat'
    first
      | intro _
      | with_reducible
          first
            | assumption | apply kept_ite | apply kept_record
      | dsimp only | split

theorem kept_recordRegulator {z} (die index kind s) (hk : Kept z s) :
    Kept z (recordRegulator die index kind s) := by
  unfold recordRegulator
  repeat'
    first
      | intro _
      | with_reducible
          first
            | assumption | apply kept_ite | apply kept_record
      | dsimp only | split

theorem kept_afterRegulator {z} (die index s) (hk : Kept z s) :
    Kept z (afterRegulator die index s) := by
  unfold afterRegulator
  repeat'
    first
      | intro _
      | with_reducible
          first
            | assumption | apply kept_ite | apply kept_tractOffline | apply kept_recordPowerNote
            | apply kept_outOfService | apply kept_wholeLayerFault
      | dsimp only | split

theorem kept_updRegulator {z} (die index f s) (hk : Kept z s) :
    Kept z (updRegulator die index f s) := by
  unfold updRegulator
  repeat'
    first
      | intro _
      | with_reducible
          first
            | assumption | apply kept_ite | apply kept_same
      | simp only [kept_mk] | exact RecKept.push _ _ | exact RecKept.same rfl rfl | exact FwKept.same rfl
      | dsimp only | split

theorem kept_settleRoutes {z} (t old s) (hk : Kept z s) :
    Kept z (settleRoutes t old s) := by
  unfold settleRoutes
  repeat'
    first
      | intro _
      | with_reducible
          first
            | assumption | apply kept_ite | apply kept_reissueTable
      | (refine kept_snd ?_ (by assumption)) | (refine kept_fst ?_ (by assumption)) | dsimp only | split

theorem kept_failRegulator {z} (die index s) (hk : Kept z s) :
    Kept z (failRegulator die index s) := by
  unfold failRegulator
  repeat'
    first
      | intro _
      | with_reducible
          first
            | assumption | apply kept_ite | apply kept_same | apply kept_updTract | apply kept_settleRoutes
            | apply kept_updRegulator | apply kept_afterRegulator | apply kept_settleReserve
            | apply kept_recordRegulator
      | simp only [kept_mk] | exact RecKept.push _ _ | exact RecKept.same rfl rfl | exact FwKept.same rfl
      | dsimp only | split

theorem kept_pathChecked {z} (die index measured expected s) (hk : Kept z s) :
    Kept z (pathChecked die index measured expected s) := by
  unfold pathChecked
  repeat'
    first
      | intro _
      | with_reducible
          first
            | assumption | apply kept_ite | apply kept_same | apply kept_settleRoutes | apply kept_failRegulator
            | apply kept_updRegulator | apply kept_settleReserve | apply kept_recordRegulator
            | apply kept_afterRegulator
      | simp only [kept_mk] | exact RecKept.push _ _ | exact RecKept.same rfl rfl | exact FwKept.same rfl
      | dsimp only | split

theorem kept_shareCap {z} (floor s) (hk : Kept z s) :
    Kept z (shareCap floor s) := by
  unfold shareCap
  repeat'
    first
      | intro _
      | with_reducible
          first
            | assumption | apply kept_ite | apply kept_same | apply kept_updTract | apply kept_foldl
      | simp only [kept_mk] | exact RecKept.push _ _ | exact RecKept.same rfl rfl | exact FwKept.same rfl
      | dsimp only | split

theorem kept_paceOf {z} (p s) (hk : Kept z s) :
    Kept z (paceOf p s) := by
  unfold paceOf
  repeat'
    first
      | intro _
      | with_reducible
          first
            | assumption | apply kept_ite | apply kept_sendPace | apply kept_foldl
      | dsimp only | split

theorem kept_paceAll {z} (s) (hk : Kept z s) :
    Kept z (paceAll s) := by
  unfold paceAll
  repeat'
    first
      | intro _
      | with_reducible
          first
            | assumption | apply kept_ite | apply kept_paceOf | apply kept_foldl
      | dsimp only | split

theorem kept_chargeStep {z} (hs nj s) (hk : Kept z s) :
    Kept z (chargeStep hs nj s) := by
  unfold chargeStep
  repeat'
    first
      | intro _
      | with_reducible
          first
            | assumption | apply kept_ite | apply kept_same | apply kept_updPair | apply kept_foldl
      | simp only [kept_mk] | exact RecKept.push _ _ | exact RecKept.same rfl rfl | exact FwKept.same rfl
      | dsimp only | split

theorem kept_chargeTract {z} (t nj share s) (hk : Kept z s) :
    Kept z (chargeTract t nj share s) := by
  unfold chargeTract
  repeat'
    first
      | intro _
      | with_reducible
          first
            | assumption | apply kept_ite | apply kept_same | apply kept_updPart | apply kept_chargeStep
      | simp only [kept_mk] | exact RecKept.push _ _ | exact RecKept.same rfl rfl | exact FwKept.same rfl
      | dsimp only | split

theorem kept_chargeFabric {z} (d fl s) (hk : Kept z s) :
    Kept z (chargeFabric d fl s) := by
  unfold chargeFabric
  repeat'
    first
      | intro _
      | with_reducible
          first
            | assumption | apply kept_ite | apply kept_same | apply kept_updPart | apply kept_chargeStep
            | apply kept_foldl
      | simp only [kept_mk] | exact RecKept.push _ _ | exact RecKept.same rfl rfl | exact FwKept.same rfl
      | dsimp only | split

theorem kept_updProfile {z} (s t e st) (hk : Kept z st) :
    Kept z (updProfile s t e st) := by
  unfold updProfile
  repeat'
    first
      | intro _
      | with_reducible
          first
            | assumption | apply kept_ite | apply kept_updPart
      | dsimp only | split

theorem kept_checkRail {z} (s) (hk : Kept z s) :
    Kept z (checkRail s) := by
  unfold checkRail
  repeat'
    first
      | intro _
      | with_reducible
          first
            | assumption | apply kept_ite | apply kept_same | apply kept_haltAll
      | simp only [kept_mk] | exact RecKept.push _ _ | exact RecKept.same rfl rfl | exact FwKept.same rfl
      | dsimp only | split

theorem kept_countCycles {z} (s) (hk : Kept z s) :
    Kept z (countCycles s) := by
  unfold countCycles
  repeat'
    first
      | intro _
      | with_reducible
          first
            | assumption | apply kept_ite | apply kept_updLattice | apply kept_foldl | apply kept_foldl_snd
            | apply kept_same
      | simp only [kept_mk] | exact RecKept.push _ _ | exact RecKept.same rfl rfl | exact FwKept.same rfl
      | (refine kept_snd ?_ (by assumption)) | (refine kept_fst ?_ (by assumption)) | dsimp only | split

theorem kept_powerPeriod {z} (p s) (hk : Kept z s) :
    Kept z (powerPeriod p s) := by
  unfold powerPeriod
  repeat'
    first
      | intro _
      | with_reducible
          first
            | assumption | apply kept_ite | apply kept_countCycles | apply kept_same | apply kept_updProfile
            | apply kept_chargeTract | apply kept_updTract | apply kept_chargeFabric | apply kept_shareCap
            | apply kept_checkRail | apply kept_paceAll | apply kept_foldl
      | simp only [kept_mk] | exact RecKept.push _ _ | exact RecKept.same rfl rfl | exact FwKept.same rfl
      | dsimp only | split

theorem kept_correction {z} (mv ma s) (hk : Kept z s) :
    Kept z (correction mv ma s) := by
  unfold correction
  repeat'
    first
      | intro _
      | with_reducible
          first
            | assumption | apply kept_ite | apply kept_same | apply kept_recordPowerNote
      | simp only [kept_mk] | exact RecKept.push _ _ | exact RecKept.same rfl rfl | exact FwKept.same rfl
      | dsimp only | split

theorem kept_setBrake {z} (on s) (hk : Kept z s) :
    Kept z (setBrake on s) := by
  unfold setBrake
  repeat'
    first
      | intro _
      | with_reducible
          first
            | assumption | apply kept_ite | apply kept_same | apply kept_paceAll
      | simp only [kept_mk] | exact RecKept.push _ _ | exact RecKept.same rfl rfl | exact FwKept.same rfl
      | dsimp only | split

theorem kept_tractPark {z} (t s) (hk : Kept z s) :
    Kept z (tractPark t s) := by
  unfold tractPark
  repeat'
    first
      | intro _
      | with_reducible
          first
            | assumption | apply kept_ite | apply kept_same | apply kept_updTract
      | simp only [kept_mk] | exact RecKept.push _ _ | exact RecKept.same rfl rfl | exact FwKept.same rfl
      | dsimp only | split

theorem kept_tractWake {z} (t s) (hk : Kept z s) :
    Kept z (tractWake t s) := by
  unfold tractWake
  repeat'
    first
      | intro _
      | with_reducible
          first
            | assumption | apply kept_ite | apply kept_same | apply kept_updTract
      | simp only [kept_mk] | exact RecKept.push _ _ | exact RecKept.same rfl rfl | exact FwKept.same rfl
      | dsimp only | split

theorem kept_ungate {z} (t s) (hk : Kept z s) :
    Kept z (ungate t s) := by
  unfold ungate
  repeat'
    first
      | intro _
      | with_reducible
          first
            | assumption | apply kept_ite | apply kept_same | apply kept_updTract
      | simp only [kept_mk] | exact RecKept.push _ _ | exact RecKept.same rfl rfl | exact FwKept.same rfl
      | dsimp only | split

theorem kept_wakeLimit {z} (t s) (hk : Kept z s) :
    Kept z (wakeLimit t s) := by
  unfold wakeLimit
  repeat'
    first
      | intro _
      | with_reducible
          first
            | assumption | apply kept_ite | apply kept_updTract | apply kept_foldl
      | dsimp only | split

theorem kept_setPower {z} (b s) (hk : Kept z s) :
    Kept z (setPower b s) := by
  unfold setPower
  repeat'
    first
      | intro _
      | with_reducible
          first
            | assumption | apply kept_ite | apply kept_same | apply kept_settleCap
      | simp only [kept_mk] | exact RecKept.push _ _ | exact RecKept.same rfl rfl | exact FwKept.same rfl
      | dsimp only | split

theorem kept_cmdPowerCap {z} (_q p s) (hk : Kept z s) :
    Kept z (cmdPowerCap _q p s).2 := by
  unfold cmdPowerCap
  repeat'
    first
      | intro _
      | with_reducible
          first
            | assumption | apply kept_ite | apply kept_fail | apply kept_setPower | apply kept_ok
            | apply kept_ite_snd
      | (refine kept_snd ?_ (by assumption)) | dsimp only | split

theorem kept_cmdPowerStatus {z} (q p s) (hk : Kept z s) :
    Kept z (cmdPowerStatus q p s).2 := by
  unfold cmdPowerStatus
  repeat'
    first
      | intro _
      | with_reducible
          first
            | assumption | apply kept_ite | apply kept_copyOut | apply kept_ite_snd
      | (refine kept_snd ?_ (by assumption)) | dsimp only | split

theorem kept_cmdFixedFreq {z} (_q p s) (hk : Kept z s) :
    Kept z (cmdFixedFreq _q p s).2 := by
  unfold cmdFixedFreq
  repeat'
    first
      | intro _
      | with_reducible
          first
            | assumption | apply kept_ite | apply kept_same | apply kept_fail | apply kept_updPart | apply kept_ok
            | apply kept_ite_snd
      | simp only [kept_mk] | exact RecKept.push _ _ | exact RecKept.same rfl rfl | exact FwKept.same rfl
      | (refine kept_snd ?_ (by assumption)) | dsimp only | split

theorem kept_cmdEnergyRead {z} (q p s) (hk : Kept z s) :
    Kept z (cmdEnergyRead q p s).2 := by
  unfold cmdEnergyRead
  repeat'
    first
      | intro _
      | with_reducible
          first
            | assumption | apply kept_ite | apply kept_same | apply kept_ok | apply kept_fail | apply kept_Stop.reply
            | apply kept_ite_snd
      | simp only [kept_mk] | exact RecKept.push _ _ | exact RecKept.same rfl rfl | exact FwKept.same rfl
      | (refine kept_snd ?_ (by assumption)) | dsimp only | split

theorem kept_cmdRegionAlloc {z} (_q p s) (hk : Kept z s) :
    Kept z (cmdRegionAlloc _q p s).2 := by
  unfold cmdRegionAlloc
  repeat'
    first
      | intro _
      | with_reducible
          first
            | assumption | apply kept_ite | apply kept_freeLines | apply kept_same | apply kept_fail
            | apply kept_updPart | apply kept_ok | apply kept_ite_snd
      | simp only [kept_mk] | exact RecKept.push _ _ | exact RecKept.same rfl rfl | exact FwKept.same rfl
      | (refine kept_snd ?_ (by assumption)) | dsimp only | split

theorem kept_zeroFilled {z} (part h s) (hk : Kept z s) :
    Kept z (zeroFilled part h s) := by
  unfold zeroFilled
  repeat'
    first
      | intro _
      | with_reducible
          first
            | assumption | apply kept_ite | apply kept_writeLine | apply kept_finish | apply kept_updPart
            | apply kept_foldl
      | dsimp only | split

theorem kept_cmdRegionFree {z} (_q p s) (hk : Kept z s) :
    Kept z (cmdRegionFree _q p s).2 := by
  unfold cmdRegionFree
  repeat'
    first
      | intro _
      | with_reducible
          first
            | assumption | apply kept_ite | apply kept_fail | apply kept_finishIf | apply kept_freeLines
            | apply kept_ok | apply kept_updPart | apply kept_ite_snd
      | (refine kept_snd ?_ (by assumption)) | dsimp only | split

theorem kept_cmdRegionQuery {z} (_q p s) (hk : Kept z s) :
    Kept z (cmdRegionQuery _q p s).2 := by
  unfold cmdRegionQuery
  repeat'
    first
      | intro _
      | with_reducible
          first
            | assumption | apply kept_ite | apply kept_fail | apply kept_ok | apply kept_ite_snd
      | (refine kept_snd ?_ (by assumption)) | dsimp only | split

theorem kept_updDecoder {z} (n f s) (hk : Kept z s) :
    Kept z (updDecoder n f s) := by
  unfold updDecoder
  repeat'
    first
      | intro _
      | with_reducible
          first
            | assumption | apply kept_ite | apply kept_same
      | simp only [kept_mk] | exact RecKept.push _ _ | exact RecKept.same rfl rfl | exact FwKept.same rfl
      | dsimp only | split

theorem kept_cmdHdmBind {z} (_q p s) (hk : Kept z s) :
    Kept z (cmdHdmBind _q p s).2 := by
  unfold cmdHdmBind
  repeat'
    first
      | intro _
      | with_reducible
          first
            | assumption | apply kept_ite | apply kept_fail | apply kept_ok | apply kept_updDecoder
            | apply kept_ite_snd
      | (refine kept_snd ?_ (by assumption)) | dsimp only | split

theorem kept_cmdHdmUnbind {z} (_q p s) (hk : Kept z s) :
    Kept z (cmdHdmUnbind _q p s).2 := by
  unfold cmdHdmUnbind
  repeat'
    first
      | intro _
      | with_reducible
          first
            | assumption | apply kept_ite | apply kept_fail | apply kept_ok | apply kept_updDecoder
            | apply kept_ite_snd
      | (refine kept_snd ?_ (by assumption)) | dsimp only | split

theorem kept_cmdHdmStatus {z} (q p s) (hk : Kept z s) :
    Kept z (cmdHdmStatus q p s).2 := by
  unfold cmdHdmStatus
  repeat'
    first
      | intro _
      | with_reducible
          first
            | assumption | apply kept_ite | apply kept_ok | apply kept_ite_snd
      | (refine kept_snd ?_ (by assumption)) | dsimp only | split

theorem kept_decoderCommit {z} (n base size s) (hk : Kept z s) :
    Kept z (decoderCommit n base size s) := by
  unfold decoderCommit
  repeat'
    first
      | intro _
      | with_reducible
          first
            | assumption | apply kept_ite | apply kept_same | apply kept_updDecoder
      | simp only [kept_mk] | exact RecKept.push _ _ | exact RecKept.same rfl rfl | exact FwKept.same rfl
      | dsimp only | split

theorem kept_noteUnbound {z} (n s) (hk : Kept z s) :
    Kept z (noteUnbound n s) := by
  unfold noteUnbound
  repeat'
    first
      | intro _
      | with_reducible
          first
            | assumption | apply kept_ite | apply kept_same | apply kept_recordHost | apply kept_updDecoder
      | simp only [kept_mk] | exact RecKept.push _ _ | exact RecKept.same rfl rfl | exact FwKept.same rfl
      | dsimp only | split

theorem kept_cxlOut {z} (bytes poison s) (hk : Kept z s) :
    Kept z (cxlOut bytes poison s) := by
  unfold cxlOut
  repeat'
    first
      | intro _
      | with_reducible
          first
            | assumption | apply kept_ite | apply kept_same
      | simp only [kept_mk] | exact RecKept.push _ _ | exact RecKept.same rfl rfl | exact FwKept.same rfl
      | dsimp only | split

theorem kept_cxlRead {z} (hpa len e s) (hk : Kept z s) :
    Kept z (cxlRead hpa len e s) := by
  unfold cxlRead
  split
  · exact hk
  · refine kept_ite (kept_cxlOut _ _ _ hk) ?_
    split
    · exact kept_noteUnbound _ _ (kept_cxlOut _ _ _ hk)
    · exact kept_cxlOut _ _ _ hk
    · dsimp only
      have ht : ∀ cs : List Nat, Kept z (cs.foldl (fun s c => cxlTravel c 1 2 s) s) := fun cs =>
        kept_foldl _ (fun _ _ hs => kept_cxlTravel _ _ _ _ hs) hk
      have hr := fun ls cs => kept_readLines 4 [] e ls _ (ht cs)
      exact kept_ite (kept_cxlOut _ _ _ (kept_mk.2 (kept_same (hr _ _) (RecKept.same rfl rfl) (FwKept.same rfl)))) (kept_cxlOut _ _ _ (hr _ _))

theorem kept_cxlWrite {z} (hpa data e s) (hk : Kept z s) :
    Kept z (cxlWrite hpa data e s) := by
  unfold cxlWrite
  repeat'
    first
      | intro _
      | with_reducible
          first
            | assumption | apply kept_ite | apply kept_foldl | apply kept_cxlTravel | apply kept_mergeLine
            | apply kept_noteUnbound | apply kept_readLines | apply kept_asReadLines | apply kept_writeAt
      | (refine kept_snd ?_ (by assumption)) | dsimp only | split

theorem kept_cmdMemregRead {z} (_q p s) (hk : Kept z s) :
    Kept z (cmdMemregRead _q p s).2 := by
  unfold cmdMemregRead
  repeat'
    first
      | intro _
      | with_reducible
          first
            | assumption | apply kept_ite | apply kept_fail | apply kept_ok | apply kept_ite_snd
      | (refine kept_snd ?_ (by assumption)) | dsimp only | split

theorem kept_cmdMemregWrite {z} (_q p s) (hk : Kept z s) :
    Kept z (cmdMemregWrite _q p s).2 := by
  unfold cmdMemregWrite
  repeat'
    first
      | intro _
      | with_reducible
          first
            | assumption | apply kept_ite | apply kept_fail | apply kept_ok | apply kept_updLayer
            | apply kept_ite_snd
      | (refine kept_snd ?_ (by assumption)) | dsimp only | split

theorem kept_scrubStart {z} (l s) (hk : Kept z s) :
    Kept z (scrubStart l s) := by
  unfold scrubStart
  repeat'
    first
      | intro _
      | with_reducible
          first
            | assumption | apply kept_ite | apply kept_same | apply kept_updLayer
      | simp only [kept_mk] | exact RecKept.push _ _ | exact RecKept.same rfl rfl | exact FwKept.same rfl
      | dsimp only | split

theorem kept_scrubStep {z} (l core line s) (hk : Kept z s) :
    Kept z (scrubStep l core line s) := by
  unfold scrubStep
  repeat'
    first
      | intro _
      | with_reducible
          first
            | assumption | apply kept_ite | apply kept_same | apply kept_updLayer
      | simp only [kept_mk] | exact RecKept.push _ _ | exact RecKept.same rfl rfl | exact FwKept.same rfl
      | dsimp only | split

theorem kept_rewriteParity {z} (core line s) (hk : Kept z s) :
    Kept z (rewriteParity core line s) :=
  kept_mk.2 (kept_arrays hk (fun h => h) (memSetAll_wf _))

theorem kept_countMismatch {z} (phys s) (hk : Kept z s) :
    Kept z (countMismatch phys s) := by
  unfold countMismatch
  repeat'
    first
      | intro _
      | with_reducible
          first
            | assumption | apply kept_ite | apply kept_addToBucket | apply kept_updLayer | apply kept_same
      | simp only [kept_mk] | exact RecKept.push _ _ | exact RecKept.same rfl rfl | exact FwKept.same rfl
      | (refine kept_snd ?_ (by assumption)) | (refine kept_fst ?_ (by assumption)) | dsimp only | split

theorem kept_retag {z} (change l s) (hk : Kept z s) :
    Kept z (retag change l s) := by
  unfold retag
  dsimp only
  refine kept_ite hk (kept_ite ?_ (kept_ite ?_ (kept_ite hk (kept_ite ?_ ?_))))
  · exact kept_mk.2 (kept_mem (kept_eraseLines _ s hk) (fun h => h) (tags_filter_rising _))
  · exact kept_mk.2 (kept_mem hk (fun h => h) (tagPut_rising _))
  · have h := kept_putCells ((List.range 64).map fun i => (64 * l + i, Config.freeByte s.draw i)) s hk
    exact kept_mk.2 ⟨h.mem, h.parity, fun x => tagPut_rising _ (hk.tags x), h.recd, h.svn, h.pending⟩
  · exact kept_mk.2 (kept_mem hk (fun h => h) (tagPut_rising _))

theorem kept_sealMismatch {z} (phys core line s) (hk : Kept z s) :
    Kept z (sealMismatch phys core line s) := by
  unfold sealMismatch
  repeat'
    first
      | intro _
      | with_reducible
          first
            | assumption | apply kept_ite | apply kept_same | apply kept_countUnit | apply kept_updUnit
      | simp only [kept_mk] | exact RecKept.push _ _ | exact RecKept.same rfl rfl | exact FwKept.same rfl
      | dsimp only | split

theorem kept_scrubData {z} (e l s) (hk : Kept z s) :
    Kept z (scrubData e l s) := by
  unfold scrubData
  repeat'
    first
      | intro _
      | with_reducible
          first
            | assumption | apply kept_ite | apply kept_asRead | apply kept_readLine
      | (refine kept_snd ?_ (by assumption)) | (refine kept_fst ?_ (by assumption)) | dsimp only | split

theorem kept_scrubParity {z} (phys core line errs differs rebuilds s) (hk : Kept z s) :
    Kept z (scrubParity phys core line errs differs rebuilds s) := by
  unfold scrubParity
  repeat'
    first
      | intro _
      | with_reducible
          first
            | assumption | apply kept_ite | apply kept_rewriteParity | apply kept_countMismatch
            | apply kept_countCorrected | apply kept_updLayer | apply kept_loseRead
      | (refine kept_snd ?_ (by assumption)) | (refine kept_fst ?_ (by assumption)) | dsimp only | split

theorem kept_scrubTags {z} (phys core line layer errs rebuilds s) (hk : Kept z s) :
    Kept z (scrubTags phys core line layer errs rebuilds s) := by
  unfold scrubTags
  repeat'
    first
      | intro _
      | with_reducible
          first
            | assumption | apply kept_ite | apply kept_countCorrected | apply kept_retag | apply kept_updLayer
            | apply kept_loseRead | apply kept_foldl | apply kept_foldl_snd
      | (refine kept_snd ?_ (by assumption)) | (refine kept_fst ?_ (by assumption)) | dsimp only | split

theorem kept_scrubbed {z} (r s) (hk : Kept z s) :
    Kept z (scrubbed r s) := by
  unfold scrubbed
  repeat'
    first
      | intro _
      | with_reducible
          first
            | assumption | apply kept_ite | apply kept_countBursts | apply kept_scrubData | apply kept_scrubParity
            | apply kept_scrubTags | apply kept_scrubStep | apply kept_readLine | apply kept_asRead
            | apply kept_sealMismatch | apply kept_countCorrected | apply kept_updLayer | apply kept_loseRead
            | apply kept_foldl | apply kept_retag
      | (refine kept_snd ?_ (by assumption)) | dsimp only | split

theorem kept_cmdRepairMap {z} (q p s) (hk : Kept z s) :
    Kept z (cmdRepairMap q p s).2 := by
  unfold cmdRepairMap
  repeat'
    first
      | intro _
      | with_reducible
          first
            | assumption | apply kept_ite | apply kept_fail | apply kept_ok | apply kept_copyOut | apply kept_ite_snd
      | (refine kept_snd ?_ (by assumption)) | dsimp only | split

theorem kept_cmdLayerMap {z} (_q p s) (hk : Kept z s) :
    Kept z (cmdLayerMap _q p s).2 := by
  unfold cmdLayerMap
  repeat'
    first
      | intro _
      | with_reducible
          first
            | assumption | apply kept_ite | apply kept_fail | apply kept_ok | apply kept_ite_snd
      | (refine kept_snd ?_ (by assumption)) | dsimp only | split

theorem kept_tagWritten {z} (core layer line s) (hk : Kept z s) :
    Kept z (tagWritten core layer line s) := by
  unfold tagWritten
  repeat'
    first
      | intro _
      | with_reducible
          first
            | assumption | apply kept_ite | apply kept_same
      | simp only [kept_mk] | exact RecKept.push _ _ | exact RecKept.same rfl rfl | exact FwKept.same rfl
      | dsimp only | split

theorem kept_refreshDue {z} (core layer s) (hk : Kept z s) :
    Kept z (refreshDue core layer s) := by
  unfold refreshDue
  repeat'
    first
      | intro _
      | with_reducible
          first
            | assumption | apply kept_ite | apply kept_same | apply kept_updUnit
      | simp only [kept_mk] | exact RecKept.push _ _ | exact RecKept.same rfl rfl | exact FwKept.same rfl
      | dsimp only | split

theorem kept_assertAlert {z} (s) (hk : Kept z s) :
    Kept z (assertAlert s) := by
  unfold assertAlert
  repeat'
    first
      | intro _
      | with_reducible
          first
            | assumption | apply kept_ite | apply kept_same
      | simp only [kept_mk] | exact RecKept.push _ _ | exact RecKept.same rfl rfl | exact FwKept.same rfl
      | dsimp only | split

theorem kept_recordThermal {z} (sev die idx reading s) (hk : Kept z s) :
    Kept z (recordThermal sev die idx reading s) := by
  unfold recordThermal
  repeat'
    first
      | intro _
      | with_reducible
          first
            | assumption | apply kept_ite | apply kept_same | apply kept_record
      | simp only [kept_mk] | exact RecKept.push _ _ | exact RecKept.same rfl rfl | exact FwKept.same rfl
      | dsimp only | split

theorem kept_recordCooling {z} (sev s) (hk : Kept z s) :
    Kept z (recordCooling sev s) := by
  unfold recordCooling
  repeat'
    first
      | intro _
      | with_reducible
          first
            | assumption | apply kept_ite | apply kept_same | apply kept_record
      | simp only [kept_mk] | exact RecKept.push _ _ | exact RecKept.same rfl rfl | exact FwKept.same rfl
      | dsimp only | split

theorem kept_recordSensor {z} (die idx kind s) (hk : Kept z s) :
    Kept z (recordSensor die idx kind s) := by
  unfold recordSensor
  repeat'
    first
      | intro _
      | with_reducible
          first
            | assumption | apply kept_ite | apply kept_record
      | dsimp only | split

theorem kept_trip {z} (die idx reading s) (hk : Kept z s) :
    Kept z (trip die idx reading s) := by
  unfold trip
  repeat'
    first
      | intro _
      | with_reducible
          first
            | assumption | apply kept_ite | apply kept_same | apply kept_haltAll | apply kept_recordThermal
      | simp only [kept_mk] | exact RecKept.push _ _ | exact RecKept.same rfl rfl | exact FwKept.same rfl
      | dsimp only | split

theorem kept_takeReading {z} (r s) (hk : Kept z s) :
    Kept z (takeReading r s) := by
  unfold takeReading
  repeat'
    first
      | intro _
      | with_reducible
          first
            | assumption | apply kept_ite | apply kept_same | apply kept_updSensor
      | simp only [kept_mk] | exact RecKept.push _ _ | exact RecKept.same rfl rfl | exact FwKept.same rfl
      | dsimp only | split

theorem kept_markPair {z} (idx s) (hk : Kept z s) :
    Kept z (markPair idx s) := by
  unfold markPair
  repeat'
    first
      | intro _
      | with_reducible
          first
            | assumption | apply kept_ite | apply kept_updSensor | apply kept_settleReserve | apply kept_recordSensor
            | apply kept_same
      | simp only [kept_mk] | exact RecKept.push _ _ | exact RecKept.same rfl rfl | exact FwKept.same rfl
      | (refine kept_snd ?_ (by assumption)) | (refine kept_fst ?_ (by assumption)) | dsimp only | split

theorem kept_checkPair {z} (plot s) (hk : Kept z s) :
    Kept z (checkPair plot s) := by
  unfold checkPair
  repeat'
    first
      | intro _
      | with_reducible
          first
            | assumption | apply kept_ite | apply kept_same | apply kept_markPair | apply kept_updSensor
      | simp only [kept_mk] | exact RecKept.push _ _ | exact RecKept.same rfl rfl | exact FwKept.same rfl
      | dsimp only | split

theorem kept_heatTracts {z} (s) (hk : Kept z s) :
    Kept z (heatTracts s) := by
  unfold heatTracts
  repeat'
    first
      | intro _
      | with_reducible
          first
            | assumption | apply kept_ite | apply kept_same | apply kept_updTract | apply kept_foldl
      | simp only [kept_mk] | exact RecKept.push _ _ | exact RecKept.same rfl rfl | exact FwKept.same rfl
      | dsimp only | split

theorem kept_tractCooled {z} (t s) (hk : Kept z s) :
    Kept z (tractCooled t s) := by
  unfold tractCooled
  repeat'
    first
      | intro _
      | with_reducible
          first
            | assumption | apply kept_ite | apply kept_same | apply kept_updTract
      | simp only [kept_mk] | exact RecKept.push _ _ | exact RecKept.same rfl rfl | exact FwKept.same rfl
      | dsimp only | split

theorem kept_beginClamp {z} (s) (hk : Kept z s) :
    Kept z (beginClamp s) := by
  unfold beginClamp
  repeat'
    first
      | intro _
      | with_reducible
          first
            | assumption | apply kept_ite | apply kept_same | apply kept_paceAll
      | simp only [kept_mk] | exact RecKept.push _ _ | exact RecKept.same rfl rfl | exact FwKept.same rfl
      | dsimp only | split

theorem kept_declareAbrupt {z} (s) (hk : Kept z s) :
    Kept z (declareAbrupt s) := by
  unfold declareAbrupt
  repeat'
    first
      | intro _
      | with_reducible
          first
            | assumption | apply kept_ite | apply kept_same | apply kept_settleCap | apply kept_assertAlert
            | apply kept_paceAll | apply kept_recordThermal
      | simp only [kept_mk] | exact RecKept.push _ _ | exact RecKept.same rfl rfl | exact FwKept.same rfl
      | dsimp only | split

theorem kept_endSample {z} (s) (hk : Kept z s) :
    Kept z (endSample s) := by
  unfold endSample
  repeat'
    first
      | intro _
      | with_reducible
          first
            | assumption | apply kept_ite | apply kept_same
      | simp only [kept_mk] | exact RecKept.push _ _ | exact RecKept.same rfl rfl | exact FwKept.same rfl
      | dsimp only | split

theorem kept_sensorSample {z} (rs s) (hk : Kept z s) :
    Kept z (sensorSample rs s) := by
  unfold sensorSample
  repeat'
    first
      | intro _
      | with_reducible
          first
            | assumption | apply kept_ite | apply kept_takeReading | apply kept_heatTracts | apply kept_checkPair
            | apply kept_trip | apply kept_declareAbrupt | apply kept_beginClamp | apply kept_endSample
            | apply kept_foldl
      | dsimp only | split

theorem kept_abruptRecheck {z} (rs s) (hk : Kept z s) :
    Kept z (abruptRecheck rs s) := by
  unfold abruptRecheck
  repeat'
    first
      | intro _
      | with_reducible
          first
            | assumption | apply kept_ite | apply kept_takeReading | apply kept_trip | apply kept_foldl
      | dsimp only | split

theorem kept_abruptClear {z} (s) (hk : Kept z s) :
    Kept z (abruptClear s) := by
  unfold abruptClear
  repeat'
    first
      | intro _
      | with_reducible
          first
            | assumption | apply kept_ite | apply kept_same | apply kept_settleCap
      | simp only [kept_mk] | exact RecKept.push _ _ | exact RecKept.same rfl rfl | exact FwKept.same rfl
      | dsimp only | split

theorem kept_leakageMeasured {z} (layer area current s) (hk : Kept z s) :
    Kept z (leakageMeasured layer area current s) := by
  unfold leakageMeasured
  repeat'
    first
      | intro _
      | with_reducible
          first
            | assumption | apply kept_ite | apply kept_same | apply kept_updSensor
      | simp only [kept_mk] | exact RecKept.push _ _ | exact RecKept.same rfl rfl | exact FwKept.same rfl
      | dsimp only | split

theorem kept_checkHidden {z} (die area s) (hk : Kept z s) :
    Kept z (checkHidden die area s) := by
  unfold checkHidden
  repeat'
    first
      | intro _
      | with_reducible
          first
            | assumption | apply kept_ite | apply kept_same | apply kept_updSensor | apply kept_recordSensor
      | simp only [kept_mk] | exact RecKept.push _ _ | exact RecKept.same rfl rfl | exact FwKept.same rfl
      | dsimp only | split

theorem kept_hiddenCheck {z} (s) (hk : Kept z s) :
    Kept z (hiddenCheck s) := by
  unfold hiddenCheck
  repeat'
    first
      | intro _
      | with_reducible
          first
            | assumption | apply kept_ite | apply kept_same | apply kept_checkHidden | apply kept_settleReserve
            | apply kept_heatTracts | apply kept_foldl
      | simp only [kept_mk] | exact RecKept.push _ _ | exact RecKept.same rfl rfl | exact FwKept.same rfl
      | dsimp only | split

theorem kept_thermalCompute {z} (seconds s) (hk : Kept z s) :
    Kept z (thermalCompute seconds s) := by
  unfold thermalCompute
  repeat'
    first
      | intro _
      | with_reducible
          first
            | assumption | apply kept_ite | apply kept_same | apply kept_settleCap | apply kept_assertAlert
            | apply kept_recordCooling | apply kept_beginClamp
      | simp only [kept_mk] | exact RecKept.push _ _ | exact RecKept.same rfl rfl | exact FwKept.same rfl
      | dsimp only | split

theorem kept_kAdjust {z} (slow s) (hk : Kept z s) :
    Kept z (kAdjust slow s) := by
  unfold kAdjust
  repeat'
    first
      | intro _
      | with_reducible
          first
            | assumption | apply kept_ite | apply kept_same
      | simp only [kept_mk] | exact RecKept.push _ _ | exact RecKept.same rfl rfl | exact FwKept.same rfl
      | dsimp only | split

theorem kept_clampEnd {z} (s) (hk : Kept z s) :
    Kept z (clampEnd s) := by
  unfold clampEnd
  repeat'
    first
      | intro _
      | with_reducible
          first
            | assumption | apply kept_ite | apply kept_same | apply kept_paceAll
      | simp only [kept_mk] | exact RecKept.push _ _ | exact RecKept.same rfl rfl | exact FwKept.same rfl
      | dsimp only | split

theorem kept_alertRelease {z} (s) (hk : Kept z s) :
    Kept z (alertRelease s) := by
  unfold alertRelease
  repeat'
    first
      | intro _
      | with_reducible
          first
            | assumption | apply kept_ite | apply kept_same
      | simp only [kept_mk] | exact RecKept.push _ _ | exact RecKept.same rfl rfl | exact FwKept.same rfl
      | dsimp only | split

theorem kept_warningNote {z} (s) (hk : Kept z s) :
    Kept z (warningNote s) := by
  unfold warningNote
  repeat'
    first
      | intro _
      | with_reducible
          first
            | assumption | apply kept_ite | apply kept_recordCooling
      | dsimp only | split

theorem kept_coolantStale {z} (s) (hk : Kept z s) :
    Kept z (coolantStale s) := by
  unfold coolantStale
  repeat'
    first
      | intro _
      | with_reducible
          first
            | assumption | apply kept_ite | apply kept_same
      | simp only [kept_mk] | exact RecKept.push _ _ | exact RecKept.same rfl rfl | exact FwKept.same rfl
      | dsimp only | split

theorem kept_cmdCoolantSet {z} (_q p s) (hk : Kept z s) :
    Kept z (cmdCoolantSet _q p s).2 := by
  unfold cmdCoolantSet
  repeat'
    first
      | intro _
      | with_reducible
          first
            | assumption | apply kept_ite | apply kept_same | apply kept_fail | apply kept_recordCooling
            | apply kept_ok | apply kept_assertAlert | apply kept_ite_snd
      | simp only [kept_mk] | exact RecKept.push _ _ | exact RecKept.same rfl rfl | exact FwKept.same rfl
      | (refine kept_snd ?_ (by assumption)) | dsimp only | split

theorem kept_setThermal {z} (b s) (hk : Kept z s) :
    Kept z (setThermal b s) := by
  unfold setThermal
  repeat'
    first
      | intro _
      | with_reducible
          first
            | assumption | apply kept_ite | apply kept_same
      | simp only [kept_mk] | exact RecKept.push _ _ | exact RecKept.same rfl rfl | exact FwKept.same rfl
      | dsimp only | split

theorem kept_cmdThermalResponse {z} (_q p s) (hk : Kept z s) :
    Kept z (cmdThermalResponse _q p s).2 := by
  unfold cmdThermalResponse
  repeat'
    first
      | intro _
      | with_reducible
          first
            | assumption | apply kept_ite | apply kept_ok | apply kept_setThermal | apply kept_fail
            | apply kept_ite_snd
      | (refine kept_snd ?_ (by assumption)) | dsimp only | split

theorem kept_cmdThermalStatus {z} (q p s) (hk : Kept z s) :
    Kept z (cmdThermalStatus q p s).2 := by
  unfold cmdThermalStatus
  repeat'
    first
      | intro _
      | with_reducible
          first
            | assumption | apply kept_ite | apply kept_copyOut | apply kept_ite_snd
      | (refine kept_snd ?_ (by assumption)) | dsimp only | split

theorem kept_cmdHealthRingSet {z} (_q p s) (hk : Kept z s) :
    Kept z (cmdHealthRingSet _q p s).2 := by
  unfold cmdHealthRingSet
  repeat'
    first
      | intro _
      | with_reducible
          first
            | assumption | apply kept_ite | apply kept_fail | apply kept_ok | apply kept_updCtx | apply kept_writeAt
            | apply kept_ite_snd
      | (refine kept_snd ?_ (by assumption)) | dsimp only | split

theorem kept_cmdHealthRingStatus {z} (_q p s) (hk : Kept z s) :
    Kept z (cmdHealthRingStatus _q p s).2 := by
  unfold cmdHealthRingStatus
  repeat'
    first
      | intro _
      | with_reducible
          first
            | assumption | apply kept_ite | apply kept_fail | apply kept_ok | apply kept_ite_snd
      | (refine kept_snd ?_ (by assumption)) | dsimp only | split

theorem kept_cmdQueueCreate {z} (_q p s) (hk : Kept z s) :
    Kept z (cmdQueueCreate _q p s).2 := by
  unfold cmdQueueCreate
  repeat'
    first
      | intro _
      | with_reducible
          first
            | assumption | apply kept_ite | apply kept_same | apply kept_fail | apply kept_ok | apply kept_ite_snd
      | simp only [kept_mk] | exact RecKept.push _ _ | exact RecKept.same rfl rfl | exact FwKept.same rfl
      | (refine kept_snd ?_ (by assumption)) | dsimp only | split

theorem kept_beginDeletion {z} (qp deleter s) (hk : Kept z s) :
    Kept z (beginDeletion qp deleter s) := by
  unfold beginDeletion
  repeat'
    first
      | intro _
      | with_reducible
          first
            | assumption | apply kept_ite | apply kept_same | apply kept_updPair | apply kept_cancelQueue
            | apply kept_finish | apply kept_foldl
      | simp only [kept_mk] | exact RecKept.push _ _ | exact RecKept.same rfl rfl | exact FwKept.same rfl
      | dsimp only | split

theorem kept_cmdQueueDelete {z} (_q p s) (hk : Kept z s) :
    Kept z (cmdQueueDelete _q p s).2 := by
  unfold cmdQueueDelete
  repeat'
    first
      | intro _
      | with_reducible
          first
            | assumption | apply kept_ite | apply kept_fail | apply kept_beginDeletion | apply kept_ite_snd
      | (refine kept_snd ?_ (by assumption)) | dsimp only | split

theorem kept_finishDeletions {z} (s) (hk : Kept z s) :
    Kept z (finishDeletions s) := by
  unfold finishDeletions
  repeat'
    first
      | intro _
      | with_reducible
          first
            | assumption | apply kept_ite | apply kept_same | apply kept_finish | apply kept_foldl
      | simp only [kept_mk] | exact RecKept.push _ _ | exact RecKept.same rfl rfl | exact FwKept.same rfl
      | dsimp only | split

theorem kept_cmdQueueStatus {z} (q p s) (hk : Kept z s) :
    Kept z (cmdQueueStatus q p s).2 := by
  unfold cmdQueueStatus
  repeat'
    first
      | intro _
      | with_reducible
          first
            | assumption | apply kept_ite | apply kept_fail | apply kept_ok | apply kept_ite_snd
      | (refine kept_snd ?_ (by assumption)) | dsimp only | split

theorem kept_badDoorbell {z} (qp s) (hk : Kept z s) :
    Kept z (badDoorbell qp s) := by
  unfold badDoorbell
  repeat'
    first
      | intro _
      | with_reducible
          first
            | assumption | apply kept_ite | apply kept_stopPair | apply kept_queueError
      | dsimp only | split

theorem kept_writeTail {z} (qp value s) (hk : Kept z s) :
    Kept z (writeTail qp value s) := by
  unfold writeTail
  repeat'
    first
      | intro _
      | with_reducible
          first
            | assumption | apply kept_ite | apply kept_badDoorbell | apply kept_updPair
      | dsimp only | split

theorem kept_writeHead {z} (qp value s) (hk : Kept z s) :
    Kept z (writeHead qp value s) := by
  unfold writeHead
  repeat'
    first
      | intro _
      | with_reducible
          first
            | assumption | apply kept_ite | apply kept_badDoorbell | apply kept_flush | apply kept_updPair
      | dsimp only | split

theorem kept_doNegotiate {z} (s) (hk : Kept z s) :
    Kept z (doNegotiate s) := by
  unfold doNegotiate
  repeat'
    first
      | intro _
      | with_reducible
          first
            | assumption | apply kept_ite | apply kept_same | apply kept_recordHost
      | simp only [kept_mk] | exact RecKept.push _ _ | exact RecKept.same rfl rfl | exact FwKept.same rfl
      | dsimp only | split

theorem kept_setAdmq {z} (s) (hk : Kept z s) :
    Kept z (setAdmq s) := by
  unfold setAdmq
  repeat'
    first
      | intro _
      | with_reducible
          first
            | assumption | apply kept_ite | apply kept_same | apply kept_queueError
      | simp only [kept_mk] | exact RecKept.push _ _ | exact RecKept.same rfl rfl | exact FwKept.same rfl
      | dsimp only | split

theorem kept_clearAdmq {z} (s) (hk : Kept z s) :
    Kept z (clearAdmq s) := by
  unfold clearAdmq
  repeat'
    first
      | intro _
      | with_reducible
          first
            | assumption | apply kept_ite | apply kept_same | apply kept_beginDeletion
      | simp only [kept_mk] | exact RecKept.push _ _ | exact RecKept.same rfl rfl | exact FwKept.same rfl
      | dsimp only | split

theorem kept_admqDeleted {z} (s) (hk : Kept z s) :
    Kept z (admqDeleted s) := by
  unfold admqDeleted
  repeat'
    first
      | intro _
      | with_reducible
          first
            | assumption | apply kept_ite | apply kept_same
      | simp only [kept_mk] | exact RecKept.push _ _ | exact RecKept.same rfl rfl | exact FwKept.same rfl
      | dsimp only | split

theorem kept_clearQerr {z} (hi v s) (hk : Kept z s) :
    Kept z (clearQerr hi v s) := by
  unfold clearQerr
  repeat'
    first
      | intro _
      | with_reducible
          first
            | assumption | apply kept_ite | apply kept_same
      | simp only [kept_mk] | exact RecKept.push _ _ | exact RecKept.same rfl rfl | exact FwKept.same rfl
      | dsimp only | split

theorem kept_clearEvents {z} (v s) (hk : Kept z s) :
    Kept z (clearEvents v s) := by
  unfold clearEvents
  repeat'
    first
      | intro _
      | with_reducible
          first
            | assumption | apply kept_ite | apply kept_same
      | simp only [kept_mk] | exact RecKept.push _ _ | exact RecKept.same rfl rfl | exact FwKept.same rfl
      | dsimp only | split

theorem kept_setMask {z} (v s) (hk : Kept z s) :
    Kept z (setMask v s) := by
  unfold setMask
  repeat'
    first
      | intro _
      | with_reducible
          first
            | assumption | apply kept_ite | apply kept_same | apply kept_fireVector
      | simp only [kept_mk] | exact RecKept.push _ _ | exact RecKept.same rfl rfl | exact FwKept.same rfl
      | dsimp only | split

theorem kept_startFill {z} (v s) (hk : Kept z s) :
    Kept z (startFill v s) := by
  unfold startFill
  repeat'
    first
      | intro _
      | with_reducible
          first
            | assumption | apply kept_ite | apply kept_same
      | simp only [kept_mk] | exact RecKept.push _ _ | exact RecKept.same rfl rfl | exact FwKept.same rfl
      | dsimp only | split

theorem kept_fillDone {z} (s) (hk : Kept z s) :
    Kept z (fillDone s) := by
  unfold fillDone
  repeat'
    first
      | intro _
      | with_reducible
          first
            | assumption | apply kept_ite | apply kept_same
      | simp only [kept_mk] | exact RecKept.push _ _ | exact RecKept.same rfl rfl | exact FwKept.same rfl
      | dsimp only | split

theorem kept_writeRequested {z} (k v s) (hk : Kept z s) :
    Kept z (writeRequested k v s) := by
  unfold writeRequested
  repeat'
    first
      | intro _
      | with_reducible
          first
            | assumption | apply kept_ite | apply kept_same | apply kept_recordHost
      | simp only [kept_mk] | exact RecKept.push _ _ | exact RecKept.same rfl rfl | exact FwKept.same rfl
      | dsimp only | split

theorem kept_writeAdmq {z} (off v s) (hk : Kept z s) :
    Kept z (writeAdmq off v s) := by
  unfold writeAdmq
  repeat'
    first
      | intro _
      | with_reducible
          first
            | assumption | apply kept_ite | apply kept_same
      | simp only [kept_mk] | exact RecKept.push _ _ | exact RecKept.same rfl rfl | exact FwKept.same rfl
      | dsimp only | split

theorem kept_writeMsix {z} (off v s) (hk : Kept z s) :
    Kept z (writeMsix off v s) := by
  unfold writeMsix
  repeat'
    first
      | intro _
      | with_reducible
          first
            | assumption | apply kept_ite | apply kept_same | apply kept_firePending
      | simp only [kept_mk] | exact RecKept.push _ _ | exact RecKept.same rfl rfl | exact FwKept.same rfl
      | dsimp only | split

theorem kept_barWrite {z} (off v s) (hk : Kept z s) :
    Kept z (barWrite off v s) := by
  unfold barWrite
  repeat'
    first
      | intro _
      | with_reducible
          first
            | assumption | apply kept_ite | apply kept_same | apply kept_writeRequested | apply kept_writeTail
            | apply kept_writeHead | apply kept_doNegotiate | apply kept_setAdmq | apply kept_clearAdmq
            | apply kept_writeAdmq | apply kept_clearQerr | apply kept_clearEvents | apply kept_setMask
            | apply kept_startFill | apply kept_writeMsix
      | simp only [kept_mk] | exact RecKept.push _ _ | exact RecKept.same rfl rfl | exact FwKept.same rfl
      | dsimp only | split

theorem kept_barWriteSized {z} (off size v s) (hk : Kept z s) :
    Kept z (barWriteSized off size v s) := by
  unfold barWriteSized
  repeat'
    first
      | intro _
      | with_reducible
          first
            | assumption | apply kept_ite | apply kept_barWrite
      | dsimp only | split

theorem kept_writeTailOpen {z} (qp v s) (hk : Kept z s) :
    Kept z (writeTailOpen qp v s) := by
  unfold writeTailOpen
  repeat'
    first
      | intro _
      | with_reducible
          first
            | assumption | apply kept_ite | apply kept_writeTail
      | dsimp only | split

theorem kept_writeHeadOpen {z} (qp v s) (hk : Kept z s) :
    Kept z (writeHeadOpen qp v s) := by
  unfold writeHeadOpen
  repeat'
    first
      | intro _
      | with_reducible
          first
            | assumption | apply kept_ite | apply kept_writeHead
      | dsimp only | split

theorem kept_coalExpired {z} (qp s) (hk : Kept z s) :
    Kept z (coalExpired qp s) := by
  unfold coalExpired
  repeat'
    first
      | intro _
      | with_reducible
          first
            | assumption | apply kept_ite | apply kept_same | apply kept_fireVector | apply kept_updPair
      | simp only [kept_mk] | exact RecKept.push _ _ | exact RecKept.same rfl rfl | exact FwKept.same rfl
      | dsimp only | split

theorem kept_acceptedTimeout {z} (qp tag s) (hk : Kept z s) :
    Kept z (acceptedTimeout qp tag s) := by
  unfold acceptedTimeout
  repeat'
    first
      | intro _
      | with_reducible
          first
            | assumption | apply kept_ite | apply kept_post
      | dsimp only | split

theorem kept_cxlLaneFailed {z} (lane s) (hk : Kept z s) :
    Kept z (cxlLaneFailed lane s) := by
  unfold cxlLaneFailed
  repeat'
    first
      | intro _
      | with_reducible
          first
            | assumption | apply kept_ite | apply kept_same | apply kept_raiseEvent
      | simp only [kept_mk] | exact RecKept.push _ _ | exact RecKept.same rfl rfl | exact FwKept.same rfl
      | dsimp only | split

theorem kept_cxlDown {z} (s) (hk : Kept z s) :
    Kept z (cxlDown s) := by
  unfold cxlDown
  repeat'
    first
      | intro _
      | with_reducible
          first
            | assumption | apply kept_ite | apply kept_same
      | simp only [kept_mk] | exact RecKept.push _ _ | exact RecKept.same rfl rfl | exact FwKept.same rfl
      | dsimp only | split

theorem kept_cxlRetrained {z} (s) (hk : Kept z s) :
    Kept z (cxlRetrained s) := by
  unfold cxlRetrained
  repeat'
    first
      | intro _
      | with_reducible
          first
            | assumption | apply kept_ite | apply kept_same | apply kept_firePending | apply kept_flush
            | apply kept_foldl
      | simp only [kept_mk] | exact RecKept.push _ _ | exact RecKept.same rfl rfl | exact FwKept.same rfl
      | dsimp only | split

theorem kept_cxlBack {z} (s) (hk : Kept z s) :
    Kept z (cxlBack s) := by
  unfold cxlBack
  repeat'
    first
      | intro _
      | with_reducible
          first
            | assumption | apply kept_ite | apply kept_cxlRetrained
      | dsimp only | split

theorem kept_configRequest {z} (reg s) (hk : Kept z s) :
    Kept z (configRequest reg s) := by
  unfold configRequest
  repeat'
    first
      | intro _
      | with_reducible
          first
            | assumption | apply kept_ite | apply kept_same
      | simp only [kept_mk] | exact RecKept.push _ _ | exact RecKept.same rfl rfl | exact FwKept.same rfl
      | dsimp only | split

theorem kept_mailbox {z} (op payload s) (hk : Kept z s) :
    Kept z (mailbox op payload s) := by
  unfold mailbox
  repeat'
    first
      | intro _
      | with_reducible
          first
            | assumption | apply kept_ite | apply kept_same
      | simp only [kept_mk] | exact RecKept.push _ _ | exact RecKept.same rfl rfl | exact FwKept.same rfl
      | dsimp only | split

theorem kept_ideFailed {z} (stream s) (hk : Kept z s) :
    Kept z (ideFailed stream s) := by
  unfold ideFailed
  repeat'
    first
      | intro _
      | with_reducible
          first
            | assumption | apply kept_ite | apply kept_same | apply kept_recordHost
      | simp only [kept_mk] | exact RecKept.push _ _ | exact RecKept.same rfl rfl | exact FwKept.same rfl
      | dsimp only | split

theorem kept_ideKeyed {z} (stream setKey s) (hk : Kept z s) :
    Kept z (ideKeyed stream setKey s) := by
  unfold ideKeyed
  repeat'
    first
      | intro _
      | with_reducible
          first
            | assumption | apply kept_ite | apply kept_same
      | simp only [kept_mk] | exact RecKept.push _ _ | exact RecKept.same rfl rfl | exact FwKept.same rfl
      | dsimp only | split

theorem kept_setScrub {z} (v s) (hk : Kept z s) :
    Kept z (setScrub v s) := by
  unfold setScrub
  repeat'
    first
      | intro _
      | with_reducible
          first
            | assumption | apply kept_ite | apply kept_updLayer | apply kept_foldl
      | dsimp only | split

theorem kept_setLinks {z} (given s) (hk : Kept z s) :
    Kept z (setLinks given s) := by
  unfold setLinks
  repeat'
    first
      | intro _
      | with_reducible
          first
            | assumption | apply kept_ite | apply kept_controlLink | apply kept_foldl
      | dsimp only | split

theorem kept_supply {z} (c s) (hk : Kept z s) :
    Kept z (supply c s) := by
  unfold supply
  repeat'
    first
      | intro _
      | with_reducible
          first
            | assumption | apply kept_ite | apply kept_same | apply kept_setFabricId | apply kept_setRoutes
            | apply kept_setPower | apply kept_settleCap | apply kept_setThermal | apply kept_setScrub
            | apply kept_setLinks
      | simp only [kept_mk] | exact RecKept.push _ _ | exact RecKept.same rfl rfl | exact FwKept.same rfl
      | dsimp only | split

theorem kept_recordConfig {z} (event other s) (hk : Kept z s) :
    Kept z (recordConfig event other s) := by
  unfold recordConfig
  repeat'
    first
      | intro _
      | with_reducible
          first
            | assumption | apply kept_ite | apply kept_record
      | dsimp only | split

theorem kept_rollBack {z} (event s) (hk : Kept z s) :
    Kept z (rollBack event s) := by
  unfold rollBack
  repeat'
    first
      | intro _
      | with_reducible
          first
            | assumption | apply kept_ite | apply kept_same | apply kept_recordConfig | apply kept_supply
      | simp only [kept_mk] | exact RecKept.push _ _ | exact RecKept.same rfl rfl | exact FwKept.same rfl
      | dsimp only | split

theorem kept_cmdConfigRead {z} (q p s) (hk : Kept z s) :
    Kept z (cmdConfigRead q p s).2 := by
  unfold cmdConfigRead
  repeat'
    first
      | intro _
      | with_reducible
          first
            | assumption | apply kept_ite | apply kept_fail | apply kept_ok | apply kept_copyOut | apply kept_ite_snd
      | (refine kept_snd ?_ (by assumption)) | dsimp only | split

theorem kept_cmdConfigApply {z} (q p s) (hk : Kept z s) :
    Kept z (cmdConfigApply q p s).2 := by
  unfold cmdConfigApply
  repeat'
    first
      | intro _
      | with_reducible
          first
            | assumption | apply kept_ite | apply kept_same | apply kept_fail | apply kept_Stop.reply
            | apply kept_ite_snd
      | simp only [kept_mk] | exact RecKept.push _ _ | exact RecKept.same rfl rfl | exact FwKept.same rfl
      | (refine kept_snd ?_ (by assumption)) | dsimp only | split

theorem kept_applyDone {z} (s) (hk : Kept z s) :
    Kept z (applyDone s) := by
  unfold applyDone
  repeat'
    first
      | intro _
      | with_reducible
          first
            | assumption | apply kept_ite | apply kept_same | apply kept_finish | apply kept_recordConfig
            | apply kept_raiseEvent | apply kept_supply
      | simp only [kept_mk] | exact RecKept.push _ _ | exact RecKept.same rfl rfl | exact FwKept.same rfl
      | dsimp only | split

theorem kept_cmdConfigConfirm {z} (_q p s) (hk : Kept z s) :
    Kept z (cmdConfigConfirm _q p s).2 := by
  unfold cmdConfigConfirm
  repeat'
    first
      | intro _
      | with_reducible
          first
            | assumption | apply kept_ite | apply kept_same | apply kept_fail | apply kept_ok
            | apply kept_recordConfig | apply kept_ite_snd
      | simp only [kept_mk] | exact RecKept.push _ _ | exact RecKept.same rfl rfl | exact FwKept.same rfl
      | (refine kept_snd ?_ (by assumption)) | dsimp only | split

theorem kept_cmdConfigRollback {z} (_q _p s) (hk : Kept z s) :
    Kept z (cmdConfigRollback _q _p s).2 := by
  unfold cmdConfigRollback
  repeat'
    first
      | intro _
      | with_reducible
          first
            | assumption | apply kept_ite | apply kept_fail | apply kept_ok | apply kept_rollBack
            | apply kept_ite_snd
      | (refine kept_snd ?_ (by assumption)) | dsimp only | split

theorem kept_autoRollback {z} (s) (hk : Kept z s) :
    Kept z (autoRollback s) := by
  unfold autoRollback
  repeat'
    first
      | intro _
      | with_reducible
          first
            | assumption | apply kept_ite | apply kept_rollBack
      | dsimp only | split

theorem kept_cmdTimeSet {z} (_q p s) (hk : Kept z s) :
    Kept z (cmdTimeSet _q p s).2 := by
  unfold cmdTimeSet
  repeat'
    first
      | intro _
      | with_reducible
          first
            | assumption | apply kept_ite | apply kept_same | apply kept_fail | apply kept_ok | apply kept_record
            | apply kept_ite_snd
      | simp only [kept_mk] | exact RecKept.push _ _ | exact RecKept.same rfl rfl | exact FwKept.same rfl
      | (refine kept_snd ?_ (by assumption)) | dsimp only | split

theorem kept_cmdReserveStatus {z} (q p s) (hk : Kept z s) :
    Kept z (cmdReserveStatus q p s).2 := by
  unfold cmdReserveStatus
  repeat'
    first
      | intro _
      | with_reducible
          first
            | assumption | apply kept_ite | apply kept_copyOut | apply kept_ite_snd
      | (refine kept_snd ?_ (by assumption)) | dsimp only | split

theorem kept_secondPassed {z} (s) (hk : Kept z s) :
    Kept z (secondPassed s) := by
  unfold secondPassed
  repeat'
    first
      | intro _
      | with_reducible
          first
            | assumption | apply kept_ite | apply kept_same | apply kept_recordPowerNote | apply kept_record
      | simp only [kept_mk] | exact RecKept.push _ _ | exact RecKept.same rfl rfl | exact FwKept.same rfl
      | dsimp only | split

theorem kept_publishSecond {z} (s) (hk : Kept z s) :
    Kept z (publishSecond s) := by
  unfold publishSecond
  repeat'
    first
      | intro _
      | with_reducible
          first
            | assumption | apply kept_ite | apply kept_same
      | simp only [kept_mk] | exact RecKept.push _ _ | exact RecKept.same rfl rfl | exact FwKept.same rfl
      | dsimp only | split

theorem kept_cmdPartitionCreate {z} (_q p s) (hk : Kept z s) :
    Kept z (cmdPartitionCreate _q p s).2 := by
  unfold cmdPartitionCreate
  repeat'
    first
      | intro _
      | with_reducible
          first
            | assumption | apply kept_ite | apply kept_same | apply kept_fail | apply kept_ok | apply kept_updTract
            | apply kept_ite_snd | apply kept_foldl
      | simp only [kept_mk] | exact RecKept.push _ _ | exact RecKept.same rfl rfl | exact FwKept.same rfl
      | (refine kept_snd ?_ (by assumption)) | dsimp only | split

theorem kept_beginScrub {z} (n o s) (hk : Kept z s) :
    Kept z (beginScrub n o s) := by
  unfold beginScrub
  repeat'
    first
      | intro _
      | with_reducible
          first
            | assumption | apply kept_ite | apply kept_clearFabric | apply kept_same | apply kept_updPart
            | apply kept_finish | apply kept_foldl
      | simp only [kept_mk] | exact RecKept.push _ _ | exact RecKept.same rfl rfl | exact FwKept.same rfl
      | dsimp only | split

theorem kept_cmdPartitionRelease {z} (_q p s) (hk : Kept z s) :
    Kept z (cmdPartitionRelease _q p s).2 := by
  unfold cmdPartitionRelease
  repeat'
    first
      | intro _
      | with_reducible
          first
            | assumption | apply kept_ite | apply kept_fail | apply kept_beginScrub | apply kept_ite_snd
      | (refine kept_snd ?_ (by assumption)) | dsimp only | split

theorem kept_endScrub {z} (n s) (hk : Kept z s) :
    Kept z (endScrub n s) := by
  unfold endScrub
  repeat'
    first
      | intro _
      | with_reducible
          first
            | assumption | apply kept_ite | apply kept_clearRouters | apply kept_same | apply kept_freeLines
            | apply kept_updTract | apply kept_settleReserve | apply kept_relieveStranded | apply kept_finishIf
            | apply kept_foldl
      | simp only [kept_mk] | exact RecKept.push _ _ | exact RecKept.same rfl rfl | exact FwKept.same rfl
      | dsimp only | split

theorem kept_cmdPartitionStatus {z} (q p s) (hk : Kept z s) :
    Kept z (cmdPartitionStatus q p s).2 := by
  unfold cmdPartitionStatus
  repeat'
    first
      | intro _
      | with_reducible
          first
            | assumption | apply kept_ite | apply kept_Stop.reply | apply kept_ok | apply kept_ite_snd
      | (refine kept_snd ?_ (by assumption)) | dsimp only | split

theorem kept_cmdConfidentialSet {z} (q p s) (hk : Kept z s) :
    Kept z (cmdConfidentialSet q p s).2 := by
  unfold cmdConfidentialSet
  repeat'
    first
      | intro _
      | with_reducible
          first
            | assumption | apply kept_ite | apply kept_fail | apply kept_Stop.reply | apply kept_ok
            | apply kept_updPart | apply kept_ite_snd
      | (refine kept_snd ?_ (by assumption)) | dsimp only | split

theorem kept_cmdKeyRotate {z} (q p s) (hk : Kept z s) :
    Kept z (cmdKeyRotate q p s).2 := by
  unfold cmdKeyRotate
  repeat'
    first
      | intro _
      | with_reducible
          first
            | assumption | apply kept_ite | apply kept_same | apply kept_Stop.reply | apply kept_fail | apply kept_ok
            | apply kept_updPart | apply kept_ite_snd
      | simp only [kept_mk] | exact RecKept.push _ _ | exact RecKept.same rfl rfl | exact FwKept.same rfl
      | (refine kept_snd ?_ (by assumption)) | dsimp only | split

theorem kept_cmdKeyStatus {z} (q p s) (hk : Kept z s) :
    Kept z (cmdKeyStatus q p s).2 := by
  unfold cmdKeyStatus
  repeat'
    first
      | intro _
      | with_reducible
          first
            | assumption | apply kept_ite | apply kept_same | apply kept_Stop.reply | apply kept_ok
            | apply kept_ite_snd
      | simp only [kept_mk] | exact RecKept.push _ _ | exact RecKept.same rfl rfl | exact FwKept.same rfl
      | (refine kept_snd ?_ (by assumption)) | dsimp only | split

theorem kept_sweepLine {z} (e gen l s) (hk : Kept z s) :
    Kept z (sweepLine e gen l s) := by
  unfold sweepLine
  have h : Kept z (if lineState s l = some .valid then
      asRead e l (readLine (Config.freeNat s.draw 6) [] e l { s with draw := s.draw + 1 }).2 else s) :=
    kept_ite (kept_asRead _ _ _ (kept_readLine _ _ _ _ _
      (kept_mk.2 (kept_same hk (RecKept.same rfl rfl) (FwKept.same rfl))))) hk
  dsimp only
  split
  · exact h
  · exact kept_mk.2 (kept_mem h (fun h => h) (tagPut_rising _))

theorem kept_sweepOne {z} (n e s) (hk : Kept z s) :
    Kept z (sweepOne n e s) := by
  unfold sweepOne
  repeat'
    first
      | intro _
      | with_reducible
          first
            | assumption | apply kept_ite | apply kept_sweepLine | apply kept_same | apply kept_updPart
      | exact RecKept.push _ _
      | exact RecKept.same rfl rfl | exact FwKept.same rfl | dsimp only | split

theorem kept_setSlot {z} (b img s) (hk : Kept z s) :
    Kept z (setSlot b img s) := by
  unfold setSlot
  repeat'
    first
      | intro _
      | with_reducible
          first
            | assumption | apply kept_ite | apply kept_same
      | simp only [kept_mk] | exact RecKept.push _ _ | exact RecKept.same rfl rfl | exact FwKept.same rfl
      | dsimp only | split

theorem kept_recordSecurity {z} (kind tracts s) (hk : Kept z s) :
    Kept z (recordSecurity kind tracts s) := by
  unfold recordSecurity
  repeat'
    first
      | intro _
      | with_reducible
          first
            | assumption | apply kept_ite | apply kept_record
      | dsimp only | split

theorem kept_cmdFwStage {z} (q p s) (hk : Kept z s) :
    Kept z (cmdFwStage q p s).2 := by
  unfold cmdFwStage
  repeat'
    first
      | intro _
      | with_reducible
          first
            | assumption | apply kept_ite | apply kept_same | apply kept_fail | apply kept_Stop.reply
            | apply kept_setSlot | apply kept_ite_snd
      | simp only [kept_mk] | exact RecKept.push _ _ | exact RecKept.same rfl rfl | exact FwKept.same rfl
      | (refine kept_snd ?_ (by assumption)) | dsimp only | split

theorem kept_stageDone {z} (s) (hk : Kept z s) :
    Kept z (stageDone s) := by
  unfold stageDone
  repeat'
    first
      | intro _
      | with_reducible
          first
            | assumption | apply kept_ite | apply kept_same | apply kept_finish | apply kept_setSlot
            | apply kept_recordSecurity
      | simp only [kept_mk] | exact RecKept.push _ _ | exact RecKept.same rfl rfl | exact FwKept.same rfl
      | dsimp only | split

theorem kept_cmdFwActivate {z} (_q p s) (hk : Kept z s) :
    Kept z (cmdFwActivate _q p s).2 := by
  unfold cmdFwActivate
  repeat'
    first
      | intro _
      | with_reducible
          first
            | assumption | apply kept_ite | apply kept_same | apply kept_fail | apply kept_ok
            | apply kept_settleReserve | apply kept_recordSecurity | apply kept_ite_snd
      | simp only [kept_mk] | exact RecKept.push _ _ | exact RecKept.same rfl rfl | exact FwKept.same rfl
      | (refine kept_snd ?_ (by assumption)) | dsimp only | split

theorem kept_spdmOut {z} (body signed nonce s) (hk : Kept z s) :
    Kept z (spdmOut body signed nonce s) := by
  unfold spdmOut
  repeat'
    first
      | intro _
      | with_reducible
          first
            | assumption | apply kept_ite | apply kept_same
      | simp only [kept_mk] | exact RecKept.push _ _ | exact RecKept.same rfl rfl | exact FwKept.same rfl
      | dsimp only | split

theorem kept_spdmError {z} (s) (hk : Kept z s) :
    Kept z (spdmError s) := by
  unfold spdmError
  repeat'
    first
      | intro _
      | with_reducible
          first
            | assumption | apply kept_ite | apply kept_spdmOut
      | dsimp only | split

theorem kept_getMeasurements {z} (i nonce signed s) (hk : Kept z s) :
    Kept z (getMeasurements i nonce signed s) := by
  unfold getMeasurements
  repeat'
    first
      | intro _
      | with_reducible
          first
            | assumption | apply kept_ite | apply kept_spdmOut | apply kept_spdmError
      | dsimp only | split

theorem kept_challenged {z} (slot nonce s) (hk : Kept z s) :
    Kept z (challenged slot nonce s) := by
  unfold challenged
  repeat'
    first
      | intro _
      | with_reducible
          first
            | assumption | apply kept_ite | apply kept_spdmOut | apply kept_spdmError
      | dsimp only | split

theorem kept_certificate {z} (slot off len s) (hk : Kept z s) :
    Kept z (certificate slot off len s) := by
  unfold certificate
  repeat'
    first
      | intro _
      | with_reducible
          first
            | assumption | apply kept_ite | apply kept_spdmOut | apply kept_spdmError
      | dsimp only | split

theorem kept_serviceInspect {z} (token nonce tracts s) (hk : Kept z s) :
    Kept z (serviceInspect token nonce tracts s) := by
  unfold serviceInspect
  repeat'
    first
      | intro _
      | with_reducible
          first
            | assumption | apply kept_ite | apply kept_same | apply kept_spdmError | apply kept_recordSecurity
            | apply kept_foldl
      | simp only [kept_mk] | exact RecKept.push _ _ | exact RecKept.same rfl rfl | exact FwKept.same rfl
      | dsimp only | split

theorem kept_recordStart {z} (kind fallback s) (hk : Kept z s) :
    Kept z (recordStart kind fallback s) := by
  unfold recordStart
  repeat'
    first
      | intro _
      | with_reducible
          first
            | assumption | apply kept_ite | apply kept_record
      | dsimp only | split

theorem kept_bootSlot {z} (kind b fallback s) (hk : Kept z s) :
    Kept z (bootSlot kind b fallback s) := by
  unfold bootSlot
  repeat'
    first
      | intro _
      | with_reducible
          first
            | assumption | apply kept_ite | apply kept_same | apply kept_recordStart | apply kept_settleReserve
            | apply kept_recordSecurity
      | simp only [kept_mk] | exact RecKept.push _ _ | exact RecKept.same rfl rfl | exact FwKept.same rfl
      | dsimp only | split

theorem kept_bootNone {z} (kind s) (hk : Kept z s) :
    Kept z (bootNone kind s) := by
  unfold bootNone
  repeat'
    first
      | intro _
      | with_reducible
          first
            | assumption | apply kept_ite | apply kept_same | apply kept_recordStart
      | simp only [kept_mk] | exact RecKept.push _ _ | exact RecKept.same rfl rfl | exact FwKept.same rfl
      | dsimp only | split

theorem kept_startConfig {z} (s) (hk : Kept z s) :
    Kept z (startConfig s) := by
  unfold startConfig
  repeat'
    first
      | intro _
      | with_reducible
          first
            | assumption | apply kept_ite | apply kept_rollBack | apply kept_supply
      | dsimp only | split

theorem kept_stopAtBringUp {z} (l s) (hk : Kept z s) :
    Kept z (stopAtBringUp l s) := by
  unfold stopAtBringUp
  repeat'
    first
      | intro _
      | with_reducible
          first
            | assumption | apply kept_ite | apply kept_same | apply kept_outOfService | apply kept_setLayer
      | simp only [kept_mk] | exact RecKept.push _ _ | exact RecKept.same rfl rfl | exact FwKept.same rfl
      | dsimp only | split

theorem kept_trainLinks {z} (peers s) (hk : Kept z s) :
    Kept z (trainLinks peers s) := by
  unfold trainLinks
  repeat'
    first
      | intro _
      | with_reducible
          first
            | assumption | apply kept_ite | apply kept_trainingDone | apply kept_foldl
      | dsimp only | split

theorem kept_reachReady {z} (s) (hk : Kept z s) :
    Kept z (reachReady s) := by
  unfold reachReady
  repeat'
    first
      | intro _
      | with_reducible
          first
            | assumption | apply kept_ite | apply kept_same | apply kept_settleReserve
      | simp only [kept_mk] | exact Nat.le_max_left _ _ | exact RecKept.push _ _ | exact RecKept.same rfl rfl
      | exact FwKept.same rfl | dsimp only | split

theorem kept_coldBase {z} (straps s) (hk : Kept z s) :
    Kept z (coldBase straps s) :=
  kept_mk.2 ⟨fun _ => rfl, fun _ => rfl, fun _ => List.Pairwise.nil, hk.recd.trans (RecKept.same rfl rfl), hk.svn, hk.pending⟩

theorem kept_coldLayer {z} (l s) (hk : Kept z s) :
    Kept z (coldLayer l s) := by
  unfold coldLayer
  repeat'
    first
      | intro _
      | with_reducible
          first
            | assumption | apply kept_ite | apply kept_same | apply kept_setLayer
      | simp only [kept_mk] | exact RecKept.push _ _ | exact RecKept.same rfl rfl | exact FwKept.same rfl
      | dsimp only | split

theorem kept_coldLane {z} (f s) (hk : Kept z s) :
    Kept z (coldLane f s) := by
  unfold coldLane
  repeat'
    first
      | intro _
      | with_reducible
          first
            | assumption | apply kept_ite | apply kept_same | apply kept_laneSwitched | apply kept_setChannel
            | apply kept_tractOffline | apply kept_settleReserve | apply kept_record
      | simp only [kept_mk] | exact RecKept.push _ _ | exact RecKept.same rfl rfl | exact FwKept.same rfl
      | dsimp only | split

theorem kept_causesRemain {z} (b s) (hk : Kept z s) :
    Kept z (causesRemain b s) := by
  unfold causesRemain
  repeat'
    first
      | intro _
      | with_reducible
          first
            | assumption | apply kept_ite | apply kept_outOfService | apply kept_failRegulator | apply kept_foldl
            | apply kept_foldl_snd
      | (refine kept_snd ?_ (by assumption)) | (refine kept_fst ?_ (by assumption)) | dsimp only | split

theorem kept_coldBringUp {z} (b s) (hk : Kept z s) :
    Kept z (coldBringUp b s) := by
  unfold coldBringUp
  repeat'
    first
      | intro _
      | with_reducible
          first
            | assumption | apply kept_ite | apply kept_trainPhases | apply kept_causesRemain | apply kept_same
            | apply kept_stopAtBringUp | apply kept_coldLayer | apply kept_coldLane | apply kept_reachReady
            | apply kept_trainLinks | apply kept_outOfService | apply kept_foldl
      | simp only [kept_mk] | exact RecKept.push _ _ | exact RecKept.same rfl rfl | exact FwKept.same rfl
      | dsimp only | split

theorem kept_coldStarted {z} (b s) (hk : Kept z s) :
    Kept z (coldStarted b s) := by
  unfold coldStarted
  repeat'
    first
      | intro _
      | with_reducible
          first
            | assumption | apply kept_ite | apply kept_same | apply kept_coldBase | apply kept_bootNone
            | apply kept_startConfig | apply kept_bootSlot | apply kept_coldBringUp
      | simp only [kept_mk] | exact RecKept.push _ _ | exact RecKept.same rfl rfl | exact FwKept.same rfl
      | dsimp only | split

theorem kept_abandonJobs {z} (s) (hk : Kept z s) :
    Kept z (abandonJobs s) := by
  unfold abandonJobs
  repeat'
    first
      | intro _
      | with_reducible
          first
            | assumption | apply kept_ite | apply kept_same | apply kept_updPart | apply kept_closeJob
            | apply kept_foldl
      | simp only [kept_mk] | exact RecKept.push _ _ | exact RecKept.same rfl rfl | exact FwKept.same rfl
      | dsimp only | split

theorem kept_sendLeaves {z} (s) (hk : Kept z s) :
    Kept z (sendLeaves s) := by
  unfold sendLeaves
  repeat'
    first
      | intro _
      | with_reducible
          first
            | assumption | apply kept_ite | apply kept_sendView | apply kept_foldl
      | dsimp only | split

theorem kept_closeSpanning {z} (s) (hk : Kept z s) :
    Kept z (closeSpanning s) := by
  unfold closeSpanning
  repeat'
    first
      | intro _
      | with_reducible
          first
            | assumption | apply kept_ite | apply kept_same | apply kept_updPart | apply kept_freePages
            | apply kept_foldl
      | simp only [kept_mk] | exact RecKept.push _ _ | exact RecKept.same rfl rfl | exact FwKept.same rfl
      | dsimp only | split

theorem kept_warmReset {z} (s) (hk : Kept z s) :
    Kept z (warmReset s) := by
  unfold warmReset
  repeat'
    first
      | intro _
      | with_reducible
          first
            | assumption | apply kept_ite | apply kept_enterSelfRefresh | apply kept_same | apply kept_restoreCaches
            | apply kept_closeSpanning | apply kept_sendLeaves | apply kept_abandonJobs | apply kept_foldl
      | simp only [kept_mk] | exact RecKept.push _ _ | exact RecKept.same rfl rfl | exact FwKept.same rfl
      | dsimp only | split

theorem kept_scrubAll {z} (s) (hk : Kept z s) :
    Kept z (scrubAll s) := by
  unfold scrubAll
  repeat'
    first
      | intro _
      | with_reducible
          first
            | assumption | apply kept_ite | apply kept_endScrub | apply kept_beginScrub | apply kept_foldl
      | dsimp only | split

theorem kept_warmStarted {z} (b s) (hk : Kept z s) :
    Kept z (warmStarted b s) := by
  unfold warmStarted
  repeat'
    first
      | intro _
      | with_reducible
          first
            | assumption | apply kept_ite | apply kept_trainPhases | apply kept_exitSelfRefresh | apply kept_same
            | apply kept_bootNone | apply kept_bootSlot | apply kept_scrubAll | apply kept_startConfig
            | apply kept_stopAtBringUp | apply kept_wholeLayerFault | apply kept_reachReady | apply kept_trainLinks
            | apply kept_foldl
      | simp only [kept_mk] | exact RecKept.push _ _ | exact RecKept.same rfl rfl | exact FwKept.same rfl
      | dsimp only | split

theorem kept_perstReleased {z} (b s) (hk : Kept z s) :
    Kept z (perstReleased b s) := by
  unfold perstReleased
  repeat'
    first
      | intro _
      | with_reducible
          first
            | assumption | apply kept_ite | apply kept_same | apply kept_warmStarted
      | simp only [kept_mk] | exact RecKept.push _ _ | exact RecKept.same rfl rfl | exact FwKept.same rfl
      | dsimp only | split

theorem kept_portReset {z} (s) (hk : Kept z s) :
    Kept z (portReset s) := by
  unfold portReset
  repeat'
    first
      | intro _
      | with_reducible
          first
            | assumption | apply kept_ite | apply kept_same
      | simp only [kept_mk] | exact RecKept.push _ _ | exact RecKept.same rfl rfl | exact FwKept.same rfl
      | dsimp only | split

theorem kept_configurationReady {z} (s) (hk : Kept z s) :
    Kept z (configurationReady s) := by
  unfold configurationReady
  repeat'
    first
      | intro _
      | with_reducible
          first
            | assumption | apply kept_ite | apply kept_cxlRetrained
      | dsimp only | split

theorem kept_functionReset {z} (s) (hk : Kept z s) :
    Kept z (functionReset s) := by
  unfold functionReset
  repeat'
    first
      | intro _
      | with_reducible
          first
            | assumption | apply kept_ite | apply kept_same
      | simp only [kept_mk] | exact RecKept.push _ _ | exact RecKept.same rfl rfl | exact FwKept.same rfl
      | dsimp only | split

theorem kept_i3cAnswer {z} (off s) (hk : Kept z s) :
    Kept z (i3cAnswer off s) := by
  unfold i3cAnswer
  repeat'
    first
      | intro _
      | with_reducible
          first
            | assumption | apply kept_ite | apply kept_same
      | simp only [kept_mk] | exact RecKept.push _ _ | exact RecKept.same rfl rfl | exact FwKept.same rfl
      | dsimp only | split

theorem kept_bodies {z : State} : ∀ c ∈ commandBodies, ∀ q p s, Kept z s → Kept z (c.2 q p s).2 := by
  unfold commandBodies
  simp only [List.forall_mem_append, List.forall_mem_cons]
  exact ⟨⟨⟨kept_cmdQueueCreate, kept_cmdQueueDelete, kept_cmdQueueStatus, kept_cmdConfigRead, kept_cmdConfigApply,
    kept_cmdConfigConfirm, kept_cmdConfigRollback, kept_cmdRegionAlloc, kept_cmdRegionFree, kept_cmdRegionQuery,
    kept_cmdHdmBind, kept_cmdHdmUnbind, kept_cmdHdmStatus, kept_cmdStepSubmit, kept_cmdPlanLoad, kept_cmdPlanUnload,
    kept_cmdStepCancel, kept_cmdBatchSet, kept_cmdContextSet, kept_cmdCacheOpen, kept_cmdCacheClose, kept_cmdCacheSeq,
        fun x
    hx => absurd hx List.not_mem_nil⟩, ⟨kept_cmdCacheSeqQuery, kept_cmdCacheMigrate, kept_cmdCacheStatus,
    kept_cmdClearingDivision, kept_cmdClearingStatus, kept_cmdClearingTestSet, kept_cmdFabricId, kept_cmdRouteSet,
    kept_cmdRouteRead, kept_cmdLinkStatus, kept_cmdLinkControl, kept_cmdGroupJoin, kept_cmdGroupAdmin,
        kept_cmdGroupStatus,
    kept_cmdPaceSet, kept_cmdNetDistance, kept_cmdPowerCap, kept_cmdPowerStatus, kept_cmdFixedFreq, kept_cmdEnergyRead,
        fun
    x hx => absurd hx List.not_mem_nil⟩⟩, ⟨kept_cmdCoolantSet, kept_cmdThermalStatus, kept_cmdThermalResponse,
    kept_cmdPartitionCreate, kept_cmdPartitionRelease, kept_cmdPartitionStatus, kept_cmdConfidentialSet,
        kept_cmdKeyRotate,
    kept_cmdKeyStatus, kept_cmdFwStage, kept_cmdFwActivate, kept_cmdTimeSet, kept_cmdReserveStatus, kept_cmdMemregRead,
    kept_cmdMemregWrite, kept_cmdRepairMap, kept_cmdLayerMap, kept_cmdHealthRingSet, kept_cmdHealthRingStatus,
    kept_cmdLatticeCounters, kept_cmdClearingCounters, kept_cmdNetCounters, fun x hx => absurd hx List.not_mem_nil⟩⟩

theorem kept_commandBody {z} (p q p' s) (hk : Kept z s) :
    Kept z (commandBody p q p' s).2 := by
  unfold commandBody
  cases e : commandBodies.find? fun c => c.1 = p.opcode.toNat with
  | some c => exact kept_bodies _ (List.mem_of_find?_eq_some e) _ _ _ hk
  | none => exact kept_fail _ _ hk

theorem kept_accept {z} (o s) (hk : Kept z s) :
    Kept z (accept o s) := by
  unfold accept
  repeat'
    first
      | intro _
      | with_reducible
          first
            | assumption | apply kept_ite | apply kept_post
      | dsimp only | split

theorem kept_deliver {z} (p r) (hk : Kept z r.2) :
    Kept z (deliver p r) := by
  unfold deliver
  repeat'
    first
      | intro _
      | with_reducible
          first
            | assumption | apply kept_ite | apply kept_finish | apply kept_accept
      | dsimp only | split

theorem kept_startHead {z} (qp s) (hk : Kept z s) :
    Kept z (startHead qp s) := by
  unfold startHead
  repeat'
    first
      | intro _
      | with_reducible
          first
            | assumption | apply kept_ite | apply kept_same | apply kept_deliver | apply kept_commandBody
            | apply kept_updPair
      | simp only [kept_mk] | exact RecKept.push _ _ | exact RecKept.same rfl rfl | exact FwKept.same rfl
      | dsimp only | split

theorem kept_settleOnce {z} (s) (hk : Kept z s) :
    Kept z (settleOnce s) := by
  unfold settleOnce
  repeat'
    first
      | intro _
      | with_reducible
          first
            | assumption | apply kept_ite | apply kept_finishDeletions | apply kept_finishUnloads
            | apply kept_runDeferred | apply kept_beginJobs | apply kept_pump | apply kept_settleReserve
            | apply kept_startHead | apply kept_foldl
      | dsimp only | split

theorem kept_settle {z} (s) (hk : Kept z s) :
    Kept z (settle s) := by
  unfold settle
  repeat'
    first
      | intro _
      | with_reducible
          first
            | assumption | apply kept_ite | apply kept_settleOnce | apply kept_repeat
      | dsimp only | split

theorem kept_launchCommand {z} (q body p s) (hk : Kept z s) (hf : ∀ q p t, Kept z t → Kept z (body q p t).2) :
    Kept z (launchCommand q body p s) := by
  unfold launchCommand
  repeat'
    first
      | intro _
      | with_reducible
          first
            | assumption | apply kept_ite | apply kept_same | apply kept_deliver | apply kept_updPair | apply hf
      | simp only [kept_mk] | exact RecKept.push _ _ | exact RecKept.same rfl rfl | exact FwKept.same rfl
      | dsimp only | split

theorem kept_fetchPacket {z} (body p s) (hk : Kept z s) (hf : ∀ q p t, Kept z t → Kept z (body q p t).2) :
    Kept z (fetchPacket body p s) := by
  unfold fetchPacket
  repeat'
    first
      | intro _
      | with_reducible
          first
            | assumption | apply kept_ite | apply kept_updPair | apply kept_settle | apply kept_finish
            | apply kept_launchCommand | apply hf
      | dsimp only | split

theorem kept_event {z} (f s) (hk : Kept z s) (hf : ∀ t, Kept z t → Kept z (f t)) :
    Kept z (event f s) := by
  unfold event
  repeat'
    first
      | intro _
      | with_reducible
          first
            | assumption | apply kept_ite | apply kept_settle | apply hf
      | dsimp only | split

theorem kept_floorEvent {z} (f s) (hk : Kept z s) (hf : ∀ t, Kept z t → Kept z (f t)) :
    Kept z (floorEvent f s) := by
  unfold floorEvent
  repeat'
    first
      | intro _
      | with_reducible
          first
            | assumption | apply kept_ite | apply kept_settle | apply hf
      | dsimp only | split

theorem kept_hostAccess {z} (f s) (hk : Kept z s) (hf : ∀ t, Kept z t → Kept z (f t)) :
    Kept z (hostAccess f s) := by
  unfold hostAccess
  repeat'
    first
      | intro _
      | with_reducible
          first
            | assumption | apply kept_ite | apply kept_settle | apply hf
      | dsimp only | split

theorem kept_operatorEvent {z} (part op f s) (hk : Kept z s) (hf : ∀ t, Kept z t → Kept z (f t)) :
    Kept z (operatorEvent part op f s) := by
  unfold operatorEvent
  repeat'
    first
      | intro _
      | with_reducible
          first
            | assumption | apply kept_ite | apply kept_settle | apply hf
      | dsimp only | split

theorem kept_answer {z} (wf s) (hk : Kept z s) :
    keptOut z (answer wf s) := by
  intro t e
  unfold answer at e
  split at e
  · cases e
    exact hk
  · cases e

end Sys2Proof.Machine
end

