-- ==== Sys2Proof/Laws/Kept5.lean ====
section
/-! SUPPORT. `Kept`, one lemma for each definition that gives a state: the meanings of the rows. -/
namespace Sys2Proof.Machine

theorem kept_execFabricIdSet {z} (p s) (hk : Kept z s) :
    keptOut z (execFabricIdSet p s) := by
  unfold execFabricIdSet
  repeat'
    first
      | with_reducible
          first
            | assumption | apply kept_ite | apply kept_answer | apply kept_fetchPacket | apply kept_cmdFabricId
            | apply kept_ite_snd | apply kept_next
      | (refine kept_snd ?_ (by assumption)) | dsimp only | split | intro _

theorem kept_execRouteSet {z} (p s) (hk : Kept z s) :
    keptOut z (execRouteSet p s) := by
  unfold execRouteSet
  repeat'
    first
      | with_reducible
          first
            | assumption | apply kept_ite | apply kept_answer | apply kept_fetchPacket | apply kept_cmdRouteSet
            | apply kept_ite_snd | apply kept_next
      | (refine kept_snd ?_ (by assumption)) | dsimp only | split | intro _

theorem kept_execRouteRead {z} (p s) (hk : Kept z s) :
    keptOut z (execRouteRead p s) := by
  unfold execRouteRead
  repeat'
    first
      | with_reducible
          first
            | assumption | apply kept_ite | apply kept_answer | apply kept_fetchPacket | apply kept_cmdRouteRead
            | apply kept_ite_snd | apply kept_next
      | (refine kept_snd ?_ (by assumption)) | dsimp only | split | intro _

theorem kept_execLinkStatus {z} (p s) (hk : Kept z s) :
    keptOut z (execLinkStatus p s) := by
  unfold execLinkStatus
  repeat'
    first
      | with_reducible
          first
            | assumption | apply kept_ite | apply kept_answer | apply kept_fetchPacket | apply kept_cmdLinkStatus
            | apply kept_ite_snd | apply kept_next
      | (refine kept_snd ?_ (by assumption)) | dsimp only | split | intro _

theorem kept_execLinkControl {z} (p s) (hk : Kept z s) :
    keptOut z (execLinkControl p s) := by
  unfold execLinkControl
  repeat'
    first
      | with_reducible
          first
            | assumption | apply kept_ite | apply kept_answer | apply kept_fetchPacket | apply kept_cmdLinkControl
            | apply kept_ite_snd | apply kept_next
      | (refine kept_snd ?_ (by assumption)) | dsimp only | split | intro _

theorem kept_execGroupJoin {z} (p s) (hk : Kept z s) :
    keptOut z (execGroupJoin p s) := by
  unfold execGroupJoin
  repeat'
    first
      | with_reducible
          first
            | assumption | apply kept_ite | apply kept_answer | apply kept_fetchPacket | apply kept_cmdGroupJoin
            | apply kept_ite_snd | apply kept_next
      | (refine kept_snd ?_ (by assumption)) | dsimp only | split | intro _

theorem kept_execGroupAdmin {z} (p s) (hk : Kept z s) :
    keptOut z (execGroupAdmin p s) := by
  unfold execGroupAdmin
  repeat'
    first
      | with_reducible
          first
            | assumption | apply kept_ite | apply kept_answer | apply kept_fetchPacket | apply kept_cmdGroupAdmin
            | apply kept_ite_snd | apply kept_next
      | (refine kept_snd ?_ (by assumption)) | dsimp only | split | intro _

theorem kept_execGroupStatus {z} (p s) (hk : Kept z s) :
    keptOut z (execGroupStatus p s) := by
  unfold execGroupStatus
  repeat'
    first
      | with_reducible
          first
            | assumption | apply kept_ite | apply kept_answer | apply kept_fetchPacket | apply kept_cmdGroupStatus
            | apply kept_ite_snd | apply kept_next
      | (refine kept_snd ?_ (by assumption)) | dsimp only | split | intro _

theorem kept_execPaceSet {z} (p s) (hk : Kept z s) :
    keptOut z (execPaceSet p s) := by
  unfold execPaceSet
  repeat'
    first
      | with_reducible
          first
            | assumption | apply kept_ite | apply kept_answer | apply kept_fetchPacket | apply kept_cmdPaceSet
            | apply kept_ite_snd | apply kept_next
      | (refine kept_snd ?_ (by assumption)) | dsimp only | split | intro _

theorem kept_execNetDistanceRead {z} (p s) (hk : Kept z s) :
    keptOut z (execNetDistanceRead p s) := by
  unfold execNetDistanceRead
  repeat'
    first
      | with_reducible
          first
            | assumption | apply kept_ite | apply kept_answer | apply kept_fetchPacket | apply kept_cmdNetDistance
            | apply kept_ite_snd | apply kept_next
      | (refine kept_snd ?_ (by assumption)) | dsimp only | split | intro _

theorem kept_idle {z} (s) (hk : Kept z s) :
    Kept z (idle s) := by
  unfold idle
  repeat'
    first
      | intro _
      | with_reducible
          first
            | assumption | apply kept_ite | apply kept_event | apply kept_netCycle | apply kept_same
      | simp only [kept_mk] | exact RecKept.push _ _ | exact RecKept.same rfl rfl | exact FwKept.same rfl
      | (refine kept_snd ?_ (by assumption)) | (refine kept_fst ?_ (by assumption)) | dsimp only | split

theorem kept_execNetworkPacketArrival {z} (grove p s) (hk : Kept z s) :
    keptOut z (execNetworkPacketArrival grove p s) := by
  unfold execNetworkPacketArrival
  repeat'
    first
      | with_reducible
          first
            | assumption | apply kept_ite | apply kept_answer | apply kept_event | apply kept_netArrival
            | apply kept_ite_snd | apply kept_next | apply kept_next
      | dsimp only | split | intro _

theorem kept_execMeshFlitResend {z} (grove _dir s) (hk : Kept z s) :
    keptOut z (execMeshFlitResend grove _dir s) := by
  unfold execMeshFlitResend
  repeat'
    first
      | with_reducible
          first
            | assumption | apply kept_ite | apply kept_answer | apply kept_event | apply kept_meshResend
            | apply kept_ite_snd | apply kept_next | apply kept_next
      | dsimp only | split | intro _

theorem kept_execMeshWireFailing {z} (grove dir wire s) (hk : Kept z s) :
    keptOut z (execMeshWireFailing grove dir wire s) := by
  unfold execMeshWireFailing
  repeat'
    first
      | with_reducible
          first
            | assumption | apply kept_ite | apply kept_answer | apply kept_event | apply kept_meshWire
            | apply kept_ite_snd | apply kept_next | apply kept_next
      | dsimp only | split | intro _

theorem kept_execMeshLinkDegrade {z} (grove dir stage s) (hk : Kept z s) :
    keptOut z (execMeshLinkDegrade grove dir stage s) := by
  unfold execMeshLinkDegrade
  repeat'
    first
      | with_reducible
          first
            | assumption | apply kept_ite | apply kept_answer | apply kept_event | apply kept_meshDegrade
            | apply kept_ite_snd | apply kept_next | apply kept_next
      | dsimp only | split | intro _

theorem kept_execFlitReceive {z} (link flit fecFailed s) (hk : Kept z s) :
    keptOut z (execFlitReceive link flit fecFailed s) := by
  unfold execFlitReceive
  repeat'
    first
      | with_reducible
          first
            | assumption | apply kept_ite | apply kept_answer | apply kept_event | apply kept_flitReceived
            | apply kept_ite_snd | apply kept_next
      | dsimp only | split | intro _

theorem kept_execAckDeadline {z} (link s) (hk : Kept z s) :
    keptOut z (execAckDeadline link s) := by
  unfold execAckDeadline
  repeat'
    first
      | with_reducible
          first
            | assumption | apply kept_ite | apply kept_event | apply kept_ackDeadline | apply kept_ite_snd
            | apply kept_next | apply kept_next
      | dsimp only | split | intro _

theorem kept_execLossOfLock {z} (link s) (hk : Kept z s) :
    keptOut z (execLossOfLock link s) := by
  unfold execLossOfLock
  repeat'
    first
      | with_reducible
          first
            | assumption | apply kept_ite | apply kept_event | apply kept_failLink | apply kept_ite_snd
            | apply kept_next | apply kept_next
      | dsimp only | split | intro _

theorem kept_execLinkLaneFailure {z} (link lane s) (hk : Kept z s) :
    keptOut z (execLinkLaneFailure link lane s) := by
  unfold execLinkLaneFailure
  repeat'
    first
      | with_reducible
          first
            | assumption | apply kept_ite | apply kept_event | apply kept_laneFailure | apply kept_ite_snd
            | apply kept_next | apply kept_next
      | dsimp only | split | intro _

theorem kept_execLinkRetrainTimer {z} (link s) (hk : Kept z s) :
    keptOut z (execLinkRetrainTimer link s) := by
  unfold execLinkRetrainTimer
  repeat'
    first
      | with_reducible
          first
            | assumption | apply kept_ite | apply kept_event | apply kept_retrainTimer | apply kept_ite_snd
            | apply kept_next | apply kept_next
      | dsimp only | split | intro _

theorem kept_execLinkTrainingDone {z} (link peer s) (hk : Kept z s) :
    keptOut z (execLinkTrainingDone link peer s) := by
  unfold execLinkTrainingDone
  repeat'
    first
      | with_reducible
          first
            | assumption | apply kept_ite | apply kept_event | apply kept_trainingDone | apply kept_ite_snd
            | apply kept_next | apply kept_next
      | dsimp only | split | intro _

theorem kept_execUnroutableRetry {z} (s) (hk : Kept z s) :
    keptOut z (execUnroutableRetry s) := by
  unfold execUnroutableRetry
  repeat'
    first
      | with_reducible
          first
            | assumption | apply kept_ite | apply kept_event | apply kept_unroutableRetry | apply kept_ite_snd
            | apply kept_next | apply kept_next
      | dsimp only | split | intro _

theorem kept_execData {z} (p s) (hk : Kept z s) :
    keptOut z (execData p s) := by
  unfold execData
  repeat'
    first
      | with_reducible
          first
            | assumption | apply kept_ite | apply kept_answer | apply kept_event | apply kept_receive
            | apply kept_dataHandler | apply kept_ite_snd | apply kept_next
      | dsimp only | split | intro _

theorem kept_execSegment {z} (p s) (hk : Kept z s) :
    keptOut z (execSegment p s) := by
  unfold execSegment
  repeat'
    first
      | with_reducible
          first
            | assumption | apply kept_ite | apply kept_answer | apply kept_event | apply kept_receive
            | apply kept_segmentHandler | apply kept_ite_snd | apply kept_next
      | dsimp only | split | intro _

theorem kept_execToken {z} (p s) (hk : Kept z s) :
    keptOut z (execToken p s) := by
  unfold execToken
  repeat'
    first
      | with_reducible
          first
            | assumption | apply kept_ite | apply kept_answer | apply kept_event | apply kept_receive
            | apply kept_tokenHandler | apply kept_ite_snd | apply kept_next
      | dsimp only | split | intro _

theorem kept_execAgree {z} (p s) (hk : Kept z s) :
    keptOut z (execAgree p s) := by
  unfold execAgree
  repeat'
    first
      | with_reducible
          first
            | assumption | apply kept_ite | apply kept_answer | apply kept_event | apply kept_receive
            | apply kept_agreeHandler | apply kept_ite_snd | apply kept_next
      | dsimp only | split | intro _

theorem kept_execJoin {z} (p s) (hk : Kept z s) :
    keptOut z (execJoin p s) := by
  unfold execJoin
  repeat'
    first
      | with_reducible
          first
            | assumption | apply kept_ite | apply kept_answer | apply kept_event | apply kept_receive
            | apply kept_joinHandler | apply kept_ite_snd | apply kept_next
      | dsimp only | split | intro _

theorem kept_execLeave {z} (p s) (hk : Kept z s) :
    keptOut z (execLeave p s) := by
  unfold execLeave
  repeat'
    first
      | with_reducible
          first
            | assumption | apply kept_ite | apply kept_answer | apply kept_event | apply kept_receive
            | apply kept_leaveHandler | apply kept_ite_snd | apply kept_next
      | dsimp only | split | intro _

theorem kept_execViewGatherExpiry {z} (part group s) (hk : Kept z s) :
    keptOut z (execViewGatherExpiry part group s) := by
  unfold execViewGatherExpiry
  repeat'
    first
      | with_reducible
          first
            | assumption | apply kept_ite | apply kept_event | apply kept_gatherExpiry | apply kept_ite_snd
            | apply kept_next | apply kept_next
      | dsimp only | split | intro _

theorem kept_execPrepare {z} (p s) (hk : Kept z s) :
    keptOut z (execPrepare p s) := by
  unfold execPrepare
  repeat'
    first
      | with_reducible
          first
            | assumption | apply kept_ite | apply kept_answer | apply kept_event | apply kept_receive
            | apply kept_prepareHandler | apply kept_ite_snd | apply kept_next
      | dsimp only | split | intro _

theorem kept_execReady {z} (p s) (hk : Kept z s) :
    keptOut z (execReady p s) := by
  unfold execReady
  repeat'
    first
      | with_reducible
          first
            | assumption | apply kept_ite | apply kept_answer | apply kept_event | apply kept_receive
            | apply kept_readyHandler | apply kept_ite_snd | apply kept_next
      | dsimp only | split | intro _

theorem kept_execCommit {z} (p s) (hk : Kept z s) :
    keptOut z (execCommit p s) := by
  unfold execCommit
  repeat'
    first
      | with_reducible
          first
            | assumption | apply kept_ite | apply kept_answer | apply kept_event | apply kept_receive
            | apply kept_commitHandler | apply kept_ite_snd | apply kept_next
      | dsimp only | split | intro _

theorem kept_execAbandon {z} (p s) (hk : Kept z s) :
    keptOut z (execAbandon p s) := by
  unfold execAbandon
  repeat'
    first
      | with_reducible
          first
            | assumption | apply kept_ite | apply kept_answer | apply kept_event | apply kept_receive
            | apply kept_abandonHandler | apply kept_ite_snd | apply kept_next
      | dsimp only | split | intro _

theorem kept_execPace {z} (p s) (hk : Kept z s) :
    keptOut z (execPace p s) := by
  unfold execPace
  repeat'
    first
      | with_reducible
          first
            | assumption | apply kept_ite | apply kept_answer | apply kept_event | apply kept_receive
            | apply kept_paceHandler | apply kept_ite_snd | apply kept_next
      | dsimp only | split | intro _

theorem kept_execUnreachable {z} (p s) (hk : Kept z s) :
    keptOut z (execUnreachable p s) := by
  unfold execUnreachable
  repeat'
    first
      | with_reducible
          first
            | assumption | apply kept_ite | apply kept_answer | apply kept_event | apply kept_receive
            | apply kept_unreachableHandler | apply kept_ite_snd | apply kept_next
      | dsimp only | split | intro _

theorem kept_execRefused {z} (p s) (hk : Kept z s) :
    keptOut z (execRefused p s) := by
  unfold execRefused
  repeat'
    first
      | with_reducible
          first
            | assumption | apply kept_ite | apply kept_answer | apply kept_event | apply kept_receive
            | apply kept_refusedHandler | apply kept_ite_snd | apply kept_next
      | dsimp only | split | intro _

theorem kept_execGroupWaitNote {z} (part group s) (hk : Kept z s) :
    keptOut z (execGroupWaitNote part group s) := by
  unfold execGroupWaitNote
  repeat'
    first
      | with_reducible
          first
            | assumption | apply kept_ite | apply kept_event | apply kept_groupWaitNote | apply kept_ite_snd
            | apply kept_next | apply kept_next
      | dsimp only | split | intro _

theorem kept_execColdStart {z} (b s) (hk : Kept z s) :
    keptOut z (execColdStart b s) := by
  unfold execColdStart
  repeat'
    first
      | with_reducible
          first
            | assumption | apply kept_ite | apply kept_answer | apply kept_coldStarted | apply kept_ite_snd
            | apply kept_next
      | dsimp only | split | intro _

theorem kept_execConfigurationReadiness {z} (s) (hk : Kept z s) :
    keptOut z (execConfigurationReadiness s) := by
  unfold execConfigurationReadiness
  repeat'
    first
      | with_reducible
          first
            | assumption | apply kept_ite | apply kept_floorEvent | apply kept_configurationReady
            | apply kept_ite_snd | apply kept_next | apply kept_next
      | dsimp only | split | intro _

theorem kept_execConfigRequest {z} (reg s) (hk : Kept z s) :
    keptOut z (execConfigRequest reg s) := by
  unfold execConfigRequest
  repeat'
    first
      | with_reducible
          first
            | assumption | apply kept_ite | apply kept_floorEvent | apply kept_configRequest | apply kept_ite_snd
            | apply kept_next | apply kept_next
      | dsimp only | split | intro _

theorem kept_execWarmReset {z} (s) (hk : Kept z s) :
    keptOut z (execWarmReset s) := by
  unfold execWarmReset
  repeat'
    first
      | with_reducible
          first
            | assumption | apply kept_ite | apply kept_floorEvent | apply kept_warmReset | apply kept_ite_snd
            | apply kept_next | apply kept_next
      | dsimp only | split | intro _

theorem kept_execPerstDeassert {z} (b s) (hk : Kept z s) :
    keptOut z (execPerstDeassert b s) := by
  unfold execPerstDeassert
  repeat'
    first
      | with_reducible
          first
            | assumption | apply kept_ite | apply kept_answer | apply kept_floorEvent | apply kept_perstReleased
            | apply kept_ite_snd | apply kept_next
      | dsimp only | split | intro _

theorem kept_execPortResetBeforeReady {z} (s) (hk : Kept z s) :
    keptOut z (execPortResetBeforeReady s) := by
  unfold execPortResetBeforeReady
  repeat'
    first
      | with_reducible
          first
            | assumption | apply kept_ite | apply kept_floorEvent | apply kept_portReset | apply kept_ite_snd
            | apply kept_next | apply kept_next
      | dsimp only | split | intro _

theorem kept_execFunctionLevelReset {z} (s) (hk : Kept z s) :
    keptOut z (execFunctionLevelReset s) := by
  unfold execFunctionLevelReset
  repeat'
    first
      | with_reducible
          first
            | assumption | apply kept_ite | apply kept_hostAccess | apply kept_functionReset | apply kept_ite_snd
            | apply kept_next | apply kept_next
      | dsimp only | split | intro _

theorem kept_execVinOutOfRange {z} (millivolts s) (hk : Kept z s) :
    keptOut z (execVinOutOfRange millivolts s) := by
  unfold execVinOutOfRange
  repeat'
    first
      | with_reducible
          first
            | assumption | apply kept_ite | apply kept_vinOut | apply kept_ite_snd | apply kept_next
            | apply kept_next
      | dsimp only | split | intro _

theorem kept_execPwrBrakeAssert {z} (s) (hk : Kept z s) :
    keptOut z (execPwrBrakeAssert s) := by
  unfold execPwrBrakeAssert
  repeat'
    first
      | with_reducible
          first
            | assumption | apply kept_ite | apply kept_setBrake | apply kept_ite_snd | apply kept_next
            | apply kept_next
      | dsimp only | split | intro _

theorem kept_execPwrBrakeRelease {z} (s) (hk : Kept z s) :
    keptOut z (execPwrBrakeRelease s) := by
  unfold execPwrBrakeRelease
  repeat'
    first
      | with_reducible
          first
            | assumption | apply kept_ite | apply kept_setBrake | apply kept_ite_snd | apply kept_next
            | apply kept_next
      | dsimp only | split | intro _

theorem kept_execCxlLaneFailure {z} (lane s) (hk : Kept z s) :
    keptOut z (execCxlLaneFailure lane s) := by
  unfold execCxlLaneFailure
  repeat'
    first
      | with_reducible
          first
            | assumption | apply kept_ite | apply kept_floorEvent | apply kept_cxlLaneFailed | apply kept_ite_snd
            | apply kept_next | apply kept_next
      | dsimp only | split | intro _

theorem kept_execI3cRead {z} (offset s) (hk : Kept z s) :
    keptOut z (execI3cRead offset s) := by
  unfold execI3cRead
  repeat'
    first
      | with_reducible
          first
            | assumption | apply kept_ite | apply kept_i3cAnswer | apply kept_ite_snd | apply kept_next
            | apply kept_next
      | dsimp only | split | intro _

theorem kept_execDoorbellSqTail {z} (qp value s) (hk : Kept z s) :
    keptOut z (execDoorbellSqTail qp value s) := by
  unfold execDoorbellSqTail
  repeat'
    first
      | with_reducible
          first
            | assumption | apply kept_ite | apply kept_hostAccess | apply kept_writeTailOpen | apply kept_ite_snd
            | apply kept_next | apply kept_next
      | dsimp only | split | intro _

theorem kept_execDoorbellCqHead {z} (qp value s) (hk : Kept z s) :
    keptOut z (execDoorbellCqHead qp value s) := by
  unfold execDoorbellCqHead
  repeat'
    first
      | with_reducible
          first
            | assumption | apply kept_ite | apply kept_hostAccess | apply kept_writeHeadOpen | apply kept_ite_snd
            | apply kept_next | apply kept_next
      | dsimp only | split | intro _

theorem kept_execNegotiate {z} (s) (hk : Kept z s) :
    keptOut z (execNegotiate s) := by
  unfold execNegotiate
  repeat'
    first
      | with_reducible
          first
            | assumption | apply kept_ite | apply kept_hostAccess | apply kept_doNegotiate | apply kept_ite_snd
            | apply kept_next | apply kept_next
      | dsimp only | split | intro _

theorem kept_execAdmqEnable {z} (s) (hk : Kept z s) :
    keptOut z (execAdmqEnable s) := by
  unfold execAdmqEnable
  repeat'
    first
      | with_reducible
          first
            | assumption | apply kept_ite | apply kept_hostAccess | apply kept_setAdmq | apply kept_ite_snd
            | apply kept_next | apply kept_next
      | dsimp only | split | intro _

theorem kept_execAdmqDisable {z} (s) (hk : Kept z s) :
    keptOut z (execAdmqDisable s) := by
  unfold execAdmqDisable
  repeat'
    first
      | with_reducible
          first
            | assumption | apply kept_ite | apply kept_hostAccess | apply kept_clearAdmq | apply kept_ite_snd
            | apply kept_next | apply kept_next
      | dsimp only | split | intro _

theorem kept_execAdmqDeletionDone {z} (s) (hk : Kept z s) :
    keptOut z (execAdmqDeletionDone s) := by
  unfold execAdmqDeletionDone
  repeat'
    first
      | with_reducible
          first
            | assumption | apply kept_ite | apply kept_floorEvent | apply kept_admqDeleted | apply kept_ite_snd
            | apply kept_next | apply kept_next
      | dsimp only | split | intro _

theorem kept_execQerrClear {z} (hi value s) (hk : Kept z s) :
    keptOut z (execQerrClear hi value s) := by
  unfold execQerrClear
  repeat'
    first
      | with_reducible
          first
            | assumption | apply kept_ite | apply kept_hostAccess | apply kept_clearQerr | apply kept_ite_snd
            | apply kept_next | apply kept_next
      | dsimp only | split | intro _

theorem kept_execEventsClear {z} (value s) (hk : Kept z s) :
    keptOut z (execEventsClear value s) := by
  unfold execEventsClear
  repeat'
    first
      | with_reducible
          first
            | assumption | apply kept_ite | apply kept_hostAccess | apply kept_clearEvents | apply kept_ite_snd
            | apply kept_next | apply kept_next
      | dsimp only | split | intro _

theorem kept_execEventMaskWrite {z} (value s) (hk : Kept z s) :
    keptOut z (execEventMaskWrite value s) := by
  unfold execEventMaskWrite
  repeat'
    first
      | with_reducible
          first
            | assumption | apply kept_ite | apply kept_hostAccess | apply kept_setMask | apply kept_ite_snd
            | apply kept_next | apply kept_next
      | dsimp only | split | intro _

theorem kept_execRegisterWrite {z} (offset size value s) (hk : Kept z s) :
    keptOut z (execRegisterWrite offset size value s) := by
  unfold execRegisterWrite
  repeat'
    first
      | with_reducible
          first
            | assumption | apply kept_ite | apply kept_hostAccess | apply kept_barWriteSized | apply kept_ite_snd
            | apply kept_next | apply kept_next
      | dsimp only | split | intro _

theorem kept_execRecStartWrite {z} (value s) (hk : Kept z s) :
    keptOut z (execRecStartWrite value s) := by
  unfold execRecStartWrite
  repeat'
    first
      | with_reducible
          first
            | assumption | apply kept_ite | apply kept_hostAccess | apply kept_startFill | apply kept_ite_snd
            | apply kept_next | apply kept_next
      | dsimp only | split | intro _

theorem kept_execRecorderFillDone {z} (s) (hk : Kept z s) :
    keptOut z (execRecorderFillDone s) := by
  unfold execRecorderFillDone
  repeat'
    first
      | with_reducible
          first
            | assumption | apply kept_ite | apply kept_floorEvent | apply kept_fillDone | apply kept_ite_snd
            | apply kept_next | apply kept_next
      | dsimp only | split | intro _

theorem kept_execCoalTimeExpiry {z} (qp s) (hk : Kept z s) :
    keptOut z (execCoalTimeExpiry qp s) := by
  unfold execCoalTimeExpiry
  repeat'
    first
      | with_reducible
          first
            | assumption | apply kept_ite | apply kept_floorEvent | apply kept_coalExpired | apply kept_ite_snd
            | apply kept_next | apply kept_next
      | dsimp only | split | intro _

theorem kept_execAcceptedTimeout {z} (qp tag s) (hk : Kept z s) :
    keptOut z (execAcceptedTimeout qp tag s) := by
  unfold execAcceptedTimeout
  repeat'
    first
      | with_reducible
          first
            | assumption | apply kept_ite | apply kept_floorEvent | apply kept_acceptedTimeout | apply kept_ite_snd
            | apply kept_next | apply kept_next
      | dsimp only | split | intro _

theorem kept_execQueueCreate {z} (p s) (hk : Kept z s) :
    keptOut z (execQueueCreate p s) := by
  unfold execQueueCreate
  repeat'
    first
      | with_reducible
          first
            | assumption | apply kept_ite | apply kept_answer | apply kept_fetchPacket | apply kept_cmdQueueCreate
            | apply kept_ite_snd | apply kept_next
      | (refine kept_snd ?_ (by assumption)) | dsimp only | split | intro _

theorem kept_execQueueDelete {z} (p s) (hk : Kept z s) :
    keptOut z (execQueueDelete p s) := by
  unfold execQueueDelete
  repeat'
    first
      | with_reducible
          first
            | assumption | apply kept_ite | apply kept_answer | apply kept_fetchPacket | apply kept_cmdQueueDelete
            | apply kept_ite_snd | apply kept_next
      | (refine kept_snd ?_ (by assumption)) | dsimp only | split | intro _

theorem kept_execQueueStatus {z} (p s) (hk : Kept z s) :
    keptOut z (execQueueStatus p s) := by
  unfold execQueueStatus
  repeat'
    first
      | with_reducible
          first
            | assumption | apply kept_ite | apply kept_answer | apply kept_fetchPacket | apply kept_cmdQueueStatus
            | apply kept_ite_snd | apply kept_next
      | (refine kept_snd ?_ (by assumption)) | dsimp only | split | intro _

theorem kept_execConfigRead {z} (p s) (hk : Kept z s) :
    keptOut z (execConfigRead p s) := by
  unfold execConfigRead
  repeat'
    first
      | with_reducible
          first
            | assumption | apply kept_ite | apply kept_answer | apply kept_fetchPacket | apply kept_cmdConfigRead
            | apply kept_ite_snd | apply kept_next
      | (refine kept_snd ?_ (by assumption)) | dsimp only | split | intro _

theorem kept_execConfigApply {z} (p s) (hk : Kept z s) :
    keptOut z (execConfigApply p s) := by
  unfold execConfigApply
  repeat'
    first
      | with_reducible
          first
            | assumption | apply kept_ite | apply kept_answer | apply kept_fetchPacket | apply kept_cmdConfigApply
            | apply kept_ite_snd | apply kept_next
      | (refine kept_snd ?_ (by assumption)) | dsimp only | split | intro _

theorem kept_execConfigApplyDone {z} (s) (hk : Kept z s) :
    keptOut z (execConfigApplyDone s) := by
  unfold execConfigApplyDone
  repeat'
    first
      | with_reducible
          first
            | assumption | apply kept_ite | apply kept_event | apply kept_applyDone | apply kept_ite_snd
            | apply kept_next | apply kept_next
      | dsimp only | split | intro _

theorem kept_execConfigConfirm {z} (p s) (hk : Kept z s) :
    keptOut z (execConfigConfirm p s) := by
  unfold execConfigConfirm
  repeat'
    first
      | with_reducible
          first
            | assumption | apply kept_ite | apply kept_answer | apply kept_fetchPacket | apply kept_cmdConfigConfirm
            | apply kept_ite_snd | apply kept_next
      | (refine kept_snd ?_ (by assumption)) | dsimp only | split | intro _

theorem kept_execConfigRollback {z} (p s) (hk : Kept z s) :
    keptOut z (execConfigRollback p s) := by
  unfold execConfigRollback
  repeat'
    first
      | with_reducible
          first
            | assumption | apply kept_ite | apply kept_answer | apply kept_fetchPacket | apply kept_cmdConfigRollback
            | apply kept_ite_snd | apply kept_next
      | (refine kept_snd ?_ (by assumption)) | dsimp only | split | intro _

theorem kept_execConfigAutoRollback {z} (s) (hk : Kept z s) :
    keptOut z (execConfigAutoRollback s) := by
  unfold execConfigAutoRollback
  repeat'
    first
      | with_reducible
          first
            | assumption | apply kept_ite | apply kept_event | apply kept_autoRollback | apply kept_ite_snd
            | apply kept_next | apply kept_next
      | dsimp only | split | intro _

theorem kept_execCxlMemRead {z} (hpa len e s) (hk : Kept z s) :
    keptOut z (execCxlMemRead hpa len e s) := by
  unfold execCxlMemRead
  repeat'
    first
      | with_reducible
          first
            | assumption | apply kept_ite | apply kept_answer | apply kept_hostAccess | apply kept_cxlRead
            | apply kept_ite_snd | apply kept_next
      | dsimp only | split | intro _

theorem kept_execCxlMemWrite {z} (hpa data e s) (hk : Kept z s) :
    keptOut z (execCxlMemWrite hpa data e s) := by
  unfold execCxlMemWrite
  repeat'
    first
      | with_reducible
          first
            | assumption | apply kept_ite | apply kept_answer | apply kept_hostAccess | apply kept_cxlWrite
            | apply kept_ite_snd | apply kept_next
      | dsimp only | split | intro _

theorem kept_execIdeCheckFailure {z} (stream s) (hk : Kept z s) :
    keptOut z (execIdeCheckFailure stream s) := by
  unfold execIdeCheckFailure
  repeat'
    first
      | with_reducible
          first
            | assumption | apply kept_ite | apply kept_hostAccess | apply kept_ideFailed | apply kept_ite_snd
            | apply kept_next | apply kept_next
      | dsimp only | split | intro _

theorem kept_execIdeKm {z} (stream setKey s) (hk : Kept z s) :
    keptOut z (execIdeKm stream setKey s) := by
  unfold execIdeKm
  repeat'
    first
      | with_reducible
          first
            | assumption | apply kept_ite | apply kept_hostAccess | apply kept_ideKeyed | apply kept_ite_snd
            | apply kept_next | apply kept_next
      | dsimp only | split | intro _

theorem kept_execGetMeasurements {z} (index nonce signed s) (hk : Kept z s) :
    keptOut z (execGetMeasurements index nonce signed s) := by
  unfold execGetMeasurements
  repeat'
    first
      | with_reducible
          first
            | assumption | apply kept_ite | apply kept_hostAccess | apply kept_getMeasurements | apply kept_ite_snd
            | apply kept_next | apply kept_next
      | dsimp only | split | intro _

theorem kept_execChallenge {z} (slot nonce s) (hk : Kept z s) :
    keptOut z (execChallenge slot nonce s) := by
  unfold execChallenge
  repeat'
    first
      | with_reducible
          first
            | assumption | apply kept_ite | apply kept_hostAccess | apply kept_challenged | apply kept_ite_snd
            | apply kept_next | apply kept_next
      | dsimp only | split | intro _

theorem kept_execServiceInspection {z} (token nonce tracts s) (hk : Kept z s) :
    keptOut z (execServiceInspection token nonce tracts s) := by
  unfold execServiceInspection
  repeat'
    first
      | with_reducible
          first
            | assumption | apply kept_ite | apply kept_hostAccess | apply kept_serviceInspect | apply kept_ite_snd
            | apply kept_next | apply kept_next
      | dsimp only | split | intro _

theorem kept_execGetCertificate {z} (slot offset len s) (hk : Kept z s) :
    keptOut z (execGetCertificate slot offset len s) := by
  unfold execGetCertificate
  repeat'
    first
      | with_reducible
          first
            | assumption | apply kept_ite | apply kept_hostAccess | apply kept_certificate | apply kept_ite_snd
            | apply kept_next | apply kept_next
      | dsimp only | split | intro _

theorem kept_execCxlLinkDown {z} (s) (hk : Kept z s) :
    keptOut z (execCxlLinkDown s) := by
  unfold execCxlLinkDown
  repeat'
    first
      | with_reducible
          first
            | assumption | apply kept_ite | apply kept_floorEvent | apply kept_cxlDown | apply kept_ite_snd
            | apply kept_next | apply kept_next
      | dsimp only | split | intro _

theorem kept_execCxlLinkRetrained {z} (s) (hk : Kept z s) :
    keptOut z (execCxlLinkRetrained s) := by
  unfold execCxlLinkRetrained
  repeat'
    first
      | with_reducible
          first
            | assumption | apply kept_ite | apply kept_floorEvent | apply kept_cxlBack | apply kept_ite_snd
            | apply kept_next | apply kept_next
      | dsimp only | split | intro _

theorem kept_execHdmDecoderCommit {z} (decoder base size s) (hk : Kept z s) :
    keptOut z (execHdmDecoderCommit decoder base size s) := by
  unfold execHdmDecoderCommit
  repeat'
    first
      | with_reducible
          first
            | assumption | apply kept_ite | apply kept_hostAccess | apply kept_decoderCommit | apply kept_ite_snd
            | apply kept_next | apply kept_next
      | dsimp only | split | intro _

theorem kept_execMailboxCommand {z} (opcode payload s) (hk : Kept z s) :
    keptOut z (execMailboxCommand opcode payload s) := by
  unfold execMailboxCommand
  repeat'
    first
      | with_reducible
          first
            | assumption | apply kept_ite | apply kept_hostAccess | apply kept_mailbox | apply kept_ite_snd
            | apply kept_next | apply kept_next
      | dsimp only | split | intro _

theorem kept_execHdmBind {z} (p s) (hk : Kept z s) :
    keptOut z (execHdmBind p s) := by
  unfold execHdmBind
  repeat'
    first
      | with_reducible
          first
            | assumption | apply kept_ite | apply kept_answer | apply kept_fetchPacket | apply kept_cmdHdmBind
            | apply kept_ite_snd | apply kept_next
      | (refine kept_snd ?_ (by assumption)) | dsimp only | split | intro _

theorem kept_execHdmUnbind {z} (p s) (hk : Kept z s) :
    keptOut z (execHdmUnbind p s) := by
  unfold execHdmUnbind
  repeat'
    first
      | with_reducible
          first
            | assumption | apply kept_ite | apply kept_answer | apply kept_fetchPacket | apply kept_cmdHdmUnbind
            | apply kept_ite_snd | apply kept_next
      | (refine kept_snd ?_ (by assumption)) | dsimp only | split | intro _

theorem kept_execHdmStatus {z} (p s) (hk : Kept z s) :
    keptOut z (execHdmStatus p s) := by
  unfold execHdmStatus
  repeat'
    first
      | with_reducible
          first
            | assumption | apply kept_ite | apply kept_answer | apply kept_fetchPacket | apply kept_cmdHdmStatus
            | apply kept_ite_snd | apply kept_next
      | (refine kept_snd ?_ (by assumption)) | dsimp only | split | intro _

theorem kept_execTimeSet {z} (p s) (hk : Kept z s) :
    keptOut z (execTimeSet p s) := by
  unfold execTimeSet
  repeat'
    first
      | with_reducible
          first
            | assumption | apply kept_ite | apply kept_answer | apply kept_fetchPacket | apply kept_cmdTimeSet
            | apply kept_ite_snd | apply kept_next
      | (refine kept_snd ?_ (by assumption)) | dsimp only | split | intro _

theorem kept_execDropped {z} (s) (hk : Kept z s) :
    keptOut z (execDropped s) := by
  unfold execDropped
  repeat'
    first
      | with_reducible
          first
            | assumption | apply kept_ite | apply kept_floorEvent | apply kept_secondPassed | apply kept_ite_snd
            | apply kept_next | apply kept_next
      | dsimp only | split | intro _

theorem kept_execRegionAlloc {z} (p s) (hk : Kept z s) :
    keptOut z (execRegionAlloc p s) := by
  unfold execRegionAlloc
  repeat'
    first
      | with_reducible
          first
            | assumption | apply kept_ite | apply kept_answer | apply kept_fetchPacket | apply kept_cmdRegionAlloc
            | apply kept_ite_snd | apply kept_next
      | (refine kept_snd ?_ (by assumption)) | dsimp only | split | intro _

theorem kept_execZeroFillDone {z} (part region s) (hk : Kept z s) :
    keptOut z (execZeroFillDone part region s) := by
  unfold execZeroFillDone
  repeat'
    first
      | with_reducible
          first
            | assumption | apply kept_ite | apply kept_event | apply kept_zeroFilled | apply kept_ite_snd
            | apply kept_next | apply kept_next
      | dsimp only | split | intro _

theorem kept_execRegionFree {z} (p s) (hk : Kept z s) :
    keptOut z (execRegionFree p s) := by
  unfold execRegionFree
  repeat'
    first
      | with_reducible
          first
            | assumption | apply kept_ite | apply kept_answer | apply kept_fetchPacket | apply kept_cmdRegionFree
            | apply kept_ite_snd | apply kept_next
      | (refine kept_snd ?_ (by assumption)) | dsimp only | split | intro _

theorem kept_execRegionQuery {z} (p s) (hk : Kept z s) :
    keptOut z (execRegionQuery p s) := by
  unfold execRegionQuery
  repeat'
    first
      | with_reducible
          first
            | assumption | apply kept_ite | apply kept_answer | apply kept_fetchPacket | apply kept_cmdRegionQuery
            | apply kept_ite_snd | apply kept_next
      | (refine kept_snd ?_ (by assumption)) | dsimp only | split | intro _

theorem kept_execClearingDivision {z} (p s) (hk : Kept z s) :
    keptOut z (execClearingDivision p s) := by
  unfold execClearingDivision
  repeat'
    first
      | with_reducible
          first
            | assumption | apply kept_ite | apply kept_answer | apply kept_fetchPacket
            | apply kept_cmdClearingDivision | apply kept_ite_snd | apply kept_next
      | (refine kept_snd ?_ (by assumption)) | dsimp only | split | intro _

theorem kept_execClearingStatus {z} (p s) (hk : Kept z s) :
    keptOut z (execClearingStatus p s) := by
  unfold execClearingStatus
  repeat'
    first
      | with_reducible
          first
            | assumption | apply kept_ite | apply kept_answer | apply kept_fetchPacket | apply kept_cmdClearingStatus
            | apply kept_ite_snd | apply kept_next
      | (refine kept_snd ?_ (by assumption)) | dsimp only | split | intro _

theorem kept_execClearingTestSet {z} (p s) (hk : Kept z s) :
    keptOut z (execClearingTestSet p s) := by
  unfold execClearingTestSet
  repeat'
    first
      | with_reducible
          first
            | assumption | apply kept_ite | apply kept_answer | apply kept_fetchPacket
            | apply kept_cmdClearingTestSet | apply kept_ite_snd | apply kept_next
      | (refine kept_snd ?_ (by assumption)) | dsimp only | split | intro _

theorem kept_execClearingTestRunDone {z} (failed s) (hk : Kept z s) :
    keptOut z (execClearingTestRunDone failed s) := by
  unfold execClearingTestRunDone
  repeat'
    first
      | with_reducible
          first
            | assumption | apply kept_ite | apply kept_event | apply kept_testRunDone | apply kept_ite_snd
            | apply kept_next | apply kept_next
      | dsimp only | split | intro _

theorem kept_execNearBankTask {z} (unit u s) (hk : Kept z s) :
    keptOut z (execNearBankTask unit u s) := by
  unfold execNearBankTask
  repeat'
    first
      | with_reducible
          first
            | assumption | apply kept_ite | apply kept_event | apply kept_nearBankTask | apply kept_ite_snd
            | apply kept_next | apply kept_next
      | dsimp only | split | intro _

theorem kept_execFinalMaximaArrival {z} (unit u s) (hk : Kept z s) :
    keptOut z (execFinalMaximaArrival unit u s) := by
  unfold execFinalMaximaArrival
  repeat'
    first
      | with_reducible
          first
            | assumption | apply kept_ite | apply kept_event | apply kept_finalMaxima | apply kept_ite_snd
            | apply kept_next | apply kept_next
      | dsimp only | split | intro _

theorem kept_execProcessorModeEntry {z} (unit test s) (hk : Kept z s) :
    keptOut z (execProcessorModeEntry unit test s) := by
  unfold execProcessorModeEntry
  repeat'
    first
      | with_reducible
          first
            | assumption | apply kept_ite | apply kept_event | apply kept_processorEntry | apply kept_ite_snd
            | apply kept_next | apply kept_next
      | dsimp only | split | intro _

theorem kept_execSliceBoundary {z} (unit w s) (hk : Kept z s) :
    keptOut z (execSliceBoundary unit w s) := by
  unfold execSliceBoundary
  repeat'
    first
      | with_reducible
          first
            | assumption | apply kept_ite | apply kept_answer | apply kept_event | apply kept_sliceBoundary
            | apply kept_ite_snd | apply kept_next
      | dsimp only | split | intro _

theorem kept_execRepairReadDone {z} (unit r s) (hk : Kept z s) :
    keptOut z (execRepairReadDone unit r s) := by
  unfold execRepairReadDone
  repeat'
    first
      | with_reducible
          first
            | assumption | apply kept_ite | apply kept_event | apply kept_repairRead | apply kept_ite_snd
            | apply kept_next | apply kept_next
      | dsimp only | split | intro _

theorem kept_execPageRecompute {z} (u s) (hk : Kept z s) :
    keptOut z (execPageRecompute u s) := by
  unfold execPageRecompute
  repeat'
    first
      | with_reducible
          first
            | assumption | apply kept_ite | apply kept_event | apply kept_pageRecompute | apply kept_ite_snd
            | apply kept_next | apply kept_next
      | dsimp only | split | intro _

theorem kept_execUnitSelfTest {z} (unit passed s) (hk : Kept z s) :
    keptOut z (execUnitSelfTest unit passed s) := by
  unfold execUnitSelfTest
  repeat'
    first
      | with_reducible
          first
            | assumption | apply kept_ite | apply kept_event | apply kept_selfTested | apply kept_ite_snd
            | apply kept_next | apply kept_next
      | dsimp only | split | intro _

theorem kept_execUnitMigrationDone {z} (unit s) (hk : Kept z s) :
    keptOut z (execUnitMigrationDone unit s) := by
  unfold execUnitMigrationDone
  repeat'
    first
      | with_reducible
          first
            | assumption | apply kept_ite | apply kept_event | apply kept_unitMigrated | apply kept_ite_snd
            | apply kept_next | apply kept_next
      | dsimp only | split | intro _

theorem kept_execSealTableReloadDone {z} (unit s) (hk : Kept z s) :
    keptOut z (execSealTableReloadDone unit s) := by
  unfold execSealTableReloadDone
  repeat'
    first
      | with_reducible
          first
            | assumption | apply kept_ite | apply kept_event | apply kept_sealReloaded | apply kept_ite_snd
            | apply kept_next | apply kept_next
      | dsimp only | split | intro _

theorem kept_execRefreshDue {z} (core layer s) (hk : Kept z s) :
    keptOut z (execRefreshDue core layer s) := by
  unfold execRefreshDue
  repeat'
    first
      | with_reducible
          first
            | assumption | apply kept_ite | apply kept_answer | apply kept_event | apply kept_refreshDue
            | apply kept_ite_snd | apply kept_next
      | dsimp only | split | intro _

theorem kept_execTractCooled {z} (tract s) (hk : Kept z s) :
    keptOut z (execTractCooled tract s) := by
  unfold execTractCooled
  repeat'
    first
      | with_reducible
          first
            | assumption | apply kept_ite | apply kept_event | apply kept_tractCooled | apply kept_ite_snd
            | apply kept_next | apply kept_next
      | dsimp only | split | intro _

theorem kept_execPhaseRetrain {z} (core s) (hk : Kept z s) :
    keptOut z (execPhaseRetrain core s) := by
  unfold execPhaseRetrain
  repeat'
    first
      | with_reducible
          first
            | assumption | apply kept_ite | apply kept_event | apply kept_phaseRetrained | apply kept_ite_snd
            | apply kept_next | apply kept_next
      | dsimp only | split | intro _

theorem kept_execTagWriteback {z} (core layer tagLine s) (hk : Kept z s) :
    keptOut z (execTagWriteback core layer tagLine s) := by
  unfold execTagWriteback
  repeat'
    first
      | with_reducible
          first
            | assumption | apply kept_ite | apply kept_event | apply kept_tagWritten | apply kept_ite_snd
            | apply kept_next | apply kept_next
      | dsimp only | split | intro _

theorem kept_execChannelCommandTimeout {z} (core cmd s) (hk : Kept z s) :
    keptOut z (execChannelCommandTimeout core cmd s) := by
  unfold execChannelCommandTimeout
  repeat'
    first
      | with_reducible
          first
            | assumption | apply kept_ite | apply kept_event | apply kept_commandTimeout | apply kept_ite_snd
            | apply kept_next | apply kept_next
      | dsimp only | split | intro _

theorem kept_execLaneFailing {z} (f s) (hk : Kept z s) :
    keptOut z (execLaneFailing f s) := by
  unfold execLaneFailing
  repeat'
    first
      | with_reducible
          first
            | assumption | apply kept_ite | apply kept_answer | apply kept_event | apply kept_laneFailing
            | apply kept_ite_snd | apply kept_next
      | dsimp only | split | intro _

theorem kept_execLaneSwitchOver {z} (core lane s) (hk : Kept z s) :
    keptOut z (execLaneSwitchOver core lane s) := by
  unfold execLaneSwitchOver
  repeat'
    first
      | with_reducible
          first
            | assumption | apply kept_ite | apply kept_answer | apply kept_event | apply kept_laneSwitched
            | apply kept_ite_snd | apply kept_next
      | dsimp only | split | intro _

theorem kept_execRehomeCopyDone {z} (core s) (hk : Kept z s) :
    keptOut z (execRehomeCopyDone core s) := by
  unfold execRehomeCopyDone
  repeat'
    first
      | with_reducible
          first
            | assumption | apply kept_ite | apply kept_event | apply kept_rehomeDone | apply kept_ite_snd
            | apply kept_next | apply kept_next
      | dsimp only | split | intro _

theorem kept_execScrubPassStart {z} (layer s) (hk : Kept z s) :
    keptOut z (execScrubPassStart layer s) := by
  unfold execScrubPassStart
  repeat'
    first
      | with_reducible
          first
            | assumption | apply kept_ite | apply kept_answer | apply kept_event | apply kept_scrubStart
            | apply kept_ite_snd | apply kept_next
      | dsimp only | split | intro _

theorem kept_execScrubRead {z} (r s) (hk : Kept z s) :
    keptOut z (execScrubRead r s) := by
  unfold execScrubRead
  repeat'
    first
      | with_reducible
          first
            | assumption | apply kept_ite | apply kept_answer | apply kept_event | apply kept_scrubbed
            | apply kept_ite_snd | apply kept_next
      | dsimp only | split | intro _

theorem kept_execBucketLeak {z} (s) (hk : Kept z s) :
    keptOut z (execBucketLeak s) := by
  unfold execBucketLeak
  repeat'
    first
      | with_reducible
          first
            | assumption | apply kept_ite | apply kept_event | apply kept_bucketLeak | apply kept_ite_snd
            | apply kept_next | apply kept_next
      | dsimp only | split | intro _

theorem kept_execWholeLayerFault {z} (layer s) (hk : Kept z s) :
    keptOut z (execWholeLayerFault layer s) := by
  unfold execWholeLayerFault
  repeat'
    first
      | with_reducible
          first
            | assumption | apply kept_ite | apply kept_answer | apply kept_event | apply kept_wholeLayerFault
            | apply kept_ite_snd | apply kept_next
      | dsimp only | split | intro _

theorem kept_execAbsorptionDone {z} (s) (hk : Kept z s) :
    keptOut z (execAbsorptionDone s) := by
  unfold execAbsorptionDone
  repeat'
    first
      | with_reducible
          first
            | assumption | apply kept_ite | apply kept_event | apply kept_absorptionDone | apply kept_ite_snd
            | apply kept_next | apply kept_next
      | dsimp only | split | intro _

theorem kept_execMemregRead {z} (p s) (hk : Kept z s) :
    keptOut z (execMemregRead p s) := by
  unfold execMemregRead
  repeat'
    first
      | with_reducible
          first
            | assumption | apply kept_ite | apply kept_answer | apply kept_fetchPacket | apply kept_cmdMemregRead
            | apply kept_ite_snd | apply kept_next
      | (refine kept_snd ?_ (by assumption)) | dsimp only | split | intro _

theorem kept_execMemregWrite {z} (p s) (hk : Kept z s) :
    keptOut z (execMemregWrite p s) := by
  unfold execMemregWrite
  repeat'
    first
      | with_reducible
          first
            | assumption | apply kept_ite | apply kept_answer | apply kept_fetchPacket | apply kept_cmdMemregWrite
            | apply kept_ite_snd | apply kept_next
      | (refine kept_snd ?_ (by assumption)) | dsimp only | split | intro _

theorem kept_execRepairMapRead {z} (p s) (hk : Kept z s) :
    keptOut z (execRepairMapRead p s) := by
  unfold execRepairMapRead
  repeat'
    first
      | with_reducible
          first
            | assumption | apply kept_ite | apply kept_answer | apply kept_fetchPacket | apply kept_cmdRepairMap
            | apply kept_ite_snd | apply kept_next
      | (refine kept_snd ?_ (by assumption)) | dsimp only | split | intro _

theorem kept_execLayerMapRead {z} (p s) (hk : Kept z s) :
    keptOut z (execLayerMapRead p s) := by
  unfold execLayerMapRead
  repeat'
    first
      | with_reducible
          first
            | assumption | apply kept_ite | apply kept_answer | apply kept_fetchPacket | apply kept_cmdLayerMap
            | apply kept_ite_snd | apply kept_next
      | (refine kept_snd ?_ (by assumption)) | dsimp only | split | intro _

theorem kept_execReserveStatus {z} (p s) (hk : Kept z s) :
    keptOut z (execReserveStatus p s) := by
  unfold execReserveStatus
  repeat'
    first
      | with_reducible
          first
            | assumption | apply kept_ite | apply kept_answer | apply kept_fetchPacket | apply kept_cmdReserveStatus
            | apply kept_ite_snd | apply kept_next
      | (refine kept_snd ?_ (by assumption)) | dsimp only | split | intro _

theorem kept_execLatticeCountersRead {z} (p s) (hk : Kept z s) :
    keptOut z (execLatticeCountersRead p s) := by
  unfold execLatticeCountersRead
  repeat'
    first
      | with_reducible
          first
            | assumption | apply kept_ite | apply kept_answer | apply kept_fetchPacket
            | apply kept_cmdLatticeCounters | apply kept_ite_snd | apply kept_next
      | (refine kept_snd ?_ (by assumption)) | dsimp only | split | intro _

theorem kept_execClearingCountersRead {z} (p s) (hk : Kept z s) :
    keptOut z (execClearingCountersRead p s) := by
  unfold execClearingCountersRead
  repeat'
    first
      | with_reducible
          first
            | assumption | apply kept_ite | apply kept_answer | apply kept_fetchPacket
            | apply kept_cmdClearingCounters | apply kept_ite_snd | apply kept_next
      | (refine kept_snd ?_ (by assumption)) | dsimp only | split | intro _

theorem kept_execNetCountersRead {z} (p s) (hk : Kept z s) :
    keptOut z (execNetCountersRead p s) := by
  unfold execNetCountersRead
  repeat'
    first
      | with_reducible
          first
            | assumption | apply kept_ite | apply kept_answer | apply kept_fetchPacket | apply kept_cmdNetCounters
            | apply kept_ite_snd | apply kept_next
      | (refine kept_snd ?_ (by assumption)) | dsimp only | split | intro _

theorem kept_execRecoveryActionStart {z} (part s) (hk : Kept z s) :
    keptOut z (execRecoveryActionStart part s) := by
  unfold execRecoveryActionStart
  repeat'
    first
      | with_reducible
          first
            | assumption | apply kept_ite | apply kept_event | apply kept_recoveryStart | apply kept_ite_snd
            | apply kept_next | apply kept_next
      | dsimp only | split | intro _

theorem kept_execOvfWindowExpiry {z} (kind s) (hk : Kept z s) :
    keptOut z (execOvfWindowExpiry kind s) := by
  unfold execOvfWindowExpiry
  repeat'
    first
      | with_reducible
          first
            | assumption | apply kept_ite | apply kept_answer | apply kept_event | apply kept_windowExpiry
            | apply kept_ite_snd | apply kept_next
      | dsimp only | split | intro _

theorem kept_execPowerCapSet {z} (p s) (hk : Kept z s) :
    keptOut z (execPowerCapSet p s) := by
  unfold execPowerCapSet
  repeat'
    first
      | with_reducible
          first
            | assumption | apply kept_ite | apply kept_answer | apply kept_fetchPacket | apply kept_cmdPowerCap
            | apply kept_ite_snd | apply kept_next
      | (refine kept_snd ?_ (by assumption)) | dsimp only | split | intro _

theorem kept_execPowerStatus {z} (p s) (hk : Kept z s) :
    keptOut z (execPowerStatus p s) := by
  unfold execPowerStatus
  repeat'
    first
      | with_reducible
          first
            | assumption | apply kept_ite | apply kept_answer | apply kept_fetchPacket | apply kept_cmdPowerStatus
            | apply kept_ite_snd | apply kept_next
      | (refine kept_snd ?_ (by assumption)) | dsimp only | split | intro _

theorem kept_execFixedFreqSet {z} (p s) (hk : Kept z s) :
    keptOut z (execFixedFreqSet p s) := by
  unfold execFixedFreqSet
  repeat'
    first
      | with_reducible
          first
            | assumption | apply kept_ite | apply kept_answer | apply kept_fetchPacket | apply kept_cmdFixedFreq
            | apply kept_ite_snd | apply kept_next
      | (refine kept_snd ?_ (by assumption)) | dsimp only | split | intro _

theorem kept_execEnergyRead {z} (p s) (hk : Kept z s) :
    keptOut z (execEnergyRead p s) := by
  unfold execEnergyRead
  repeat'
    first
      | with_reducible
          first
            | assumption | apply kept_ite | apply kept_answer | apply kept_fetchPacket | apply kept_cmdEnergyRead
            | apply kept_ite_snd | apply kept_next
      | (refine kept_snd ?_ (by assumption)) | dsimp only | split | intro _

theorem kept_execCoolantSet {z} (p s) (hk : Kept z s) :
    keptOut z (execCoolantSet p s) := by
  unfold execCoolantSet
  repeat'
    first
      | with_reducible
          first
            | assumption | apply kept_ite | apply kept_answer | apply kept_fetchPacket | apply kept_cmdCoolantSet
            | apply kept_ite_snd | apply kept_next
      | (refine kept_snd ?_ (by assumption)) | dsimp only | split | intro _

theorem kept_execThermalStatus {z} (p s) (hk : Kept z s) :
    keptOut z (execThermalStatus p s) := by
  unfold execThermalStatus
  repeat'
    first
      | with_reducible
          first
            | assumption | apply kept_ite | apply kept_answer | apply kept_fetchPacket | apply kept_cmdThermalStatus
            | apply kept_ite_snd | apply kept_next
      | (refine kept_snd ?_ (by assumption)) | dsimp only | split | intro _

theorem kept_execThermalResponseSet {z} (p s) (hk : Kept z s) :
    keptOut z (execThermalResponseSet p s) := by
  unfold execThermalResponseSet
  repeat'
    first
      | with_reducible
          first
            | assumption | apply kept_ite | apply kept_answer | apply kept_fetchPacket
            | apply kept_cmdThermalResponse | apply kept_ite_snd | apply kept_next
      | (refine kept_snd ?_ (by assumption)) | dsimp only | split | intro _

theorem kept_execPartitionCreate {z} (p s) (hk : Kept z s) :
    keptOut z (execPartitionCreate p s) := by
  unfold execPartitionCreate
  repeat'
    first
      | with_reducible
          first
            | assumption | apply kept_ite | apply kept_answer | apply kept_fetchPacket
            | apply kept_cmdPartitionCreate | apply kept_ite_snd | apply kept_next
      | (refine kept_snd ?_ (by assumption)) | dsimp only | split | intro _

theorem kept_execPartitionRelease {z} (p s) (hk : Kept z s) :
    keptOut z (execPartitionRelease p s) := by
  unfold execPartitionRelease
  repeat'
    first
      | with_reducible
          first
            | assumption | apply kept_ite | apply kept_answer | apply kept_fetchPacket
            | apply kept_cmdPartitionRelease | apply kept_ite_snd | apply kept_next
      | (refine kept_snd ?_ (by assumption)) | dsimp only | split | intro _

theorem kept_execPartitionStatus {z} (p s) (hk : Kept z s) :
    keptOut z (execPartitionStatus p s) := by
  unfold execPartitionStatus
  repeat'
    first
      | with_reducible
          first
            | assumption | apply kept_ite | apply kept_answer | apply kept_fetchPacket
            | apply kept_cmdPartitionStatus | apply kept_ite_snd | apply kept_next
      | (refine kept_snd ?_ (by assumption)) | dsimp only | split | intro _

theorem kept_execConfidentialSet {z} (p s) (hk : Kept z s) :
    keptOut z (execConfidentialSet p s) := by
  unfold execConfidentialSet
  repeat'
    first
      | with_reducible
          first
            | assumption | apply kept_ite | apply kept_answer | apply kept_fetchPacket
            | apply kept_cmdConfidentialSet | apply kept_ite_snd | apply kept_next
      | (refine kept_snd ?_ (by assumption)) | dsimp only | split | intro _

theorem kept_execKeyRotate {z} (p s) (hk : Kept z s) :
    keptOut z (execKeyRotate p s) := by
  unfold execKeyRotate
  repeat'
    first
      | with_reducible
          first
            | assumption | apply kept_ite | apply kept_answer | apply kept_fetchPacket | apply kept_cmdKeyRotate
            | apply kept_ite_snd | apply kept_next
      | (refine kept_snd ?_ (by assumption)) | dsimp only | split | intro _

theorem kept_execKeyStatus {z} (p s) (hk : Kept z s) :
    keptOut z (execKeyStatus p s) := by
  unfold execKeyStatus
  repeat'
    first
      | with_reducible
          first
            | assumption | apply kept_ite | apply kept_answer | apply kept_fetchPacket | apply kept_cmdKeyStatus
            | apply kept_ite_snd | apply kept_next
      | (refine kept_snd ?_ (by assumption)) | dsimp only | split | intro _

theorem kept_execSweepRewrite {z} (u s) (hk : Kept z s) :
    keptOut z (execSweepRewrite u s) := by
  unfold execSweepRewrite
  repeat'
    first
      | with_reducible
          first
            | assumption | apply kept_ite | apply kept_event | apply kept_sweepOne | apply kept_ite_snd
            | apply kept_next | apply kept_next
      | dsimp only | split | intro _

theorem kept_execFwStage {z} (p s) (hk : Kept z s) :
    keptOut z (execFwStage p s) := by
  unfold execFwStage
  repeat'
    first
      | with_reducible
          first
            | assumption | apply kept_ite | apply kept_answer | apply kept_fetchPacket | apply kept_cmdFwStage
            | apply kept_ite_snd | apply kept_next
      | (refine kept_snd ?_ (by assumption)) | dsimp only | split | intro _

theorem kept_execFwStageDone {z} (s) (hk : Kept z s) :
    keptOut z (execFwStageDone s) := by
  unfold execFwStageDone
  repeat'
    first
      | with_reducible
          first
            | assumption | apply kept_ite | apply kept_floorEvent | apply kept_stageDone | apply kept_ite_snd
            | apply kept_next | apply kept_next
      | dsimp only | split | intro _

theorem kept_execFwActivate {z} (p s) (hk : Kept z s) :
    keptOut z (execFwActivate p s) := by
  unfold execFwActivate
  repeat'
    first
      | with_reducible
          first
            | assumption | apply kept_ite | apply kept_answer | apply kept_fetchPacket | apply kept_cmdFwActivate
            | apply kept_ite_snd | apply kept_next
      | (refine kept_snd ?_ (by assumption)) | dsimp only | split | intro _

theorem kept_execPowerPeriod {z} (p s) (hk : Kept z s) :
    keptOut z (execPowerPeriod p s) := by
  unfold execPowerPeriod
  repeat'
    first
      | with_reducible
          first
            | assumption | apply kept_ite | apply kept_answer | apply kept_floorEvent | apply kept_powerPeriod
            | apply kept_ite_snd | apply kept_next
      | dsimp only | split | intro _

theorem kept_execCorrectionUpdate {z} (millivolts milliamps s) (hk : Kept z s) :
    keptOut z (execCorrectionUpdate millivolts milliamps s) := by
  unfold execCorrectionUpdate
  repeat'
    first
      | with_reducible
          first
            | assumption | apply kept_ite | apply kept_floorEvent | apply kept_correction | apply kept_ite_snd
            | apply kept_next | apply kept_next
      | dsimp only | split | intro _

theorem kept_execFrequencyStep {z} (east s) (hk : Kept z s) :
    keptOut z (execFrequencyStep east s) := by
  unfold execFrequencyStep
  repeat'
    first
      | with_reducible
          first
            | assumption | apply kept_ite | apply kept_floorEvent | apply kept_stepFreq | apply kept_ite_snd
            | apply kept_next | apply kept_next
      | dsimp only | split | intro _

theorem kept_execDroopDetect {z} (plot s) (hk : Kept z s) :
    keptOut z (execDroopDetect plot s) := by
  unfold execDroopDetect
  repeat'
    first
      | with_reducible
          first
            | assumption | apply kept_ite | apply kept_floorEvent | apply kept_droopStart | apply kept_ite_snd
            | apply kept_next | apply kept_next
      | dsimp only | split | intro _

theorem kept_execDroopStretchEnd {z} (plot s) (hk : Kept z s) :
    keptOut z (execDroopStretchEnd plot s) := by
  unfold execDroopStretchEnd
  repeat'
    first
      | with_reducible
          first
            | assumption | apply kept_ite | apply kept_floorEvent | apply kept_droopEnd | apply kept_ite_snd
            | apply kept_next | apply kept_next
      | dsimp only | split | intro _

theorem kept_execRegulatorFailure {z} (die index s) (hk : Kept z s) :
    keptOut z (execRegulatorFailure die index s) := by
  unfold execRegulatorFailure
  repeat'
    first
      | with_reducible
          first
            | assumption | apply kept_ite | apply kept_answer | apply kept_floorEvent | apply kept_failRegulator
            | apply kept_ite_snd | apply kept_next
      | dsimp only | split | intro _

theorem kept_execPathCheck {z} (die index measured expected s) (hk : Kept z s) :
    keptOut z (execPathCheck die index measured expected s) := by
  unfold execPathCheck
  repeat'
    first
      | with_reducible
          first
            | assumption | apply kept_ite | apply kept_answer | apply kept_floorEvent | apply kept_pathChecked
            | apply kept_ite_snd | apply kept_next
      | dsimp only | split | intro _

theorem kept_execTractPark {z} (tract s) (hk : Kept z s) :
    keptOut z (execTractPark tract s) := by
  unfold execTractPark
  repeat'
    first
      | with_reducible
          first
            | assumption | apply kept_ite | apply kept_event | apply kept_tractPark | apply kept_ite_snd
            | apply kept_next | apply kept_next
      | dsimp only | split | intro _

theorem kept_execTractWake {z} (tract s) (hk : Kept z s) :
    keptOut z (execTractWake tract s) := by
  unfold execTractWake
  repeat'
    first
      | with_reducible
          first
            | assumption | apply kept_ite | apply kept_event | apply kept_tractWake | apply kept_ite_snd
            | apply kept_next | apply kept_next
      | dsimp only | split | intro _

theorem kept_execGroveUngate {z} (tract s) (hk : Kept z s) :
    keptOut z (execGroveUngate tract s) := by
  unfold execGroveUngate
  repeat'
    first
      | with_reducible
          first
            | assumption | apply kept_ite | apply kept_event | apply kept_ungate | apply kept_ite_snd
            | apply kept_next | apply kept_next
      | dsimp only | split | intro _

theorem kept_execWakeDeferralLimit {z} (tract s) (hk : Kept z s) :
    keptOut z (execWakeDeferralLimit tract s) := by
  unfold execWakeDeferralLimit
  repeat'
    first
      | with_reducible
          first
            | assumption | apply kept_ite | apply kept_event | apply kept_wakeLimit | apply kept_ite_snd
            | apply kept_next | apply kept_next
      | dsimp only | split | intro _

theorem kept_execSensorSample {z} (readings s) (hk : Kept z s) :
    keptOut z (execSensorSample readings s) := by
  unfold execSensorSample
  repeat'
    first
      | with_reducible
          first
            | assumption | apply kept_ite | apply kept_answer | apply kept_floorEvent | apply kept_sensorSample
            | apply kept_ite_snd | apply kept_next
      | dsimp only | split | intro _

theorem kept_execAbruptRecheck {z} (readings s) (hk : Kept z s) :
    keptOut z (execAbruptRecheck readings s) := by
  unfold execAbruptRecheck
  repeat'
    first
      | with_reducible
          first
            | assumption | apply kept_ite | apply kept_answer | apply kept_floorEvent | apply kept_abruptRecheck
            | apply kept_ite_snd | apply kept_next
      | dsimp only | split | intro _

theorem kept_execAbruptClear {z} (s) (hk : Kept z s) :
    keptOut z (execAbruptClear s) := by
  unfold execAbruptClear
  repeat'
    first
      | with_reducible
          first
            | assumption | apply kept_ite | apply kept_floorEvent | apply kept_abruptClear | apply kept_ite_snd
            | apply kept_next | apply kept_next
      | dsimp only | split | intro _

theorem kept_execLeakageMeasure {z} (layer area current s) (hk : Kept z s) :
    keptOut z (execLeakageMeasure layer area current s) := by
  unfold execLeakageMeasure
  repeat'
    first
      | with_reducible
          first
            | assumption | apply kept_ite | apply kept_answer | apply kept_floorEvent | apply kept_leakageMeasured
            | apply kept_ite_snd | apply kept_next
      | dsimp only | split | intro _

theorem kept_execHiddenHotCheck {z} (s) (hk : Kept z s) :
    keptOut z (execHiddenHotCheck s) := by
  unfold execHiddenHotCheck
  repeat'
    first
      | with_reducible
          first
            | assumption | apply kept_ite | apply kept_floorEvent | apply kept_hiddenCheck | apply kept_ite_snd
            | apply kept_next | apply kept_next
      | dsimp only | split | intro _

theorem kept_execThermalComputation {z} (seconds s) (hk : Kept z s) :
    keptOut z (execThermalComputation seconds s) := by
  unfold execThermalComputation
  repeat'
    first
      | with_reducible
          first
            | assumption | apply kept_ite | apply kept_floorEvent | apply kept_thermalCompute | apply kept_ite_snd
            | apply kept_next | apply kept_next
      | dsimp only | split | intro _

theorem kept_execKAdjust {z} (slow s) (hk : Kept z s) :
    keptOut z (execKAdjust slow s) := by
  unfold execKAdjust
  repeat'
    first
      | with_reducible
          first
            | assumption | apply kept_ite | apply kept_floorEvent | apply kept_kAdjust | apply kept_ite_snd
            | apply kept_next | apply kept_next
      | dsimp only | split | intro _

theorem kept_execClampEnd {z} (s) (hk : Kept z s) :
    keptOut z (execClampEnd s) := by
  unfold execClampEnd
  repeat'
    first
      | with_reducible
          first
            | assumption | apply kept_ite | apply kept_floorEvent | apply kept_clampEnd | apply kept_ite_snd
            | apply kept_next | apply kept_next
      | dsimp only | split | intro _

theorem kept_execAlertRelease {z} (s) (hk : Kept z s) :
    keptOut z (execAlertRelease s) := by
  unfold execAlertRelease
  repeat'
    first
      | with_reducible
          first
            | assumption | apply kept_ite | apply kept_floorEvent | apply kept_alertRelease | apply kept_ite_snd
            | apply kept_next | apply kept_next
      | dsimp only | split | intro _

theorem kept_execWarningNote {z} (s) (hk : Kept z s) :
    keptOut z (execWarningNote s) := by
  unfold execWarningNote
  repeat'
    first
      | with_reducible
          first
            | assumption | apply kept_ite | apply kept_floorEvent | apply kept_warningNote | apply kept_ite_snd
            | apply kept_next | apply kept_next
      | dsimp only | split | intro _

theorem kept_execCoolantStale {z} (s) (hk : Kept z s) :
    keptOut z (execCoolantStale s) := by
  unfold execCoolantStale
  repeat'
    first
      | with_reducible
          first
            | assumption | apply kept_ite | apply kept_floorEvent | apply kept_coolantStale | apply kept_ite_snd
            | apply kept_next | apply kept_next
      | dsimp only | split | intro _

theorem kept_execConfidentialPublication {z} (s) (hk : Kept z s) :
    keptOut z (execConfidentialPublication s) := by
  unfold execConfidentialPublication
  repeat'
    first
      | with_reducible
          first
            | assumption | apply kept_ite | apply kept_event | apply kept_publishSecond | apply kept_ite_snd
            | apply kept_next | apply kept_next
      | dsimp only | split | intro _

theorem kept_execScrubDone {z} (part s) (hk : Kept z s) :
    keptOut z (execScrubDone part s) := by
  unfold execScrubDone
  repeat'
    first
      | with_reducible
          first
            | assumption | apply kept_ite | apply kept_event | apply kept_endScrub | apply kept_ite_snd
            | apply kept_next | apply kept_next
      | dsimp only | split | intro _

theorem kept_execStepSubmit {z} (p s) (hk : Kept z s) :
    keptOut z (execStepSubmit p s) := by
  unfold execStepSubmit
  repeat'
    first
      | with_reducible
          first
            | assumption | apply kept_ite | apply kept_answer | apply kept_fetchPacket | apply kept_cmdStepSubmit
            | apply kept_ite_snd | apply kept_next
      | (refine kept_snd ?_ (by assumption)) | dsimp only | split | intro _

theorem kept_execWaitLimitExpiry {z} (part ctx plan s) (hk : Kept z s) :
    keptOut z (execWaitLimitExpiry part ctx plan s) := by
  unfold execWaitLimitExpiry
  repeat'
    first
      | with_reducible
          first
            | assumption | apply kept_ite | apply kept_event | apply kept_waitExpired | apply kept_ite_snd
            | apply kept_next | apply kept_next
      | dsimp only | split | intro _

theorem kept_execStepEligible {z} (qp tag s) (hk : Kept z s) :
    keptOut z (execStepEligible qp tag s) := by
  unfold execStepEligible
  repeat'
    first
      | with_reducible
          first
            | assumption | apply kept_ite | apply kept_event | apply kept_stepEligible | apply kept_ite_snd
            | apply kept_next | apply kept_next
      | dsimp only | split | intro _

theorem kept_execStepStart {z} (part s) (hk : Kept z s) :
    keptOut z (execStepStart part s) := by
  unfold execStepStart
  repeat'
    first
      | with_reducible
          first
            | assumption | apply kept_ite | apply kept_event | apply kept_stepStart | apply kept_ite_snd
            | apply kept_next | apply kept_next
      | dsimp only | split | intro _

theorem kept_execStepComplete {z} (part s) (hk : Kept z s) :
    keptOut z (execStepComplete part s) := by
  unfold execStepComplete
  repeat'
    first
      | with_reducible
          first
            | assumption | apply kept_ite | apply kept_event | apply kept_stepComplete | apply kept_ite_snd
            | apply kept_next | apply kept_next
      | dsimp only | split | intro _

theorem kept_execPlanLoad {z} (p s) (hk : Kept z s) :
    keptOut z (execPlanLoad p s) := by
  unfold execPlanLoad
  repeat'
    first
      | with_reducible
          first
            | assumption | apply kept_ite | apply kept_answer | apply kept_fetchPacket | apply kept_cmdPlanLoad
            | apply kept_ite_snd | apply kept_next
      | (refine kept_snd ?_ (by assumption)) | dsimp only | split | intro _

theorem kept_execPlanValidationDone {z} (qp tag s) (hk : Kept z s) :
    keptOut z (execPlanValidationDone qp tag s) := by
  unfold execPlanValidationDone
  repeat'
    first
      | with_reducible
          first
            | assumption | apply kept_ite | apply kept_event | apply kept_planValidated | apply kept_ite_snd
            | apply kept_next | apply kept_next
      | dsimp only | split | intro _

theorem kept_execPlanUnload {z} (p s) (hk : Kept z s) :
    keptOut z (execPlanUnload p s) := by
  unfold execPlanUnload
  repeat'
    first
      | with_reducible
          first
            | assumption | apply kept_ite | apply kept_answer | apply kept_fetchPacket | apply kept_cmdPlanUnload
            | apply kept_ite_snd | apply kept_next
      | (refine kept_snd ?_ (by assumption)) | dsimp only | split | intro _

theorem kept_execStepCancel {z} (p s) (hk : Kept z s) :
    keptOut z (execStepCancel p s) := by
  unfold execStepCancel
  repeat'
    first
      | with_reducible
          first
            | assumption | apply kept_ite | apply kept_answer | apply kept_fetchPacket | apply kept_cmdStepCancel
            | apply kept_ite_snd | apply kept_next
      | (refine kept_snd ?_ (by assumption)) | dsimp only | split | intro _

theorem kept_execBatchSet {z} (p s) (hk : Kept z s) :
    keptOut z (execBatchSet p s) := by
  unfold execBatchSet
  repeat'
    first
      | with_reducible
          first
            | assumption | apply kept_ite | apply kept_answer | apply kept_fetchPacket | apply kept_cmdBatchSet
            | apply kept_ite_snd | apply kept_next
      | (refine kept_snd ?_ (by assumption)) | dsimp only | split | intro _

theorem kept_execContextSet {z} (p s) (hk : Kept z s) :
    keptOut z (execContextSet p s) := by
  unfold execContextSet
  repeat'
    first
      | with_reducible
          first
            | assumption | apply kept_ite | apply kept_answer | apply kept_fetchPacket | apply kept_cmdContextSet
            | apply kept_ite_snd | apply kept_next
      | (refine kept_snd ?_ (by assumption)) | dsimp only | split | intro _

theorem kept_execSliceExpiry {z} (part s) (hk : Kept z s) :
    keptOut z (execSliceExpiry part s) := by
  unfold execSliceExpiry
  repeat'
    first
      | with_reducible
          first
            | assumption | apply kept_ite | apply kept_event | apply kept_sliceExpired | apply kept_ite_snd
            | apply kept_next | apply kept_next
      | dsimp only | split | intro _

theorem kept_execSliceOverrun {z} (part s) (hk : Kept z s) :
    keptOut z (execSliceOverrun part s) := by
  unfold execSliceOverrun
  repeat'
    first
      | with_reducible
          first
            | assumption | apply kept_ite | apply kept_event | apply kept_sliceOverrun | apply kept_ite_snd
            | apply kept_next | apply kept_next
      | dsimp only | split | intro _

theorem kept_execContextSwitchDone {z} (part s) (hk : Kept z s) :
    keptOut z (execContextSwitchDone part s) := by
  unfold execContextSwitchDone
  repeat'
    first
      | with_reducible
          first
            | assumption | apply kept_ite | apply kept_event | apply kept_switchDone | apply kept_ite_snd
            | apply kept_next | apply kept_next
      | dsimp only | split | intro _

theorem kept_execCacheOpen {z} (p s) (hk : Kept z s) :
    keptOut z (execCacheOpen p s) := by
  unfold execCacheOpen
  repeat'
    first
      | with_reducible
          first
            | assumption | apply kept_ite | apply kept_answer | apply kept_fetchPacket | apply kept_cmdCacheOpen
            | apply kept_ite_snd | apply kept_next
      | (refine kept_snd ?_ (by assumption)) | dsimp only | split | intro _

theorem kept_execCacheClose {z} (p s) (hk : Kept z s) :
    keptOut z (execCacheClose p s) := by
  unfold execCacheClose
  repeat'
    first
      | with_reducible
          first
            | assumption | apply kept_ite | apply kept_answer | apply kept_fetchPacket | apply kept_cmdCacheClose
            | apply kept_ite_snd | apply kept_next
      | (refine kept_snd ?_ (by assumption)) | dsimp only | split | intro _

theorem kept_execCacheSeq {z} (p s) (hk : Kept z s) :
    keptOut z (execCacheSeq p s) := by
  unfold execCacheSeq
  repeat'
    first
      | with_reducible
          first
            | assumption | apply kept_ite | apply kept_answer | apply kept_fetchPacket | apply kept_cmdCacheSeq
            | apply kept_ite_snd | apply kept_next
      | (refine kept_snd ?_ (by assumption)) | dsimp only | split | intro _

theorem kept_execCacheSeqQuery {z} (p s) (hk : Kept z s) :
    keptOut z (execCacheSeqQuery p s) := by
  unfold execCacheSeqQuery
  repeat'
    first
      | with_reducible
          first
            | assumption | apply kept_ite | apply kept_answer | apply kept_fetchPacket | apply kept_cmdCacheSeqQuery
            | apply kept_ite_snd | apply kept_next
      | (refine kept_snd ?_ (by assumption)) | dsimp only | split | intro _

theorem kept_execCacheMigrate {z} (p s) (hk : Kept z s) :
    keptOut z (execCacheMigrate p s) := by
  unfold execCacheMigrate
  repeat'
    first
      | with_reducible
          first
            | assumption | apply kept_ite | apply kept_answer | apply kept_fetchPacket | apply kept_cmdCacheMigrate
            | apply kept_ite_snd | apply kept_next
      | (refine kept_snd ?_ (by assumption)) | dsimp only | split | intro _

theorem kept_execMigrationDone {z} (qp tag s) (hk : Kept z s) :
    keptOut z (execMigrationDone qp tag s) := by
  unfold execMigrationDone
  repeat'
    first
      | with_reducible
          first
            | assumption | apply kept_ite | apply kept_event | apply kept_migrationDone | apply kept_ite_snd
            | apply kept_next | apply kept_next
      | dsimp only | split | intro _

theorem kept_execPageSwitch {z} (part cache s) (hk : Kept z s) :
    keptOut z (execPageSwitch part cache s) := by
  unfold execPageSwitch
  repeat'
    first
      | with_reducible
          first
            | assumption | apply kept_ite | apply kept_event | apply kept_pageSwitch | apply kept_ite_snd
            | apply kept_next | apply kept_next
      | dsimp only | split | intro _

theorem kept_execCacheStatus {z} (p s) (hk : Kept z s) :
    keptOut z (execCacheStatus p s) := by
  unfold execCacheStatus
  repeat'
    first
      | with_reducible
          first
            | assumption | apply kept_ite | apply kept_answer | apply kept_fetchPacket | apply kept_cmdCacheStatus
            | apply kept_ite_snd | apply kept_next
      | (refine kept_snd ?_ (by assumption)) | dsimp only | split | intro _

theorem kept_execHealthRingSet {z} (p s) (hk : Kept z s) :
    keptOut z (execHealthRingSet p s) := by
  unfold execHealthRingSet
  repeat'
    first
      | with_reducible
          first
            | assumption | apply kept_ite | apply kept_answer | apply kept_fetchPacket | apply kept_cmdHealthRingSet
            | apply kept_ite_snd | apply kept_next
      | (refine kept_snd ?_ (by assumption)) | dsimp only | split | intro _

theorem kept_execHealthRingStatus {z} (p s) (hk : Kept z s) :
    keptOut z (execHealthRingStatus p s) := by
  unfold execHealthRingStatus
  repeat'
    first
      | with_reducible
          first
            | assumption | apply kept_ite | apply kept_answer | apply kept_fetchPacket
            | apply kept_cmdHealthRingStatus | apply kept_ite_snd | apply kept_next
      | (refine kept_snd ?_ (by assumption)) | dsimp only | split | intro _

theorem kept_execScalePass {z} (part u s) (hk : Kept z s) :
    keptOut z (execScalePass part u s) := by
  unfold execScalePass
  repeat'
    first
      | with_reducible
          first
            | assumption | apply kept_ite | apply kept_operatorEvent | apply kept_runLocal | apply kept_ite_snd
            | apply kept_next | apply kept_next
      | dsimp only | split | intro _

theorem kept_execQuantise {z} (part u s) (hk : Kept z s) :
    keptOut z (execQuantise part u s) := by
  unfold execQuantise
  repeat'
    first
      | with_reducible
          first
            | assumption | apply kept_ite | apply kept_operatorEvent | apply kept_runLocal | apply kept_ite_snd
            | apply kept_next | apply kept_next
      | dsimp only | split | intro _

theorem kept_execGemm {z} (part u s) (hk : Kept z s) :
    keptOut z (execGemm part u s) := by
  unfold execGemm
  repeat'
    first
      | with_reducible
          first
            | assumption | apply kept_ite | apply kept_operatorEvent | apply kept_runLocal | apply kept_ite_snd
            | apply kept_next | apply kept_next
      | dsimp only | split | intro _

theorem kept_execGemmBatched {z} (part u s) (hk : Kept z s) :
    keptOut z (execGemmBatched part u s) := by
  unfold execGemmBatched
  repeat'
    first
      | with_reducible
          first
            | assumption | apply kept_ite | apply kept_operatorEvent | apply kept_runLocal | apply kept_ite_snd
            | apply kept_next | apply kept_next
      | dsimp only | split | intro _

theorem kept_execGemmGrouped {z} (part u s) (hk : Kept z s) :
    keptOut z (execGemmGrouped part u s) := by
  unfold execGemmGrouped
  repeat'
    first
      | with_reducible
          first
            | assumption | apply kept_ite | apply kept_operatorEvent | apply kept_runLocal | apply kept_ite_snd
            | apply kept_next | apply kept_next
      | dsimp only | split | intro _

theorem kept_execAttnCanopy {z} (part u s) (hk : Kept z s) :
    keptOut z (execAttnCanopy part u s) := by
  unfold execAttnCanopy
  repeat'
    first
      | with_reducible
          first
            | assumption | apply kept_ite | apply kept_operatorEvent | apply kept_runLocal | apply kept_ite_snd
            | apply kept_next | apply kept_next
      | dsimp only | split | intro _

theorem kept_execGather {z} (part u s) (hk : Kept z s) :
    keptOut z (execGather part u s) := by
  unfold execGather
  repeat'
    first
      | with_reducible
          first
            | assumption | apply kept_ite | apply kept_operatorEvent | apply kept_runLocal | apply kept_ite_snd
            | apply kept_next | apply kept_next
      | dsimp only | split | intro _

theorem kept_execScatter {z} (part u s) (hk : Kept z s) :
    keptOut z (execScatter part u s) := by
  unfold execScatter
  repeat'
    first
      | with_reducible
          first
            | assumption | apply kept_ite | apply kept_operatorEvent | apply kept_runLocal | apply kept_ite_snd
            | apply kept_next | apply kept_next
      | dsimp only | split | intro _

theorem kept_execEmbed {z} (part u s) (hk : Kept z s) :
    keptOut z (execEmbed part u s) := by
  unfold execEmbed
  repeat'
    first
      | with_reducible
          first
            | assumption | apply kept_ite | apply kept_operatorEvent | apply kept_runLocal | apply kept_ite_snd
            | apply kept_next | apply kept_next
      | dsimp only | split | intro _

theorem kept_execTopk {z} (part u s) (hk : Kept z s) :
    keptOut z (execTopk part u s) := by
  unfold execTopk
  repeat'
    first
      | with_reducible
          first
            | assumption | apply kept_ite | apply kept_operatorEvent | apply kept_runLocal | apply kept_ite_snd
            | apply kept_next | apply kept_next
      | dsimp only | split | intro _

theorem kept_execSort {z} (part u s) (hk : Kept z s) :
    keptOut z (execSort part u s) := by
  unfold execSort
  repeat'
    first
      | with_reducible
          first
            | assumption | apply kept_ite | apply kept_operatorEvent | apply kept_runLocal | apply kept_ite_snd
            | apply kept_next | apply kept_next
      | dsimp only | split | intro _

theorem kept_execScan {z} (part u s) (hk : Kept z s) :
    keptOut z (execScan part u s) := by
  unfold execScan
  repeat'
    first
      | with_reducible
          first
            | assumption | apply kept_ite | apply kept_operatorEvent | apply kept_runLocal | apply kept_ite_snd
            | apply kept_next | apply kept_next
      | dsimp only | split | intro _

theorem kept_execConv1d {z} (part u s) (hk : Kept z s) :
    keptOut z (execConv1d part u s) := by
  unfold execConv1d
  repeat'
    first
      | with_reducible
          first
            | assumption | apply kept_ite | apply kept_operatorEvent | apply kept_runLocal | apply kept_ite_snd
            | apply kept_next | apply kept_next
      | dsimp only | split | intro _

theorem kept_execConv2d {z} (part u s) (hk : Kept z s) :
    keptOut z (execConv2d part u s) := by
  unfold execConv2d
  repeat'
    first
      | with_reducible
          first
            | assumption | apply kept_ite | apply kept_operatorEvent | apply kept_runLocal | apply kept_ite_snd
            | apply kept_next | apply kept_next
      | dsimp only | split | intro _

theorem kept_execRmsnorm {z} (part u s) (hk : Kept z s) :
    keptOut z (execRmsnorm part u s) := by
  unfold execRmsnorm
  repeat'
    first
      | with_reducible
          first
            | assumption | apply kept_ite | apply kept_operatorEvent | apply kept_runLocal | apply kept_ite_snd
            | apply kept_next | apply kept_next
      | dsimp only | split | intro _

theorem kept_execLayernorm {z} (part u s) (hk : Kept z s) :
    keptOut z (execLayernorm part u s) := by
  unfold execLayernorm
  repeat'
    first
      | with_reducible
          first
            | assumption | apply kept_ite | apply kept_operatorEvent | apply kept_runLocal | apply kept_ite_snd
            | apply kept_next | apply kept_next
      | dsimp only | split | intro _

theorem kept_execSoftmax {z} (part u s) (hk : Kept z s) :
    keptOut z (execSoftmax part u s) := by
  unfold execSoftmax
  repeat'
    first
      | with_reducible
          first
            | assumption | apply kept_ite | apply kept_operatorEvent | apply kept_runLocal | apply kept_ite_snd
            | apply kept_next | apply kept_next
      | dsimp only | split | intro _

theorem kept_execEltwise {z} (part u s) (hk : Kept z s) :
    keptOut z (execEltwise part u s) := by
  unfold execEltwise
  repeat'
    first
      | with_reducible
          first
            | assumption | apply kept_ite | apply kept_operatorEvent | apply kept_runLocal | apply kept_ite_snd
            | apply kept_next | apply kept_next
      | dsimp only | split | intro _

theorem kept_execSample {z} (part u s) (hk : Kept z s) :
    keptOut z (execSample part u s) := by
  unfold execSample
  repeat'
    first
      | with_reducible
          first
            | assumption | apply kept_ite | apply kept_operatorEvent | apply kept_runLocal | apply kept_ite_snd
            | apply kept_next | apply kept_next
      | dsimp only | split | intro _

theorem kept_execOptStep {z} (part u s) (hk : Kept z s) :
    keptOut z (execOptStep part u s) := by
  unfold execOptStep
  repeat'
    first
      | with_reducible
          first
            | assumption | apply kept_ite | apply kept_operatorEvent | apply kept_runLocal | apply kept_ite_snd
            | apply kept_next | apply kept_next
      | dsimp only | split | intro _

theorem kept_execLossXent {z} (part u s) (hk : Kept z s) :
    keptOut z (execLossXent part u s) := by
  unfold execLossXent
  repeat'
    first
      | with_reducible
          first
            | assumption | apply kept_ite | apply kept_operatorEvent | apply kept_runLocal | apply kept_ite_snd
            | apply kept_next | apply kept_next
      | dsimp only | split | intro _

theorem kept_execAttnCanopyBwd {z} (part u s) (hk : Kept z s) :
    keptOut z (execAttnCanopyBwd part u s) := by
  unfold execAttnCanopyBwd
  repeat'
    first
      | with_reducible
          first
            | assumption | apply kept_ite | apply kept_operatorEvent | apply kept_runLocal | apply kept_ite_snd
            | apply kept_next | apply kept_next
      | dsimp only | split | intro _

theorem kept_execConv1dBwd {z} (part u s) (hk : Kept z s) :
    keptOut z (execConv1dBwd part u s) := by
  unfold execConv1dBwd
  repeat'
    first
      | with_reducible
          first
            | assumption | apply kept_ite | apply kept_operatorEvent | apply kept_runLocal | apply kept_ite_snd
            | apply kept_next | apply kept_next
      | dsimp only | split | intro _

theorem kept_execConv2dBwd {z} (part u s) (hk : Kept z s) :
    keptOut z (execConv2dBwd part u s) := by
  unfold execConv2dBwd
  repeat'
    first
      | with_reducible
          first
            | assumption | apply kept_ite | apply kept_operatorEvent | apply kept_runLocal | apply kept_ite_snd
            | apply kept_next | apply kept_next
      | dsimp only | split | intro _

theorem kept_execRmsnormBwd {z} (part u s) (hk : Kept z s) :
    keptOut z (execRmsnormBwd part u s) := by
  unfold execRmsnormBwd
  repeat'
    first
      | with_reducible
          first
            | assumption | apply kept_ite | apply kept_operatorEvent | apply kept_runLocal | apply kept_ite_snd
            | apply kept_next | apply kept_next
      | dsimp only | split | intro _

theorem kept_execLayernormBwd {z} (part u s) (hk : Kept z s) :
    keptOut z (execLayernormBwd part u s) := by
  unfold execLayernormBwd
  repeat'
    first
      | with_reducible
          first
            | assumption | apply kept_ite | apply kept_operatorEvent | apply kept_runLocal | apply kept_ite_snd
            | apply kept_next | apply kept_next
      | dsimp only | split | intro _

theorem kept_execSoftmaxBwd {z} (part u s) (hk : Kept z s) :
    keptOut z (execSoftmaxBwd part u s) := by
  unfold execSoftmaxBwd
  repeat'
    first
      | with_reducible
          first
            | assumption | apply kept_ite | apply kept_operatorEvent | apply kept_runLocal | apply kept_ite_snd
            | apply kept_next | apply kept_next
      | dsimp only | split | intro _

theorem kept_execAttnClearing {z} (part u others s) (hk : Kept z s) :
    keptOut z (execAttnClearing part u others s) := by
  unfold execAttnClearing
  repeat'
    first
      | with_reducible
          first
            | assumption | apply kept_ite | apply kept_operatorEvent | apply kept_runAttnClearing
            | apply kept_ite_snd | apply kept_next | apply kept_next
      | dsimp only | split | intro _

theorem kept_execKvScatter {z} (part u peers s) (hk : Kept z s) :
    keptOut z (execKvScatter part u peers s) := by
  unfold execKvScatter
  repeat'
    first
      | with_reducible
          first
            | assumption | apply kept_ite | apply kept_operatorEvent | apply kept_runKvScatter | apply kept_ite_snd
            | apply kept_next | apply kept_next
      | dsimp only | split | intro _

theorem kept_execAllReduce {z} (part u others s) (hk : Kept z s) :
    keptOut z (execAllReduce part u others s) := by
  unfold execAllReduce
  repeat'
    first
      | with_reducible
          first
            | assumption | apply kept_ite | apply kept_operatorEvent | apply kept_runAllReduce | apply kept_ite_snd
            | apply kept_next | apply kept_next
      | dsimp only | split | intro _

theorem kept_execReduceScatter {z} (part u others s) (hk : Kept z s) :
    keptOut z (execReduceScatter part u others s) := by
  unfold execReduceScatter
  repeat'
    first
      | with_reducible
          first
            | assumption | apply kept_ite | apply kept_operatorEvent | apply kept_runReduceScatter
            | apply kept_ite_snd | apply kept_next | apply kept_next
      | dsimp only | split | intro _

theorem kept_execAllGather {z} (part u others s) (hk : Kept z s) :
    keptOut z (execAllGather part u others s) := by
  unfold execAllGather
  repeat'
    first
      | with_reducible
          first
            | assumption | apply kept_ite | apply kept_operatorEvent | apply kept_runAllGather | apply kept_ite_snd
            | apply kept_next | apply kept_next
      | dsimp only | split | intro _

theorem kept_execAllToAll {z} (part u others s) (hk : Kept z s) :
    keptOut z (execAllToAll part u others s) := by
  unfold execAllToAll
  repeat'
    first
      | with_reducible
          first
            | assumption | apply kept_ite | apply kept_operatorEvent | apply kept_runAllToAll | apply kept_ite_snd
            | apply kept_next | apply kept_next
      | dsimp only | split | intro _

theorem kept_execBroadcast {z} (part u others s) (hk : Kept z s) :
    keptOut z (execBroadcast part u others s) := by
  unfold execBroadcast
  repeat'
    first
      | with_reducible
          first
            | assumption | apply kept_ite | apply kept_operatorEvent | apply kept_runBroadcast | apply kept_ite_snd
            | apply kept_next | apply kept_next
      | dsimp only | split | intro _

end Sys2Proof.Machine
end

