-- ==== Sys2Proof/Laws/State.lean ====
section
/-! SUPPORT. What each named update of the state leaves in each field: a later proof unfolds no record update. -/
namespace Sys2Proof.Machine

section
variable (qp : BitVec 6) (f : QueuePair → QueuePair) (s : State)

@[simp] theorem updPair_pending : (updPair qp f s).pending = s.pending := rfl
@[simp] theorem updPair_out : (updPair qp f s).out = s.out := rfl
@[simp] theorem updPair_draw : (updPair qp f s).draw = s.draw := rfl
@[simp] theorem updPair_order : (updPair qp f s).order = s.order := rfl
@[simp] theorem updPair_pins : (updPair qp f s).pins = s.pins := rfl
@[simp] theorem updPair_start : (updPair qp f s).start = s.start := rfl
@[simp] theorem updPair_cxl : (updPair qp f s).cxl = s.cxl := rfl
@[simp] theorem updPair_bar : (updPair qp f s).bar = s.bar := rfl
@[simp] theorem updPair_partitions : (updPair qp f s).partitions = s.partitions := rfl
@[simp] theorem updPair_loading : (updPair qp f s).loading = s.loading := rfl
@[simp] theorem updPair_mem : (updPair qp f s).mem = s.mem := rfl
@[simp] theorem updPair_parity : (updPair qp f s).parity = s.parity := rfl
@[simp] theorem updPair_tags : (updPair qp f s).tags = s.tags := rfl
@[simp] theorem updPair_dirtyTags : (updPair qp f s).dirtyTags = s.dirtyTags := rfl
@[simp] theorem updPair_layers : (updPair qp f s).layers = s.layers := rfl
@[simp] theorem updPair_layersCold : (updPair qp f s).layersCold = s.layersCold := rfl
@[simp] theorem updPair_rehomedCold : (updPair qp f s).rehomedCold = s.rehomedCold := rfl
@[simp] theorem updPair_rootOut : (updPair qp f s).rootOut = s.rootOut := rfl
@[simp] theorem updPair_absorbed : (updPair qp f s).absorbed = s.absorbed := rfl
@[simp] theorem updPair_layerRegs : (updPair qp f s).layerRegs = s.layerRegs := rfl
@[simp] theorem updPair_scrubbing : (updPair qp f s).scrubbing = s.scrubbing := rfl
@[simp] theorem updPair_repairs : (updPair qp f s).repairs = s.repairs := rfl
@[simp] theorem updPair_training : (updPair qp f s).training = s.training := rfl
@[simp] theorem updPair_laneErrors : (updPair qp f s).laneErrors = s.laneErrors := rfl
@[simp] theorem updPair_laneCounts : (updPair qp f s).laneCounts = s.laneCounts := rfl
@[simp] theorem updPair_channels : (updPair qp f s).channels = s.channels := rfl
@[simp] theorem updPair_phases : (updPair qp f s).phases = s.phases := rfl
@[simp] theorem updPair_phasesAt : (updPair qp f s).phasesAt = s.phasesAt := rfl
@[simp] theorem updPair_units : (updPair qp f s).units = s.units := rfl
@[simp] theorem updPair_testPeriod : (updPair qp f s).testPeriod = s.testPeriod := rfl
@[simp] theorem updPair_testRun : (updPair qp f s).testRun = s.testRun := rfl
@[simp] theorem updPair_unitsPassed : (updPair qp f s).unitsPassed = s.unitsPassed := rfl
@[simp] theorem updPair_lattice : (updPair qp f s).lattice = s.lattice := rfl
@[simp] theorem updPair_groves : (updPair qp f s).groves = s.groves := rfl
@[simp] theorem updPair_mesh : (updPair qp f s).mesh = s.mesh := rfl
@[simp] theorem updPair_routers : (updPair qp f s).routers = s.routers := rfl
@[simp] theorem updPair_distGen : (updPair qp f s).distGen = s.distGen := rfl
@[simp] theorem updPair_net : (updPair qp f s).net = s.net := rfl
@[simp] theorem updPair_netNoted : (updPair qp f s).netNoted = s.netNoted := rfl
@[simp] theorem updPair_fabric : (updPair qp f s).fabric = s.fabric := rfl
@[simp] theorem updPair_power : (updPair qp f s).power = s.power := rfl
@[simp] theorem updPair_thermal : (updPair qp f s).thermal = s.thermal := rfl
@[simp] theorem updPair_recorder : (updPair qp f s).recorder = s.recorder := rfl
@[simp] theorem updPair_config : (updPair qp f s).config = s.config := rfl
@[simp] theorem updPair_firmware : (updPair qp f s).firmware = s.firmware := rfl
@[simp] theorem updPair_reserve : (updPair qp f s).reserve = s.reserve := rfl

end

section
variable (n : BitVec 4) (f : Partition → Partition) (s : State)

@[simp] theorem updPart_pending : (updPart n f s).pending = s.pending := rfl
@[simp] theorem updPart_out : (updPart n f s).out = s.out := rfl
@[simp] theorem updPart_draw : (updPart n f s).draw = s.draw := rfl
@[simp] theorem updPart_order : (updPart n f s).order = s.order := rfl
@[simp] theorem updPart_pins : (updPart n f s).pins = s.pins := rfl
@[simp] theorem updPart_start : (updPart n f s).start = s.start := rfl
@[simp] theorem updPart_cxl : (updPart n f s).cxl = s.cxl := rfl
@[simp] theorem updPart_bar : (updPart n f s).bar = s.bar := rfl
@[simp] theorem updPart_pairs : (updPart n f s).pairs = s.pairs := rfl
@[simp] theorem updPart_loading : (updPart n f s).loading = s.loading := rfl
@[simp] theorem updPart_mem : (updPart n f s).mem = s.mem := rfl
@[simp] theorem updPart_parity : (updPart n f s).parity = s.parity := rfl
@[simp] theorem updPart_tags : (updPart n f s).tags = s.tags := rfl
@[simp] theorem updPart_dirtyTags : (updPart n f s).dirtyTags = s.dirtyTags := rfl
@[simp] theorem updPart_layers : (updPart n f s).layers = s.layers := rfl
@[simp] theorem updPart_layersCold : (updPart n f s).layersCold = s.layersCold := rfl
@[simp] theorem updPart_rehomedCold : (updPart n f s).rehomedCold = s.rehomedCold := rfl
@[simp] theorem updPart_rootOut : (updPart n f s).rootOut = s.rootOut := rfl
@[simp] theorem updPart_absorbed : (updPart n f s).absorbed = s.absorbed := rfl
@[simp] theorem updPart_layerRegs : (updPart n f s).layerRegs = s.layerRegs := rfl
@[simp] theorem updPart_scrubbing : (updPart n f s).scrubbing = s.scrubbing := rfl
@[simp] theorem updPart_repairs : (updPart n f s).repairs = s.repairs := rfl
@[simp] theorem updPart_training : (updPart n f s).training = s.training := rfl
@[simp] theorem updPart_laneErrors : (updPart n f s).laneErrors = s.laneErrors := rfl
@[simp] theorem updPart_laneCounts : (updPart n f s).laneCounts = s.laneCounts := rfl
@[simp] theorem updPart_channels : (updPart n f s).channels = s.channels := rfl
@[simp] theorem updPart_phases : (updPart n f s).phases = s.phases := rfl
@[simp] theorem updPart_phasesAt : (updPart n f s).phasesAt = s.phasesAt := rfl
@[simp] theorem updPart_units : (updPart n f s).units = s.units := rfl
@[simp] theorem updPart_testPeriod : (updPart n f s).testPeriod = s.testPeriod := rfl
@[simp] theorem updPart_testRun : (updPart n f s).testRun = s.testRun := rfl
@[simp] theorem updPart_unitsPassed : (updPart n f s).unitsPassed = s.unitsPassed := rfl
@[simp] theorem updPart_lattice : (updPart n f s).lattice = s.lattice := rfl
@[simp] theorem updPart_groves : (updPart n f s).groves = s.groves := rfl
@[simp] theorem updPart_mesh : (updPart n f s).mesh = s.mesh := rfl
@[simp] theorem updPart_routers : (updPart n f s).routers = s.routers := rfl
@[simp] theorem updPart_distGen : (updPart n f s).distGen = s.distGen := rfl
@[simp] theorem updPart_net : (updPart n f s).net = s.net := rfl
@[simp] theorem updPart_netNoted : (updPart n f s).netNoted = s.netNoted := rfl
@[simp] theorem updPart_fabric : (updPart n f s).fabric = s.fabric := rfl
@[simp] theorem updPart_power : (updPart n f s).power = s.power := rfl
@[simp] theorem updPart_thermal : (updPart n f s).thermal = s.thermal := rfl
@[simp] theorem updPart_recorder : (updPart n f s).recorder = s.recorder := rfl
@[simp] theorem updPart_config : (updPart n f s).config = s.config := rfl
@[simp] theorem updPart_firmware : (updPart n f s).firmware = s.firmware := rfl
@[simp] theorem updPart_reserve : (updPart n f s).reserve = s.reserve := rfl

end

section
variable (n : BitVec 4) (c : Nat) (f : Context → Context) (s : State)

@[simp] theorem updCtx_pending : (updCtx n c f s).pending = s.pending := rfl
@[simp] theorem updCtx_out : (updCtx n c f s).out = s.out := rfl
@[simp] theorem updCtx_draw : (updCtx n c f s).draw = s.draw := rfl
@[simp] theorem updCtx_order : (updCtx n c f s).order = s.order := rfl
@[simp] theorem updCtx_pins : (updCtx n c f s).pins = s.pins := rfl
@[simp] theorem updCtx_start : (updCtx n c f s).start = s.start := rfl
@[simp] theorem updCtx_cxl : (updCtx n c f s).cxl = s.cxl := rfl
@[simp] theorem updCtx_bar : (updCtx n c f s).bar = s.bar := rfl
@[simp] theorem updCtx_pairs : (updCtx n c f s).pairs = s.pairs := rfl
@[simp] theorem updCtx_loading : (updCtx n c f s).loading = s.loading := rfl
@[simp] theorem updCtx_mem : (updCtx n c f s).mem = s.mem := rfl
@[simp] theorem updCtx_parity : (updCtx n c f s).parity = s.parity := rfl
@[simp] theorem updCtx_tags : (updCtx n c f s).tags = s.tags := rfl
@[simp] theorem updCtx_dirtyTags : (updCtx n c f s).dirtyTags = s.dirtyTags := rfl
@[simp] theorem updCtx_layers : (updCtx n c f s).layers = s.layers := rfl
@[simp] theorem updCtx_layersCold : (updCtx n c f s).layersCold = s.layersCold := rfl
@[simp] theorem updCtx_rehomedCold : (updCtx n c f s).rehomedCold = s.rehomedCold := rfl
@[simp] theorem updCtx_rootOut : (updCtx n c f s).rootOut = s.rootOut := rfl
@[simp] theorem updCtx_absorbed : (updCtx n c f s).absorbed = s.absorbed := rfl
@[simp] theorem updCtx_layerRegs : (updCtx n c f s).layerRegs = s.layerRegs := rfl
@[simp] theorem updCtx_scrubbing : (updCtx n c f s).scrubbing = s.scrubbing := rfl
@[simp] theorem updCtx_repairs : (updCtx n c f s).repairs = s.repairs := rfl
@[simp] theorem updCtx_training : (updCtx n c f s).training = s.training := rfl
@[simp] theorem updCtx_laneErrors : (updCtx n c f s).laneErrors = s.laneErrors := rfl
@[simp] theorem updCtx_laneCounts : (updCtx n c f s).laneCounts = s.laneCounts := rfl
@[simp] theorem updCtx_channels : (updCtx n c f s).channels = s.channels := rfl
@[simp] theorem updCtx_phases : (updCtx n c f s).phases = s.phases := rfl
@[simp] theorem updCtx_phasesAt : (updCtx n c f s).phasesAt = s.phasesAt := rfl
@[simp] theorem updCtx_units : (updCtx n c f s).units = s.units := rfl
@[simp] theorem updCtx_testPeriod : (updCtx n c f s).testPeriod = s.testPeriod := rfl
@[simp] theorem updCtx_testRun : (updCtx n c f s).testRun = s.testRun := rfl
@[simp] theorem updCtx_unitsPassed : (updCtx n c f s).unitsPassed = s.unitsPassed := rfl
@[simp] theorem updCtx_lattice : (updCtx n c f s).lattice = s.lattice := rfl
@[simp] theorem updCtx_groves : (updCtx n c f s).groves = s.groves := rfl
@[simp] theorem updCtx_mesh : (updCtx n c f s).mesh = s.mesh := rfl
@[simp] theorem updCtx_routers : (updCtx n c f s).routers = s.routers := rfl
@[simp] theorem updCtx_distGen : (updCtx n c f s).distGen = s.distGen := rfl
@[simp] theorem updCtx_net : (updCtx n c f s).net = s.net := rfl
@[simp] theorem updCtx_netNoted : (updCtx n c f s).netNoted = s.netNoted := rfl
@[simp] theorem updCtx_fabric : (updCtx n c f s).fabric = s.fabric := rfl
@[simp] theorem updCtx_power : (updCtx n c f s).power = s.power := rfl
@[simp] theorem updCtx_thermal : (updCtx n c f s).thermal = s.thermal := rfl
@[simp] theorem updCtx_recorder : (updCtx n c f s).recorder = s.recorder := rfl
@[simp] theorem updCtx_config : (updCtx n c f s).config = s.config := rfl
@[simp] theorem updCtx_firmware : (updCtx n c f s).firmware = s.firmware := rfl
@[simp] theorem updCtx_reserve : (updCtx n c f s).reserve = s.reserve := rfl

end

section
variable (n : BitVec 4) (h : U32) (f : Plan → Plan) (s : State)

@[simp] theorem updPlan_pending : (updPlan n h f s).pending = s.pending := rfl
@[simp] theorem updPlan_out : (updPlan n h f s).out = s.out := rfl
@[simp] theorem updPlan_draw : (updPlan n h f s).draw = s.draw := rfl
@[simp] theorem updPlan_order : (updPlan n h f s).order = s.order := rfl
@[simp] theorem updPlan_pins : (updPlan n h f s).pins = s.pins := rfl
@[simp] theorem updPlan_start : (updPlan n h f s).start = s.start := rfl
@[simp] theorem updPlan_cxl : (updPlan n h f s).cxl = s.cxl := rfl
@[simp] theorem updPlan_bar : (updPlan n h f s).bar = s.bar := rfl
@[simp] theorem updPlan_pairs : (updPlan n h f s).pairs = s.pairs := rfl
@[simp] theorem updPlan_loading : (updPlan n h f s).loading = s.loading := rfl
@[simp] theorem updPlan_mem : (updPlan n h f s).mem = s.mem := rfl
@[simp] theorem updPlan_parity : (updPlan n h f s).parity = s.parity := rfl
@[simp] theorem updPlan_tags : (updPlan n h f s).tags = s.tags := rfl
@[simp] theorem updPlan_dirtyTags : (updPlan n h f s).dirtyTags = s.dirtyTags := rfl
@[simp] theorem updPlan_layers : (updPlan n h f s).layers = s.layers := rfl
@[simp] theorem updPlan_layersCold : (updPlan n h f s).layersCold = s.layersCold := rfl
@[simp] theorem updPlan_rehomedCold : (updPlan n h f s).rehomedCold = s.rehomedCold := rfl
@[simp] theorem updPlan_rootOut : (updPlan n h f s).rootOut = s.rootOut := rfl
@[simp] theorem updPlan_absorbed : (updPlan n h f s).absorbed = s.absorbed := rfl
@[simp] theorem updPlan_layerRegs : (updPlan n h f s).layerRegs = s.layerRegs := rfl
@[simp] theorem updPlan_scrubbing : (updPlan n h f s).scrubbing = s.scrubbing := rfl
@[simp] theorem updPlan_repairs : (updPlan n h f s).repairs = s.repairs := rfl
@[simp] theorem updPlan_training : (updPlan n h f s).training = s.training := rfl
@[simp] theorem updPlan_laneErrors : (updPlan n h f s).laneErrors = s.laneErrors := rfl
@[simp] theorem updPlan_laneCounts : (updPlan n h f s).laneCounts = s.laneCounts := rfl
@[simp] theorem updPlan_channels : (updPlan n h f s).channels = s.channels := rfl
@[simp] theorem updPlan_phases : (updPlan n h f s).phases = s.phases := rfl
@[simp] theorem updPlan_phasesAt : (updPlan n h f s).phasesAt = s.phasesAt := rfl
@[simp] theorem updPlan_units : (updPlan n h f s).units = s.units := rfl
@[simp] theorem updPlan_testPeriod : (updPlan n h f s).testPeriod = s.testPeriod := rfl
@[simp] theorem updPlan_testRun : (updPlan n h f s).testRun = s.testRun := rfl
@[simp] theorem updPlan_unitsPassed : (updPlan n h f s).unitsPassed = s.unitsPassed := rfl
@[simp] theorem updPlan_lattice : (updPlan n h f s).lattice = s.lattice := rfl
@[simp] theorem updPlan_groves : (updPlan n h f s).groves = s.groves := rfl
@[simp] theorem updPlan_mesh : (updPlan n h f s).mesh = s.mesh := rfl
@[simp] theorem updPlan_routers : (updPlan n h f s).routers = s.routers := rfl
@[simp] theorem updPlan_distGen : (updPlan n h f s).distGen = s.distGen := rfl
@[simp] theorem updPlan_net : (updPlan n h f s).net = s.net := rfl
@[simp] theorem updPlan_netNoted : (updPlan n h f s).netNoted = s.netNoted := rfl
@[simp] theorem updPlan_fabric : (updPlan n h f s).fabric = s.fabric := rfl
@[simp] theorem updPlan_power : (updPlan n h f s).power = s.power := rfl
@[simp] theorem updPlan_thermal : (updPlan n h f s).thermal = s.thermal := rfl
@[simp] theorem updPlan_recorder : (updPlan n h f s).recorder = s.recorder := rfl
@[simp] theorem updPlan_config : (updPlan n h f s).config = s.config := rfl
@[simp] theorem updPlan_firmware : (updPlan n h f s).firmware = s.firmware := rfl
@[simp] theorem updPlan_reserve : (updPlan n h f s).reserve = s.reserve := rfl

end

section
variable (n : BitVec 4) (h : U32) (f : Cache → Cache) (s : State)

@[simp] theorem updCache_pending : (updCache n h f s).pending = s.pending := rfl
@[simp] theorem updCache_out : (updCache n h f s).out = s.out := rfl
@[simp] theorem updCache_draw : (updCache n h f s).draw = s.draw := rfl
@[simp] theorem updCache_order : (updCache n h f s).order = s.order := rfl
@[simp] theorem updCache_pins : (updCache n h f s).pins = s.pins := rfl
@[simp] theorem updCache_start : (updCache n h f s).start = s.start := rfl
@[simp] theorem updCache_cxl : (updCache n h f s).cxl = s.cxl := rfl
@[simp] theorem updCache_bar : (updCache n h f s).bar = s.bar := rfl
@[simp] theorem updCache_pairs : (updCache n h f s).pairs = s.pairs := rfl
@[simp] theorem updCache_loading : (updCache n h f s).loading = s.loading := rfl
@[simp] theorem updCache_mem : (updCache n h f s).mem = s.mem := rfl
@[simp] theorem updCache_parity : (updCache n h f s).parity = s.parity := rfl
@[simp] theorem updCache_tags : (updCache n h f s).tags = s.tags := rfl
@[simp] theorem updCache_dirtyTags : (updCache n h f s).dirtyTags = s.dirtyTags := rfl
@[simp] theorem updCache_layers : (updCache n h f s).layers = s.layers := rfl
@[simp] theorem updCache_layersCold : (updCache n h f s).layersCold = s.layersCold := rfl
@[simp] theorem updCache_rehomedCold : (updCache n h f s).rehomedCold = s.rehomedCold := rfl
@[simp] theorem updCache_rootOut : (updCache n h f s).rootOut = s.rootOut := rfl
@[simp] theorem updCache_absorbed : (updCache n h f s).absorbed = s.absorbed := rfl
@[simp] theorem updCache_layerRegs : (updCache n h f s).layerRegs = s.layerRegs := rfl
@[simp] theorem updCache_scrubbing : (updCache n h f s).scrubbing = s.scrubbing := rfl
@[simp] theorem updCache_repairs : (updCache n h f s).repairs = s.repairs := rfl
@[simp] theorem updCache_training : (updCache n h f s).training = s.training := rfl
@[simp] theorem updCache_laneErrors : (updCache n h f s).laneErrors = s.laneErrors := rfl
@[simp] theorem updCache_laneCounts : (updCache n h f s).laneCounts = s.laneCounts := rfl
@[simp] theorem updCache_channels : (updCache n h f s).channels = s.channels := rfl
@[simp] theorem updCache_phases : (updCache n h f s).phases = s.phases := rfl
@[simp] theorem updCache_phasesAt : (updCache n h f s).phasesAt = s.phasesAt := rfl
@[simp] theorem updCache_units : (updCache n h f s).units = s.units := rfl
@[simp] theorem updCache_testPeriod : (updCache n h f s).testPeriod = s.testPeriod := rfl
@[simp] theorem updCache_testRun : (updCache n h f s).testRun = s.testRun := rfl
@[simp] theorem updCache_unitsPassed : (updCache n h f s).unitsPassed = s.unitsPassed := rfl
@[simp] theorem updCache_lattice : (updCache n h f s).lattice = s.lattice := rfl
@[simp] theorem updCache_groves : (updCache n h f s).groves = s.groves := rfl
@[simp] theorem updCache_mesh : (updCache n h f s).mesh = s.mesh := rfl
@[simp] theorem updCache_routers : (updCache n h f s).routers = s.routers := rfl
@[simp] theorem updCache_distGen : (updCache n h f s).distGen = s.distGen := rfl
@[simp] theorem updCache_net : (updCache n h f s).net = s.net := rfl
@[simp] theorem updCache_netNoted : (updCache n h f s).netNoted = s.netNoted := rfl
@[simp] theorem updCache_fabric : (updCache n h f s).fabric = s.fabric := rfl
@[simp] theorem updCache_power : (updCache n h f s).power = s.power := rfl
@[simp] theorem updCache_thermal : (updCache n h f s).thermal = s.thermal := rfl
@[simp] theorem updCache_recorder : (updCache n h f s).recorder = s.recorder := rfl
@[simp] theorem updCache_config : (updCache n h f s).config = s.config := rfl
@[simp] theorem updCache_firmware : (updCache n h f s).firmware = s.firmware := rfl
@[simp] theorem updCache_reserve : (updCache n h f s).reserve = s.reserve := rfl

end

section
variable (u : Nat) (f : NbUnit → NbUnit) (s : State)

@[simp] theorem updUnit_pending : (updUnit u f s).pending = s.pending := rfl
@[simp] theorem updUnit_out : (updUnit u f s).out = s.out := rfl
@[simp] theorem updUnit_draw : (updUnit u f s).draw = s.draw := rfl
@[simp] theorem updUnit_order : (updUnit u f s).order = s.order := rfl
@[simp] theorem updUnit_pins : (updUnit u f s).pins = s.pins := rfl
@[simp] theorem updUnit_start : (updUnit u f s).start = s.start := rfl
@[simp] theorem updUnit_cxl : (updUnit u f s).cxl = s.cxl := rfl
@[simp] theorem updUnit_bar : (updUnit u f s).bar = s.bar := rfl
@[simp] theorem updUnit_pairs : (updUnit u f s).pairs = s.pairs := rfl
@[simp] theorem updUnit_partitions : (updUnit u f s).partitions = s.partitions := rfl
@[simp] theorem updUnit_loading : (updUnit u f s).loading = s.loading := rfl
@[simp] theorem updUnit_mem : (updUnit u f s).mem = s.mem := rfl
@[simp] theorem updUnit_parity : (updUnit u f s).parity = s.parity := rfl
@[simp] theorem updUnit_tags : (updUnit u f s).tags = s.tags := rfl
@[simp] theorem updUnit_dirtyTags : (updUnit u f s).dirtyTags = s.dirtyTags := rfl
@[simp] theorem updUnit_layers : (updUnit u f s).layers = s.layers := rfl
@[simp] theorem updUnit_layersCold : (updUnit u f s).layersCold = s.layersCold := rfl
@[simp] theorem updUnit_rehomedCold : (updUnit u f s).rehomedCold = s.rehomedCold := rfl
@[simp] theorem updUnit_rootOut : (updUnit u f s).rootOut = s.rootOut := rfl
@[simp] theorem updUnit_absorbed : (updUnit u f s).absorbed = s.absorbed := rfl
@[simp] theorem updUnit_layerRegs : (updUnit u f s).layerRegs = s.layerRegs := rfl
@[simp] theorem updUnit_scrubbing : (updUnit u f s).scrubbing = s.scrubbing := rfl
@[simp] theorem updUnit_repairs : (updUnit u f s).repairs = s.repairs := rfl
@[simp] theorem updUnit_training : (updUnit u f s).training = s.training := rfl
@[simp] theorem updUnit_laneErrors : (updUnit u f s).laneErrors = s.laneErrors := rfl
@[simp] theorem updUnit_laneCounts : (updUnit u f s).laneCounts = s.laneCounts := rfl
@[simp] theorem updUnit_channels : (updUnit u f s).channels = s.channels := rfl
@[simp] theorem updUnit_phases : (updUnit u f s).phases = s.phases := rfl
@[simp] theorem updUnit_phasesAt : (updUnit u f s).phasesAt = s.phasesAt := rfl
@[simp] theorem updUnit_testPeriod : (updUnit u f s).testPeriod = s.testPeriod := rfl
@[simp] theorem updUnit_testRun : (updUnit u f s).testRun = s.testRun := rfl
@[simp] theorem updUnit_unitsPassed : (updUnit u f s).unitsPassed = s.unitsPassed := rfl
@[simp] theorem updUnit_lattice : (updUnit u f s).lattice = s.lattice := rfl
@[simp] theorem updUnit_groves : (updUnit u f s).groves = s.groves := rfl
@[simp] theorem updUnit_mesh : (updUnit u f s).mesh = s.mesh := rfl
@[simp] theorem updUnit_routers : (updUnit u f s).routers = s.routers := rfl
@[simp] theorem updUnit_distGen : (updUnit u f s).distGen = s.distGen := rfl
@[simp] theorem updUnit_net : (updUnit u f s).net = s.net := rfl
@[simp] theorem updUnit_netNoted : (updUnit u f s).netNoted = s.netNoted := rfl
@[simp] theorem updUnit_fabric : (updUnit u f s).fabric = s.fabric := rfl
@[simp] theorem updUnit_power : (updUnit u f s).power = s.power := rfl
@[simp] theorem updUnit_thermal : (updUnit u f s).thermal = s.thermal := rfl
@[simp] theorem updUnit_recorder : (updUnit u f s).recorder = s.recorder := rfl
@[simp] theorem updUnit_config : (updUnit u f s).config = s.config := rfl
@[simp] theorem updUnit_firmware : (updUnit u f s).firmware = s.firmware := rfl
@[simp] theorem updUnit_reserve : (updUnit u f s).reserve = s.reserve := rfl

end

section
variable (n : Nat) (f : Link → Link) (s : State)

@[simp] theorem updLink_pending : (updLink n f s).pending = s.pending := rfl
@[simp] theorem updLink_out : (updLink n f s).out = s.out := rfl
@[simp] theorem updLink_draw : (updLink n f s).draw = s.draw := rfl
@[simp] theorem updLink_order : (updLink n f s).order = s.order := rfl
@[simp] theorem updLink_pins : (updLink n f s).pins = s.pins := rfl
@[simp] theorem updLink_start : (updLink n f s).start = s.start := rfl
@[simp] theorem updLink_cxl : (updLink n f s).cxl = s.cxl := rfl
@[simp] theorem updLink_bar : (updLink n f s).bar = s.bar := rfl
@[simp] theorem updLink_pairs : (updLink n f s).pairs = s.pairs := rfl
@[simp] theorem updLink_partitions : (updLink n f s).partitions = s.partitions := rfl
@[simp] theorem updLink_loading : (updLink n f s).loading = s.loading := rfl
@[simp] theorem updLink_mem : (updLink n f s).mem = s.mem := rfl
@[simp] theorem updLink_parity : (updLink n f s).parity = s.parity := rfl
@[simp] theorem updLink_tags : (updLink n f s).tags = s.tags := rfl
@[simp] theorem updLink_dirtyTags : (updLink n f s).dirtyTags = s.dirtyTags := rfl
@[simp] theorem updLink_layers : (updLink n f s).layers = s.layers := rfl
@[simp] theorem updLink_layersCold : (updLink n f s).layersCold = s.layersCold := rfl
@[simp] theorem updLink_rehomedCold : (updLink n f s).rehomedCold = s.rehomedCold := rfl
@[simp] theorem updLink_rootOut : (updLink n f s).rootOut = s.rootOut := rfl
@[simp] theorem updLink_absorbed : (updLink n f s).absorbed = s.absorbed := rfl
@[simp] theorem updLink_layerRegs : (updLink n f s).layerRegs = s.layerRegs := rfl
@[simp] theorem updLink_scrubbing : (updLink n f s).scrubbing = s.scrubbing := rfl
@[simp] theorem updLink_repairs : (updLink n f s).repairs = s.repairs := rfl
@[simp] theorem updLink_training : (updLink n f s).training = s.training := rfl
@[simp] theorem updLink_laneErrors : (updLink n f s).laneErrors = s.laneErrors := rfl
@[simp] theorem updLink_laneCounts : (updLink n f s).laneCounts = s.laneCounts := rfl
@[simp] theorem updLink_channels : (updLink n f s).channels = s.channels := rfl
@[simp] theorem updLink_phases : (updLink n f s).phases = s.phases := rfl
@[simp] theorem updLink_phasesAt : (updLink n f s).phasesAt = s.phasesAt := rfl
@[simp] theorem updLink_units : (updLink n f s).units = s.units := rfl
@[simp] theorem updLink_testPeriod : (updLink n f s).testPeriod = s.testPeriod := rfl
@[simp] theorem updLink_testRun : (updLink n f s).testRun = s.testRun := rfl
@[simp] theorem updLink_unitsPassed : (updLink n f s).unitsPassed = s.unitsPassed := rfl
@[simp] theorem updLink_lattice : (updLink n f s).lattice = s.lattice := rfl
@[simp] theorem updLink_groves : (updLink n f s).groves = s.groves := rfl
@[simp] theorem updLink_mesh : (updLink n f s).mesh = s.mesh := rfl
@[simp] theorem updLink_routers : (updLink n f s).routers = s.routers := rfl
@[simp] theorem updLink_distGen : (updLink n f s).distGen = s.distGen := rfl
@[simp] theorem updLink_net : (updLink n f s).net = s.net := rfl
@[simp] theorem updLink_netNoted : (updLink n f s).netNoted = s.netNoted := rfl
@[simp] theorem updLink_power : (updLink n f s).power = s.power := rfl
@[simp] theorem updLink_thermal : (updLink n f s).thermal = s.thermal := rfl
@[simp] theorem updLink_recorder : (updLink n f s).recorder = s.recorder := rfl
@[simp] theorem updLink_config : (updLink n f s).config = s.config := rfl
@[simp] theorem updLink_firmware : (updLink n f s).firmware = s.firmware := rfl
@[simp] theorem updLink_reserve : (updLink n f s).reserve = s.reserve := rfl

end

section
variable (t : Nat) (f : TractRec → TractRec) (s : State)

@[simp] theorem updTract_pending : (updTract t f s).pending = s.pending := rfl
@[simp] theorem updTract_out : (updTract t f s).out = s.out := rfl
@[simp] theorem updTract_draw : (updTract t f s).draw = s.draw := rfl
@[simp] theorem updTract_order : (updTract t f s).order = s.order := rfl
@[simp] theorem updTract_pins : (updTract t f s).pins = s.pins := rfl
@[simp] theorem updTract_start : (updTract t f s).start = s.start := rfl
@[simp] theorem updTract_cxl : (updTract t f s).cxl = s.cxl := rfl
@[simp] theorem updTract_bar : (updTract t f s).bar = s.bar := rfl
@[simp] theorem updTract_pairs : (updTract t f s).pairs = s.pairs := rfl
@[simp] theorem updTract_partitions : (updTract t f s).partitions = s.partitions := rfl
@[simp] theorem updTract_loading : (updTract t f s).loading = s.loading := rfl
@[simp] theorem updTract_mem : (updTract t f s).mem = s.mem := rfl
@[simp] theorem updTract_parity : (updTract t f s).parity = s.parity := rfl
@[simp] theorem updTract_tags : (updTract t f s).tags = s.tags := rfl
@[simp] theorem updTract_dirtyTags : (updTract t f s).dirtyTags = s.dirtyTags := rfl
@[simp] theorem updTract_layers : (updTract t f s).layers = s.layers := rfl
@[simp] theorem updTract_layersCold : (updTract t f s).layersCold = s.layersCold := rfl
@[simp] theorem updTract_rehomedCold : (updTract t f s).rehomedCold = s.rehomedCold := rfl
@[simp] theorem updTract_rootOut : (updTract t f s).rootOut = s.rootOut := rfl
@[simp] theorem updTract_absorbed : (updTract t f s).absorbed = s.absorbed := rfl
@[simp] theorem updTract_layerRegs : (updTract t f s).layerRegs = s.layerRegs := rfl
@[simp] theorem updTract_scrubbing : (updTract t f s).scrubbing = s.scrubbing := rfl
@[simp] theorem updTract_repairs : (updTract t f s).repairs = s.repairs := rfl
@[simp] theorem updTract_training : (updTract t f s).training = s.training := rfl
@[simp] theorem updTract_laneErrors : (updTract t f s).laneErrors = s.laneErrors := rfl
@[simp] theorem updTract_laneCounts : (updTract t f s).laneCounts = s.laneCounts := rfl
@[simp] theorem updTract_channels : (updTract t f s).channels = s.channels := rfl
@[simp] theorem updTract_phases : (updTract t f s).phases = s.phases := rfl
@[simp] theorem updTract_phasesAt : (updTract t f s).phasesAt = s.phasesAt := rfl
@[simp] theorem updTract_units : (updTract t f s).units = s.units := rfl
@[simp] theorem updTract_testPeriod : (updTract t f s).testPeriod = s.testPeriod := rfl
@[simp] theorem updTract_testRun : (updTract t f s).testRun = s.testRun := rfl
@[simp] theorem updTract_unitsPassed : (updTract t f s).unitsPassed = s.unitsPassed := rfl
@[simp] theorem updTract_lattice : (updTract t f s).lattice = s.lattice := rfl
@[simp] theorem updTract_groves : (updTract t f s).groves = s.groves := rfl
@[simp] theorem updTract_mesh : (updTract t f s).mesh = s.mesh := rfl
@[simp] theorem updTract_routers : (updTract t f s).routers = s.routers := rfl
@[simp] theorem updTract_distGen : (updTract t f s).distGen = s.distGen := rfl
@[simp] theorem updTract_net : (updTract t f s).net = s.net := rfl
@[simp] theorem updTract_netNoted : (updTract t f s).netNoted = s.netNoted := rfl
@[simp] theorem updTract_fabric : (updTract t f s).fabric = s.fabric := rfl
@[simp] theorem updTract_thermal : (updTract t f s).thermal = s.thermal := rfl
@[simp] theorem updTract_recorder : (updTract t f s).recorder = s.recorder := rfl
@[simp] theorem updTract_config : (updTract t f s).config = s.config := rfl
@[simp] theorem updTract_firmware : (updTract t f s).firmware = s.firmware := rfl
@[simp] theorem updTract_reserve : (updTract t f s).reserve = s.reserve := rfl

end

section
variable (l : Nat) (f : LayerRegs → LayerRegs) (s : State)

@[simp] theorem updLayer_pending : (updLayer l f s).pending = s.pending := rfl
@[simp] theorem updLayer_out : (updLayer l f s).out = s.out := rfl
@[simp] theorem updLayer_draw : (updLayer l f s).draw = s.draw := rfl
@[simp] theorem updLayer_order : (updLayer l f s).order = s.order := rfl
@[simp] theorem updLayer_pins : (updLayer l f s).pins = s.pins := rfl
@[simp] theorem updLayer_start : (updLayer l f s).start = s.start := rfl
@[simp] theorem updLayer_cxl : (updLayer l f s).cxl = s.cxl := rfl
@[simp] theorem updLayer_bar : (updLayer l f s).bar = s.bar := rfl
@[simp] theorem updLayer_pairs : (updLayer l f s).pairs = s.pairs := rfl
@[simp] theorem updLayer_partitions : (updLayer l f s).partitions = s.partitions := rfl
@[simp] theorem updLayer_loading : (updLayer l f s).loading = s.loading := rfl
@[simp] theorem updLayer_mem : (updLayer l f s).mem = s.mem := rfl
@[simp] theorem updLayer_parity : (updLayer l f s).parity = s.parity := rfl
@[simp] theorem updLayer_tags : (updLayer l f s).tags = s.tags := rfl
@[simp] theorem updLayer_dirtyTags : (updLayer l f s).dirtyTags = s.dirtyTags := rfl
@[simp] theorem updLayer_layers : (updLayer l f s).layers = s.layers := rfl
@[simp] theorem updLayer_layersCold : (updLayer l f s).layersCold = s.layersCold := rfl
@[simp] theorem updLayer_rehomedCold : (updLayer l f s).rehomedCold = s.rehomedCold := rfl
@[simp] theorem updLayer_rootOut : (updLayer l f s).rootOut = s.rootOut := rfl
@[simp] theorem updLayer_absorbed : (updLayer l f s).absorbed = s.absorbed := rfl
@[simp] theorem updLayer_scrubbing : (updLayer l f s).scrubbing = s.scrubbing := rfl
@[simp] theorem updLayer_repairs : (updLayer l f s).repairs = s.repairs := rfl
@[simp] theorem updLayer_training : (updLayer l f s).training = s.training := rfl
@[simp] theorem updLayer_laneErrors : (updLayer l f s).laneErrors = s.laneErrors := rfl
@[simp] theorem updLayer_laneCounts : (updLayer l f s).laneCounts = s.laneCounts := rfl
@[simp] theorem updLayer_channels : (updLayer l f s).channels = s.channels := rfl
@[simp] theorem updLayer_phases : (updLayer l f s).phases = s.phases := rfl
@[simp] theorem updLayer_phasesAt : (updLayer l f s).phasesAt = s.phasesAt := rfl
@[simp] theorem updLayer_units : (updLayer l f s).units = s.units := rfl
@[simp] theorem updLayer_testPeriod : (updLayer l f s).testPeriod = s.testPeriod := rfl
@[simp] theorem updLayer_testRun : (updLayer l f s).testRun = s.testRun := rfl
@[simp] theorem updLayer_unitsPassed : (updLayer l f s).unitsPassed = s.unitsPassed := rfl
@[simp] theorem updLayer_lattice : (updLayer l f s).lattice = s.lattice := rfl
@[simp] theorem updLayer_groves : (updLayer l f s).groves = s.groves := rfl
@[simp] theorem updLayer_mesh : (updLayer l f s).mesh = s.mesh := rfl
@[simp] theorem updLayer_routers : (updLayer l f s).routers = s.routers := rfl
@[simp] theorem updLayer_distGen : (updLayer l f s).distGen = s.distGen := rfl
@[simp] theorem updLayer_net : (updLayer l f s).net = s.net := rfl
@[simp] theorem updLayer_netNoted : (updLayer l f s).netNoted = s.netNoted := rfl
@[simp] theorem updLayer_fabric : (updLayer l f s).fabric = s.fabric := rfl
@[simp] theorem updLayer_power : (updLayer l f s).power = s.power := rfl
@[simp] theorem updLayer_thermal : (updLayer l f s).thermal = s.thermal := rfl
@[simp] theorem updLayer_recorder : (updLayer l f s).recorder = s.recorder := rfl
@[simp] theorem updLayer_config : (updLayer l f s).config = s.config := rfl
@[simp] theorem updLayer_firmware : (updLayer l f s).firmware = s.firmware := rfl
@[simp] theorem updLayer_reserve : (updLayer l f s).reserve = s.reserve := rfl

end

section
variable (n : Nat) (f : Decoder → Decoder) (s : State)

@[simp] theorem updDecoder_pending : (updDecoder n f s).pending = s.pending := rfl
@[simp] theorem updDecoder_out : (updDecoder n f s).out = s.out := rfl
@[simp] theorem updDecoder_draw : (updDecoder n f s).draw = s.draw := rfl
@[simp] theorem updDecoder_order : (updDecoder n f s).order = s.order := rfl
@[simp] theorem updDecoder_pins : (updDecoder n f s).pins = s.pins := rfl
@[simp] theorem updDecoder_start : (updDecoder n f s).start = s.start := rfl
@[simp] theorem updDecoder_bar : (updDecoder n f s).bar = s.bar := rfl
@[simp] theorem updDecoder_pairs : (updDecoder n f s).pairs = s.pairs := rfl
@[simp] theorem updDecoder_partitions : (updDecoder n f s).partitions = s.partitions := rfl
@[simp] theorem updDecoder_loading : (updDecoder n f s).loading = s.loading := rfl
@[simp] theorem updDecoder_mem : (updDecoder n f s).mem = s.mem := rfl
@[simp] theorem updDecoder_parity : (updDecoder n f s).parity = s.parity := rfl
@[simp] theorem updDecoder_tags : (updDecoder n f s).tags = s.tags := rfl
@[simp] theorem updDecoder_dirtyTags : (updDecoder n f s).dirtyTags = s.dirtyTags := rfl
@[simp] theorem updDecoder_layers : (updDecoder n f s).layers = s.layers := rfl
@[simp] theorem updDecoder_layersCold : (updDecoder n f s).layersCold = s.layersCold := rfl
@[simp] theorem updDecoder_rehomedCold : (updDecoder n f s).rehomedCold = s.rehomedCold := rfl
@[simp] theorem updDecoder_rootOut : (updDecoder n f s).rootOut = s.rootOut := rfl
@[simp] theorem updDecoder_absorbed : (updDecoder n f s).absorbed = s.absorbed := rfl
@[simp] theorem updDecoder_layerRegs : (updDecoder n f s).layerRegs = s.layerRegs := rfl
@[simp] theorem updDecoder_scrubbing : (updDecoder n f s).scrubbing = s.scrubbing := rfl
@[simp] theorem updDecoder_repairs : (updDecoder n f s).repairs = s.repairs := rfl
@[simp] theorem updDecoder_training : (updDecoder n f s).training = s.training := rfl
@[simp] theorem updDecoder_laneErrors : (updDecoder n f s).laneErrors = s.laneErrors := rfl
@[simp] theorem updDecoder_laneCounts : (updDecoder n f s).laneCounts = s.laneCounts := rfl
@[simp] theorem updDecoder_channels : (updDecoder n f s).channels = s.channels := rfl
@[simp] theorem updDecoder_phases : (updDecoder n f s).phases = s.phases := rfl
@[simp] theorem updDecoder_phasesAt : (updDecoder n f s).phasesAt = s.phasesAt := rfl
@[simp] theorem updDecoder_units : (updDecoder n f s).units = s.units := rfl
@[simp] theorem updDecoder_testPeriod : (updDecoder n f s).testPeriod = s.testPeriod := rfl
@[simp] theorem updDecoder_testRun : (updDecoder n f s).testRun = s.testRun := rfl
@[simp] theorem updDecoder_unitsPassed : (updDecoder n f s).unitsPassed = s.unitsPassed := rfl
@[simp] theorem updDecoder_lattice : (updDecoder n f s).lattice = s.lattice := rfl
@[simp] theorem updDecoder_groves : (updDecoder n f s).groves = s.groves := rfl
@[simp] theorem updDecoder_mesh : (updDecoder n f s).mesh = s.mesh := rfl
@[simp] theorem updDecoder_routers : (updDecoder n f s).routers = s.routers := rfl
@[simp] theorem updDecoder_distGen : (updDecoder n f s).distGen = s.distGen := rfl
@[simp] theorem updDecoder_net : (updDecoder n f s).net = s.net := rfl
@[simp] theorem updDecoder_netNoted : (updDecoder n f s).netNoted = s.netNoted := rfl
@[simp] theorem updDecoder_fabric : (updDecoder n f s).fabric = s.fabric := rfl
@[simp] theorem updDecoder_power : (updDecoder n f s).power = s.power := rfl
@[simp] theorem updDecoder_thermal : (updDecoder n f s).thermal = s.thermal := rfl
@[simp] theorem updDecoder_recorder : (updDecoder n f s).recorder = s.recorder := rfl
@[simp] theorem updDecoder_config : (updDecoder n f s).config = s.config := rfl
@[simp] theorem updDecoder_firmware : (updDecoder n f s).firmware = s.firmware := rfl
@[simp] theorem updDecoder_reserve : (updDecoder n f s).reserve = s.reserve := rfl

end

section
variable (part : BitVec 4) (id : U32) (f : Group → Group) (s : State)

@[simp] theorem updGroup_pending : (updGroup part id f s).pending = s.pending := rfl
@[simp] theorem updGroup_out : (updGroup part id f s).out = s.out := rfl
@[simp] theorem updGroup_draw : (updGroup part id f s).draw = s.draw := rfl
@[simp] theorem updGroup_order : (updGroup part id f s).order = s.order := rfl
@[simp] theorem updGroup_pins : (updGroup part id f s).pins = s.pins := rfl
@[simp] theorem updGroup_start : (updGroup part id f s).start = s.start := rfl
@[simp] theorem updGroup_cxl : (updGroup part id f s).cxl = s.cxl := rfl
@[simp] theorem updGroup_bar : (updGroup part id f s).bar = s.bar := rfl
@[simp] theorem updGroup_pairs : (updGroup part id f s).pairs = s.pairs := rfl
@[simp] theorem updGroup_partitions : (updGroup part id f s).partitions = s.partitions := rfl
@[simp] theorem updGroup_loading : (updGroup part id f s).loading = s.loading := rfl
@[simp] theorem updGroup_mem : (updGroup part id f s).mem = s.mem := rfl
@[simp] theorem updGroup_parity : (updGroup part id f s).parity = s.parity := rfl
@[simp] theorem updGroup_tags : (updGroup part id f s).tags = s.tags := rfl
@[simp] theorem updGroup_dirtyTags : (updGroup part id f s).dirtyTags = s.dirtyTags := rfl
@[simp] theorem updGroup_layers : (updGroup part id f s).layers = s.layers := rfl
@[simp] theorem updGroup_layersCold : (updGroup part id f s).layersCold = s.layersCold := rfl
@[simp] theorem updGroup_rehomedCold : (updGroup part id f s).rehomedCold = s.rehomedCold := rfl
@[simp] theorem updGroup_rootOut : (updGroup part id f s).rootOut = s.rootOut := rfl
@[simp] theorem updGroup_absorbed : (updGroup part id f s).absorbed = s.absorbed := rfl
@[simp] theorem updGroup_layerRegs : (updGroup part id f s).layerRegs = s.layerRegs := rfl
@[simp] theorem updGroup_scrubbing : (updGroup part id f s).scrubbing = s.scrubbing := rfl
@[simp] theorem updGroup_repairs : (updGroup part id f s).repairs = s.repairs := rfl
@[simp] theorem updGroup_training : (updGroup part id f s).training = s.training := rfl
@[simp] theorem updGroup_laneErrors : (updGroup part id f s).laneErrors = s.laneErrors := rfl
@[simp] theorem updGroup_laneCounts : (updGroup part id f s).laneCounts = s.laneCounts := rfl
@[simp] theorem updGroup_channels : (updGroup part id f s).channels = s.channels := rfl
@[simp] theorem updGroup_phases : (updGroup part id f s).phases = s.phases := rfl
@[simp] theorem updGroup_phasesAt : (updGroup part id f s).phasesAt = s.phasesAt := rfl
@[simp] theorem updGroup_units : (updGroup part id f s).units = s.units := rfl
@[simp] theorem updGroup_testPeriod : (updGroup part id f s).testPeriod = s.testPeriod := rfl
@[simp] theorem updGroup_testRun : (updGroup part id f s).testRun = s.testRun := rfl
@[simp] theorem updGroup_unitsPassed : (updGroup part id f s).unitsPassed = s.unitsPassed := rfl
@[simp] theorem updGroup_lattice : (updGroup part id f s).lattice = s.lattice := rfl
@[simp] theorem updGroup_groves : (updGroup part id f s).groves = s.groves := rfl
@[simp] theorem updGroup_mesh : (updGroup part id f s).mesh = s.mesh := rfl
@[simp] theorem updGroup_routers : (updGroup part id f s).routers = s.routers := rfl
@[simp] theorem updGroup_distGen : (updGroup part id f s).distGen = s.distGen := rfl
@[simp] theorem updGroup_net : (updGroup part id f s).net = s.net := rfl
@[simp] theorem updGroup_netNoted : (updGroup part id f s).netNoted = s.netNoted := rfl
@[simp] theorem updGroup_power : (updGroup part id f s).power = s.power := rfl
@[simp] theorem updGroup_thermal : (updGroup part id f s).thermal = s.thermal := rfl
@[simp] theorem updGroup_recorder : (updGroup part id f s).recorder = s.recorder := rfl
@[simp] theorem updGroup_config : (updGroup part id f s).config = s.config := rfl
@[simp] theorem updGroup_firmware : (updGroup part id f s).firmware = s.firmware := rfl
@[simp] theorem updGroup_reserve : (updGroup part id f s).reserve = s.reserve := rfl

end

section
variable (g : Nat) (f : Router → Router) (s : State)

@[simp] theorem updRouter_pending : (updRouter g f s).pending = s.pending := rfl
@[simp] theorem updRouter_out : (updRouter g f s).out = s.out := rfl
@[simp] theorem updRouter_draw : (updRouter g f s).draw = s.draw := rfl
@[simp] theorem updRouter_order : (updRouter g f s).order = s.order := rfl
@[simp] theorem updRouter_pins : (updRouter g f s).pins = s.pins := rfl
@[simp] theorem updRouter_start : (updRouter g f s).start = s.start := rfl
@[simp] theorem updRouter_cxl : (updRouter g f s).cxl = s.cxl := rfl
@[simp] theorem updRouter_bar : (updRouter g f s).bar = s.bar := rfl
@[simp] theorem updRouter_pairs : (updRouter g f s).pairs = s.pairs := rfl
@[simp] theorem updRouter_partitions : (updRouter g f s).partitions = s.partitions := rfl
@[simp] theorem updRouter_loading : (updRouter g f s).loading = s.loading := rfl
@[simp] theorem updRouter_mem : (updRouter g f s).mem = s.mem := rfl
@[simp] theorem updRouter_parity : (updRouter g f s).parity = s.parity := rfl
@[simp] theorem updRouter_tags : (updRouter g f s).tags = s.tags := rfl
@[simp] theorem updRouter_dirtyTags : (updRouter g f s).dirtyTags = s.dirtyTags := rfl
@[simp] theorem updRouter_layers : (updRouter g f s).layers = s.layers := rfl
@[simp] theorem updRouter_layersCold : (updRouter g f s).layersCold = s.layersCold := rfl
@[simp] theorem updRouter_rehomedCold : (updRouter g f s).rehomedCold = s.rehomedCold := rfl
@[simp] theorem updRouter_rootOut : (updRouter g f s).rootOut = s.rootOut := rfl
@[simp] theorem updRouter_absorbed : (updRouter g f s).absorbed = s.absorbed := rfl
@[simp] theorem updRouter_layerRegs : (updRouter g f s).layerRegs = s.layerRegs := rfl
@[simp] theorem updRouter_scrubbing : (updRouter g f s).scrubbing = s.scrubbing := rfl
@[simp] theorem updRouter_repairs : (updRouter g f s).repairs = s.repairs := rfl
@[simp] theorem updRouter_training : (updRouter g f s).training = s.training := rfl
@[simp] theorem updRouter_laneErrors : (updRouter g f s).laneErrors = s.laneErrors := rfl
@[simp] theorem updRouter_laneCounts : (updRouter g f s).laneCounts = s.laneCounts := rfl
@[simp] theorem updRouter_channels : (updRouter g f s).channels = s.channels := rfl
@[simp] theorem updRouter_phases : (updRouter g f s).phases = s.phases := rfl
@[simp] theorem updRouter_phasesAt : (updRouter g f s).phasesAt = s.phasesAt := rfl
@[simp] theorem updRouter_units : (updRouter g f s).units = s.units := rfl
@[simp] theorem updRouter_testPeriod : (updRouter g f s).testPeriod = s.testPeriod := rfl
@[simp] theorem updRouter_testRun : (updRouter g f s).testRun = s.testRun := rfl
@[simp] theorem updRouter_unitsPassed : (updRouter g f s).unitsPassed = s.unitsPassed := rfl
@[simp] theorem updRouter_lattice : (updRouter g f s).lattice = s.lattice := rfl
@[simp] theorem updRouter_groves : (updRouter g f s).groves = s.groves := rfl
@[simp] theorem updRouter_mesh : (updRouter g f s).mesh = s.mesh := rfl
@[simp] theorem updRouter_distGen : (updRouter g f s).distGen = s.distGen := rfl
@[simp] theorem updRouter_net : (updRouter g f s).net = s.net := rfl
@[simp] theorem updRouter_netNoted : (updRouter g f s).netNoted = s.netNoted := rfl
@[simp] theorem updRouter_fabric : (updRouter g f s).fabric = s.fabric := rfl
@[simp] theorem updRouter_power : (updRouter g f s).power = s.power := rfl
@[simp] theorem updRouter_thermal : (updRouter g f s).thermal = s.thermal := rfl
@[simp] theorem updRouter_recorder : (updRouter g f s).recorder = s.recorder := rfl
@[simp] theorem updRouter_config : (updRouter g f s).config = s.config := rfl
@[simp] theorem updRouter_firmware : (updRouter g f s).firmware = s.firmware := rfl
@[simp] theorem updRouter_reserve : (updRouter g f s).reserve = s.reserve := rfl

end

section
variable (g : Nat) (f : Grove → Grove) (s : State)

@[simp] theorem updGrove_pending : (updGrove g f s).pending = s.pending := rfl
@[simp] theorem updGrove_out : (updGrove g f s).out = s.out := rfl
@[simp] theorem updGrove_draw : (updGrove g f s).draw = s.draw := rfl
@[simp] theorem updGrove_order : (updGrove g f s).order = s.order := rfl
@[simp] theorem updGrove_pins : (updGrove g f s).pins = s.pins := rfl
@[simp] theorem updGrove_start : (updGrove g f s).start = s.start := rfl
@[simp] theorem updGrove_cxl : (updGrove g f s).cxl = s.cxl := rfl
@[simp] theorem updGrove_bar : (updGrove g f s).bar = s.bar := rfl
@[simp] theorem updGrove_pairs : (updGrove g f s).pairs = s.pairs := rfl
@[simp] theorem updGrove_partitions : (updGrove g f s).partitions = s.partitions := rfl
@[simp] theorem updGrove_loading : (updGrove g f s).loading = s.loading := rfl
@[simp] theorem updGrove_mem : (updGrove g f s).mem = s.mem := rfl
@[simp] theorem updGrove_parity : (updGrove g f s).parity = s.parity := rfl
@[simp] theorem updGrove_tags : (updGrove g f s).tags = s.tags := rfl
@[simp] theorem updGrove_dirtyTags : (updGrove g f s).dirtyTags = s.dirtyTags := rfl
@[simp] theorem updGrove_layers : (updGrove g f s).layers = s.layers := rfl
@[simp] theorem updGrove_layersCold : (updGrove g f s).layersCold = s.layersCold := rfl
@[simp] theorem updGrove_rehomedCold : (updGrove g f s).rehomedCold = s.rehomedCold := rfl
@[simp] theorem updGrove_rootOut : (updGrove g f s).rootOut = s.rootOut := rfl
@[simp] theorem updGrove_absorbed : (updGrove g f s).absorbed = s.absorbed := rfl
@[simp] theorem updGrove_layerRegs : (updGrove g f s).layerRegs = s.layerRegs := rfl
@[simp] theorem updGrove_scrubbing : (updGrove g f s).scrubbing = s.scrubbing := rfl
@[simp] theorem updGrove_repairs : (updGrove g f s).repairs = s.repairs := rfl
@[simp] theorem updGrove_training : (updGrove g f s).training = s.training := rfl
@[simp] theorem updGrove_laneErrors : (updGrove g f s).laneErrors = s.laneErrors := rfl
@[simp] theorem updGrove_laneCounts : (updGrove g f s).laneCounts = s.laneCounts := rfl
@[simp] theorem updGrove_channels : (updGrove g f s).channels = s.channels := rfl
@[simp] theorem updGrove_phases : (updGrove g f s).phases = s.phases := rfl
@[simp] theorem updGrove_phasesAt : (updGrove g f s).phasesAt = s.phasesAt := rfl
@[simp] theorem updGrove_units : (updGrove g f s).units = s.units := rfl
@[simp] theorem updGrove_testPeriod : (updGrove g f s).testPeriod = s.testPeriod := rfl
@[simp] theorem updGrove_testRun : (updGrove g f s).testRun = s.testRun := rfl
@[simp] theorem updGrove_unitsPassed : (updGrove g f s).unitsPassed = s.unitsPassed := rfl
@[simp] theorem updGrove_lattice : (updGrove g f s).lattice = s.lattice := rfl
@[simp] theorem updGrove_mesh : (updGrove g f s).mesh = s.mesh := rfl
@[simp] theorem updGrove_routers : (updGrove g f s).routers = s.routers := rfl
@[simp] theorem updGrove_distGen : (updGrove g f s).distGen = s.distGen := rfl
@[simp] theorem updGrove_net : (updGrove g f s).net = s.net := rfl
@[simp] theorem updGrove_netNoted : (updGrove g f s).netNoted = s.netNoted := rfl
@[simp] theorem updGrove_fabric : (updGrove g f s).fabric = s.fabric := rfl
@[simp] theorem updGrove_power : (updGrove g f s).power = s.power := rfl
@[simp] theorem updGrove_thermal : (updGrove g f s).thermal = s.thermal := rfl
@[simp] theorem updGrove_recorder : (updGrove g f s).recorder = s.recorder := rfl
@[simp] theorem updGrove_config : (updGrove g f s).config = s.config := rfl
@[simp] theorem updGrove_firmware : (updGrove g f s).firmware = s.firmware := rfl
@[simp] theorem updGrove_reserve : (updGrove g f s).reserve = s.reserve := rfl

end

section
variable (g d : Nat) (f : MeshLink → MeshLink) (s : State)

@[simp] theorem updMesh_pending : (updMesh g d f s).pending = s.pending := rfl
@[simp] theorem updMesh_out : (updMesh g d f s).out = s.out := rfl
@[simp] theorem updMesh_draw : (updMesh g d f s).draw = s.draw := rfl
@[simp] theorem updMesh_order : (updMesh g d f s).order = s.order := rfl
@[simp] theorem updMesh_pins : (updMesh g d f s).pins = s.pins := rfl
@[simp] theorem updMesh_start : (updMesh g d f s).start = s.start := rfl
@[simp] theorem updMesh_cxl : (updMesh g d f s).cxl = s.cxl := rfl
@[simp] theorem updMesh_bar : (updMesh g d f s).bar = s.bar := rfl
@[simp] theorem updMesh_pairs : (updMesh g d f s).pairs = s.pairs := rfl
@[simp] theorem updMesh_partitions : (updMesh g d f s).partitions = s.partitions := rfl
@[simp] theorem updMesh_loading : (updMesh g d f s).loading = s.loading := rfl
@[simp] theorem updMesh_mem : (updMesh g d f s).mem = s.mem := rfl
@[simp] theorem updMesh_parity : (updMesh g d f s).parity = s.parity := rfl
@[simp] theorem updMesh_tags : (updMesh g d f s).tags = s.tags := rfl
@[simp] theorem updMesh_dirtyTags : (updMesh g d f s).dirtyTags = s.dirtyTags := rfl
@[simp] theorem updMesh_layers : (updMesh g d f s).layers = s.layers := rfl
@[simp] theorem updMesh_layersCold : (updMesh g d f s).layersCold = s.layersCold := rfl
@[simp] theorem updMesh_rehomedCold : (updMesh g d f s).rehomedCold = s.rehomedCold := rfl
@[simp] theorem updMesh_rootOut : (updMesh g d f s).rootOut = s.rootOut := rfl
@[simp] theorem updMesh_absorbed : (updMesh g d f s).absorbed = s.absorbed := rfl
@[simp] theorem updMesh_layerRegs : (updMesh g d f s).layerRegs = s.layerRegs := rfl
@[simp] theorem updMesh_scrubbing : (updMesh g d f s).scrubbing = s.scrubbing := rfl
@[simp] theorem updMesh_repairs : (updMesh g d f s).repairs = s.repairs := rfl
@[simp] theorem updMesh_training : (updMesh g d f s).training = s.training := rfl
@[simp] theorem updMesh_laneErrors : (updMesh g d f s).laneErrors = s.laneErrors := rfl
@[simp] theorem updMesh_laneCounts : (updMesh g d f s).laneCounts = s.laneCounts := rfl
@[simp] theorem updMesh_channels : (updMesh g d f s).channels = s.channels := rfl
@[simp] theorem updMesh_phases : (updMesh g d f s).phases = s.phases := rfl
@[simp] theorem updMesh_phasesAt : (updMesh g d f s).phasesAt = s.phasesAt := rfl
@[simp] theorem updMesh_units : (updMesh g d f s).units = s.units := rfl
@[simp] theorem updMesh_testPeriod : (updMesh g d f s).testPeriod = s.testPeriod := rfl
@[simp] theorem updMesh_testRun : (updMesh g d f s).testRun = s.testRun := rfl
@[simp] theorem updMesh_unitsPassed : (updMesh g d f s).unitsPassed = s.unitsPassed := rfl
@[simp] theorem updMesh_lattice : (updMesh g d f s).lattice = s.lattice := rfl
@[simp] theorem updMesh_groves : (updMesh g d f s).groves = s.groves := rfl
@[simp] theorem updMesh_routers : (updMesh g d f s).routers = s.routers := rfl
@[simp] theorem updMesh_distGen : (updMesh g d f s).distGen = s.distGen := rfl
@[simp] theorem updMesh_net : (updMesh g d f s).net = s.net := rfl
@[simp] theorem updMesh_netNoted : (updMesh g d f s).netNoted = s.netNoted := rfl
@[simp] theorem updMesh_fabric : (updMesh g d f s).fabric = s.fabric := rfl
@[simp] theorem updMesh_power : (updMesh g d f s).power = s.power := rfl
@[simp] theorem updMesh_thermal : (updMesh g d f s).thermal = s.thermal := rfl
@[simp] theorem updMesh_recorder : (updMesh g d f s).recorder = s.recorder := rfl
@[simp] theorem updMesh_config : (updMesh g d f s).config = s.config := rfl
@[simp] theorem updMesh_firmware : (updMesh g d f s).firmware = s.firmware := rfl
@[simp] theorem updMesh_reserve : (updMesh g d f s).reserve = s.reserve := rfl

end

section
variable (die index : Nat) (f : Regulator → Regulator) (s : State)

@[simp] theorem updRegulator_pending : (updRegulator die index f s).pending = s.pending := rfl
@[simp] theorem updRegulator_out : (updRegulator die index f s).out = s.out := rfl
@[simp] theorem updRegulator_draw : (updRegulator die index f s).draw = s.draw := rfl
@[simp] theorem updRegulator_order : (updRegulator die index f s).order = s.order := rfl
@[simp] theorem updRegulator_pins : (updRegulator die index f s).pins = s.pins := rfl
@[simp] theorem updRegulator_start : (updRegulator die index f s).start = s.start := rfl
@[simp] theorem updRegulator_cxl : (updRegulator die index f s).cxl = s.cxl := rfl
@[simp] theorem updRegulator_bar : (updRegulator die index f s).bar = s.bar := rfl
@[simp] theorem updRegulator_pairs : (updRegulator die index f s).pairs = s.pairs := rfl
@[simp] theorem updRegulator_partitions : (updRegulator die index f s).partitions = s.partitions := rfl
@[simp] theorem updRegulator_loading : (updRegulator die index f s).loading = s.loading := rfl
@[simp] theorem updRegulator_mem : (updRegulator die index f s).mem = s.mem := rfl
@[simp] theorem updRegulator_parity : (updRegulator die index f s).parity = s.parity := rfl
@[simp] theorem updRegulator_tags : (updRegulator die index f s).tags = s.tags := rfl
@[simp] theorem updRegulator_dirtyTags : (updRegulator die index f s).dirtyTags = s.dirtyTags := rfl
@[simp] theorem updRegulator_layers : (updRegulator die index f s).layers = s.layers := rfl
@[simp] theorem updRegulator_layersCold : (updRegulator die index f s).layersCold = s.layersCold := rfl
@[simp] theorem updRegulator_rehomedCold : (updRegulator die index f s).rehomedCold = s.rehomedCold := rfl
@[simp] theorem updRegulator_rootOut : (updRegulator die index f s).rootOut = s.rootOut := rfl
@[simp] theorem updRegulator_absorbed : (updRegulator die index f s).absorbed = s.absorbed := rfl
@[simp] theorem updRegulator_layerRegs : (updRegulator die index f s).layerRegs = s.layerRegs := rfl
@[simp] theorem updRegulator_scrubbing : (updRegulator die index f s).scrubbing = s.scrubbing := rfl
@[simp] theorem updRegulator_repairs : (updRegulator die index f s).repairs = s.repairs := rfl
@[simp] theorem updRegulator_training : (updRegulator die index f s).training = s.training := rfl
@[simp] theorem updRegulator_laneErrors : (updRegulator die index f s).laneErrors = s.laneErrors := rfl
@[simp] theorem updRegulator_laneCounts : (updRegulator die index f s).laneCounts = s.laneCounts := rfl
@[simp] theorem updRegulator_channels : (updRegulator die index f s).channels = s.channels := rfl
@[simp] theorem updRegulator_phases : (updRegulator die index f s).phases = s.phases := rfl
@[simp] theorem updRegulator_phasesAt : (updRegulator die index f s).phasesAt = s.phasesAt := rfl
@[simp] theorem updRegulator_units : (updRegulator die index f s).units = s.units := rfl
@[simp] theorem updRegulator_testPeriod : (updRegulator die index f s).testPeriod = s.testPeriod := rfl
@[simp] theorem updRegulator_testRun : (updRegulator die index f s).testRun = s.testRun := rfl
@[simp] theorem updRegulator_unitsPassed : (updRegulator die index f s).unitsPassed = s.unitsPassed := rfl
@[simp] theorem updRegulator_lattice : (updRegulator die index f s).lattice = s.lattice := rfl
@[simp] theorem updRegulator_groves : (updRegulator die index f s).groves = s.groves := rfl
@[simp] theorem updRegulator_mesh : (updRegulator die index f s).mesh = s.mesh := rfl
@[simp] theorem updRegulator_routers : (updRegulator die index f s).routers = s.routers := rfl
@[simp] theorem updRegulator_distGen : (updRegulator die index f s).distGen = s.distGen := rfl
@[simp] theorem updRegulator_net : (updRegulator die index f s).net = s.net := rfl
@[simp] theorem updRegulator_netNoted : (updRegulator die index f s).netNoted = s.netNoted := rfl
@[simp] theorem updRegulator_fabric : (updRegulator die index f s).fabric = s.fabric := rfl
@[simp] theorem updRegulator_thermal : (updRegulator die index f s).thermal = s.thermal := rfl
@[simp] theorem updRegulator_recorder : (updRegulator die index f s).recorder = s.recorder := rfl
@[simp] theorem updRegulator_config : (updRegulator die index f s).config = s.config := rfl
@[simp] theorem updRegulator_firmware : (updRegulator die index f s).firmware = s.firmware := rfl
@[simp] theorem updRegulator_reserve : (updRegulator die index f s).reserve = s.reserve := rfl

end

section
variable (die idx : Nat) (f : Sensor → Sensor) (s : State)

@[simp] theorem updSensor_pending : (updSensor die idx f s).pending = s.pending := rfl
@[simp] theorem updSensor_out : (updSensor die idx f s).out = s.out := rfl
@[simp] theorem updSensor_draw : (updSensor die idx f s).draw = s.draw := rfl
@[simp] theorem updSensor_order : (updSensor die idx f s).order = s.order := rfl
@[simp] theorem updSensor_pins : (updSensor die idx f s).pins = s.pins := rfl
@[simp] theorem updSensor_start : (updSensor die idx f s).start = s.start := rfl
@[simp] theorem updSensor_cxl : (updSensor die idx f s).cxl = s.cxl := rfl
@[simp] theorem updSensor_bar : (updSensor die idx f s).bar = s.bar := rfl
@[simp] theorem updSensor_pairs : (updSensor die idx f s).pairs = s.pairs := rfl
@[simp] theorem updSensor_partitions : (updSensor die idx f s).partitions = s.partitions := rfl
@[simp] theorem updSensor_loading : (updSensor die idx f s).loading = s.loading := rfl
@[simp] theorem updSensor_mem : (updSensor die idx f s).mem = s.mem := rfl
@[simp] theorem updSensor_parity : (updSensor die idx f s).parity = s.parity := rfl
@[simp] theorem updSensor_tags : (updSensor die idx f s).tags = s.tags := rfl
@[simp] theorem updSensor_dirtyTags : (updSensor die idx f s).dirtyTags = s.dirtyTags := rfl
@[simp] theorem updSensor_layers : (updSensor die idx f s).layers = s.layers := rfl
@[simp] theorem updSensor_layersCold : (updSensor die idx f s).layersCold = s.layersCold := rfl
@[simp] theorem updSensor_rehomedCold : (updSensor die idx f s).rehomedCold = s.rehomedCold := rfl
@[simp] theorem updSensor_rootOut : (updSensor die idx f s).rootOut = s.rootOut := rfl
@[simp] theorem updSensor_absorbed : (updSensor die idx f s).absorbed = s.absorbed := rfl
@[simp] theorem updSensor_layerRegs : (updSensor die idx f s).layerRegs = s.layerRegs := rfl
@[simp] theorem updSensor_scrubbing : (updSensor die idx f s).scrubbing = s.scrubbing := rfl
@[simp] theorem updSensor_repairs : (updSensor die idx f s).repairs = s.repairs := rfl
@[simp] theorem updSensor_training : (updSensor die idx f s).training = s.training := rfl
@[simp] theorem updSensor_laneErrors : (updSensor die idx f s).laneErrors = s.laneErrors := rfl
@[simp] theorem updSensor_laneCounts : (updSensor die idx f s).laneCounts = s.laneCounts := rfl
@[simp] theorem updSensor_channels : (updSensor die idx f s).channels = s.channels := rfl
@[simp] theorem updSensor_phases : (updSensor die idx f s).phases = s.phases := rfl
@[simp] theorem updSensor_phasesAt : (updSensor die idx f s).phasesAt = s.phasesAt := rfl
@[simp] theorem updSensor_units : (updSensor die idx f s).units = s.units := rfl
@[simp] theorem updSensor_testPeriod : (updSensor die idx f s).testPeriod = s.testPeriod := rfl
@[simp] theorem updSensor_testRun : (updSensor die idx f s).testRun = s.testRun := rfl
@[simp] theorem updSensor_unitsPassed : (updSensor die idx f s).unitsPassed = s.unitsPassed := rfl
@[simp] theorem updSensor_lattice : (updSensor die idx f s).lattice = s.lattice := rfl
@[simp] theorem updSensor_groves : (updSensor die idx f s).groves = s.groves := rfl
@[simp] theorem updSensor_mesh : (updSensor die idx f s).mesh = s.mesh := rfl
@[simp] theorem updSensor_routers : (updSensor die idx f s).routers = s.routers := rfl
@[simp] theorem updSensor_distGen : (updSensor die idx f s).distGen = s.distGen := rfl
@[simp] theorem updSensor_net : (updSensor die idx f s).net = s.net := rfl
@[simp] theorem updSensor_netNoted : (updSensor die idx f s).netNoted = s.netNoted := rfl
@[simp] theorem updSensor_fabric : (updSensor die idx f s).fabric = s.fabric := rfl
@[simp] theorem updSensor_power : (updSensor die idx f s).power = s.power := rfl
@[simp] theorem updSensor_recorder : (updSensor die idx f s).recorder = s.recorder := rfl
@[simp] theorem updSensor_config : (updSensor die idx f s).config = s.config := rfl
@[simp] theorem updSensor_firmware : (updSensor die idx f s).firmware = s.firmware := rfl
@[simp] theorem updSensor_reserve : (updSensor die idx f s).reserve = s.reserve := rfl

end

@[simp] theorem updPair_pairs (qp : BitVec 6) (f : QueuePair → QueuePair) (s : State) :
    (updPair qp f s).pairs = updWhere (fun q => q.qp = qp) f s.pairs := rfl
@[simp] theorem updPart_partitions (n : BitVec 4) (f : Partition → Partition) (s : State) :
    (updPart n f s).partitions = updWhere (fun p => p.num = n) f s.partitions := rfl
@[simp] theorem updUnit_units (u : Nat) (f : NbUnit → NbUnit) (s : State) :
    (updUnit u f s).units = upsert (fun x => x.unit = u) f (s.freshUnit u) s.units := rfl
@[simp] theorem updLink_links (n : Nat) (f : Link → Link) (s : State) :
    (updLink n f s).fabric.links = updWhere (fun l => l.num = n) f s.fabric.links := rfl
@[simp] theorem updTract_tracts (t : Nat) (f : TractRec → TractRec) (s : State) :
    (updTract t f s).power.tracts = updWhere (fun x => x.num = t) f s.power.tracts := rfl
@[simp] theorem updLayer_layerRegs (l : Nat) (f : LayerRegs → LayerRegs) (s : State) :
    (updLayer l f s).layerRegs = updWhere (fun r => r.layer = l) f s.layerRegs := rfl
@[simp] theorem updDecoder_decoders (n : Nat) (f : Decoder → Decoder) (s : State) :
    (updDecoder n f s).cxl.decoders = setAt s.cxl.decoders n f := rfl
@[simp] theorem updGroup_groups (part : BitVec 4) (id : U32) (f : Group → Group) (s : State) :
    (updGroup part id f s).fabric.groups = updWhere (fun g => g.part = part && g.id = id) f s.fabric.groups := rfl
@[simp] theorem updRouter_routers (g : Nat) (f : Router → Router) (s : State) :
    (updRouter g f s).routers = upsert (fun r => r.grove = g) f (Router.fresh g) s.routers := rfl
@[simp] theorem updGrove_groves (g : Nat) (f : Grove → Grove) (s : State) :
    (updGrove g f s).groves = upsert (fun x => x.num = g) f (Grove.fresh g) s.groves := rfl
@[simp] theorem updRegulator_regulators (die index : Nat) (f : Regulator → Regulator) (s : State) :
    (updRegulator die index f s).power.regulators =
      upsert (fun r => r.die = die && r.index = index) f ⟨die, index, false, false, 0⟩ s.power.regulators := rfl
@[simp] theorem updSensor_sensors (die idx : Nat) (f : Sensor → Sensor) (s : State) :
    (updSensor die idx f s).thermal.sensors =
      upsert (fun x => x.die = die && x.idx = idx) f (Sensor.fresh die idx) s.thermal.sensors := rfl

end Sys2Proof.Machine
end

