-- ==== Sys2Proof/Laws/Packets.lean ====
section
/-! SUPPORT. What a row does once its gate is open: a packet that is fetched and passes its checks runs the command's own part
and no more; an event of a started block, of the floor's hardware or of the host has its effect; an operator that may start runs
its body on the state with its note. -/
namespace Sys2Proof.Machine

theorem passChecks_ok {s : State} {q : QueuePair} {p c : Packet} (h : passChecks s q p = .ok c) :
    ∃ b, c = { p with inl := padTo 96 b } := by
  unfold passChecks at h
  split at h
  · cases h
  · split at h
    · cases h
    · rename_i b _
      split at h
      · cases h
      · split at h
        · cases h
        · cases h
          exact ⟨b, rfl⟩

theorem Fetches.origin {code : Nat} {s : State} {q : QueuePair} {p c : Packet} (h : Fetches code s q p c) :
    pktOrigin c = pktOrigin p := by
  obtain ⟨b, rfl⟩ := passChecks_ok h.checks
  rfl

theorem Fetches.part {code : Nat} {s : State} {q : QueuePair} {p c : Packet} (h : Fetches code s q p c) :
    pktPart c = pktPart p := by
  obtain ⟨b, rfl⟩ := passChecks_ok h.checks
  rfl

theorem Fetches.qp {code : Nat} {s : State} {q : QueuePair} {p c : Packet} (h : Fetches code s q p c) : c.qp = p.qp := by
  obtain ⟨b, rfl⟩ := passChecks_ok h.checks
  rfl

/-- A packet row's whole effect once the packet has passed its checks and may start. -/
theorem Fetches.runs {code : Nat} {s : State} {q : QueuePair} {p c : Packet} (h : Fetches code s q p c) (body : CmdBody) :
    answer (p.wf code) (fetchPacket body p s) = .next (settle (deliver c (body q c (fetchedState p s)))) := by
  have hw : p.wf code = true := by simp [Packet.wf, h.size, h.opcode]
  have hc := h.checks
  simp only [fetchedState] at hc
  have hl : (decide (c.opcode = 0x0401) || (q.fenced.isEmpty && (!waitsFence c || q.outstanding.isEmpty))) = true := by
    rcases h.starts with hf | ⟨hf, hf' | hf'⟩ <;> simp [*]
  simp only [answer, hw, if_true, fetchPacket, h.pair, h.fetch, Bool.not_true, Bool.false_eq_true, if_false, hc, launchCommand, hl,
    fetchedState]

theorem deliver_ok (p : Packet) (r : List Byte) (s : State) : deliver p (ok r s) = finish (pktOrigin p) stOk 0 r s := rfl
theorem deliver_fail (p : Packet) (st : BitVec 16) (s : State) : deliver p (fail st s) = finish (pktOrigin p) st 0 [] s := rfl
theorem deliver_accepted (p : Packet) (s : State) : deliver p (.accepted, s) = accept (pktOrigin p) s := rfl
theorem deliver_waits (p : Packet) (s : State) : deliver p (.waits, s) = s := rfl

theorem event_started {f : State → State} {s : State} (h : started s = true) : event f s = settle (f s) := by
  simp only [event, h, if_true]

theorem floorEvent_alive {f : State → State} {s : State} (h : alive s = true) : floorEvent f s = settle (f s) := by
  simp only [floorEvent, h, if_true]

theorem hostAccess_reach {f : State → State} {s : State} (h : hostReach s = true) : hostAccess f s = settle (f s) := by
  simp only [hostAccess, h, if_true]

/-- A fabric packet's whole effect once it has passed the checks of its arrival. -/
theorem Arrives.runs {ptype : Byte} {s t : State} {p : FabPacket} (h : Arrives ptype s p t) (handle : State → State) :
    answer (p.wf ptype) (event (receive p handle) s) = received (handle t) := by
  have hw : p.wf ptype = true := by simp [FabPacket.wf, h.type]
  have hd : ¬p.dst.toNat ≠ s.fabric.devId.toNat := fun k => k h.here
  have ht := h.taken
  simp only [answer, hw, if_true, event, h.started, receive, hd, if_false, ht, received, happens]

/-- An operator row's whole effect once the operator may start. -/
theorem Starts.runs {code : Nat} {part : BitVec 4} {op : Nat} {err : ReadErrors} {e : Env} {s d t u : State}
    (h : Starts code part op err [] e s d t u) (body : Env → State → State) :
    .next (operatorEvent part op (runOp part code op err body) s) = e.ends err [] d t u (body e (e.noted [] u)) := by
  obtain ⟨r, hr, rfl⟩ := h.read
  obtain ⟨r', hr'⟩ := Option.isSome_iff_exists.mp h.step
  have hx : linesIn u (some .lost) [] = [] := rfl
  have hs := h.seen
  simp only [operatorEvent, h.started, h.tracts, Bool.and_self, if_true, runOp, h.env, Env.reading, hr, h.fetched, ← hs,
    Env.guarded, hr', h.reads, hx, List.append_nil, Env.noted, Env.ends, happens]

end Sys2Proof.Machine
end

