-- ==== Sys2Proof/Tests/Slice0.lean ====
section
/-! SUPPORT. Tests: one ill-formed term for each check of well-formedness; words of the spec's own examples; and for each
statement of Certificates/Slice0 a concrete state and operands that meet its hypotheses, clause by clause. -/
namespace Sys2Proof.Machine.Tests

/- One theorem after the other: each asks the kernel, and many at once would wait for one another. -/
set_option Elab.async false

/-! ### A started device -/

/-- An operator pair with one entry to fetch and room in its completion ring. -/
def pair0 : QueuePair :=
  { QueuePair.make 0 true none none 3 1 1 0 0 0 4 with tail := 1 }

/-- A tenant pair bound to partition 1, context 0. -/
def pair1 : QueuePair :=
  { QueuePair.make 1 false (some 1) (some 0) 3 1 1 0 0 0 4 with tail := 1 }

def part1 : Partition := Partition.make 1 0x3 false 1

/-- A READY device with every feature agreed, two pairs and partition 1 on tracts 0 and 1, both running. -/
def rdy : State :=
  { State.reset with
    pins := { State.reset.pins with vin := true, perst := false }
    start := { State.reset.start with stage := 0x40, ready := true, coldCount := 1 }
    cxl := { State.reset.cxl with up := true, trained := true }
    bar := { Bar0.fresh with agreed := 0xFF, negotiated := true }
    pairs := [pair0, pair1]
    partitions := [part1]
    repairs := []
    power := { Power.fresh with tracts := updWhere (fun t => t.num < 2) (fun t => { t with power := .running }) Power.fresh.tracts }
    thermal := { Thermal.fresh with rMeas := 40000 }
    recorder := { next := 0, records := [], inSecond := 0, dropped := 0, time := none }
    firmware := { State.reset.firmware with slotA := some [], slotB := some [] } }

/-- Parameters from fields of given widths. -/
def params (fs : List (Nat × Nat)) : List Byte := padTo 96 (fs.flatMap fun f => toLE f.1 f.2)

/-- An entry of pair 0 with its parameters inline, PARTITION 1, CONTEXT 0. -/
def pkt (code len : Nat) (fs : List (Nat × Nat)) : Packet :=
  { qp := 0, opcode := BitVec.ofNat 16 code, flags := 4, tag := 7, part := 1, ctx := 0, cfgver := 0, plen := BitVec.ofNat 32 len,
    paddr := 0, inl := params fs, hostParams := none, hostData := none, hostWriteOk := true }

/-! ### Hypotheses that name a structure, as checks -/

def fetchesCheck (code : Nat) (s : State) (p : Packet) : Option (QueuePair × Packet) :=
  match findPair s p.qp with
  | none => none
  | some q =>
    match passChecks (fetchedState p s) q p with
    | .error _ => none
    | .ok c =>
      if p.inl.length = 96 ∧ p.opcode.toNat = code ∧ canFetch s q = true ∧ q.fenced = [] ∧ (waitsFence c = false ∨ q.outstanding = [])
      then some (q, c) else none

/-- Packet `p` is fetched on `s` and passes its checks, and what stands in its pair and parameters is `h`. -/
def Meets (code : Nat) (s : State) (p : Packet) (h : QueuePair → Packet → Prop) : Prop := ∃ q c, Fetches code s q p c ∧ h q c

def meetsCheck (code : Nat) (s : State) (p : Packet) (h : QueuePair → Packet → Bool) : Bool :=
  match fetchesCheck code s p with
  | some (q, c) => h q c
  | none => false

theorem fetchesCheck_sound {code : Nat} {s : State} {p : Packet} {q : QueuePair} {c : Packet}
    (h : fetchesCheck code s p = some (q, c)) : Fetches code s q p c := by
  unfold fetchesCheck at h
  split at h
  · cases h
  · split at h
    · cases h
    · split at h
      · rename_i hq _ _ hc hx
        cases h
        exact ⟨hx.1, hx.2.1, hq, hx.2.2.1, hc, .inr ⟨hx.2.2.2.1, hx.2.2.2.2⟩⟩
      · cases h

theorem meets {code : Nat} {s : State} {p : Packet} {h : QueuePair → Packet → Prop} [d : ∀ q c, Decidable (h q c)]
    (k : meetsCheck code s p (fun q c => decide (h q c)) = true) : Meets code s p h := by
  unfold meetsCheck at k
  split at k
  · rename_i q c hc
    exact ⟨q, c, fetchesCheck_sound hc, of_decide_eq_true k⟩
  · cases k

/-! ### Words of the machine itself -/

/-- A device with a router that waits for 1 cycle. -/
def routing : State := { rdy with routers := [{ Router.fresh 0 with localGap := 1 }] }

theorem test_StepRunsTheFrontCommand :
    (State.reset.pending = [] ∧ netQuiet State.reset = true ∧ started State.reset = false) ∧
    (routing.pending = [] ∧ netQuiet routing = false ∧ started routing = true) := by decide +kernel

theorem test_EveryFormableCommandRuns : (Instr.queueCreate (pkt 0x0101 32 [])).wf = true ∧ (Instr.queueCreate (pkt 0x0102 32 [])).wf = false := by
  decide

theorem test_StepKeepsMemoryForms : (Sound State.reset ∧ Memory.wf State.reset.parity = true) ∧ ∃ t, step { State.reset with pending := [.pwrBrakeAssert] } = .next t :=
  ⟨⟨⟨by decide, by decide⟩, by decide⟩, _, rfl⟩

theorem test_QueueIsFirstInFirstOut : ∃ t, step { rdy with pending := [.pwrBrakeAssert, .cxlLinkDown] } = .next t := ⟨_, rfl⟩

theorem test_RecordNumbersNeverRepeat : RecorderSound { rdy.recorder with next := 1, records := [(0, [])] } ∧
    ∃ t, step { rdy with pending := [.negotiate] } = .next t := ⟨by simp [RecorderSound], _, rfl⟩

theorem test_FusedSvnNeverFalls : fld [] 8 4 < ({ rdy with firmware := { rdy.firmware with fusedSvn := 1 } } : State).firmware.fusedSvn ∧
    ∃ t, step { rdy with pending := [.negotiate] } = .next t := ⟨by decide, _, rfl⟩

theorem test_SettlingAQuietBlockDoesNothing : Quiet rdy := by
  refine ⟨by decide +kernel, ?_, fun _ h => (nomatch h), by decide +kernel⟩
  intro p hp
  cases List.mem_singleton.1 hp
  refine ⟨rfl, by decide +kernel, ?_, fun _ h => (nomatch h)⟩
  intro c hc
  cases List.eq_of_mem_replicate hc
  exact ⟨by decide, by decide⟩

/-- The same device before NEGOTIATE; a device whose pairs are gone. -/
def unagreed : State := { rdy with bar := Bar0.fresh }
def admq (en del : Bool) (cfg : Nat) : State :=
  { rdy with bar := { rdy.bar with admqEn := en, admqDel := del, admqCfg := BitVec.ofNat 5 cfg } }

theorem test_PowerAndPortEvents :
    (alive { rdy with start := { rdy.start with stage := 3 } } = true ∧ 3 ≤ ({ rdy with start := { rdy.start with stage := 3 } } : State).start.stage.toNat) ∧
    (alive State.reset = false) ∧
    (alive { rdy with start := { rdy.start with stage := 2 } } = true ∧ ({ rdy with start := { rdy.start with stage := 2 } } : State).start.stage.toNat < 3) ∧
    (rdy.cxl.x4 = false ∧ (rdy.cxl.badLanes ||| (1#8 <<< (3#3).toNat)) &&& 0xF0#8 = 0 ∧ (rdy.cxl.badLanes ||| (1#8 <<< (4#3).toNat)) &&& 0x0F#8 = 0) ∧
    (let b := ({ rdy with cxl := { rdy.cxl with badLanes := 0x08 } } : State).cxl.badLanes ||| (1#8 <<< (4#3).toNat);
      b &&& 0x0F#8 ≠ 0 ∧ b &&& 0xF0#8 ≠ 0) ∧
    (rdy.cxl.trained = true ∧ rdy.start.inReset = false ∧ rdy.cxl.badLanes = 0) := by decide +kernel

theorem test_NegotiationTakesEffectOnce :
    (hostReach unagreed = true ∧ unagreed.start.ready = true ∧ unagreed.start.stage = 0x40 ∧ unagreed.bar.negotiated = false) ∧
    (hostReach rdy = true ∧ rdy.start.ready = true ∧ rdy.bar.negotiated = true) := by decide +kernel

theorem test_AdminPairRules :
    (hostReach (admq false false 1) = true ∧ (admq false false 1).start.ready = true ∧ (admq false false 1).bar.admqEn = false ∧
      (admq false false 1).bar.admqDel = false ∧ admqGood (admq false false 1) = true ∧ admqGood (admq false false 16) = true) ∧
    (admqGood (admq false false 0) = false ∧ admqGood (admq false false 17) = false) ∧
    (hostReach (admq false true 1) = true ∧ (admq false true 1).bar.admqDel = true) ∧
    (hostReach (admq true false 1) = true ∧ (admq true false 1).bar.admqEn = true) ∧
    (alive (admq false true 1) = true ∧ findPair (admq false true 1) 0 = some pair0 ∧ pair0.outstanding = []) ∧
    (0x8000 ≤ (0x8000#16).toNat ∧ (0x3009#16).toNat % 4 ≠ 0) := by decide +kernel

def evSet : State := { rdy with bar := { rdy.bar with events := 1 } }

theorem test_StatusRegistersClearByOnes :
    (hostReach evSet = true ∧ ∃ k, k < 5 ∧ (1#32).getLsbD k = true ∧ evSet.bar.mask.getLsbD k = false ∧ evSet.bar.events.getLsbD k = true) ∧
    (hostReach rdy = true ∧ ∀ k, k < 5 → (1#32).getLsbD k = true → rdy.bar.mask.getLsbD k = false → rdy.bar.events.getLsbD k = false) ∧
    (evSet.bar.events.getLsbD 0 = true ∧ evSet.bar.events.getLsbD 4 = false) ∧
    (({ rdy with bar := { rdy.bar with msix := List.replicate 65 ⟨0, 0, 0⟩ } } : State).cxl.up = true ∧
      (nth (List.replicate 65 (⟨0, 0, 0⟩ : MsixEntry)) 64 MsixEntry.fresh).ctrl.getLsbD 0 = false) ∧
    (nth rdy.bar.msix 64 MsixEntry.fresh).ctrl.getLsbD 0 = true ∧
    (alive rdy = true ∧ findPair { rdy with pairs := [{ pair0 with gathered := 1 }] } 0 = some { pair0 with gathered := 1 }) ∧
    (findPair rdy 0 = some pair0 ∧ pair0.gathered = 0) := by
  refine ⟨⟨by decide +kernel, 0, by decide +kernel⟩, ?_⟩
  decide +kernel

theorem test_DoorbellRules :
    (hostReach rdy = true ∧ rdy.start.ready = true ∧ findPair rdy 0 = some pair0) ∧
    ((15#32).toNat % 65536 < pair0.depth ∧
      (pair0.tail + pair0.depth - pair0.fetch) % pair0.depth ≤ ((15#32).toNat % 65536 + pair0.depth - pair0.fetch) % pair0.depth) ∧
    pair0.depth ≤ (16#32).toNat % 65536 ∧
    ((0#32).toNat % 65536 + pair0.depth - pair0.fetch) % pair0.depth < (pair0.tail + pair0.depth - pair0.fetch) % pair0.depth ∧
    ((0#32).toNat % 65536 + pair0.depth - pair0.head) % pair0.depth ≤ (pair0.slot + pair0.depth - pair0.head) % pair0.depth ∧
    (pair0.slot + pair0.depth - pair0.head) % pair0.depth < ((1#32).toNat % 65536 + pair0.depth - pair0.head) % pair0.depth ∧
    findPair rdy 5 = none ∧ controlOpen { rdy with start := { rdy.start with ready := false } } = false := by decide +kernel

def waitingOk : Waiting := ⟨7, stOk, 0, []⟩
def waitingAcc : Waiting := ⟨7, stAccepted, 0, []⟩

theorem test_CompletionsAreWrittenInOrder :
    (findPair rdy 0 = some pair0 ∧ pair0.waiting = [] ∧ pair0.room = true ∧ rdy.cxl.up = true) ∧
    (findPair { rdy with pairs := [{ pair0 with slot := 15 }] } 0 = some { pair0 with slot := 15 } ∧ ({ pair0 with slot := 15 } : QueuePair).room = false) ∧
    (waitingAcc.status = stAccepted ∧ pair0.quietAccept = true) ∧
    (waitingOk.status ≠ stAccepted ∧ pair0.coalCount ≤ pair0.gathered + 1) ∧
    (({ pair0 with coalCount := 2, coalTime := 1 } : QueuePair).gathered + 1 < 2) ∧
    (let q : QueuePair := { pair0 with outstanding := [⟨7, 0x0402, false, false⟩] };
      alive rdy = true ∧ findPair { rdy with pairs := [q] } 0 = some q ∧ q.unaccepted 7 = true ∧ q.waiting = []) := by decide +kernel

theorem test_ChecksComeInOrder :
    (findPair rdy 0 = some pair0 ∧ canFetch rdy pair0 = true ∧
      (match passChecks (fetchedState (pkt 0 4 []) rdy) pair0 (pkt 0 4 []) with | .error e => e = ⟨0x0101, 0, []⟩ | .ok _ => False)) ∧
    findCommand 0 = none ∧
    (findCommand 0x0D10).isSome = true ∧ (pkt 0x0101 0x100000 []).plen.toNat / 2 ^ 20 ≠ 0 ∧ (pkt 0x0101 0 []).plen = 0 ∧
    (pkt 0x0101 32 []).plen.toNat < 2 ^ 20 ∧
    (unagreed.bar.agreed.getLsbD 0 = false) ∧
    (rdy.bar.agreed.getLsbD 0 = true ∧ rdy.bar.agreed.getLsbD 1 = true) ∧
    (bindingOk rdy pair0 (pkt 0x0101 32 []) = true ∧ bindingOk rdy pair1 { pkt 0x0401 8 [] with part := 2 } = false ∧
      bindingOk rdy pair0 (pkt 0x0401 8 []) = true ∧ actsOn rdy pair0 (pkt 0x0401 8 []) = true ∧ actsOn rdy pair0 (pkt 0x0101 32 []) = false) ∧
    issuerScrubbing { rdy with partitions := [{ part1 with scrubbing := true }] } (pkt 0x0401 8 []) = true ∧
    (pktExpert { pkt 0x0D10 24 [] with flags := 0xFFFF } = true ∧ pktExpert (pkt 0x0D10 24 []) = false) ∧
    (({ pkt 0x0101 32 [] with cfgver := 1 } : Packet).cfgver ≠ cfgVersion rdy ∧ (pkt 0x0101 32 []).cfgver = 0) ∧
    (pktInline (pkt 0x0101 97 []) = true ∧ 96 < (pkt 0x0101 97 []).plen.toNat ∧ (pkt 0x0401 96 []).plen.toNat ≤ 96) ∧
    ((operRole 0x0101 0 32).accepts 31 = false ∧ (operRole 0x0101 0 32).accepts 32 = true) := by
  refine ⟨⟨by decide +kernel, by decide +kernel, rfl⟩, by decide +kernel⟩

def fencePkt : Packet := { pkt 0x0402 16 [] with flags := 6 }
def fenced : QueuePair := { pair0 with outstanding := [⟨6, 0x0402, true, false⟩, ⟨7, 0x0402, false, true⟩], fenced := [fencePkt] }
def passes (s : State) (q : QueuePair) (p : Packet) : Bool :=
  match passChecks (fetchedState p s) q p with | .ok c => c.opcode = p.opcode | .error _ => false

theorem test_FenceHoldsACommandBack :
    (fetchesCheck 0x0402 rdy (pkt 0x0402 16 [])).isSome = true ∧
    waitsFence fencePkt = true ∧ waitsFence { fencePkt with opcode := 0x0401 } = false ∧
    (canFetch rdy fenced = true ∧ fenced.fenced ≠ [] ∧ passes { rdy with pairs := [fenced] } fenced (pkt 0x0402 16 []) = true ∧
      passes { rdy with pairs := [fenced] } fenced (pkt 0x0401 8 []) = true) ∧
    (findPair { rdy with pairs := [fenced] } 0 = some fenced ∧ fenced.fenced = [fencePkt] ∧
      fenced.outstanding = ⟨6, 0x0402, true, false⟩ :: [⟨7, 0x0402, false, true⟩]) ∧
    (let q : QueuePair := { fenced with outstanding := [⟨7, 0x0402, false, true⟩] };
      findPair { rdy with pairs := [q] } 0 = some q ∧ q.fenced = [fencePkt] ∧ q.outstanding = [⟨7, 0x0402, false, true⟩]) := by
  decide +kernel

def queuePkt (n : Nat) : Packet := pkt 0x0101 32 [(1, n), (1, 16), (1, 0), (1, 255), (1, 255), (1, 3), (1, 63), (1, 1), (8, 4096), (8, 8192), (2, 1000)]

theorem test_QueueCommands :
    Meets 0x0101 rdy (queuePkt 63) (fun _ c => 1 ≤ par c 0 1 ∧ par c 0 1 ≤ 63 ∧ findPair (fetchedState (queuePkt 63) rdy) (BitVec.ofNat 6 (par c 0 1)) = none ∧
      1 ≤ par c 1 1 ∧ par c 1 1 ≤ 16 ∧ par c 2 1 ≤ 1 ∧ par c 6 1 ≤ 63 ∧ par c 24 2 ≤ 1000 ∧ par c 8 8 % 4096 = 0 ∧ par c 16 8 % 4096 = 0 ∧
      (par c 3 1 ≤ 15 ∨ (par c 3 1 = 255 ∧ par c 2 1 = 0)) ∧ (par c 4 1 ≤ 7 ∨ (par c 4 1 = 255 ∧ par c 2 1 = 0)) ∧ par c 3 1 = 255) ∧
    Meets 0x0101 rdy (queuePkt 0) (fun _ c => par c 0 1 = 0) ∧ Meets 0x0101 rdy (queuePkt 64) (fun _ c => 63 < par c 0 1) ∧
    Meets 0x0102 rdy (pkt 0x0102 4 [(1, 1)]) (fun _ c => 1 ≤ par c 0 1 ∧ par c 0 1 ≤ 63 ∧ BitVec.ofNat 6 (par c 0 1) ≠ (pkt 0x0102 4 [(1, 1)]).qp ∧
      findPair (fetchedState (pkt 0x0102 4 [(1, 1)]) rdy) (BitVec.ofNat 6 (par c 0 1)) = some pair1 ∧ pair1.state ≠ .deleting) ∧
    Meets 0x0102 { rdy with pairs := [{ pair0 with qp := 5 }] } { pkt 0x0102 4 [(1, 5)] with qp := 5 } (fun _ c => 1 ≤ par c 0 1 ∧ par c 0 1 ≤ 63 ∧ BitVec.ofNat 6 (par c 0 1) = 5) ∧
    Meets 0x0103 rdy (pkt 0x0103 4 [(1, 1)]) (fun q c => par c 0 1 ≤ 63 ∧ q.operator = true ∧
      findPair (fetchedState (pkt 0x0103 4 [(1, 1)]) rdy) (BitVec.ofNat 6 (par c 0 1)) = some pair1) ∧
    Meets 0x0103 rdy (pkt 0x0103 4 [(1, 63)]) (fun q c => par c 0 1 ≤ 63 ∧ q.operator = true ∧
      findPair (fetchedState (pkt 0x0103 4 [(1, 63)]) rdy) (BitVec.ofNat 6 (par c 0 1)) = none) := by
  repeat' apply And.intro
  all_goals exact meets (by decide +kernel)

/-- A configuration set with no items: version 5, its CRC in place (R414). -/
def set5 (base : Nat) : List Byte :=
  let h := fun (crc : Nat) => toLE 4 0x5A474346 ++ toLE 2 1 ++ toLE 2 0 ++ toLE 4 5 ++ toLE 4 base ++ toLE 4 64 ++ toLE 4 crc ++ zeros 40
  h (crc32c (h 0)).toNat

def o7 : Origin := ⟨0, 7, false⟩

def configured (pending : Bool) : State :=
  { rdy with config := { inForce := some ⟨5, set5 0⟩, previous := some ⟨4, set5 0⟩, pending := pending, applying := [] } }
def applying (set : List Byte) : State := { rdy with config := { rdy.config with applying := [(o7, set)] } }

def applyPkt : Packet := { pkt 0x0202 16 [(8, 4096), (4, 64)] with hostData := some (set5 0) }

theorem test_ConfigurationCommands :
    Meets 0x0201 rdy (pkt 0x0201 16 [(4, 0)]) (fun _ c => par c 0 1 = 0 ∧ rdy.config.inForce = none) ∧
    Meets 0x0201 rdy (pkt 0x0201 16 [(4, 1)]) (fun _ c => par c 0 1 = 1 ∧ rdy.config.previous = none) ∧
    Meets 0x0201 (configured true) (pkt 0x0201 16 [(4, 0), (8, 4096), (4, 64)]) (fun q c => par c 0 1 = 0 ∧
      (configured true).config.inForce = some ⟨5, set5 0⟩ ∧ (set5 0).length ≤ par c 12 4 ∧
      (paramBuffer (fetchedState (pkt 0x0201 16 [(4, 0), (8, 4096), (4, 64)]) (configured true)) q c (par c 4 8) (par c 12 4)).toOption = some none) ∧
    Meets 0x0202 rdy applyPkt (fun q c => rdy.config.pending = false ∧
      (takeBuffer (fetchedState applyPkt rdy) q c (par c 0 8) (min (par c 8 4) 327680)).toOption = some (set5 0) ∧ fld (set5 0) 16 4 = par c 8 4 ∧
      idChangeBarred (fetchedState applyPkt rdy) (set5 0) = false) ∧
    Meets 0x0202 (configured true) (pkt 0x0202 16 []) (fun _ _ => (configured true).config.pending = true) ∧
    (started (applying (set5 0)) = true ∧ (applying (set5 0)).config.applying = (o7, set5 0) :: [] ∧ (applying (set5 0)).config.pending = false ∧
      idChangeBarred { applying (set5 0) with config := { (applying (set5 0)).config with applying := [] } } (set5 0) = false ∧
      checkSet { applying (set5 0) with config := { (applying (set5 0)).config with applying := [] } } (set5 0) = none) ∧
    (idChangeBarred { applying (set5 1) with config := { (applying (set5 1)).config with applying := [] } } (set5 1) = false ∧
      checkSet { applying (set5 1) with config := { (applying (set5 1)).config with applying := [] } } (set5 1) = some (.plain stConfig)) ∧
    Meets 0x0203 (configured false) (pkt 0x0203 4 [(4, 5)]) (fun _ _ => (configured false).config.pending = false) ∧
    Meets 0x0203 (configured true) (pkt 0x0203 4 [(4, 4)]) (fun _ c => (configured true).config.pending = true ∧ par32 c 0 ≠ cfgVersion (configured true)) ∧
    Meets 0x0203 (configured true) (pkt 0x0203 4 [(4, 5)]) (fun _ c => (configured true).config.pending = true ∧ par32 c 0 = cfgVersion (configured true)) ∧
    Meets 0x0204 rdy (pkt 0x0204 4 [(4, 0)]) (fun _ _ => rdy.config.previous = none) ∧
    Meets 0x0204 (configured true) (pkt 0x0204 4 [(4, 0)]) (fun _ _ => (configured true).config.previous ≠ none) ∧
    (started (configured true) = true ∧ (configured true).config.pending = true) := by
  repeat' apply And.intro
  all_goals first | exact meets (by decide +kernel) | decide +kernel

theorem test_RecordsAreNumberedAndLimited :
    (255 < 256 ∧ 3 < 4 ∧ (zeros 1008).length ≤ 1008 ∧ 2 ^ 48 - 1 < 2 ^ 48 ∧ 0xFFFF < 2 ^ 16) ∧
    rdy.recorder.inSecond < 2000 ∧ 2000 ≤ ({ rdy with recorder := { rdy.recorder with inSecond := 2000 } } : State).recorder.inSecond ∧
    (alive rdy = true ∧ rdy.power.corrSuspect = false ∧ rdy.recorder.dropped = 0) ∧
    ({ rdy with recorder := { rdy.recorder with dropped := 1 } } : State).recorder.dropped ≠ 0 := by decide +kernel

theorem test_RecorderWindowFills :
    hostReach rdy = true ∧ (alive rdy = true ∧ ({ rdy with bar := { rdy.bar with recBusy := true } } : State).bar.recBusy = true) ∧
    ((∀ e ∈ rdy.recorder.records, e.1 < rdy.recorder.next) ∧ rdy.recorder.next ≤ 0) ∧
    (7 ≤ 1023 ∧ 1023 < 1024) ∧ (rdy.bar.window.length ≤ 4096 ∧ rdy.bar.recCount ≤ 256) := by decide +kernel

theorem test_TimeAndReserveCommands :
    Meets 0x0B01 rdy (pkt 0x0B01 16 [(6, 2 ^ 48 - 1), (2, 0), (2, 5)]) (fun _ c => par c 0 8 < 2 ^ 48) ∧
    Meets 0x0B01 rdy (pkt 0x0B01 16 [(8, 2 ^ 48)]) (fun _ c => 2 ^ 48 ≤ par c 0 8) ∧
    (({ rdy with recorder := { rdy.recorder with time := some (1000, 3, 0) } } : State).recorder.time = some (1000, 3, 0)) ∧
    rdy.recorder.time = none ∧
    Meets 0x0B02 rdy (pkt 0x0B02 16 [(8, 4096), (4, 64)]) (fun q c => par c 0 8 % 64 = 0 ∧ 64 ≤ par c 8 4 ∧
      (paramBuffer (fetchedState (pkt 0x0B02 16 [(8, 4096), (4, 64)]) rdy) q c (par c 0 8) (par c 8 4)).toOption = some none) := by
  repeat' apply And.intro
  all_goals first | exact meets (by decide +kernel) | decide +kernel

def oneLine : List Host.Cell := [(64, 1), (127, 2)]
def deadRoot : State := { rdy with channels := [⟨0, .failed⟩] }
def lostLine1 : State := { rdy with tags := [⟨1, false, .lost⟩] }

/-- Line 1 lies on a layer that is being absorbed. -/
def absorbing : State := { rdy with layers := setAt rdy.layers 7 fun _ => 1 }

theorem test_WritesTouchOnlyTheirBytes :
    (Sound rdy ∧ deadLine rdy 1 = false ∧ (∀ x ∈ oneLine, lineOf x.1 = 1) ∧ (oneLine.Pairwise fun x y => x.1 ≠ y.1)) ∧
    (onAbsorbed rdy 1 = false ∧ onAbsorbed absorbing 1 = true ∧ Sound absorbing ∧ deadLine absorbing 1 = false) ∧
    stateOf rdy.tags 1 ≠ some .lost ∧
    (stateOf lostLine1.tags 1 = some .lost ∧ oneLine.length < 64 ∧ Sound lostLine1 ∧ deadLine lostLine1 1 = false ∧
      64 ≤ ((List.range 64).map fun i => ((64 + i, 1) : Host.Cell)).length) ∧
    deadLine deadRoot 1 = true ∧ (Memory.wf rdy.parity = true ∧ hasParity rdy (lineOf 64) = true) := by
  unfold Sound; decide +kernel

theorem test_FreedLinesReadZero : Sound lostLine1 ∧ (2 : Nat) ≠ 1 := by unfold Sound; decide +kernel

def reg9 : Region :=
  { handle := 9, kind := 0, host := true, zero := false, lfirst := 0, lcount := 16, cfirst := 0, ccount := 32768, tracts := 3, filling := none }

theorem test_RegionBytesHaveOneAddress :
    (reg9.lfirst + reg9.lcount ≤ 20 ∧ 0 < reg9.ccount ∧ reg9.cfirst + reg9.ccount ≤ 16384 * (tractsOf reg9.tracts).length) ∧
    (32768 * 98304 < reg9.size ∧ 2 ^ 37 < 2 ^ 42 ∧ reg9.offset (2 ^ 37) = some (32768 * 98304)) := by decide +kernel

def outLayer (l : Nat) : State := { rdy with layers := setAt rdy.layers l fun _ => 2 }

theorem test_StripesLieOnDistinctLayers :
    (0 < 16 ∧ 15 < 16) ∧
    (layerState (outLayer 6) 6 = 2 ∧ ∀ g, g < 23 → 6 ≤ g → layerState (outLayer 6) g = 2 → g = 6) ∧
    (layerState (outLayer 22) 22 = 2 ∧ ∀ g, g < 23 → 6 ≤ g → layerState (outLayer 22) g = 2 → g = 22) ∧ (16 ≤ 19) := by decide +kernel

def small (k l : Nat) : Region :=
  { handle := 9, kind := k, host := true, zero := false, lfirst := l, lcount := 1, cfirst := 0, ccount := 16, tracts := 3, filling := none }
def withRegion (r : Region) : State := { rdy with partitions := [{ part1 with regions := [r] }] }
def alloc (k fl l n first cols : Nat) : Packet := pkt 0x0301 16 [(1, k), (1, fl), (1, l), (1, n), (4, first), (4, cols)]

def meetsAlloc (s : State) (p : Packet) : Bool := meetsCheck 0x0301 s p fun _ c =>
  match findPart s (pktPart c) with
  | some x => decide (par c 0 1 ≤ 2 ∧ (par c 0 1 = 0 → par c 2 1 + par c 3 1 ≤ 16) ∧ (par c 0 1 ≠ 0 → 16 ≤ par c 2 1 ∧ par c 2 1 + par c 3 1 ≤ 20) ∧
      1 ≤ par c 3 1 ∧ 1 ≤ par c 8 4 ∧ par c 4 4 + par c 8 4 ≤ 16384 * (tractsOf x.tracts).length ∧
      (par c 0 1 = 2 → par c 4 4 % 16 = 0 ∧ par c 8 4 % 16 = 0 ∧ par c 1 1 / 2 % 2 = 0))
  | none => false

def bound (b : Option (BitVec 4 × U32)) (r : Region) : State :=
  { withRegion r with cxl := { rdy.cxl with decoders := [⟨true, 2 ^ 32, 2 ^ 28, b, false⟩, Decoder.fresh, Decoder.fresh, Decoder.fresh] } }

theorem test_RegionCommands :
    (meetsAlloc rdy (alloc 0 0 15 1 0 32768) = true ∧ meetsAlloc rdy (alloc 2 1 16 4 16 16) = true ∧ meetsAlloc (withRegion (small 0 15)) (alloc 0 0 15 1 15 1) = true) ∧
    (part1.regions.length < 1024 ∧ part1.regions.any (regionsMeet (small 0 15)) = false ∧ includesWithdrawn rdy (small 0 15) = false) ∧
    ([small 0 15].any (regionsMeet { small 0 15 with cfirst := 15, ccount := 1 }) = true) ∧
    Meets 0x0301 rdy (alloc 0 0 15 1 1 32768) (fun _ c => findPart rdy (pktPart c) = some part1 ∧
      16384 * (tractsOf part1.tracts).length < par c 4 4 + par c 8 4) ∧
    Meets 0x0301 rdy (alloc 1 0 15 1 0 16) (fun _ c => par c 0 1 ≠ 0 ∧ par c 2 1 < 16) ∧
    Meets 0x0301 rdy (alloc 2 2 16 1 0 16) (fun _ c => par c 0 1 = 2 ∧ par c 1 1 / 2 % 2 = 1) ∧
    (started (withRegion { small 0 15 with filling := some o7 }) = true ∧
      ((findPart (withRegion { small 0 15 with filling := some o7 }) 1).bind fun x => x.region 9) = some { small 0 15 with filling := some o7 }) ∧
    Meets 0x0302 (withRegion (small 0 15)) (pkt 0x0302 4 [(4, 9)]) (fun _ c =>
      (findPart (withRegion (small 0 15)) (pktPart c)).bind (fun x => x.region (par32 c 0)) = some (small 0 15) ∧
      regionUsed (fetchedState (pkt 0x0302 4 [(4, 9)]) (withRegion (small 0 15))) { part1 with regions := [small 0 15] } (small 0 15) = false) ∧
    Meets 0x0302 (bound (some (1, 9)) (small 0 15)) (pkt 0x0302 4 [(4, 9)]) (fun _ _ =>
      regionUsed (fetchedState (pkt 0x0302 4 [(4, 9)]) (bound (some (1, 9)) (small 0 15))) { part1 with regions := [small 0 15] } (small 0 15) = true) ∧
    Meets 0x0302 (withRegion (small 0 15)) (pkt 0x0302 4 [(4, 8)]) (fun _ c =>
      (findPart (withRegion (small 0 15)) (pktPart c)).bind (fun x => x.region (par32 c 0)) = none) ∧
    Meets 0x0303 (withRegion (small 0 15)) (pkt 0x0303 4 [(4, 9)]) (fun _ c =>
      (findPart (withRegion (small 0 15)) (pktPart c)).bind (fun x => x.region (par32 c 0)) = some (small 0 15)) ∧
    Meets 0x0303 rdy (pkt 0x0303 4 [(4, 9)]) (fun _ c => (findPart rdy (pktPart c)).isSome = true ∧
      (findPart rdy (pktPart c)).bind (fun x => x.region (par32 c 0)) = none) := by
  repeat' apply And.intro
  all_goals first | exact meets (by decide +kernel) | decide +kernel

theorem test_WindowCommands :
    Meets 0x0310 (withRegion (small 0 15)) (pkt 0x0310 8 [(1, 3), (1, 1), (2, 0), (4, 9)]) (fun _ c => par c 0 1 ≤ 3 ∧ par c 1 1 ≤ 15 ∧
      (findPart (withRegion (small 0 15)) (BitVec.ofNat 4 (par c 1 1))).bind (fun x => if x.scrubbing || x.confidential then none else x.region (par32 c 4))
        = some (small 0 15) ∧ (small 0 15).host = true ∧ (nth (withRegion (small 0 15)).cxl.decoders (par c 0 1) Decoder.fresh).bound = none) ∧
    Meets 0x0310 (bound (some (1, 9)) (small 0 15)) (pkt 0x0310 8 [(1, 0), (1, 1), (2, 0), (4, 9)]) (fun _ c =>
      (nth (bound (some (1, 9)) (small 0 15)).cxl.decoders (par c 0 1) Decoder.fresh).bound ≠ none ∧
      (findPart (bound (some (1, 9)) (small 0 15)) (BitVec.ofNat 4 (par c 1 1))).bind (fun x => x.region (par32 c 4)) = some (small 0 15)) ∧
    Meets 0x0310 rdy (pkt 0x0310 8 [(1, 4), (1, 1), (2, 0), (4, 9)]) (fun _ c => 3 < par c 0 1) ∧
    Meets 0x0310 rdy (pkt 0x0310 8 [(1, 3), (1, 16), (2, 0), (4, 9)]) (fun _ c => 15 < par c 1 1) ∧
    Meets 0x0310 rdy (pkt 0x0310 8 [(1, 3), (1, 15), (2, 0), (4, 9)]) (fun _ c => par c 0 1 ≤ 3 ∧ par c 1 1 ≤ 15 ∧
      findPart rdy (BitVec.ofNat 4 (par c 1 1)) = none) ∧
    Meets 0x0310 { rdy with partitions := [{ part1 with scrubbing := true }] } (pkt 0x0310 8 [(1, 3), (1, 1), (2, 0), (4, 9)]) (fun _ c =>
      par c 0 1 ≤ 3 ∧ par c 1 1 = 1) ∧
    Meets 0x0310 { rdy with partitions := [{ part1 with confidential := true }] } (pkt 0x0310 8 [(1, 3), (1, 1), (2, 0), (4, 9)]) (fun _ c =>
      par c 0 1 ≤ 3 ∧ par c 1 1 = 1) ∧
    Meets 0x0310 rdy (pkt 0x0310 8 [(1, 3), (1, 1), (2, 0), (4, 9)]) (fun _ c => (findPart rdy (BitVec.ofNat 4 (par c 1 1))).isSome = true ∧
      part1.scrubbing = false ∧ part1.confidential = false ∧ part1.region (par32 c 4) = none) ∧
    Meets 0x0311 rdy (pkt 0x0311 4 [(1, 4)]) (fun _ c => 3 < par c 0 1) ∧
    Meets 0x0311 rdy (pkt 0x0311 4 [(1, 3)]) (fun _ c => par c 0 1 ≤ 3) ∧ Meets 0x0312 rdy (pkt 0x0312 4 []) (fun _ _ => True) ∧
    hostReach rdy = true := by
  repeat' apply And.intro
  all_goals first | exact meets (by decide +kernel) | decide +kernel

def win : State := bound (some (1, 9)) (small 0 15)
def noErrors : ReadErrors := .none
/-- Every line of the window is lost. -/
def lostWin : State := { win with tags := ((((List.range 64).map fun i => (small 0 15).addr i).map lineOf).eraseDups).map fun l => ⟨l, false, .lost⟩ }
def winAddrs (n : Nat) : List Nat := (List.range n).map fun i => (small 0 15).addr i

theorem test_WindowAccesses :
    (hostReach win = true ∧ lineAccess (BitVec.ofNat 64 (2 ^ 32)) 64 = true ∧ decoderAt win (BitVec.ofNat 64 (2 ^ 32)).toNat = some (0, 0) ∧ win.start.oos = false) ∧
    (windowAt win 0 0 64 = .at (winAddrs 64) ∧
      (readLines 4 [] noErrors ((((winAddrs 64).map lineOf).eraseDups).filter fun l => lineState win l ≠ none) win).1 = true ∧
      ∀ l ∈ (winAddrs 64).map lineOf, lineState win l ≠ some .lost ∧ onAbsorbed win l = false ∧
        decodePattern (errorsOf noErrors l) = .clean) ∧
    (windowAt lostWin 0 0 64 = .at (winAddrs 64) ∧
      (readLines 4 [] noErrors ((((winAddrs 64).map lineOf).eraseDups).filter fun l => lineState lostWin l ≠ none)
        ((coresOf (winAddrs 64)).foldl (fun s c => cxlTravel c 1 2 s) lostWin)).1 = false) ∧
    decoderAt win 0 = none ∧
    (nth ({ bound none (small 0 15) with cxl := { (bound none (small 0 15)).cxl with
      decoders := [⟨true, 2 ^ 32, 2 ^ 28, none, true⟩] } } : State).cxl.decoders 0 Decoder.fresh).noted = true ∧
    windowAt { win with partitions := [{ part1 with regions := [small 0 15], scrubbing := true }] } 0 0 64 = .scrubbing ∧
    (windowAt (bound none (small 0 15)) 0 0 64 = .unbound ∧ (nth (bound none (small 0 15)).cxl.decoders 0 Decoder.fresh).noted = false) ∧
    windowAt win 0 0 63 = .at (winAddrs 63) ∧
    (hostReach { win with start := { win.start with oos := true } } = true ∧
      decoderAt { win with start := { win.start with oos := true } } (BitVec.ofNat 64 (2 ^ 32)).toNat = some (0, 0)) ∧
    ((nth win.cxl.decoders 0 Decoder.fresh).bound = some (1, 9) ∧
      (findPart win 1).bind (fun y => if y.scrubbing then none else y.region 9) = some (small 0 15) ∧
      (small 0 15).size - 64 + 64 ≤ (small 0 15).size ∧ (small 0 15).size < (small 0 15).size - 63 + 64) := by
  repeat' apply And.intro
  all_goals first | decide +kernel | rfl

theorem test_LayerRegisters :
    Meets 0x0B12 rdy (pkt 0x0B12 8 [(1, 22), (1, 0), (2, 0x30)]) (fun _ c => 2 ≤ par c 0 1 ∧ par c 0 1 ≤ 22 ∧ layerReg rdy (par c 0 1) (par c 2 2) = some 0) ∧
    Meets 0x0B12 rdy (pkt 0x0B12 8 [(1, 1)]) (fun _ c => par c 0 1 < 2) ∧
    Meets 0x0B12 rdy (pkt 0x0B12 8 [(1, 2), (1, 0), (2, 0x18)]) (fun _ c => layerReg rdy (par c 0 1) (par c 2 2) = none) ∧
    Meets 0x0B13 rdy (pkt 0x0B13 8 [(1, 2)]) (fun _ c => 2 ≤ par c 0 1 ∧ par c 0 1 ≤ 22 ∧ par c 2 2 = 0) ∧
    Meets 0x0B13 rdy (pkt 0x0B13 8 [(1, 22), (1, 0), (2, 0x30)]) (fun _ c => par c 0 1 ≤ 22 ∧ par c 2 2 ∈ [0x04, 0x14, 0x20, 0x24, 0x28, 0x2C, 0x30]) ∧
    Meets 0x0B13 rdy (pkt 0x0B13 8 [(1, 22), (1, 0), (2, 0x34)]) (fun _ c => layerReg rdy (par c 0 1) (par c 2 2) = none) ∧
    Meets 0x0B20 { rdy with repairs := [1, 2] } (pkt 0x0B20 24 [(4, 1), (4, 131071), (8, 4096), (4, 1048568)]) (fun q c =>
      1 ≤ par c 4 4 ∧ par c 4 4 ≤ 131071 ∧ par c 0 4 < 2 ∧ par c 8 8 % 8 = 0 ∧ 8 * par c 4 4 ≤ par c 16 4 ∧
      (paramBuffer (fetchedState (pkt 0x0B20 24 [(4, 1), (4, 131071), (8, 4096), (4, 1048568)]) { rdy with repairs := [1, 2] }) q c
        (par c 8 8) (par c 16 4)).toOption = some none) ∧
    Meets 0x0B20 rdy (pkt 0x0B20 24 [(4, 0), (4, 1)]) (fun _ c => 1 ≤ par c 4 4 ∧ par c 4 4 ≤ 131071 ∧ rdy.repairs.length ≤ par c 0 4) ∧
    Meets 0x0B20 rdy (pkt 0x0B20 24 [(4, 0), (4, 131072)]) (fun _ c => 131071 < par c 4 4) ∧
    Meets 0x0B21 rdy (pkt 0x0B21 4 [(4, 2)]) (fun _ c => 1 < par c 0 4) ∧
    Meets 0x0B21 rdy (pkt 0x0B21 4 [(4, 1)]) (fun _ c => par c 0 4 ≤ 1) := by
  repeat' apply And.intro
  all_goals first | exact meets (by decide +kernel) | decide +kernel

/-- An image of one body byte (R384). Whether its signature and digest hold is for the uninterpreted SM2 and SM3 to say. -/
def img1 : List Byte := padTo 513 (toLE 4 0x5A474657 ++ toLE 4 1 ++ toLE 4 0 ++ toLE 4 0 ++ toLE 8 1)
def quietStart : BringUp := ⟨0, [], [], [], [], false⟩
def flashed : State := { rdy with firmware := { rdy.firmware with slotA := some img1, slotB := some [] } }
def resetting : State := { flashed with start := { flashed.start with ready := false, inReset := true, stage := 1 } }

theorem test_image_verifies (h : Config.sm2Valid 0 (img1.take 64) (slice img1 64 64) = true)
    (d : Config.sm3 (img1.drop 512) = slice img1 0x20 32) : slotGood flashed false = true ∧ slotGood resetting false = true := by
  have f : imageFault flashed img1 = none := by
    have a : (fld img1 0 4 ≠ 0x5A474657 || fld img1 0x10 8 + 512 ≠ img1.length || fld img1 0x10 8 = 0 || 134217216 < fld img1 0x10 8) = false := by
      decide +kernel
    have b : fld img1 0x0C 1 = 0 := by decide +kernel
    have c : (fld img1 8 4 < flashed.firmware.fusedSvn) = False := by simp [flashed, rdy, State.reset]
    have e : flashed.firmware.revoked = 0 := rfl
    simp only [imageFault, a, b, c, d, e, h]
    decide
  constructor <;> simp only [slotGood]
  · show (imageFault flashed img1).isNone = true
    rw [f]; rfl
  · show (imageFault flashed img1).isNone = true
    rw [f]; rfl

theorem test_ColdStartLeavesABareDevice :
    quietStart.wf = true ∧ flashed.firmware.bootB = false ∧
    (0 ∉ quietStart.badLayers ∧ 1 ∉ quietStart.badLayers ∧ 23 ∉ quietStart.badLayers) ∧
    (slotGood rdy false = false ∧ slotGood rdy true = false) ∧
    (let b : BringUp := { quietStart with controllerFault := true }; b.wf = true ∧ b.controllerFault = true) ∧
    ({ flashed with firmware := { flashed.firmware with bootB := true } } : State).firmware.bootB = true ∧
    slotGood { flashed with firmware := { flashed.firmware with bootB := true } } true = false ∧
    (let b : BringUp := { quietStart with badLayers := [23] }; b.wf = true ∧ (23 : BitVec 5) ∈ b.badLayers) := by decide +kernel

theorem test_WarmResetKeepsMemoryAndPartitions :
    (alive rdy = true ∧ rdy.start.ready = true ∧ ∀ p ∈ rdy.partitions, (∀ c, c < 8 → (p.context c).step = none) ∧ ∀ c ∈ p.caches, c.group = none) ∧
    (alive resetting = true ∧ resetting.start.ready = false ∧ resetting.start.inReset = true ∧ resetting.firmware.bootB = false) ∧
    slotImage resetting resetting.firmware.bootB = some (runningImage resetting) ∧
    slotImage { resetting with firmware := { resetting.firmware with bootB := true } } true ≠ some (runningImage resetting) ∧
    (let s : State := { resetting with firmware := { resetting.firmware with slotA := none } };
      alive s = true ∧ s.start.inReset = true ∧ slotGood s false = false ∧ slotGood s true = false) ∧
    (alive rdy = true ∧ rdy.start.inReset = false) := by decide +kernel

theorem test_FunctionLevelResetKeepsTheDevice : hostReach rdy = true := by decide +kernel

def early (stage : Byte) (perst : Bool) : State :=
  { rdy with start := { rdy.start with ready := false, stage := stage }, pins := { rdy.pins with perst := perst }, cxl := State.reset.cxl }

theorem test_PortStartsAndSideband :
    (alive (early 4 true) = true ∧ (early 4 true).start.ready = false) ∧
    (alive (early 4 false) = true ∧ (early 4 false).pins.perst = false ∧ (early 4 false).cxl.trained = false ∧
      4 ≤ (early 4 false).start.stage.toNat ∧ (early 4 false).start.inReset = false ∧ (early 4 false).cxl.badLanes = 0) ∧
    (early 4 true).pins.perst = true ∧ (early 3 false).start.stage.toNat < 4 ∧
    rdy.pins.vin = true ∧ (200 ≤ 1699 ∧ 1699 < 1700) ∧ 1900 < 1901 ∧ (1700 ≤ 1900 ∧ 1900 ≤ 1900) ∧ 199 < 200 ∧
    rdy.start.stage ≠ 0 ∧ State.reset.pins.vin = false ∧ (early 0 false).start.stage = 0 := by decide +kernel

def stagePkt (n : Nat) : Packet := { pkt 0x0A20 16 [(8, 4096), (4, n)] with hostData := some img1 }
def staged (img : List Byte) (svn : Nat) : State :=
  { rdy with firmware := { rdy.firmware with staging := [(o7, img)], fusedSvn := svn } }

theorem test_FirmwareImages :
    Meets 0x0A20 rdy (stagePkt 513) (fun q c => 512 ≤ par c 8 4 ∧ par c 8 4 ≤ 134217728 ∧
      (takeBuffer (fetchedState (stagePkt 513) rdy) q c (par c 0 8) (par c 8 4)).toOption = some img1) ∧
    Meets 0x0A20 rdy (stagePkt 511) (fun _ c => par c 8 4 < 512) ∧ Meets 0x0A20 rdy (stagePkt 134217729) (fun _ c => 134217728 < par c 8 4) ∧
    (alive (staged [] 0) = true ∧ (staged [] 0).firmware.staging = (o7, []) :: [] ∧ fld [] 0 4 ≠ 0x5A474657) ∧
    (fld img1 0 4 = 0x5A474657 ∧ fld img1 0x10 8 + 512 = img1.length ∧ 1 ≤ fld img1 0x10 8 ∧ fld img1 0x10 8 ≤ 134217216) ∧
    ({ staged img1 0 with firmware := { (staged img1 0).firmware with revoked := 1 } } : State).firmware.revoked.getLsbD (fld img1 0x0C 1) = true ∧
    (fld img1 0x0C 1 ≤ 3 ∧ (staged img1 0).firmware.revoked.getLsbD (fld img1 0x0C 1) = false) ∧
    fld img1 8 4 < (staged img1 1).firmware.fusedSvn ∧ (staged img1 0).firmware.fusedSvn ≤ fld img1 8 4 ∧
    Meets 0x0A21 flashed (pkt 0x0A21 4 [(1, 0)]) (fun _ c => par c 0 1 ≤ 1 ∧ par c 0 1 = 0) ∧
    Meets 0x0A21 flashed (pkt 0x0A21 4 [(1, 1)]) (fun _ c => par c 0 1 ≤ 1 ∧ slotGood flashed (decide (par c 0 1 = 1)) = false) := by
  repeat' apply And.intro
  all_goals first | exact meets (by decide +kernel) | decide +kernel

theorem test_SecureChannelsAndMailbox :
    hostReach rdy = true ∧ (measurement rdy (0x1F#8).toNat).isSome = true ∧ (measurement rdy (5#8).toNat).isNone = true ∧ (5#8 ≠ 0 ∧ 5#8 ≠ 0xFF) ∧
    findPart rdy (BitVec.ofNat 4 15) = none ∧ rdy.config.inForce = none ∧
    ({ rdy with config := { rdy.config with inForce := some ⟨5, set5 0⟩ } } : State).config.inForce = some ⟨5, set5 0⟩ ∧ (1#8) ≠ 0 ∧
    (2 ∈ tractsOf 4 ∧ inspectable rdy 2 = true) ∧ (∀ t ∈ tractsOf 1, inspectable { rdy with partitions := [{ part1 with scrubbing := true }] } t = false) := by
  decide +kernel

def with1 (x : Partition) : State := { rdy with partitions := [x] }
/-- Partition 1 and a lone operator pair. -/
def lone (x : Partition) : State := { with1 x with pairs := [pair0] }
def create (n : Nat) (tracts : Nat) : Packet := pkt 0x0A01 16 [(1, n), (1, 1), (6, 0), (8, tracts)]

theorem test_PartitionsAreMadeAndReleased :
    Meets 0x0A01 rdy (create 15 (2 ^ 63 + 4)) (fun _ c => par c 0 1 ≤ 15 ∧ findPart rdy (BitVec.ofNat 4 (par c 0 1)) = none ∧ fld64 c.inl 8 ≠ 0 ∧
      ∀ t, t < 64 → hasTract (fld64 c.inl 8) t = true → ownerOf rdy t = none ∧ (findTract rdy t).power ≠ .offline) ∧
    Meets 0x0A01 rdy (create 16 4) (fun _ c => 15 < par c 0 1) ∧
    Meets 0x0A01 rdy (create 1 4) (fun _ c => (findPart rdy (BitVec.ofNat 4 (par c 0 1))).isSome = true) ∧
    Meets 0x0A01 rdy (create 2 0) (fun _ c => fld64 c.inl 8 = 0) ∧
    Meets 0x0A01 rdy (create 2 2) (fun _ c => hasTract (fld64 c.inl 8) 1 = true ∧ (ownerOf rdy 1).isSome = true) ∧
    Meets 0x0A02 (lone part1) (pkt 0x0A02 4 [(1, 1)]) (fun _ c => par c 0 1 ≤ 15 ∧ findPart (lone part1) (BitVec.ofNat 4 (par c 0 1)) = some part1 ∧
      part1.scrubbing = false ∧ (∀ k ∈ (fetchedState (pkt 0x0A02 4 [(1, 1)]) (lone part1)).pairs, k.part ≠ some part1.num) ∧
      ∀ g ∈ (lone part1).fabric.groups, g.part ≠ part1.num) ∧
    Meets 0x0A02 rdy (pkt 0x0A02 4 [(1, 1)]) (fun _ _ => ∃ k ∈ (fetchedState (pkt 0x0A02 4 [(1, 1)]) rdy).pairs, k.part = some part1.num) ∧
    (findPart rdy 1 = some part1 ∧ (2 : BitVec 4) ≠ 1) ∧
    Meets 0x0A03 rdy (pkt 0x0A03 4 [(1, 255)]) (fun q c => (namedPart q c (par c 0 1)).toOption = some 1 ∧ findPart rdy 1 = some part1) ∧
    Meets 0x0A03 rdy (pkt 0x0A03 4 [(1, 15)]) (fun q c => (namedPart q c (par c 0 1)).toOption = some 15 ∧ findPart rdy 15 = none) ∧
    (15 < 16 ∧ 16 ≠ 0xFF) ∧ pktPart (pkt 0x0A03 4 []) = BitVec.ofNat 4 1 ∧
    (pair1.operator = false ∧ pktPart (pkt 0x0A03 4 []) ≠ BitVec.ofNat 4 15) := by
  repeat' apply And.intro
  all_goals first | exact meets (by decide +kernel) | decide +kernel

def scrubbing1 : Partition := { part1 with scrubbing := true, keyLive := false, release := some o7 }

theorem test_ScrubLeavesNothing :
    (started (with1 scrubbing1) = true ∧ findPart (with1 scrubbing1) 1 = some scrubbing1 ∧ scrubbing1.scrubbing = true ∧
      ∀ p ∈ (with1 scrubbing1).partitions, p.num ≠ 1 → p.stranded = false) ∧
    (hasTract scrubbing1.tracts (tractOfCore (lineCore 0)) = true ∧ hasTract scrubbing1.tracts 63 = false) ∧
    (({ with1 scrubbing1 with groves := [Grove.fresh 0, Grove.fresh 4095] } : State).groves.map fun g => hasTract scrubbing1.tracts (tractOfCore (256 * g.num)))
      = [true, false] ∧
    (started rdy = true ∧ findPart rdy 1 = some part1 ∧ part1.scrubbing = false) ∧ findPart rdy 15 = none := by decide +kernel

def sweeping1 : Partition := { part1 with sweeping := true, gen := true, rotations := 1 }
def swept (n : Nat) : State :=
  { with1 sweeping1 with tags := (List.range n).map fun i => ⟨i, false, .valid⟩ }

/-- Three symbols of different lanes changed in lines 0 and 1, and a line of their stripes that cannot be read either. -/
def spoiled : ReadErrors := ⟨[(0, 8, 1), (0, 9, 2), (0, 10, 3), (1, 8, 1), (1, 9, 2), (1, 10, 3)], [2 ^ 31, 2 ^ 31 + 1], []⟩
def sweptLost (n : Nat) : State := { swept n with tags := (List.range n).map fun i => ⟨i, false, .lost⟩ }

theorem test_KeysRotateAndSweep :
    Meets 0x0A10 rdy (pkt 0x0A10 4 [(1, 255)]) (fun q c => (namedPart q c (par c 0 1)).toOption = some 1 ∧ findPart rdy 1 = some part1 ∧
      part1.scrubbing = false ∧ part1.sweeping = false) ∧
    Meets 0x0A10 (swept 1) (pkt 0x0A10 4 [(1, 1)]) (fun q c => (namedPart q c (par c 0 1)).toOption = some 1 ∧
      findPart (swept 1) 1 = some sweeping1 ∧ sweeping1.scrubbing = false ∧ sweeping1.sweeping = true) ∧
    Meets 0x0A10 (with1 scrubbing1) (pkt 0x0A10 4 [(1, 1)]) (fun q c => (namedPart q c (par c 0 1)).toOption = some 1 ∧
      findPart (with1 scrubbing1) 1 = some scrubbing1 ∧ scrubbing1.scrubbing = true) ∧
    (started (swept 0) = true ∧ findPart (swept 0) 1 = some sweeping1 ∧ oldLines (swept 0) sweeping1 = []) ∧
    (started (swept 2) = true ∧ Sound (swept 2) ∧ findPart (swept 2) 1 = some sweeping1 ∧ oldLines (swept 2) sweeping1 ≠ [] ∧
      ∀ t ∈ oldLines (swept 2) sweeping1, lineState (swept 2) t.line = some .valid ∧ onAbsorbed (swept 2) t.line = false ∧
        decodePattern (errorsOf .none t.line) = .clean) ∧
    (∀ t ∈ oldLines (sweptLost 2) sweeping1, lineState (sweptLost 2) t.line ≠ some .valid) ∧
    (∀ t ∈ oldLines (swept 2) sweeping1, decodePattern (errorsOf spoiled t.line) = .uncorrectable ∧ misread (errorsOf spoiled t.line) = none ∧
      canForm (swept 2) spoiled.badStripe t.line = false) ∧
    (started rdy = true ∧ part1.sweeping = false) ∧
    Meets 0x0A11 (swept 2) (pkt 0x0A11 4 [(1, 1)]) (fun q c => (namedPart q c (par c 0 1)).toOption = some 1 ∧ findPart (swept 2) 1 = some sweeping1 ∧
      sweeping1.sweeping = true) ∧
    Meets 0x0A11 rdy (pkt 0x0A11 4 [(1, 1)]) (fun q c => (namedPart q c (par c 0 1)).toOption = some 1 ∧ findPart rdy 1 = some part1 ∧ part1.sweeping = false) ∧
    Meets 0x0A11 rdy (pkt 0x0A11 4 [(1, 0)]) (fun q c => (namedPart q c (par c 0 1)).toOption = some 0 ∧ findPart rdy 0 = none) ∧
    Meets 0x0A04 win (pkt 0x0A04 4 [(1, 1), (1, 1)]) (fun q c => par c 1 1 = 1 ∧ (namedPart q c (par c 0 1)).toOption = some 1 ∧
      (findPart win 1).any (fun x => !x.scrubbing) = true ∧ (∃ d ∈ win.cxl.decoders, d.bound = some (1, 9))) ∧
    Meets 0x0A04 rdy (pkt 0x0A04 4 [(1, 1), (1, 1)]) (fun q c => par c 1 1 = 1 ∧ (namedPart q c (par c 0 1)).toOption = some 1 ∧
      findPart rdy 1 = some part1 ∧ part1.scrubbing = false ∧ (∀ d ∈ rdy.cxl.decoders, d.bound = none) ∧ part1.confidential = false) ∧
    Meets 0x0A04 (with1 { part1 with confidential := true }) (pkt 0x0A04 4 [(1, 1), (1, 1)]) (fun q c => par c 1 1 = 1 ∧
      (namedPart q c (par c 0 1)).toOption = some 1) ∧
    Meets 0x0A04 rdy (pkt 0x0A04 4 [(1, 1), (1, 0)]) (fun _ c => par c 1 1 ≠ 1) ∧
    (started rdy = true ∧ ({ rdy with power := { rdy.power with secCount := 1 } } : State).power.secCount ≠ 0) := by
  repeat' apply And.intro
  all_goals first | exact meets (by decide +kernel) | decide +kernel

/-! ### A plan: SCALE_PASS of one binary32 element at device address 0 (R147 to R153) -/

def scaleOp : List Byte := padTo 64 (toLE 2 0x0001 ++ zeros 6 ++ toLE 2 0 ++ toLE 2 0xFFFF)
def oneElement : List Byte :=
  padTo 64 (toLE 1 0x12 ++ zeros 3 ++ toLE 4 0x3F800000 ++ toLE 4 1 ++ zeros 0x1C ++ (List.replicate 4 (toLE 4 1)).flatten
    ++ toLE 1 1 ++ toLE 1 0 ++ toLE 2 1 ++ toLE 4 1)
def image (batchMax : Nat) : List Byte :=
  let h := fun (crc : Nat) => toLE 4 0x5A47504C ++ toLE 2 1 ++ toLE 2 (if batchMax = 0 then 0 else 1) ++ toLE 4 208 ++ toLE 2 1 ++ toLE 2 1 ++ toLE 2 0
    ++ toLE 2 1 ++ zeros 8 ++ toLE 2 batchMax ++ zeros 2 ++ toLE 4 64 ++ toLE 4 128 ++ zeros 4 ++ toLE 4 192 ++ zeros 12 ++ toLE 4 crc
    ++ scaleOp ++ oneElement ++ toLE 8 1 ++ toLE 8 1
  h (crc32c (h 0)).toNat

def plan3 (batchMax wait : Nat) : Plan := { parsePlan (image batchMax) 0 3 with wait := wait }
def partP (r : Plan) : Partition := { part1 with regions := [small 0 0], plans := [r] }
def planned (r : Plan) : State := with1 (partP r)
def submit (fence : Bool) : Packet := { pkt 0x0401 8 [(4, 3)] with flags := if fence then 6 else 4 }
/-- Pair 0 with an earlier command still outstanding. -/
def busyPair (s : State) : State := { s with pairs := [{ pair0 with outstanding := [⟨6, 0x0402, true, false⟩] }] }

def held (tag : Nat) (order : Nat) (fence : Bool) : Held := ⟨⟨0, BitVec.ofNat 32 tag, false⟩, 3, 0, [], order, fence⟩
def withCtx (r : Plan) (f : Context → Context) : State := with1 { partP r with contexts := setAt part1.contexts 0 f }

def foundPlan (s : State) (c : Packet) : Option Plan := (findPart s (pktPart c)).bind fun x => x.plan (par32 c 0)
def isPlan (s : State) (c : Packet) (batched : Bool) (wait : Nat) : Bool :=
  match findPart s (pktPart c), foundPlan s c with
  | some x, some r => r.unloading.isNone && r.batched = batched && r.wait = wait && !unloadFetched s x r.handle
  | _, _ => false
/-- The plan is loaded, and a PLAN_UNLOAD of it waits behind a FENCE in pair 1. -/
def unloadWaits : State :=
  { planned (plan3 4 150) with pairs := [pair0, { pair1 with fenced := [{ pkt 0x0403 4 [(4, 3)] with qp := 1 }] }] }

theorem test_StepsAreHeldForTheirBatch :
    Meets 0x0401 (busyPair (planned (plan3 4 150))) (submit true) (fun q c => isPlan (busyPair (planned (plan3 4 150))) c true 150 = true ∧
      pktFence c = true ∧ q.outstanding ≠ []) ∧
    Meets 0x0401 (planned (plan3 4 150)) (submit true) (fun q c => isPlan (planned (plan3 4 150)) c true 150 = true ∧ q.outstanding = []) ∧
    Meets 0x0401 (planned (plan3 4 0)) (submit false) (fun _ c => isPlan (planned (plan3 4 0)) c true 0 = true ∧ pktFence c = false) ∧
    Meets 0x0401 (planned (plan3 0 150)) (submit false) (fun _ c => isPlan (planned (plan3 0 150)) c false 150 = true ∧ pktFence c = false) ∧
    Meets 0x0401 rdy (submit false) (fun _ c => (foundPlan rdy c).isNone = true) ∧
    Meets 0x0401 unloadWaits (submit false) (fun _ c => (findPart unloadWaits (pktPart c)).any (fun x => unloadFetched (fetchedState (submit false) unloadWaits) x 3) = true
      ∧ (foundPlan unloadWaits c).any (fun r => r.unloading.isNone) = true) ∧
    Meets 0x0401 (planned { plan3 4 150 with unloading := some o7 }) (submit false) (fun _ c =>
      ((foundPlan (planned { plan3 4 150 with unloading := some o7 }) c).bind fun r => r.unloading) = some o7) ∧
    (∀ b ∈ ([] : List BatchSet), b.plan = (held 7 1 false).plan → b.due ≠ none) ∧
    (∀ b ∈ [(⟨3, [held 6 0 false], some false⟩ : BatchSet)], b.plan = (held 7 1 false).plan → b.due ≠ none) ∧
    (let b : BatchSet := ⟨3, [held 6 0 false], none⟩;
      b.plan = (held 7 1 false).plan ∧ b.due = none ∧ (∀ k ∈ b.steps, k.order ≤ (held 7 1 false).order) ∧
        b.steps.Pairwise (fun x y => x.order ≤ y.order)) ∧
    started rdy = true ∧
    Meets 0x0405 (planned (plan3 4 150)) (pkt 0x0405 8 [(4, 3), (2, 4), (2, 10000)]) (fun _ c => isPlan (planned (plan3 4 150)) c true 150 = true ∧
      1 ≤ par c 4 2 ∧ par c 4 2 ≤ (plan3 4 150).batchMax ∧ par c 6 2 ≤ 10000) ∧
    Meets 0x0405 (planned (plan3 4 150)) (pkt 0x0405 8 [(4, 3), (2, 5), (2, 10001)]) (fun _ c => isPlan (planned (plan3 4 150)) c true 150 = true ∧
      (plan3 4 150).batchMax < par c 4 2 ∧ 10000 < par c 6 2) ∧
    ([held 7 1 false] ≠ [] ∧ ∀ h ∈ [held 7 1 false], h.cfgver = 0 ∨ h.cfgver = cfgVersion rdy) ∧
    (({ held 7 1 false with cfgver := 9 } : Held).cfgver ≠ 0 ∧ ({ held 7 1 false with cfgver := 9 } : Held).cfgver ≠ cfgVersion rdy) ∧
    Meets 0x0404 rdy (pkt 0x0404 8 [(4, 5)]) (fun _ _ => (allSteps rdy).length = 0) ∧
    Meets 0x0404 (withCtx (plan3 4 150) fun c => { c with sets := [⟨3, [held 5 0 false], none⟩] }) (pkt 0x0404 8 [(4, 5)]) (fun _ c =>
      ((allSteps (withCtx (plan3 4 150) fun c => { c with sets := [⟨3, [held 5 0 false], none⟩] })).map fun f => (f.held.origin, f.released))
        = [(⟨0, par32 c 0, false⟩, false)]) ∧
    Meets 0x0404 (withCtx (plan3 4 150) fun c => { c with released := [⟨3, [held 5 0 false], false, 0, 16⟩] }) (pkt 0x0404 8 [(4, 5)]) (fun _ c =>
      ((allSteps (withCtx (plan3 4 150) fun c => { c with released := [⟨3, [held 5 0 false], false, 0, 16⟩] })).map fun f => (f.held.origin, f.released))
        = [(⟨0, par32 c 0, false⟩, true)]) := by
  repeat' apply And.intro
  all_goals first | exact meets (by decide +kernel) | decide +kernel

def fencedStep : State :=
  { withCtx (plan3 4 150) (fun c => { c with ineligible := [held 5 0 true] }) with pairs := [{ pair0 with outstanding := [⟨5, 0x0401, true, false⟩] }] }

theorem test_a_fenced_step_is_the_oldest :
    ((allSteps fencedStep).find? (fun f => f.held.is ⟨0, 5, false⟩ && f.held.fence && !f.released)).isSome = true ∧
    (findPair fencedStep 0).bind (fun q => q.outstanding.head?.map (·.tag)) = some 5 ∧ started fencedStep = true ∧
    (let s : State := { fencedStep with pairs := [{ pair0 with outstanding := [⟨6, 0x0402, true, false⟩, ⟨5, 0x0401, true, false⟩] }] };
      ((allSteps s).find? (fun f => f.held.is ⟨0, 5, false⟩ && f.held.fence && !f.released)).isSome = true ∧ started s = true ∧
      (findPair s 0).bind (fun q => q.outstanding.head?.map (·.tag)) = some 6) := by decide +kernel

def run1 (r : Plan) : RunningStep := RunningStep.start (partP r) 0 ⟨3, [held 5 0 false], false, 0, 16⟩
def released1 : State := withCtx (plan3 4 150) fun c => { c with released := [⟨3, [held 5 0 false], false, 0, 16⟩] }
def running1 (f : RunningStep → RunningStep) : State := withCtx (plan3 4 150) fun c => { c with step := some (f (run1 (plan3 4 150))) }
/-- Context 0 runs a step, context 1 waits with a released batch. -/
def twoContexts (step : Bool) (expired : Bool) : Partition :=
  { partP (plan3 4 150) with
    contexts := setAt (setAt part1.contexts 0 fun c => { c with step := if step then some (run1 (plan3 4 150)) else none }) 1
      fun c => { c with released := [⟨3, [held 6 1 false], false, 0, 16⟩] }
    expired := expired }

theorem test_StepsRunOneAtATime :
    (started released1 = true ∧ running released1 = true ∧ (findPart released1 1).any (fun p => !p.scrubbing && p.switching.isNone && !p.stranded && !p.regenerating &&
      !p.expired && (p.context p.current.toNat).step.isNone && (p.context p.current.toNat).released.length = 1) = true) ∧
    (started (running1 id) = true ∧ (findPart (running1 id) 1).any (fun p => (p.context p.current.toNat).step.any fun r => p.switching.isNone && r.lost.isNone && !r.noResource
      && decide (r.done.length < ((p.plan r.batch.plan).getD Plan.none).ops.length)) = true) ∧
    (findPart (running1 fun r => { r with done := [0] }) 1).bind (fun p => (p.context p.current.toNat).step.map fun r =>
      (p.switching, p.regenerating, decide (((p.plan r.batch.plan).getD Plan.none).ops.length ≤ r.done.length))) = some (none, false, true) ∧
    (0 < part1.contexts.length) ∧
    (findPart rdy 1 = some part1 ∧ nextContext part1 = none) ∧
    (nextContext (twoContexts true true) = some 1 ∧ nextContext (twoContexts false false) = some 1) ∧
    ((twoContexts false false).switching = none ∧ ((twoContexts false false).context 0).step = none ∧ ((twoContexts false false).context 0).released = [] ∧
      drooping (with1 (twoContexts false false)) (twoContexts false false) = false) ∧
    ((twoContexts true true).expired = true ∧ ((twoContexts true true).context 0).step.isSome = true ∧ (twoContexts true true).switching = none ∧
      drooping (with1 (twoContexts true true)) (twoContexts true true) = false) ∧
    (findPart (with1 { part1 with switching := some 7 }) 1 = some { part1 with switching := some 7 }) ∧
    Meets 0x0406 rdy (pkt 0x0406 24 [(1, 7), (1, 1), (2, 0), (4, 1000), (8, 0), (8, 0)]) (fun _ c => findPart rdy (pktPart c) = some part1 ∧
      par c 0 1 ≤ 7 ∧ 1 ≤ par c 1 1 ∧ 1000 ≤ par c 4 4 ∧ par c 4 4 ≤ 1000000 ∧ par c 16 8 = 0) ∧
    Meets 0x0406 rdy (pkt 0x0406 24 [(1, 8), (1, 1), (2, 0), (4, 1000)]) (fun _ c => 7 < par c 0 1) ∧
    Meets 0x0406 rdy (pkt 0x0406 24 [(1, 7), (1, 0), (2, 0), (4, 1000)]) (fun _ c => par c 1 1 = 0) ∧
    Meets 0x0406 rdy (pkt 0x0406 24 [(1, 7), (1, 1), (2, 0), (4, 999)]) (fun _ c => par c 4 4 < 1000) ∧
    Meets 0x0406 rdy (pkt 0x0406 24 [(1, 7), (1, 1), (2, 0), (4, 1000001)]) (fun _ c => 1000000 < par c 4 4) := by
  repeat' apply And.intro
  all_goals first | exact meets (by decide +kernel) | decide +kernel

/-- A save area of 150 MiB for each of two tracts (R172). -/
def saveRegion : Region :=
  { handle := 9, kind := 0, host := false, zero := false, lfirst := 0, lcount := 1, cfirst := 0, ccount := 32768, tracts := 3, filling := none }

theorem test_a_save_area_fits :
    Meets 0x0406 (withRegion saveRegion) (pkt 0x0406 24 [(1, 0), (1, 255), (2, 0), (4, 1000000), (8, 64), (8, 314572800)]) (fun _ c =>
      par c 8 8 % 64 = 0 ∧ par c 8 8 < 2 ^ 42 ∧ validAddr (par c 8 8) = true ∧ 150 * 2 ^ 20 * (tractsOf 3).length ≤ par c 16 8 ∧
      saveRegion.kind = 0 ∧ saveRegion.offset (par c 8 8) = some 64 ∧ 64 + par c 16 8 ≤ saveRegion.size) := by
  exact meets (by decide +kernel)

def saving : Partition :=
  { part1 with
    regions := [small 0 15]
    contexts := setAt part1.contexts 0 fun c => { c with save := (small 0 15).addr 0, saveSize := 64, saved := [Grove.fresh 0] } }

/-- Within a save area and outside it; a context that was switched out within its step, and one that was not. -/
theorem test_a_switch_saves_and_restores :
    absorbedLayer (with1 saving) = none ∧
    ((regionAt (with1 saving) (saving.context 0).save).any fun x => (x.2.offset (saving.context 0).save).any fun o =>
      (List.range 64).all fun i => x.2.addr (o + i) ≠ (small 0 15).addr 64) = true ∧
    (saving.context 0).saved ≠ [] ∧ (part1.context 0).saved = [] := by decide +kernel

def loadPkt (src n : Nat) : Packet := { pkt 0x0402 16 [(8, src), (4, n)] with hostData := some (image 4) }
def loading (img : List Byte) : State :=
  { with1 { part1 with regions := [small 0 0] } with loading := [⟨o7, 1, 0, false, img⟩] }

set_option maxRecDepth 20000 in
theorem test_PlansAreLoadedAndUnloaded :
    Meets 0x0402 rdy (loadPkt 4096 208) (fun q c => par c 0 8 % 64 = 0 ∧ par c 8 4 ≤ 16777216 ∧
      (takeBuffer (fetchedState (loadPkt 4096 208) rdy) q c (par c 0 8) (par c 8 4)).toOption = some (image 4) ∧ fld (image 4) 8 4 = par c 8 4) ∧
    Meets 0x0402 rdy (loadPkt 4097 208) (fun _ c => par c 0 8 % 64 ≠ 0) ∧
    Meets 0x0402 rdy (loadPkt 4096 16777217) (fun _ c => par c 0 8 % 64 = 0 ∧ 16777216 < par c 8 4) ∧
    (started (loading (image 4)) = true ∧ ((loading (image 4)).loading.find? (fun l => l.origin = ⟨0, 7, false⟩)).isSome = true ∧
      validate ⟨{ part1 with regions := [small 0 0] }, false, parsePlan (image 4) 0 3, []⟩ 0 = none ∧
      validate ⟨part1, false, parsePlan (image 4) 0 3, []⟩ 0 = some ⟨5, 2, 0⟩) ∧
    ([] : List U32).length < 2 ^ 32 - 1 ∧
    Meets 0x0403 (planned (plan3 4 150)) (pkt 0x0403 4 [(4, 3)]) (fun _ c => isPlan (planned (plan3 4 150)) c true 150 = true ∧ part1.caches.length = 0) ∧
    Meets 0x0403 rdy (pkt 0x0403 4 [(4, 3)]) (fun _ c => (foundPlan rdy c).isNone = true) ∧
    Meets 0x0402 rdy { loadPkt 4096 209 with hostData := some (image 4 ++ [0]) } (fun q c => par c 0 8 % 64 = 0 ∧
      (takeBuffer (fetchedState { loadPkt 4096 209 with hostData := some (image 4 ++ [0]) } rdy) q c (par c 0 8) (par c 8 4)).toOption
        = some (image 4 ++ [0]) ∧ fld (image 4 ++ [0]) 8 4 ≠ par c 8 4) ∧
    (let r : Plan := { plan3 4 150 with unloading := some o7 };
      (planned r).partitions = [partP r] ∧ (partP r).plans = [r] ∧ r.unloading = some o7 ∧ planBusy (partP r) r.handle = false) ∧
    (planBusy (partP (plan3 4 150)) 3 = false ∧
      planBusy { partP (plan3 4 150) with contexts := setAt part1.contexts 0 fun c => { c with sets := [⟨3, [held 5 0 false], none⟩] } } 3 = true) := by
  repeat' apply And.intro
  all_goals first | exact meets (by decide +kernel) | decide +kernel

/-- A BF16 cache of one layer and one head over pool region 9, spilling into region 10. -/
def cache0 : Cache :=
  { handle := 11, layout := 0, bf16 := true, pageLog2 := 10, spill := true, nlayer := 1, hl := 1, d := 32, ctx := 0, maxseq := 2
    pool := 9, spillreg := some 10, stagingReg := none, group := none, chunkPages := 0, recomp := none, rtokidx := 0, rchunk := 0
    seqs := [⟨0, 0, 0, 0⟩], layers := [], migrations := [] }
def page0 (moving : Bool) : LayerRec :=
  { seq := 0, layer := 0, length := 1, kmax := 0, vmax := 0, pages := [⟨false, 0, if moving then some (true, 0) else none, false⟩], staging := [] }
def partK (k : Option Cache) : Partition :=
  { part1 with regions := [small 2 16, { small 0 15 with handle := 10, host := false }], caches := k.toList }
def cached (k : Option Cache) : State := { with1 (partK k) with unitsPassed := true }
def cacheRunning : State :=
  { with1 { partK (some cache0) with contexts := setAt part1.contexts 0 fun c => { c with step := some (run1 (plan3 4 150)) } } with unitsPassed := true }

/-- Sixteen caches are open. -/
def sixteen : State :=
  { with1 { partK none with caches := (List.range 16).map fun i => { cache0 with handle := BitVec.ofNat 32 (20 + i), pool := BitVec.ofNat 32 (40 + i), spillreg := none } } with unitsPassed := true }
/-- A sequence with an array of 16 tokens. -/
def tokened : State := cached (some { cache0 with seqs := [⟨0, 15 * 2 ^ 37, 64, 4⟩] })

def openPkt (layout : Nat) : Packet :=
  pkt 0x0501 48 [(1, layout), (1, 0x11), (1, 10), (1, 1), (2, 1), (2, 1), (2, 32), (2, 0), (4, 2), (4, 9), (4, 10), (4, 0xFFFFFFFF), (4, 0xFFFFFFFF),
    (4, 0), (4, 0xFFFFFFFF), (2, 0), (2, 0), (4, 0)]
def seqPkt (seq op len ta ts : Nat) : Packet := pkt 0x0503 40 [(4, 11), (4, seq), (1, op), (7, 0), (8, len), (8, ta), (8, ts)]
def queryPkt (layer count : Nat) : Packet := pkt 0x0504 32 [(4, 11), (4, 0), (2, layer), (2, 0), (4, count)]

def queryDest (count : Nat) : Packet := pkt 0x0504 32 [(4, 11), (4, 0), (2, 0), (2, 0), (4, count), (8, 4096), (4, 8 * count)]

/-- The cache that a packet names on a state, and what stands of it. -/
def names (s : State) (c : Packet) (h : Partition → Cache → Bool) : Bool :=
  match (findPart s (pktPart c)).bind fun x => (x.cache (par32 c 0)).map fun k => (x, k) with
  | some (x, k) => h x k
  | none => false

theorem test_CachesOpenAndCloseSequences :
    Meets 0x0501 (cached none) (openPkt 3) (fun _ c =>
      checkCacheOpen (fetchedState (openPkt 3) (cached none)) (partK none) c (cacheOf c 0) = some stBadLength) ∧
    Meets 0x0501 (cached none) (openPkt 0) (fun _ c => findPart (cached none) (pktPart c) = some (partK none) ∧
      checkCacheOpen (fetchedState (openPkt 0) (cached none)) (partK none) c (cacheOf c 0) = none ∧ (partK none).caches.length < 16 ∧
      poolPages (cached none) (partK none) (cacheOf c 0) ≠ 0 ∧ entriesUsed (cached none) < 134217728) ∧
    (16 ≤ (List.replicate 16 cache0).length ∧ poolPages (cached none) (partK none) { cache0 with pool := 8 } = 0) ∧
    Meets 0x0501 sixteen (openPkt 0) (fun _ c => (findPart sixteen (pktPart c)).any (fun x => (checkCacheOpen (fetchedState (openPkt 0) sixteen) x c (cacheOf c 0)).isNone
      && decide (16 ≤ x.caches.length)) = true) ∧
    Meets 0x0502 (cached (some cache0)) (pkt 0x0502 4 [(4, 11)]) (fun _ c => names (cached (some cache0)) c (fun x k =>
      !planNames x k.handle && !(x.context k.ctx.toNat).working && k.migrations.isEmpty) = true) ∧
    Meets 0x0502 cacheRunning (pkt 0x0502 4 [(4, 11)]) (fun _ c => names cacheRunning c (fun x k => (x.context k.ctx.toNat).working) = true) ∧
    Meets 0x0503 cacheRunning (seqPkt 0 1 0 0 0) (fun _ c => names cacheRunning c (fun x k => (x.context k.ctx.toNat).step.isSome) = true) ∧
    Meets 0x0503 (cached (some cache0)) (seqPkt 1 0 0 0 0) (fun _ c => par c 8 1 = 0 ∧ names (cached (some cache0)) c (fun x k =>
      (x.context k.ctx.toNat).step.isNone && decide (par c 4 4 < k.maxseq) && !k.isOpen (par c 4 4) && (checkTokens x (par c 24 8) (par c 32 8)).isNone) = true) ∧
    Meets 0x0503 (cached (some cache0)) (seqPkt 0 1 5 0 0) (fun _ c => par c 8 1 = 1 ∧ names (cached (some cache0)) c (fun _ k =>
      decide (par c 4 4 < k.maxseq) && k.isOpen (par c 4 4)) = true) ∧
    Meets 0x0503 (cached (some cache0)) (seqPkt 0 2 0 0 0) (fun _ c => par c 8 1 = 2 ∧ names (cached (some cache0)) c (fun _ k => k.isOpen (par c 4 4)) = true) ∧
    Meets 0x0503 (cached (some cache0)) (seqPkt 0 3 16 (15 * 2 ^ 37) 64) (fun _ c => par c 8 1 = 3 ∧ par c 24 8 ≠ 0 ∧ par c 16 8 ≤ par c 32 8 / 4 ∧
      names (cached (some cache0)) c (fun x k => k.isOpen (par c 4 4) && (checkTokens x (par c 24 8) (par c 32 8)).isNone) = true) ∧
    Meets 0x0503 tokened (seqPkt 0 3 16 0 0) (fun _ c => par c 8 1 = 3 ∧ par c 24 8 = 0 ∧ names tokened c (fun _ k =>
      (k.seqs.find? fun r => r.seq = par c 4 4).any fun o => par c 16 8 ≤ o.tokSize / 4) = true) ∧
    Meets 0x0503 (cached (some cache0)) (seqPkt 1 3 0 0 0) (fun _ c => 1 ≤ par c 8 1 ∧ par c 8 1 ≤ 3 ∧
      names (cached (some cache0)) c (fun _ k => decide (par c 4 4 < k.maxseq) && !k.isOpen (par c 4 4)) = true) ∧
    ((findPart (truncateLayer 1 11 0 0 0 false (cached (some { cache0 with layers := [page0 false] }))) 1).any (fun y => (y.cache 11).isSome) = true) ∧
    ((findPart (releaseSeq 1 11 0 (cached (some { cache0 with layers := [page0 false] }))) 1).any (fun y => (y.cache 11).isSome) = true) ∧
    Meets 0x0504 (cached (some cache0)) (queryPkt 0xFFFF 0) (fun _ c => par c 8 2 = 0xFFFF ∧ par c 12 4 ≤ 2 ^ 24 ∧
      names (cached (some cache0)) c (fun _ k => decide (par c 4 4 < k.maxseq) && (k.seqs.find? fun r => r.seq = par c 4 4).isSome) = true) ∧
    Meets 0x0504 (cached (some { cache0 with seqs := [] })) (queryPkt 0xFFFF 0) (fun _ c => par c 8 2 = 0xFFFF ∧
      names (cached (some { cache0 with seqs := [] })) c (fun _ k => decide (par c 4 4 < k.maxseq) && (k.seqs.find? fun r => r.seq = par c 4 4).isNone) = true) ∧
    Meets 0x0504 (cached (some cache0)) (queryDest 2) (fun q c => par c 8 2 = 0 ∧ par c 12 4 = 2 ∧ par c 16 8 % 8 = 0 ∧ 8 * par c 12 4 ≤ par c 24 4 ∧
      (paramBuffer (fetchedState (queryDest 2) (cached (some cache0))) q c (par c 16 8) (par c 24 4)).toOption = some none ∧
      names (cached (some cache0)) c (fun _ k => decide (par c 8 2 < k.nlayer)) = true) ∧
    Meets 0x0504 (cached (some cache0)) (queryPkt 0 0) (fun _ c => par c 12 4 = 0 ∧ par c 8 2 ≠ 0xFFFF ∧
      names (cached (some cache0)) c (fun _ k => decide (par c 8 2 < k.nlayer)) = true) ∧
    Meets 0x0506 (cached (some cache0)) (pkt 0x0506 4 [(4, 11)]) (fun _ c => names (cached (some cache0)) c (fun _ _ => true) = true) := by
  repeat' apply And.intro
  all_goals first | exact meets (by decide +kernel) | decide +kernel

def migratePkt (seq : Nat) : Packet := pkt 0x0505 24 [(4, 11), (4, seq), (2, 0), (2, 1), (1, 1), (3, 0), (4, 0), (4, 1)]
def migrating (moving : Bool) : Cache := { cache0 with layers := [page0 moving], migrations := [(o7, 0, 0, 1, 0)] }
def migrateGood (s : State) (c : Packet) (room : Bool) : Bool := names s c fun x k =>
  let ms := moveList k (par c 4 4) (par c 8 2) (par c 10 2) (par c 16 4) (par c 20 4) (decide (par c 12 1 = 1))
  k.isOpen (par c 4 4) && decide (1 ≤ par c 10 2) && decide (par c 8 2 + par c 10 2 ≤ k.nlayer) && decide (par c 12 1 ≤ 1) && k.spillreg.isSome
    && par c 20 4 ≠ 0 && ms.length = 1 && decide (ms.length ≤ (freeRoot x k k.used).length) = room

/-- A cache whose spill region is too small for a page. -/
def cramped : State :=
  { with1 { partK (some { cache0 with layers := [page0 false] }) with
      regions := [small 2 16, { small 0 15 with handle := 10, host := false, lcount := 0 }] } with unitsPassed := true }

theorem test_PagesMoveBetweenPoolAndSpill :
    Meets 0x0505 (cached (some { cache0 with layers := [page0 false] })) (migratePkt 0) (fun _ c =>
      migrateGood (cached (some { cache0 with layers := [page0 false] })) c true = true) ∧
    Meets 0x0505 cramped (migratePkt 0) (fun _ c => migrateGood cramped c false = true) ∧
    Meets 0x0505 (cached (some cache0)) (migratePkt 1) (fun _ c => names (cached (some cache0)) c (fun _ k => !k.isOpen (par c 4 4)) = true) ∧
    (started cacheRunning = true ∧ (findPart cacheRunning 1).any (fun x => (x.cache 11).any fun k => (x.context k.ctx.toNat).step.isSome) = true) ∧
    (started (cached (some (migrating true))) = true ∧ movingPages (migrating true) = [(0, 0, 0)] ∧
      0 < ((migrating true).layerRec 0 0).pages.length ∧
      nth ((migrating true).layerRec 0 0).pages 0 PageEntry.none = ⟨false, 0, some (true, 0), false⟩) ∧
    (∀ a, a < (migrating true).page / 64 → ∀ b, b < (migrating true).page / 64 →
      lineOf ((⟨false, 0, some (true, 0), false⟩ : PageEntry).addr (partK (some (migrating true))) (migrating true) (64 * a)) ≠
        lineOf (pageAddr (partK (some (migrating true))) (migrating true) true 0 (64 * b)) ∧
      (lineOf (pageAddr (partK (some (migrating true))) (migrating true) true 0 (64 * a)) =
        lineOf (pageAddr (partK (some (migrating true))) (migrating true) true 0 (64 * b)) → a = b)) ∧
    (movingPages (migrating false) = [] ∧
      (((cached (some (migrating false))).partitions.flatMap fun x => x.caches.flatMap fun c => c.migrations.map fun m => (x, c, m)).find?
        (fun y => y.2.2.1 = ⟨0, 7, false⟩)).isSome = true) ∧
    (∃ y ∈ movingPages (migrating true), y.1 = 0 ∧ 0 ≤ y.2.1 ∧ y.2.1 < 0 + 1) := by
  repeat' apply And.intro
  all_goals first | exact meets (by decide +kernel) | decide +kernel

theorem test_PositionsAreDividedExactly :
    (1 ≤ 3 ∧ 2 < 3 ∧ 1 ≤ 2) ∧ (⟨3, 2, 2⟩ : Spread).holds 5 = true ∧ (⟨3, 0, 2⟩ : Spread).holds 5 = false ∧
    (⟨3, 2, 2⟩ : Spread).position 1 = 5 := by decide +kernel

/-- Partition 1 with a computable region beneath unit 0 and a cache page of 32 positions in it. -/
def unitCache : Cache := { cache0 with pageLog2 := 12, layers := [{ page0 false with length := 32 }] }
def units (v : NbUnit) : State := { cached (some unitCache) with units := [v] }
def unit0 : NbUnit := { NbUnit.fresh 0 with state := .inService, processor := true }
def sealed0 : NbUnit := { unit0 with seals := (List.range 4).map fun g => (g, 0) }
def row0 : TaskRow := ⟨zeros 64, zeros 1, 31, 0⟩
def task0 (part : BitVec 4) (count : Nat) : Task := ⟨part, 11, 0, 0, 0, [row0], 0x3F800000, 0x3F800000, true, 0, 0, count, 0, 0, 0⟩
/-- What a task meets on a unit: the environment found, and whether its granules pass. -/
def taskMeets (s : State) (u : Nat) (k : Task) (bad : Option Nat) : Bool :=
  match taskEnv s k with
  | some e => mismatch s u e (eligible s u k e) = bad
  | none => false
/-- The 16 lines of granule 0 of unit 0. -/
def granuleLines : List LineTag := (List.range 16).map fun i => ⟨16 * 2 ^ 31 + i, false, .valid⟩
def repairing0 (k : Option Task) : State := { units { unit0 with repairing := [(0, k)], seals := [] } with tags := granuleLines }

def working (k : Task) : NbUnit := { unit0 with work := some ⟨k, [], []⟩ }
def canopyMode : Partition := { partK (some unitCache) with divMode := 1 }
def boundary (cxl other served cycles : Nat) (unitWork bufferFault : Bool) : BoundaryWork := ⟨cxl, other, unitWork, cycles, served, bufferFault, false⟩

theorem test_NearBankUnitsWorkInSlices :
    (started (units unit0) = true ∧ (findUnit (units unit0) 0).state ≠ .failed) ∧
    ((findUnit (units { unit0 with state := .failed }) 0).state = .failed ∧ (findUnit (units { unit0 with state := .failed }) 0).retest = false ∧
      (findUnit (units { unit0 with state := .failed, retest := true }) 0).retest = true) ∧
    (let v : NbUnit := { unit0 with waitingTasks := [task0 1 0] };
      computable (units v) 0 = true ∧ (findUnit (units v) 0).state = .inService ∧ (findUnit (units v) 0).stranded = false ∧
        (findUnit (units v) 0).waitingTasks ≠ []) ∧
    (computable (units unit0) 16 = false ∧ (findUnit (units { unit0 with stranded := true }) 0).stranded = true ∧ (findUnit (units unit0) 0).waitingTasks = []) ∧
    ((boundary 0 0 0 131 false false).wf = true ∧ (findUnit (units { unit0 with processor := false }) 0).processor = false ∧
      (findUnit (units unit0) 0).processor = true) ∧
    ((∀ p, unitOwner (units unit0) 0 = some p → p.confidential = false) ∧ 0 + (findUnit (units unit0) 0).held + 0 = 0) ∧
    ((∃ x ∈ [3, 4], 4 ≤ x) ∧ ¬∃ x ∈ [3, 0], 4 ≤ x) ∧
    (unitOwner (units unit0) 0).map (·.num) ≠ some (task0 2 0).part ∧
    ((unitOwner (units unit0) 0).any (fun p => p.num = (task0 1 0).part && modeInForce p ≠ 1) = true ∧
      (unitOwner ({ units unit0 with partitions := [canopyMode] }) 0).any (fun p => modeInForce p = 1) = true ∧
      (findUnit (units { unit0 with processor := false }) 0).state ≠ .failed ∧ unitReady (findUnit (units { unit0 with processor := false }) 0) = false) ∧
    (unitReady (findUnit (units unit0) 0) = true ∧ (findUnit (units unit0) 0).waitingTasks = [] ∧ splitTask 32 (task0 1 32) = [task0 1 32]) ∧
    ((taskEnv (units unit0) (task0 1 0)).isSome = true ∧ taskMeets (unitSees .none (units unit0)) 0 (task0 1 0) none = true) ∧
    taskMeets (unitSees .none (units sealed0)) 0 (task0 1 32) (some 0) = true ∧
    ((task0 1 0).rows ≠ [] ∧ (task0 1 0).rows.length ≤ 2112 / (32 + 1) ∧ { task0 1 0 with rows := List.replicate 64 row0 } ∈ splitTask 32 { task0 1 0 with rows := List.replicate 65 row0 }) ∧
    ((findUnit (units (working (task0 1 0))) 0).work = some ⟨task0 1 0, [], []⟩ ∧ (findUnit (units (working (task0 1 0))) 0).state = .inService ∧
      (findUnit (units (working (task0 1 0))) 0).processor = true ∧ taskMeets (unitSees .none (units (working (task0 1 0)))) 0 (task0 1 0) none = true) ∧
    taskMeets (units { sealed0 with work := some ⟨task0 1 32, [], []⟩ }) 0 (task0 1 32) (some 0) = true ∧
    (findUnit (units unit0) 0).work = none ∧ (findUnit (units { unit0 with processor := false }) 0).processor = false := by
  repeat' apply And.intro
  all_goals decide +kernel

/-- A recomputation of sequence 0 of a cache, with the step of its context, and the token line of the sequence. -/
def recomputing (k : Cache) (step : Option RunningStep) : Partition :=
  { partK (some k) with acting := some ⟨.recompute 11 0 0 [(0, 0)], none, true⟩, contexts := setAt part1.contexts 0 fun c => { c with step := step } }
def bareCache : Cache := { cache0 with seqs := [⟨0, 0, 0, 0⟩] }
def tokenCache : Cache := { cache0 with seqs := [⟨0, (small 0 15).addr 0, 64, 1⟩], layers := [page0 false] }
def tokenLines (k : Cache) (a n : Nat) : List Nat := tokenAddrs (recomputing k none) (k.seqs.headD ⟨0, 0, 0, 0⟩) a n
/-- The state after the token ids are read, and what is ready to be run on it. -/
def tokensRead (k : Cache) (s : State) : State :=
  (readLines 3 [] .none ((((tokenLines k 0 (maxNat ((k.layers.filter fun r => r.seq = 0).map (·.length)))).map lineOf).eraseDups).filter
    fun l => lineState s l = some .valid) s).2
def cleared (k : Cache) (s : State) : State :=
  truncateSeq 1 k 0 0 (updCtx 1 k.ctx.toNat (fun c => { c with step := none }) (updPart 1 (fun p => { p with acting := none, current := k.ctx }) (tokensRead k s)))
def tokenLost : State := { with1 (recomputing tokenCache none) with tags := [⟨lineOf ((small 0 15).addr 0), false, .lost⟩] }

theorem test_UnitsAreTestedAndRepaired :
    started (units unit0) = true ∧
    ((findUnit (units { unit0 with state := .failed }) 0).state = .failed ∧ (findUnit (units { unit0 with state := .failed }) 0).retest = false) ∧
    (let v : NbUnit := { unit0 with state := .failed, retest := true }; (findUnit (units v) 0).state = .failed ∧ (findUnit (units v) 0).retest = true) ∧
    (findUnit (units unit0) 0).state ≠ .failed ∧
    ({ units unit0 with testRun := [o7] } : State).testRun ≠ [] ∧ (units unit0).testRun = [] ∧ (1#18) ∉ [0#18] ∧
    (started (repairing0 none) = true ∧ (findUnit (repairing0 none) (0#18).toNat).repairing = [(0, none)]) ∧
    ((⟨0, false⟩ : RepairRead).uncorrectable = false ∧
      (∀ i, i < 16 → lineState (repairing0 none) (lineOf (mkAddr (unitLayer 0) (unitColumn 0 + 0 / 64) (1024 * (0 % 64)) + 64 * i)) = some .valid) ∧
      (findUnit (repairing0 none) 0).seals.find? (fun x => x.1 = 0) = none ∧ 0 < (⟨1, false⟩ : RepairRead).corrected) ∧
    ((⟨0, true⟩ : RepairRead).uncorrectable = true ∧ (pageOfGranule (repairing0 none) 0 0).isSome = true ∧
      pageOfGranule (repairing0 none) 0 4 = none) ∧
    (findUnit (units unit0) 0).repairing = [] ∧
    (pagesOn (units unit0) 1 = [] ∧ (unitOwner (units unit0) 1).isSome = true) ∧
    (started tokenLost = true ∧ findPart tokenLost 1 = some (recomputing tokenCache none) ∧ (recomputing tokenCache none).cache 11 = some tokenCache ∧
      tokenCache.seqs.find? (fun r => r.seq = 0) = some ⟨0, (small 0 15).addr 0, 64, 1⟩ ∧
      linesIn (tokensRead tokenCache tokenLost) (some .lost) (tokenLines tokenCache 0 1) ≠ []) ∧
    (linesIn (tokensRead tokenCache (with1 (recomputing tokenCache none))) (some .lost) (tokenLines tokenCache 0 1) = [] ∧
      (regenAll 1 11 0 tokenCache.rchunk [(0, 0, 0)] 1 0 1 (cleared tokenCache (with1 (recomputing tokenCache none)))).isNone = true) ∧
    (linesIn (tokensRead bareCache (with1 (recomputing bareCache none))) (some .lost) (tokenLines bareCache 0 0) = [] ∧
      (regenAll 1 11 0 bareCache.rchunk [] 0 0 0 (cleared bareCache (with1 (recomputing bareCache none)))).isSome = true ∧
      ((recomputing bareCache none).context 0).step = none ∧
      ((recomputing bareCache (some (run1 (plan3 4 150)))).context 0).step = some (run1 (plan3 4 150)) ∧
      (findPart (cleared bareCache (with1 (recomputing bareCache none))) 1).isSome = true) ∧
    part1.acting = none := by
  repeat' apply And.intro
  all_goals decide +kernel

def copyPkt (code first count size : Nat) : Packet :=
  { pkt code 24 [(4, first), (4, count), (8, 4096), (4, size)] with flags := 5 }
def ringed (r : HealthRing) : State :=
  with1 { part1 with contexts := setAt part1.contexts 7 fun c => { c with ring := some r } }

theorem test_ClearingCommandsAndCounters :
    Meets 0x0601 rdy (pkt 0x0601 8 [(1, 0), (1, 0), (2, 1)]) (fun _ c => par c 0 1 ≤ 2 ∧ par c 0 1 = 0 ∧ 1 ≤ par c 2 2 ∧ par c 2 2 ≤ 4096) ∧
    Meets 0x0601 rdy { pkt 0x0601 8 [(1, 2), (1, 0), (2, 4096)] with flags := 5 } (fun _ c => par c 0 1 = 2 ∧ pktExpert c = true ∧ par c 2 2 ≤ 4096) ∧
    Meets 0x0601 rdy (pkt 0x0601 8 [(1, 1), (1, 0), (2, 1)]) (fun _ c => 1 ≤ par c 0 1 ∧ par c 0 1 ≤ 2 ∧ pktExpert c = false) ∧
    Meets 0x0601 rdy (pkt 0x0601 8 [(1, 3), (1, 0), (2, 1)]) (fun _ c => 2 < par c 0 1) ∧
    Meets 0x0602 rdy (pkt 0x0602 4 [(4, 255)]) (fun q c => (namedPart q c (par c 0 4)).toOption = some 1 ∧ findPart rdy 1 = some part1) ∧
    Meets 0x0603 rdy (pkt 0x0603 4 [(2, 10), (1, 0)]) (fun _ c => 10 ≤ par c 0 2 ∧ par c 0 2 ≤ 3600 ∧ par c 2 1 = 0) ∧
    Meets 0x0603 rdy (pkt 0x0603 4 [(2, 3600), (1, 1)]) (fun _ c => 10 ≤ par c 0 2 ∧ par c 0 2 ≤ 3600 ∧ par c 2 1 = 1) ∧
    Meets 0x0603 rdy (pkt 0x0603 4 [(2, 9), (1, 0)]) (fun _ c => par c 0 2 < 10) ∧
    Meets 0x0D10 rdy (copyPkt 0x0D10 4095 1 64) (fun q c => par c 8 8 % 64 = 0 ∧ 64 * par c 4 4 ≤ par c 16 4 ∧ 1 ≤ par c 4 4 ∧ par c 4 4 ≤ 4096 ∧
      par c 0 4 < 4096 ∧ (paramBuffer (fetchedState (copyPkt 0x0D10 4095 1 64) rdy) q c (par c 8 8) (par c 16 4)).toOption = some none) ∧
    Meets 0x0D11 rdy (copyPkt 0x0D11 262143 262144 16777216) (fun q c => 64 * par c 4 4 ≤ par c 16 4 ∧ par c 4 4 ≤ 262144 ∧ par c 0 4 < 262144 ∧
      (paramBuffer (fetchedState (copyPkt 0x0D11 262143 262144 16777216) rdy) q c (par c 8 8) (par c 16 4)).toOption = some none) ∧
    Meets 0x0D12 rdy (copyPkt 0x0D12 0 4096 262144) (fun q c => 64 * par c 4 4 ≤ par c 16 4 ∧ par c 4 4 ≤ 4096 ∧ par c 0 4 < 4096 ∧
      (paramBuffer (fetchedState (copyPkt 0x0D12 0 4096 262144) rdy) q c (par c 8 8) (par c 16 4)).toOption = some none) ∧
    (pair1.operator = false ∧ (ownerOf rdy (tractOfCore (256 * 4095))).isNone = true) ∧
    (pair0.operator = true ∧ ownerOf rdy (tractOfCore (256 * 4095)) = none ∧
      ([(⟨4095, 1, 0, 0, 0, 0, 0, 0⟩ : LatticeCtr)].find? fun c => c.grove = 4095).isSome = true) ∧
    Meets 0x0C01 (withRegion (small 0 0)) (pkt 0x0C01 16 [(8, 64), (4, 16), (1, 7), (1, 1)]) (fun _ c => par c 12 1 ≤ 7 ∧ par c 13 1 = 1 ∧ par c 0 8 < 2 ^ 42 ∧
      validAddr (par c 0 8) = true ∧ (small 0 0).offset (par c 0 8) = some 64 ∧ par c 0 8 % 64 = 0 ∧ (small 0 0).kind ≠ 2 ∧ par c 8 4 = 2 ^ 4 ∧
      64 + 64 + 64 * par c 8 4 ≤ (small 0 0).size) ∧
    Meets 0x0C01 rdy (pkt 0x0C01 16 [(8, 64), (4, 16), (1, 7), (1, 0)]) (fun _ c => par c 12 1 ≤ 7 ∧ par c 13 1 = 0) := by
  repeat' apply And.intro
  all_goals first | exact meets (by decide +kernel) | decide +kernel

theorem test_HealthRingStatusReportsTheRing :
    Meets 0x0C02 (ringed ⟨64, 16, 3, 1⟩) (pkt 0x0C02 4 [(4, 7)]) (fun _ c => par c 0 4 ≤ 7 ∧
      (findPart (ringed ⟨64, 16, 3, 1⟩) (pktPart c)).bind (fun x => (x.context (par c 0 4)).ring) = some ⟨64, 16, 3, 1⟩) ∧
    Meets 0x0C02 rdy (pkt 0x0C02 4 [(4, 0)]) (fun _ c => par c 0 4 ≤ 7 ∧ findPart rdy (pktPart c) = some part1 ∧ (part1.context (par c 0 4)).ring = none) ∧
    Meets 0x0C02 rdy (pkt 0x0C02 4 [(4, 8)]) (fun _ c => 7 < par c 0 4) := by
  repeat' apply And.intro
  all_goals exact meets (by decide +kernel)

def scrubs (l : Nat) : State := { rdy with scrubbing := [l] }
def disabledScrub : State := updLayer 6 (fun r => { r with scrubCtl := 0 }) rdy
def cleanScrub (l : BitVec 5) : ScrubRead := ⟨l, 0, 0, [], [], false, true, false⟩
/-- The symbols that come back changed in line 0, in a command sent again too. -/
def errors (l : List (Nat × Byte)) : ReadErrors := ⟨l.map fun x => (0, x.1, x.2), [], l.map fun x => (0, x.1, x.2)⟩
def symbols (l : List (Nat × Byte)) : List (Nat × Byte) := errorsOf (errors l) 0
def bucket (level ovf : Nat) : State :=
  updLayer 2 (fun r => { r with level := BitVec.ofNat 24 level, ovf := BitVec.ofNat 8 ovf }) rdy

/-- The generator polynomial of R185 is a word of the code: as an error pattern it leaves the line wrong and unnoticed, and
without its symbol at position 8 the reader "corrects" that one. -/
def unseen : List (Nat × Byte) := (List.range 9).map fun p => (p, nth lineGenerator p 0)

theorem test_misread : misread unseen = some ([], patternWord unseen) ∧ decodePattern unseen = .uncorrectable ∧
    misread (unseen.take 8) = some ([(8, 1)], patternWord unseen) ∧ decodePattern (unseen.take 8) = .uncorrectable := by
  decide +kernel

/-- The sensor of tract 3's area of a DRAM die reads `v` sixteenths of a degree. -/
def warmAt (v : Int) : State := { rdy with thermal := { rdy.thermal with sensors := [{ Sensor.fresh 2 3 with hist := [v] }] } }

theorem test_ChannelsRefreshAndScrub :
    started rdy = true ∧ (6 ≤ (6#5).toNat ∧ (22#5).toNat ≤ 22) ∧
    ((5#5).toNat < 6 ∧ (findUnit { rdy with units := [{ NbUnit.fresh (65536 * 3) with processor := true }] } (65536 * (5 - 2) + 0 / 16)).processor = true ∧
      0 < (findUnit { rdy with units := [{ NbUnit.fresh (65536 * 3) with processor := true }] } (65536 * (5 - 2) + 0 / 16)).owed.length ∧
      (findUnit rdy (65536 * (2 - 2))).processor = false) ∧
    (∀ n, n < 9 → (0, n) ∉ rdy.laneErrors) ∧
    ((findLayer rdy 6).scrubCtl.getLsbD 0 = true ∧ 6 ∉ rdy.scrubbing ∧ (findLayer disabledScrub 6).scrubCtl.getLsbD 0 = false ∧ 6 ∈ (scrubs 6).scrubbing) ∧
    ((cleanScrub 2).wf = true ∧ (cleanScrub 2).layer.toNat ∈ (scrubs 2).scrubbing ∧ (findLayer (scrubs 2) 2).scrubCtl.getLsbD 0 = true ∧
      scrubNext (findLayer (scrubs 2) 2) (cleanScrub 2).core.toNat = (cleanScrub 2).line.toNat ∧ (cleanScrub 2).line.toNat < passLines 2 ∧
      (cleanScrub 2).sealDiffers = false ∧ lineState (scrubs 2) (16 * 2 ^ 31) ≠ some .valid) ∧
    lineState { scrubs 2 with tags := [⟨16 * 2 ^ 31, false, .valid⟩] } (16 * 2 ^ 31) = some .valid ∧
    (2 ∉ (scrubs 6).scrubbing ∧ scrubNext (findLayer (scrubs 2) 2) 0 ≠ 1 ∧ passLines 2 ≤ 1032 ∧
      ({ disabledScrub with scrubbing := [6] } : State).scrubbing = [6] ∧ (findLayer { disabledScrub with scrubbing := [6] } 6).scrubCtl.getLsbD 0 = false) ∧
    ((∃ x ∈ (warmAt 1329).thermal.sensors, isDram x.die = true ∧ x.idx = 3 ∧ (1328 < x.reading ∨ 1328 < areaTemp (warmAt 1329) x.die x.idx)) ∧
      ¬(∃ x ∈ (warmAt 1328).thermal.sensors, isDram x.die = true ∧ x.idx = 3 ∧ (1328 < x.reading ∨ 1328 < areaTemp (warmAt 1328) x.die x.idx))) ∧
    (Sound rdy ∧ lineState rdy 0 ≠ some .lost ∧ onAbsorbed rdy 0 = false) ∧ Memory.wf rdy.mem = true ∧
    ((patternWord [(0, 1), (1, 2), (2, 3), (3, 4)]).filter (· ≠ 0)).length < 5 ∧
    (∀ x ∈ symbols [(8, 0)], x.2 = 0) ∧
    ((∃ x ∈ symbols [(8, 1), (24, 2), (40, 3)], x.2 ≠ 0) ∧ (∀ x ∈ symbols [(8, 1), (24, 2), (40, 3)], x.2 ≠ 0 → x.1 < 72) ∧
      (∀ x ∈ symbols [(8, 1), (24, 2), (40, 3)], x.2 ≠ 0 → laneOf x.1 = 0)) ∧
    ((∀ x ∈ symbols [(0, 1), (71, 2)], x.2 ≠ 0 → x.1 < 72) ∧ (∀ x ∈ symbols [(0, 1), (71, 2)], x.2 ≠ 0 → x.1 = 0 ∨ x.1 = 71)) ∧
    (¬(∀ x ∈ symbols [(72, 1)], x.2 = 0) ∧ ¬(∀ x ∈ symbols [(72, 1)], x.2 ≠ 0 → x.1 < 72) ∧ misread (symbols [(72, 1)]) = none) ∧
    (canForm rdy [] 0 = true ∧ canForm rdy [2 ^ 31] 0 = false ∧ canForm rdy [] (16 * 2 ^ 31) = false ∧ canForm (outLayer 6) [] 0 = false) ∧
    ((findLayer (bucket 0xFFFE 0) 2).level.toNat + 1 < max 1 (bitsOf (findLayer (bucket 0xFFFE 0) 2).cebktCfg.toNat 0 24)) ∧
    (max 1 (bitsOf (findLayer (bucket 0xFFFF 1) 2).cebktCfg.toNat 0 24) ≤ (findLayer (bucket 0xFFFF 1) 2).level.toNat + 1 ∧
      (findLayer (bucket 0xFFFF 1) 2).ovf.toNat ≤ 1 ∧ ∃ k ∈ (bucket 0xFFFF 1).layerRegs, k.layer = 2) ∧ 0 < rdy.layerRegs.length := by
  repeat' apply And.intro
  all_goals decide +kernel

theorem test_what_a_scrub_read_meets :
    storedAt (scrubs 2) 2 0 0 = .data (16 * 2 ^ 31) ∧ storedAt rdy 6 0 0 = .parity ∧ storedAt rdy 2 0 1031 = .tags (some 16) ∧
    storedAt (outLayer 6) 6 0 0 = .nothing := ⟨rfl, rfl, rfl, rfl⟩

def lane (l : BitVec 5) (whole : Bool) : LaneFault := ⟨0, l, 6, whole⟩
def chan (m : ChannelMode) : State := { rdy with channels := [⟨0, m⟩] }
/-- Both private spares of core 0 and four pool lanes are in training, so none is left. -/
def spent : State :=
  { rdy with training := [⟨0, 1, 0, 6⟩, ⟨0, 2, 1, 6⟩, ⟨0, 3, 16, 6⟩, ⟨0, 4, 17, 6⟩, ⟨0, 5, 18, 6⟩, ⟨0, 6, 19, 6⟩] }
def runs (a : Action) : State := { rdy with reserve := { rdy.reserve with running := some ⟨a, none, true⟩ } }
def waits (a : Action) : State := { rdy with reserve := { rdy.reserve with queue := [⟨a, none, false⟩] } }

theorem test_LanesLayersAndRecovery :
    (started rdy = true ∧ (lane 22 false).lane.toNat ≤ 22 ∧ channelMode rdy (lane 22 false).core.toNat = none ∧ (lane 22 false).wholeChannel = false ∧
      (∀ k ∈ rdy.training, ¬(k.core = (lane 22 false).core.toNat ∧ k.lane = (lane 22 false).lane.toNat)) ∧ chooseSpare rdy 0 = some 0) ∧
    ((∀ k ∈ spent.training, ¬(k.core = 0 ∧ k.lane = 22)) ∧ chooseSpare spent 0 = none) ∧
    (channelMode (chan (.retired (some 0))) 0 = some (.retired (some 0)) ∧ channelMode (chan .failed) 0 = some .failed ∧
      channelMode (chan (.broken (some 0))) 0 = some (.broken (some 0)) ∧
      channelMode (chan (.corrected 22 none)) 0 = some (.corrected 22 none) ∧ channelMode (chan (.degraded 18 (some 2))) 0 = some (.degraded 18 (some 2)) ∧
      (lane 22 true).wholeChannel = true ∧ (lane 18 false).lane.toNat = 18 ∧ (lane 17 false).lane.toNat ≠ 18) ∧
    (0 ∉ sparesOf rdy 0 ∧ 0 ∈ sparesOf spent 0 ∧
      (let s : State := { rdy with training := [⟨0, 1, 0, 6⟩] }; 0 ∈ sparesOf s 0 ∧ 1 ∉ sparesOf s 0) ∧
      (let s : State := { rdy with training := [⟨0, 1, 0, 6⟩, ⟨0, 2, 1, 6⟩] }; (chooseSpare s 0).any (fun x => decide (2 ≤ x)) = true)) ∧
    ((rehomePlace rdy 0).isSome = true) ∧
    (spent.training.find? (fun l => l.core = 0 && l.lane = 6)).isSome = true ∧
    (let s : State := { chan (.corrected 3 (some 1)) with reserve := { rdy.reserve with running := some ⟨.rehome 0, none, true⟩ } };
      started s = true ∧ s.reserve.running = some ⟨.rehome 0, none, true⟩ ∧ channelMode s 0 = some (.corrected 3 (some 1))) ∧
    rdy.reserve.running = none ∧
    (layerState rdy 0 = 0 ∧ layerState rdy 23 = 0 ∧ layerState rdy 5 = 0 ∧ layerState rdy 6 = 0 ∧ layerState rdy 22 = 0 ∧
      rdy.rootOut = none ∧ ({ outLayer 6 with rootOut := some 6 } : State).rootOut ≠ none ∧ layerState (outLayer 6) 22 = 0 ∧
      layerState (outLayer 6) 6 ≠ 0) ∧
    (23 < rdy.layers.length ∧ 15 < 16) ∧ rdy.start.oos = false ∧
    (started (runs (.absorb 6)) = true ∧ (runs (.absorb 6)).reserve.running = some ⟨.absorb 6, none, true⟩) ∧
    ((waits (.absorb 6)).reserve.queue = ⟨.absorb 6, none, false⟩ :: [] ∧ (waits (.absorb 6)).reserve.running = none ∧
      (waits (.absorb 6)).reserve.queue ≠ [] ∧ rdy.reserve.queue = [] ∧
      ({ waits (.absorb 6) with reserve := { (waits (.absorb 6)).reserve with running := some ⟨.replay, none, true⟩ } } : State).reserve.running ≠ none) := by
  repeat' apply And.intro
  all_goals decide +kernel

/-- Device 5 with link 3 up, link 4 down, link 5 training, link 6 disabled; partition 1 is rank 0 of group 9, whose rank 1 is
partition 1 of device 6. -/
def member0 : Group := { Group.fresh 9 1 81 1 (pktOrigin (pkt 0 0 [])) with epoch := 3, members := [81, 97], state := .member, waiters := [] }

def withGroup (g : Group) (s : State) : State := { s with fabric := { s.fabric with groups := [g] } }

def fab0 : State :=
  let s : State := { rdy with fabric := { rdy.fabric with devId := 5 } }
  updLink 3 (fun l => { l with state := .up, width := 8 }) (updLink 4 (fun l => { l with state := .down })
    (updLink 5 (fun l => { l with state := .training }) (updLink 6 (fun l => { l with state := .disabled }) s)))

def fab : State := withGroup member0 fab0

/-- Link 3 waits for an acknowledgement; partition 1 has joined 16 groups; a token of it has not been released. -/
def unacked : State := updLink 3 (fun l => { l with replay := [⟨0, .data (mkPacket 81 97 1 2 9 3 0 0 []) 0⟩] }) fab
def crowded : State := { fab with fabric := { fab.fabric with groups := List.replicate 16 member0 } }
def awaiting : Group := { member0 with tokens := [(0, 1)] }

def routeBytes (es : List (List Nat)) : Packet :=
  { pkt 0x702 24 [(2, 0), (2, es.length), (4, 0), (8, 1024), (4, 8 * es.length)] with
    hostData := some (es.flatMap fun ls => toLE 8 (ls.zipIdx.foldl (fun a x => a + x.1 * 2 ^ (6 * x.2)) (2 ^ 24 * ls.length))) }

def routesGiven (ok : Bool) (es : List (List Nat)) : Prop :=
  Meets 0x0702 fab (routeBytes es) (fun q c => 1 ≤ par c 2 2 ∧ par c 0 2 + par c 2 2 ≤ 32768 ∧ par c 8 8 % 8 = 0 ∧ 8 * par c 2 2 ≤ par c 16 4 ∧
    ((takeBuffer (fetchedState (routeBytes es) fab) q c (par c 8 8) (8 * par c 2 2)).toOption.map fun b =>
      (List.range (par c 2 2)).all fun k => routeOk (fld b (8 * k) 8)) = some ok)

def joinPkt (id coord mm : Nat) : Packet := pkt 0x710 12 [(4, id), (4, coord), (2, mm)]
def adminPkt (op target : Nat) : Packet := { pkt 0x711 12 [(4, 9), (1, op), (3, 0), (4, target)] with part := 1 }

theorem test_FabricIsConfigured :
    Meets 0x0701 fab0 (pkt 0x701 4 [(2, 0x7FFE)]) (fun _ c => par c 0 2 ≤ 0x7FFE ∧ fab0.fabric.groups = []) ∧
    Meets 0x0701 fab (pkt 0x701 4 [(2, 0)]) (fun _ c => par c 0 2 ≤ 0x7FFE ∧ fab.fabric.groups ≠ []) ∧
    Meets 0x0701 fab (pkt 0x701 4 [(2, 0x7FFF)]) (fun _ c => 0x7FFE < par c 0 2) ∧
    routesGiven true [[1, 2, 3, 63], []] ∧ routesGiven false [[1, 2, 3, 4, 5]] ∧ routesGiven false [[7, 7]] ∧
    (7 ≠ fab.fabric.devId.toNat ∧ ∀ e ∈ [2 ^ 27 - 1], e < 2 ^ 27) ∧
    Meets 0x0703 fab (pkt 0x703 24 [(2, 32767), (2, 1), (4, 0), (8, 1024), (4, 8)]) (fun q c => 1 ≤ par c 2 2 ∧ par c 0 2 + par c 2 2 ≤ 32768 ∧
      par c 8 8 % 8 = 0 ∧ 8 * par c 2 2 ≤ par c 16 4 ∧ (paramBuffer fab q c (par c 8 8) (par c 16 4)).toOption.isSome) ∧
    Meets 0x0704 fab (pkt 0x704 16 [(8, 1024), (4, 4096)]) (fun q c => par c 0 8 % 64 = 0 ∧ 4096 ≤ par c 8 4 ∧
      (paramBuffer fab q c (par c 0 8) (par c 8 4)).toOption.isSome) ∧
    Meets 0x0705 fab (pkt 0x705 4 [(1, 63), (1, 2)]) (fun _ c => par c 1 1 ≤ 2 ∧ par c 0 1 ≤ 63) ∧
    Meets 0x0705 fab (pkt 0x705 4 [(1, 0xFF), (1, 0)]) (fun _ c => par c 1 1 ≤ 2 ∧ par c 0 1 = 0xFF) ∧
    ((∃ l ∈ fab.fabric.links, l.num = 6) ∧ (findLink fab 6).state = .disabled ∧ (∃ l ∈ fab.fabric.links, l.num = 3) ∧
      (findLink fab 3).state ≠ .disabled ∧ (findLink unacked 3).carries = true ∧ (findLink unacked 3).replay ≠ [] ∧ (findLink fab 3).replay = [] ∧
      (findLink fab 4).carries = false) ∧
    Meets 0x0710 fab { joinPkt 0 97 0 with part := 1 } (fun _ c => par32 c 0 = 0) ∧
    Meets 0x0710 fab { joinPkt 10 81 0 with part := 1 } (fun _ c => par c 4 4 = fabAddr fab (pktPart c) ∧ par c 8 2 = 0) ∧
    Meets 0x0710 crowded { joinPkt 10 97 0 with part := 1 } (fun _ c => findGroup crowded (pktPart c) (par32 c 0) = none ∧
      16 ≤ (crowded.fabric.groups.filter fun g => g.part = pktPart c).length ∧ par c 4 4 < 2 ^ 19 ∧ par c 4 4 ≠ fabAddr crowded (pktPart c)) ∧
    Meets 0x0710 fab0 { joinPkt 1 81 32768 with part := 1 } (fun _ c => par32 c 0 ≠ 0 ∧ par32 c 0 ≠ 0xFFFFFFFF ∧ par c 4 4 < 2 ^ 19 ∧
      (par c 4 4 = fabAddr fab0 (pktPart c) → 1 ≤ par c 8 2 ∧ par c 8 2 ≤ 32768) ∧ findGroup fab0 (pktPart c) (par32 c 0) = none ∧
      (fab0.fabric.groups.filter fun g => g.part = pktPart c).length < 16 ∧ fab0.fabric.groups.length < 64 ∧
      ((fab0.fabric.groups.map (·.id)) ++ [par32 c 0]).eraseDups.length ≤ 8) ∧
    Meets 0x0710 fab { joinPkt 9 97 0 with part := 1 } (fun _ c => par32 c 0 ≠ 0 ∧ par32 c 0 ≠ 0xFFFFFFFF ∧ par c 4 4 < 2 ^ 19 ∧
      (par c 4 4 = fabAddr fab (pktPart c) → 1 ≤ par c 8 2 ∧ par c 8 2 ≤ 32768) ∧ (findGroup fab (pktPart c) (par32 c 0)).isSome) ∧
    Meets 0x0711 fab (adminPkt 0 0) (fun _ c => findGroup fab (pktPart c) (par32 c 0) = some member0 ∧ par c 4 1 = 0 ∧ member0.epoch ≠ 0 ∧
      member0.leaver = none) ∧
    Meets 0x0711 fab (adminPkt 1 97) (fun q c => findGroup fab (pktPart c) (par32 c 0) = some member0 ∧ par c 4 1 = 1 ∧ q.operator = true ∧
      member0.coord = fabAddr fab (pktPart c) ∧ par c 8 4 ∈ member0.members) ∧
    Meets 0x0711 fab (adminPkt 2 97) (fun q c => findGroup fab (pktPart c) (par32 c 0) = some member0 ∧ par c 4 1 = 2 ∧ q.operator = true ∧
      par c 8 4 ∈ member0.members) ∧
    Meets 0x0711 fab { adminPkt 1 97 with qp := 1 } (fun q c => findGroup fab (pktPart c) (par32 c 0) = some member0 ∧ 1 ≤ par c 4 1 ∧ par c 4 1 ≤ 2 ∧
      q.operator = false) ∧
    Meets 0x0711 fab0 (adminPkt 0 0) (fun _ c => findGroup fab0 (pktPart c) (par32 c 0) = none) ∧
    Meets 0x0711 fab (adminPkt 3 97) (fun _ c => 2 < par c 4 1 ∧ (findGroup fab (pktPart c) (par32 c 0)).isSome) ∧
    Meets 0x0711 (withGroup { member0 with epoch := 0, state := .joining } fab0) (adminPkt 0 0) (fun _ c => par c 4 1 = 0) ∧
    Meets 0x0711 (withGroup { member0 with leaver := some o7 } fab0) (adminPkt 0 0) (fun _ c => par c 4 1 = 0 ∧ member0.epoch ≠ 0) ∧
    Meets 0x0711 (withGroup { member0 with coord := 97 } fab0) (adminPkt 1 97) (fun _ c => par c 4 1 = 1 ∧ 97 ≠ fabAddr fab0 (pktPart c)) ∧
    Meets 0x0711 fab (adminPkt 2 113) (fun _ c => par c 4 1 = 2 ∧ par c 8 4 ∉ member0.members) ∧
    Meets 0x0711 fab (adminPkt 2 81) (fun q c => par c 4 1 = 2 ∧ par c 8 4 = fabAddr fab (pktPart c) ∧ q.operator = true) ∧
    Meets 0x0712 fab0 { pkt 0x712 4 [(4, 9)] with part := 1 } (fun _ c => findGroup fab0 (pktPart c) (par32 c 0) = none) ∧
    Meets 0x0713 fab0 { pkt 0x713 8 [(4, 9), (1, 1), (1, 96)] with part := 1 } (fun _ c => findGroup fab0 (pktPart c) (par32 c 0) = none) ∧
    Meets 0x0713 fab { pkt 0x713 8 [(4, 9), (1, 1), (1, 97)] with part := 1 } (fun _ c => 96 < par c 5 1) ∧
    Meets 0x0712 (withGroup awaiting fab0) { pkt 0x712 4 [(4, 9)] with part := 1 } (fun _ c => findGroup (withGroup awaiting fab0) (pktPart c) (par32 c 0)
      = some awaiting ∧ groupWaits (withGroup awaiting fab0) awaiting = true) ∧
    Meets 0x0712 fab { pkt 0x712 4 [(4, 9)] with part := 1 } (fun _ c => findGroup fab (pktPart c) (par32 c 0) = some member0 ∧
      groupWaits fab member0 = false) ∧
    Meets 0x0713 fab { pkt 0x713 8 [(4, 9), (1, 1), (1, 96)] with part := 1 } (fun _ c => findGroup fab (pktPart c) (par32 c 0) = some member0 ∧
      par c 4 1 ≤ 1 ∧ 1 ≤ par c 5 1 ∧ par c 5 1 ≤ 96) ∧
    Meets 0x0740 fab (pkt 0x740 24 [(4, 4095), (4, 4096), (8, 1024), (4, 192 * 4096)]) (fun q c => 1 ≤ par c 4 4 ∧ par c 4 4 ≤ 4096 ∧
      par c 0 4 < 4096 ∧ par c 8 8 % 64 = 0 ∧ 192 * par c 4 4 ≤ par c 16 4 ∧ (paramBuffer fab q c (par c 8 8) (par c 16 4)).toOption.isSome) := by
  unfold routesGiven
  repeat' apply And.intro
  all_goals first | exact meets (by decide +kernel) | decide +kernel

def np (src dst stamp : Nat) (y : Bool) : NetPacket := ⟨BitVec.ofNat 12 src, .grove (BitVec.ofNat 12 dst), .operand, BitVec.ofNat 4 stamp, 1, y, none⟩

/-- A flit with this header, and its CRC right. -/
def flit (h : Nat) : List Byte :=
  let b := toLE 8 h ++ zeros 244
  b ++ toLE 4 (crc32c b).toNat

theorem crc_at_end (b : List Byte) (c : BitVec 32) (h : b.length = 0xFC) :
    (b ++ toLE 4 c.toNat).take 0xFC = b ∧ fld32 (b ++ toLE 4 c.toNat) 0xFC = c := by
  have hc := c.isLt
  constructor
  · rw [← h, List.take_left']
    rfl
  · apply BitVec.eq_of_toNat_eq
    simp only [fld32, fld, slice, ← h, List.drop_left, toLE, List.take, leNat, BitVec.toNat_ofNat]
    omega

theorem flit_good (h : Nat) : fld32 (flit h) 0xFC = crc32c ((flit h).take 0xFC) := by
  have k := crc_at_end (toLE 8 h ++ zeros 244) (crc32c (toLE 8 h ++ zeros 244)) (by rw [zeros, List.length_append, List.length_replicate]; rfl)
  unfold flit
  rw [k.1, k.2]

def lk (n : Nat) (f : Link → Link) : State := updLink n f fab

/-- Router 0 holds a flit for a resend on its east port. -/
def resending : State := updRouter 0 (Router.updPort 2 fun p => { p with replay := [⟨np 0 1 1 false, 0, [1]⟩] }) fab
def brokenMesh (l : List (Nat × Nat)) : State := l.foldl (fun s x => updMesh x.1 x.2 (fun l => { l with stage := .down }) s) fab

theorem test_LinksAndCanopyCarryPackets :
    (started fab = true ∧ (np 5 4095 1 false).wf = true ∧ arrivalPort 4095 3 (np 5 4095 1 false) = true ∧ fab.routers = [] ∧ (3 : Nat) < 4) ∧
    ((np 0 4095 1 false).dest = .grove 4095 ∧ (np 0 4095 1 false).via = none ∧ nextDir 5 4095 false = some 2 ∧ leavesTract 5 2 = false) ∧
    (stampOk fab (np 3 0 1 false) = true ∧ (np 3 0 1 false).dest = .grove 0 ∧ (np 3 0 1 false).flits = 1) ∧
    (stampOk fab (np 3 4095 1 false) = false ∧ nextDir 7 4095 false = some 2 ∧ leavesTract 7 2 = true) ∧
    (pathOpen fab (xyPath 0 65) = true ∧ pathOpen (brokenMesh [(0, 2)]) (xyPath 0 65) = false ∧ pathOpen (brokenMesh [(0, 2)]) (yxPath 0 65) = true ∧
      pathOpen (brokenMesh [(0, 2), (0, 1)]) (xyPath 0 65) = false ∧ pathOpen (brokenMesh [(0, 2), (0, 1)]) (yxPath 0 65) = false) ∧
    (meshPort 0 2 = true ∧ ((findRouter fab 0).port 2).replay = [] ∧ ((findRouter resending 0).port 2).replay ≠ []) ∧
    ((meshLink fab 0 2).stage = .repaired ∧ (meshLink fab 0 2).stage ≠ .relayed) ∧
    ((flit 0).length = 256 ∧ (findLink fab 4).state = .down ∧ (findLink fab 3).state = .up) ∧
    ((flit 0).length = 256 ∧ fld (flit 0) 0 8 / 2 ^ 8 % 2 ^ 12 = (findLink fab 3).rxNext ∧ fld (flit 0) 0 8 % 16 = 0) ∧
    ((flit 1).length = 256 ∧ fld (flit 1) 0 8 % 16 = 1 ∧ (findLink fab 3).state ≠ .training) ∧
    ((findLink fab 5).state = .training ∧ fld (flit 1) 0 8 / 2 ^ 8 % 2 ^ 12 = (findLink fab 5).rxNext) ∧
    ((flit 2).length = 256 ∧ fld (flit 2) 0 8 % 16 = 2 ∧ (findLink fab 5).rxNext = fld (flit 2) 0 8 / 2 ^ 8 % 2 ^ 12) ∧
    ((flit 3).length = 256 ∧ 2 < fld (flit 3) 0 8 % 16) ∧
    ((flit 0xFFF01).length = 256 ∧ fld (flit 0xFFF01) 0 8 / 2 ^ 8 % 2 ^ 12 ≠ (findLink fab 3).rxNext) ∧
    ((findLink fab 3).naked = false ∧ (findLink (lk 3 fun l => { l with naked := true }) 3).naked = true ∧ (findLink fab 3).closing = false) ∧
    (hasId fab = true ∧ (mkPacket 97 81 1 2 9 3 0 0 []).dst.toNat = fab.fabric.devId.toNat ∧ (mkPacket 81 97 1 2 9 3 0 0 []).dst.toNat ≠ fab.fabric.devId.toNat) ∧
    ((findLink fab 3).carries = true ∧ (findLink fab 4).carries = false ∧ (findLink unacked 3).replay ≠ [] ∧ (findLink fab 3).replay = [] ∧
      (findLink unacked 3).closing = false ∧
      (findLink (updLink 3 (fun l => { l with closing := true }) unacked) 3).closing = true ∧
      (findLink (lk 4 fun l => { l with replay := (findLink unacked 3).replay }) 4).carries = false) ∧
    (∃ l ∈ fab.fabric.links, l.num = 3) ∧
    ((findLink (lk 3 fun l => { l with state := .half }) 3).state = .half ∧ (findLink fab 4).state ≠ .half) ∧
    (∃ k ∈ fab.fabric.links, k.num = 5) ∧ (lowHalf 0x80 = false ∧ lowHalf 0x81 = true ∧ highHalf 0x81 = true ∧ highHalf 0x08 = false) ∧
    xyPath 0 65 = [(0, 2), (1, 1)] ∧ manhattan 0 65 = 2 := by
  repeat' apply And.intro
  all_goals decide +kernel

/-- A packet with its checks right. -/
def fp (ptype : Nat) (src group epoch pseq flags : Nat) (body : List Byte) : FabPacket :=
  mkPacket src 81 ptype 0 (BitVec.ofNat 32 group) epoch pseq flags body

def arriveCheck (ptype : Byte) (s : State) (p : FabPacket) (h : State → Group → Bool) : Bool :=
  started s && decide (p.ptype = ptype) && decide (p.dst.toNat = s.fabric.devId.toNat) &&
  match checkArrival p { s with fabric := { s.fabric with arrivals := s.fabric.arrivals.erase p } } with
  | .drop _ => false
  | .take t => match findGroup t p.dstPart p.group with | some g => h t g | none => false

/-- The packet arrives, for a group of which `h` holds. -/
def Comes (ptype : Byte) (s : State) (p : FabPacket) (h : State → Group → Prop) : Prop :=
  ∃ t g, Arrives ptype s p t ∧ findGroup t p.dstPart p.group = some g ∧ h t g

theorem comes {ptype : Byte} {s : State} {p : FabPacket} {h : State → Group → Prop} [d : ∀ t g, Decidable (h t g)]
    (k : arriveCheck ptype s p (fun t g => decide (h t g)) = true) : Comes ptype s p h := by
  unfold arriveCheck at k
  simp only [Bool.and_eq_true, decide_eq_true_eq] at k
  obtain ⟨⟨⟨h1, h2⟩, h3⟩, k⟩ := k
  split at k
  · cases k
  · rename_i t ht
    split at k
    · rename_i g hg
      exact ⟨t, g, ⟨h1, h2, h3, ht⟩, hg, of_decide_eq_true k⟩
    · cases k

def member1 : Group := { member0 with coord := 97, members := [65, 81, 97], state := .changing }
def proposing : Group := { member0 with proposal := { Proposal.empty with joins := [113] } }
def asked : Group := { member0 with proposal := { Proposal.empty with joins := [113], sent := true } }
/-- This member's own partial of ranks 0 to 0, which waits for rank 1, or is gone up and awaits the result. -/
def own (sent : Bool) : Partial := { parseSegment (zeros 16 ++ [0, 0, 0x12] ++ zeros 13) with per := 8, sent := sent }
def withOwn (sent : Bool) : Group := { member0 with partials := [own sent, { own false with per := 0, lo := 1, hi := 1 }] }
def segBody (lo hi : Nat) : List Byte := segmentBytes { own false with lo := lo, hi := hi }
def noticed : Group := { member0 with notices := [(97, 2, 50, 0)] }

def stored (l : List FabPacket) : State := { fab with fabric := { fab.fabric with reorder := l } }
def stuffed (body : List Byte) : FabPacket := { fp 1 97 9 3 5 0 [] with body := body }
/-- The next view is committed here but not switched to. -/
def coming : Group := { member0 with commit := some (4, 8, 2, [81, 97]) }
def answered (pinned : List Nat) : Group :=
  { asked with proposal := { asked.proposal with members := [81, 97, 113], answers := [(81, 0, false), (97, 0, false), (113, 0, false)], pinned := pinned } }

theorem full_of (body : List Byte) (h : body.length = 244 * 131072) :
    131072 < reorderFlits (stored [stuffed body]) + (fp 1 97 9 3 1 0 []).flits ∧ fp 1 97 9 3 1 0 [] ∉ (stored [stuffed body]).fabric.reorder := by
  refine ⟨?_, fun k => ?_⟩
  · have e : reorderFlits (stored [stuffed body]) = ceilDiv (32 + body.length) 244 := by simp [reorderFlits, stored, stuffed, FabPacket.flits]
    rw [e, h]; decide
  · have e := List.mem_singleton.1 k
    have h : (fp 1 97 9 3 1 0 []).pseq = (stuffed body).pseq := congrArg FabPacket.pseq e
    change (fp 1 97 9 3 1 0 []).pseq = (fp 1 97 9 3 5 0 []).pseq at h
    exact absurd h (by decide)

theorem test_a_store_is_full : ∃ p, 131072 < reorderFlits (stored [p]) + (fp 1 97 9 3 1 0 []).flits ∧ fp 1 97 9 3 1 0 [] ∉ (stored [p]).fabric.reorder :=
  ⟨_, full_of (List.replicate _ 0) List.length_replicate⟩

theorem test_FabricPacketsAreHandled :
    started fab = true ∧ (∀ x ∈ [0x01#8, 0x1D], (fp x.toNat 97 9 3 0 0 []).ptype = x ∧ (fp x.toNat 97 9 3 0 0 []).dst.toNat = fab.fabric.devId.toNat) ∧
    (mkPacket 81 97 1 0 9 3 0 0 []).dst.toNat ≠ fab.fabric.devId.toNat ∧
    ((fp 1 97 9 3 0 0 [7]).bodylen.toNat ≤ 4096 ∧ (fp 1 97 9 3 0 0 [7]).bodylen.toNat = (fp 1 97 9 3 0 0 [7]).body.length ∧
      (fp 1 97 9 3 0 0 [7]).bcrc = crc32c [7] ∧ findPart fab (fp 1 97 9 3 0 0 [7]).dstPart = some part1 ∧ part1.scrubbing = false) ∧
    (findPart fab (mkPacket 97 95 1 2 9 3 0 0 []).dstPart = none ∧ (mkPacket 97 95 1 2 9 3 0 0 []).ptype ≠ 0x1C ∧
      (mkPacket 97 95 0x1C 2 9 3 0 0 []).ptype = 0x1C) ∧
    (fp 1 97 9 3 0 0 [] = (fp 1 97 9 3 0 0 []) ∧ (fp 1 97 9 3 0 0 []).bcrc = 0) ∧
    (findPart { fab with partitions := [{ part1 with scrubbing := true }] } 1 = some { part1 with scrubbing := true }) ∧
    (admitted fab (fp 1 97 9 2 0 0 []) = false ∧ admitted fab (fp 1 97 9 3 0 1 []) = true ∧ (fp 1 97 9 3 0 1 []).pflags.getLsbD 0 = true) ∧
    (admitted fab (fp 1 97 9 3 0 0 []) = true ∧ (fp 1 97 9 3 0 0 []).pflags.getLsbD 0 = false ∧ isView 1 = false ∧
      (fp 1 97 9 3 0 0 []).src.toNat ≠ fab.fabric.devId.toNat ∧ (fp 1 97 9 3 0 0 []).pseq.toNat = flowNext fab (fp 1 97 9 3 0 0 []) ∧
      (∀ g, findGroup fab 1 9 = some g → ¬(g.epoch < (fp 1 97 9 3 0 0 []).epoch.toNat)) ∧
      flowNext fab (fp 1 97 9 3 1 0 []) < (fp 1 97 9 3 1 0 []).pseq.toNat ∧ fp 1 97 9 3 1 0 [] ∉ fab.fabric.reorder ∧
      reorderFlits fab + (fp 1 97 9 3 1 0 []).flits ≤ 131072 ∧ fp 1 97 9 3 1 0 [] ∈ (stored [fp 1 97 9 3 1 0 []]).fabric.reorder ∧
      admitted (withGroup coming fab0) (fp 1 97 9 4 0 0 []) = true ∧ coming.epoch < (fp 1 97 9 4 0 0 []).epoch.toNat ∧
      (fp 1 97 9 3 0 0 []).pseq.toNat < flowNext (bumpFlow (fp 1 97 9 3 0 0 []) fab) (fp 1 97 9 3 0 0 [])) ∧
    ({ fp 1 97 9 3 0 0 [] with bodylen := 4097 }.bodylen.toNat = 4097 ∧ { fp 1 97 9 3 0 0 [] with bcrc := 1 }.bcrc ≠ 0) ∧
    Comes 0x01 fab (fp 1 97 9 3 0 0 [7]) (fun _ _ => True) ∧
    Comes 0x02 fab (fp 2 97 9 3 0 0 (segBody 1 1)) (fun _ g => g.own (parseSegment (segBody 1 1)) = none) ∧
    Comes 0x02 (withGroup (withOwn false) fab) (fp 2 97 9 3 0 0 (segBody 1 1)) (fun _ g => g.own (parseSegment (segBody 1 1)) = some (own false) ∧
      (own false).sent = false ∧ ∃ y ∈ g.partials, g.partials.find? (fun y => y.same (parseSegment (segBody 1 1)) && y.lo = (own false).hi + 1) = some y ∧
        y.anchor = (own false).anchor ∧ y.widened = (own false).widened) ∧
    Comes 0x02 (withGroup (withOwn true) fab) (fp 2 97 9 3 0 0 (segBody 0 1)) (fun _ g => g.own (parseSegment (segBody 0 1)) = some (own true) ∧
      (own true).sent = true ∧ (parseSegment (segBody 0 1)).lo = 0 ∧ (parseSegment (segBody 0 1)).hi + 1 = g.members.length) ∧
    Comes 0x02 (withGroup (withOwn true) fab) (fp 2 97 9 3 0 0 (segBody 1 1)) (fun _ g => g.own (parseSegment (segBody 1 1)) = some (own true) ∧
      (parseSegment (segBody 1 1)).lo ≠ 0) ∧
    (Group.rank fab member1 ≠ 0 ∧ Group.rank fab member0 = 0 ∧ (∀ k, k < 2 → k = 1 ∨ (0, k) ∈ [(0, 0)]) ∧ (0, 1) ∉ [(0, 0)]) ∧
    Comes 0x03 fab (fp 3 97 9 3 0 0 (toLE 8 0 ++ toLE 4 1)) (fun t g => g.rank t ≤ rankIn g.members 97) ∧
    Comes 0x03 (withGroup member1 fab) (fp 3 65 9 3 0 0 (toLE 8 0 ++ toLE 4 0)) (fun t g => rankIn g.members 65 < g.rank t ∧
      treeChildren g.members.length (g.rank t) = []) ∧
    Comes 0x04 fab (fp 4 97 9 3 0 0 (toLE 8 0 ++ [1])) (fun _ _ => True) := by
  repeat' apply And.intro
  all_goals first | exact comes (by decide +kernel) | decide +kernel

theorem test_FabricPacketsAreHandled_views :
    Comes 0x10 (withGroup proposing fab) (fp 0x10 129 9 0 0 1 (toLE 4 129 ++ [0])) (fun t g => g.coord = fabAddr t g.part ∧ 129 ∉ g.proposal.joins ∧
      129 ∉ g.members ∧ g.part = 1 ∧ g.id = 9) ∧
    Comes 0x11 fab (fp 0x11 97 9 3 0 1 (toLE 4 97)) (fun t g => g.coord = fabAddr t g.part ∧ 97 ∈ g.members ∧ 97 ∉ g.proposal.leaves) ∧
    Comes 0x10 (withGroup member1 fab) (fp 0x10 129 9 0 0 1 (toLE 4 129)) (fun t g => g.coord ≠ fabAddr t g.part) ∧
    Comes 0x11 (withGroup member1 fab) (fp 0x11 129 9 0 0 1 (toLE 4 129)) (fun t g => g.coord ≠ fabAddr t g.part) ∧
    Comes 0x12 (withGroup { member1 with epoch := 0, state := .joining } fab) (fp 0x12 97 9 1 (listWord 0 [81]) 1 (toLE 4 81)) (fun _ g => g.epoch = 0 ∧
      g.prepared = none) ∧
    Comes 0x12 fab (fp 0x12 97 9 3 0 1 []) (fun _ g => 3 ≤ g.epoch) ∧
    Comes 0x12 (withGroup { member0 with prepared := some (4, 2, [81]) } fab) (fp 0x12 97 9 4 (listWord 0 [81, 97]) 1 (toLE 4 97)) (fun t g =>
      g.epoch < 4 ∧ g.prepared = some (4, 2, [81]) ∧ (findPart t g.part).isSome = true ∧ 2 ≤ ([81] ++ membersOf (toLE 4 97)).eraseDups.length) ∧
    Comes 0x12 fab (fp 0x12 97 9 4 (listWord 0 [81, 97]) 1 (toLE 4 97)) (fun _ g => g.epoch < 4 ∧ ([] ++ membersOf (toLE 4 97)).eraseDups.length < 2) ∧
    Comes 0x13 fab (fp 0x13 97 9 3 0 1 (zeros 9)) (fun _ g => g.epoch ≠ 0 ∧ 3 = g.epoch) ∧
    Comes 0x13 fab (fp 0x13 97 9 4 0 1 (zeros 9)) (fun _ g => 4 ≠ g.epoch ∧ g.proposal.sent = false) ∧
    Comes 0x14 fab (fp 0x14 97 9 3 0 1 (toLE 4 81)) (fun _ g => 3 ≤ g.epoch) ∧
    Comes 0x14 (withGroup coming fab) (fp 0x14 97 9 4 0 1 (toLE 4 81)) (fun _ g => g.epoch < 4 ∧ (g.commit.any fun x => x.1 = 4 && x.2.2.2 = [81, 97]) = true) ∧
    Comes 0x15 fab (fp 0x15 97 9 3 0 1 (zeros 8)) (fun _ g => 3 ≤ g.epoch) ∧
    Comes 0x15 (withGroup { member0 with epoch := 0, state := .joining } fab) (fp 0x15 97 9 1 0 1 (zeros 8)) (fun _ g => g.epoch = 0) ∧
    (asked.proposal.sent = true ∧ (∃ m ∈ asked.audience, ∀ x ∈ asked.proposal.answers, x.1 ≠ m)) ∧
    ((∀ m ∈ (answered [97]).audience, ∃ x ∈ (answered [97]).proposal.answers, x.1 = m) ∧ (∃ m ∈ (answered [97]).proposal.members, m ∈ [97])) ∧
    ((∀ m ∈ (answered []).proposal.members, m ∉ (answered []).proposal.pinned) ∧ ∀ x ∈ (answered []).proposal.answers, x.2.2 = false) ∧
    (findGroup fab 1 10 = none ∧ asked.proposal.sent ≠ false ∧ proposing.takenOver = true) ∧
    Comes 0x13 (withGroup asked fab) (fp 0x13 97 9 4 0 1 (zeros 9)) (fun _ g => g.proposal.sent = true ∧ 4 = g.epoch + 1) ∧
    Comes 0x14 (withGroup member1 fab) (fp 0x14 97 9 4 0 1 (toLE 4 81)) (fun _ g => g.epoch < 4 ∧ g.commit = none) ∧
    Comes 0x15 (withGroup member1 fab) (fp 0x15 97 9 4 0 1 (zeros 8)) (fun _ g => g.epoch < 4 ∧ g.epoch ≠ 0) ∧
    Comes 0x18 fab (fp 0x18 97 9 3 0 0 (zeros 16)) (fun _ g => g.notices.find? (fun x => x.1 = 97) = none) ∧
    Comes 0x18 (withGroup noticed fab) (fp 0x18 97 9 3 0 0 (zeros 4 ++ [2] ++ zeros 11)) (fun _ g =>
      ∃ x ∈ g.notices, g.notices.find? (fun x => x.1 = 97) = some x ∧ fld (fp 0x18 97 9 3 0 0 (zeros 4 ++ [2] ++ zeros 11)).body 4 4 ≤ x.2.1) ∧
    Comes 0x1D fab (fp 0x1D 97 9 3 0 1 (zeros 34)) (fun _ _ => True) ∧
    (findGroup (withGroup proposing fab) 1 9 = some proposing ∧ proposing.coord = fabAddr fab 1 ∧ proposing.proposal.sent = false ∧
      proposing.proposal.idle = false ∧ proposing.epoch ≠ 0) ∧
    (groupWaits fab member0 = false ∧ groupWaits fab { member0 with tokens := [(0, 1)] } = true) ∧
    ((1 : Nat) < 2 ∧ treeChildren 6 0 = [1, 2, 4] ∧ treeParent 5 = 4) := by
  repeat' apply And.intro
  all_goals first | exact comes (by decide +kernel) | decide +kernel

theorem taken {p : FabPacket} {s : State} (k : (match checkArrival p s with | .take _ => true | .drop _ => false) = true) :
    ∃ t, checkArrival p s = .take t := by
  split at k
  · rename_i t h
    exact ⟨t, h⟩
  · cases k

def lost1C : FabPacket := mkPacket 96 80 0x1C 0 0 0 0 1 (zeros 32)

theorem test_an_unreachable_arrives : ∃ t, Arrives 0x1C fab lost1C t :=
  have ⟨t, h⟩ := taken (p := lost1C) (s := { fab with fabric := { fab.fabric with arrivals := fab.fabric.arrivals.erase lost1C } }) (by decide +kernel)
  ⟨t, by decide +kernel, by decide +kernel, by decide +kernel, h⟩

def withPower (f : Power → Power) : State := { rdy with power := f rdy.power }
def capPkt (cap burst win fa ca : Nat) : Packet := pkt 0x801 16 [(4, cap), (4, burst), (2, win), (2, fa), (2, ca)]
def freqPkt (n f : Nat) : Packet := pkt 0x803 4 [(1, n), (1, f)]
def capGood (s : State) (c : Packet) : Prop :=
  (par c 0 4 = 0 ∨ 2500 ≤ par c 0 4 ∧ par c 0 4 ≤ 9500) ∧
    (par c 4 4 = 0 ∨ (if par c 0 4 = 0 then s.power.cap else par c 0 4) ≤ par c 4 4 ∧ par c 4 4 ≤ 10800) ∧
    par c 8 2 ≤ 60 ∧ (par c 10 2 = 0 ∨ 1000 ≤ par c 10 2 ∧ par c 10 2 ≤ 7200) ∧ (par c 12 2 = 0 ∨ 1000 ≤ par c 12 2 ∧ par c 12 2 ≤ 6000)
/-- Partition 1 at 69 steps; partition 2, in the same half, at another frequency. -/
def commit1 : Partition := { part1 with freq := 2 }
def rival (f : Nat) : State := { rdy with partitions := [part1, { Partition.make 2 0x4 false 1 with freq := f }] }
def coolPkt (inlet flow : Nat) : Packet := pkt 0x901 8 [(2, inlet), (2, flow)]
def respPkt (warn stale en : Nat) : Packet := pkt 0x903 8 [(2, warn), (2, stale), (1, en)]
def inletOk (c : Packet) : Bool := decide (500 ≤ sfld16 c.inl 0) && decide (sfld16 c.inl 0 ≤ 5000) && decide (par c 2 2 ≤ 2000)

theorem test_PowerAndCoolingAreSetAndRead :
    (Meets 0x0801 rdy (capPkt 9500 10800 60 7200 6000) (fun _ c => (2500 ≤ par c 0 4 ∧ par c 0 4 ≤ 9500) ∧ (par c 0 4 ≤ par c 4 4 ∧ par c 4 4 ≤ 10800) ∧
      par c 8 2 ≤ 60 ∧ (1000 ≤ par c 10 2 ∧ par c 10 2 ≤ 7200) ∧ (1000 ≤ par c 12 2 ∧ par c 12 2 ≤ 6000) ∧ anyCommitted rdy = false) ∧
    Meets 0x0801 rdy (capPkt 0 0 0 0 0) (fun _ c => par c 0 4 = 0 ∧ par c 4 4 = 0 ∧ par c 8 2 = 0 ∧ par c 10 2 = 0 ∧ par c 12 2 = 0) ∧
    Meets 0x0801 rdy (capPkt 2499 0 0 0 0) (fun _ c => par c 0 4 ≠ 0 ∧ par c 0 4 < 2500) ∧
    Meets 0x0801 rdy (capPkt 9500 9499 0 0 0) (fun _ c => par c 4 4 ≠ 0 ∧ par c 4 4 < par c 0 4) ∧
    Meets 0x0802 rdy (pkt 0x802 16 [(8, 1024), (4, 2112)]) (fun q c => par c 0 8 % 64 = 0 ∧ 2112 ≤ par c 8 4 ∧
      (paramBuffer rdy q c (par c 0 8) (par c 8 4)).toOption.isSome) ∧
    (pair1.operator = false ∧ ownerOf rdy 2 = none) ∧
    Meets 0x0803 rdy (freqPkt 1 0) (fun _ c => par c 0 1 ≤ 15 ∧ par c 1 1 = 0 ∧ findPart rdy 1 = some part1 ∧ part1.scrubbing = false) ∧
    Meets 0x0803 (rival 3) (freqPkt 1 2) (fun _ c => par c 1 1 = 2 ∧ findPart (rival 3) 1 = some part1 ∧ part1.scrubbing = false ∧
      ∃ y ∈ (rival 3).partitions, y.num ≠ 1 ∧ y.freq ≠ 0 ∧ y.freq ≠ par c 1 1 ∧ ∃ h ∈ halvesOf y, h ∈ halvesOf part1) ∧
    Meets 0x0803 (rival 2) (freqPkt 1 2) (fun _ c => par c 1 1 ≠ 0 ∧ findPart (rival 2) 1 = some part1 ∧
      ¬∃ y ∈ (rival 2).partitions, y.num ≠ 1 ∧ y.freq ≠ 0 ∧ y.freq ≠ par c 1 1 ∧ ∃ h ∈ halvesOf y, h ∈ halvesOf part1)) ∧
    (Meets 0x0804 rdy (pkt 0x804 4 [(1, 0), (1, 1)]) (fun q c => par c 0 1 = 0 ∧ (namedPart q c (par c 1 1)).toOption = some 1 ∧ findPart rdy 1 = some part1) ∧
    Meets 0x0804 rdy (pkt 0x804 4 [(1, 1), (1, 1)]) (fun q c => par c 0 1 = 1 ∧ par c 1 1 ≤ 63 ∧ q.operator = true ∧
      (findPair (fetchedState (pkt 0x804 4 [(1, 1), (1, 1)]) rdy) (BitVec.ofNat 6 (par c 1 1))).any (fun x => x.part = some 1) = true ∧ part1.confidential = false) ∧
    Meets 0x0804 rdy (pkt 0x804 4 [(1, 3)]) (fun q c => 2 ≤ par c 0 1 ∧ par c 0 1 ≤ 3 ∧ q.operator = true ∧ anyConfidential rdy = false) ∧
    Meets 0x0901 rdy (coolPkt 5000 79) (fun _ c => inletOk c = true ∧ 1 ≤ par c 2 2 ∧ par c 2 2 ≤ 79) ∧
    Meets 0x0901 rdy (coolPkt 500 2000) (fun _ c => inletOk c = true ∧ 79 < par c 2 2) ∧
    Meets 0x0901 rdy (coolPkt 499 80) (fun _ c => sfld16 c.inl 0 < 500) ∧
    Meets 0x0901 rdy (coolPkt 4000 2001) (fun _ c => 2000 < par c 2 2) ∧
    Meets 0x0902 rdy (pkt 0x902 16 [(8, 1024), (4, 128)]) (fun q c => par c 0 8 % 64 = 0 ∧ 128 ≤ par c 8 4 ∧
      (paramBuffer rdy q c (par c 0 8) (par c 8 4)).toOption.isSome) ∧
    Meets 0x0903 rdy (respPkt 149 3600 1) (fun _ c => (105 ≤ par c 0 2 ∧ par c 0 2 ≤ 149) ∧ par c 2 2 ≤ 3600) ∧
    Meets 0x0903 rdy (respPkt 0 0 0) (fun _ c => par c 0 2 = 0 ∧ par c 2 2 ≤ 3600) ∧
    Meets 0x0903 rdy (respPkt 104 3600 1) (fun _ c => par c 0 2 ≠ 0 ∧ par c 0 2 < 105) ∧
    Meets 0x0903 rdy (respPkt 105 3601 1) (fun _ c => 3600 < par c 2 2)) := by
  repeat' apply And.intro
  all_goals first | exact meets (by decide +kernel) | decide +kernel

/-- An admission always needs the floor's 800 W, and what it needs is enough for it: both sides of the test are met. -/
theorem test_an_admission_is_met_or_not (freq : Nat → Nat) :
    10 * 0 < admissionNeed freq ∧ admissionNeed freq ≤ 10 * ({ Thermal.fresh with effCap := admissionNeed freq } : Thermal).effCap := by
  refine ⟨?_, ?_⟩
  · simp only [admissionNeed]
    omega
  · show admissionNeed freq ≤ 10 * admissionNeed freq
    omega

/-- With partition 1 committed and no thermal allowance, a cap of 2,500 W breaks the admission: the effective cap is 0. -/
def coldCap : State := { with1 commit1 with thermal := { rdy.thermal with pTh := 0 } }

theorem test_a_cap_breaks_an_admission :
    Meets 0x0801 coldCap (capPkt 2500 0 0 0 0) (fun _ c => 2500 ≤ par c 0 4 ∧ anyCommitted coldCap = true ∧
      (setPower (slice c.inl 0 16) (fetchedState (capPkt 2500 0 0 0 0) coldCap)).thermal.effCap = 0) := by
  exact meets (by decide +kernel)

def est (e : Nat) (suspect : Bool) : State := withPower fun p => { p with estSince := e, corrSuspect := suspect }
def stretched (xs : List Nat) : State := withPower fun p => { p with stretched := xs }
def atN (n t : Nat) : State := withPower fun p => { p with nEast := n, targetEast := t }
def atSet (n t v : Nat) : State := withPower fun p => { p with nEast := n, targetEast := t, setEast := v }
/-- `k` plot regulators of tract 0 have failed. -/
def failed (d k : Nat) : State := withPower fun p => { p with regulators := (List.range k).map fun i => ⟨d, i, false, true, 0⟩ }
def excess (n : Nat) : State := withPower fun p => { p with regulators := [⟨0, 5, false, false, n⟩] }
def tractAt (t : Nat) (f : TractRec → TractRec) (s : State) : State := updTract t f s
def groveRoom (a : Nat) (e : Nat) : State :=
  updTract 0 (fun r => { r with power := .poweringOn }) (withPower fun p => { p with allowance := a, energyHist := [e] })
def sample1 : PowerSample := ⟨List.replicate 64 (List.replicate 10 0), 1800, 4000000⟩
def shares : List Share := [⟨0, 93750, 56250, 150000, 150000⟩, ⟨1, 0, 0, 0, 0⟩]

theorem test_PowerIsKeptWithinItsLimits :
    (alive rdy = true ∧ sample1.wf = true) ∧
    ((withPower fun p => { p with brake := true }).power.brake = true ∧ ({ rdy with thermal := { rdy.thermal with abrupt := true } } : State).thermal.abrupt = true) ∧
    (([1, 2].take 1).sum ≤ 1 * 4000 * 2 ∧ 20000 * shares.length ≤ 40000 ∧ commonLevel shares 40000 + 1 < 2 ^ 24) ∧
    ((est 0 false).power.estSince = 0 ∧ (est 16 false).power.estSince ≠ 0 ∧ 4 * 16 ≤ 5 * (4 * 5) ∧ 4 * (4 * 5) ≤ 5 * 16 ∧ 4 * 20 ≤ 5 * (4 * 4) ∧
      5 * (4 * 4) < 4 * 21 ∧ (est 21 true).power.corrSuspect = true ∧ 5 * 15 < 4 * (4 * 5)) ∧
    (halfDroops (stretched [64]) true = true ∧ halfDroops (stretched [64]) false = false ∧ nOf (atN 32 33) true < targetOf (atN 32 33) true ∧
      nOf (atN 32 32) true = targetOf (atN 32 32) true ∧ targetOf (atN 96 95) true < nOf (atN 96 95) true) ∧
    ((atSet 32 33 0).power.setEast < setOf (targetOf (atSet 32 33 0) true) ∧ setOf (targetOf (atSet 32 33 (setOf 33)) true) ≤ (atSet 32 33 (setOf 33)).power.setEast ∧
      setOf (targetOf (atSet 33 33 (setOf 33 + 1)) true) ≤ (atSet 33 33 (setOf 33 + 1)).power.setEast) ∧
    (ownerOf (stretched [0]) ((0#10).toNat / 16) = some part1 ∧ (0#10).toNat ∈ (stretched [0]).power.stretched) ∧
    ((findRegulator (excess 9) 0 5).excess = 9 ∧ (findRegulator (excess 9) 0 5).suspect = false ∧ (findRegulator (excess 9) 0 5).failed = false ∧
      (findRegulator (withPower fun p => { p with regulators := [⟨0, 5, true, false, 9⟩] }) 0 5).suspect = true) ∧
    (¬(15 ≤ plotsBad rdy 0 ↔ 15 ≤ plotsBad (failed 0 15) 0) ∧ (15 ≤ plotsBad rdy 0 ↔ 15 ≤ plotsBad (failed 0 14) 0)) ∧
    ((findTract (tractAt 0 (fun r => { r with paused := true }) (groveRoom 0 4)) 0).paused = true ∧ (findTract (groveRoom 0 4) 0).paused = false) ∧
    ((findTract (tractAt 0 (fun r => { r with power := .off }) rdy) 0).power = .off ∧ tractWanted (tractAt 0 (fun r => { r with power := .off }) rdy) 0 = false) ∧
    ((1023#10).toNat ∉ (stretched []).power.stretched ∧ (1023#10).toNat ∈ (stretched [1023]).power.stretched ∧
      ownerOf (stretched [1023]) ((1023#10).toNat / 16) = none) ∧
    (regulatorWf 0 1023 = true ∧ regulatorWf 23 31 = true ∧ regulatorWf 22 63 = true ∧ (findRegulator (failed 0 1) 0 0).failed = true ∧
      (findRegulator (failed 0 1) 0 1).failed = false) ∧
    (2 * 10000 < 20001 ∧ (20000 ≤ 2 * 10000 ∧ 5 * 10000 + 20000 < 4 * 20000) ∧ (17500 ≤ 2 * 10000 ∧ 4 * 17500 ≤ 5 * 10000 + 20000) ∧
      (findRegulator (excess 8) 0 5).excess ≠ 9) ∧
    (plotsBad (failed 0 2) (0 / 16) ≤ 2 ∧ (3 ≤ plotsBad (failed 0 6) 0 ∧ plotsBad (failed 0 6) 0 ≤ 6 ∧ chargeOf (failed 0 6) 0 = 0) ∧ 7 ≤ plotsBad (failed 0 7) 0) ∧
    (5 ≤ failedOn (failed 23 5) 23 ∧ ¬5 ≤ failedOn (failed 1 4) 1 ∧ 9 ≤ failedOn (failed 22 9) 22 ∧ ¬9 ≤ failedOn (failed 2 8) 2) ∧
    (started rdy = true ∧ (findTract rdy (0#6).toNat).power = .running ∧ tractWanted rdy 0 = false) ∧
    ((findTract released1 0).power = .running ∧ tractWanted released1 0 = true ∧ (findTract rdy 2).power ≠ .running ∧
      (findTract (tractAt 0 (fun r => { r with power := .parked }) released1) 0).power = .parked ∧
      tractWanted (tractAt 0 (fun r => { r with power := .parked }) released1) 0 = true) ∧
    ((findTract (groveRoom 0 4) 0).power = .poweringOn ∧ (findTract (groveRoom 0 4) 0).stepped = false ∧
      (1 ∈ tractNeighbours 0 ∧ committedOf (groveRoom 0 4) 1 = none ∧ (findTract (groveRoom 0 4) 1).power = .running ∧
        8 ∈ tractNeighbours 0 ∧ (findTract (groveRoom 0 4) 8).power ≠ .running)) ∧
    ((findTract (tractAt 63 (fun r => { r with power := .poweringOn }) rdy) 63).power = .poweringOn ∧
      ∀ k ∈ tractNeighbours 63, (findTract rdy k).power ≠ .running) ∧
    (findTract (tractAt 0 (fun r => { r with power := .poweringOn, stepped := true }) rdy) 0).stepped = true := by
  repeat' apply And.intro
  all_goals decide +kernel

theorem test_a_grove_has_room_or_not (a : Nat) (h : a = 100 * Config.groveCharge + 1) :
    100 * Config.groveCharge + packageEstimate (groveRoom a 4) ≤ (groveRoom a 4).power.allowance ∧
      (groveRoom 0 4).power.allowance < 100 * Config.groveCharge + packageEstimate (groveRoom 0 4) := by
  refine ⟨?_, ?_⟩
  · have h1 : packageEstimate (groveRoom a 4) = 1 := by
      unfold packageEstimate
      show 4 / 4 = 1
      rfl
    have h2 : (groveRoom a 4).power.allowance = a := rfl
    omega
  · show 0 < 100 * Config.groveCharge + 1
    omega

/-! ### Cooling -/

def withThermal (f : Thermal → Thermal) : State := { rdy with thermal := f rdy.thermal }
/-- One sample of an area of a die. -/
def warm (d i : Nat) (v : Int) : State := withThermal fun t => { t with sensors := [{ Sensor.fresh d i with hist := [v] }] }
/-- Eight areas of L23 that stood at 0 for ten samples. -/
def steady (abrupt : Bool) : State :=
  withThermal fun t => { t with abrupt := abrupt, sensors := (List.range 8).map fun i => { Sensor.fresh 23 i with hist := List.replicate 10 0 } }
def rise (v : Int) : List Reading := (List.range 8).map fun i => ⟨23, i, v⟩
def taken' (rs : List Reading) (s : State) : State :=
  heatTracts ((((rs.filter fun r => r.die = 0).map fun r => r.sensor / 2).eraseDups).foldl (fun s p => checkPair p s) (rs.foldl (fun s r => takeReading r s) s))
def leaky (d : Nat) (v : Int) (l : Int) : State :=
  withThermal fun t => { t with sensors := [{ Sensor.fresh d 0 with hist := [v], leak := some l }] }

theorem test_CoolingResponses :
    alive rdy = true ∧
    (([⟨0, 2046, 1680⟩, ⟨0, 2047, 1680⟩] : List Reading).all Reading.wf = true ∧ (tripCause (taken' [⟨0, 2046, 1680⟩, ⟨0, 2047, 1680⟩] rdy)).isSome = true) ∧
    (tripCause (taken' [⟨0, 0, 1631⟩] rdy) = none ∧ risingFast (taken' [⟨0, 0, 1631⟩] rdy) < 8 ∧ anyAbove clampLimit (taken' [⟨0, 0, 1631⟩] rdy) = false) ∧
    ((rise 33).all Reading.wf = true ∧ tripCause (taken' (rise 33) (steady false)) = none ∧ (taken' (rise 33) (steady false)).thermal.abrupt = false ∧
      8 ≤ risingFast (taken' (rise 33) (steady false)) ∧ anyAbove clampLimit (declareAbrupt (taken' (rise 33) (steady false))) = false) ∧
    (tripCause (taken' [⟨22, 63, 1520⟩] rdy) = none ∧ risingFast (taken' [⟨22, 63, 1520⟩] rdy) < 8 ∧
      anyAbove clampLimit (taken' [⟨22, 63, 1520⟩] rdy) = true) ∧
    (tripCause (taken' (rise 1632) (steady false)) = none ∧ 8 ≤ risingFast (taken' (rise 1632) (steady false)) ∧
      anyAbove clampLimit (declareAbrupt (taken' (rise 1632) (steady false))) = true) ∧
    (plotSuspect (warm 0 0 320) 0 = false ∧
      implausible { Sensor.fresh 0 0 with hist := [33, 0] } { Sensor.fresh 0 1 with hist := [3, 0] } = true ∧
      implausible { Sensor.fresh 0 0 with hist := [32, 0] } { Sensor.fresh 0 1 with hist := [3, 0] } = false ∧
      implausible { Sensor.fresh 0 0 with hist := [33, 0] } { Sensor.fresh 0 1 with hist := [4, 0] } = false) ∧
    ((1 : Nat) ≤ 23 ∧ elasticLimit 22 = 16 * 92 ∧ tripLimit 23 = 16 * 105) ∧
    (risingFast ((rise 32).foldl (fun s r => takeReading r s) (steady true)) < 8 ∧
      (steady true).thermal.abrupt = true ∧ 8 ≤ risingFast ((rise 33).foldl (fun s r => takeReading r s) (steady true))) ∧
    ((withThermal fun t => { t with abrupt := true }).thermal.abrupt = true ∧ rdy.thermal.sensors = [] ∧ rdy.thermal.abrupt = false) ∧
    (leakLayer 1 = true ∧ leakLayer 22 = true ∧ (findSensor (leaky 2 0 97) 2 0).leak = some 97 ∧ (findSensor (leaky 2 0 97) 2 0).reading + 96 < 97) ∧
    (meanWatts perSecond (withPower fun p => { p with measHist := [250000 * 4000 * 1000] }).power.measHist = 1000 ∧ meanWatts perSecond rdy.power.measHist < 1000) ∧
    (anyAbove elasticLimit (warm 2 0 1472) = true ∧ anyAbove elasticLimit (warm 2 0 1471) = false ∧ (∀ d, d < 24 → dieTemp (warm 2 0 1424) d + 48 ≤ elasticLimit d) ∧
      ∃ d, d < 24 ∧ elasticLimit d < dieTemp (warm 2 0 1425) d + 48) ∧
    ((withThermal fun t => { t with clamp := true }).thermal.clamp = true ∧ rdy.thermal.warning = false ∧ rdy.thermal.clamp = false ∧ rdy.thermal.flowLow = false ∧
      (withThermal fun t => { t with flowLow := true }).thermal.flowLow = true) := by
  repeat' apply And.intro
  all_goals decide +kernel

/-- Against R_nom, which no proof knows, both sides of the comparisons are met. -/
theorem test_r_nom_is_passed_or_not :
    2 * (withThermal fun t => { t with rMeas := -1 }).thermal.rMeas < 3 * Config.rNom ∧
      3 * Config.rNom ≤ 2 * (withThermal fun t => { t with rMeas := 2 * Config.rNom }).thermal.rMeas := by
  refine ⟨?_, ?_⟩
  · show 2 * (-1 : Int) < 3 * Config.rNom
    omega
  · show 3 * (Config.rNom : Int) ≤ 2 * (2 * Config.rNom)
    omega

theorem test_the_clamp_holds_or_not : clampHolds (withThermal fun t => { t with rMeas := -1 }) = false ∧ clampHolds (warm 2 0 1520) = true := by
  have h1 : anyAbove clampLimit (withThermal fun t => { t with rMeas := -1 }) = false := by decide +kernel
  have h2 : anyAbove clampLimit (warm 2 0 1520) = true := by decide +kernel
  have h3 : ¬(3 * (Config.rNom : Int) ≤ 2 * -1) := by omega
  refine ⟨?_, by simp [clampHolds, h2]⟩
  rw [clampHolds, h1, Bool.or_false]
  exact decide_eq_false h3

/-- An area of L2 that has read -1,000 lies more than 6 K below any interpolation of its neighbours at 0; one that reads at least the
interpolation does not. -/
theorem test_an_area_is_hidden_or_not :
    (leaky 2 (-1000) 0).thermal.sensors.length = 1 ∧ (findSensor (leaky 2 (-1000) 0) 2 0).reading + 96 < interpolated (leaky 2 (-1000) 0) 2 0 ∧
      ∃ v : Int, interpolated (leaky 2 v v) 2 0 ≤ (findSensor (leaky 2 v v) 2 0).reading + 96 := by
  have h : ∀ v l : Int, interpolated (leaky 2 v l) 2 0 = 0 + ((Config.selfHeating 2 0 * Config.freeNat 0 (64 * 2 + 0) * 16 / 10000000 : Nat) : Int) :=
    fun _ _ => rfl
  refine ⟨rfl, ?_, ((Config.selfHeating 2 0 * Config.freeNat 0 (64 * 2 + 0) * 16 / 10000000 : Nat) : Int), ?_⟩
  · rw [h]
    show (-1000 : Int) + 96 < _
    omega
  · rw [h]
    show _ ≤ ((Config.selfHeating 2 0 * Config.freeNat 0 (64 * 2 + 0) * 16 / 10000000 : Nat) : Int) + 96
    omega

/-- An area of L2 whose leakage alone is high, and one that agrees with both estimates while an estimate stands for it. -/
theorem test_one_estimate_is_high_or_both_agree : ∃ v : Int,
    ((findSensor (leaky 2 v (v + 97)) 2 0).reading + 96 < v + 97 ↔ interpolated (leaky 2 v (v + 97)) 2 0 ≤ (findSensor (leaky 2 v (v + 97)) 2 0).reading + 96) ∧
    (v ≤ (findSensor (leaky 2 v v) 2 0).reading + 96 ∧ (findSensor (leaky 2 v v) 2 0).reading ≤ v + 96 ∧
      (findSensor (leaky 2 v v) 2 0).reading ≤ interpolated (leaky 2 v v) 2 0 + 96) := by
  have h : ∀ v l : Int, interpolated (leaky 2 v l) 2 0 = 0 + ((Config.selfHeating 2 0 * Config.freeNat 0 (64 * 2 + 0) * 16 / 10000000 : Nat) : Int) :=
    fun _ _ => rfl
  have r : ∀ v l : Int, (findSensor (leaky 2 v l) 2 0).reading = v := fun _ _ => rfl
  refine ⟨((Config.selfHeating 2 0 * Config.freeNat 0 (64 * 2 + 0) * 16 / 10000000 : Nat) : Int), ?_, ?_⟩ <;> rw [r, h] <;> omega

/-! ### A running step whose one operator has a given code -/

/-- No operand field names anything; the word at 0x10 names a group or a cache, that at 0x14 a rank, and those from 0x24 on
a cache with its layer. -/
def opRaw (code handle root : Nat) : List Byte :=
  padTo 64 (toLE 2 code ++ zeros 6 ++ List.replicate 8 0xFF ++ toLE 4 handle ++ toLE 4 root ++ List.replicate 12 0xFF ++ toLE 4 handle
    ++ List.replicate 24 0xFF)

def planOf (raw : List Byte) : Plan := { plan3 0 150 with ops := [raw] }
def stepping (raw : List Byte) : Partition :=
  let x := { partK none with plans := [planOf raw] }
  { x with contexts := setAt part1.contexts 0 fun c => { c with step := some (RunningStep.start x 0 ⟨3, [held 5 0 false], false, 0, 16⟩) } }
/-- Partition 1, a member of group 9, runs the step. -/
def runs1 (raw : List Byte) : State := { fab with partitions := [stepping raw], unitsPassed := true }

/-- What operator 0 of partition 1 finds with no read error, the pages at `extra` among its reads. -/
def startsCheck (code : Nat) (s : State) (extra : Env → List Nat) (h : Env → Bool) : Bool :=
  match opEnv s 1 code 0 with
  | none => false
  | some e =>
    match e.descriptors .none s, e.step s with
    | (true, _), _ => false
    | _, none => false
    | (false, d), some r =>
      let u := asReadLines .none (e.changed .none (extra e) d) (e.readIn r .none (extra e) d)
      started s && tractsRun s 1 0 && (e.step u).isSome && decide (linesIn u (some .lost) (e.reads u) = []) &&
        decide (linesIn u (some .lost) (extra e) = []) && h e

/-- Operator 0 of partition 1's step may start, and `h` holds of it. -/
def Begins (code : Nat) (s : State) (extra : Env → List Nat) (h : Env → Prop) : Prop :=
  ∃ e d t u, Starts code 1 (0#15).toNat .none (extra e) e s d t u ∧ h e

theorem begins {code : Nat} {s : State} {extra : Env → List Nat} {h : Env → Prop} [d : ∀ e, Decidable (h e)]
    (k : startsCheck code s extra (fun e => decide (h e)) = true) : Begins code s extra h := by
  unfold startsCheck at k
  split at k
  · cases k
  · rename_i e he
    split at k
    · cases k
    · cases k
    · rename_i d r hd hr
      simp only [Bool.and_eq_true, decide_eq_true_eq] at k
      obtain ⟨⟨⟨⟨⟨h1, h2⟩, h3⟩, h4⟩, h5⟩, h6⟩ := k
      exact ⟨e, d, _, _, ⟨h1, h2, he, hd, ⟨r, hr, rfl⟩, rfl, h3, h4, h5⟩, h6⟩

def localCodes : List Nat :=
  [0x0001, 0x0002, 0x0010, 0x0011, 0x0012, 0x0020, 0x0030, 0x0031, 0x0032, 0x0040, 0x0041, 0x0042, 0x0050, 0x0051, 0x0060, 0x0061, 0x0062,
    0x0063, 0x0070, 0x0090, 0x0091, 0x0120, 0x0150, 0x0151, 0x0160, 0x0161, 0x0162]

theorem starts_for_each : (localCodes.all fun c => startsCheck c (runs1 (opRaw c 9 0)) (fun _ => []) fun _ => true) = true := by decide +kernel

/-- The plan's own SCALE_PASS, whose source line is lost; the same where an operator before it has written that line. -/
def lostSource : State := { runs1 scaleOp with partitions := [{ stepping scaleOp with regions := [small 0 0] }], tags := [⟨0, false, .lost⟩] }
def twice : Plan := { planOf scaleOp with ops := [padTo 64 (toLE 2 0x0002 ++ zeros 6 ++ toLE 2 0xFFFF ++ toLE 2 0), scaleOp] }
def lostOwn : State :=
  { lostSource with partitions := [{ stepping scaleOp with
      regions := [small 0 0], plans := [twice]
      contexts := setAt part1.contexts 0 fun c => { c with step := some { RunningStep.start (stepping scaleOp) 0 ⟨3, [held 5 0 false], false, 0, 16⟩ with done := [0] } } }] }
/-- A descriptor line comes back changed beyond correction. -/
def badDescriptor : ReadErrors := ⟨[8, 9, 10].map fun p => (15 * 2 ^ 31 + 1024, p, BitVec.ofNat 8 p), [1024], []⟩
/-- The lost lines that operator `op` reads, and whether it could write them again. -/
def losesOwn (s : State) (op : Nat) : Option Bool :=
  (opEnv s 1 0x0001 op).bind fun e => (e.step s).bind fun r => if (e.descriptors .none s).1 then none else
    let u := asReadLines .none (e.changed .none [] (e.descriptors .none s).2) (e.readIn r .none [] (e.descriptors .none s).2)
    (e.step u).bind fun r' => match linesIn u (some .lost) (e.reads u) with
      | [] => none
      | l :: ls => some ((l :: ls).all fun k => (e.rewritable u r').contains k)

/-- A cache that spans group 9, which POSITION divides, with sequence 0 open; and one of this device. -/
def spanK (layout : Nat) (seqs : List SeqRec) : State :=
  let p := stepping (opRaw 0x22 11 0)
  { runs1 (opRaw 0x22 11 0) with partitions := [{ p with caches := [{ cache0 with layout := layout, group := if layout = 0 then none else some 9, seqs := seqs }] }] }
def spanQ (layout : Nat) : State :=
  let p := stepping (opRaw 0x21 11 0)
  { runs1 (opRaw 0x21 11 0) with partitions := [{ p with caches := [{ cache0 with layout := layout, group := some 9 }] }] }
def contribution (r : Nat) : Contribution := ⟨r, 0, [], [0, 0, 128, 63], [], 1, []⟩
def viewsOf (e : Env) (s : State) (others : List Contribution) : Bool :=
  (e.allViews s others fun _ => (e.view s (e.f2 0x08)).dims).isSome

def clearing (s : State) (e : Env) : List Nat :=
  (clearingReads e s).filter fun a => decide (lineLayer (lineOf a) < 16) || !(jobGranules s (e.unitJobs s [])).contains (granuleOfLine (lineOf a))
def onCache (s : State) (h : Cache → Group → Bool) (e : Env) : Bool :=
  (e.cache s 0x10).any fun x => x.2.layout ≠ 0 && (x.2.group.bind (findGroup s 1)).any (h x.2)
theorem test_OperatorsRunWhenTheyMay :
    (∀ c ∈ localCodes, Begins c (runs1 (opRaw c 9 0)) (fun _ => []) fun _ => True) ∧
    (started rdy = true ∧ tractsRun (runs1 scaleOp) 1 1 = true ∧ (opEnv (runs1 scaleOp) 1 0x0001 1).isNone = true) ∧
    tractsRun rdy 1 0 = false ∧
    (started lostSource = true ∧ tractsRun lostSource 1 0 = true ∧ losesOwn lostSource 0 = some false) ∧
    (started lostOwn = true ∧ tractsRun lostOwn 1 1 = true ∧ losesOwn lostOwn 1 = some true) ∧
    ((opEnv (runs1 scaleOp) 1 0x0001 0).any fun e => (e.descriptors badDescriptor (runs1 scaleOp)).1 && (e.step (runs1 scaleOp)).isSome) = true ∧
    (started (runs1 (opRaw 0x21 9 0)) = true ∧ tractsRun (runs1 (opRaw 0x21 9 0)) 1 0 = true ∧
      ∀ c ∈ [0x21, 0x22, 0x80, 0x81, 0x82, 0x83, 0x84], (opEnv (runs1 (opRaw c 9 0)) 1 c 1).isNone = true) ∧
    ((opEnv (runs1 (opRaw 0x21 9 0)) 1 0x21 0).any fun e => clearingReady [] e (runs1 (opRaw 0x21 9 0)) &&
      (e.unitJobs (runs1 (opRaw 0x21 9 0)) []).all (fun j => !unitBusy (findUnit (runs1 (opRaw 0x21 9 0)) j.unit)) &&
      (runJobs .none (e.unitJobs (runs1 (opRaw 0x21 9 0)) []) (runs1 (opRaw 0x21 9 0))).1) = true ∧
    Begins 0x21 (runs1 (opRaw 0x21 9 0)) (clearing (runs1 (opRaw 0x21 9 0))) (fun _ => True) ∧
    ((opEnv (spanQ 2) 1 0x21 0).any fun e => !clearingReady [] e (spanQ 2)) = true ∧
    Begins 0x22 (spanK 0 [⟨0, 0, 0, 0⟩]) (fun _ => []) (fun e => (e.cache (spanK 0 [⟨0, 0, 0, 0⟩]) 0x10).any (fun x => x.2.layout = 0) = true) ∧
    Begins 0x22 (spanK 1 [⟨0, 0, 0, 0⟩]) (fun _ => []) (fun e => onCache (spanK 1 [⟨0, 0, 0, 0⟩]) (fun _ g => g.epoch ≠ 0 && !g.stopped &&
      (g.agrees.find? fun x => x.1 = g.cseq && x.2.1 = 1).isNone) e = true) ∧
    (findGroup (withGroup { member0 with epoch := 0 } fab) 1 9).any (fun g => g.epoch = 0) = true ∧
    ((⟨true, true, []⟩ : PeerAnswer).all = true ∧ (⟨true, true, []⟩ : PeerAnswer).lacks = true ∧ (⟨true, false, []⟩ : PeerAnswer).maxima = []) ∧
    (∀ c ∈ [0x80, 0x81, 0x82], Begins c (runs1 (opRaw c 9 0)) (fun _ => []) fun e => viewsOf e (runs1 (opRaw c 9 0)) [contribution 1] = true ∧
      viewsOf e (runs1 (opRaw c 9 0)) [] = false) ∧
    Begins 0x83 (runs1 (opRaw 0x83 9 0)) (fun _ => []) (fun e => (e.allViews (runs1 (opRaw 0x83 9 0)) [contribution 1] (fun c =>
      setAt (e.view (runs1 (opRaw 0x83 9 0)) (e.f2 0x08)).dims 0 fun _ => c.rows)).isSome = true) ∧
    Begins 0x84 (runs1 (opRaw 0x84 9 0)) (fun _ => []) (fun e =>
      (e.group (runs1 (opRaw 0x84 9 0))).any (fun g => e.f4 0x14 = g.rank (runs1 (opRaw 0x84 9 0))) = true) ∧
    Begins 0x84 (runs1 (opRaw 0x84 9 1)) (fun _ => []) (fun e => (e.group (runs1 (opRaw 0x84 9 1))).any (fun g => e.f4 0x14 ≠ g.rank (runs1 (opRaw 0x84 9 1)))
      = true ∧ ([contribution 1].find? (fun c => c.rank = e.f4 0x14)).isSome = true ∧ ∀ c ∈ [contribution 2], c.rank ≠ e.f4 0x14) := by
  refine ⟨?_, ?_, ?_, ?_, ?_, ?_, ?_, ?_, ?_, ?_, ?_, ?_, ?_, ?_, ?_, ?_, ?_, ?_⟩
  · intro c hc
    exact begins (List.all_eq_true.mp starts_for_each c hc)
  case refine_15 =>
    intro c hc
    simp only [List.mem_cons, List.not_mem_nil, or_false] at hc
    rcases hc with rfl | rfl | rfl
    all_goals exact begins (by decide +kernel)
  all_goals first | exact begins (by decide +kernel) | decide +kernel

def n3 : List Machine.Num := [.fin false 3 1, .nan false, .fin true 1 2]

theorem test_SumsAndOrdersAreExact :
    ([some 1, none, some 2].Perm [none, some 1, some 2] ∧ (none : Acc) ∈ [some 1, none]) ∧
    (-(2 ^ 127) < -(2 ^ 127) + (1 : Int) ∧ (2 ^ 127 - 1 : Int) < 2 ^ 127) ∧
    ((0 : Nat) < 1 ∧ (0 ≤ Fmt.f16.maxCode) ∧ (toBinary .f16 (.fin false 65504 1)).1 = Fmt.f16.maxCode ∧ (toBinary .f16 (.fin true 65520 1)).1 = 2 ^ 15 + Fmt.f16.maxCode + 1) ∧
    (∀ x ∈ n3, 0 < x.den) ∧ (rankOrder true n3).head? = some 0 ∧ (expertRows [0, 2, 2, 5] 5).1 = [(0, 2), (2, 2), (2, 5)] ∧
    ((0 : Nat) < 4 ∧ visible true 4 5 2 = true ∧ visible true 4 5 1 = false ∧ visible true 0 5 6 = false) ∧
    (convIn 0 2 2 1 1 8 = some 1 ∧ convIn 0 0 2 1 1 8 = none ∧ (0 : Nat) < 2 ∧ convBack 1 2 2 1 1 4 = some 0) ∧
    ((0 : Nat) < 1 ∧ ((num32 f32NaN).isNan || (num32 0).isNan) = true) := by
  refine ⟨⟨List.Perm.swap .., ?_⟩, ?_⟩
  · decide
  · decide +kernel

theorem test_ConversionToInt8 :
    ((0 : Nat) < 2 ∧ 254 ≤ 127 * 2 ∧ 127 * 2 < 255) ∧ toInt8 (.fin true 5 2) = (254, .plain) ∧ toInt8 (.fin false 1 2) = (0, .zero) ∧
    toInt8 (.fin false 255 2) = (127, .saturated) ∧ toInt8 (.nan true) = (0, .nonfinite) := by decide +kernel

/-- That nothing waits on `rdy` is `test_SettlingAQuietBlockDoesNothing`. -/
theorem test_WhatACommandDoesNotTouch :
    ((findPair rdy 0).any (fun q => canFetch rdy q) = true ∧
      (findPair rdy 0).any (fun q => match passChecks (fetchedState (pkt 0x0303 5 [(4, 1)]) rdy) q (pkt 0x0303 5 [(4, 1)]) with
        | .error _ => true
        | .ok _ => false) = true) ∧
    Meets 0x0B12 rdy (pkt 0x0B12 8 [(4, 0), (4, 0)]) (fun _ _ => True) ∧
    (Sound rdy ∧ absorbedLayer rdy = none ∧ (5 : Nat) ∉ [4, 6] ∧ lineOf 64 ∉ [0, 63].map lineOf) ∧ (Sound absorbing ∧ onAbsorbed absorbing 1 = true) ∧
    ((opEnv (runs1 scaleOp) 1 0x0001 0).any (fun e => (e.tensor (runs1 scaleOp) 0).locus ≠ 1 && !(e.tensor (runs1 scaleOp) 0).fmt.isBlock &&
      !(e.tensor (runs1 scaleOp) 0).health && !((e.tensor (runs1 scaleOp) 0).addrs (e.dims (e.tensor (runs1 scaleOp) 0))).contains 64)) = true := by
  repeat' apply And.intro
  all_goals first | exact meets (by decide +kernel) | decide +kernel

/-! ### Each check of well-formedness refuses an ill-formed command -/

def illFormed : List Instr :=
  [.queueStatus { pkt 0x0103 4 [] with inl := zeros 95 }, .queueStatus (pkt 0x0102 4 []), .data (fp 2 97 9 3 0 0 []),
    .flitReceive 3 (zeros 255) false, .regulatorFailure 22 64, .regulatorFailure 23 32, .pathCheck 24 0 0 0,
    .sensorSample [⟨0, 2048, 0⟩], .sensorSample [⟨23, 64, 0⟩], .abruptRecheck [⟨24, 0, 0⟩], .powerPeriod ⟨[], 1800, 0⟩,
    .sliceBoundary 0 ⟨0, 0, false, 132, 0, false, false⟩, .scrubRead { cleanScrub 2 with symbols := [(76, 1)] }, .scrubRead (cleanScrub 1), .scrubRead (cleanScrub 23),
    .leakageMeasure 23 0 0, .leakageMeasure 0 0 0, .refreshDue 0 1, .scrubPassStart 23, .wholeLayerFault 24, .laneFailing ⟨0, 23, 0, false⟩,
    .laneSwitchOver 0 23, .ovfWindowExpiry (.overflow 1), .cxlMemRead 63 2 .none, .cxlMemWrite 1 (zeros 64) .none,
    .coldStart { quietStart with badLayers := [24] }, .coldStart { quietStart with badLanes := [⟨0, 23, 0, false⟩] },
    .perstDeassert { quietStart with links := List.replicate 65 ⟨true, 0, 0, 0⟩ }, .coldStart { quietStart with regulators := [(23, 32)] },
    .laneFailing ⟨0, 22, 23, false⟩, .channelCommandTimeout 0 0x80000, .networkPacketArrival 0 ⟨0, (np 64 0 1 false)⟩,
    .networkPacketArrival 1 ⟨4, (np 0 1 1 false)⟩, .networkPacketArrival 0 ⟨1, { np 64 0 1 false with kind := .token, flits := 3 }⟩,
    .networkPacketArrival 0 ⟨1, { np 64 0 1 false with flits := 18 }⟩, .networkPacketArrival 0 ⟨1, { np 64 0 1 false with flits := 0 }⟩,
    .networkPacketArrival 0 ⟨1, { np 64 0 1 false with dest := .shaft 17 }⟩,
    .networkPacketArrival 0 ⟨1, { np 64 0 1 false with kind := .token, dest := .multicast 1 1 }⟩,
    .meshFlitResend 0 3, .meshWireFailing 4095 2 ⟨0, 1⟩, .meshLinkDegrade 4032 1 .down]

theorem test_ill_formed_commands_are_refused : (illFormed.all fun i => !i.wf) = true := by decide +kernel

theorem test_an_ill_formed_command_faults : exec (.wholeLayerFault 24) rdy = .fault .illFormed :=
  rfl

/-! ### The spec's own worked examples -/

/-- Example of "Number formats": one output element, and one block converted to CB8. -/
theorem test_worked_gemm_element :
    [Num.fin false 9 (2 ^ 31), .fin true 5 (2 ^ 33), .fin false 1 (2 ^ 39), .fin true 1 (2 ^ 39)].map (floorTerm 68) = [some 144, some (-20), some 0, some (-1)] ∧
      (toBinary .f32 (accNum 68 (some 123))).1 = 0x31760000 ∧ accAdd (some 124) (some (-1)) = some 123 := by decide +kernel

theorem test_worked_block :
    let r := toBlock .cb8 ([Num.fin false 500 1, .fin false 53 16, .fin true 5 1024] ++ List.replicate 29 Num.zero)
    r.1 = 0x7F ∧ r.2.1.take 4 = [0x7E, 0x45, 0x82, 0] ∧ r.2.2.take 4 = [.saturated, .plain, .plain, .zero] := by decide +kernel

/-- Example of SAMPLE: exponentials of −0.693147182 and −1.38629436 are exactly 0.5 and 0.25. -/
theorem test_worked_exponentials : fExp 0xBF317218 = 0x3F000000 ∧ fExp 0xBFB17218 = 0x3E800000 := by decide +kernel

/-- R207: the CRC of "123456789". -/
theorem test_worked_crc : crc32c [0x31, 0x32, 0x33, 0x34, 0x35, 0x36, 0x37, 0x38, 0x39] = 0xE3069283 := by decide +kernel

/-- Example of ALL_REDUCE over 6 ranks: a partial of AA128 at the base anchor, chunks of 4 ranks, shift 1. -/
def rank6 (r : Nat) (v : Int) : Partial :=
  { own false with format := 0x20, lo := r, hi := r, elems := [accBits (some v)], per := 4, shift := 1 }
def r01 : Partial := ((rank6 0 5).join (rank6 1 2)).closeChunk 6
def r23 : Partial := ((rank6 2 (-3)).join (rank6 3 7)).closeChunk 6
def r45 : Partial := ((rank6 4 3).join (rank6 5 (-2))).closeChunk 6

theorem test_worked_all_reduce :
    (r01.elems.map bitsAcc, r23.elems.map bitsAcc, r45.elems.map bitsAcc) = ([some 7], [some 4], [some 0]) ∧
    ((r01.join r23).closeChunk 6).elems.map bitsAcc = [some 5] ∧
    ((((r01.join r23).closeChunk 6).join r45).closeChunk 6).elems.map bitsAcc = [some 5] ∧
    (((r01.join r23).closeChunk 6).join r45).anchor = (rank6 0 5).anchor + 1 := by decide +kernel

/-- Example of "Host interface": HPA offset 0x1234_5678 of a window over tracts 5 and 6. -/
def window56 : Region :=
  { handle := 1, kind := 0, host := true, zero := false, lfirst := 0, lcount := 1, cfirst := 0, ccount := 16384, tracts := 0x60, filling := none }

theorem test_worked_window : window56.size = 6 * 256 * 2 ^ 20 ∧ window56.addr 0x12345678 = 0xD8455678 ∧
    window56.offset 0xD8455678 = some 0x12345678 ∧ lineCore (lineOf 0xD8455678) = 27682 ∧ lineIndex (lineOf 0xD8455678) = 1369 := by decide +kernel

/-- Example of "Root memory": logical layer 3, column 300,001, offset 0x0A40. -/
theorem test_worked_line : mkAddr 3 300001 0x0A40 = 0x6927C20A40 ∧ lineIndex (lineOf 0x6927C20A40) = 41 ∧ tractOfCore 300001 = 18 ∧
    300001 / 256 = 1171 ∧ 300001 % 256 = 225 ∧ (parityIndex 300001 41 + 6, physLayer rdy 3 300001 41) = (8, 12) ∧
    (parityIndex 300001 1000 + 6, physLayer rdy 3 300001 1000) = (6, 10) ∧ (parityIndex 27682 1369 + 6, physLayer rdy 0 27682 1369) = (16, 17) := by decide +kernel

/-- Example of "Power": 600 W shared among demands of 100, 180, 200 and 250 W. -/
def four : List Share := [⟨0, 0, 0, 100000, 100000⟩, ⟨1, 0, 0, 180000, 180000⟩, ⟨2, 0, 0, 200000, 200000⟩, ⟨3, 0, 0, 250000, 250000⟩]

theorem test_worked_sharing : four.map (·.grantAt (commonLevel four 600000)) = [100000, 166666, 166666, 166666] := by decide +kernel

/-- Example of FIXED_FREQ_SET: 64 tracts at 1.8 GHz under a cap of 8,000 W fall short by 800 W where each is charged 125 W. -/
theorem test_worked_shortfall (h : ∀ t, Config.charge t 82 = 1250) : shortfall (fun _ => 3) 8000 = 800 := by
  have k : ((List.range 64).map fun t => Config.charge t 82) = List.replicate 64 1250 := by
    rw [funext h]
    decide +kernel
  show ceilDiv (8000 + ((List.range 64).map fun t => Config.charge t 82).sum - 10 * 8000) 10 = 800
  rw [k]
  decide +kernel

/-- Example of "On-die network": grove 2,563 on an undegraded mesh. -/
theorem test_worked_distances : toShaft rdy 2563 8 = (16, false) ∧ toShaft rdy 2563 16 = (82, false) ∧ toTract rdy 2563 40 = (26, false) ∧
    toTract rdy 2563 47 = (142, false) := by decide +kernel

/-- Example of "Partitions": segments of a column of 1,504 KiB of root and 256 KiB of clearing memory. -/
theorem test_worked_segments : ((List.range 16).map segLen).sum = 1504 * 1024 ∧
    ((List.range 4).map fun i => segLen (16 + i)).sum = 256 * 1024 := by decide +kernel

end Sys2Proof.Machine.Tests
end

section
/-! SUPPORT and SETTLED STATEMENTS of the manual's scope: the row that does not test its operand (O2), and what commands that fail
or report, and writes to memory, leave as it was (O60). -/
namespace Sys2Proof.Machine

/-! ### CHANNEL_COMMAND_TIMEOUT (R26) -/

/-- The row asks nothing of its command word. -/
theorem exec_channelCommandTimeout (core : BitVec 20) (cmd : U32) (s : State) :
    exec (.channelCommandTimeout core cmd) s = .next (event (commandTimeout core.toNat cmd) s) := rfl

/-- Refutes O2: the word 0x80000 has bit 19 set, which no channel controller sets (R26), so CHANNEL_COMMAND_TIMEOUT with it is not
well formed; yet the row, which does not test its word, answers a next state. -/
theorem not_everyFormableCommandRuns : ¬ Obligations.EveryFormableCommandRuns := by
  unfold Obligations.EveryFormableCommandRuns
  intro h
  have hw : (Instr.channelCommandTimeout 0 0x80000).wf = false := by decide
  have hf : exec (.channelCommandTimeout 0 0x80000) State.reset = .fault .illFormed := (h _ _).2 hw
  rw [exec_channelCommandTimeout] at hf
  cases hf

/-! ### Writes to memory (R184, R189, R198) -/

/-- `t` comes from `s` by writes of bytes at the addresses `A` alone: what else of the state changes, what other lines hold, and,
while no layer is being absorbed, what every other byte is. -/
structure Wrote (A : Nat → Prop) (s t : State) : Prop where
  frame : t = { s with mem := t.mem, parity := t.parity, tags := t.tags, dirtyTags := t.dirtyTags, laneCounts := t.laneCounts
                       absorbed := t.absorbed, layerRegs := t.layerRegs }
  form : Memory.wf s.mem = true → Memory.wf t.mem = true
  lines : Memory.wf s.mem = true → ∀ a, (∀ b, A b → lineOf a ≠ lineOf b) → memGet t.mem a = memGet s.mem a
  bytes : Memory.wf s.mem = true → (∀ l, onAbsorbed s l = false) → ∀ a, ¬ A a → memGet t.mem a = memGet s.mem a
  whole : (∀ l, onAbsorbed s l = false) → t.absorbed = s.absorbed ∧ t.layerRegs = s.layerRegs

theorem absorbedLayer_congr {s t : State} (hl : t.layers = s.layers) : absorbedLayer t = absorbedLayer s := by
  unfold absorbedLayer layerState
  rw [hl]

/-- Which lines lie on the layer being absorbed follows from the layers and the stripes absorbed. -/
theorem onAbsorbed_congr {s t : State} (hl : t.layers = s.layers) (ha : t.absorbed = s.absorbed) (l : Nat) :
    onAbsorbed t l = onAbsorbed s l := by
  unfold onAbsorbed hasParity stripeParity layerState
  rw [absorbedLayer_congr hl, hl, ha]

namespace Wrote
variable {A B : Nat → Prop} {s t u : State}

theorem layers (h : Wrote A s t) : t.layers = s.layers := by rw [h.frame]
theorem partitions (h : Wrote A s t) : t.partitions = s.partitions := by rw [h.frame]

/-- A write on a block where no layer is being absorbed begins no absorption. -/
theorem onAbsorbed (h : Wrote A s t) (hn : ∀ l, Machine.onAbsorbed s l = false) (l : Nat) : Machine.onAbsorbed t l = false := by
  rw [onAbsorbed_congr h.layers (h.whole hn).1, hn]

/-- A step that leaves memory, absorption and what a write never touches. -/
theorem of_mem (hf : t = { s with parity := t.parity, tags := t.tags, dirtyTags := t.dirtyTags, laneCounts := t.laneCounts }) :
    Wrote A s t := by
  rw [hf]
  exact ⟨rfl, id, fun _ _ _ => rfl, fun _ _ _ _ => rfl, fun _ => ⟨rfl, rfl⟩⟩

theorem refl : Wrote A s s := of_mem rfl

theorem trans (h : Wrote A s t) (k : Wrote A t u) : Wrote A s u where
  frame := by rw [k.frame, h.frame]
  form hw := k.form (h.form hw)
  lines hw a ha := (k.lines (h.form hw) a ha).trans (h.lines hw a ha)
  bytes hw hn a ha := (k.bytes (h.form hw) (h.onAbsorbed hn) a ha).trans (h.bytes hw hn a ha)
  whole hn := ⟨(k.whole (h.onAbsorbed hn)).1.trans (h.whole hn).1, (k.whole (h.onAbsorbed hn)).2.trans (h.whole hn).2⟩

theorem mono (h : Wrote A s t) (hAB : ∀ a, A a → B a) : Wrote B s t :=
  ⟨h.frame, h.form, fun hw a ha => h.lines hw a fun b hb => ha b (hAB b hb),
    fun hw hn a ha => h.bytes hw hn a fun hA => ha (hAB a hA), h.whole⟩

/-- Writes one after another. -/
theorem foldl {α : Type} {f : State → α → State} (xs : List α) (hf : ∀ s, ∀ x ∈ xs, Wrote A s (f s x)) :
    Wrote A s (xs.foldl f s) :=
  List.foldlRecOn (motive := Wrote A s) xs f refl fun t ht x hx => ht.trans (hf t x hx)

end Wrote

variable {A : Nat → Prop} {s : State}

theorem putCells_wrote {cells : List Host.Cell} (hc : ∀ c ∈ cells, A c.1) : Wrote A s (putCells cells s) where
  frame := rfl
  form := memSetAll_wf cells
  lines hw a ha := memGet_memSetAll_other cells hw a fun c hm he => ha c.1 (hc c hm) (congrArg lineOf he.symm)
  bytes hw _ a ha := memGet_memSetAll_other cells hw a fun c hm he => ha (he ▸ hc c hm)
  whole _ := ⟨rfl, rfl⟩

theorem absorbStripe_mem (l : Nat) (s : State) :
    (absorbStripe l s).mem = memSetAll s.mem (((List.range 64).map fun i => 64 * l + i).zip (fromParity s l)) := by
  simp only [absorbStripe, rebuildLine]

/-- Absorbing a stripe rewrites the line of the failing layer alone. -/
theorem absorbStripe_wrote {l b : Nat} (ho : onAbsorbed s l = true) (hb : A b) (hl : lineOf b = l) : Wrote A s (absorbStripe l s) where
  frame := by simp only [absorbStripe, rebuildLine]
  form hw := by
    rw [absorbStripe_mem]
    exact memSetAll_wf _ hw
  lines hw a ha := by
    rw [absorbStripe_mem]
    refine memGet_memSetAll_other _ hw a fun c hc he => ha b hb ?_
    obtain ⟨i, hi, hci⟩ := List.mem_map.1 (List.of_mem_zip hc).1
    rw [List.mem_range] at hi
    rw [hl, ← he, ← hci, lineOf]
    omega
  bytes _ hn := by simp [hn l] at ho
  whole hn := by simp [hn l] at ho

/-- A write to line `l` of cells at addresses of `A`, one of which lies in the line. -/
theorem writeLine_wrote {gen : Bool} {l b : Nat} {cells : List Host.Cell} (hb : A b) (hl : lineOf b = l)
    (hc : ∀ c ∈ cells, A c.1) : Wrote A s (writeLine gen s l cells) := by
  have absorbs : Wrote A s (if onAbsorbed s l then absorbStripe l s else s) := by
    split
    · exact absorbStripe_wrote ‹_› hb hl
    · exact .refl
  unfold writeLine
  split
  · exact .refl
  · exact (absorbs.trans (putCells_wrote hc)).trans (.of_mem rfl)

theorem writeCells_wrote (gen : Bool) (cells : List Host.Cell) (s : State) :
    Wrote (· ∈ cells.map Prod.fst) s (writeCells gen cells s) := by
  refine Wrote.foldl _ fun s l hl => ?_
  obtain ⟨c, hc, rfl⟩ := List.mem_map.1 (List.mem_eraseDups.1 hl)
  exact writeLine_wrote (List.mem_map_of_mem hc) rfl fun d hd => List.mem_map_of_mem (List.mem_filter.1 hd).1

theorem cellsAt_addrs {addrs : List Nat} {bytes : List Byte} {a : Nat} (h : a ∈ (cellsAt addrs bytes).map Prod.fst) : a ∈ addrs := by
  obtain ⟨c, hc, rfl⟩ := List.mem_map.1 h
  exact (List.of_mem_zip hc).1

theorem writeAt_wrote (addrs : List Nat) (bytes : List Byte) (s : State) : Wrote (· ∈ addrs) s (writeAt addrs bytes s) := by
  unfold writeAt
  split
  · exact .refl
  · exact (writeCells_wrote _ _ s).mono fun _ => cellsAt_addrs

/-! ### Buffers (R323) -/

/-- A vector that fires leaves its pending bit, or a message. -/
theorem fireVector_frame (v : Nat) (s : State) :
    fireVector v s = { s with bar := (fireVector v s).bar, out := (fireVector v s).out } := by
  unfold fireVector
  split <;> rfl

theorem raiseEvent_frame (k : Nat) (s : State) :
    raiseEvent k s = { s with bar := (raiseEvent k s).bar, out := (raiseEvent k s).out } := by
  unfold raiseEvent
  split
  · rfl
  · dsimp only
    split
    · rw [fireVector_frame]
    · rfl

/-- A record leaves the recorder, the draw, BAR0's events and what is driven. -/
theorem record_frame (cls typ sev : Nat) (part : Option (BitVec 4)) (body : List Byte) (s : State) :
    let t := record cls typ sev part body s
    t = { s with bar := t.bar, out := t.out, draw := t.draw, recorder := t.recorder } := by
  dsimp only
  unfold record
  split
  · rfl
  · rw [raiseEvent_frame]

/-- A buffer in host memory: the bytes are driven, or their loss is recorded. -/
theorem putBuffer_host_frame (q : QueuePair) (p : Packet) (a : Nat) (bytes : List Byte) (s : State) :
    let t := putBuffer q p none a bytes s
    t = { s with bar := t.bar, out := t.out, draw := t.draw, recorder := t.recorder } := by
  dsimp only [putBuffer]
  split
  · rfl
  · exact record_frame ..

/-! ### Planes of tensors (R150, R151) -/

theorem Env.plan_congr (e : Env) {s t : State} (h : t.partitions = s.partitions) : e.plan t = e.plan s := by
  simp only [Env.plan, findPart, h]

theorem Env.tensor_congr (e : Env) {s t : State} (h : t.partitions = s.partitions) (i : Nat) : e.tensor t i = e.tensor s i := by
  rw [Env.tensor, e.plan_congr h, Env.tensor]

theorem seqMaxAddrs_congr {s t : State} (h : t.partitions = s.partitions) (x : Tensor) (q : Nat) :
    seqMaxAddrs t x q = seqMaxAddrs s x q := by
  simp only [seqMaxAddrs, regionAt, h]

theorem writeStores_frame (cells : List ((Nat × Nat) × Byte)) (s : State) :
    writeStores cells s = { s with groves := (writeStores cells s).groves } := by
  refine List.foldlRecOn (motive := fun t : State => t = { s with groves := t.groves }) _ _ rfl fun t ht g _ => ?_
  rw [ht]
  rfl

section
variable (e : Env) (i : Nat) (scales : Bool) (cells : List Host.Cell) (s : State)

theorem Env.writePlane_nil : e.writePlane i scales [] s = s := rfl

/-- A tensor of LOCUS 1 lies in grove stores. -/
theorem Env.writePlane_store_frame (h : (e.tensor s i).locus = 1) :
    e.writePlane i scales cells s = { s with groves := (e.writePlane i scales cells s).groves } := by
  unfold Env.writePlane
  split
  · rfl
  · simp only [h, if_true]
    exact writeStores_frame _ s

theorem Env.writePlane_wrote (h : (e.tensor s i).locus ≠ 1) :
    Wrote (· ∈ cells.map fun c => (e.tensor s i).byteAddr scales c.1) s (e.writePlane i scales cells s) := by
  unfold Env.writePlane
  split
  · exact .refl
  · simp only [h, if_false]
    exact (writeCells_wrote _ _ s).mono fun a ha => by simpa [Function.comp_def] using ha

end

/-! ### Whole outputs (R61 to R64, R111) -/

/-- Elements of a format without blocks are whole bytes (R42). -/
theorem Fmt.eight_dvd_bits {f : Fmt} (hf : f.isBlock = false) : 8 ∣ f.bits := by
  revert hf
  cases f <;> decide

/-- In a format without blocks element `k` takes the whole bytes from `k` times its width on. -/
theorem codeCells_addr {f : Fmt} (hf : f.isBlock = false) {k x : Nat} {c : Host.Cell} (hc : c ∈ codeCells f.bits k [x]) :
    ∃ j, j < f.bits / 8 ∧ c.1 = k * (f.bits / 8) + j := by
  obtain ⟨w, hw⟩ := Fmt.eight_dvd_bits hf
  obtain ⟨j, hj, hcj⟩ := List.mem_map.1 (List.of_mem_zip hc).1
  have hdiv : k * (8 * w) / 8 = k * w := by rw [Nat.mul_left_comm, Nat.mul_div_cancel_left _ (by decide)]
  rw [List.mem_range, List.length_singleton, hw] at hj
  rw [hw, hdiv] at hcj
  rw [hw, Nat.mul_div_cancel_left _ (by decide)]
  exact ⟨j, by omega, hcj.symm⟩

/-- What the conversion of whole elements writes: no scales, and bytes of the elements it was given. -/
theorem convert_cells {t : Tensor} (ht : t.fmt.isBlock = false) (dims ks : List Nat) (val : Nat → Num) :
    (convert t dims ks val).scales = [] ∧
    ∀ c ∈ (convert t dims ks val).data, ∃ k ∈ ks, ∃ j, j < t.fmt.bits / 8 ∧ c.1 = k * (t.fmt.bits / 8) + j := by
  unfold convert
  simp only [ht, Bool.false_eq_true, if_false]
  refine List.foldlRecOn (motive := fun v : Conv => v.scales = [] ∧
    ∀ c ∈ v.data, ∃ k ∈ ks, ∃ j, j < t.fmt.bits / 8 ∧ c.1 = k * (t.fmt.bits / 8) + j) _ _ ⟨rfl, nofun⟩ ?_
  rintro v ⟨hs, hd⟩ k hk
  refine ⟨hs, fun c hc => ?_⟩
  rcases List.mem_append.1 hc with hc | hc
  · exact hd c hc
  · exact ⟨k, hk, codeCells_addr ht hc⟩

/-- The bytes of a whole output lie in its data plane. -/
theorem convert_addrs {t : Tensor} (ht : t.fmt.isBlock = false) (hl : t.locus ≠ 1) (dims : List Nat) (val : Nat → Num) :
    ∀ c ∈ (convert t dims (List.range (prod dims)) val).data, t.byteAddr false c.1 ∈ t.addrs dims := by
  intro c hc
  obtain ⟨k, hk, j, hj, hcj⟩ := (convert_cells ht _ _ val).2 c hc
  have hlt : c.1 < planeSize t dims false := calc
    c.1 = k * (t.fmt.bits / 8) + j := hcj
    _ < (k + 1) * (t.fmt.bits / 8) := by rw [Nat.succ_mul]; omega
    _ ≤ prod dims * (t.fmt.bits / 8) := Nat.mul_le_mul_right _ (List.mem_range.1 hk)
    _ = planeSize t dims false := by simp [planeSize, ht]
  simp only [Tensor.addrs, hl, if_false, List.mem_append, List.mem_map, List.mem_range]
  exact .inl ⟨c.1, hlt, rfl⟩

section
variable (e : Env) (i : Nat) (s : State)

/-- Writing the elements of a whole output leaves partitions and absorption alone, and every byte outside its plane. -/
theorem Env.writeSome_mem (hw : Memory.wf s.mem = true) (hn : ∀ l, onAbsorbed s l = false)
    (hf : (e.tensor s i).fmt.isBlock = false) (val : Nat → Num) :
    let x := e.tensor s i
    let t := (e.writeSome i (List.range (prod (e.dims x))) val s).1
    t.partitions = s.partitions ∧ Memory.wf t.mem = true ∧ (∀ l, onAbsorbed t l = false) ∧
      ∀ a, a ∉ x.addrs (e.dims x) → memGet t.mem a = memGet s.mem a := by
  intro x t
  have ht : t = e.writePlane i false (convert x (e.dims x) (List.range (prod (e.dims x))) val).data s := by
    simp only [t, Env.writeSome, (convert_cells hf _ _ val).1, Env.writePlane_nil, x]
  by_cases hl : x.locus = 1
  · rw [ht, e.writePlane_store_frame i _ _ s hl]
    exact ⟨rfl, hw, hn, fun _ _ => rfl⟩
  · have hwr := e.writePlane_wrote i false (convert x (e.dims x) (List.range (prod (e.dims x))) val).data s hl
    rw [← ht] at hwr
    refine ⟨hwr.partitions, hwr.form hw, hwr.onAbsorbed hn, fun a ha => hwr.bytes hw hn a fun hA => ha ?_⟩
    obtain ⟨c, hc, rfl⟩ := List.mem_map.1 hA
    exact convert_addrs hf hl _ val c hc

theorem Env.setSeqMax_wrote (ms : List Int) :
    Wrote (fun a => ∃ q, q < ms.length ∧ a ∈ seqMaxAddrs s (e.tensor s i) q) s (e.setSeqMax i ms s) := by
  refine (writeCells_wrote _ _ s).mono fun a ha => ?_
  obtain ⟨c, hc, rfl⟩ := List.mem_map.1 ha
  obtain ⟨m, hm, hcm⟩ := List.mem_flatMap.1 hc
  exact ⟨m.2, (List.mem_zipIdx' hm).1, cellsAt_addrs (List.mem_map_of_mem hcm)⟩

@[simp] theorem Env.setMax_mem (m : Int) : (e.setMax i m s).mem = s.mem := rfl

/-- Measuring an output writes its SEQMAX entries alone. -/
theorem Env.measure_mem (hw : Memory.wf s.mem = true) (hn : ∀ l, onAbsorbed s l = false) (a : Nat)
    (ha : let x := e.tensor s i
      x.batched = true → ∀ q, q < nth (e.dims x) x.seqDim 1 → a ∉ seqMaxAddrs s x q) :
    memGet (e.measure i s).mem a = memGet s.mem a := by
  unfold Env.measure Env.putMaxima
  dsimp only
  split
  · rfl
  · rw [Env.setMax_mem]
    split
    · rename_i hb
      refine (e.setSeqMax_wrote i s _).bytes hw hn a ?_
      rintro ⟨q, hq, hm⟩
      rw [List.length_map, List.length_range, View.seqs] at hq
      simp only [Env.view, hb, if_true] at hq
      exact ha hb q hq hm
    · rfl

end

/-! ### Health records (R69) -/

/-- A look-up after an update of entries that leaves their keys. -/
theorem find?_updWhere {α : Type} (p : α → Bool) (f : α → α) (hf : ∀ x, p (f x) = p x) (l : List α) :
    (updWhere p f l).find? p = (l.find? p).map f := by
  have hp : (p ∘ fun x => if p x then f x else x) = p := by
    funext x
    by_cases h : p x <;> simp [h, hf]
  rw [updWhere, List.find?_map, hp]
  rcases h : l.find? p with _ | x
  · rfl
  · simp [List.find?_some h]

theorem findPart_updPart (n : BitVec 4) (f : Partition → Partition) (hf : ∀ p, (f p).num = p.num) (s : State) :
    findPart (updPart n f s) n = (findPart s n).map f :=
  find?_updWhere (fun p : Partition => p.num = n) f (fun p => by rw [hf]) s.partitions

theorem Partition.plan_updWhere (p : Partition) (h : U32) (f : Plan → Plan) (hf : ∀ q, (f q).handle = q.handle) :
    Partition.plan { p with plans := updWhere (fun q => q.handle = h) f p.plans } h = (p.plan h).map f :=
  find?_updWhere (fun q : Plan => q.handle = h) f (fun q => by rw [hf]) p.plans

section
variable (e : Env) (i : Nat) (s : State)

/-- An update of the operator's plan, where its partition holds it. -/
theorem Env.plan_updPlan (f : Plan → Plan) (hf : ∀ q, (f q).handle = q.handle) :
    e.plan (updPlan e.part e.handle f s) = f (e.plan s) ∨ e.plan (updPlan e.part e.handle f s) = e.plan s := by
  unfold Env.plan updPlan
  rw [findPart_updPart _ (fun p => { p with plans := updWhere (fun q => q.handle = e.handle) f p.plans }) fun _ => rfl]
  rcases findPart s e.part with _ | p
  · exact .inr rfl
  · simp only [Option.map_some, Partition.plan_updWhere _ _ _ hf]
    rcases p.plan e.handle with _ | q
    · exact .inr rfl
    · exact .inl rfl

/-- MAXEXP is no part of what decides whether a tensor has health records. -/
theorem Env.setMax_health (m : Int) : (e.tensor (e.setMax i m s) i).health = (e.tensor s i).health := by
  simp only [Env.tensor, Env.setMax]
  rcases e.plan_updPlan s (fun p => { p with tensors := setAt p.tensors i fun t => { t with maxexp := m } }) fun _ => rfl with h | h
  · rw [h]
    simp only [nth, setAt, List.getD_eq_getElem?_getD, List.getElem?_modify, if_true]
    rcases (e.plan s).tensors[i]? <;> rfl
  · rw [h]

theorem Env.setSeqMax_partitions (ms : List Int) : (e.setSeqMax i ms s).partitions = s.partitions :=
  (e.setSeqMax_wrote i s ms).partitions

theorem Env.measure_health : (e.tensor (e.measure i s) i).health = (e.tensor s i).health := by
  unfold Env.measure Env.putMaxima
  dsimp only
  split
  · rfl
  · rw [Env.setMax_health]
    split
    · rw [e.tensor_congr (e.setSeqMax_partitions i s _)]
    · rfl

theorem Env.health_off {c : Counts} {bound : Bool} (h : (e.tensor s i).health = false) : e.health i c bound s = s := by
  unfold Env.health
  simp only [h, Bool.false_and, Bool.false_eq_true, if_false]
  split <;> rfl

/-- A whole output of a format without blocks, without a health record, changes its plane and its SEQMAX entries alone. -/
theorem Env.writeAll_mem (val : Nat → Num) (bound : Bool) (hw : Memory.wf s.mem = true) (hn : ∀ l, onAbsorbed s l = false) :
    let x := e.tensor s i
    x.fmt.isBlock = false → x.health = false → ∀ a, a ∉ x.addrs (e.dims x) →
      (x.batched = true → ∀ q, q < nth (e.dims x) x.seqDim 1 → a ∉ seqMaxAddrs s x q) →
      memGet (e.writeAll i val bound s).mem a = memGet s.mem a := by
  intro x hf hh a ha hq
  obtain ⟨hp, hwt, hnt, hmem⟩ := e.writeSome_mem i s hw hn hf val
  have hx := e.tensor_congr hp i
  unfold Env.writeAll
  dsimp only
  rw [e.health_off i _ (by rw [e.measure_health, hx]; exact hh), e.measure_mem i _ hwt hnt a, hmem a ha]
  simp only [hx, seqMaxAddrs_congr hp]
  exact hq

end

/-! ### Commands that only report -/

/-- A command's own part that answers at once and leaves the state as it finds it. -/
def Reports (body : CmdBody) : Prop := ∀ q p s, ∃ st d r, body q p s = (.done st d r, s)

theorem reports_fail {st : BitVec 16} {s : State} : ∃ st' d r, fail st s = (.done st' d r, s) := ⟨_, _, _, rfl⟩
theorem reports_ok {res : List Byte} {s : State} : ∃ st d r, ok res s = (.done st d r, s) := ⟨_, _, _, rfl⟩
theorem reports_reply {e : Stop} {s : State} : ∃ st d r, e.reply s = (.done st d r, s) := ⟨_, _, _, rfl⟩

theorem cmdQueueStatus_reports : Reports cmdQueueStatus := by
  intro q p s
  unfold cmdQueueStatus
  dsimp only
  split
  · exact reports_fail
  · split
    · exact reports_fail
    · split <;> exact reports_ok

theorem cmdRegionQuery_reports : Reports cmdRegionQuery := by
  intro q p s
  unfold cmdRegionQuery
  split
  · exact reports_fail
  · exact reports_ok

theorem cmdHdmStatus_reports : Reports cmdHdmStatus := fun _ _ _ => reports_ok

theorem cmdCacheStatus_reports : Reports cmdCacheStatus := by
  intro q p s
  unfold cmdCacheStatus
  split
  · exact reports_fail
  · exact reports_ok

theorem cmdClearingStatus_reports : Reports cmdClearingStatus := by
  intro q p s
  unfold cmdClearingStatus
  split
  · exact reports_reply
  · split
    · exact reports_fail
    · exact reports_ok

theorem cmdMemregRead_reports : Reports cmdMemregRead := by
  intro q p s
  unfold cmdMemregRead
  dsimp only
  split
  · exact reports_fail
  · split
    · exact reports_ok
    · exact reports_fail

theorem cmdLayerMap_reports : Reports cmdLayerMap := by
  intro q p s
  unfold cmdLayerMap
  dsimp only
  split
  · exact reports_fail
  · exact reports_ok

theorem cmdPartitionStatus_reports : Reports cmdPartitionStatus := by
  intro q p s
  unfold cmdPartitionStatus
  split
  · exact reports_reply
  · split <;> exact reports_ok

theorem cmdHealthRingStatus_reports : Reports cmdHealthRingStatus := by
  intro q p s
  unfold cmdHealthRingStatus
  dsimp only
  split
  · exact reports_fail
  · split <;> exact reports_ok

/-! ### The port: pairs, what is driven, BAR0 -/

theorem onlyPort.refl (s : State) : onlyPort s s := rfl

theorem onlyPort.trans {s t u : State} (h : onlyPort s t) (k : onlyPort t u) : onlyPort s u := by
  unfold onlyPort at *
  rw [k, h]

theorem updPair_onlyPort (qp : BitVec 6) (f : QueuePair → QueuePair) (s : State) : onlyPort s (updPair qp f s) := rfl

theorem fireVector_onlyPort (v : Nat) (s : State) : onlyPort s (fireVector v s) :=
  fireVector_frame v s ▸ rfl

theorem fireVector_pairs (v : Nat) (s : State) : (fireVector v s).pairs = s.pairs := by rw [fireVector_frame]

/-- What a pair holds behind its FENCEs only reports, and the pair is not being deleted. -/
def QueuePair.reporting (q : QueuePair) : Prop := q.deleter = none ∧ ∀ p ∈ q.fenced, Reports (commandBody p)

/-- From `s` the state `t` can come about by commands that only report or fail. -/
structure Reported (s t : State) : Prop where
  port : onlyPort s t
  pairs : ∀ q ∈ t.pairs, q.reporting

namespace Reported
variable {s t : State}

theorem of_quiet (h : Quiet s) : Reported s s where
  port := .refl s
  pairs q hq := by
    obtain ⟨hf, hd⟩ := h.pairs q hq
    exact ⟨hd, hf ▸ nofun⟩

theorem updPair (h : Reported s t) {qp : BitVec 6} {f : QueuePair → QueuePair} (hf : ∀ q, q.reporting → (f q).reporting) :
    Reported s (Machine.updPair qp f t) where
  port := h.port.trans (updPair_onlyPort qp f t)
  pairs q hq := by
    obtain ⟨x, hx, rfl⟩ := List.mem_map.1 hq
    split
    · exact hf x (h.pairs x hx)
    · exact h.pairs x hx

theorem fireVector (h : Reported s t) (v : Nat) : Reported s (Machine.fireVector v t) where
  port := h.port.trans (fireVector_onlyPort v t)
  pairs := fireVector_pairs v t ▸ h.pairs

/-- Driving something at the port. -/
theorem drive (h : Reported s t) (out : List Output) : Reported s { t with out := out } :=
  ⟨h.port.trans rfl, h.pairs⟩

theorem gather (h : Reported s t) (q : QueuePair) (w : Waiting) : Reported s (Machine.gather q w t) := by
  unfold Machine.gather
  split
  · exact h
  · split
    · refine Reported.fireVector (h.updPair ?_) _
      exact fun _ hq => hq
    · exact h.updPair fun _ hq => hq

theorem emit (h : Reported s t) (q : QueuePair) (w : Waiting) : Reported s (Machine.emit q w t) := by
  have hp := h.updPair (qp := q.qp) (f := fun q => q.posted w) fun _ hq => hq
  exact (hp.drive _).gather q w

theorem post (h : Reported s t) (qp : BitVec 6) (w : Waiting) : Reported s (Machine.post qp w t) := by
  unfold Machine.post
  split
  · exact h
  · split
    · exact h.emit _ w
    · exact h.updPair fun _ hq => hq

theorem finish (h : Reported s t) (o : Origin) (st : BitVec 16) (d : U32) (r : List Byte) :
    Reported s (Machine.finish o st d r t) := by
  unfold Machine.finish
  split
  · exact h
  · exact h.post _ _

/-- A command that only reports leaves its completion. -/
theorem deliver (h : Reported s t) {body : CmdBody} (hb : Reports body) (p : Packet) (q : QueuePair) (c : Packet) :
    Reported s (Machine.deliver p (body q c t)) := by
  obtain ⟨st, d, r, hr⟩ := hb q c t
  rw [hr]
  exact h.finish _ st d r

end Reported

/-! ### What follows by itself in a block where nothing waits (R162, R321, R324, R401, R403) -/

theorem foldl_of_fixed {α β : Type} {f : β → α → β} {b : β} (l : List α) (hf : ∀ x ∈ l, f b x = b) : l.foldl f b = b :=
  List.foldlRecOn (motive := (· = b)) l f rfl fun c hc x hx => by rw [hc, hf x hx]

theorem repeat_of_fixed {α : Type} {f : α → α} {a : α} (h : f a = a) (n : Nat) : Nat.repeat f n a = a := by
  induction n with
  | zero => rfl
  | succ n ih => rw [Nat.repeat, ih, h]

theorem findPart_mem {s : State} {n : BitVec 4} {p : Partition} (h : findPart s n = some p) : p ∈ s.partitions :=
  List.mem_of_find?_eq_some h

theorem findPair_mem {s : State} {qp : BitVec 6} {q : QueuePair} (h : findPair s qp = some q) : q ∈ s.pairs :=
  List.mem_of_find?_eq_some h

theorem Partition.quiet.context {p : Partition} (h : p.quiet) (c : Nat) : (p.context c).quiet := by
  obtain ⟨-, -, hc, -⟩ := h
  rw [Partition.context, nth, List.getD_eq_getElem?_getD]
  rcases hx : p.contexts[c]? with _ | x
  · exact ⟨nofun, nofun⟩
  · exact hc x (List.mem_of_getElem? hx)

section
variable {s : State}

theorem settleReserve_of_current (h : atMaskOf s = s.reserve.atMask) : settleReserve s = s := by
  unfold settleReserve
  dsimp only
  rw [h, foldl_of_fixed]
  intro k _
  rw [if_pos rfl]

theorem pumpSet_of_quiet (h : ∀ p ∈ s.partitions, p.quiet) (n : BitVec 4) (c : Nat) : pumpSet n c s = s := by
  unfold pumpSet
  split
  · rfl
  · rename_i p hp
    have hn : (p.context c).sets.find? (fun b => b.due.isSome) = none :=
      List.find?_eq_none.2 fun b hb => by simp [((h p (findPart_mem hp)).context c).1 b hb]
    simp only [hn]

theorem pumpSingle_of_quiet (h : ∀ p ∈ s.partitions, p.quiet) (n : BitVec 4) (c : Nat) : pumpSingle n c s = s := by
  unfold pumpSingle
  split
  · rfl
  · rename_i p hp
    have hn : (p.context c).ineligible.find? (fun x => !x.fence) = none :=
      List.find?_eq_none.2 fun x hx => by simp [((h p (findPart_mem hp)).context c).2 x hx]
    simp only [hn]

theorem pumpCtx_of_quiet (h : ∀ p ∈ s.partitions, p.quiet) (n : BitVec 4) (c : Nat) : pumpCtx n c s = s := by
  unfold pumpCtx
  split
  · rfl
  · dsimp only
    rw [repeat_of_fixed (pumpSet_of_quiet h n c), repeat_of_fixed (pumpSingle_of_quiet h n c)]

theorem pump_of_quiet (h : ∀ p ∈ s.partitions, p.quiet) : pump s = s :=
  foldl_of_fixed _ fun n _ => foldl_of_fixed _ fun c _ => pumpCtx_of_quiet h n c

theorem beginJobs_of_quiet (h : ∀ p ∈ s.partitions, p.quiet) (hr : begunJob s.reserve.running) : beginJobs s = s := by
  unfold beginJobs
  rw [foldl_of_fixed]
  · dsimp only
    split
    · rename_i hj
      exact absurd (hr _ hj) (by simp)
    · rfl
  · intro p _
    split
    · rename_i hj
      obtain ⟨x, hx, hxj⟩ := Option.bind_eq_some_iff.1 hj
      obtain ⟨-, -, -, ha⟩ := h x (findPart_mem hx)
      exact absurd (ha _ hxj) (by simp)
    · rfl

theorem runDeferred_of_quiet (h : ∀ p ∈ s.partitions, p.quiet) : runDeferred s = s :=
  foldl_of_fixed _ fun p hp => by
    obtain ⟨hd, -⟩ := h p hp
    rw [hd, List.foldl_nil]

theorem finishUnloads_of_quiet (h : ∀ p ∈ s.partitions, p.quiet) : finishUnloads s = s :=
  foldl_of_fixed _ fun p hp => foldl_of_fixed _ fun q hq => by
    obtain ⟨-, hu, -⟩ := h p hp
    simp only [hu q hq]

theorem finishDeletions_of_none (h : ∀ q ∈ s.pairs, q.deleter = none) : finishDeletions s = s :=
  foldl_of_fixed _ fun q hq => by simp only [h q hq]

end

/-- The reserve is reckoned from no pair, output or register. -/
theorem atMaskOf_onlyPort {s t : State} (h : onlyPort s t) : atMaskOf t = atMaskOf s := by
  rw [h]
  rfl

namespace Reported
variable {s t : State}

theorem partitions (h : Reported s t) : t.partitions = s.partitions := by rw [h.port]
theorem reserve (h : Reported s t) : t.reserve = s.reserve := by rw [h.port]

/-- A command held behind a FENCE that may start reports. -/
theorem startHead (h : Reported s t) (qp : BitVec 6) : Reported s (Machine.startHead qp t) := by
  unfold Machine.startHead
  split
  · exact h
  · rename_i q hq
    split
    · exact h
    · rename_i p rest hf
      split
      · exact h
      · obtain ⟨hd, hr⟩ := h.pairs q (findPair_mem hq)
        rw [hf] at hr
        refine Reported.deliver (h.updPair ?_) (hr p (List.mem_cons_self ..)) p q p
        exact fun x hx => ⟨hx.1, fun c hc => hr c (List.mem_cons_of_mem _ hc)⟩

/-- A round of what follows by itself starts commands held behind FENCEs and no more. -/
theorem settleOnce (h : Reported s t) (hq : Quiet s) : Reported s (Machine.settleOnce t) := by
  have hp : ∀ p ∈ t.partitions, p.quiet := h.partitions ▸ hq.parts
  have hrun : begunJob t.reserve.running := h.reserve ▸ hq.running
  have hres : atMaskOf t = t.reserve.atMask := by rw [atMaskOf_onlyPort h.port, hq.reserve, h.reserve]
  unfold Machine.settleOnce
  rw [settleReserve_of_current hres, pump_of_quiet hp, beginJobs_of_quiet hp hrun, runDeferred_of_quiet hp,
    finishUnloads_of_quiet hp, finishDeletions_of_none fun q hq => (h.pairs q hq).1]
  exact List.foldlRecOn (motive := Reported s) _ _ h fun u hu qp _ => hu.startHead qp

theorem settle (h : Reported s t) (hq : Quiet s) : Reported s (Machine.settle t) := by
  unfold Machine.settle
  induction 2 + (t.pairs.map fun q => q.fenced.length).sum with
  | zero => exact h
  | succ n ih => exact ih.settleOnce hq

end Reported

/-! ### Packets that fail or only report (R325) -/

/-- In a block where nothing waits, a packet that fails a check or whose command only reports leaves all but the port. -/
theorem fetchPacket_onlyPort {body : CmdBody} {s : State} {p : Packet} (hq : Quiet s)
    (hb : ∀ q c, findPair s p.qp = some q → passChecks (fetchedState p s) q p = .ok c → Reports body ∧ Reports (commandBody c)) :
    onlyPort s (fetchPacket body p s) := by
  have hf : Reported s (fetchedState p s) := (Reported.of_quiet hq).updPair fun _ hq => hq
  unfold fetchPacket
  split
  · exact .refl s
  · rename_i q hpair
    split
    · exact .refl s
    · refine (Reported.settle ?_ hq).port
      change Reported s (match passChecks (fetchedState p s) q p with
        | .error e => finish (pktOrigin p) e.status e.detail e.result (fetchedState p s)
        | .ok p' => launchCommand q body p' (fetchedState p s))
      split
      · exact hf.finish _ _ _ _
      · rename_i c hc
        obtain ⟨hbody, hcmd⟩ := hb q c hpair hc
        unfold launchCommand
        split
        · exact hf.deliver hbody c q c
        · refine hf.updPair fun x hx => ⟨hx.1, fun d hd => ?_⟩
          rcases List.mem_append.1 hd with hd | hd
          · exact hx.2 d hd
          · rw [List.mem_singleton.1 hd]
            exact hcmd

/-- A packet that passes its checks has an opcode of the table. -/
theorem passChecks_ok_found {s : State} {q : QueuePair} {p c : Packet} (h : passChecks s q p = .ok c) :
    (findCommand p.opcode.toNat).isSome := by
  rcases hf : findCommand p.opcode.toNat with _ | row
  · simp [passChecks, headerFault, hf] at h
  · rfl

theorem commandBody_of_find {p : Packet} {code : Nat} {body : CmdBody} (hp : p.opcode.toNat = code)
    (h : commandBodies.find? (fun c => c.1 = code) = some (code, body)) : commandBody p = body := by
  unfold commandBody
  rw [hp, h]

/-- A row of a command that only reports. -/
theorem answer_onlyPort {code : Nat} {body : CmdBody} {s t : State} {p : Packet} (hq : Quiet s) (hb : Reports body)
    (hc : commandBodies.find? (fun c => c.1 = code) = some (code, body))
    (h : answer (p.wf code) (fetchPacket body p s) = .next t) : onlyPort s t := by
  unfold answer at h
  split at h
  · rename_i hwf
    cases h
    refine fetchPacket_onlyPort hq fun q c _ hok => ⟨hb, ?_⟩
    have hp : p.opcode.toNat = code := by
      have hfound := passChecks_ok_found hok
      simp only [Packet.wf, Bool.and_eq_true, Bool.or_eq_true, decide_eq_true_eq] at hwf
      rcases hwf.2 with hp | hnone
      · exact hp
      · simp [Option.isNone_iff_eq_none.1 hnone] at hfound
    obtain ⟨b, rfl⟩ := passChecks_ok hok
    have hcmd : commandBody { p with inl := padTo 96 b } = body := commandBody_of_find hp hc
    rw [hcmd]
    exact hb
  · cases h

theorem report_onlyPort {s t : State} (p : Packet) (hq : Quiet s) :
    ∀ x ∈ [Instr.queueStatus, .regionQuery, .hdmStatus, .cacheStatus, .clearingStatus, .memregRead, .layerMapRead,
      .partitionStatus, .healthRingStatus], exec (x p) s = .next t → onlyPort s t := by
  simp only [List.forall_mem_cons]
  exact ⟨answer_onlyPort hq cmdQueueStatus_reports rfl, answer_onlyPort hq cmdRegionQuery_reports rfl,
    answer_onlyPort hq cmdHdmStatus_reports rfl, answer_onlyPort hq cmdCacheStatus_reports rfl,
    answer_onlyPort hq cmdClearingStatus_reports rfl, answer_onlyPort hq cmdMemregRead_reports rfl,
    answer_onlyPort hq cmdLayerMap_reports rfl, answer_onlyPort hq cmdPartitionStatus_reports rfl,
    answer_onlyPort hq cmdHealthRingStatus_reports rfl, nofun⟩

/-! ### What a command leaves as it was (R8) -/

/-- A packet that fails a check. -/
theorem fetchPacket_fault_onlyPort {body : CmdBody} {s : State} {q : QueuePair} {p : Packet} {e : Stop} (hq : Quiet s)
    (hpair : findPair s p.qp = some q) (he : passChecks (fetchedState p s) q p = .error e) : onlyPort s (fetchPacket body p s) := by
  refine fetchPacket_onlyPort hq fun q' c hpair' hok => ?_
  obtain rfl : q = q' := Option.some.inj (hpair.symm.trans hpair')
  rw [he] at hok
  cases hok

theorem Wrote.other_line {s t : State} {addrs : List Nat} (h : Wrote (· ∈ addrs) s t) (hw : Memory.wf s.mem = true) (a : Nat)
    (ha : lineOf a ∉ addrs.map lineOf) : memGet t.mem a = memGet s.mem a :=
  h.lines hw a fun _ hb he => ha (he ▸ List.mem_map_of_mem hb)

/-- Settles O60: a packet is followed through what it brings about (`Reported`), a write of bytes through its lines (`Wrote`). -/
theorem whatACommandDoesNotTouch : Obligations.WhatACommandDoesNotTouch := by
  unfold Obligations.WhatACommandDoesNotTouch
  refine ⟨?checks, ?reports, ?addresses, ?buffers, ?planes, ?outputs⟩
  case checks => exact fun _ _ _ _ _ hq hpair _ he => fetchPacket_fault_onlyPort hq hpair he
  case reports => exact fun _ _ p hq => report_onlyPort p hq
  case addresses =>
    rintro s addrs bytes ⟨hw, -⟩
    have h := writeAt_wrote addrs bytes s
    exact ⟨h.other_line hw, h.frame, fun hn => ⟨h.bytes hw hn, h.whole hn⟩⟩
  case buffers =>
    rintro s q p (_ | addrs) dest bytes ⟨hw, -⟩ t
    · have h : t = _ := putBuffer_host_frame q p dest bytes s
      rw [h]
      simp
    · have h : Wrote (· ∈ addrs) s t := writeAt_wrote addrs bytes s
      refine ⟨?_, ?_, nofun, ?_⟩
      · rintro _ a ⟨⟩
        exact h.other_line hw a
      · rintro hn _ a ⟨⟩
        exact h.bytes hw hn a
      · rw [h.frame]
        simp
  case planes =>
    rintro s e i scales cells ⟨hw, -⟩
    refine ⟨e.writePlane_store_frame i scales cells s, fun hl => ?_⟩
    have h := e.writePlane_wrote i scales cells s hl
    exact ⟨h.other_line hw, h.bytes hw⟩
  case outputs =>
    rintro s e i val bound ⟨hw, -⟩ hn
    exact e.writeAll_mem i s val bound hw hn

end Sys2Proof.Machine
end

section
/-! SUPPORT and the SETTLED STATEMENT of steps held for their batch (O39): sorting by fetch order, what STEP_SUBMIT, STEP_ELIGIBLE,
BATCH_SET and STEP_CANCEL do, and what a release takes along. -/
namespace Sys2Proof.Machine

/-! ### Sorting by a number -/

section
variable {α : Type} (key : α → Nat)

theorem mem_insertBy {x z : α} {l : List α} : z ∈ insertBy (fun x y => key x ≤ key y) x l ↔ z = x ∨ z ∈ l := by
  induction l with
  | nil => exact List.mem_cons
  | cons y l ih =>
    rw [insertBy]
    split
    · exact List.mem_cons
    · rw [List.mem_cons, ih, List.mem_cons, or_left_comm]

theorem mem_sortBy {x : α} {l : List α} : x ∈ sortBy (fun x y => key x ≤ key y) l ↔ x ∈ l := by
  induction l with
  | nil => exact Iff.rfl
  | cons y l ih =>
    rw [List.mem_cons, ← ih]
    exact mem_insertBy key

/-- An entry that is not above any of a list comes first. -/
theorem insertBy_of_le {x : α} {l : List α} (h : ∀ y ∈ l, key x ≤ key y) :
    insertBy (fun x y => key x ≤ key y) x l = x :: l := by
  cases l with
  | nil => rfl
  | cons y l => rw [insertBy, if_pos (decide_eq_true (h y (List.mem_cons_self ..)))]

theorem sortBy_of_pairwise {l : List α} (h : l.Pairwise fun x y => key x ≤ key y) :
    sortBy (fun x y => key x ≤ key y) l = l := by
  induction l with
  | nil => rfl
  | cons x l ih =>
    obtain ⟨hx, hl⟩ := List.pairwise_cons.1 h
    calc sortBy (fun x y => key x ≤ key y) (x :: l)
        = insertBy (fun x y => key x ≤ key y) x (sortBy (fun x y => key x ≤ key y) l) := rfl
      _ = insertBy (fun x y => key x ≤ key y) x l := by rw [ih hl]
      _ = x :: l := insertBy_of_le key hx

theorem insertBy_pairwise {x : α} {l : List α} (h : l.Pairwise fun x y => key x ≤ key y) :
    (insertBy (fun x y => key x ≤ key y) x l).Pairwise fun x y => key x ≤ key y := by
  induction l with
  | nil => exact List.pairwise_singleton ..
  | cons y l ih =>
    obtain ⟨hy, hl⟩ := List.pairwise_cons.1 h
    rw [insertBy]
    split
    · rename_i hle
      have hxy : key x ≤ key y := of_decide_eq_true hle
      refine List.pairwise_cons.2 ⟨fun z hz => ?_, h⟩
      rcases List.mem_cons.1 hz with rfl | hz
      · exact hxy
      · exact Nat.le_trans hxy (hy z hz)
    · rename_i hle
      have hyx : key y ≤ key x := Nat.le_of_not_le fun hxy => hle (decide_eq_true hxy)
      refine List.pairwise_cons.2 ⟨fun z hz => ?_, ih hl⟩
      rcases (mem_insertBy key).1 hz with rfl | hz
      · exact hyx
      · exact hy z hz

theorem sortBy_pairwise (l : List α) : (sortBy (fun x y => key x ≤ key y) l).Pairwise fun x y => key x ≤ key y := by
  induction l with
  | nil => exact List.Pairwise.nil
  | cons x l ih => exact insertBy_pairwise key ih

/-- The only entry with the least number comes first. -/
theorem sortBy_of_least {l : List α} {x : α} (hx : x ∈ l) (hmin : ∀ y ∈ l, y = x ∨ key x < key y) :
    ∃ ys, sortBy (fun x y => key x ≤ key y) l = x :: ys := by
  have hx' := (mem_sortBy key).2 hx
  have hsorted := sortBy_pairwise key l
  rcases hl : sortBy (fun x y => key x ≤ key y) l with _ | ⟨y, ys⟩
  · simp [hl] at hx'
  · rw [hl] at hx' hsorted
    have hy : y ∈ l := (mem_sortBy key).1 (hl ▸ List.mem_cons_self ..)
    rcases hmin y hy with rfl | hlt
    · exact ⟨ys, rfl⟩
    · rcases List.mem_cons.1 hx' with rfl | hin
      · exact ⟨ys, rfl⟩
      · exact absurd (List.rel_of_pairwise_cons hsorted hin) (Nat.not_le.2 hlt)

end

/-! ### The pair after the fetch, and the plan a packet names -/

theorem Partition.plan_handle {x : Partition} {h : U32} {r : Plan} (hr : x.plan h = some r) : r.handle = h :=
  of_decide_eq_true (List.find?_some (p := fun q : Plan => q.handle = h) hr)

section
variable {code : Nat} {s : State} {q : QueuePair} {p c : Packet}

/-- The fetch adds the command to those outstanding at its pair. -/
theorem Fetches.findPair_fetched (h : Fetches code s q p c) : findPair (fetchedState p s) c.qp = some (q.fetched p) := by
  have hupd : findPair (fetchedState p s) p.qp = (findPair s p.qp).map fun q => q.fetched p :=
    find?_updWhere (fun q : QueuePair => q.qp = p.qp) (fun q => q.fetched p) (fun _ => rfl) s.pairs
  rw [h.qp, hupd, h.pair, Option.map_some]

/-! ### STEP_SUBMIT (R161, R162) -/

/-- The row runs the command's own part. -/
theorem exec_stepSubmit (h : Fetches 0x0401 s q p c) :
    exec (.stepSubmit p) s = .next (settle (deliver c (cmdStepSubmit q c (fetchedState p s)))) :=
  h.runs cmdStepSubmit

/-- A submission of a loaded plan takes the next place in fetch order: it waits behind its FENCE while another command of its
pair is outstanding, and is eligible otherwise. -/
theorem cmdStepSubmit_loaded {x : Partition} {r : Plan} (hx : findPart s (pktPart c) = some x) (hr : x.plan (par32 c 0) = some r)
    (hu : r.unloading = none) (hf : unloadFetched s x r.handle = false) (hq : findPair s c.qp = some q) (q' : QueuePair) :
    cmdStepSubmit q' c s = (.accepted, if pktFence c && decide (1 < q.outstanding.length) then
        updCtx (pktPart c) (pktCtx c) (fun k => { k with ineligible := k.ineligible ++ [heldOf c s.order true] })
          { s with order := s.order + 1 }
      else makeEligible (pktPart c) (pktCtx c) (heldOf c s.order false) { s with order := s.order + 1 }) := by
  simp only [cmdStepSubmit, hx, hr, Option.bind_some, Option.map_some, hu, Option.isSome_none, hf, Bool.or_self, hq]
  cases pktFence c && decide (1 < q.outstanding.length) <;> rfl

/-- A submission of a plan that is not loaded, or is about to be unloaded. -/
theorem cmdStepSubmit_refused (hno : ∀ x r, findPart s (pktPart c) = some x → x.plan (par32 c 0) = some r →
    r.unloading ≠ none ∨ unloadFetched s x r.handle = true) : cmdStepSubmit q c s = fail stNotPermitted s := by
  unfold cmdStepSubmit
  dsimp only
  split
  · rfl
  · rename_i x r hfound
    obtain ⟨y, hy, hplan⟩ := Option.bind_eq_some_iff.1 hfound
    obtain ⟨r', hr, hpair⟩ := Option.map_eq_some_iff.1 hplan
    cases hpair
    have hbusy : (r.unloading.isSome || unloadFetched s x r.handle) = true := by
      simpa [Option.isSome_iff_ne_none] using hno x r hy hr
    rw [if_pos hbusy]

section
variable {x : Partition} {r : Plan} (h : Fetches 0x0401 s q p c) (hx : findPart s (pktPart c) = some x)
  (hr : x.plan (par32 c 0) = some r) (hu : r.unloading = none) (hf : unloadFetched (fetchedState p s) x r.handle = false)
include h hx hr hu hf

theorem exec_stepSubmit_fenced (hfence : pktFence c = true) (hout : q.outstanding ≠ []) :
    exec (.stepSubmit p) s = accepts p (updCtx (pktPart c) (pktCtx c)
      (fun k => { k with ineligible := k.ineligible ++ [heldOf c s.order true] })
      { fetchedState p s with order := s.order + 1 }) := by
  have hlater : (pktFence c && decide (1 < (q.fetched p).outstanding.length)) = true := by
    simpa [QueuePair.fetched, hfence, List.length_pos_iff] using hout
  rw [exec_stepSubmit h, cmdStepSubmit_loaded (s := fetchedState p s) hx hr hu hf h.findPair_fetched q, if_pos hlater,
    deliver_accepted, h.origin]
  rfl

theorem exec_stepSubmit_eligible (hfree : pktFence c = false ∨ q.outstanding = []) :
    exec (.stepSubmit p) s = accepts p (makeEligible (pktPart c) (pktCtx c) (heldOf c s.order false)
      { fetchedState p s with order := s.order + 1 }) := by
  have hfirst : ¬(pktFence c && decide (1 < (q.fetched p).outstanding.length)) = true := by
    rcases hfree with hfree | hfree <;> simp [QueuePair.fetched, hfree]
  rw [exec_stepSubmit h, cmdStepSubmit_loaded (s := fetchedState p s) hx hr hu hf h.findPair_fetched q, if_neg hfirst,
    deliver_accepted, h.origin]
  rfl

end

end

/-! ### Becoming eligible (R13, R162, R166) -/

section
variable {s : State} {n : BitVec 4} {x : Partition} {r : Plan} {h : Held} (c : Nat)
  (hx : findPart s n = some x) (hr : x.plan h.plan = some r)
include hx hr

theorem makeEligible_batched (hu : r.unloading = none) (hb : r.batched = true) (hw : r.wait ≠ 0) :
    makeEligible n c h s = pump (updCtx n c (fun k => { k with sets := addToSets r.fill h k.sets }) s) := by
  simp [makeEligible, hx, hr, hu, hb, hw]

theorem makeEligible_batched_noWait (hu : r.unloading = none) (hb : r.batched = true) (hw : r.wait = 0) :
    makeEligible n c h s =
      pump (updCtx n c (fun k => { k with sets := k.sets ++ [⟨h.plan, [h], some (decide (r.fill ≠ 1))⟩] }) s) := by
  simp [makeEligible, hx, hr, hu, hb, hw]

theorem makeEligible_single (hb : r.batched = false) :
    makeEligible n c h s =
      pump (updCtx n c (fun k => { k with ineligible := k.ineligible ++ [{ h with fence := false }] }) s) := by
  simp [makeEligible, hx, hr, hb]

end

/-- STEP_ELIGIBLE of a submission that waits behind its FENCE, no final completion of its pair waiting to be posted: it
becomes eligible exactly when it is the oldest command outstanding. -/
theorem stepEligible_fenced {o : Origin} {s : State} {f : Found} {q : QueuePair} {w : Outstanding} {rest : List Outstanding}
    (hf : (allSteps s).find? (fun f => f.held.is o && f.held.fence && !f.released) = some f) (hq : findPair s o.qp = some q)
    (ho : q.outstanding = w :: rest) (hw : ∀ x ∈ q.waiting, x.status = stAccepted) :
    stepEligible o s = if w.tag = o.tag then makeEligible f.part f.ctx { f.held with fence := false }
      (updCtx f.part f.ctx (fun c => { c with ineligible := c.ineligible.erase f.held }) s) else s := by
  have hall : (q.waiting.all fun x => x.status = stAccepted) = true := by simpa using hw
  simp only [stepEligible, hf, hq, ho, hall, List.head?_cons, Option.map_some, Option.some.injEq, Bool.and_true,
    decide_eq_true_eq]

theorem exec_stepEligible {qp : BitVec 6} {tag : U32} {s : State} (h : started s = true) :
    exec (.stepEligible qp tag) s = happens (stepEligible ⟨qp, tag, false⟩ s) :=
  congrArg _ (event_started h)

/-! ### The open set of a plan (R165, R166) -/

/-- Sets of other plans and sets that are due take no more steps. -/
theorem addToSets_append (fill : Nat) (h : Held) {l : List BatchSet} (hl : ∀ b ∈ l, b.plan = h.plan → b.due ≠ none)
    (m : List BatchSet) : addToSets fill h (l ++ m) = l ++ addToSets fill h m := by
  induction l with
  | nil => rfl
  | cons b l ih =>
    obtain ⟨hb, hl⟩ := List.forall_mem_cons.1 hl
    rw [List.cons_append, addToSets, if_neg fun hopen => hb hopen.1 hopen.2, ih hl, List.cons_append]

theorem addToSets_new (fill : Nat) (h : Held) {l : List BatchSet} (hl : ∀ b ∈ l, b.plan = h.plan → b.due ≠ none) :
    addToSets fill h l = l ++ [⟨h.plan, [h], if fill ≤ 1 then some false else none⟩] := by
  have happ := addToSets_append fill h hl []
  rwa [List.append_nil] at happ

theorem addToSets_open (fill : Nat) {h : Held} {b : BatchSet} (m : List BatchSet) (hp : b.plan = h.plan) (hd : b.due = none)
    (hlast : ∀ k ∈ b.steps, k.order ≤ h.order) (hsorted : b.steps.Pairwise fun x y => x.order ≤ y.order) :
    addToSets fill h (b :: m) = ⟨b.plan, b.steps ++ [h], if fill ≤ b.steps.length + 1 then some false else none⟩ :: m := by
  have hsort : sortBy (fun x y => x.order ≤ y.order) (b.steps ++ [h]) = b.steps ++ [h] :=
    sortBy_of_pairwise Held.order (List.pairwise_append.2 ⟨hsorted, List.pairwise_singleton .., by simpa using hlast⟩)
  simp only [addToSets, if_pos (And.intro hp hd), hsort, List.length_append, List.length_singleton]

/-! ### The wait limit and BATCH_SET (R166, R167) -/

theorem exec_waitLimitExpiry {n : BitVec 4} {c : BitVec 3} {h : U32} {s : State} (hs : started s = true) :
    exec (.waitLimitExpiry n c h) s = happens (releaseLate n c.toNat h s) :=
  congrArg _ (event_started hs)

theorem releaseLate_eq (n : BitVec 4) (c : Nat) (h : U32) (s : State) :
    releaseLate n c h s = pump (updCtx n c (fun k => { k with sets := k.sets.map fun b =>
      if b.plan = h ∧ b.due = none then { b with due := some true } else b }) s) := by
  simp only [releaseLate, updWhere, Bool.and_eq_true, decide_eq_true_eq]

section
variable {s : State} {q : QueuePair} {p c : Packet}

theorem exec_batchSet (h : Fetches 0x0405 s q p c) :
    exec (.batchSet p) s = .next (settle (deliver c (cmdBatchSet q c (fetchedState p s)))) :=
  h.runs cmdBatchSet

/-- BATCH_SET of a loaded plan: within its limits it sets the rule, outside them it is refused. -/
theorem cmdBatchSet_loaded {x : Partition} {r : Plan} (hx : findPart s (pktPart c) = some x) (hr : x.plan (par32 c 0) = some r) :
    cmdBatchSet q c s = if r.batched = false ∨ par c 4 2 = 0 ∨ r.batchMax < par c 4 2 ∨ 10000 < par c 6 2 then fail stBadLength s
      else ok [] (releaseFilled (pktPart c) (par32 c 0) (par c 4 2) (par c 6 2)
        (updPlan (pktPart c) (par32 c 0) (fun q => { q with fill := par c 4 2, wait := par c 6 2 }) s)) := by
  simp only [cmdBatchSet, hx, hr, Option.bind_some, Bool.or_eq_true, Bool.not_eq_true', decide_eq_true_eq, or_assoc]

end

/-! ### Release (R162, R173, R221) -/

/-- Steps whose CFGVER still matches make one batch, under the partition's rule of division. -/
theorem release_current {s : State} {n : BitVec 4} {x : Partition} {steps : List Held} (c : Nat) (plan : U32) (late : Bool)
    (hne : steps ≠ []) (hx : findPart s n = some x) (hcur : ∀ h ∈ steps, h.cfgver = 0 ∨ h.cfgver = cfgVersion s) :
    release n c plan steps late s = updCtx n c
      (fun k => { k with released := k.released ++ [⟨plan, steps, late, x.divMode, x.bsplit⟩] }) s := by
  have hgood : ∀ h ∈ steps, (decide (h.cfgver = 0) || decide (h.cfgver = cfgVersion s)) = true := fun h hh =>
    Bool.or_eq_true_iff.2 ((hcur h hh).imp decide_eq_true decide_eq_true)
  have hrun : (steps.filter fun h => h.cfgver = 0 || h.cfgver = cfgVersion s) = steps := List.filter_eq_self.2 hgood
  have hbad : (steps.filter fun h => !(h.cfgver = 0 || h.cfgver = cfgVersion s)) = [] :=
    List.filter_eq_nil_iff.2 fun h hh => by rw [hgood h hh]; decide
  simp only [release, hrun, hbad, List.foldl_nil, hx, List.isEmpty_eq_false_iff.2 hne, Bool.false_eq_true, if_false]

/-- A step whose CFGVER no longer matches ends, and no batch is made of it. -/
theorem release_stale {s : State} {h : Held} (n : BitVec 4) (c : Nat) (plan : U32) (late : Bool) (h0 : h.cfgver ≠ 0)
    (hv : h.cfgver ≠ cfgVersion s) : release n c plan [h] late s = finish h.origin stConfig 0 [] s := by
  have hbad : (decide (h.cfgver = 0) || decide (h.cfgver = cfgVersion s)) = false := by
    rw [decide_eq_false h0, decide_eq_false hv, Bool.or_self]
  simp only [release, List.filter_cons, List.filter_nil, hbad, Bool.not_false, Bool.false_eq_true, if_true, if_false,
    List.isEmpty_nil, List.foldl_cons, List.foldl_nil]

/-! ### STEP_CANCEL (R164) -/

section
variable {s : State} {q : QueuePair} {p c : Packet}

/-- Of a pair's submissions with a tag, the earliest decides. -/
theorem cancelTag_earliest {o : Origin} {f : Found} (hf : f ∈ (allSteps s).filter fun f => f.held.origin = o)
    (hmin : ∀ g ∈ (allSteps s).filter fun f => f.held.origin = o, g = f ∨ f.held.order < g.held.order) :
    cancelTag o s = if f.released then (1, s) else (0, cancelHeld f.held s) := by
  obtain ⟨fs, hfs⟩ := sortBy_of_least (fun f : Found => f.held.order) hf hmin
  simp only [cancelTag, Held.is, hfs]

theorem cancelTag_none {o : Origin} (hno : (allSteps s).filter (fun f => f.held.origin = o) = []) : cancelTag o s = (2, s) := by
  simp only [cancelTag, Held.is, hno, sortBy, List.foldr_nil]

theorem exec_stepCancel (h : Fetches 0x0404 s q p c) :
    exec (.stepCancel p) s = completes p (toLE 4 (cancelTag ⟨p.qp, par32 c 0, false⟩ (fetchedState p s)).1)
      (cancelTag ⟨p.qp, par32 c 0, false⟩ (fetchedState p s)).2 := by
  have hrun : exec (.stepCancel p) s = .next (settle (deliver c (cmdStepCancel q c (fetchedState p s)))) := h.runs cmdStepCancel
  rw [hrun, cmdStepCancel, deliver_ok, h.origin, h.qp]
  rfl

end

/-- Settles O39: each clause is the lemma above about its command, event or helper. -/
theorem stepsAreHeldForTheirBatch : Obligations.StepsAreHeldForTheirBatch := by
  unfold Obligations.StepsAreHeldForTheirBatch
  refine ⟨?submit, ?refused, fun fill h l hl => addToSets_new fill h hl, ?openSet, ?eligible, ?expiry, ?batchSet, ?release,
    fun _ n c plan _ late h0 hv => release_stale n c plan late h0 hv, ?cancel⟩
  case submit =>
    intro s q p c x r hf hx hr hu hunl h t
    have hheld (fence : Bool) : heldOf c s.order fence = { h with fence := fence } := by rw [heldOf, hf.origin]
    have hplan : x.plan h.plan = some r := hr
    have heligible (hfree) : exec (.stepSubmit p) s = accepts p (makeEligible (pktPart c) (pktCtx c) h t) :=
      (hheld false ▸ exec_stepSubmit_eligible hf hx hr hu hunl hfree :)
    refine ⟨fun hfence hout => ?_, fun hfree hb hw => ?_, fun hfree hb hw => ?_, fun hfree hb => ?_⟩
    · rw [exec_stepSubmit_fenced hf hx hr hu hunl hfence hout, hheld]
    · rw [heligible hfree, makeEligible_batched (s := t) _ hx hplan hu hb hw]
    · rw [heligible hfree, makeEligible_batched_noWait (s := t) _ hx hplan hu hb hw, Partition.plan_handle hr]
    · rw [heligible hfree, makeEligible_single (s := t) _ hx hplan hb]
  case refused =>
    intro s q p c hf hno
    rw [exec_stepSubmit hf, cmdStepSubmit_refused (s := fetchedState p s) hno, deliver_fail, hf.origin]
  case openSet =>
    intro fill h l m b hl hp hd hlast hsorted
    rw [addToSets_append fill h hl, addToSets_open fill m hp hd hlast hsorted]
  case eligible =>
    intro s qp tag f q o rest hs hf hq ho hw
    have hstep := stepEligible_fenced hf hq ho hw
    rw [exec_stepEligible hs, hstep]
    exact ⟨fun heq => by rw [if_pos heq], fun hne => by rw [if_neg hne]⟩
  case expiry =>
    intro s n c h hs
    rw [exec_waitLimitExpiry hs, releaseLate_eq]
  case batchSet =>
    intro s q p c x r hf hx hr
    have hcmd := cmdBatchSet_loaded (q := q) (s := fetchedState p s) hx hr
    rw [exec_batchSet hf, hcmd]
    refine ⟨fun hb h1 hm hw => ?_, fun hout => ?_⟩
    · rw [if_neg (by simp [hb]; omega), deliver_ok, hf.origin]
      rfl
    · rw [if_pos hout, deliver_fail, hf.origin]
  case release => exact fun _ _ _ c plan _ late hne hx hcur => release_current c plan late hne hx hcur
  case cancel =>
    intro s q p c hf mine
    rw [exec_stepCancel hf]
    refine ⟨fun hno => by rw [cancelTag_none hno], fun f hmem hmin => ?_⟩
    rw [cancelTag_earliest hmem hmin]
    exact ⟨fun hrel => by rw [if_pos hrel], fun hheld => by rw [hheld]; rfl⟩

end Sys2Proof.Machine
end

section
/-! SUPPORT and the SETTLED STATEMENT of channels, refreshes and scrubbing (O49): what an event leaves, what records and completions
leave, the error patterns of R186 one by one, what the reader of a line gets, and the rows of the vertical channels. -/
namespace Sys2Proof.Machine

/-! ### Events of a started block -/

section
variable {s : State} {f : State → State}

theorem next_event (h : started s = true) : (.next (event f s) : Host.Outcome State Fault Refusal) = happens (f s) := by
  rw [event_started h, happens]

theorem answer_event {wf : Bool} (hw : wf = true) (h : started s = true) : answer wf (event f s) = happens (f s) := by
  rw [answer, if_pos hw, next_event h]

end

theorem dramLayer_of_le {l : BitVec 5} (h2 : 2 ≤ l.toNat) (h22 : l.toNat ≤ 22) : dramLayer l = true :=
  Bool.and_eq_true_iff.2 ⟨decide_eq_true h2, decide_eq_true h22⟩

/-! ### Lists with keys and places -/

section
variable {α : Type}

theorem nth_setAt_same {l : List α} {i : Nat} (f : α → α) (d : α) (h : i < l.length) : nth (setAt l i f) i d = f (nth l i d) := by
  simp [nth, setAt, h]

theorem nth_setAt_other (l : List α) {i k : Nat} (f : α → α) (d : α) (h : k ≠ i) : nth (setAt l i f) k d = nth l k d := by
  simp [nth, setAt, List.getD_eq_getElem?_getD, h.symm]

/-- A look-up after an update of the entry with a key, which is added where there is none. -/
theorem find?_upsert {p : α → Bool} {f : α → α} {d : α} (l : List α) (hf : ∀ x, p (f x) = p x) (hd : p d = true) :
    (upsert p f d l).find? p = some (f ((l.find? p).getD d)) := by
  unfold upsert
  split
  · rename_i hany
    obtain ⟨x, hx⟩ := Option.isSome_iff_exists.1 (List.find?_isSome.2 (List.any_eq_true.1 hany))
    rw [find?_updWhere p f hf, hx, Option.map_some, Option.getD_some]
  · rename_i hany
    have hnone : l.find? p = none := List.find?_eq_none.2 fun x hx hp => hany (List.any_eq_true.2 ⟨x, hx, hp⟩)
    rw [List.find?_append, hnone, Option.none_or, List.find?_singleton, hf, hd, if_pos rfl, Option.getD_none]

/-- An entry whose key is not there yet comes at the end. -/
theorem upsert_absent {p : α → Bool} {l : List α} (f : α → α) (d : α) (h : ∀ x ∈ l, p x = false) : upsert p f d l = l ++ [f d] := by
  rw [upsert, if_neg]
  rw [List.any_eq_true]
  rintro ⟨x, hx, hp⟩
  rw [h x hx] at hp
  cases hp

theorem nodup_eraseDups [DecidableEq α] : ∀ l : List α, l.eraseDups.Nodup
  | [] => by simp
  | a :: l => by
    rw [List.eraseDups_cons, List.nodup_cons, List.mem_eraseDups]
    exact ⟨by simp, nodup_eraseDups _⟩
termination_by l => l.length
decreasing_by exact Nat.lt_succ_of_le (List.length_filter_le ..)

end

theorem findUnit_updUnit {u : Nat} {f : NbUnit → NbUnit} (hf : ∀ v, (f v).unit = v.unit) (s : State) :
    findUnit (updUnit u f s) u = f (findUnit s u) := by
  have hfind : (updUnit u f s).units.find? (fun x => x.unit = u) = some (f (findUnit s u)) :=
    find?_upsert s.units (fun v => by rw [hf]) (decide_eq_true rfl)
  rw [findUnit, hfind, Option.getD_some]

/-- The registers of a layer after an update of them, where the layer has registers. -/
theorem findLayer_updLayer {s : State} {l : Nat} {f : LayerRegs → LayerRegs} (hf : ∀ r, (f r).layer = r.layer)
    (h : ∃ r ∈ s.layerRegs, r.layer = l) : findLayer (updLayer l f s) l = f (findLayer s l) := by
  obtain ⟨r, hr⟩ := Option.isSome_iff_exists.1 (List.find?_isSome (xs := s.layerRegs) (p := fun r => r.layer = l) |>.2
    (by simpa using h))
  rw [findLayer, updLayer_layerRegs, find?_updWhere _ f (fun r => by rw [hf]), hr, Option.map_some, findLayer, hr]
  rfl

/-! ### What records, completions and packets that leave the device change -/

/-- From `s` the state `t` comes about by records, completions, interrupts, packets and the reckoning of the reserve: all else is
the same. -/
def Outward (s t : State) : Prop :=
  t = { s with pairs := t.pairs, fabric := t.fabric, out := t.out, draw := t.draw, bar := t.bar, recorder := t.recorder
               reserve := t.reserve }

namespace Outward
variable {s t u : State}

theorem refl (s : State) : Outward s s := rfl

theorem trans (h : Outward s t) (k : Outward t u) : Outward s u := by
  unfold Outward at *
  rw [k, h]

theorem foldl {α : Type} {f : State → α → State} (xs : List α) (hf : ∀ s x, Outward s (f s x)) : Outward s (xs.foldl f s) :=
  List.foldlRecOn (motive := Outward s) xs f (refl s) fun t ht x _ => ht.trans (hf t x)

theorem mem (h : Outward s t) : t.mem = s.mem := by rw [h]
theorem parity (h : Outward s t) : t.parity = s.parity := by rw [h]
theorem tags (h : Outward s t) : t.tags = s.tags := by rw [h]
theorem layers (h : Outward s t) : t.layers = s.layers := by rw [h]
theorem layerRegs (h : Outward s t) : t.layerRegs = s.layerRegs := by rw [h]

end Outward

theorem record_outward (cls typ sev : Nat) (part : Option (BitVec 4)) (body : List Byte) (s : State) :
    Outward s (record cls typ sev part body s) := by
  unfold Outward
  rw [record_frame]

theorem raiseEvent_outward (k : Nat) (s : State) : Outward s (raiseEvent k s) := by
  unfold Outward
  rw [raiseEvent_frame]

theorem settleReserve_outward (s : State) : Outward s (settleReserve s) := by
  have hmask : Outward s { s with reserve := { s.reserve with atMask := atMaskOf s } } := rfl
  refine hmask.trans (Outward.foldl _ fun t k => ?_)
  dsimp only
  split
  · exact .refl t
  · refine Outward.trans ?_ (record_outward ..)
    split
    · exact raiseEvent_outward ..
    · exact .refl t

/-! ### Error patterns (R186) -/

/-- The positions a pattern changes, each once. -/
def changedAt (errs : List (Nat × Byte)) : List Nat := ((errs.filter fun e => e.2 ≠ 0).map (·.1)).eraseDups

/-- The patterns that are corrected: changes of data and check symbols alone, confined to one lane or to two positions. -/
def Correctable (errs : List (Nat × Byte)) : Prop :=
  (∀ x ∈ errs, x.2 ≠ 0 → x.1 < 72) ∧
    ((∃ k, ∀ x ∈ errs, x.2 ≠ 0 → laneOf x.1 = k) ∨ ∃ a b, ∀ x ∈ errs, x.2 ≠ 0 → x.1 = a ∨ x.1 = b)

theorem forall_changedAt {errs : List (Nat × Byte)} {P : Nat → Prop} :
    (∀ p ∈ changedAt errs, P p) ↔ ∀ x ∈ errs, x.2 ≠ 0 → P x.1 := by
  simp only [changedAt, List.mem_eraseDups, List.mem_map, List.mem_filter, decide_eq_true_eq]
  constructor
  · exact fun h x hx h0 => h x.1 ⟨x, ⟨hx, h0⟩, rfl⟩
  · rintro h p ⟨x, ⟨hx, h0⟩, rfl⟩
    exact h x hx h0

theorem changedAt_eq_nil {errs : List (Nat × Byte)} : changedAt errs = [] ↔ ∀ x ∈ errs, x.2 = 0 := by
  rw [List.eq_nil_iff_forall_not_mem]
  exact forall_changedAt.trans ⟨fun h x hx => Decidable.byContradiction (h x hx), fun h x hx hne => hne (h x hx)⟩

theorem length_le_two_iff {l : List Nat} (h : l.Nodup) : l.length ≤ 2 ↔ ∃ a b, ∀ q ∈ l, q = a ∨ q = b := by
  constructor
  · intro hl
    match l with
    | [] => exact ⟨0, 0, nofun⟩
    | [a] => exact ⟨a, a, by simp⟩
    | [a, b] => exact ⟨a, b, by simp⟩
  · rintro ⟨a, b, hab⟩
    match l with
    | [] => exact Nat.zero_le 2
    | [_] => exact Nat.le_succ 1
    | [_, _] => exact Nat.le_refl 2
    | x :: y :: z :: _ =>
      simp only [List.nodup_cons, List.mem_cons, not_or] at h
      simp only [List.forall_mem_cons] at hab
      omega

/-- The decoder's verdict, by the positions changed. -/
theorem decodePattern_cons {errs : List (Nat × Byte)} {p : Nat} {rest : List Nat} (h : changedAt errs = p :: rest) :
    decodePattern errs =
      if (p :: rest).any (fun q => 72 ≤ q) then .misdirected
      else if rest.all (fun q => laneOf q = laneOf p) || (p :: rest).length ≤ 2 then .corrected
      else .uncorrectable := by
  unfold changedAt at h
  simp only [decodePattern, h]

theorem decodePattern_clean {errs : List (Nat × Byte)} (h : ∀ x ∈ errs, x.2 = 0) : decodePattern errs = .clean := by
  have hnil := changedAt_eq_nil.2 h
  unfold changedAt at hnil
  simp only [decodePattern, hnil]

/-- One lane, or two positions, as the decoder tests it. -/
theorem confined_iff {errs : List (Nat × Byte)} {p : Nat} {rest : List Nat} (h : changedAt errs = p :: rest) :
    (rest.all (fun q => laneOf q = laneOf p) || decide ((p :: rest).length ≤ 2)) = true ↔
      (∃ k, ∀ x ∈ errs, x.2 ≠ 0 → laneOf x.1 = k) ∨ ∃ a b, ∀ x ∈ errs, x.2 ≠ 0 → x.1 = a ∨ x.1 = b := by
  have hnodup : (p :: rest).Nodup := h ▸ nodup_eraseDups _
  have hlane : (∀ q ∈ rest, laneOf q = laneOf p) ↔ ∃ k, ∀ q ∈ p :: rest, laneOf q = k := by
    simp only [List.forall_mem_cons]
    exact ⟨fun hq => ⟨_, rfl, hq⟩, by rintro ⟨k, rfl, hq⟩; exact hq⟩
  rw [Bool.or_eq_true, decide_eq_true_eq, List.all_eq_true, length_le_two_iff hnodup]
  simp only [decide_eq_true_eq, hlane, ← h, forall_changedAt]

theorem misdirected_iff {errs : List (Nat × Byte)} :
    (changedAt errs).any (fun q => 72 ≤ q) = false ↔ ∀ x ∈ errs, x.2 ≠ 0 → x.1 < 72 := by
  simp only [List.any_eq_false, decide_eq_true_eq, Nat.not_le]
  exact forall_changedAt

theorem decodePattern_corrected {errs : List (Nat × Byte)} (hne : ∃ x ∈ errs, x.2 ≠ 0) (h : Correctable errs) :
    decodePattern errs = .corrected := by
  obtain ⟨hlow, hconf⟩ := h
  rcases hps : changedAt errs with _ | ⟨p, rest⟩
  · obtain ⟨x, hx, h0⟩ := hne
    exact absurd (changedAt_eq_nil.1 hps x hx) h0
  · have hany := misdirected_iff.2 hlow
    rw [hps] at hany
    rw [decodePattern_cons hps, hany, if_neg Bool.false_ne_true, if_pos ((confined_iff hps).2 hconf)]

theorem decodePattern_uncorrectable {errs : List (Nat × Byte)} (hne : ¬∀ x ∈ errs, x.2 = 0) (h : ¬Correctable errs) :
    decodePattern errs = .misdirected ∨ decodePattern errs = .uncorrectable := by
  rcases hps : changedAt errs with _ | ⟨p, rest⟩
  · exact absurd (changedAt_eq_nil.1 hps) hne
  · rw [decodePattern_cons hps]
    split
    · exact .inl rfl
    · rename_i hany
      rw [Bool.not_eq_true, ← hps] at hany
      rw [if_neg fun hconf => h ⟨misdirected_iff.1 hany, (confined_iff hps).1 hconf⟩]
      exact .inr rfl

theorem misread_few {errs : List (Nat × Byte)} (h : ((patternWord errs).filter (· ≠ 0)).length < 5) : misread errs = none := by
  rw [misread, if_pos h]

/-! ### Bytes of a line (R184, R196) -/

/-- A byte that one cell names, after a write of cells at different addresses. -/
theorem memGet_memSetAll_mem {cells : List Host.Cell} {m : List Host.Cell} (hw : Memory.wf m = true)
    (hd : (cells.map Prod.fst).Nodup) {c : Host.Cell} (hc : c ∈ cells) : memGet (memSetAll m cells) c.1 = c.2 := by
  induction cells generalizing m with
  | nil => cases hc
  | cons d cs ih =>
    rw [List.map_cons, List.nodup_cons] at hd
    obtain ⟨hnot, hd⟩ := hd
    rw [memSetAll_cons]
    rcases List.mem_cons.1 hc with rfl | hc
    · have hkeep : memGet (memSetAll (memSet m c.1 c.2) cs) c.1 = memGet (memSet m c.1 c.2) c.1 :=
        memGet_memSetAll_other cs (memSet_wf _ _ hw) c.1 fun e he heq => hnot (heq ▸ List.mem_map_of_mem he)
      rw [hkeep, memGet_memSet hw, if_pos rfl]
    · exact ih (memSet_wf _ _ hw) hd hc

/-- The 64 cells of a line. -/
def lineCells (l : Nat) (bytes : List Byte) : List Host.Cell := ((List.range 64).map fun i => 64 * l + i).zip bytes

theorem lineCells_fst {l : Nat} {bytes : List Byte} (hb : bytes.length = 64) :
    (lineCells l bytes).map Prod.fst = (List.range 64).map fun i => 64 * l + i :=
  List.map_fst_zip (by simp [hb])

theorem mem_lineCells {l i : Nat} {bytes : List Byte} (hb : bytes.length = 64) (hi : i < 64) :
    (64 * l + i, nth bytes i 0) ∈ lineCells l bytes := by
  refine List.mem_iff_getElem.2 ⟨i, by simp [lineCells, hb, hi], ?_⟩
  simp [lineCells, nth, hb, hi]

/-- What memory holds once a line has been written. -/
theorem memGet_memSetAll_line {m : List Host.Cell} (hw : Memory.wf m = true) {l : Nat} {bytes : List Byte} (hb : bytes.length = 64)
    (a : Nat) : memGet (memSetAll m (lineCells l bytes)) a = if lineOf a = l then nth bytes (a % 64) 0 else memGet m a := by
  split
  · rename_i hl
    have ha : a = 64 * l + a % 64 := by rw [← hl, lineOf]; omega
    have hd : ((lineCells l bytes).map Prod.fst).Nodup := by
      rw [lineCells_fst hb]
      exact List.pairwise_map.2 (List.nodup_range.imp fun hne h => hne (Nat.add_left_cancel h))
    have hc := mem_lineCells (l := l) hb (Nat.mod_lt a (by decide))
    rw [← ha] at hc
    exact memGet_memSetAll_mem hw hd hc
  · rename_i hl
    refine memGet_memSetAll_other _ hw a fun c hc he => hl ?_
    have hin : c.1 ∈ (lineCells l bytes).map Prod.fst := List.mem_map_of_mem hc
    rw [lineCells_fst hb] at hin
    obtain ⟨i, hi, hci⟩ := List.mem_map.1 hin
    rw [List.mem_range] at hi
    rw [← he, ← hci, lineOf]
    omega

theorem fromParity_length (s : State) (l : Nat) : (fromParity s l).length = 64 := by simp [fromParity]

theorem fromParity_congr {s t : State} (hm : t.mem = s.mem) (hp : t.parity = s.parity) (l : Nat) : fromParity t l = fromParity s l := by
  rw [fromParity, hm, hp, fromParity]

theorem stateOf_tagPut_same {ts : List LineTag} (h : tagsRising ts) (t : LineTag) : stateOf (tagPut ts t) t.line = some t.state := by
  rw [stateOf, tagOf_tagPut h, if_pos rfl, Option.map_some]

theorem stateOf_tagPut_other {ts : List LineTag} (h : tagsRising ts) {t : LineTag} {l : Nat} (hl : l ≠ t.line) :
    stateOf (tagPut ts t) l = stateOf ts l := by
  rw [stateOf, tagOf_tagPut h, if_neg hl, stateOf]

/-! ### What the reader of a line gets (R186, R196, R197) -/

theorem canForm_congr {s t : State} (hl : t.layers = s.layers) (ha : t.absorbed = s.absorbed) (bad : List Nat) (l : Nat) :
    canForm t bad l = canForm s bad l := by
  have hon : onAbsorbed t = onAbsorbed s := funext (onAbsorbed_congr hl ha)
  have hparity : hasParity t l = hasParity s l := by
    unfold hasParity stripeParity layerState
    rw [absorbedLayer_congr hl, hl, ha]
  simp only [canForm, hparity, absorbedLine, hon]

section
variable {s : State} {e : ReadErrors} {l : Nat} (who : Nat) (again : List Nat) (hl : lineState s l ≠ some .lost)
  (ha : onAbsorbed s l = false)
include hl ha

theorem readLine_clean (hd : decodePattern (errorsOf e l) = .clean) :
    readLine who again e l s = (true, countBursts (lineCore l) 1 s) := by
  have hu : onAbsorbed (countBursts (lineCore l) 1 s) l = false := ha
  unfold readLine
  split
  · exact absurd ‹_› hl
  · simp only [hu, hd, Bool.false_eq_true, if_false]

theorem readLine_corrected (hd : decodePattern (errorsOf e l) = .corrected) :
    readLine who again e l s =
      (true, countCorrected (physOfLine s l) (lineCore l) (errorsOf e l) (countBursts (lineCore l) 1 s)) := by
  have hu : onAbsorbed (countBursts (lineCore l) 1 s) l = false := ha
  unfold readLine
  split
  · exact absurd ‹_› hl
  · simp only [hu, hd, Bool.false_eq_true, if_false]

theorem readLine_misread (hd : decodePattern (errorsOf e l) = .misdirected ∨ decodePattern (errorsOf e l) = .uncorrectable)
    {c : List (Nat × Byte)} {w : List Byte} (hm : misread (errorsOf e l) = some (c, w)) :
    readLine who again e l s = (true, if c = [] then countBursts (lineCore l) 1 s
      else countCorrected (physOfLine s l) (lineCore l) c (countBursts (lineCore l) 1 s)) := by
  have hu : onAbsorbed (countBursts (lineCore l) 1 s) l = false := ha
  unfold readLine
  split
  · exact absurd ‹_› hl
  · rcases hd with hd | hd <;> simp only [hu, hd, hm, Bool.false_eq_true, if_false]

/-- Errors that the code sees and cannot correct: the line is to be formed from its stripe. -/
theorem readLine_uncorrectable (hd : decodePattern (errorsOf e l) = .misdirected ∨ decodePattern (errorsOf e l) = .uncorrectable)
    (hm : misread (errorsOf e l) = none) :
    ∃ t, readLine who again e l s = reconstruct who again e.badStripe l t ∧ t.mem = s.mem ∧ t.parity = s.parity ∧ t.tags = s.tags ∧
      t.layers = s.layers ∧ t.absorbed = s.absorbed := by
  have hu : onAbsorbed (countBursts (lineCore l) 1 s) l = false := ha
  refine ⟨updLayer (physOfLine s l) (fun r => { r with uncorr := r.uncorr + 1 }) (countBursts (lineCore l) 1 s), ?_,
    rfl, rfl, rfl, rfl, rfl⟩
  unfold readLine
  split
  · exact absurd ‹_› hl
  · rcases hd with hd | hd <;> simp only [hu, hd, hm, Bool.false_eq_true, if_false]

end

section
variable {s : State} {e : ReadErrors} {l : Nat}

theorem asRead_seen (hd : decodePattern (errorsOf e l) = .clean ∨ decodePattern (errorsOf e l) = .corrected) :
    asRead e l s = s := by
  unfold asRead
  split
  · rfl
  · rcases hd with hd | hd <;> simp only [hd]

theorem asRead_detected (hm : misread (errorsOf e l) = none) : asRead e l s = s := by
  unfold asRead
  split
  · rfl
  · split
    · rfl
    · rfl
    · simp only [hm]

theorem asRead_misread (ha : onAbsorbed s l = false)
    (hd : decodePattern (errorsOf e l) = .misdirected ∨ decodePattern (errorsOf e l) = .uncorrectable)
    {c : List (Nat × Byte)} {w : List Byte} (hm : misread (errorsOf e l) = some (c, w)) : asRead e l s = garble l w s := by
  rcases hd with hd | hd <;> simp only [asRead, ha, hd, hm, Bool.false_eq_true, if_false]

end

theorem rebuildLine_mem (l : Nat) (s : State) : (rebuildLine l s).mem = memSetAll s.mem (lineCells l (fromParity s l)) := by
  rw [rebuildLine, lineCells]

theorem rebuildLine_tags (l : Nat) (s : State) : (rebuildLine l s).tags = s.tags := by rw [rebuildLine]

theorem reconstruct_rebuilds {s : State} {l : Nat} {bad : List Nat} (who : Nat) (again : List Nat) (hf : canForm s bad l = true)
    (ha : onAbsorbed s l = false) :
    reconstruct who again bad l s = (true, rebuildLine l (recordUncorr (l * 64) who 0
      ((ownerOf s (tractOfCore (lineCore l))).map (·.num)) (updLayer (physOfLine s l) (fun r => { r with recon := r.recon + 1 }) s))) := by
  have hb : onAbsorbed (updLayer (physOfLine s l) (fun r => { r with recon := r.recon + 1 }) s) l = false := ha
  simp only [reconstruct, hf, if_true, hb, Bool.false_eq_true, if_false]

/-- A line formed from its stripe: the tags stay, and memory holds the line as the stripe gives it. -/
theorem reconstruct_formed {s : State} {l : Nat} {bad : List Nat} (who : Nat) (again : List Nat) (hf : canForm s bad l = true)
    (ha : onAbsorbed s l = false) :
    (reconstruct who again bad l s).1 = true ∧ (reconstruct who again bad l s).2.tags = s.tags ∧
    (reconstruct who again bad l s).2.mem = memSetAll s.mem (lineCells l (fromParity s l)) := by
  have hout : ∀ part : Option (BitVec 4), Outward (updLayer (physOfLine s l) (fun r => { r with recon := r.recon + 1 }) s)
    (recordUncorr (l * 64) who 0 part (updLayer (physOfLine s l) (fun r => { r with recon := r.recon + 1 }) s)) :=
    fun part => record_outward ..
  rw [reconstruct_rebuilds who again hf ha]
  refine ⟨rfl, ?_, ?_⟩
  · rw [rebuildLine_tags, (hout _).tags, updLayer_tags]
  · rw [rebuildLine_mem, (hout _).mem, fromParity_congr (hout _).mem (hout _).parity, updLayer_mem]
    rfl

/-- A line is set lost, counted and recorded. -/
def loseRecorded (who : Nat) (again : List Nat) (part : Option (BitVec 4)) (l : Nat) (s : State) : State :=
  recordUncorr (l * 64) who (if again.contains l then 1 else 2) part
    (updLayer (physOfLine s l) (fun r => { r with lostLines := r.lostLines + 1 }) (loseLine (genAt s (l * 64)) l s))

section
variable (who : Nat) (again : List Nat) (part : Option (BitVec 4)) (l : Nat) (s : State)

theorem loseRecorded_outward : Outward (updLayer (physOfLine s l) (fun r => { r with lostLines := r.lostLines + 1 })
    (loseLine (genAt s (l * 64)) l s)) (loseRecorded who again part l s) := record_outward ..

theorem loseRecorded_mem : (loseRecorded who again part l s).mem = s.mem := (loseRecorded_outward who again part l s).mem

theorem loseRecorded_tags : (loseRecorded who again part l s).tags = tagPut s.tags ⟨l, genAt s (l * 64), .lost⟩ :=
  (loseRecorded_outward who again part l s).tags

/-- The line is lost, and with it at most one other, which waited to be absorbed. -/
theorem loseRead_cases : ∃ part, loseRead who again l s = loseRecorded who again part l s ∨
    ∃ m, m ≠ l ∧ loseRead who again l s = loseRecorded who again part m (loseRecorded who again part l s) := by
  let part := (ownerOf s (tractOfCore (lineCore l))).map (·.num)
  refine ⟨part, ?_⟩
  unfold loseRead
  rcases absorbedLine s l with _ | m
  · exact .inl rfl
  · by_cases hm : m ≠ l ∧ stateOf (loseRecorded who again part l s).tags m = some .valid
    · exact .inr ⟨m, hm.1, if_pos hm⟩
    · exact .inl (if_neg hm)

/-- A line that nothing can form is lost, and no byte changes. -/
theorem loseRead_lost (hs : tagsRising s.tags) :
    (loseRead who again l s).mem = s.mem ∧ stateOf (loseRead who again l s).tags l = some .lost := by
  have hlost : ∀ part, stateOf (loseRecorded who again part l s).tags l = some .lost := fun part => by
    rw [loseRecorded_tags, stateOf_tagPut_same hs]
  obtain ⟨part, heq | ⟨m, hm, heq⟩⟩ := loseRead_cases who again l s
  · rw [heq]
    exact ⟨loseRecorded_mem .., hlost part⟩
  · have hrise : tagsRising (loseRecorded who again part l s).tags := by
      rw [loseRecorded_tags]
      exact tagPut_rising _ hs
    rw [heq, loseRecorded_mem, loseRecorded_mem, loseRecorded_tags, stateOf_tagPut_other hrise (Ne.symm hm)]
    exact ⟨rfl, hlost part⟩

end

theorem reconstruct_lost {s : State} {l : Nat} {bad : List Nat} (who : Nat) (again : List Nat) (hf : canForm s bad l = false) :
    reconstruct who again bad l s = (false, loseRead who again l s) := by
  simp only [reconstruct, hf, Bool.false_eq_true, if_false]

section
variable {s : State} {e : ReadErrors} {l : Nat} (who : Nat) (again : List Nat) (hl : lineState s l ≠ some .lost)
  (ha : onAbsorbed s l = false)
  (hd : decodePattern (errorsOf e l) = .misdirected ∨ decodePattern (errorsOf e l) = .uncorrectable)
  (hm : misread (errorsOf e l) = none)
include hl ha hd hm

/-- A line that its stripe can give is left as its stripe gives it. -/
theorem readLine_formed (hf : canForm s e.badStripe l = true) (hw : Memory.wf s.mem = true) :
    (readLine who again e l s).1 = true ∧ (readLine who again e l s).2.tags = s.tags ∧
    ∀ a, memGet (readLine who again e l s).2.mem a = if lineOf a = l then nth (fromParity s l) (a % 64) 0 else memGet s.mem a := by
  obtain ⟨t, ht, hmem, hpar, htags, hlay, habs⟩ := readLine_uncorrectable who again hl ha hd hm
  obtain ⟨hgood, htags', hmem'⟩ := reconstruct_formed who again ((canForm_congr hlay habs _ _).trans hf)
    ((onAbsorbed_congr hlay habs l).trans ha)
  rw [ht]
  refine ⟨hgood, htags'.trans htags, fun a => ?_⟩
  rw [hmem', hmem, fromParity_congr hmem hpar, memGet_memSetAll_line hw (fromParity_length s l)]

/-- Any other is lost. -/
theorem readLine_loses (hf : canForm s e.badStripe l = false) (hs : tagsRising s.tags) :
    (readLine who again e l s).1 = false ∧ (readLine who again e l s).2.mem = s.mem ∧
    stateOf (readLine who again e l s).2.tags l = some .lost := by
  obtain ⟨t, ht, hmem, -, htags, hlay, habs⟩ := readLine_uncorrectable who again hl ha hd hm
  obtain ⟨hmem', hlost⟩ := loseRead_lost who again l t (htags ▸ hs)
  rw [ht, reconstruct_lost who again ((canForm_congr hlay habs _ _).trans hf)]
  exact ⟨rfl, hmem'.trans hmem, hlost⟩

end

/-- A line read wrong changes only the 16-byte blocks that hold a wrong byte. -/
theorem garble_other {s : State} {l : Nat} {w : List Byte} (hw : Memory.wf s.mem = true) {a : Nat}
    (h : a / 64 ≠ l ∨ ∀ i, i < 16 → nth w (8 + 16 * (a % 64 / 16) + i) 0 = 0) : memGet (garble l w s).mem a = memGet s.mem a := by
  unfold garble
  split
  · refine memGet_memSetAll_other _ hw a fun c hc he => ?_
    obtain ⟨k, hk, rfl⟩ := List.mem_map.1 hc
    obtain ⟨b, hb, hkb⟩ := List.mem_flatMap.1 hk
    obtain ⟨j, hj, rfl⟩ := List.mem_map.1 hkb
    obtain ⟨hb4, hwrong⟩ := List.mem_filter.1 hb
    obtain ⟨i, hi, hne⟩ := List.any_eq_true.1 hwrong
    rw [List.mem_range] at hb4 hj hi
    have hblock : a % 64 / 16 = b := by rw [← he]; omega
    rcases h with hl | hclean
    · exact hl (by rw [← he]; omega)
    · rw [hblock] at hclean
      exact of_decide_eq_true hne (hclean i hi)
  · rfl

theorem garble_tags (l : Nat) (w : List Byte) (s : State) : (garble l w s).tags = s.tags := by
  unfold garble
  split <;> rfl

/-! ### Refreshes, command time-outs and the hot interval (R26, R191, R213) -/

section
variable {s : State} {core layer : Nat}

theorem refreshDue_issued (h : 6 ≤ layer ∨ (findUnit s (65536 * (layer - 2) + core / 16)).processor = false) :
    refreshDue core layer s = { s with out := s.out ++ [.channel core (channelWord 3 layer 0)] } := by
  unfold refreshDue
  dsimp only
  split
  · rfl
  · rename_i hlow
    rw [h.resolve_left hlow, Bool.not_false, if_pos rfl]

/-- A refresh that a unit in processor mode holds up is owed, at most 4. -/
theorem refreshDue_owed (hlow : layer < 6) (hp : (findUnit s (65536 * (layer - 2) + core / 16)).processor = true) :
    let u := 65536 * (layer - 2) + core / 16
    refreshDue core layer s = { s with units := (refreshDue core layer s).units } ∧
    (findUnit (refreshDue core layer s) u).owed =
      setAt (findUnit s u).owed (core % 16) fun _ => min 4 (nth (findUnit s u).owed (core % 16) 0 + 1) := by
  intro u
  have hdue : ∃ f : NbUnit → NbUnit, refreshDue core layer s = updUnit u f s ∧ (∀ v, (f v).unit = v.unit) ∧
      ∀ v, (f v).owed = setAt v.owed (core % 16) fun _ => min 4 (nth (findUnit s u).owed (core % 16) 0 + 1) := by
    unfold refreshDue
    dsimp only
    rw [if_neg (Nat.not_le.2 hlow), hp, Bool.not_true, if_neg Bool.false_ne_true]
    exact ⟨_, rfl, fun _ => rfl, fun _ => rfl⟩
  obtain ⟨f, hf, hunit, howed⟩ := hdue
  rw [hf]
  exact ⟨rfl, by rw [findUnit_updUnit hunit, howed]⟩

end

theorem commandTimeout_first {s : State} {core : Nat} (h : ∀ n, (core, n) ∉ s.laneErrors) :
    upsert (fun x : Nat × Nat => x.1 = core) (fun x => (x.1, x.2 + 1)) (core, 0) s.laneErrors = s.laneErrors ++ [(core, 1)] := by
  refine upsert_absent _ _ fun x hx => decide_eq_false ?_
  rintro rfl
  exact h x.2 hx

/-- A tract is kept at the short interval by any warm DRAM reading or estimate of it. -/
theorem warm_iff (s : State) (t : Nat) :
    ((s.thermal.sensors.filter fun x => isDram x.die && x.idx = t).any fun x =>
      decide (1328 < x.reading) || decide (1328 < areaTemp s x.die x.idx)) = true ↔
    ∃ x ∈ s.thermal.sensors, isDram x.die = true ∧ x.idx = t ∧ (1328 < x.reading ∨ 1328 < areaTemp s x.die x.idx) := by
  simp only [List.any_eq_true, List.mem_filter, Bool.and_eq_true, Bool.or_eq_true, decide_eq_true_eq, and_assoc]

/-! ### Scrubbing (R192) -/

theorem scrubStart_begins {s : State} {l : Nat} (hen : (findLayer s l).scrubCtl.getLsbD 0 = true) (hnot : l ∉ s.scrubbing) :
    scrubStart l s = updLayer l (fun r => { r with progress := [] }) { s with scrubbing := s.scrubbing ++ [l] } := by
  rw [scrubStart, hen, List.contains_eq_mem, decide_eq_false hnot]
  rfl

theorem scrubStart_stays {s : State} {l : Nat} (h : (findLayer s l).scrubCtl.getLsbD 0 = false ∨ l ∈ s.scrubbing) :
    scrubStart l s = s := by
  rw [scrubStart, if_neg]
  intro hboth
  obtain ⟨hen, hnot⟩ := Bool.and_eq_true_iff.1 hboth
  rcases h with hoff | hin
  · rw [hoff] at hen
    cases hen
  · rw [List.contains_eq_mem, decide_eq_true hin] at hnot
    cases hnot

/-- The line is the next of its channel in a running pass of its layer. -/
structure ScrubTurn (r : ScrubRead) (s : State) : Prop where
  running : r.layer.toNat ∈ s.scrubbing
  enabled : (findLayer s r.layer.toNat).scrubCtl.getLsbD 0 = true
  next : scrubNext (findLayer s r.layer.toNat) r.core.toNat = r.line.toNat
  below : r.line.toNat < passLines r.layer.toNat

/-- The state once the line counts as scrubbed. -/
def lineScrubbed (r : ScrubRead) (s : State) : State :=
  countBursts r.core.toNat 1 (scrubStep r.layer.toNat r.core.toNat r.line.toNat s)

theorem scrubStep_frame (l core line : Nat) (s : State) :
    scrubStep l core line s =
      { s with layerRegs := (scrubStep l core line s).layerRegs, scrubbing := (scrubStep l core line s).scrubbing } := by
  unfold scrubStep
  dsimp only
  split <;> rfl

theorem lineScrubbed_frame (r : ScrubRead) (s : State) :
    lineScrubbed r s = { s with layerRegs := (lineScrubbed r s).layerRegs, scrubbing := (lineScrubbed r s).scrubbing
                                laneCounts := (lineScrubbed r s).laneCounts } := by
  unfold lineScrubbed
  rw [scrubStep_frame]
  rfl

theorem storedAt_lineScrubbed (r : ScrubRead) (s : State) (phys core line : Nat) :
    storedAt (lineScrubbed r s) phys core line = storedAt s phys core line := by
  rw [lineScrubbed_frame]
  rfl

theorem lineState_lineScrubbed (r : ScrubRead) (s : State) (l : Nat) : lineState (lineScrubbed r s) l = lineState s l := by
  rw [lineScrubbed_frame]
  rfl

section
variable {r : ScrubRead} {s : State}

/-- The test that keeps a line from being scrubbed. -/
theorem out_of_turn_iff : (!s.scrubbing.contains r.layer.toNat || !(findLayer s r.layer.toNat).scrubCtl.getLsbD 0 ||
      scrubNext (findLayer s r.layer.toNat) r.core.toNat ≠ r.line.toNat || passLines r.layer.toNat ≤ r.line.toNat) = true ↔
    r.layer.toNat ∉ s.scrubbing ∨ (findLayer s r.layer.toNat).scrubCtl.getLsbD 0 = false ∨
      scrubNext (findLayer s r.layer.toNat) r.core.toNat ≠ r.line.toNat ∨ passLines r.layer.toNat ≤ r.line.toNat := by
  simp [or_assoc]

theorem scrubbed_out_of_turn (h : r.layer.toNat ∉ s.scrubbing ∨ (findLayer s r.layer.toNat).scrubCtl.getLsbD 0 = false ∨
    scrubNext (findLayer s r.layer.toNat) r.core.toNat ≠ r.line.toNat ∨ passLines r.layer.toNat ≤ r.line.toNat) :
    scrubbed r s = s := if_pos (out_of_turn_iff.2 h)

theorem ScrubTurn.passes (h : ScrubTurn r s) :
    ¬(!s.scrubbing.contains r.layer.toNat || !(findLayer s r.layer.toNat).scrubCtl.getLsbD 0 ||
      scrubNext (findLayer s r.layer.toNat) r.core.toNat ≠ r.line.toNat || passLines r.layer.toNat ≤ r.line.toNat) = true := by
  rw [out_of_turn_iff, h.enabled]
  rintro (hrun | hen | hnext | hbelow)
  · exact hrun h.running
  · cases hen
  · exact hnext h.next
  · exact Nat.not_le.2 h.below hbelow

theorem scrubbed_data (h : ScrubTurn r s) {l : Nat} (hst : storedAt s r.layer.toNat r.core.toNat r.line.toNat = .data l)
    (hseal : 6 ≤ r.layer.toNat ∨ r.sealDiffers = false) :
    scrubbed r s = scrubData ⟨r.symbols.map fun x => (l, x.1, x.2),
      if r.reconstructs then [] else [r.line.toNat + r.core.toNat * 2 ^ 11 + 20 * 2 ^ 31], r.again.map fun x => (l, x.1, x.2)⟩ l
      (lineScrubbed r s) := by
  rw [← storedAt_lineScrubbed r s] at hst
  unfold lineScrubbed at hst ⊢
  have hno : ¬(decide (r.layer.toNat < 6) && r.sealDiffers) = true := by
    intro hboth
    obtain ⟨hlow, hdiffers⟩ := Bool.and_eq_true_iff.1 hboth
    rcases hseal with hs | hs
    · exact Nat.not_lt.2 hs (of_decide_eq_true hlow)
    · rw [hs] at hdiffers
      cases hdiffers
  simp only [scrubbed, if_neg h.passes, hst, if_neg hno]

theorem scrubbed_parity (h : ScrubTurn r s) (hst : storedAt s r.layer.toNat r.core.toNat r.line.toNat = .parity) :
    scrubbed r s = scrubParity r.layer.toNat r.core.toNat r.line.toNat (errorsAt r.symbols r.again) r.parityDiffers r.reconstructs
      (lineScrubbed r s) := by
  rw [← storedAt_lineScrubbed r s] at hst
  unfold lineScrubbed at hst ⊢
  simp only [scrubbed, if_neg h.passes, hst]

theorem scrubbed_tags (h : ScrubTurn r s) {y : Option Nat} (hst : storedAt s r.layer.toNat r.core.toNat r.line.toNat = .tags y) :
    scrubbed r s = scrubTags r.layer.toNat r.core.toNat r.line.toNat y (errorsAt r.symbols r.again) r.reconstructs
      (lineScrubbed r s) := by
  rw [← storedAt_lineScrubbed r s] at hst
  unfold lineScrubbed at hst ⊢
  simp only [scrubbed, if_neg h.passes, hst]

theorem scrubbed_nothing (h : ScrubTurn r s) (hst : storedAt s r.layer.toNat r.core.toNat r.line.toNat = .nothing) :
    scrubbed r s = lineScrubbed r s := by
  rw [← storedAt_lineScrubbed r s] at hst
  unfold lineScrubbed at hst ⊢
  simp only [scrubbed, if_neg h.passes, hst]

end

/-! ### The bucket of correctable errors (R194, R195) -/

theorem addToBucket_room {s : State} {phys : Nat}
    (h : (findLayer s phys).level.toNat + 1 < max 1 (bitsOf (findLayer s phys).cebktCfg.toNat 0 24)) :
    addToBucket phys s = updLayer phys (fun r => { r with level := r.level + 1 }) s := by
  unfold addToBucket
  dsimp only
  rw [if_pos h]

/-- A correction that fills the bucket, below the third overflow: the bucket is empty, the overflow counted and recorded. -/
theorem addToBucket_full {s : State} {phys : Nat}
    (h : max 1 (bitsOf (findLayer s phys).cebktCfg.toNat 0 24) ≤ (findLayer s phys).level.toNat + 1)
    (hovf : (findLayer s phys).ovf.toNat ≤ 1) (hin : ∃ r ∈ s.layerRegs, r.layer = phys) :
    ∃ t, (findLayer t phys).level = 0 ∧ (findLayer t phys).ovf = (findLayer s phys).ovf + 1 ∧ t.layers = s.layers ∧ t.mem = s.mem ∧
      Outward t (addToBucket phys s) := by
  refine ⟨updLayer phys (fun r => { r with level := 0, ovf := if r.ovf = 255 then 255 else r.ovf + 1 }) s, ?_⟩
  have h255 : (findLayer s phys).ovf ≠ 255 := by
    intro h255
    rw [h255] at hovf
    exact absurd hovf (by decide)
  have hlayer : findLayer (updLayer phys (fun r => { r with level := 0, ovf := if r.ovf = 255 then 255 else r.ovf + 1 }) s) phys =
      { findLayer s phys with level := 0, ovf := (findLayer s phys).ovf + 1 } := by
    rw [findLayer_updLayer (f := fun r => { r with level := 0, ovf := if r.ovf = 255 then 255 else r.ovf + 1 }) (fun _ => rfl) hin,
      if_neg h255]
  have hthird : ¬3 ≤ ((findLayer s phys).ovf + 1).toNat := by
    bv_omega
  unfold addToBucket
  dsimp only
  rw [if_neg (Nat.not_lt.2 h), hlayer, if_neg hthird]
  exact ⟨rfl, rfl, rfl, rfl, (record_outward ..).trans (settleReserve_outward _)⟩

theorem findLayer_congr {s t : State} (h : t.layerRegs = s.layerRegs) (phys : Nat) : findLayer t phys = findLayer s phys := by
  rw [findLayer, h, findLayer]

/-- What a leak takes from a level: the rate in the upper byte of the bucket's register. -/
theorem bucketLeak_level (s : State) {k : Nat} (hk : k < s.layerRegs.length) :
    (nth (bucketLeak s).layerRegs k (LayerRegs.fresh 0)).level.toNat =
      (nth s.layerRegs k (LayerRegs.fresh 0)).level.toNat - (nth s.layerRegs k (LayerRegs.fresh 0)).cebktCfg.toNat / 2 ^ 24 := by
  have hreg : nth (bucketLeak s).layerRegs k (LayerRegs.fresh 0) =
      let r := nth s.layerRegs k (LayerRegs.fresh 0)
      { r with level := BitVec.ofNat 24 (r.level.toNat - bitsOf r.cebktCfg.toNat 24 8) } := by
    simp [bucketLeak, nth, hk]
  rw [hreg]
  generalize nth s.layerRegs k (LayerRegs.fresh 0) = r
  have hlevel := r.level.isLt
  have hcfg := r.cebktCfg.isLt
  simp only [bitsOf, BitVec.toNat_ofNat]
  omega

/-! ### O49 -/

/-- Settles O49: each clause is the lemma above about its event, about the reader of a line, or about a bucket. -/
theorem channelsRefreshAndScrub : Obligations.ChannelsRefreshAndScrub := by
  unfold Obligations.ChannelsRefreshAndScrub
  refine ⟨?refresh, ?retrain, ?writeback, ?timeout, ?cooled, ?passStart, ?scrub, ?read, ?garbled,
    fun _ => misread_few, ?bucket, ?leak⟩
  case refresh =>
    intro s core layer hs h2 h22 u
    have hexec : exec (.refreshDue core layer) s = happens (refreshDue core.toNat layer.toNat s) :=
      answer_event (dramLayer_of_le h2 h22) hs
    refine ⟨fun h => by rw [hexec, refreshDue_issued h], fun hlow hp => ?_⟩
    obtain ⟨hframe, howed⟩ := refreshDue_owed hlow hp
    refine ⟨_, hexec, hframe, fun k hk => ?_⟩
    rw [howed]
    split
    · rename_i hk'
      rw [← hk', nth_setAt_same _ _ hk]
    · rename_i hk'
      rw [nth_setAt_other _ _ _ hk']
  case retrain => exact fun _ _ hs => next_event hs
  case writeback => exact fun _ _ _ _ hs => next_event hs
  case timeout => exact fun s core cmd hs => ⟨_, next_event hs, commandTimeout_first⟩
  case cooled =>
    intro s k hs warm
    have hexec : exec (.tractCooled k) s = happens (tractCooled k.toNat s) := next_event hs
    rw [hexec, tractCooled]
    exact ⟨fun h => by rw [if_pos ((warm_iff s _).2 h)], fun h => by rw [if_neg fun hw => h ((warm_iff s _).1 hw)]⟩
  case passStart =>
    intro s l hs h2 h22
    have hexec : exec (.scrubPassStart l) s = happens (scrubStart l.toNat s) := answer_event (dramLayer_of_le h2 h22) hs
    rw [hexec]
    exact ⟨fun hen hnot => by rw [scrubStart_begins hen hnot], fun h => by rw [scrubStart_stays h]⟩
  case scrub =>
    intro s r hs hw reg u
    have hexec : exec (.scrubRead r) s = happens (scrubbed r s) := answer_event hw hs
    rw [hexec]
    refine ⟨fun h => by rw [scrubbed_out_of_turn h], fun hrun hen hnext hbelow => ?_⟩
    have hturn : ScrubTurn r s := ⟨hrun, hen, hnext, hbelow⟩
    refine ⟨fun l hst hseal => ?_, fun hst => by rw [scrubbed_parity hturn hst]; rfl,
      fun y hst => by rw [scrubbed_tags hturn hst]; rfl, fun hst => by rw [scrubbed_nothing hturn hst]; rfl⟩
    rw [scrubbed_data hturn hst hseal, scrubData, lineState_lineScrubbed]
    exact ⟨fun hv => by rw [if_pos hv]; rfl, fun hv => by rw [if_neg hv]; rfl⟩
  case read =>
    rintro s who l again e ⟨hmem, htags⟩ hl ha errs u
    have hau : onAbsorbed u l = false := ha
    refine ⟨fun h0 => ?_, fun hne hlow hconf => ?_, fun h0 hc => ?_⟩
    · have hd := decodePattern_clean h0
      exact ⟨readLine_clean who again hl ha hd, asRead_seen (.inl hd)⟩
    · have hd := decodePattern_corrected hne ⟨hlow, hconf⟩
      exact ⟨readLine_corrected who again hl ha hd, asRead_seen (.inr hd)⟩
    · have hd := decodePattern_uncorrectable h0 hc
      exact ⟨fun hm hf => readLine_formed who again hl ha hd hm hf hmem, fun hm hf => readLine_loses who again hl ha hd hm hf htags,
        asRead_detected, fun c w hm => ⟨readLine_misread who again hl ha hd hm, asRead_misread hau hd hm⟩⟩
  case garbled => exact fun s l w hw => ⟨garble_tags l w s, fun a h => garble_other hw h⟩
  case bucket =>
    intro s phys r
    refine ⟨addToBucket_room, fun h hovf hin => ?_⟩
    obtain ⟨t, hlevel, hcount, hlayers, hmem, hout⟩ := addToBucket_full h hovf hin
    rw [findLayer_congr hout.layerRegs]
    exact ⟨hlevel, hcount, hout.layers.trans hlayers, hout.mem.trans hmem⟩
  case leak => exact fun s hs => ⟨bucketLeak s, next_event hs, rfl, List.length_map .., fun k hk => bucketLeak_level s hk⟩

end Sys2Proof.Machine
end

section
/-! SUPPORT and the SETTLED STATEMENT of lanes, layers and recovery (O50): what leaves the channels in their modes, what only goes
out, and the rows of failing lanes, rehoming, whole layers and the recovery queues. -/
namespace Sys2Proof.Machine

/-! ### What leaves start-up and every channel's mode alone -/

namespace Outward
variable {s t : State}

theorem start (h : Outward s t) : t.start = s.start := by rw [h]
theorem channels (h : Outward s t) : t.channels = s.channels := by rw [h]
theorem partitions (h : Outward s t) : t.partitions = s.partitions := by rw [h]

end Outward

/-- From `s` to `t` neither the state of start-up nor the mode of a channel changes. -/
structure SameService (s t : State) : Prop where
  start : t.start = s.start
  channels : t.channels = s.channels

theorem Outward.sameService {s t : State} (h : Outward s t) : SameService s t := ⟨h.start, h.channels⟩

theorem Wrote.sameService {A : Nat → Prop} {s t : State} (h : Wrote A s t) : SameService s t :=
  ⟨by rw [h.frame], by rw [h.frame]⟩

namespace SameService
variable {s t u : State}

theorem refl (s : State) : SameService s s := ⟨rfl, rfl⟩

theorem trans (h : SameService s t) (k : SameService t u) : SameService s u :=
  ⟨k.start.trans h.start, k.channels.trans h.channels⟩

theorem foldl {α : Type} {f : State → α → State} (xs : List α) (hf : ∀ s x, SameService s (f s x)) :
    SameService s (xs.foldl f s) :=
  List.foldlRecOn (motive := SameService s) xs f (refl s) fun t ht x _ => ht.trans (hf t x)

theorem ite {c : Prop} [Decidable c] (ht : SameService s t) (hu : SameService s u) : SameService s (if c then t else u) := by
  split
  · exact ht
  · exact hu

end SameService

section
variable (s : State)

theorem settleReserve_sameService : SameService s (settleReserve s) := (settleReserve_outward s).sameService

theorem record_sameService (cls typ sev : Nat) (part : Option (BitVec 4)) (body : List Byte) :
    SameService s (record cls typ sev part body s) := (record_outward ..).sameService

theorem recordRecovery_sameService (kind outcome : Nat) (cause : Option Nat) (part : Option (BitVec 4)) :
    SameService s (recordRecovery kind outcome cause part s) := record_sameService ..

theorem updPart_sameService (n : BitVec 4) (f : Partition → Partition) : SameService s (updPart n f s) := ⟨rfl, rfl⟩

theorem updCtx_sameService (part : BitVec 4) (ctx : Nat) (f : Context → Context) : SameService s (updCtx part ctx f s) := ⟨rfl, rfl⟩

theorem updCache_sameService (n : BitVec 4) (h : U32) (f : Cache → Cache) : SameService s (updCache n h f s) := ⟨rfl, rfl⟩

theorem updLayer_sameService (l : Nat) (f : LayerRegs → LayerRegs) : SameService s (updLayer l f s) := ⟨rfl, rfl⟩

theorem loseLine_sameService (g : Bool) (l : Nat) : SameService s (loseLine g l s) := ⟨rfl, rfl⟩

/-! Pages and their granules -/

theorem openPage_sameService (c : Cache) (root : Bool) (loc : Nat) : SameService s (openPage c root loc s) := by
  unfold openPage
  exact .ite (.refl s) ⟨rfl, rfl⟩

theorem openPartial_sameService (c : Cache) (e : PageEntry) (held i : Nat) : SameService s (openPartial c e held i s) := by
  unfold openPartial
  exact .ite (.refl s) ⟨rfl, rfl⟩

theorem reseal_sameService (p : Partition) (c : Cache) (r : LayerRec) (held i : Nat) : SameService s (reseal p c r held i s) := by
  unfold reseal
  exact .ite (.refl s) (.trans (openPartial_sameService ..) ⟨rfl, rfl⟩)

theorem freePage_sameService (p : Partition) (c : Cache) (root : Bool) (loc : Nat) :
    SameService s (freePage p c root loc s) := by
  have hfree : ∀ q, SameService s (freeLines q s) := fun q => ⟨rfl, rfl⟩
  exact (hfree _).trans (openPage_sameService ..)

theorem freePages_sameService (p : Partition) (c : Cache) (l : List (Bool × Nat)) : SameService s (freePages p c l s) :=
  .foldl _ fun s x => freePage_sameService s p c x.1 x.2

theorem copyPage_sameService (p : Partition) (c : Cache) (e : PageEntry) (place : Bool × Nat) :
    SameService s (copyPage p c e place s) := by
  refine .foldl _ fun t i => ?_
  dsimp only
  split
  · exact (writeCells_wrote ..).sameService
  · exact ⟨rfl, rfl⟩
  · exact .refl t

theorem switchPage_sameService (part : BitVec 4) (h : U32) (seq layer i : Nat) : SameService s (switchPage part h seq layer i s) := by
  unfold switchPage
  split
  · exact .refl s
  · dsimp only
    split
    · exact .refl s
    · refine .ite (updCache_sameService ..) (.trans ?_ (reseal_sameService ..))
      exact ((copyPage_sameService ..).trans (freePage_sameService ..)).trans (updCache_sameService ..)

theorem switchIdle_sameService (a : BitVec 4 × U32 × Nat × Nat × Nat) : SameService s (switchIdle a s) := by
  unfold switchIdle
  split
  · exact .refl s
  · exact .ite (.refl s) (switchPage_sameService ..)

theorem moveAway_sameService (u : Nat) (a : BitVec 4 × U32 × Nat × Nat × Nat) : SameService s (moveAway u a s) := by
  unfold moveAway
  split
  · exact .refl s
  · dsimp only
    split <;> exact ⟨rfl, rfl⟩

/-! Replays -/

theorem putBack_sameService (x : Nat × List Byte × Option U32) : SameService s (putBack s x) := by
  unfold putBack
  refine .ite (.refl s) ?_
  dsimp only
  split <;> exact ⟨rfl, rfl⟩

theorem restoreCaches_sameService (part : BitVec 4) (ctx : Nat) : SameService s (restoreCaches part ctx s) := by
  unfold restoreCaches
  split
  · exact .refl s
  · split
    · exact .refl s
    · refine .trans (.trans ?_ (.foldl _ fun t c => ?_)) (.foldl _ putBack_sameService)
      · exact .foldl _ fun t c => freePages_sameService ..
      · exact (updCache_sameService ..).trans (.foldl _ fun t r => .foldl _ fun t e => openPartial_sameService ..)

theorem freshPart_sameService (part : BitVec 4) : SameService s (freshPart part s) := by
  unfold freshPart
  split
  · exact ⟨rfl, rfl⟩
  · exact .refl s

theorem replayStep_sameService (part : BitVec 4) (ctx op : Nat) (ls : List Nat) : SameService s (replayStep part ctx op ls s) := by
  unfold replayStep
  split
  · exact .refl s
  · refine .ite (.trans (.foldl _ fun t l => ?_) (updCtx_sameService ..)) (.trans ?_ (recordRecovery_sameService ..))
    · exact .trans (.ite (.refl t) (updLayer_sameService ..)) (loseLine_sameService ..)
    · exact ((restoreCaches_sameService ..).trans (freshPart_sameService ..)).trans (updCtx_sameService ..)

theorem replayPart_sameService (part : BitVec 4) : SameService s (replayPart part s) :=
  .foldl _ fun t c => replayStep_sameService t part c _ _

/-! Recovery queues -/

theorem enqueue_sameService (part : Option (BitVec 4)) (a : Action) (cause : Option Nat) : SameService s (enqueue part a cause s) := by
  unfold enqueue
  dsimp only
  split
  · exact .ite ⟨rfl, rfl⟩ ⟨rfl, rfl⟩
  · exact ⟨rfl, rfl⟩

theorem enqueueRegen_sameService (n : BitVec 4) (h : U32) (q first : Nat) (bad : List (Nat × Nat)) :
    SameService s (enqueueRegen n h q first bad s) := by
  unfold enqueueRegen
  dsimp only
  split
  · exact .refl s
  · exact .ite ⟨rfl, rfl⟩ (enqueue_sameService ..)

theorem closeJob_sameService (part : Option (BitVec 4)) (a : Action) (outcome : Nat) : SameService s (closeJob part a outcome s) := by
  unfold closeJob
  split
  · split
    · exact .ite (.trans (t := { s with reserve := { s.reserve with running := none } }) ⟨rfl, rfl⟩ (recordRecovery_sameService ..))
        (.refl s)
    · exact .refl s
  · split
    · exact .ite ((updPart_sameService ..).trans (recordRecovery_sameService ..)) (.refl s)
    · exact .refl s

theorem losePages_sameService (core : Nat) : SameService s (losePages core s) := by
  refine .foldl _ fun t p => .foldl _ fun t c => .foldl _ fun t r => ?_
  split
  · exact .refl t
  · exact .ite (enqueueRegen_sameService ..) (.refl t)

theorem endCopy_sameService (core : Nat) : SameService s (endCopy core s) := by
  unfold endCopy
  refine .ite ?_ ⟨rfl, rfl⟩
  dsimp only
  split
  · exact (closeJob_sameService ..).trans (replayPart_sameService ..)
  · exact closeJob_sameService ..

end

/-! ### The mode of a channel -/

theorem SameService.channelMode {s t : State} (h : SameService s t) (core : Nat) : channelMode t core = channelMode s core := by
  unfold Machine.channelMode
  rw [h.channels]

theorem channelMode_setChannel_same (core : Nat) (m : ChannelMode) (s : State) : channelMode (setChannel core m s) core = some m := by
  have hnone : (s.channels.filter fun c => c.core ≠ core).find? (fun c => c.core = core) = none :=
    List.find?_eq_none.2 fun c hc => by simpa using (List.mem_filter.1 hc).2
  simp only [channelMode, setChannel, List.find?_append, hnone, Option.none_or, List.find?_singleton, decide_true, if_true,
    Option.map_some]

theorem channelMode_setChannel_other {core c : Nat} (h : c ≠ core) (m : ChannelMode) (s : State) :
    channelMode (setChannel core m s) c = channelMode s c := by
  have hkept : (s.channels.filter fun k => k.core ≠ core).find? (fun k => k.core = c) = s.channels.find? fun k => k.core = c := by
    rw [List.find?_filter]
    congr 1
    funext k
    by_cases hk : k.core = c <;> simp [hk, h]
  simp only [channelMode, setChannel, List.find?_append, hkept, List.find?_singleton, decide_eq_false h.symm, Bool.false_eq_true,
    if_false, Option.or_none]

theorem failChannel_sameService (core : Nat) (s : State) : SameService (setChannel core .failed s) (failChannel core s) :=
  ((losePages_sameService ..).trans (settleReserve_sameService _)).trans (endCopy_sameService ..)

theorem breakCopy_sameService (core : Nat) (d : Option Nat) (s : State) :
    SameService (setChannel core (.broken d) { s with draw := s.draw + 1 }) (breakCopy core d s) := by
  refine .trans (.trans (.trans (.foldl _ fun t l => ?_) (losePages_sameService ..)) (settleReserve_sameService _))
    (endCopy_sameService ..)
  exact (loseLine_sameService ..).trans (updLayer_sameService ..)

/-! ### Completions and packets that leave the device -/

theorem onlyPort.outward {s t : State} (h : onlyPort s t) : Outward s t := by
  unfold Outward
  rw [h]

theorem updPair_outward (qp : BitVec 6) (f : QueuePair → QueuePair) (s : State) : Outward s (updPair qp f s) := rfl

theorem gather_outward (q : QueuePair) (w : Waiting) (s : State) : Outward s (gather q w s) := by
  unfold gather
  split
  · exact .refl s
  · split
    · exact (updPair_outward ..).trans (fireVector_onlyPort ..).outward
    · exact updPair_outward ..

theorem emit_outward (q : QueuePair) (w : Waiting) (s : State) : Outward s (emit q w s) := by
  have hposted : Outward s { updPair q.qp (fun q => q.posted w) s with out := s.out ++ [.completion q.qp q.slot (completionOf s q w)] } :=
    rfl
  exact hposted.trans (gather_outward ..)

theorem finish_outward (o : Origin) (st : BitVec 16) (d : U32) (r : List Byte) (s : State) : Outward s (finish o st d r s) := by
  unfold finish post
  split
  · exact .refl s
  · split
    · exact .refl s
    · split
      · exact emit_outward ..
      · exact updPair_outward ..

theorem fabric_outward (f : Fabric) (s : State) : Outward s { s with fabric := f } := rfl

theorem updLink_outward (n : Nat) (f : Link → Link) (s : State) : Outward s (updLink n f s) := rfl

theorem putFlit_outward (n : Nat) (b : Option FlitBody) (lseq : Nat) (nak : Bool) (s : State) : Outward s (putFlit n b lseq nak s) := rfl

theorem pumpLinkOnce_outward (n : Nat) (s : State) : Outward s (pumpLinkOnce n s) := by
  unfold pumpLinkOnce
  dsimp only
  split
  · exact .refl s
  · exact (putFlit_outward ..).trans (updLink_outward ..)

theorem pumpLink_outward (n : Nat) (s : State) : Outward s (pumpLink n s) := by
  unfold pumpLink
  induction (findLink s n).queue.length with
  | zero => exact .refl s
  | succ k ih => exact ih.trans (pumpLinkOnce_outward ..)

theorem toLink_outward (n : Nat) (p : FabPacket) (s : State) : Outward s (toLink n p s) := by
  have hpump : Outward s (pumpLink n (updLink n (fun l => { l with queue := l.queue ++ packetPieces p }) s)) :=
    (updLink_outward ..).trans (pumpLink_outward ..)
  unfold toLink toQueue
  dsimp only
  split
  · exact hpump
  · exact hpump.trans rfl

theorem recordPacketOnce_outward (cause addr : Nat) (header : List Byte) (s : State) :
    Outward s (recordPacketOnce cause addr header s) := by
  unfold recordPacketOnce
  split
  · exact .refl s
  · exact (fabric_outward ..).trans (record_outward ..)

theorem holdPacket_outward (p : FabPacket) (s : State) : Outward s (holdPacket p s) :=
  (fabric_outward ..).trans (recordPacketOnce_outward ..)

theorem launch_outward (p : FabPacket) (s : State) : Outward s (launch p s) := by
  unfold launch
  split
  · exact fabric_outward ..
  · split
    · exact holdPacket_outward ..
    · split
      · exact toLink_outward ..
      · exact holdPacket_outward ..

theorem reforward_outward (p : FabPacket) (s : State) : Outward s (reforward p s) := by
  unfold reforward
  split
  · exact toLink_outward ..
  · split
    · exact holdPacket_outward ..
    · exact launch_outward ..

theorem retryHeld_outward (s : State) : Outward s (retryHeld s) :=
  (fabric_outward _ s).trans (.foldl _ fun s p => launch_outward p s)

theorem emptyLink_outward (n : Nat) (st : LinkState) (s : State) : Outward s (emptyLink n st s) := by
  have hdropped : Outward s (dropAuto n (updLink n (fun l => l.restart st) s)) := rfl
  exact (hdropped.trans (.foldl _ fun s p => reforward_outward p s)).trans (retryHeld_outward _)

/-! ### Out of service (R408) -/

/-- No step is held, released or running any more in any context. -/
def stepsDropped (s : State) : State :=
  { s with partitions := s.partitions.map fun p => { p with contexts := p.contexts.map fun c => { c with
      sets := [], ineligible := [], released := [], step := none } } }

theorem stepsDropped_contexts {s : State} {p : Partition} (hp : p ∈ (stepsDropped s).partitions) {c : Context}
    (hc : c ∈ p.contexts) : c.sets = [] ∧ c.ineligible = [] ∧ c.released = [] ∧ c.step = none := by
  obtain ⟨p', -, rfl⟩ := List.mem_map.1 hp
  obtain ⟨c', -, rfl⟩ := List.mem_map.1 hc
  exact ⟨rfl, rfl, rfl, rfl⟩

/-- The device is marked, caches are restored, every step is dropped; the rest is completions, packets and records. -/
theorem outOfService_drops {s : State} (cause : Nat) (h : s.start.oos = false) :
    ∃ t, SameService { s with start := { s.start with oos := true, oosCause := cause } } t ∧
      Outward (stepsDropped t) (outOfService cause s) := by
  let r := record 0x00 0x04 3 none (toLE 4 cause) { s with start := { s.start with oos := true, oosCause := cause } }
  let t := r.partitions.foldl (fun s p => (List.range 8).foldl (fun s c => restoreCaches p.num c s) s) r
  refine ⟨t, (record_sameService ..).trans (.foldl _ fun s p => .foldl _ fun s c => restoreCaches_sameService ..), ?_⟩
  unfold outOfService
  rw [h, if_neg Bool.false_ne_true]
  refine .trans (.trans ?_ (.foldl _ fun s n => emptyLink_outward n .disabled s)) (settleReserve_outward _)
  exact .foldl (s := stepsDropped t) _ fun s f => finish_outward ..

/-! ### Failing lanes (R33, R36, R41) -/

section
variable {s : State} {f : LaneFault}

theorem exec_laneFailing (hs : started s = true) (hf : f.lane.toNat ≤ 22) :
    exec (.laneFailing f) s = happens (laneFailing f s) := answer_event (decide_eq_true hf) hs

/-- In normal service a failing lane takes a spare; where there is none its column is rehomed. -/
theorem laneFailing_normal (hm : channelMode s f.core.toNat = none) (hw : f.wholeChannel = false)
    (ht : ∀ k ∈ s.training, ¬(k.core = f.core.toNat ∧ k.lane = f.lane.toNat)) :
    (∀ x, chooseSpare s f.core.toNat = some x → laneFailing f s =
      { s with training := s.training ++ [⟨f.core.toNat, f.lane.toNat, x, f.segment.toNat⟩] }) ∧
    (chooseSpare s f.core.toNat = none → laneFailing f s = rehome f.core.toNat f.lane.toNat s) := by
  have hnot : ¬(s.training.any fun l => l.core = f.core.toNat && l.lane = f.lane.toNat) = true := by
    simpa [List.any_eq_true] using ht
  constructor
  · intro x hx
    simp only [laneFailing, hm, hw, Bool.false_eq_true, if_false, if_neg hnot, hx]
  · intro hx
    simp only [laneFailing, hm, hw, Bool.false_eq_true, if_false, if_neg hnot, hx]

theorem laneFailing_whole (hm : channelMode s f.core.toNat = none) (hw : f.wholeChannel = true) :
    laneFailing f s = failChannel f.core.toNat s := by
  simp only [laneFailing, hm, hw, if_true]

theorem laneFailing_over {m : ChannelMode} (hm : channelMode s f.core.toNat = some m)
    (h : (∃ d, m = .retired d ∨ m = .broken d) ∨ m = .failed) : laneFailing f s = s := by
  rcases h with ⟨d, rfl | rfl⟩ | rfl <;> simp only [laneFailing, hm]

/-- While a column is copied: `k` is the lane that failed first and `d` the place of the copy. -/
theorem laneFailing_copied {k : Nat} {d : Option Nat}
    (hm : channelMode s f.core.toNat = some (.corrected k d) ∨ channelMode s f.core.toNat = some (.degraded k d)) :
    laneFailing f s = if f.wholeChannel then failChannel f.core.toNat s else if f.lane.toNat = k then s
      else if d.isNone then failChannel f.core.toNat s else breakCopy f.core.toNat d s := by
  rcases hm with hm | hm <;> simp only [laneFailing, hm]

end

/-- The three places a spare comes from. -/
theorem chooseSpare_cases {s : State} {core x : Nat} (h : chooseSpare s core = some x) :
    (x = 0 ∧ 0 ∉ sparesOf s core) ∨ (x = 1 ∧ 1 ∉ sparesOf s core) ∨
    (16 ≤ x ∧ x < 32 ∧ x ∉ poolUsed s (core / 256) ∧ ((sparesOf s core).filter fun y => 16 ≤ y).length < 4) := by
  unfold chooseSpare at h
  dsimp only at h
  split at h
  · rename_i h0
    exact .inl ⟨(Option.some.inj h).symm, by simpa using h0⟩
  · split at h
    · rename_i h1
      exact .inr (.inl ⟨(Option.some.inj h).symm, by simpa using h1⟩)
    · split at h
      · cases h
      · rename_i hfour
        have hfree := List.find?_some h
        obtain ⟨i, hi, rfl⟩ := List.mem_map.1 (List.mem_of_find?_eq_some h)
        rw [List.mem_range] at hi
        exact .inr (.inr ⟨by omega, by omega, by simpa using hfree, Nat.lt_of_not_le hfour⟩)

theorem chooseSpare_first {s : State} {core : Nat} (h : 0 ∉ sparesOf s core) : chooseSpare s core = some 0 := by
  simp [chooseSpare, h]

theorem chooseSpare_second {s : State} {core : Nat} (h0 : 0 ∈ sparesOf s core) (h1 : 1 ∉ sparesOf s core) :
    chooseSpare s core = some 1 := by
  simp [chooseSpare, h0, h1]

theorem channelMode_rehome {s : State} {core t : Nat} (lane : Nat) (h : rehomePlace s core = some t) :
    channelMode (rehome core lane s) core = some (if lane ≤ 17 then .corrected lane (some t) else .degraded lane (some t)) := by
  have hsame : SameService (setChannel core (if lane ≤ 17 then .corrected lane (some t) else .degraded lane (some t)) s)
      (rehome core lane s) := by
    unfold rehome
    simp only [h]
    exact ((record_sameService ..).trans (settleReserve_sameService _)).trans (enqueue_sameService ..)
  rw [hsame.channelMode, channelMode_setChannel_same]

section
variable {α : Type} (le : α → α → Bool)

theorem length_insertBy (x : α) (l : List α) : (insertBy le x l).length = l.length + 1 := by
  induction l with
  | nil => rfl
  | cons y l ih =>
    rw [insertBy]
    split
    · rfl
    · rw [List.length_cons, ih, List.length_cons]

theorem length_sortBy (l : List α) : (sortBy le l).length = l.length := by
  induction l with
  | nil => rfl
  | cons x l ih => rw [sortBy, List.foldr_cons, length_insertBy, ← sortBy, ih, List.length_cons]

end

theorem laneSwitched_trained {s : State} {core lane : Nat} {l : LaneTraining}
    (h : s.training.find? (fun l => l.core = core && l.lane = lane) = some l) :
    laneSwitched core lane s = settleReserve (record 0x0B 0x10 1 none (toLE 8 (repairEntry l).toNat) { s with
      training := s.training.erase l
      repairs := sortBy (fun a b => entryKey a ≤ entryKey b) (s.repairs ++ [repairEntry l]) }) := by
  simp only [laneSwitched, h]

/-! ### The end of a rehoming copy (R36) -/

theorem rehomeDone_other {s : State} {core : Nat} (h : ∀ j, s.reserve.running = some j → j.act ≠ .rehome core) :
    rehomeDone core s = s := by
  rw [rehomeDone, if_neg]
  intro hrun
  obtain ⟨j, hj, hact⟩ := Option.map_eq_some_iff.1 hrun
  exact h j hj hact

/-- The pages of the column's clearing segments leave, which keeps the modes of the channels. -/
theorem rehomeDone_retires {s : State} {core : Nat} {m : ChannelMode} {j : Job} (hj : s.reserve.running = some j)
    (hact : j.act = .rehome core) (hm : channelMode s core = some m) :
    ∃ t, rehomeDone core s = endJob none (.rehome core) t ∧ channelMode t core = some (.retired m.dest) := by
  have hrun : s.reserve.running.map (·.act) = some (.rehome core) := by rw [hj, Option.map_some, hact]
  unfold rehomeDone
  rw [if_pos hrun, hm]
  refine ⟨_, rfl, ?_⟩
  refine Eq.trans (SameService.channelMode ?_ core) (channelMode_setChannel_same core (.retired m.dest) s)
  refine .foldl _ fun t u => .foldl _ fun t a => ?_
  exact (moveAway_sameService ..).trans (switchIdle_sameService ..)

/-! ### Whole layers (R39, R198) -/

theorem setLayer_outward (phys st : Nat) (s : State) :
    Outward { s with layers := setAt s.layers phys fun _ => BitVec.ofNat 4 st } (setLayer phys st s) := record_outward ..

theorem layerState_setLayer_same {s : State} {phys st : Nat} (h : phys < s.layers.length) (hst : st < 16) :
    layerState (setLayer phys st s) phys = st := by
  rw [layerState, (setLayer_outward ..).layers, nth_setAt_same _ _ h, BitVec.toNat_ofNat]
  omega

theorem layerState_setLayer_other {phys k : Nat} (h : k ≠ phys) (st : Nat) (s : State) :
    layerState (setLayer phys st s) k = layerState s k := by
  rw [layerState, (setLayer_outward ..).layers, nth_setAt_other _ _ _ h, layerState]

section
variable {s : State} {l : Nat}

theorem wholeLayerFault_again (h : layerState s l ≠ 0) : wholeLayerFault l s = s := by
  unfold wholeLayerFault mapOut
  rw [if_neg h, if_pos h, ite_self]

theorem wholeLayerFault_logic (h : layerState s l = 0) (hl : l = 0 ∨ l = 1 ∨ l = 23) :
    wholeLayerFault l s = settleReserve (outOfService 4 (setLayer l 4 s)) := by
  rw [wholeLayerFault, if_pos hl, if_pos h]

theorem wholeLayerFault_clearing (h : layerState s l = 0) (h2 : 2 ≤ l) (h6 : l < 6) :
    wholeLayerFault l s = settleReserve (withdrawLayer l s) := by
  rw [wholeLayerFault, if_neg (by omega), mapOut, if_neg (fun hne => hne h), if_pos h6]

theorem wholeLayerFault_root (h : layerState s l = 0) (h6 : 6 ≤ l) (h22 : l ≤ 22) :
    wholeLayerFault l s =
      if s.rootOut.isSome then settleReserve (outOfService 1 (setLayer l 4 s))
      else enqueue none (.absorb l) (lastRecord (settleReserve (setLayer l 1 (beginAbsorption l s))))
        (settleReserve (setLayer l 1 (beginAbsorption l s))) := by
  rw [wholeLayerFault, if_neg (by omega), mapOut, if_neg (fun hne => hne h), if_neg (Nat.not_lt.2 h6)]

end

/-! ### The device's recovery queue (R401) -/

theorem nextJob_takes {s : State} {j : Job} {js : List Job} (hq : s.reserve.queue = j :: js) (hr : s.reserve.running = none) :
    nextJob none s = { s with reserve := { s.reserve with running := some j, queue := js } } := by
  simp only [nextJob, hr, hq]

theorem nextJob_waits {s : State} (hr : s.reserve.running ≠ none) : nextJob none s = s := by
  obtain ⟨x, hx⟩ := Option.ne_none_iff_exists'.1 hr
  simp only [nextJob, hx]

theorem enqueue_idle {s : State} (a : Action) (cause : Option Nat) (hr : s.reserve.running = none) (hq : s.reserve.queue = []) :
    enqueue none a cause s = { s with reserve := { s.reserve with running := some ⟨a, cause, false⟩ } } := by
  simp only [enqueue, hr, hq, Option.isNone_none, List.isEmpty_nil, Bool.and_self, if_true]

theorem enqueue_busy {s : State} (a : Action) (cause : Option Nat) (h : s.reserve.running ≠ none ∨ s.reserve.queue ≠ []) :
    enqueue none a cause s = { s with reserve := { s.reserve with queue := s.reserve.queue ++ [⟨a, cause, false⟩] } } := by
  refine if_neg fun hidle => ?_
  obtain ⟨hr, hq⟩ := Bool.and_eq_true_iff.1 hidle
  exact h.elim (fun hne => hne (Option.isNone_iff_eq_none.1 hr)) fun hne => hne (List.isEmpty_iff.1 hq)

/-! ### O50 -/

/-- Settles O50: each clause is the lemma above about its row; what a channel's mode or a context's steps come to rests on what the
later effects of the row leave alone (`SameService`, `Outward`). -/
theorem lanesLayersAndRecovery : Obligations.LanesLayersAndRecovery := by
  unfold Obligations.LanesLayersAndRecovery
  refine ⟨?normal, ?failing, ?modes, ?spare, fun _ _ lane _ h => channelMode_rehome lane h, ?switchOver, ?copied, ?notCopied,
    ?layerFault, ?layerState, ?oos, ?absorbed, fun _ _ hs => next_event hs, fun _ _ _ hq => ⟨nextJob_takes hq, nextJob_waits⟩,
    fun _ a cause => ⟨enqueue_idle a cause, enqueue_busy a cause⟩, ?overflow, fun _ hs => next_event hs⟩
  case normal =>
    intro s f hs hf hm hw ht
    obtain ⟨htrains, hrehomes⟩ := laneFailing_normal hm hw ht
    rw [exec_laneFailing hs hf]
    exact ⟨fun x hx => by rw [htrains x hx], fun hx => by rw [hrehomes hx]⟩
  case failing =>
    intro s f hs hf
    rw [exec_laneFailing hs hf]
    refine ⟨fun hm hw => by rw [laneFailing_whole hm hw], fun m hm h => by rw [laneFailing_over hm h], fun k d hm => ?_⟩
    rw [laneFailing_copied hm]
    refine ⟨fun hw hk => ?_, fun h => ?_, fun hw hk hd => ?_⟩
    · simp only [hw, hk, Bool.false_eq_true, if_false, if_true]
    · rcases h with hw | ⟨hk, rfl⟩
      · simp only [hw, if_true]
      · simp only [if_neg hk, Option.isNone_none, if_true, ite_self]
    · have hsome : ¬d.isNone = true := fun h => hd (Option.isNone_iff_eq_none.1 h)
      simp only [hw, Bool.false_eq_true, if_neg hk, if_neg hsome, if_false]
  case modes =>
    intro s core d
    have hfail := failChannel_sameService core s
    have hbreak := breakCopy_sameService core d s
    refine ⟨by rw [hfail.channelMode, channelMode_setChannel_same], by rw [hbreak.channelMode, channelMode_setChannel_same],
      fun c hc => ?_⟩
    rw [hfail.channelMode, hbreak.channelMode, channelMode_setChannel_other hc, channelMode_setChannel_other hc]
    exact ⟨rfl, rfl⟩
  case spare =>
    intro s core used
    refine ⟨chooseSpare_first, chooseSpare_second, fun x hx => ?_, fun x hx h2 => ?_⟩
    · rcases chooseSpare_cases hx with ⟨rfl, h⟩ | ⟨rfl, h⟩ | ⟨h, -⟩
      · exact .inl h
      · exact .inl h
      · exact .inr h
    · rcases chooseSpare_cases hx with ⟨rfl, -⟩ | ⟨rfl, -⟩ | h
      · omega
      · omega
      · exact h
  case switchOver =>
    intro s core lane l hs hl hfind
    have hexec : exec (.laneSwitchOver core lane) s = happens (laneSwitched core.toNat lane.toNat s) :=
      answer_event (decide_eq_true hl) hs
    rw [hexec, laneSwitched_trained hfind]
    refine ⟨_, rfl, rfl, ?_, (mem_sortBy entryKey).2 (List.mem_append_right _ (List.mem_singleton_self _)),
      fun e he => (mem_sortBy entryKey).2 (List.mem_append_left _ he)⟩
    rw [length_sortBy, List.length_append, List.length_singleton]
  case copied =>
    intro s core m j hs hj hact hm
    obtain ⟨t, ht, hmode⟩ := rehomeDone_retires hj hact hm
    have hexec : exec (.rehomeCopyDone core) s = happens (rehomeDone core.toNat s) := next_event hs
    exact ⟨t, by rw [hexec, ht], hmode⟩
  case notCopied =>
    intro s core hs h
    have hexec : exec (.rehomeCopyDone core) s = happens (rehomeDone core.toNat s) := next_event hs
    rw [hexec, rehomeDone_other h]
  case layerFault =>
    intro s l hs hl
    have hexec : exec (.wholeLayerFault l) s = happens (wholeLayerFault l.toNat s) := answer_event (decide_eq_true hl) hs
    rw [hexec]
    refine ⟨fun h0 hlogic => ?_, fun h0 h2 h6 => by rw [wholeLayerFault_clearing h0 h2 h6], fun h0 h6 h22 hout => ?_,
      fun h0 h6 h22 hout t ht => ?_, fun h => by rw [wholeLayerFault_again h]⟩
    · have hnat : l.toNat = 0 ∨ l.toNat = 1 ∨ l.toNat = 23 := by
        rcases hlogic with rfl | rfl | rfl <;> decide
      rw [wholeLayerFault_logic h0 hnat]
    · rw [wholeLayerFault_root h0 h6 h22, if_pos (Option.isSome_iff_ne_none.2 hout)]
    · rw [wholeLayerFault_root h0 h6 h22, hout, ht]
      rfl
  case layerState =>
    intro s phys st hphys hst
    exact ⟨layerState_setLayer_same hphys hst, (setLayer_outward ..).mem, fun k hk => layerState_setLayer_other hk st s⟩
  case oos =>
    intro s cause h
    obtain ⟨t, hsame, hout⟩ := outOfService_drops cause h
    have hstart : (outOfService cause s).start = { s.start with oos := true, oosCause := cause } := hout.start.trans hsame.start
    rw [hstart, hout.partitions]
    exact ⟨rfl, rfl, fun p hp c hc => stepsDropped_contexts hp hc⟩
  case absorbed =>
    intro s l cause hs hrun
    have hexec : exec .absorptionDone s = happens (absorptionDone s) := next_event hs
    rw [hexec]
    refine ⟨?_, rfl, rfl, rfl, rfl⟩
    simp only [absorptionDone, hrun]
  case overflow => exact fun s l hs h2 h22 => answer_event (dramLayer_of_le h2 h22) hs

end Sys2Proof.Machine
end

section
/-! SUPPORT and SETTLED STATEMENTS of health rings and of the commands of the clearing layers (O47, O48): what each command's own part
answers, and records that are withheld from their reader. -/
namespace Sys2Proof.Machine

/-! ### What a row answers, from what its command answers -/

section
variable {code : Nat} {s t : State} {q : QueuePair} {p c : Packet} {body : CmdBody}

/-- A command that answers OK. -/
theorem Fetches.completes (h : Fetches code s q p c) {r : List Byte} (hb : body q c (fetchedState p s) = ok r t) :
    answer (p.wf code) (fetchPacket body p s) = Machine.completes p r t := by
  rw [h.runs, hb, deliver_ok, h.origin]
  rfl

/-- A command that is turned away with a status. -/
theorem Fetches.fails (h : Fetches code s q p c) {st : BitVec 16} (hb : body q c (fetchedState p s) = fail st t) :
    answer (p.wf code) (fetchPacket body p s) = .next (settle (finish (pktOrigin p) st 0 [] t)) := by
  rw [h.runs, hb, deliver_fail, h.origin]

/-- A command that is accepted and answered later. -/
theorem Fetches.accepts (h : Fetches code s q p c) (hb : body q c (fetchedState p s) = (.accepted, t)) :
    answer (p.wf code) (fetchPacket body p s) = Machine.accepts p t := by
  rw [h.runs, hb, deliver_accepted, h.origin]
  rfl

end

section
variable (q : QueuePair) (p : Packet) (s : State)

/-! ### Health rings (R70, R72) -/

theorem cmdHealthRingStatus_ring {x : Partition} {r : HealthRing} (hx : findPart s (pktPart p) = some x) (hc : par p 0 4 ≤ 7)
    (hr : (x.context (par p 0 4)).ring = some r) :
    cmdHealthRingStatus q p s = ok (toLE 8 r.produced ++ toLE 8 r.dropped) s := by
  simp only [cmdHealthRingStatus, if_neg (Nat.not_lt.2 hc), hx, Option.map_some, Option.bind_some, hr]

theorem cmdHealthRingStatus_none {x : Partition} (hx : findPart s (pktPart p) = some x) (hc : par p 0 4 ≤ 7)
    (hr : (x.context (par p 0 4)).ring = none) : cmdHealthRingStatus q p s = ok (zeros 16) s := by
  simp only [cmdHealthRingStatus, if_neg (Nat.not_lt.2 hc), hx, Option.map_some, Option.bind_some, hr]

theorem cmdHealthRingStatus_badContext (hc : 7 < par p 0 4) : cmdHealthRingStatus q p s = fail stBadLength s := by
  simp only [cmdHealthRingStatus, if_pos hc]

/-- The sizes of a ring (R70): the powers of two from 16 to 1,048,576. -/
theorem ringSize_good {n : Nat} (h : ∃ k, 4 ≤ k ∧ k ≤ 20 ∧ n = 2 ^ k) :
    ¬(n < 16 || 1048576 < n || 1048576 % n ≠ 0) = true := by
  obtain ⟨k, h4, h20, rfl⟩ := h
  have hlo : 2 ^ 4 ≤ 2 ^ k := Nat.pow_le_pow_right (by decide) h4
  have hhi : 2 ^ k ≤ 2 ^ 20 := Nat.pow_le_pow_right (by decide) h20
  have hdvd : 1048576 % 2 ^ k = 0 := Nat.mod_eq_zero_of_dvd (Nat.pow_dvd_pow 2 h20)
  simp only [hdvd, Bool.or_eq_true, decide_eq_true_eq]
  omega

theorem cmdHealthRingSet_attaches {x : Partition} {r : Region} {o : Nat} (hx : findPart s (pktPart p) = some x)
    (hc : par p 12 1 ≤ 7) (hen : par p 13 1 = 1) (hb : par p 0 8 < 2 ^ 42) (hv : validAddr (par p 0 8) = true)
    (hr : x.regions.findSome? (fun r => (r.offset (par p 0 8)).map fun o => (r, o)) = some (r, o)) (ha : par p 0 8 % 64 = 0)
    (hk : r.kind ≠ 2) (hn : ∃ k, 4 ≤ k ∧ k ≤ 20 ∧ par p 8 4 = 2 ^ k) (hfit : o + 64 + 64 * par p 8 4 ≤ r.size) :
    cmdHealthRingSet q p s = ok [] (updCtx (pktPart p) (par p 12 1) (fun k => { k with ring := some ⟨par p 0 8, par p 8 4, 0, 0⟩ })
      (writeAt ((List.range 64).map fun i => r.addr (o + i)) (zeros 64) s)) := by
  have h1 : ¬(7 < par p 12 1 || 1 < par p 13 1) = true := by simpa [hen] using hc
  have h2 : ¬par p 13 1 = 0 := by omega
  have h3 : ¬(2 ^ 42 ≤ par p 0 8 || !validAddr (par p 0 8)) = true := by simpa [hv] using hb
  have h4 : ¬(par p 0 8 % 64 ≠ 0 || r.kind = 2) = true := by simp [ha, hk]
  simp only [cmdHealthRingSet, if_neg h1, if_neg h2, if_neg h3, hx, Option.bind_some, hr, if_neg h4, if_neg (ringSize_good hn),
    if_neg (Nat.not_lt.2 hfit)]

theorem cmdHealthRingSet_detaches (hc : par p 12 1 ≤ 7) (hen : par p 13 1 = 0) :
    cmdHealthRingSet q p s = ok [] (updCtx (pktPart p) (par p 12 1) (fun k => { k with ring := none }) s) := by
  have h1 : ¬(7 < par p 12 1 || 1 < par p 13 1) = true := by simpa [hen] using hc
  simp only [cmdHealthRingSet, if_neg h1, if_pos hen]

/-! ### CLEARING_DIVISION (R221) -/

theorem cmdClearingDivision_sets (hm : par p 0 1 ≤ 2) (he : par p 0 1 ≠ 0 → pktExpert p = true) (h1 : 1 ≤ par p 2 2)
    (h2 : par p 2 2 ≤ 4096) : cmdClearingDivision q p s =
      ok [] (updPart (pktPart p) (fun x => { x with divMode := par p 0 1, bsplit := par p 2 2 }) s) := by
  have he' : ¬(par p 0 1 ≠ 0 && !pktExpert p) = true := by simpa using he
  have hb : ¬(par p 2 2 = 0 || 4096 < par p 2 2) = true := by simp; omega
  simp only [cmdClearingDivision, if_neg (Nat.not_lt.2 hm), if_neg he', if_neg hb]

theorem cmdClearingDivision_notExpert (hm : 1 ≤ par p 0 1) (hm' : par p 0 1 ≤ 2) (he : pktExpert p = false) :
    cmdClearingDivision q p s = fail stExpert s := by
  have he' : (par p 0 1 ≠ 0 && !pktExpert p) = true := by simpa [he] using Nat.ne_of_gt hm
  simp only [cmdClearingDivision, if_neg (Nat.not_lt.2 hm'), if_pos he']

theorem cmdClearingDivision_badLength
    (h : 2 < par p 0 1 ∨ (par p 0 1 ≠ 0 → pktExpert p = true) ∧ (par p 2 2 = 0 ∨ 4096 < par p 2 2)) :
    cmdClearingDivision q p s = fail stBadLength s := by
  unfold cmdClearingDivision
  by_cases hm : 2 < par p 0 1
  · simp only [if_pos hm]
  · obtain ⟨he, hb⟩ := h.resolve_left hm
    have he' : ¬(par p 0 1 ≠ 0 && !pktExpert p) = true := by simpa using he
    have hb' : (par p 2 2 = 0 || 4096 < par p 2 2) = true := by simpa using hb
    simp only [if_neg hm, if_neg he', if_pos hb']

/-! ### CLEARING_STATUS (R222) -/

/-- Failed units of a layer, counted among the unit records. -/
theorem length_failedUnits_filter (l : Nat) : ((failedUnits s).filter fun u => u / 65536 = l).length =
    (s.units.filter fun u => u.state = .failed && u.unit / 65536 = l).length := by
  unfold failedUnits
  rw [List.filter_map, List.length_map, List.filter_filter]
  simp only [Function.comp_def, Bool.and_comm]

theorem cmdClearingStatus_found {n : BitVec 4} {x : Partition} (hn : namedPart q p (par p 0 4) = .ok n)
    (hx : findPart s n = some x) : cmdClearingStatus q p s = ok (((List.range 4).flatMap fun l =>
        toLE 2 ((s.units.filter fun u => u.state = .failed && u.unit / 65536 = l).length)) ++
      toLE 4 (s.units.filter fun u => u.state = .testing).length ++ toLE 1 (divisionState s x) ++ toLE 1 x.divMode ++
      toLE 2 x.bsplit) s := by
  simp only [cmdClearingStatus, hn, hx, length_failedUnits_filter]

/-! ### CLEARING_TEST_SET (R223) -/

section
variable (h10 : 10 ≤ par p 0 2) (h3600 : par p 0 2 ≤ 3600)
include h10 h3600

theorem cmdClearingTestSet_period (hr : par p 2 1 = 0) : cmdClearingTestSet q p s = ok [] { s with testPeriod := par p 0 2 } := by
  have h : ¬(par p 0 2 < 10 || 3600 < par p 0 2 || 1 < par p 2 1) = true := by simp; omega
  simp only [cmdClearingTestSet, if_neg h, if_pos hr]

theorem cmdClearingTestSet_run (hr : par p 2 1 = 1) : cmdClearingTestSet q p s =
    (.accepted, { s with testPeriod := par p 0 2, testRun := s.testRun ++ [pktOrigin p] }) := by
  have h : ¬(par p 0 2 < 10 || 3600 < par p 0 2 || 1 < par p 2 1) = true := by simp; omega
  have hr' : ¬par p 2 1 = 0 := by omega
  simp only [cmdClearingTestSet, if_neg h, if_neg hr']

end

theorem cmdClearingTestSet_badLength (h : par p 0 2 < 10 ∨ 3600 < par p 0 2 ∨ 1 < par p 2 1) :
    cmdClearingTestSet q p s = fail stBadLength s := by
  have h' : (par p 0 2 < 10 || 3600 < par p 0 2 || 1 < par p 2 1) = true := by simpa [or_assoc] using h
  simp only [cmdClearingTestSet, if_pos h']

/-! ### Records copied to a buffer (R105, R224, R266) -/

/-- Within the limit, to a buffer that is large enough, the records of FIRST and on are copied. -/
theorem copyRecords_within {limit : Nat} (rec : Nat → List Byte) {b : Option (List Nat)} (ha : par p 8 8 % 64 = 0)
    (hs : 64 * par p 4 4 ≤ par p 16 4) (hb : paramBuffer s q p (par p 8 8) (par p 16 4) = .ok b) (h1 : 1 ≤ par p 4 4)
    (hl : par p 4 4 ≤ limit) (hf : par p 0 4 < limit) :
    copyRecords q p limit 64 64 rec [] s = ok (toLE 4 (min (par p 0 4 + par p 4 4) limit - par p 0 4))
      (putBuffer q p b (par p 8 8)
        ((List.range (min (par p 0 4 + par p 4 4) limit - par p 0 4)).flatMap fun i => rec (par p 0 4 + i)) s) := by
  have hc : ¬(par p 4 4 = 0 || limit < par p 4 4) = true := by simp; omega
  have ha' : ¬par p 8 8 % 64 ≠ 0 := not_not_intro ha
  simp only [copyRecords, copyOut, if_neg hc, if_neg (Nat.not_le.2 hf), if_neg ha', if_neg (Nat.not_lt.2 hs), hb, List.append_nil]

/-! ### Records withheld from their reader (R106) -/

/-- A tenant is told nothing of a tract that is not its own. -/
theorem recordOwner_withheld {tract : Nat} (ho : q.operator = false) (hx : ∀ x, ownerOf s tract = some x → x.num ≠ pktPart p) :
    recordOwner s q p tract = (0xFF, 1, true) := by
  unfold recordOwner
  split
  · rw [ho]
    rfl
  · rename_i x hown
    have hother : (!q.operator && x.num ≠ pktPart p) = true := by simp [ho, hx x hown]
    rw [if_pos hother]

/-- The operator is served the record of a tract that nobody owns. -/
theorem recordOwner_unowned {tract : Nat} (ho : q.operator = true) (hx : ownerOf s tract = none) :
    recordOwner s q p tract = (0xFF, 0, false) := by
  simp only [recordOwner, hx, ho, if_true]

theorem latticeRecord_withheld {g : Nat} (h : recordOwner s q p (tractOfCore (256 * g)) = (0xFF, 1, true)) :
    latticeRecord s q p g = padTo 64 (toLE 2 g ++ [0xFF, 1]) := by
  simp only [latticeRecord, h, if_true, List.append_assoc]
  rfl

theorem netRecord_withheld {g : Nat} (h : recordOwner s q p (tractOfCore (256 * g)) = (0xFF, 1, true)) :
    netRecord s q p g = padTo 64 (toLE 2 g ++ [0xFF, 1]) := by
  simp only [netRecord, h, if_true, List.append_assoc]
  rfl

theorem unitRecord_withheld {u : Nat} (h : recordOwner s q p (tractOfCore (unitColumn u)) = (0xFF, 1, true)) :
    unitRecord s q p u = padTo 64 (toLE 4 u ++ [0xFF, 1]) := by
  simp only [unitRecord, h, if_true, List.append_assoc]
  rfl

theorem latticeRecord_unowned {g : Nat} {k : LatticeCtr} (h : recordOwner s q p (tractOfCore (256 * g)) = (0xFF, 0, false))
    (hk : s.lattice.find? (fun c => c.grove = g) = some k) : latticeRecord s q p g = toLE 2 g ++ [0xFF, 0, 0, 0, 0, 0] ++
      toLE 8 k.passes.toNat ++ toLE 8 k.bubbles.toNat ++ toLE 8 k.retries.toNat ++ toLE 8 k.vector.toNat ++
      toLE 8 k.replayed.toNat ++ toLE 8 k.stretched.toNat ++ toLE 8 k.cycles.toNat := by
  have hhead : toLE 2 g ++ toLE 1 0xFF ++ toLE 1 0 ++ zeros 4 = toLE 2 g ++ [0xFF, 0, 0, 0, 0, 0] := by
    simp only [List.append_assoc]
    rfl
  simp only [latticeRecord, h, hk, Option.getD_some, Bool.false_eq_true, if_false, hhead]

end

/-- What the row of a command accepts (R331). -/
theorem CmdRow.accepts_iff (r : CmdRow) (n : Nat) :
    r.accepts n = true ↔ r.lo ≤ n ∧ n ≤ r.hi ∧ (n - r.lo) % r.step = 0 := by
  simp only [CmdRow.accepts, Bool.and_eq_true, decide_eq_true_eq, and_assoc]

/-- Settles O48: the command's own part answers by whether the context has a ring, and its row of R331 accepts one length. -/
theorem healthRingStatusReportsTheRing : Obligations.HealthRingStatusReportsTheRing := by
  unfold Obligations.HealthRingStatusReportsTheRing
  refine ⟨?ring, ?noRing, ?badContext, ?length⟩
  case ring => exact fun s q p c x r hf hx hc hr => hf.completes (cmdHealthRingStatus_ring q c (fetchedState p s) hx hc hr)
  case noRing => exact fun s q p c x hf hx hc hr => hf.completes (cmdHealthRingStatus_none q c (fetchedState p s) hx hc hr)
  case badContext => exact fun s q p c hf hc => hf.fails (cmdHealthRingStatus_badContext q c (fetchedState p s) hc)
  case length =>
    refine ⟨anyRole 0x0C02 7 4, by decide, fun n => ?_⟩
    rw [CmdRow.accepts_iff]
    dsimp only [anyRole]
    omega

/-- Settles O47: each clause is the lemma above about its command's own part, or about a record. -/
theorem clearingCommandsAndCounters : Obligations.ClearingCommandsAndCounters := by
  unfold Obligations.ClearingCommandsAndCounters
  refine ⟨?division, ?status, ?testSet, ?counters, ?withheld, ?withheldUnit, ?unowned, ?attach, ?detach⟩
  case division =>
    intro s q p c hf
    exact ⟨fun hm he h1 h2 => hf.completes (cmdClearingDivision_sets q c _ hm he h1 h2),
      fun hm hm' he => hf.fails (cmdClearingDivision_notExpert q c _ hm hm' he),
      fun h => hf.fails (cmdClearingDivision_badLength q c _ h)⟩
  case status =>
    intro s q p c n x hf hn hx
    exact hf.completes (cmdClearingStatus_found q c (fetchedState p s) hn hx)
  case testSet =>
    intro s q p c hf
    exact ⟨fun h h' hr => hf.completes (cmdClearingTestSet_period q c _ h h' hr),
      fun h h' hr => by rw [← hf.origin]; exact hf.accepts (cmdClearingTestSet_run q c _ h h' hr),
      fun h => hf.fails (cmdClearingTestSet_badLength q c _ h)⟩
  case counters =>
    intro s q p c b ha hs hb h1 copied
    exact ⟨fun hf hl h0 => hf.completes (copyRecords_within q c _ _ ha hs hb h1 hl h0),
      fun hf hl h0 => hf.completes (copyRecords_within q c _ _ ha hs hb h1 hl h0),
      fun hf hl h0 => hf.completes (copyRecords_within q c _ _ ha hs hb h1 hl h0)⟩
  case withheld =>
    intro s q p g ho hx
    have h := recordOwner_withheld q p s ho hx
    exact ⟨latticeRecord_withheld q p s h, netRecord_withheld q p s h⟩
  case withheldUnit => exact fun s q p u ho hx => unitRecord_withheld q p s (recordOwner_withheld q p s ho hx)
  case unowned => exact fun s q p g k ho hx hk => latticeRecord_unowned q p s (recordOwner_unowned q p s ho hx) hk
  case attach =>
    intro s q p c x r o hf hx hc hen hb hv hr ha hk hn hfit
    exact hf.completes (cmdHealthRingSet_attaches q c (fetchedState p s) hx hc hen hb hv hr ha hk hn hfit)
  case detach => exact fun s q p c hf hc hen => hf.completes (cmdHealthRingSet_detaches q c (fetchedState p s) hc hen)

end Sys2Proof.Machine
end

section
/-! SUPPORT and the SETTLED STATEMENT of INT8 (O59): rounding to the nearest integer. -/
namespace Sys2Proof.Machine

/-! ### The nearest integer (R61, R63) -/

/-- The rounding of n / d lies within a half of it, and where two integers do, it is the even one. -/
theorem rne_nearest (n : Nat) {d : Nat} (hd : 0 < d) : 2 * n ≤ (2 * rne n d + 1) * d ∧ 2 * rne n d * d ≤ 2 * n + d ∧
    (2 * n = (2 * rne n d + 1) * d ∨ 2 * rne n d * d = 2 * n + d → rne n d % 2 = 0) := by
  have hn : n = n / d * d + n % d := (Nat.div_add_mod' n d).symm
  have hr : n % d < d := Nat.mod_lt n hd
  have hexpand (q : Nat) : (2 * q + 1) * d = 2 * (q * d) + d ∧ 2 * q * d = 2 * (q * d) := by
    rw [Nat.add_mul, Nat.one_mul, Nat.mul_assoc]
    exact ⟨rfl, rfl⟩
  have hnext : (n / d + 1) * d = n / d * d + d := Nat.succ_mul ..
  have hcase : rne n d = n / d ∧ 2 * (n % d) ≤ d ∧ (2 * (n % d) = d → n / d % 2 = 0) ∨
      rne n d = n / d + 1 ∧ d ≤ 2 * (n % d) ∧ (2 * (n % d) = d → (n / d + 1) % 2 = 0) := by
    unfold rne
    dsimp only
    split
    · omega
    · split
      · omega
      · split <;> omega
  obtain ⟨hodd, heven⟩ := hexpand (rne n d)
  rw [hodd, heven]
  rcases hcase with ⟨hq, hle, htie⟩ | ⟨hq, hle, htie⟩
  · rw [hq]
    omega
  · rw [hq, hnext]
    omega

theorem rne_le {n d k : Nat} (hd : 0 < d) (h : n ≤ k * d) : rne n d ≤ k := by
  obtain ⟨-, hup, -⟩ := rne_nearest n hd
  have hle : 2 * rne n d * d ≤ (2 * k + 1) * d := by
    rw [Nat.add_mul, Nat.one_mul, Nat.mul_assoc 2 k]
    omega
  have := Nat.le_of_mul_le_mul_right hle hd
  omega

theorem le_rne {n d k : Nat} (hd : 0 < d) (h : k * d ≤ n) : k ≤ rne n d := by
  obtain ⟨hlo, -, -⟩ := rne_nearest n hd
  have hle : 2 * k * d ≤ (2 * rne n d + 1) * d := by
    rw [Nat.mul_assoc]
    omega
  have := Nat.le_of_mul_le_mul_right hle hd
  omega

/-! ### INT8 (R63) -/

/-- Two's complement of a magnitude within the limit. -/
theorem toNat_ofInt8_signed (b : Bool) {m : Nat} (h0 : m ≠ 0) (h : m ≤ 127) :
    (BitVec.ofInt 8 (if b then -(m : Int) else m)).toNat = if b then 256 - m else m := by
  cases b <;> simp only [BitVec.toNat_ofInt, if_true, if_false, Bool.false_eq_true] <;> omega

theorem toNat_ofInt8_limit (b : Bool) : (BitVec.ofInt 8 (if b then -127 else 127)).toNat = if b then 129 else 127 := by
  cases b <;> rfl

/-- A value that rounds within the limit. -/
theorem toInt8_within (b : Bool) {n d : Nat} (h : rne n d ≤ 127) : toInt8 (.fin b n d) =
    ((BitVec.ofInt 8 (if b then -(rne n d : Int) else rne n d)).toNat, if rne n d = 0 then .zero else .plain) := by
  have hlim : ¬127 < rne n d := Nat.not_lt.2 h
  by_cases h0 : rne n d = 0
  · simp only [toInt8, if_neg hlim, if_pos h0]
    rw [h0]
    cases b <;> rfl
  · simp only [toInt8, if_neg hlim, if_neg h0, toNat_ofInt8_signed b h0 h]

/-- A value that rounds beyond the limit. -/
theorem toInt8_beyond (b : Bool) {n d : Nat} (h : 127 < rne n d) :
    toInt8 (.fin b n d) = ((BitVec.ofInt 8 (if b then -127 else 127)).toNat, .saturated) := by
  simp only [toInt8, if_pos h, toNat_ofInt8_limit]

/-- Settles O59: the rounding of the magnitude lies within the limit or beyond it. -/
theorem conversionToInt8 : Obligations.ConversionToInt8 := by
  unfold Obligations.ConversionToInt8
  refine ⟨fun b n d hd hn => ?_, fun b n d hd hn => ?_, fun b => by rw [toNat_ofInt8_limit]; rfl, fun _ => rfl⟩
  · obtain ⟨hlo, hup, htie⟩ := rne_nearest n hd
    have hm := rne_le hd hn
    exact ⟨rne n d, hm, hlo, hup, htie, toInt8_within b hm⟩
  · have hm : 127 ≤ rne n d := le_rne hd (Nat.le_of_lt hn)
    refine ⟨?_, fun hbig => toInt8_beyond b ?_⟩
    · rcases Nat.eq_or_lt_of_le hm with heq | hlt
      · rw [toInt8_within b (Nat.le_of_eq heq.symm), ← heq]
        cases b <;> rfl
      · rw [toInt8_beyond b hlt]
    · obtain ⟨hlo, -, htie⟩ := rne_nearest n hd
      refine Nat.lt_of_le_of_ne hm fun heq => ?_
      rw [← heq] at hlo htie
      have hodd := htie (.inl (by omega))
      omega

end Sys2Proof.Machine
end

section
/-! SUPPORT for conversions (O58): the values of magnitude codes in units of the smallest subnormal value, and rounding to the nearest
code. -/
namespace Sys2Proof.Machine

/-! ### The value of a magnitude code (R43, R47) -/

/-- The value of a magnitude code in units of the smallest subnormal value. -/
def codeUnits (mbits code : Nat) : Nat :=
  if code / 2 ^ mbits = 0 then code % 2 ^ mbits else (2 ^ mbits + code % 2 ^ mbits) * 2 ^ (code / 2 ^ mbits - 1)

/-- The codes of a binade, and the first of the next, count its units in the last place. -/
theorem codeUnits_binade {mbits t q : Nat} (hq : q ≤ 2 ^ (mbits + 1)) (ht : t = 0 ∨ 2 ^ mbits ≤ q) :
    codeUnits mbits (t * 2 ^ mbits + q) = q * 2 ^ t := by
  have hp : 0 < 2 ^ mbits := Nat.two_pow_pos mbits
  have hp2 : 2 ^ (mbits + 1) = 2 * 2 ^ mbits := by rw [Nat.pow_succ, Nat.mul_comm]
  unfold codeUnits
  rcases Nat.lt_or_ge q (2 ^ mbits) with hlt | hge
  · obtain rfl : t = 0 := ht.resolve_right (by omega)
    rw [Nat.zero_mul, Nat.zero_add, if_pos (Nat.div_eq_of_lt hlt), Nat.mod_eq_of_lt hlt, Nat.pow_zero, Nat.mul_one]
  · rcases Nat.eq_or_lt_of_le hq with heq | hlt
    · have hcode : t * 2 ^ mbits + q = (t + 2) * 2 ^ mbits := by rw [heq, hp2, Nat.add_mul]
      rw [hcode, Nat.mul_div_cancel _ hp, Nat.mul_mod_left, if_neg (Nat.succ_ne_zero _), heq, Nat.add_zero,
        show t + 2 - 1 = t + 1 from rfl, Nat.pow_succ, Nat.pow_succ, Nat.mul_assoc, Nat.mul_comm (2 ^ t) 2]
    · obtain ⟨r, rfl⟩ := Nat.exists_eq_add_of_le hge
      have hr : r < 2 ^ mbits := by omega
      have hcode : t * 2 ^ mbits + (2 ^ mbits + r) = 2 ^ mbits * (t + 1) + r := by rw [Nat.mul_comm t, Nat.mul_succ, Nat.add_assoc]
      rw [hcode, Nat.mul_add_div hp, Nat.mul_add_mod, Nat.div_eq_of_lt hr, Nat.mod_eq_of_lt hr, if_neg (Nat.succ_ne_zero _)]
      rfl

theorem codeUnits_zero (mbits : Nat) : codeUnits mbits 0 = 0 := by
  have h := codeUnits_binade (mbits := mbits) (t := 0) (q := 0) (Nat.zero_le _) (.inl rfl)
  rwa [Nat.zero_mul, Nat.zero_mul] at h

/-- A code lies in a binade. -/
theorem exists_binade (mbits code : Nat) : ∃ t q, code = t * 2 ^ mbits + q ∧ q < 2 ^ (mbits + 1) ∧ (t = 0 ∨ 2 ^ mbits ≤ q) := by
  have hp2 : 2 ^ (mbits + 1) = 2 * 2 ^ mbits := by rw [Nat.pow_succ, Nat.mul_comm]
  have hmod := Nat.mod_lt code (Nat.two_pow_pos mbits)
  have hcode := (Nat.div_add_mod' code (2 ^ mbits)).symm
  rcases hef : code / 2 ^ mbits with _ | t
  · rw [hef] at hcode
    exact ⟨0, code % 2 ^ mbits, hcode, by omega, .inl rfl⟩
  · rw [hef, Nat.succ_mul, Nat.add_assoc] at hcode
    exact ⟨t, 2 ^ mbits + code % 2 ^ mbits, hcode, by omega, .inr (Nat.le_add_right ..)⟩

theorem codeUnits_lt_succ (mbits code : Nat) : codeUnits mbits code < codeUnits mbits (code + 1) := by
  obtain ⟨t, q, rfl, hq, ht⟩ := exists_binade mbits code
  rw [Nat.add_assoc, codeUnits_binade (Nat.le_of_lt hq) ht, codeUnits_binade hq (ht.imp_right fun h => by omega)]
  exact Nat.mul_lt_mul_of_pos_right (Nat.lt_succ_self q) (Nat.two_pow_pos t)

/-- Larger codes stand for larger values. -/
theorem codeUnits_lt {mbits a b : Nat} (h : a < b) : codeUnits mbits a < codeUnits mbits b := by
  induction h with
  | refl => exact codeUnits_lt_succ mbits a
  | step _ ih => exact Nat.lt_trans ih (codeUnits_lt_succ mbits _)

theorem codeUnits_le {mbits a b : Nat} (h : a ≤ b) : codeUnits mbits a ≤ codeUnits mbits b := by
  rcases Nat.eq_or_lt_of_le h with rfl | hlt
  · exact Nat.le_refl _
  · exact Nat.le_of_lt (codeUnits_lt hlt)

theorem codeUnits_inj {mbits a b : Nat} (h : codeUnits mbits a = codeUnits mbits b) : a = b := by
  rcases Nat.lt_trichotomy a b with hlt | heq | hlt
  · exact absurd h (Nat.ne_of_lt (codeUnits_lt hlt))
  · exact heq
  · exact absurd h.symm (Nat.ne_of_lt (codeUnits_lt hlt))

theorem magValue_den_pos (mbits : Nat) (emin : Int) (code : Nat) : 0 < (magValue mbits emin code).2 := by
  have hden (m : Nat) (k : Int) : 0 < (if 0 ≤ k then (m * 2 ^ k.toNat, 1) else (m, 2 ^ (-k).toNat)).2 := by
    split
    · exact Nat.one_pos
    · exact Nat.two_pow_pos _
  exact hden _ _

/-- The smallest subnormal value is 2^-u: a code's value is its units times that. -/
theorem magValue_units {mbits u : Nat} {emin : Int} (hu : (u : Int) = mbits - emin) (code : Nat) :
    (magValue mbits emin code).1 * 2 ^ u = codeUnits mbits code * (magValue mbits emin code).2 := by
  have hscale (m t : Nat) : let v : Nat × Nat := if 0 ≤ emin - mbits + (t : Int) then (m * 2 ^ (emin - mbits + (t : Int)).toNat, 1)
      else (m, 2 ^ (-(emin - mbits + (t : Int))).toNat)
      v.1 * 2 ^ u = m * 2 ^ t * v.2 := by
    dsimp only
    split
    · dsimp only
      rw [Nat.mul_one, Nat.mul_assoc, ← Nat.pow_add]
      congr 2
      omega
    · dsimp only
      rw [Nat.mul_assoc, ← Nat.pow_add]
      congr 2
      omega
  unfold magValue codeUnits
  dsimp only
  by_cases h0 : code / 2 ^ mbits = 0
  · have h := hscale (code % 2 ^ mbits) 0
    rw [Nat.pow_zero, Nat.mul_one] at h
    rw [if_pos h0, if_pos h0, if_pos h0]
    exact h
  · have h := hscale (2 ^ mbits + code % 2 ^ mbits) (code / 2 ^ mbits - 1)
    rw [Int.ofNat_sub (Nat.one_le_iff_ne_zero.2 h0)] at h
    rw [if_neg h0, if_neg h0, if_neg h0]
    exact h

/-! ### The binade of a quotient -/

/-- Comparing n / d with a power of two, its exponent given as a difference, depends on the difference alone. -/
theorem lt_pow_congr {n d a b a' b' : Nat} (h : a + b' = a' + b) : n * 2 ^ b < d * 2 ^ a ↔ n * 2 ^ b' < d * 2 ^ a' := by
  have hleft : n * 2 ^ b * 2 ^ b' = n * 2 ^ b' * 2 ^ b := Nat.mul_right_comm ..
  have hright : d * 2 ^ a * 2 ^ b' = d * 2 ^ a' * 2 ^ b := by rw [Nat.mul_assoc, ← Nat.pow_add, h, Nat.pow_add, Nat.mul_assoc]
  rw [← Nat.mul_lt_mul_right (Nat.two_pow_pos b'), hleft, hright, Nat.mul_lt_mul_right (Nat.two_pow_pos b)]

theorem lt_pow_mono {n d a b a' b' : Nat} (h : a + b' ≤ a' + b) (hlt : n * 2 ^ b < d * 2 ^ a) : n * 2 ^ b' < d * 2 ^ a' := by
  have hlt' : n * 2 ^ (b + b') < d * 2 ^ (a + b') := (lt_pow_congr (by omega)).1 hlt
  have hle : d * 2 ^ (a + b') ≤ d * 2 ^ (a' + b) := Nat.mul_le_mul_left d (Nat.pow_le_pow_right Nat.two_pos h)
  exact (lt_pow_congr (by omega)).1 (Nat.lt_of_lt_of_le hlt' hle)

/-- flog2 is the floor of the logarithm. -/
theorem flog2_lt_iff {n d : Nat} (hn : 0 < n) (hd : 0 < d) (a b : Nat) : flog2 n d < (a : Int) - b ↔ n * 2 ^ b < d * 2 ^ a := by
  have hn1 : 2 ^ n.log2 ≤ n := Nat.log2_self_le (Nat.ne_of_gt hn)
  have hn2 : n < 2 ^ (n.log2 + 1) := Nat.lt_log2_self
  have hd1 : 2 ^ d.log2 ≤ d := Nat.log2_self_le (Nat.ne_of_gt hd)
  have hd2 : d < 2 ^ (d.log2 + 1) := Nat.lt_log2_self
  have hhi : n * 2 ^ d.log2 < d * 2 ^ (n.log2 + 1) := by
    rw [Nat.mul_comm d]
    exact Nat.mul_lt_mul_of_lt_of_le hn2 hd1 hd
  have hlo : ¬n * 2 ^ (d.log2 + 1) < d * 2 ^ n.log2 := by
    rw [Nat.not_lt, Nat.mul_comm n]
    exact Nat.mul_le_mul (Nat.le_of_lt hd2) hn1
  have hflog : flog2 n d = if n * 2 ^ d.log2 < d * 2 ^ n.log2 then (n.log2 : Int) - d.log2 - 1 else (n.log2 : Int) - d.log2 := by
    unfold flog2
    dsimp only
    split
    · rename_i h0
      have hcond : n < d * 2 ^ ((n.log2 : Int) - d.log2).toNat ↔ n * 2 ^ d.log2 < d * 2 ^ n.log2 := by
        have h := lt_pow_congr (n := n) (d := d) (a := ((n.log2 : Int) - d.log2).toNat) (b := 0) (a' := n.log2) (b' := d.log2) (by omega)
        rwa [Nat.pow_zero, Nat.mul_one] at h
      simp only [hcond]
    · rename_i h0
      have hcond : n * 2 ^ (-((n.log2 : Int) - d.log2)).toNat < d ↔ n * 2 ^ d.log2 < d * 2 ^ n.log2 := by
        have h := lt_pow_congr (n := n) (d := d) (a := 0) (b := (-((n.log2 : Int) - d.log2)).toNat) (a' := n.log2) (b' := d.log2)
          (by omega)
        rwa [Nat.pow_zero, Nat.mul_one] at h
      simp only [hcond]
  rw [hflog]
  split
  · rename_i hk
    refine ⟨fun h => lt_pow_mono (by omega) hk, fun h => ?_⟩
    rcases Int.lt_or_le ((n.log2 : Int) - d.log2 - 1) (a - b) with h' | h'
    · exact h'
    · exact absurd (lt_pow_mono (by omega) h) hlo
  · rename_i hk
    refine ⟨fun h => lt_pow_mono (by omega) hhi, fun h => ?_⟩
    rcases Int.lt_or_le ((n.log2 : Int) - d.log2) (a - b) with h' | h'
    · exact h'
    · exact absurd (lt_pow_mono (by omega) h) hk

/-! ### The nearest code (R61) -/

/-- q is nearest to x / w: within a half of it. -/
def WithinHalf (x w q : Nat) : Prop := 2 * x ≤ (2 * q + 1) * w ∧ 2 * q * w ≤ 2 * x + w

theorem rne_withinHalf (n : Nat) {d : Nat} (hd : 0 < d) : WithinHalf n d (rne n d) := by
  obtain ⟨hlo, hup, -⟩ := rne_nearest n hd
  exact ⟨hlo, hup⟩

theorem WithinHalf.mul {x w q : Nat} (h : WithinHalf x w q) (c : Nat) : WithinHalf (x * c) (w * c) q := by
  obtain ⟨hlo, hup⟩ := h
  unfold WithinHalf
  rw [← Nat.mul_assoc, ← Nat.mul_assoc, ← Nat.mul_assoc, ← Nat.add_mul]
  exact ⟨Nat.mul_le_mul_right c hlo, Nat.mul_le_mul_right c hup⟩

/-- Of all codes, the one that counts the nearest number of units of a value's binade is nearest. -/
theorem codeUnits_nearest {mbits t q x d : Nat} (hd : 0 < d) (hhalf : WithinHalf x (d * 2 ^ t) q)
    (hlt : x < 2 ^ (mbits + 1) * (d * 2 ^ t))
    (hge : t = 0 ∨ 2 ^ mbits * (d * 2 ^ t) ≤ x) (m : Nat) :
    ((x : Int) - codeUnits mbits (t * 2 ^ mbits + q) * d).natAbs ≤ ((x : Int) - codeUnits mbits m * d).natAbs := by
  obtain ⟨hlo, hup⟩ := hhalf
  have hw : 0 < d * 2 ^ t := Nat.mul_pos hd (Nat.two_pow_pos t)
  have hbinade (j : Nat) : j * 2 ^ t * d = j * (d * 2 ^ t) := by rw [Nat.mul_assoc, Nat.mul_comm (2 ^ t)]
  generalize hW : d * 2 ^ t = w at *
  have hf : x / w < 2 ^ (mbits + 1) := (Nat.div_lt_iff_lt_mul hw).2 hlt
  have hft : t = 0 ∨ 2 ^ mbits ≤ x / w := hge.imp_right fun h => (Nat.le_div_iff_mul_le hw).2 h
  have hx : x = x / w * w + x % w := (Nat.div_add_mod' x w).symm
  have hr : x % w < w := Nat.mod_lt x hw
  generalize x / w = f at *
  generalize x % w = r at *
  have hq : q = f ∨ q = f + 1 := by
    have h1 : 2 * f * w ≤ (2 * q + 1) * w := Nat.le_trans (by rw [Nat.mul_assoc]; omega) hlo
    have h2 : 2 * q * w < (2 * f + 3) * w := Nat.lt_of_le_of_lt hup (by rw [Nat.add_mul, Nat.mul_assoc]; omega)
    have h1' := Nat.le_of_mul_le_mul_right h1 hw
    have h2' := Nat.lt_of_mul_lt_mul_right h2
    omega
  have hnear : ((x : Int) - (q * w : Nat)).natAbs ≤ r ∧ ((x : Int) - (q * w : Nat)).natAbs ≤ w - r := by
    rw [Nat.add_mul, Nat.one_mul, Nat.mul_assoc] at hlo
    rw [Nat.mul_assoc] at hup
    have hfw : (f + 1) * w = f * w + w := Nat.succ_mul f w
    rcases hq with rfl | rfl
    · omega
    · rw [hfw] at hlo hup ⊢
      omega
  have hcode : codeUnits mbits (t * 2 ^ mbits + q) * d = q * w := by
    rw [codeUnits_binade (by omega) (hft.imp_right fun h => by omega), hbinade]
  rw [← Int.natCast_mul, ← Int.natCast_mul, hcode]
  obtain ⟨hn1, hn2⟩ := hnear
  rcases Nat.lt_or_ge (t * 2 ^ mbits + f) m with hm | hm
  · have hv : (f + 1) * w ≤ codeUnits mbits m * d := by
      rw [← hbinade, ← codeUnits_binade hf (hft.imp_right fun h => by omega)]
      exact Nat.mul_le_mul_right d (codeUnits_le hm)
    rw [Nat.succ_mul] at hv
    omega
  · have hv : codeUnits mbits m * d ≤ f * w := by
      rw [← hbinade, ← codeUnits_binade (Nat.le_of_lt hf) hft]
      exact Nat.mul_le_mul_right d (codeUnits_le hm)
    omega

/-- The rounding of a magnitude is a count of units of its binade, or of the subnormal values' one, nearest to it. -/
theorem roundMag_cases {mbits u : Nat} {emin : Int} (hu : (u : Int) = mbits - emin) {n d : Nat} (hn : 0 < n) (hd : 0 < d) :
    ∃ t q, roundMag mbits emin n d = t * 2 ^ mbits + q ∧ WithinHalf (n * 2 ^ u) (d * 2 ^ t) q ∧
      max (flog2 n d) emin - emin = t := by
  obtain ⟨t, ht⟩ := Int.eq_ofNat_of_zero_le (show 0 ≤ max (flog2 n d) emin - emin by omega)
  have he : max (flog2 n d) emin = emin + t := by omega
  unfold roundMag
  rw [if_neg (Nat.ne_of_gt hn)]
  dsimp only
  rw [he, show (emin + t - emin).toNat = t by omega]
  split
  · rename_i h0
    have hs : n * 2 ^ ((mbits : Int) - (emin + t)).toNat * 2 ^ t = n * 2 ^ u := by
      rw [Nat.mul_assoc, ← Nat.pow_add]
      congr 2
      omega
    exact ⟨t, _, rfl, hs ▸ (rne_withinHalf _ hd).mul (2 ^ t), by omega⟩
  · rename_i h0
    have hs : d * 2 ^ (-((mbits : Int) - (emin + t))).toNat * 2 ^ u = d * 2 ^ t := by
      rw [Nat.mul_assoc, ← Nat.pow_add]
      congr 2
      omega
    exact ⟨t, _, rfl, hs ▸ (rne_withinHalf n (Nat.mul_pos hd (Nat.two_pow_pos _))).mul (2 ^ u), by omega⟩

section
variable {mbits u : Nat} {emin : Int} (hu : (u : Int) = mbits - emin) {n d : Nat} (hd : 0 < d)
include hu hd

/-- Rounding a magnitude with no upper limit gives a nearest code. -/
theorem roundMag_nearest (n m : Nat) : (((n * 2 ^ u : Nat) : Int) - codeUnits mbits (roundMag mbits emin n d) * d).natAbs ≤
    (((n * 2 ^ u : Nat) : Int) - codeUnits mbits m * d).natAbs := by
  rcases Nat.eq_zero_or_pos n with rfl | hn
  · have h0 : roundMag mbits emin 0 d = 0 := if_pos rfl
    rw [h0, codeUnits_zero, Nat.zero_mul]
    omega
  · obtain ⟨t, q, hround, hhalf, ht⟩ := roundMag_cases hu hn hd
    rw [hround]
    refine codeUnits_nearest hd hhalf ?_ ?_ m
    · have hlt := (flog2_lt_iff hn hd (mbits + 1 + t) u).1 (by omega)
      rwa [Nat.pow_add, Nat.mul_left_comm] at hlt
    · rcases Nat.eq_zero_or_pos t with h0 | hpos
      · exact .inl h0
      · have hge := (not_congr (flog2_lt_iff hn hd (mbits + t) u)).1 (by omega)
        rw [Nat.pow_add, Nat.mul_left_comm] at hge
        exact .inr (Nat.not_lt.1 hge)

/-- A value that rounds above a code lies above that code's value. -/
theorem lt_of_lt_roundMag {m : Nat} (h : m < roundMag mbits emin n d) : codeUnits mbits m * d < n * 2 ^ u := by
  have hv : codeUnits mbits m * d < codeUnits mbits (roundMag mbits emin n d) * d := Nat.mul_lt_mul_of_pos_right (codeUnits_lt h) hd
  have hnear := roundMag_nearest hu hd n m
  rw [← Int.natCast_mul, ← Int.natCast_mul] at hnear
  omega

theorem magValue_mul_lt {m : Nat} (h : m < roundMag mbits emin n d) :
    (magValue mbits emin m).1 * d < n * (magValue mbits emin m).2 := by
  have hv := magValue_units hu m
  refine Nat.lt_of_mul_lt_mul_right (a := 2 ^ u) ?_
  calc (magValue mbits emin m).1 * d * 2 ^ u = codeUnits mbits m * d * (magValue mbits emin m).2 := by
        rw [Nat.mul_right_comm, hv, Nat.mul_right_comm]
    _ < n * 2 ^ u * (magValue mbits emin m).2 :=
        Nat.mul_lt_mul_of_pos_right (lt_of_lt_roundMag hu hd h) (magValue_den_pos ..)
    _ = n * (magValue mbits emin m).2 * 2 ^ u := Nat.mul_right_comm ..

omit hd in
/-- The distance of a value from a code's, in units. -/
theorem magValue_distance (n d m : Nat) : ((n * (magValue mbits emin m).2 : Int) - (magValue mbits emin m).1 * d).natAbs * 2 ^ u =
    (((n * 2 ^ u : Nat) : Int) - codeUnits mbits m * d).natAbs * (magValue mbits emin m).2 := by
  have hv : ((magValue mbits emin m).1 * (2 ^ u : Nat) : Int) = codeUnits mbits m * (magValue mbits emin m).2 := by
    exact_mod_cast magValue_units hu m
  have hleft : (n * (magValue mbits emin m).2 : Int) * (2 ^ u : Nat) = ((n * 2 ^ u : Nat) : Int) * (magValue mbits emin m).2 := by
    rw [Int.natCast_mul, Int.mul_right_comm]
  have hright : ((magValue mbits emin m).1 * d : Int) * (2 ^ u : Nat) = codeUnits mbits m * d * (magValue mbits emin m).2 := by
    rw [Int.mul_right_comm, hv, Int.mul_right_comm]
  calc _ = (((n * (magValue mbits emin m).2 : Int) - (magValue mbits emin m).1 * d) * (2 ^ u : Nat)).natAbs := by
        rw [Int.natAbs_mul, Int.natAbs_natCast]
    _ = ((((n * 2 ^ u : Nat) : Int) - codeUnits mbits m * d) * (magValue mbits emin m).2).natAbs := by
        rw [Int.sub_mul, Int.sub_mul, hleft, hright]
    _ = _ := by rw [Int.natAbs_mul, Int.natAbs_natCast]

/-- The code that a magnitude rounds to is no farther from it than any other: without division. -/
theorem magValue_nearest (n m : Nat) :
    let x := magValue mbits emin (roundMag mbits emin n d)
    let y := magValue mbits emin m
    ((n * x.2 : Int) - x.1 * d).natAbs * y.2 ≤ ((n * y.2 : Int) - y.1 * d).natAbs * x.2 := by
  dsimp only
  refine Nat.le_of_mul_le_mul_right (c := 2 ^ u) ?_ (Nat.two_pow_pos u)
  rw [Nat.mul_right_comm, magValue_distance hu, Nat.mul_right_comm _ _ (2 ^ u), magValue_distance hu,
    Nat.mul_right_comm _ _ (magValue mbits emin (roundMag mbits emin n d)).2]
  exact Nat.mul_le_mul_right _ (Nat.mul_le_mul_right _ (roundMag_nearest hu hd n m))

end

/-! ### Conversion to a binary format (R61) -/

/-- The code of a finite value: its sign above the magnitude, which stops at the infinity. -/
theorem toBinary_fin (f : Fmt) (b : Bool) (n d : Nat) : (toBinary f (.fin b n d)).1 =
    2 ^ f.signBit * (if b then 1 else 0) + min (roundMag f.mbits f.emin n d) (f.maxCode + 1) := by
  have hsign : 2 ^ f.signBit * (if b then 1 else 0) = if b then 2 ^ f.signBit else 0 := by cases b <;> simp
  rw [hsign]
  unfold toBinary
  dsimp only
  generalize roundMag f.mbits f.emin n d = m
  split
  · dsimp only
    omega
  · split
    · dsimp only
      omega
    · dsimp only
      omega

section
variable {f : Fmt} (hf : f ∈ [Fmt.f16, Fmt.bf16, Fmt.f32])
include hf

theorem maxCode_lt_of_binary : f.maxCode + 1 < 2 ^ f.signBit := by
  revert f
  decide

/-- The smallest subnormal value of a binary format. -/
theorem exists_units_of_binary : ∃ u : Nat, (u : Int) = f.mbits - f.emin :=
  ⟨(f.mbits - f.emin).toNat, by revert f; decide⟩

variable (b : Bool) (n d : Nat)

theorem toBinary_mod_signBit : (toBinary f (.fin b n d)).1 % 2 ^ f.signBit = min (roundMag f.mbits f.emin n d) (f.maxCode + 1) := by
  rw [toBinary_fin, Nat.mul_add_mod, Nat.mod_eq_of_lt (Nat.lt_of_le_of_lt (Nat.min_le_right _ _) (maxCode_lt_of_binary hf))]

theorem toBinary_div_signBit : (toBinary f (.fin b n d)).1 / 2 ^ f.signBit = if b then 1 else 0 := by
  rw [toBinary_fin, Nat.mul_add_div (Nat.two_pow_pos _),
    Nat.div_eq_of_lt (Nat.lt_of_le_of_lt (Nat.min_le_right _ _) (maxCode_lt_of_binary hf)), Nat.add_zero]

end

end Sys2Proof.Machine
end

section
/-! SUPPORT and the SETTLED STATEMENT of sums and orders (O58): anchored sums, the order of numbers, ranking, max and min, and the rows,
windows, kernel places and scans of operators. -/
namespace Sys2Proof.Machine

/-! ### Anchored sums (R55, R57, R58) -/

theorem accAdd_comm (a b : Acc) : accAdd a b = accAdd b a := by
  cases a <;> cases b <;> simp [accAdd, Int.add_comm]

theorem accAdd_assoc (a b c : Acc) : accAdd (accAdd a b) c = accAdd a (accAdd b c) := by
  cases a <;> cases b <;> cases c <;> simp [accAdd, Int.add_assoc]

theorem accAdd_zero (a : Acc) : accAdd a (some 0) = a := by
  cases a <;> simp [accAdd]

theorem foldl_accAdd_perm {l k : List Acc} (h : l.Perm k) (a : Acc) : l.foldl accAdd a = k.foldl accAdd a :=
  h.foldl_eq' (fun x _ y _ z => by rw [accAdd_assoc, accAdd_comm x, ← accAdd_assoc]) a

theorem foldl_accAdd_init (l : List Acc) (a : Acc) : l.foldl accAdd a = accAdd a (l.foldl accAdd (some 0)) := by
  induction l generalizing a with
  | nil => exact (accAdd_zero a).symm
  | cons x l ih => rw [List.foldl_cons, List.foldl_cons, ih (accAdd a x), ih (accAdd (some 0) x), accAdd_comm (some 0),
      accAdd_zero, accAdd_assoc]

theorem foldl_accAdd_append (l k : List Acc) :
    (l ++ k).foldl accAdd (some 0) = accAdd (l.foldl accAdd (some 0)) (k.foldl accAdd (some 0)) := by
  rw [List.foldl_append, foldl_accAdd_init]

theorem foldl_accAdd_none (l : List Acc) : l.foldl accAdd none = none := by
  induction l with
  | nil => rfl
  | cons x l ih => exact ih

theorem foldl_accAdd_of_mem_none {l : List Acc} (h : none ∈ l) : l.foldl accAdd (some 0) = none := by
  rw [foldl_accAdd_perm (List.perm_cons_erase h)]
  exact foldl_accAdd_none _

theorem accShift_some (i : Int) (n : Nat) : accShift (some i) n = some (i / 2 ^ n) := by
  simp [accShift]

/-- The pattern of the NaN tag is that of no integer within the bound. -/
theorem bitsAcc_accBits {b : Acc} (h : ∀ i, b = some i → -(2 ^ 127) < i ∧ i < 2 ^ 127) : bitsAcc (accBits b) = b := by
  rcases b with _ | i
  · rfl
  · obtain ⟨hlo, hhi⟩ := h i rfl
    have hi : (BitVec.ofInt 128 i).toInt = i := by
      rw [BitVec.toInt_ofInt, Int.bmod_eq_of_le] <;> omega
    have hne : BitVec.ofInt 128 i ≠ 1#128 <<< 127 := fun he => by
      have htag : (1#128 <<< 127).toInt = -(2 ^ 127) := by decide
      have : i = -(2 ^ 127) := by rw [← hi, he, htag]
      omega
    simp only [accBits, bitsAcc, if_neg hne, hi]

/-! ### The order of numbers (R129, R136) -/

/-- Where a number lies: with the lower infinity, among the finite ones, or with the upper. -/
def Num.zone : Num → Int
  | .nan _ => 0
  | .inf s => if s then -1 else 1
  | .fin _ _ _ => 0

theorem Num.lt_fin_iff {s t : Bool} {n d m e : Nat} : Num.lt (.fin s n d) (.fin t m e) = true ↔
    (Num.fin s n d).num * e < (Num.fin t m e).num * d := decide_eq_true_iff

/-- Numbers compare by their zones, and in one zone by their quotients. -/
theorem Num.lt_iff {a b : Num} (ha : a.isNan = false) (hb : b.isNan = false) :
    Num.lt a b = true ↔ a.zone < b.zone ∨ a.zone = b.zone ∧ a.num * b.den < b.num * a.den := by
  cases a with
  | nan s => cases ha
  | inf s =>
    cases b with
    | nan t => cases hb
    | inf t => cases s <;> cases t <;> decide
    | fin t m e => cases s <;> simp [Num.lt, Num.zone]
  | fin s n d =>
    cases b with
    | nan t => cases hb
    | inf t => cases t <;> simp [Num.lt, Num.zone]
    | fin t m e =>
      rw [Num.lt_fin_iff]
      exact ⟨fun h => .inr ⟨rfl, h⟩, fun h => h.elim (fun h => absurd h (Int.lt_irrefl 0)) And.right⟩

theorem Num.lt_asymm {a b : Num} (ha : a.isNan = false) (hb : b.isNan = false) (h : Num.lt a b = true) : Num.lt b a = false := by
  rw [Num.lt_iff ha hb] at h
  rw [Bool.eq_false_iff, Ne, Num.lt_iff hb ha]
  omega

/-- Quotients that do not rise from one to the next do not rise over both. -/
theorem quotient_le_trans {a b c : Int} {d e g : Nat} (he : 0 < e) (hab : b * d ≤ a * e) (hbc : c * e ≤ b * g) : c * d ≤ a * g := by
  refine Int.le_of_mul_le_mul_right (a := e) ?_ (Int.natCast_pos.2 he)
  calc c * d * e = c * e * d := Int.mul_right_comm ..
    _ ≤ b * g * d := Int.mul_le_mul_of_nonneg_right hbc (Int.natCast_nonneg d)
    _ = b * d * g := Int.mul_right_comm ..
    _ ≤ a * e * g := Int.mul_le_mul_of_nonneg_right hab (Int.natCast_nonneg g)
    _ = a * g * e := Int.mul_right_comm ..

/-- Of two numbers of which one is less, a third lies above the lesser or below the greater. -/
theorem Num.lt_or_lt_of_lt {a b c : Num} (ha : a.isNan = false) (hb : b.isNan = false) (hc : c.isNan = false) (hd : 0 < b.den)
    (h : Num.lt a c = true) : Num.lt a b = true ∨ Num.lt b c = true := by
  rw [Num.lt_iff ha hc] at h
  rw [Num.lt_iff ha hb, Num.lt_iff hb hc]
  have hq := quotient_le_trans (a := a.num) (b := b.num) (c := c.num) (d := a.den) (g := c.den) hd
  omega

/-! ### The rank order (R128, R129) -/

/-- A ranks before B whatever their indices: numbers before NaN, and by the order chosen. -/
def rankLess (down : Bool) (a b : Num) : Bool := !a.isNan && (b.isNan || (if down then Num.lt b a else Num.lt a b))

theorem rankLess_numbers (down : Bool) {a b : Num} (ha : a.isNan = false) (hb : b.isNan = false) :
    rankLess down a b = if down then Num.lt b a else Num.lt a b := by
  rw [rankLess, ha, hb, Bool.not_false, Bool.true_and, Bool.false_or]

theorem rankLess_nan_left (down : Bool) {a : Num} (b : Num) (ha : a.isNan = true) : rankLess down a b = false := by
  rw [rankLess, ha, Bool.not_true, Bool.false_and]

theorem rankLess_nan_right (down : Bool) {a b : Num} (ha : a.isNan = false) (hb : b.isNan = true) : rankLess down a b = true := by
  rw [rankLess, ha, hb, Bool.true_or, Bool.not_false, Bool.true_and]

theorem rankLess_asymm (down : Bool) {a b : Num} (h : rankLess down a b = true) : rankLess down b a = false := by
  cases hb : b.isNan with
  | true => exact rankLess_nan_left down a hb
  | false =>
    cases ha : a.isNan with
    | true => rw [rankLess_nan_left down b ha] at h; cases h
    | false =>
      rw [rankLess_numbers down ha hb] at h
      rw [rankLess_numbers down hb ha]
      cases down with
      | false => exact Num.lt_asymm ha hb h
      | true => exact Num.lt_asymm hb ha h

theorem rankLess_or_of_rankLess (down : Bool) {a b c : Num} (hd : 0 < b.den) (h : rankLess down a c = true) :
    rankLess down a b = true ∨ rankLess down b c = true := by
  cases ha : a.isNan with
  | true => rw [rankLess_nan_left down c ha] at h; cases h
  | false =>
    cases hb : b.isNan with
    | true => exact .inl (rankLess_nan_right down ha hb)
    | false =>
      cases hc : c.isNan with
      | true => exact .inr (rankLess_nan_right down hb hc)
      | false =>
        rw [rankLess_numbers down ha hc] at h
        rw [rankLess_numbers down ha hb, rankLess_numbers down hb hc]
        cases down with
        | false => exact Num.lt_or_lt_of_lt ha hb hc hd h
        | true => exact (Num.lt_or_lt_of_lt hc hb ha hd h).symm

/-- An entry ranks before another by their keys, and among equal keys by the index. -/
theorem rankBefore_iff (down : Bool) (a b : Num × Nat) :
    rankBefore down a b = true ↔ rankLess down a.1 b.1 = true ∨ rankLess down b.1 a.1 = false ∧ a.2 < b.2 := by
  unfold rankBefore
  cases ha : a.1.isNan with
  | true =>
    cases hb : b.1.isNan with
    | true => simp [rankLess_nan_left, ha, hb]
    | false => simp [rankLess_nan_left, rankLess_nan_right, ha, hb]
  | false =>
    cases hb : b.1.isNan with
    | true => simp [rankLess_nan_right, ha, hb]
    | false =>
      rw [rankLess_numbers down ha hb, rankLess_numbers down hb ha]
      cases hlt : Num.lt a.1 b.1 with
      | true =>
        have hgt := Num.lt_asymm ha hb hlt
        cases down <;> simp [hgt]
      | false => cases down <;> cases Num.lt b.1 a.1 <;> simp

theorem rankBefore_trans (down : Bool) {a b c : Num × Nat} (ha : 0 < a.1.den) (hb : 0 < b.1.den) (hc : 0 < c.1.den)
    (hab : rankBefore down a b = true) (hbc : rankBefore down b c = true) : rankBefore down a c = true := by
  rw [rankBefore_iff] at hab hbc ⊢
  rcases hab with hab | ⟨hba, hij⟩
  · refine (rankLess_or_of_rankLess down hc hab).imp_right fun hcb => ?_
    rcases hbc with hbc | ⟨hcb', -⟩
    · rw [rankLess_asymm down hbc] at hcb
      cases hcb
    · rw [hcb'] at hcb
      cases hcb
  · rcases hbc with hbc | ⟨hcb, hjk⟩
    · refine .inl ((rankLess_or_of_rankLess down ha hbc).resolve_left ?_)
      rw [hba]
      exact Bool.false_ne_true
    · refine .inr ⟨Bool.eq_false_iff.2 fun hca => ?_, Nat.lt_trans hij hjk⟩
      rcases rankLess_or_of_rankLess down hb hca with h | h
      · rw [hcb] at h
        cases h
      · rw [hba] at h
        cases h

theorem rankBefore_total (down : Bool) {a b : Num × Nat} (h : a.2 ≠ b.2) : rankBefore down a b = true ∨ rankBefore down b a = true := by
  rw [rankBefore_iff, rankBefore_iff]
  cases rankLess down a.1 b.1 with
  | true => exact .inl (.inl rfl)
  | false =>
    cases rankLess down b.1 a.1 with
    | true => exact .inr (.inl rfl)
    | false => exact (Nat.lt_or_gt_of_ne h).imp (fun h => .inr ⟨rfl, h⟩) (fun h => .inr ⟨rfl, h⟩)

section
variable {α : Type} (le : α → α → Bool)

theorem insertBy_perm (x : α) (l : List α) : (insertBy le x l).Perm (x :: l) := by
  induction l with
  | nil => exact .refl _
  | cons y l ih =>
    rw [insertBy]
    split
    · exact .refl _
    · exact (ih.cons y).trans (.swap x y l)

theorem sortBy_perm (l : List α) : (sortBy le l).Perm l := by
  induction l with
  | nil => exact .refl _
  | cons x l ih => exact (insertBy_perm le x _).trans (ih.cons x)

/-- An entry put into a list in order: it compares with every one of them, and the order is transitive over two of them and it. -/
theorem insertBy_pairwise_le {x : α} {l : List α} (htotal : ∀ y ∈ l, le x y = true ∨ le y x = true)
    (htrans : ∀ y ∈ l, ∀ z ∈ l, le x y = true → le y z = true → le x z = true) (h : l.Pairwise fun x y => le x y = true) :
    (insertBy le x l).Pairwise fun x y => le x y = true := by
  induction l with
  | nil => exact List.pairwise_singleton ..
  | cons y l ih =>
    obtain ⟨hy, hl⟩ := List.pairwise_cons.1 h
    obtain ⟨htotaly, htotall⟩ := List.forall_mem_cons.1 htotal
    have hmem {z : α} (hz : z ∈ l) : z ∈ y :: l := List.mem_cons_of_mem y hz
    rw [insertBy]
    split
    · rename_i hxy
      refine List.pairwise_cons.2 ⟨List.forall_mem_cons.2 ⟨hxy, fun z hz => ?_⟩, h⟩
      exact htrans y (List.mem_cons_self ..) z (hmem hz) hxy (hy z hz)
    · rename_i hxy
      have hyx : le y x = true := htotaly.resolve_left hxy
      refine List.pairwise_cons.2 ⟨fun z hz => ?_, ih htotall (fun z hz w hw => htrans z (hmem hz) w (hmem hw)) hl⟩
      rcases List.mem_cons.1 ((insertBy_perm le x l).mem_iff.1 hz) with rfl | hz
      · exact hyx
      · exact hy z hz

/-- Sorting by an order that is transitive on a list and compares any two of its entries. -/
theorem sortBy_pairwise_le {l : List α} (htotal : l.Pairwise fun x y => le x y = true ∨ le y x = true)
    (htrans : ∀ x ∈ l, ∀ y ∈ l, ∀ z ∈ l, le x y = true → le y z = true → le x z = true) :
    (sortBy le l).Pairwise fun x y => le x y = true := by
  induction l with
  | nil => exact .nil
  | cons x l ih =>
    obtain ⟨hx, hl⟩ := List.pairwise_cons.1 htotal
    have hsorted {y : α} (hy : y ∈ sortBy le l) : y ∈ l := (sortBy_perm le l).mem_iff.1 hy
    have hmem {y : α} (hy : y ∈ l) : y ∈ x :: l := List.mem_cons_of_mem x hy
    refine insertBy_pairwise_le le (fun y hy => hx y (hsorted hy)) (fun y hy z hz => ?_)
      (ih hl fun y hy z hz w hw => htrans y (hmem hy) z (hmem hz) w (hmem hw))
    exact htrans x (List.mem_cons_self ..) y (hmem (hsorted hy)) z (hmem (hsorted hz))

end

theorem rankOrder_perm (down : Bool) (xs : List Num) : (rankOrder down xs).Perm (List.range xs.length) := by
  have h : xs.zipIdx.map Prod.snd = List.range xs.length := by rw [List.zipIdx_map_snd, List.range_eq_range']
  exact h ▸ (sortBy_perm (rankBefore down) xs.zipIdx).map Prod.snd

/-- An entry of a list with its places is what lies at its place. -/
theorem eq_nth_of_mem_zipIdx {xs : List Num} {a : Num × Nat} (h : a ∈ xs.zipIdx) : a = (nth xs a.2 .zero, a.2) := by
  have hget : xs[a.2]? = some a.1 := List.mem_zipIdx_iff_getElem?.1 h
  rw [nth, List.getD_eq_getElem?_getD, hget, Option.getD_some]

theorem rankOrder_pairwise (down : Bool) {xs : List Num} (hd : ∀ x ∈ xs, 0 < x.den) :
    (rankOrder down xs).Pairwise fun i j => rankBefore down (nth xs i .zero, i) (nth xs j .zero, j) = true := by
  have hden : ∀ a ∈ xs.zipIdx, 0 < a.1.den := fun a ha => hd _ (List.fst_mem_of_mem_zipIdx ha)
  have hidx : (xs.zipIdx.map Prod.snd).Pairwise (· ≠ ·) := by
    rw [List.zipIdx_map_snd]
    exact List.nodup_range'
  have htotal : xs.zipIdx.Pairwise fun a b => rankBefore down a b = true ∨ rankBefore down b a = true :=
    (List.pairwise_map.1 hidx).imp fun h => rankBefore_total down h
  have hsorted := sortBy_pairwise_le (rankBefore down) htotal
    fun a ha b hb c hc => rankBefore_trans down (hden a ha) (hden b hb) (hden c hc)
  refine List.pairwise_map.2 (hsorted.imp_of_mem fun {a b} ha hb hab => ?_)
  rw [← eq_nth_of_mem_zipIdx ((sortBy_perm _ _).mem_iff.1 ha), ← eq_nth_of_mem_zipIdx ((sortBy_perm _ _).mem_iff.1 hb)]
  exact hab

/-! ### max and min (R136) -/

/-- A pattern of binary32 by its sign and magnitude code (R47). -/
theorem num32_cases (a : F32) : ∃ s m, a.toNat = (if s then 0x80000000 else 0) + m ∧
    (num32 a = .fin s (magValue 23 (-126) m).1 (magValue 23 (-126) m).2 ∨ m = 0x7F800000 ∧ num32 a = .inf s ∨
      (num32 a).isNan = true) := by
  have hlt := a.isLt
  refine ⟨decide (a.toNat / 0x80000000 % 2 = 1), a.toNat % 0x80000000, ?_, ?_⟩
  · simp only [decide_eq_true_eq]
    split <;> omega
  · simp only [num32, Fmt.value, Fmt.isBinary, Fmt.maxCode, reduceCtorEq, false_and, true_and, false_or]
    split
    · exact .inl rfl
    · split
      · rename_i hinf
        exact .inr (.inl ⟨hinf, rfl⟩)
      · exact .inr (.inr rfl)

/-- A finite value's signed numerator in units of the smallest subnormal value, by sign and magnitude code. -/
def signedUnits (s : Bool) (m : Nat) : Int := if s then -(codeUnits 23 m : Int) else codeUnits 23 m

theorem num_fin_magValue (s : Bool) (m : Nat) : (Num.fin s (magValue 23 (-126) m).1 (magValue 23 (-126) m).2).num * (2 ^ 149 : Nat) =
    signedUnits s m * (magValue 23 (-126) m).2 := by
  have hv : ((magValue 23 (-126) m).1 * (2 ^ 149 : Nat) : Int) = codeUnits 23 m * (magValue 23 (-126) m).2 := by
    exact_mod_cast magValue_units (mbits := 23) (u := 149) (emin := -126) rfl m
  cases s with
  | false => exact hv
  | true => exact (Int.neg_mul ..).trans ((congrArg Neg.neg hv).trans (Int.neg_mul ..).symm)

/-- Finite values of binary32 compare by their units. -/
theorem lt_fin_magValue_iff (s t : Bool) (m k : Nat) : Num.lt (.fin s (magValue 23 (-126) m).1 (magValue 23 (-126) m).2)
    (.fin t (magValue 23 (-126) k).1 (magValue 23 (-126) k).2) = true ↔ signedUnits s m < signedUnits t k := by
  have hm : (0 : Int) < (magValue 23 (-126) m).2 := Int.natCast_pos.2 (magValue_den_pos ..)
  have hk : (0 : Int) < (magValue 23 (-126) k).2 := Int.natCast_pos.2 (magValue_den_pos ..)
  have hu : (0 : Int) < (2 ^ 149 : Nat) := Int.natCast_pos.2 (Nat.two_pow_pos 149)
  rw [Num.lt_fin_iff, ← Int.mul_lt_mul_right hu, Int.mul_right_comm _ _ ((2 ^ 149 : Nat) : Int), num_fin_magValue,
    Int.mul_right_comm _ _ ((2 ^ 149 : Nat) : Int), num_fin_magValue, Int.mul_right_comm (signedUnits s m),
    Int.mul_lt_mul_right hm, Int.mul_lt_mul_right hk]

theorem isZero_fin_magValue {s : Bool} {m : Nat} (h : codeUnits 23 m = 0) :
    (Num.fin s (magValue 23 (-126) m).1 (magValue 23 (-126) m).2).isZero = true := by
  have hv := magValue_units (mbits := 23) (u := 149) (emin := -126) rfl m
  rw [h, Nat.zero_mul] at hv
  exact decide_eq_true ((Nat.mul_eq_zero.1 hv).resolve_right (Nat.ne_of_gt (Nat.two_pow_pos 149)))

/-- Two patterns of one number are the same, but for the two zeros. -/
theorem eq_of_not_lt {a b : F32} (ha : (num32 a).isNan = false) (hb : (num32 b).isNan = false)
    (hz : ((num32 a).isZero && (num32 b).isZero) = false) (hab : Num.lt (num32 a) (num32 b) = false)
    (hba : Num.lt (num32 b) (num32 a) = false) : a = b := by
  refine BitVec.eq_of_toNat_eq ?_
  obtain ⟨s, m, hma, h1 | ⟨hm, h1⟩ | h1⟩ := num32_cases a
  · obtain ⟨t, k, hkb, h2 | ⟨-, h2⟩ | h2⟩ := num32_cases b
    · rw [h1, h2] at hab hba hz
      have hle := (not_congr (lt_fin_magValue_iff s t m k)).1 (Bool.eq_false_iff.1 hab)
      have hge := (not_congr (lt_fin_magValue_iff t s k m)).1 (Bool.eq_false_iff.1 hba)
      have hne : ¬(codeUnits 23 m = 0 ∧ codeUnits 23 k = 0) := fun ⟨h0, h0'⟩ => by
        rw [isZero_fin_magValue h0, isZero_fin_magValue h0'] at hz
        cases hz
      have hsame : s = t ∧ codeUnits 23 m = codeUnits 23 k := by
        unfold signedUnits at hle hge
        cases s <;> cases t <;> simp only [if_true, if_false, Bool.false_eq_true] at hle hge
        · exact ⟨rfl, by omega⟩
        · omega
        · omega
        · exact ⟨rfl, by omega⟩
      rw [hma, hkb, hsame.1, codeUnits_inj hsame.2]
    · rw [h1, h2] at hab hba
      cases t
      · cases hab
      · cases hba
    · rw [hb] at h2
      cases h2
  · obtain ⟨t, k, hkb, h2 | ⟨hk, h2⟩ | h2⟩ := num32_cases b
    · rw [h1, h2] at hab hba
      cases s
      · cases hba
      · cases hab
    · rw [h1, h2] at hab hba
      have hst : s = t := by
        cases s <;> cases t
        · rfl
        · cases hba
        · cases hab
        · rfl
      rw [hma, hkb, hm, hk, hst]
    · rw [hb] at h2
      cases h2
  · rw [ha] at h1
    cases h1

section
variable {a b : F32}

theorem fmax_fmin_nan (h : ((num32 a).isNan || (num32 b).isNan) = true) : fmax a b = f32NaN ∧ fmin a b = f32NaN :=
  ⟨if_pos h, if_pos h⟩

variable (h : ((num32 a).isNan || (num32 b).isNan) = false)
include h

theorem fmax_fmin_zeros (hz : ((num32 a).isZero && (num32 b).isZero) = true) : fmax a b = a &&& b ∧ fmin a b = a ||| b := by
  simp only [fmax, fmin, h, hz, Bool.false_eq_true, if_false, if_true, and_self]

theorem fmax_fmin_numbers (hz : ((num32 a).isZero && (num32 b).isZero) = false) :
    fmax a b = (if Num.lt (num32 a) (num32 b) then b else a) ∧ fmin a b = if Num.lt (num32 b) (num32 a) then b else a := by
  simp only [fmax, fmin, h, hz, Bool.false_eq_true, if_false, and_self]

end

theorem fmax_fmin_comm (a b : F32) : fmax a b = fmax b a ∧ fmin a b = fmin b a := by
  cases h : (num32 a).isNan || (num32 b).isNan
  case true =>
    obtain ⟨hmax, hmin⟩ := fmax_fmin_nan h
    obtain ⟨hmax', hmin'⟩ := fmax_fmin_nan ((Bool.or_comm ..).trans h)
    exact ⟨hmax.trans hmax'.symm, hmin.trans hmin'.symm⟩
  case false =>
    have h' := (Bool.or_comm ..).trans h
    cases hz : (num32 a).isZero && (num32 b).isZero
    case true =>
      obtain ⟨hmax, hmin⟩ := fmax_fmin_zeros h hz
      obtain ⟨hmax', hmin'⟩ := fmax_fmin_zeros h' ((Bool.and_comm ..).trans hz)
      rw [hmax, hmax', hmin, hmin']
      exact ⟨BitVec.and_comm .., BitVec.or_comm ..⟩
    case false =>
      obtain ⟨hmax, hmin⟩ := fmax_fmin_numbers h hz
      obtain ⟨hmax', hmin'⟩ := fmax_fmin_numbers h' ((Bool.and_comm ..).trans hz)
      obtain ⟨ha, hb⟩ := Bool.or_eq_false_iff.1 h
      rw [hmax, hmax', hmin, hmin']
      cases hab : Num.lt (num32 a) (num32 b) with
      | true =>
        rw [Num.lt_asymm ha hb hab]
        exact ⟨rfl, rfl⟩
      | false =>
        cases hba : Num.lt (num32 b) (num32 a) with
        | true => exact ⟨rfl, rfl⟩
        | false =>
          rw [eq_of_not_lt ha hb hz hab hba]
          exact ⟨rfl, rfl⟩

/-! ### Rows of experts (R119) -/

/-- The rows that clipping gives the experts with these first offsets and ends, where the rows before end at `hi`. -/
def clippedRows (t : Nat) : Nat → List (Nat × Nat) → List (Nat × Nat)
  | _, [] => []
  | hi, o :: os => (max o.1 hi, max (max o.1 hi) (min o.2 t)) :: clippedRows t (max (max o.1 hi) (min o.2 t)) os

theorem expertRows_eq (offs : List Nat) (t : Nat) : (expertRows offs t).1 = clippedRows t 0 (offs.zip (offs.drop 1)) := by
  have hfold (os : List (Nat × Nat)) (rows : List (Nat × Nat)) (hi : Nat) (moved : List Bool) :
      (os.foldl (fun (acc : List (Nat × Nat) × Nat × List Bool) o =>
        let lo := max o.1 acc.2.1
        let hi := max lo (min o.2 t)
        (acc.1 ++ [(lo, hi)], hi, acc.2.2 ++ [decide (lo ≠ o.1)])) (rows, hi, moved)).1 = rows ++ clippedRows t hi os := by
    induction os generalizing rows hi moved with
    | nil => exact (List.append_nil rows).symm
    | cons o os ih => rw [List.foldl_cons, ih, clippedRows, List.append_assoc, List.singleton_append]
  exact hfold _ [] 0 []

theorem length_clippedRows (t hi : Nat) (os : List (Nat × Nat)) : (clippedRows t hi os).length = os.length := by
  induction os generalizing hi with
  | nil => rfl
  | cons o os ih => rw [clippedRows, List.length_cons, ih, List.length_cons]

theorem clippedRows_bounds {t hi : Nat} {os : List (Nat × Nat)} : ∀ r ∈ clippedRows t hi os, hi ≤ r.1 ∧ r.1 ≤ r.2 := by
  induction os generalizing hi with
  | nil => exact nofun
  | cons o os ih =>
    rw [clippedRows, List.forall_mem_cons]
    refine ⟨⟨Nat.le_max_right .., Nat.le_max_left ..⟩, fun r hr => ?_⟩
    obtain ⟨hlo, hle⟩ := ih r hr
    exact ⟨by omega, hle⟩

theorem clippedRows_pairwise (t hi : Nat) (os : List (Nat × Nat)) : (clippedRows t hi os).Pairwise fun a b => a.2 ≤ b.1 := by
  induction os generalizing hi with
  | nil => exact .nil
  | cons o os ih => exact List.pairwise_cons.2 ⟨fun r hr => (clippedRows_bounds r hr).1, ih _⟩

/-! ### Windows, kernel places and scans (R121, R127, R130) -/

theorem visible_window {w : Nat} (hw : 0 < w) (p j : Nat) : visible true w p j = true ↔ j ≤ p ∧ p < j + w := by
  simp only [visible, Bool.not_true, Bool.false_or, Bool.and_eq_true, Bool.or_eq_true, decide_eq_true_eq]
  omega

theorem visible_causal (p j : Nat) : visible true 0 p j = true ↔ j ≤ p := by
  simp only [visible, Bool.not_true, Bool.false_or, Bool.and_eq_true, Bool.or_eq_true, decide_eq_true_eq, true_or, and_true]

theorem visible_all (p j : Nat) : visible false 0 p j = true := rfl

theorem convIn_eq_some_iff (o k st dil pad ext i : Nat) :
    convIn o k st dil pad ext = some i ↔ i + pad = o * st + k * dil ∧ i < ext := by
  unfold convIn
  dsimp only
  generalize o * st + k * dil = p
  split
  · rw [Option.some.injEq]
    omega
  · exact iff_of_false (by simp only [reduceCtorEq, not_false_eq_true]) (by omega)

theorem convBack_eq_some_iff (i k dil pad ext o : Nat) {st : Nat} (hst : 0 < st) :
    convBack i k st dil pad ext = some o ↔ o * st + k * dil = i + pad ∧ o < ext := by
  unfold convBack
  dsimp only
  generalize k * dil = x
  generalize i + pad = y
  split
  · exact iff_of_false (by simp only [reduceCtorEq, not_false_eq_true]) (by omega)
  · split
    · rename_i hdiv
      obtain ⟨hmod, hext⟩ := hdiv
      have hy : (y - x) / st * st = y - x := Nat.div_mul_cancel (Nat.dvd_of_mod_eq_zero hmod)
      rw [Option.some.injEq]
      constructor
      · rintro rfl
        exact ⟨by omega, hext⟩
      · rintro ⟨ho, -⟩
        exact Nat.eq_of_mul_eq_mul_right hst (by omega)
    · rename_i hdiv
      refine iff_of_false (by simp only [reduceCtorEq, not_false_eq_true]) fun ⟨ho, hext⟩ => hdiv ?_
      have hy : y - x = o * st := by omega
      rw [hy, Nat.mul_mod_left, Nat.mul_div_cancel o hst]
      exact ⟨rfl, hext⟩

theorem length_scanChain (a x : Nat → F32) (n t : Nat) (h : F32) : (scanChain a x n t h).length = n := by
  induction n generalizing t h with
  | zero => rfl
  | succ n ih => rw [scanChain, List.length_cons, ih]

theorem nth_scanChain (a x : Nat → F32) {n : Nat} (t : Nat) (h : F32) {i : Nat} (hi : i < n) : nth (scanChain a x n t h) i f32Zero =
    ffma (a (t + i)) (if i = 0 then h else nth (scanChain a x n t h) (i - 1) f32Zero) (x (t + i)) := by
  induction n generalizing t h i with
  | zero => exact absurd hi (Nat.not_lt_zero i)
  | succ n ih =>
    cases i with
    | zero => rfl
    | succ i =>
      have hnext := ih (t + 1) (ffma (a t) h (x t)) (Nat.lt_of_succ_lt_succ hi)
      rw [Nat.add_right_comm, Nat.add_assoc] at hnext
      rw [if_neg (Nat.succ_ne_zero i)]
      refine hnext.trans ?_
      cases i with
      | zero => rfl
      | succ i => rfl

/-- Settles O58: sums are those of a commutative operation that the NaN tag absorbs; rounding and comparison go through the units that
codes stand for, ranking through a strict order of keys; rows, windows, kernel places and scans follow their definitions. -/
theorem sumsAndOrdersAreExact : Obligations.SumsAndOrdersAreExact := by
  unfold Obligations.SumsAndOrdersAreExact
  refine ⟨fun l k h => foldl_accAdd_perm h _, foldl_accAdd_append, fun l => foldl_accAdd_of_mem_none,
    fun i n => ⟨accShift_some i n, rfl⟩, fun b => bitsAcc_accBits, ?binary,
    fun down xs hd => ⟨rankOrder_perm down xs, rankOrder_pairwise down hd⟩, ?rows, fun w p j hw => visible_window hw p j,
    fun p j => ⟨visible_causal p j, visible_all p j⟩, convIn_eq_some_iff,
    fun i k st dil pad ext o hst => convBack_eq_some_iff i k dil pad ext o hst,
    fun a x n t h => ⟨length_scanChain a x n t h, fun i hi => nth_scanChain a x t h hi⟩, fun a b => fmax_fmin_nan, fmax_fmin_comm⟩
  case binary =>
    intro f hf b n d hd r
    obtain ⟨u, hu⟩ := exists_units_of_binary hf
    have hmod : r.1 % 2 ^ f.signBit = min (roundMag f.mbits f.emin n d) (f.maxCode + 1) := toBinary_mod_signBit hf b n d
    rw [hmod]
    refine ⟨fun m _ hin => ?_, toBinary_div_signBit hf b n d, fun hbeyond => ⟨by omega, magValue_mul_lt hu hd (by omega)⟩⟩
    rw [Nat.min_eq_left (by omega)]
    exact magValue_nearest hu hd n m
  case rows =>
    intro offs t
    rw [expertRows_eq]
    refine ⟨?_, clippedRows_pairwise t 0 _, fun r hr => (clippedRows_bounds r hr).2⟩
    rw [length_clippedRows, List.length_zip, List.length_drop, Nat.min_eq_right (Nat.sub_le ..)]

end Sys2Proof.Machine
end

section
/-! SUPPORT and the SETTLED STATEMENT of operators that wait, run and are replayed (O57): the gate of an operator's row, the accesses of
an operator and what becomes of it, and the rows that wait for more than their own device. -/
namespace Sys2Proof.Machine

/-! ### The gate of an operator's row (R353, R402) -/

section
variable {part : BitVec 4} {op : Nat} {s t : State} {f : State → State}

theorem operatorEvent_happens (hs : started s = true) (ht : tractsRun s part op = true) (hf : f s = t) :
    Host.Outcome.next (operatorEvent part op f s) = happens t := by
  simp only [operatorEvent, hs, ht, Bool.and_self, if_true, hf, happens]

theorem operatorEvent_of_stopped (ht : tractsRun s part op = false) : operatorEvent part op f s = s := by
  simp only [operatorEvent, ht, Bool.and_false, Bool.false_eq_true, if_false]

end

/-! ### The operator's completion (R168) -/

section
variable (e : Env) (s : State)

/-- Also where the partition has no such context: the step of a fresh one is none. -/
theorem Partition.step_setAt (p : Partition) (c : Nat) (f : RunningStep → RunningStep) :
    (Partition.context { p with contexts := setAt p.contexts c fun k => { k with step := k.step.map f } } c).step =
      (p.context c).step.map f := by
  unfold Partition.context
  rcases Nat.lt_or_ge c p.contexts.length with hc | hc
  · rw [nth_setAt_same _ _ hc]
  · simp [nth, setAt, List.getD_eq_getElem?_getD, hc, Context.fresh]

theorem Env.step_updStep (f : RunningStep → RunningStep) : e.step (e.updStep f s) = (e.step s).map f := by
  unfold Env.step Env.updStep updCtx
  rw [findPart_updPart _ (fun p => { p with contexts := setAt p.contexts e.ctx fun k => { k with step := k.step.map f } }) fun _ => rfl]
  rcases findPart s e.part with _ | p
  · rfl
  · exact p.step_setAt e.ctx f

theorem Env.step_congr {s t : State} (h : t.partitions = s.partitions) : e.step t = e.step s := by
  simp only [Env.step, findPart, h]

/-- A test that leaves the state as it was keeps what its other outcome keeps. -/
theorem ite_frame {c : Prop} [Decidable c] {s t : State} (h : t.partitions = s.partitions ∧ t.mem = s.mem) :
    (if c then s else t).partitions = s.partitions ∧ (if c then s else t).mem = s.mem := by
  by_cases hc : c
  · rw [if_pos hc]
    exact ⟨rfl, rfl⟩
  · rw [if_neg hc]
    exact h

theorem updLattice_frame (g : Nat) (f : LatticeCtr → LatticeCtr) :
    (updLattice g f s).partitions = s.partitions ∧ (updLattice g f s).mem = s.mem :=
  ite_frame ⟨rfl, rfl⟩

theorem Env.countGroves_frame : (e.countGroves s).partitions = s.partitions ∧ (e.countGroves s).mem = s.mem := by
  unfold Env.countGroves
  refine List.foldlRecOn (motive := fun t : State => t.partitions = s.partitions ∧ t.mem = s.mem) (e.workers s) _ ⟨rfl, rfl⟩ ?_
  intro t ⟨hp, hm⟩ g _
  obtain ⟨hp', hm'⟩ := updLattice_frame t g (LatticeCtr.bump (opCode e.raw) t.draw)
  exact ⟨hp'.trans hp, hm'.trans hm⟩

theorem Env.spendLanes_frame : (e.spendLanes s).partitions = s.partitions ∧ (e.spendLanes s).mem = s.mem := by
  unfold Env.spendLanes
  split
  · exact List.foldlRecOn (motive := fun t : State => t.partitions = s.partitions ∧ t.mem = s.mem) (e.workers s) _ ⟨rfl, rfl⟩
      fun _ ht _ _ => ht
  · exact ⟨rfl, rfl⟩

theorem Env.step_finishOp : e.step (e.finishOp s) = (e.step s).map fun r => { r with done := r.done ++ [e.op] } := by
  unfold Env.finishOp
  rw [Env.step_updStep]
  congr 1
  exact e.step_congr ((e.spendLanes_frame _).1.trans (e.countGroves_frame s).1)

theorem Env.finishOp_mem : (e.finishOp s).mem = s.mem :=
  (e.spendLanes_frame _).2.trans (e.countGroves_frame s).2

end

/-! ### An operator's accesses, and what becomes of it (R162, R168, R197, R407) -/

section
variable {code : Nat} {part : BitVec 4} {op : Nat} {err : ReadErrors} {extra : List Nat} {e : Env} {s d t u : State}
  {r r' : RunningStep} {l : Nat} {ls : List Nat}

/-- Nothing that was read is lost: the operator has its effect. -/
theorem Starts.reading (h : Starts code part op err extra e s d t u) (body : State → State) :
    happens (e.reading err extra body s) = e.ends err extra d t u (body (e.noted extra u)) := by
  obtain ⟨-, -, -, hd, ⟨r, hr, rfl⟩, hu, hstep, hreads, hpages⟩ := h
  obtain ⟨r', hr'⟩ := Option.isSome_iff_exists.mp hstep
  simp only [Env.reading, hr, hd, ← hu, Env.guarded, hr', hreads, hpages, Env.noted, Env.ends]

/-- The second copy of the descriptor had to restore it. -/
theorem Env.reading_of_restored (body : State → State) (hr : (e.step s).isSome = true) (hd : e.descriptors err s = (true, d)) :
    e.reading err extra body s = replayStep e.part e.ctx e.op [] d := by
  obtain ⟨r, hr⟩ := Option.isSome_iff_exists.mp hr
  simp only [Env.reading, hr, hd]

theorem Env.reading_of_fetched (body : State → State) (hr : e.step s = some r) (hd : e.descriptors err s = (false, d))
    (ht : t = e.readIn r err extra d) (hu : u = asReadLines err (e.changed err extra d) t) :
    e.reading err extra body s = e.stored (e.changed err extra d) t u (e.guarded extra body u) := by
  simp only [Env.reading, hr, hd, ← ht, ← hu]

/-- No lost line of a page: there is nothing to recompute. -/
theorem Env.recoverable_nil : e.recoverable s [] = true := by
  have hpages : ∀ p c, lostPages s e.part p c [] = [] := fun p c => List.filterMap_eq_nil_iff.2 fun r _ => by
    have hnone : (r.pages.zipIdx.filter fun x => (x.1.lines p c).any fun l => ([] : List Nat).contains l) = [] :=
      List.filter_eq_nil_iff.2 fun x _ => by simp
    simp only [hnone]
  unfold Env.recoverable
  rcases e.readCache s with _ | ⟨p, c⟩
  · rfl
  · simp only [hpages, List.all_nil]

/-- Every line lost is one that the step itself has written. -/
theorem Env.guarded_of_rewritable (body : State → State) (hr : e.step u = some r') (hl : linesIn u (some .lost) (e.reads u) = l :: ls)
    (h : ∀ k ∈ l :: ls, k ∈ e.rewritable u r') : e.guarded [] body u = replayStep e.part e.ctx e.op (l :: ls) u := by
  have hall : ((l :: ls).all fun k => (e.rewritable u r').contains k) = true :=
    List.all_eq_true.2 fun k hk => List.contains_iff_mem.2 (h k hk)
  have hnone : linesIn u (some .lost) [] = [] := rfl
  simp only [Env.guarded, hr, hl, hnone, hall, Env.recoverable_nil, Bool.and_self, if_true, List.isEmpty_nil]

/-- A line lost that the step has not written is kept with the step. -/
theorem Env.guarded_of_lost (body : State → State) (hr : e.step u = some r') (hl : linesIn u (some .lost) (e.reads u) = l :: ls)
    (h : ∃ k ∈ l :: ls, k ∉ e.rewritable u r') : e.guarded [] body u = e.finishOp (e.updStep
      (fun r => { r with lost := some (lineSource u l, e.op, l * 64, ls.length + 1) })
      (if offGroves (opCode e.raw) then e.loseCopies (l :: ls) body (e.noted [] u) else body (e.noted [] u))) := by
  have hall : ((l :: ls).all fun k => (e.rewritable u r').contains k) = false := by
    obtain ⟨k, hk, hno⟩ := h
    exact List.all_eq_false.2 ⟨k, hk, fun hc => hno (List.contains_iff_mem.1 hc)⟩
  have hnone : linesIn u (some .lost) [] = [] := rfl
  simp only [Env.guarded, hr, hl, hnone, hall, Bool.false_and, Bool.false_eq_true, if_false, Env.noted, List.length_cons,
    List.length_nil, Nat.add_zero]

end

/-! ### The operators that take nothing from outside the device (R114) -/

/-- Their rows with their codes and effects. -/
def localRows : List ((BitVec 4 → OpUse → Instr) × Nat × (Env → State → State)) :=
  [(.scalePass, 0x0001, opScalePass), (.quantise, 0x0002, opQuantise), (.gemm, 0x0010, opGemm), (.gemmBatched, 0x0011, opGemm),
   (.gemmGrouped, 0x0012, opGrouped), (.attnCanopy, 0x0020, opAttnCanopy), (.gather, 0x0030, opGather), (.scatter, 0x0031, opScatter),
   (.embed, 0x0032, opEmbed), (.topk, 0x0040, opTopk), (.sort, 0x0041, opSort), (.scan, 0x0042, opScan),
   (.conv1d, 0x0050, opConv true), (.conv2d, 0x0051, opConv false), (.rmsnorm, 0x0060, opRmsnorm), (.layernorm, 0x0061, opLayernorm),
   (.softmax, 0x0062, opSoftmax), (.eltwise, 0x0063, opEltwise), (.sample, 0x0070, opSample), (.optStep, 0x0090, opOptStep),
   (.lossXent, 0x0091, opLoss), (.attnCanopyBwd, 0x0120, opAttnBwd), (.conv1dBwd, 0x0150, opConvBwd true),
   (.conv2dBwd, 0x0151, opConvBwd false), (.rmsnormBwd, 0x0160, opRmsnormBwd), (.layernormBwd, 0x0161, opLayernormBwd),
   (.softmaxBwd, 0x0162, opSoftmaxBwd)]

theorem exec_localRow (part : BitVec 4) (op : BitVec 15) (err : ReadErrors) (s : State) : ∀ x ∈ localRows,
    exec (x.1 part ⟨op, err⟩) s = .next (operatorEvent part op.toNat (runOp part x.2.1 op.toNat err x.2.2) s) := by
  unfold localRows
  repeat' refine List.forall_mem_cons.2 ⟨?_, ?_⟩
  rotate_right
  · exact List.forall_mem_nil _
  all_goals dsimp only
  all_goals rfl

section
variable {code : Nat} {part : BitVec 4} {op : Nat} {err : ReadErrors} {e : Env} {s : State}

theorem runOp_of_none (body : Env → State → State) (he : opEnv s part code op = none) : runOp part code op err body s = s := by
  simp only [runOp, he]

theorem runOp_reads (body : Env → State → State) (he : opEnv s part code op = some e) :
    runOp part code op err body s = e.reading err [] (body e) s := by
  simp only [runOp, he]

/-! ### ATTN_CLEARING (R210, R211) -/

section
variable {others : List AttnPartial}

theorem runAttnClearing_of_none (he : opEnv s part 0x21 op = none) : runAttnClearing part op others err s = s := by
  simp only [runAttnClearing, he]

variable (he : opEnv s part 0x21 op = some e)
include he

/-- The other members' parts have not come, or a unit has work of its own. -/
theorem runAttnClearing_waits
    (h : clearingReady others e s = false ∨ ∃ j ∈ e.unitJobs s others, unitBusy (findUnit s j.unit) = true) :
    runAttnClearing part op others err s = s := by
  have hgate : (!clearingReady others e s || (e.unitJobs s others).any fun j => unitBusy (findUnit s j.unit)) = true := by
    rcases h with h | h
    · rw [h]; rfl
    · rw [List.any_eq_true.2 h, Bool.or_true]
  simp only [runAttnClearing, he, hgate, if_true]

variable (hready : clearingReady others e s = true) (hidle : ∀ j ∈ e.unitJobs s others, unitBusy (findUnit s j.unit) = false)
include hready hidle

theorem runAttnClearing_runs : runAttnClearing part op others err s =
    if (runJobs err (e.unitJobs s others) s).1 = false then (runJobs err (e.unitJobs s others) s).2
    else e.reading err ((clearingReads e s).filter fun a =>
        decide (lineLayer (lineOf a) < 16) || !(jobGranules s (e.unitJobs s others)).contains (granuleOfLine (lineOf a)))
      (opAttnClearing others e) (runJobs err (e.unitJobs s others) s).2 := by
  have hgate : (!clearingReady others e s || (e.unitJobs s others).any fun j => unitBusy (findUnit s j.unit)) = false := by
    rw [hready, List.any_eq_false.2 fun j hj => Bool.not_eq_true _ ▸ hidle j hj]; rfl
  simp only [runAttnClearing, he, hgate, Bool.false_eq_true, if_false, Bool.not_eq_true']

end

/-! ### Collectives (R141) -/

section
variable {views : Env → State → Option (List View)} {body : List View → Env → State → State}

theorem runColl_of_none (he : opEnv s part code op = none) : runColl part code op err views body s = s := by
  simp only [runColl, he]

/-- A contribution has not come. -/
theorem runColl_waits (he : opEnv s part code op = some e) (hv : views e s = none) : runColl part code op err views body s = s := by
  simp only [runColl, he, hv]

/-- Every contribution has come: the sum or copy is formed, and the group operation completed. -/
theorem Starts.runsColl {d t u : State} {vs : List View} (h : Starts code part op err [] e s d t u) (hv : views e s = some vs) :
    .next (operatorEvent part op (runColl part code op err views body) s) =
      e.ends err [] d t u (e.groupDone (e.bits 0x10) (body vs e (e.noted [] u))) := by
  have hrun : runColl part code op err views body s = e.reading err [] (fun s => e.groupDone (e.bits 0x10) (body vs e s)) s := by
    simp only [runColl, h.env, hv]
  rw [operatorEvent_happens h.started h.tracts hrun, h.reading]

end

/-! ### KV_SCATTER (R125, R234) -/

section
variable {peers : PeerAnswer} {p : Partition} {c : Cache} {g : Group}

theorem runKvScatter_of_none (he : opEnv s part 0x22 op = none) : runKvScatter part op peers err s = s := by
  simp only [runKvScatter, he]

variable (he : opEnv s part 0x22 op = some e) (hc : e.cache s 0x10 = some (p, c))
include he hc

theorem runKvScatter_local (hl : c.layout = 0) : runKvScatter part op peers err s =
    e.reading err [] (kvTravel e c.handle (e.f2 0x14) (kvActs e s c (e.f2 0x14)).1 (kvLocal e p c (e.f2 0x14))) s := by
  simp only [runKvScatter, he, hc, hl, if_true]

theorem runKvScatter_stopped (hl : c.layout ≠ 0) (hg : c.group.bind (findGroup s part) = some g) (h : g.epoch = 0 ∨ g.stopped = true) :
    runKvScatter part op peers err s = s := by
  simp only [runKvScatter, he, hc, hl, if_false, hg, h, if_true]

omit he hc

/-- Every member has answered, by the operand or by AGREE packets. -/
theorem answered_iff {heard : Nat → Option Bool} {others : List Nat} :
    (peers.all || others.all fun r => (heard r).isSome) = true ↔ peers.all = true ∨ ∀ r ∈ others, heard r ≠ none := by
  simp only [Bool.or_eq_true, List.all_eq_true, Option.isSome_iff_ne_none]

/-- Pages lack, or the maxima of every sequence touched are at hand. -/
theorem combined_iff {lacks : Bool} {others : List Nat} {acts : List KvAct} :
    (lacks || others.isEmpty || ((acts.map (·.seq)).eraseDups).all fun q => peers.maxima.any fun m => m.1 = q) = true ↔
      lacks = true ∨ others = [] ∨ ∀ a ∈ acts, ∃ m ∈ peers.maxima, m.1 = a.seq := by
  simp only [Bool.or_eq_true, List.isEmpty_iff, List.all_eq_true, List.mem_eraseDups, List.forall_mem_map, List.any_eq_true,
    decide_eq_true_eq, or_assoc]

end
end

/-- Settles O57: past the gate of its row an operator either waits, and then nothing is done, or makes its accesses, whose outcome the
descriptor and the lines lost decide; the rows differ only in what they wait for. -/
theorem operatorsRunWhenTheyMay : Obligations.OperatorsRunWhenTheyMay := by
  unfold Obligations.OperatorsRunWhenTheyMay
  refine ⟨?locals, ?finish, ?waits, ?clearing, ?kv, ?colls⟩
  case locals =>
    intro part op err e s d t u x hx
    rw [exec_localRow part op err s x hx]
    refine ⟨fun h => h.runs x.2.2, fun ht => by rw [operatorEvent_of_stopped ht],
      fun hs ht => ⟨fun he => ?_, fun he hr hd => ?_, ?_⟩⟩
    · exact operatorEvent_happens hs ht (runOp_of_none x.2.2 he)
    · exact operatorEvent_happens hs ht ((runOp_reads x.2.2 he).trans (Env.reading_of_restored _ hr hd))
    · intro r r' l ls he hr hd htr hu hr' hl
      have hread := (runOp_reads x.2.2 he).trans (Env.reading_of_fetched (x.2.2 e) hr hd htr hu)
      refine ⟨fun hall => ?_, fun hlost => ?_⟩
      · rw [operatorEvent_happens hs ht hread, Env.guarded_of_rewritable _ hr' hl hall]
      · rw [operatorEvent_happens hs ht hread, Env.guarded_of_lost _ hr' hl hlost]
        rfl
  case finish =>
    intro e r s hr
    exact ⟨by rw [Env.step_finishOp, hr]; rfl, e.finishOp_mem s⟩
  case waits =>
    intro part op err s others peers cs hs ht
    repeat' refine List.forall_mem_cons.2 ⟨fun he => ?_, ?_⟩
    rotate_right
    · exact List.forall_mem_nil _
    · exact operatorEvent_happens hs ht (runAttnClearing_of_none he)
    · exact operatorEvent_happens hs ht (runKvScatter_of_none he)
    all_goals exact operatorEvent_happens hs ht (runColl_of_none he)
  case clearing =>
    intro part op err e s d t u others hs ht he js r canopy
    refine ⟨fun h => operatorEvent_happens hs ht (runAttnClearing_waits he h), fun hready hidle => ?_⟩
    have hrun := runAttnClearing_runs (err := err) he hready hidle
    refine ⟨fun hr => ?_, fun hr h => ?_⟩
    · exact operatorEvent_happens hs ht (hrun.trans (if_pos hr))
    · exact (operatorEvent_happens hs ht (hrun.trans (if_neg (by rw [hr]; decide)))).trans (h.reading _)
  case kv =>
    intro part op err e s d t u peers p c hs ht he hc layer acts
    refine ⟨fun hl h => ?_, fun g hl hg => ⟨fun hstop => ?_, fun hepoch hgo => ?_⟩⟩
    · exact (operatorEvent_happens hs ht (runKvScatter_local he hc hl)).trans (h.reading _)
    · exact operatorEvent_happens hs ht (runKvScatter_stopped he hc hl hg hstop)
    · intro own v heard others lacks w answered combined
      have hgate : ¬(g.epoch = 0 ∨ g.stopped = true) := by simp [hepoch, hgo]
      have hrun : runKvScatter part op.toNat peers err s =
          if (peers.all || others.all fun r => (heard r).isSome) = true then
            if (lacks || others.isEmpty || ((acts.1.map (·.seq)).eraseDups).all fun q => peers.maxima.any fun m => m.1 = q) = true then
              e.reading err [] (kvTravel e c.handle layer acts.1 (kvSpanning e g lacks c layer peers)) w
            else w
          else v := by
        simp only [runKvScatter, he, hc, hl, if_false, hg, hgate]
        rfl
      refine ⟨fun hno => ?_, fun ha hno => ?_, fun ha hco h => ?_⟩
      · exact operatorEvent_happens hs ht (hrun.trans (if_neg (mt answered_iff.1 hno)))
      · exact operatorEvent_happens hs ht (hrun.trans ((if_pos (answered_iff.2 ha)).trans (if_neg (mt combined_iff.1 hno))))
      · have hread := hrun.trans ((if_pos (answered_iff.2 ha)).trans (if_pos (combined_iff.2 hco)))
        exact (operatorEvent_happens hs ht hread).trans (h.reading _)
  case colls =>
    intro part op err e s d t u others w own views whole ends
    refine ⟨fun vs hv => ⟨fun h => h.runsColl hv, fun h => h.runsColl hv, fun h => h.runsColl hv⟩,
      fun vs h hv => h.runsColl hv, ?root, ?missing⟩
    case root =>
      intro g h hg out
      refine ⟨fun hroot => ?_, fun c hother hfind => ?_⟩
      · exact h.runsColl (vs := [own]) (by simp only [hg, hroot, if_true]; rfl)
      · exact h.runsColl (vs := [contribView own.t own.dims c]) (by simp only [hg, hother, if_false, hfind]; rfl)
    case missing =>
      intro hs ht
      refine ⟨fun hv => ⟨fun he => ?_, fun he => ?_, fun he => ?_⟩, fun hv he => ?_, fun g hg hother hnone he => ?_⟩
      iterate 4 exact operatorEvent_happens hs ht (runColl_waits he hv)
      · have hfind : others.find? (fun c => c.rank = e.f4 0x14) = none := List.find?_eq_none.2 fun c hc => by simp [hnone c hc]
        exact operatorEvent_happens hs ht (runColl_waits he (by simp only [hg, hother, if_false, hfind]; rfl))

end Sys2Proof.Machine
end

section
/-! SUPPORT and SETTLED STATEMENTS of what follows by itself (O8, O16): nothing, where nothing waits; and the commands that a FENCE holds
back. -/
namespace Sys2Proof.Machine

/-! ### Settling where nothing waits (R162, R321, R324, R401, R403) -/

section
variable {s : State}

theorem startHead_of_unfenced (h : ∀ q ∈ s.pairs, q.fenced = []) (qp : BitVec 6) : startHead qp s = s := by
  unfold startHead
  split
  · rfl
  · rename_i q hq
    simp only [h q (findPair_mem hq)]

theorem settleOnce_of_quiet (h : Quiet s) : settleOnce s = s := by
  unfold settleOnce
  rw [settleReserve_of_current h.reserve, pump_of_quiet h.parts, beginJobs_of_quiet h.parts h.running, runDeferred_of_quiet h.parts,
    finishUnloads_of_quiet h.parts, finishDeletions_of_none fun q hq => (h.pairs q hq).2]
  exact foldl_of_fixed _ fun qp _ => startHead_of_unfenced (fun q hq => (h.pairs q hq).1) qp

theorem settle_of_quiet (h : Quiet s) : settle s = s := repeat_of_fixed (settleOnce_of_quiet h) _

end

/-- Settles O8: each stage of a round leaves the state as it is, so any number of rounds does. -/
theorem settlingAQuietBlockDoesNothing : Obligations.SettlingAQuietBlockDoesNothing := by
  unfold Obligations.SettlingAQuietBlockDoesNothing
  exact fun _ => settle_of_quiet

/-! ### A command that has passed its checks (R324) -/

section
variable {s : State} {q : QueuePair} {p c : Packet} (body : CmdBody)

theorem fetchPacket_passed (hpair : findPair s p.qp = some q) (hfetch : canFetch s q = true)
    (hc : passChecks (fetchedState p s) q p = .ok c) :
    fetchPacket body p s = settle (launchCommand q body c (fetchedState p s)) := by
  unfold fetchedState at hc ⊢
  simp only [fetchPacket, hpair, hfetch, hc, Bool.not_true, Bool.false_eq_true, if_false]

theorem launchCommand_starts (h : c.opcode = 0x0401 ∨ q.fenced = [] ∧ (waitsFence c = false ∨ q.outstanding = [])) :
    launchCommand q body c s = deliver c (body q c s) := by
  rw [launchCommand, if_pos]
  simpa using h

theorem launchCommand_waits (hop : c.opcode ≠ 0x0401) (h : q.fenced ≠ [] ∨ waitsFence c = true ∧ q.outstanding ≠ []) :
    launchCommand q body c s =
      updPair c.qp (fun q => { q with fenced := q.fenced ++ [c], outstanding := holdLast q.outstanding }) s := by
  rw [launchCommand, if_neg]
  rcases h with h | ⟨hw, ho⟩
  · simpa [h] using hop
  · simpa [hw, ho] using hop

end

theorem waitsFence_iff (p : Packet) : waitsFence p = true ↔ pktFence p = true ∧ p.opcode ≠ 0x0401 := by
  simp [waitsFence]

/-- The newest command is the one marked. -/
theorem holdLast_append_singleton (os : List Outstanding) (o : Outstanding) :
    holdLast (os ++ [o]) = os ++ [{ o with waits := true }] := by
  induction os with
  | nil => rfl
  | cons x xs ih =>
    have hskip : holdLast (x :: (xs ++ [o])) = x :: holdLast (xs ++ [o]) := by cases xs <;> rfl
    rw [List.cons_append, hskip, ih, List.cons_append]

/-! ### The oldest command held back (R324) -/

theorem QueuePair.clear_iff (q : QueuePair) : q.clear = true ↔ ∀ o os, q.outstanding = o :: os → o.waits = true := by
  unfold QueuePair.clear
  split
  · rename_i o os ho
    rw [ho]
    exact ⟨fun h _ _ he => (List.cons.inj he).1 ▸ h, fun h => h o os rfl⟩
  · rename_i ho
    simp [ho]

section
variable {s : State} {qp : BitVec 6} {q : QueuePair} {p : Packet} {rest : List Packet} (hq : findPair s qp = some q)
  (hf : q.fenced = p :: rest)
include hq hf

theorem startHead_holds (hw : waitsFence p = true) (hc : q.clear = false) : startHead qp s = s := by
  simp only [startHead, hq, hf, hw, hc, Bool.not_false, Bool.and_self, if_true]

theorem startHead_starts (h : waitsFence p = false ∨ q.clear = true) :
    startHead qp s = deliver p (commandBody p q p (updPair qp
      (fun q => { q with fenced := rest, outstanding := startFirst q.outstanding }) s)) := by
  have hgo : ¬(waitsFence p && !q.clear) = true := by
    rcases h with h | h <;> simp [h]
  simp only [startHead, hq, hf, if_neg hgo]

end

/-- Settles O16: a packet that passes its checks is launched (`launchCommand`), and a pair's oldest command held back is looked at
again in every round (`startHead`). -/
theorem fenceHoldsACommandBack : Obligations.FenceHoldsACommandBack := by
  unfold Obligations.FenceHoldsACommandBack
  refine ⟨?free, ?submission, ?held, waitsFence_iff, holdLast_append_singleton, ?oldest⟩
  case free =>
    intro body p c s q hpair hfetch hc hfenced hw
    rw [fetchPacket_passed body hpair hfetch hc, launchCommand_starts body (.inr ⟨hfenced, hw⟩)]
  case submission =>
    intro body p c s q hpair hfetch hc hop
    rw [fetchPacket_passed body hpair hfetch hc, launchCommand_starts body (.inl hop)]
  case held =>
    intro body p c s q hpair hfetch hc hop hw
    rw [fetchPacket_passed body hpair hfetch hc, launchCommand_waits body hop hw]
  case oldest =>
    intro s qp q p rest hq hf
    refine ⟨fun hw hout => startHead_holds hq hf hw ?_, fun h => startHead_starts hq hf (h.imp_right q.clear_iff.2)⟩
    obtain ⟨o, os, ho, hwaits⟩ := hout
    simp only [QueuePair.clear, ho, hwaits]

end Sys2Proof.Machine
end

section
/-! SUPPORT and the SETTLED STATEMENT of plans (O41): handles not in use, what PLAN_LOAD and PLAN_UNLOAD answer, the end of a validation
and the end of an unloading. -/
namespace Sys2Proof.Machine

/-! ### Handles (assumption 4) -/

theorem nextFree_eq (used : List U32) (k n : Nat) : ∃ m, nextFree used k n = BitVec.ofNat 32 (m % (2 ^ 32 - 1)) := by
  induction k generalizing n with
  | zero => exact ⟨n, rfl⟩
  | succ k ih =>
    rw [nextFree]
    split
    · exact ih (n + 1)
    · exact ⟨n, rfl⟩

/-- Where even the last number tried is in use, all of them are. -/
theorem used_of_nextFree_mem {used : List U32} {k n : Nat} (h : nextFree used k n ∈ used) :
    ∀ i ≤ k, BitVec.ofNat 32 ((n + i) % (2 ^ 32 - 1)) ∈ used := by
  induction k generalizing n with
  | zero =>
    intro i hi
    rw [Nat.le_zero.1 hi]
    exact h
  | succ k ih =>
    rw [nextFree] at h
    split at h
    · rename_i hn
      rintro (_ | i) hi
      · exact List.contains_iff_mem.1 hn
      · have := ih h i (Nat.le_of_succ_le_succ hi)
        rwa [Nat.add_assoc, Nat.add_comm 1 i] at this
    · rename_i hn
      exact absurd (List.contains_iff_mem.2 h) hn

theorem ofNat_mod_injOn {n i j : Nat} (hi : i < 2 ^ 32 - 1) (hj : j < 2 ^ 32 - 1)
    (h : BitVec.ofNat 32 ((n + i) % (2 ^ 32 - 1)) = BitVec.ofNat 32 ((n + j) % (2 ^ 32 - 1))) : i = j := by
  have hval := congrArg BitVec.toNat h
  simp only [BitVec.toNat_ofNat] at hval
  omega

/-- One number more is tried than handles are in use, so one of them is free. -/
theorem nextFree_not_mem {used : List U32} (h : used.length < 2 ^ 32 - 1) (n : Nat) : nextFree used used.length n ∉ used := by
  intro hmem
  have hnodup : ((List.range (used.length + 1)).map fun i => BitVec.ofNat 32 ((n + i) % (2 ^ 32 - 1))).Nodup := by
    refine List.pairwise_map.2 (List.nodup_range.imp_of_mem fun {i j} hi hj hne heq => hne ?_)
    rw [List.mem_range] at hi hj
    exact ofNat_mod_injOn (by omega) (by omega) heq
  have hsub : ((List.range (used.length + 1)).map fun i => BitVec.ofNat 32 ((n + i) % (2 ^ 32 - 1))) ⊆ used := by
    intro x hx
    obtain ⟨i, hi, rfl⟩ := List.mem_map.1 hx
    exact used_of_nextFree_mem hmem i (Nat.le_of_lt_succ (List.mem_range.1 hi))
  have hle := hnodup.length_le_of_subset hsub
  rw [List.length_map, List.length_range] at hle
  exact Nat.not_succ_le_self _ hle

theorem freshHandle_ne_none (used : List U32) (s : State) : freshHandle used s ≠ 0xFFFFFFFF := by
  obtain ⟨m, hm⟩ := nextFree_eq used used.length (Config.handleSeed s.draw)
  rw [freshHandle, hm]
  intro h
  have hval : m % (2 ^ 32 - 1) % 2 ^ 32 = 2 ^ 32 - 1 := congrArg BitVec.toNat h
  omega

/-! ### PLAN_LOAD (R156) -/

section
variable {s : State} {q : QueuePair} {p : Packet}

theorem cmdPlanLoad_misaligned (ha : par p 0 8 % 64 ≠ 0) : cmdPlanLoad q p s = fail stBadLength s := by
  simp only [cmdPlanLoad, if_pos ha]

section
variable (ha : par p 0 8 % 64 = 0)
include ha

theorem cmdPlanLoad_tooLarge (hn : 16777216 < par p 8 4) : cmdPlanLoad q p s = fail stExceeds s := by
  simp only [cmdPlanLoad, ha, ne_eq, not_true_eq_false, if_false, if_pos hn]

/-- The image decides once it has been read. -/
theorem cmdPlanLoad_read {img : List Byte} (hn : par p 8 4 ≤ 16777216) (himg : takeBuffer s q p (par p 0 8) (par p 8 4) = .ok img) :
    cmdPlanLoad q p s = if fld img 8 4 ≠ par p 8 4 then fail stExceeds s else (.accepted, { s with loading := s.loading ++
      [⟨pktOrigin p, pktPart p, BitVec.ofNat 3 (pktCtx p), pktExpert p, img⟩] }) := by
  simp only [cmdPlanLoad, ha, ne_eq, not_true_eq_false, if_false, if_neg (Nat.not_lt.2 hn), himg]

end

/-! ### PLAN_UNLOAD (R160) -/

theorem cmdPlanUnload_loaded {x : Partition} {r : Plan} (hx : findPart s (pktPart p) = some x) (hr : x.plan (par32 p 0) = some r)
    (hu : r.unloading = none) (hk : ∀ k ∈ x.caches, k.recomp ≠ some (par32 p 0)) :
    cmdPlanUnload q p s = (.waits, (List.range 8).foldl (fun s c => releaseLate (pktPart p) c (par32 p 0) s)
      (updPlan (pktPart p) (par32 p 0) (fun q => { q with unloading := some (pktOrigin p) }) s)) := by
  have hfree : ¬(r.unloading.isSome || x.caches.any fun c => c.recomp = some (par32 p 0)) = true := by
    simpa [hu] using hk
  simp only [cmdPlanUnload, hx, hr, Option.bind_some, Option.map_some, if_neg hfree]

theorem cmdPlanUnload_unknown (hno : ∀ x, findPart s (pktPart p) = some x → x.plan (par32 p 0) = none) :
    cmdPlanUnload q p s = fail stNotPermitted s := by
  have hnone : ((findPart s (pktPart p)).bind fun x => (x.plan (par32 p 0)).map fun q => (x, q)) = none :=
    Option.bind_eq_none_iff.2 fun x hx => by rw [hno x hx, Option.map_none]
  simp only [cmdPlanUnload, hnone]

end

/-! ### The end of a validation (R157, R158) -/

theorem exec_planValidationDone {s : State} (qp : BitVec 6) (tag : U32) (hs : started s = true) :
    exec (.planValidationDone qp tag) s = happens (planValidated ⟨qp, tag, false⟩ s) := next_event hs

section
variable {o : Origin} {s : State} {l : Loading} {x : Partition} {h : U32}
  (hl : s.loading.find? (fun l => l.origin = o) = some l) (hx : findPart s l.part = some x)
  (hh : h = freshHandle (s.partitions.flatMap fun p => p.plans.map (·.handle)) s)
include hl hx hh

/-- The first failure found is the command's final completion. -/
theorem planValidated_fails {f : PlanFail}
    (hv : validate ⟨x, l.expert, parsePlan l.image l.ctx h, s.fabric.groups⟩ (imageBytes s) = some f) :
    planValidated o s = finish o f.status f.detail [] { s with loading := s.loading.erase l } := by
  subst hh
  have hx' : findPart { s with loading := s.loading.erase l } l.part = some x := hx
  simp only [planValidated, hl, hx']
  split
  · rename_i hg
    cases hv.symm.trans hg
    rfl
  · rename_i hg
    cases hv.symm.trans hg

theorem planValidated_loads
    (hv : validate ⟨x, l.expert, parsePlan l.image l.ctx h, s.fabric.groups⟩ (imageBytes s) = none) :
    planValidated o s = finish o stOk 0 (toLE 4 h.toNat) (updPart l.part
      (fun p => { p with plans := p.plans ++ [parsePlan l.image l.ctx h] })
      { s with loading := s.loading.erase l, draw := s.draw + 1 }) := by
  subst hh
  have hx' : findPart { s with loading := s.loading.erase l } l.part = some x := hx
  simp only [planValidated, hl, hx']
  split
  · rename_i hg
    cases hv.symm.trans hg
  · rfl

end

/-! ### The end of an unloading (R160) -/

section
variable {s : State}

theorem finishUnloads_of_busy (h : ∀ x ∈ s.partitions, ∀ r ∈ x.plans, r.unloading = none ∨ planBusy x r.handle = true) :
    finishUnloads s = s :=
  foldl_of_fixed _ fun x hx => foldl_of_fixed _ fun r hr => by
    rcases h x hx r hr with hu | hb
    · simp only [hu]
    · split
      · rfl
      · rw [if_pos hb]

theorem finishUnloads_single {x : Partition} {r : Plan} {o : Origin} (hp : s.partitions = [x]) (hr : x.plans = [r])
    (hu : r.unloading = some o) (hb : planBusy x r.handle = false) :
    finishUnloads s = finish o stOk 0 [] { s with partitions := [{ x with plans := [] }] } := by
  have hgone : updPart x.num (fun p => { p with plans := p.plans.filter fun y => y.handle ≠ r.handle }) s =
      { s with partitions := [{ x with plans := [] }] } := by
    simp [updPart, updWhere, hp, hr]
  simp only [finishUnloads, hp, hr, List.foldl_cons, List.foldl_nil, hu, hb, Bool.false_eq_true, if_false, hgone]

end

/-- Settles O41: each clause is the lemma above about its command, its event or its helper. -/
theorem plansAreLoadedAndUnloaded : Obligations.PlansAreLoadedAndUnloaded := by
  unfold Obligations.PlansAreLoadedAndUnloaded
  refine ⟨?load, ?refused, ?validated, fun used s h => ⟨nextFree_not_mem h _, freshHandle_ne_none used s⟩, ?unload, ?unknown,
    fun s => finishUnloads_of_busy, fun s x r o => finishUnloads_single⟩
  case load =>
    intro s q p c img hf ha hn himg hlen
    refine hf.accepts (body := cmdPlanLoad) ?_
    rw [cmdPlanLoad_read ha hn himg, if_neg (not_not_intro hlen), hf.origin]
    rfl
  case refused =>
    intro s q p c hf
    refine ⟨fun ha => hf.fails (body := cmdPlanLoad) (cmdPlanLoad_misaligned ha),
      fun ha hn => hf.fails (body := cmdPlanLoad) (cmdPlanLoad_tooLarge ha hn),
      fun img ha hn himg hlen => hf.fails (body := cmdPlanLoad) ?_⟩
    rw [cmdPlanLoad_read ha hn himg, if_pos hlen]
  case validated =>
    intro s qp tag l x hs hl hx h plan t
    rw [exec_planValidationDone qp tag hs]
    exact ⟨fun f hv => congrArg happens (planValidated_fails hl hx rfl hv), fun hv => congrArg happens (planValidated_loads hl hx rfl hv)⟩
  case unload =>
    intro s q p c x r hf hx hr hu hk
    have hrun : exec (.planUnload p) s = .next (settle (deliver c (cmdPlanUnload q c (fetchedState p s)))) := hf.runs cmdPlanUnload
    rw [hrun, cmdPlanUnload_loaded (s := fetchedState p s) hx hr hu hk, deliver_waits, hf.origin]
    rfl
  case unknown =>
    intro s q p c hf hno
    exact hf.fails (body := cmdPlanUnload) (cmdPlanUnload_unknown (s := fetchedState p s) hno)

end Sys2Proof.Machine
end

section
/-! SUPPORT and the SETTLED STATEMENT of steps and contexts (O40): which context is next, how a step starts and ends, what a switch of
contexts saves and brings back, and CONTEXT_SET. -/
namespace Sys2Proof.Machine

/-! ### The events of the scheduler (R162, R163, R171, R172) -/

section
variable {s : State} (n : BitVec 4) (hs : started s = true)
include hs

theorem exec_stepStart : exec (.stepStart n) s = happens (startStep n s) := next_event hs
theorem exec_stepComplete : exec (.stepComplete n) s = happens (stepComplete n s) := next_event hs
theorem exec_sliceExpiry : exec (.sliceExpiry n) s = happens (sliceExpired n s) := next_event hs
theorem exec_sliceOverrun : exec (.sliceOverrun n) s = happens (sliceOverrun n s) := next_event hs
theorem exec_contextSwitchDone : exec (.contextSwitchDone n) s = happens (switchDone n s) := next_event hs

end

/-! ### The next context (R171) -/

/-- A fold that keeps what it has chosen or takes the entry at hand ends with what it began with or with an entry. -/
theorem foldl_chooses {α : Type} {f : Option α → α → Option α} (hf : ∀ b x, f b x = some x ∨ (b ≠ none ∧ f b x = b)) (l : List α)
    (b : Option α) : (l.foldl f b = none → b = none ∧ l = []) ∧ ∀ y, l.foldl f b = some y → b = some y ∨ y ∈ l := by
  induction l generalizing b with
  | nil => exact ⟨fun h => ⟨h, rfl⟩, fun y h => .inl h⟩
  | cons x l ih =>
    rw [List.foldl_cons]
    rcases hf b x with h | ⟨hb, h⟩
    · rw [h]
      refine ⟨fun hnone => (nomatch ((ih (some x)).1 hnone).1), fun y hy => .inr ?_⟩
      rcases (ih (some x)).2 y hy with hx | hmem
      · exact List.mem_cons.2 (.inl (Option.some.inj hx).symm)
      · exact List.mem_cons_of_mem _ hmem
    · rw [h]
      exact ⟨fun hnone => absurd ((ih b).1 hnone).1 hb, fun y hy => ((ih b).2 y hy).imp_right (List.mem_cons_of_mem _)⟩

/-- The contexts of a partition that a switch may go to. -/
def Partition.others (p : Partition) : List (Context × Nat) :=
  p.contexts.zipIdx.filter fun c => c.2 ≠ p.current.toNat && c.1.working

theorem Partition.mem_others {p : Partition} {c : Context × Nat} :
    c ∈ p.others ↔ p.contexts[c.2]? = some c.1 ∧ c.2 ≠ p.current.toNat ∧ c.1.working = true := by
  rw [Partition.others, List.mem_filter, List.mem_zipIdx_iff_getElem?]
  simp

/-- Of two contexts the one with less running time for its weight; of equal ones, the first. -/
def lessServed (b : Option (Context × Nat)) (c : Context × Nat) : Option (Context × Nat) :=
  match b with
  | none => some c
  | some y => if c.1.served * y.1.weight < y.1.served * c.1.weight then some c else some y

theorem lessServed_chooses (b : Option (Context × Nat)) (c : Context × Nat) :
    lessServed b c = some c ∨ (b ≠ none ∧ lessServed b c = b) := by
  cases b with
  | none => exact .inl rfl
  | some y =>
    unfold lessServed
    dsimp only
    split
    · exact .inl rfl
    · exact .inr ⟨nofun, rfl⟩

theorem nextContext_eq (p : Partition) : nextContext p = (p.others.foldl lessServed none).map (·.2) := rfl

theorem nextContext_chooses (p : Partition) :
    (nextContext p = none → p.others = []) ∧ ∀ k, nextContext p = some k → ∃ c ∈ p.others, c.2 = k := by
  obtain ⟨hnone, hsome⟩ := foldl_chooses lessServed_chooses p.others none
  rw [nextContext_eq]
  refine ⟨fun h => (hnone (Option.map_eq_none_iff.1 h)).2, fun k h => ?_⟩
  obtain ⟨c, hc, hk⟩ := Option.map_eq_some_iff.1 h
  exact ⟨c, (hsome c hc).resolve_left nofun, hk⟩

theorem Partition.context_of_getElem? {p : Partition} {k : Nat} {c : Context} (h : p.contexts[k]? = some c) : p.context k = c := by
  rw [Partition.context, nth, List.getD_eq_getElem?_getD, h, Option.getD_some]

theorem nextContext_works {p : Partition} {k : Nat} (h : nextContext p = some k) :
    k ≠ p.current.toNat ∧ (p.context k).working = true := by
  obtain ⟨c, hc, rfl⟩ := (nextContext_chooses p).2 k h
  obtain ⟨hget, hne, hw⟩ := Partition.mem_others.1 hc
  exact ⟨hne, Partition.context_of_getElem? hget ▸ hw⟩

theorem nextContext_none {p : Partition} (h : nextContext p = none) {k : Nat} (hk : k < p.contexts.length)
    (hne : k ≠ p.current.toNat) : (p.context k).working = false := by
  have hget : p.contexts[k]? = some p.contexts[k] := List.getElem?_eq_getElem hk
  rw [Partition.context_of_getElem? hget]
  refine Bool.eq_false_iff.2 fun hw => ?_
  have hmem : (p.contexts[k], k) ∈ p.others := Partition.mem_others.2 ⟨hget, hne, hw⟩
  rw [(nextContext_chooses p).1 h] at hmem
  exact List.not_mem_nil hmem

/-! ### Beginning a switch (R171) -/

section
variable {s : State} {n : BitVec 4} {p : Partition} (hx : findPart s n = some p)
include hx

theorem considerSwitch_stays (h : p.switching ≠ none ∨ (p.context p.current.toNat).step ≠ none ∨
    (p.expired = false ∧ (p.context p.current.toNat).released ≠ []) ∨ drooping s p = true) : considerSwitch n s = s := by
  have hstay : ¬(p.switching.isNone && (p.context p.current.toNat).step.isNone &&
      (p.expired || (p.context p.current.toNat).released.isEmpty) && !drooping s p) = true := by
    rcases h with h | h | ⟨he, hr⟩ | h
    · simp [h]
    · simp [h]
    · simp [he, hr]
    · simp [h]
  simp only [considerSwitch, hx, if_neg hstay]

theorem considerSwitch_begins {k : Nat} (hsw : p.switching = none) (hstep : (p.context p.current.toNat).step = none)
    (hnext : nextContext p = some k) (hdue : p.expired = true ∨ (p.context p.current.toNat).released = [])
    (hd : drooping s p = false) :
    considerSwitch n s = updPart n (fun p => { p with switching := some (BitVec.ofNat 3 k) }) s := by
  have hgo : (p.switching.isNone && (p.context p.current.toNat).step.isNone &&
      (p.expired || (p.context p.current.toNat).released.isEmpty) && !drooping s p) = true := by
    simpa [hsw, hstep, hd] using hdue
  simp only [considerSwitch, hx, if_pos hgo, hnext]

theorem sliceExpired_alone (hnext : nextContext p = none) : sliceExpired n s = s := by
  simp only [sliceExpired, hx, hnext]

theorem sliceExpired_others (hnext : nextContext p ≠ none) :
    sliceExpired n s = considerSwitch n (updPart n (fun p => { p with expired := true }) s) := by
  obtain ⟨k, hk⟩ := Option.ne_none_iff_exists'.1 hnext
  simp only [sliceExpired, hx, hk]

/-! ### The start of a step (R162, R168, R172) -/

theorem startStep_starts {b : Batch} {bs : List Batch} (hrun : running s = true) (hscrub : p.scrubbing = false)
    (hsw : p.switching = none) (hstr : p.stranded = false) (hreg : p.regenerating = false) (hexp : p.expired = false)
    (hstep : (p.context p.current.toNat).step = none) (hrel : (p.context p.current.toNat).released = b :: bs) :
    startStep n s = updCtx n p.current.toNat
      (fun c => { c with released := bs, step := some (RunningStep.start p p.current.toNat b) })
      (fillBindings p ((p.plan b.plan).getD Plan.none) b.steps
        (freshGroves p { s with netNoted := s.netNoted.filter fun g => !hasTract p.tracts (tractOfCore (256 * g)) })) := by
  have hstay : considerSwitch n s = s := considerSwitch_stays hx (.inr (.inr (.inl ⟨hexp, by rw [hrel]; nofun⟩)))
  simp only [startStep, hstay, hx, hstep, hrel, hrun, hscrub, hsw, hstr, hreg, Option.isNone_none, Bool.not_false, Bool.and_self,
    if_true]

theorem startStep_waits (h : p.switching ≠ none ∨ (p.context p.current.toNat).step ≠ none) : startStep n s = s := by
  have hstay : considerSwitch n s = s := considerSwitch_stays hx (h.imp_right .inl)
  simp only [startStep, hstay, hx]
  split
  · rename_i hstep _
    have hsw : p.switching.isNone = false := by simpa [hstep, Option.isSome_iff_ne_none] using h
    simp only [hsw, Bool.and_false, Bool.false_and, Bool.false_eq_true, if_false]
  · rfl

/-! ### The end of a step (R163, R407) -/

theorem stepComplete_ends {r : RunningStep} (hrun : running s = true) (hstep : (p.context p.current.toNat).step = some r)
    (hsw : p.switching = none) (hreg : p.regenerating = false) (hend : stepEnded ((p.plan r.batch.plan).getD Plan.none) r = true) :
    stepComplete n s = considerSwitch n (pump (endStep n p.current.toNat s)) := by
  simp only [stepComplete, hx, hstep, hend, hsw, hreg, hrun, Option.isNone_none, Bool.not_false, Bool.and_self, if_true]

theorem stepComplete_goes_on {r : RunningStep} (hstep : (p.context p.current.toNat).step = some r)
    (hend : stepEnded ((p.plan r.batch.plan).getD Plan.none) r = false) : stepComplete n s = s := by
  simp only [stepComplete, hx, hstep, hend, Bool.false_and, Bool.false_eq_true, if_false]

end

theorem stepEnded_iff (q : Plan) (r : RunningStep) :
    stepEnded q r = true ↔ r.lost.isSome ∨ r.noResource = true ∨ q.ops.length ≤ r.done.length := by
  simp only [stepEnded, Bool.or_eq_true, decide_eq_true_eq, or_assoc]

theorem mem_freshGroves {p : Partition} {s : State} {g : Grove} (hg : g ∈ (freshGroves p s).groves)
    (hmine : hasTract p.tracts (tractOfCore (256 * g.num)) = true) : g.store = [] ∧ ∀ c ∈ g.cores, c.accs = [] := by
  obtain ⟨x, -, rfl⟩ := List.mem_map.1 hg
  split at hmine
  · rename_i hx
    rw [if_pos hx]
    refine ⟨rfl, fun c hc => ?_⟩
    obtain ⟨d, -, rfl⟩ := List.mem_map.1 hc
    rfl
  · contradiction

/-- A fold over numbered entries that does not look at the numbers. -/
theorem foldl_zipIdx_fst {α β : Type} (f : β → α → β) (l : List α) (b : β) :
    l.zipIdx.foldl (fun b x => f b x.1) b = l.foldl f b := by
  rw [← List.foldl_map (f := Prod.fst) (g := f), List.zipIdx_map_fst]

section
variable (s s' : State) (q : Plan) (r : RunningStep)

theorem postStep_lost {src op addr k : Nat} (hl : r.lost = some (src, op, addr, k)) :
    postStep s q r s' = r.batch.steps.foldl (fun t h => finish h.origin stLostData
      (BitVec.ofNat 32 (src * 2 ^ 24 + op % 2 ^ 20)) (toLE 8 addr ++ toLE 8 k) t) s' := by
  simp only [postStep, hl, lostData]
  exact foldl_zipIdx_fst (fun t h => finish h.origin stLostData (BitVec.ofNat 32 (src * 2 ^ 24 + op % 2 ^ 20))
    (toLE 8 addr ++ toLE 8 k) t) r.batch.steps s'

section
variable (hl : r.lost = none)
include hl

theorem postStep_noResource (hn : r.noResource = true) :
    postStep s q r s' = r.batch.steps.foldl (fun t h => finish h.origin stNoResource 0 [] t) s' := by
  simp only [postStep, hl, hn, if_true]
  exact foldl_zipIdx_fst (fun t h => finish h.origin stNoResource 0 [] t) r.batch.steps s'

theorem postStep_ok (hn : r.noResource = false) : postStep s q r s' = r.batch.steps.zipIdx.foldl (fun t h => finish h.1.origin stOk
    (BitVec.ofNat 32 (r.batch.steps.length + 2 ^ 16 * h.2 + (if r.batch.late then 2 ^ 30 else 0))) (outWords s q h.2) t) s' := by
  simp only [postStep, hl, hn, Bool.false_eq_true, if_false]

end

theorem postStep_outward : Outward s' (postStep s q r s') := by
  refine Outward.foldl _ fun t h => ?_
  split
  · exact finish_outward ..
  · split <;> exact finish_outward ..

end

/-- Also where the partition has no such context: a fresh one runs nothing. -/
theorem Partition.step_cleared (p : Partition) (c : Nat) :
    (Partition.context { p with contexts := setAt p.contexts c fun k => { k with step := none } } c).step = none := by
  unfold Partition.context
  rcases Nat.lt_or_ge c p.contexts.length with hc | hc
  · rw [nth_setAt_same _ _ hc]
  · simp [nth, setAt, List.getD_eq_getElem?_getD, hc, Context.fresh]

theorem endStep_step {s : State} {n : BitVec 4} {c : Nat} {y : Partition} (hy : findPart (endStep n c s) n = some y) :
    (y.context c).step = none := by
  unfold endStep at hy
  split at hy
  · rename_i hnone
    cases hnone.symm.trans hy
  · rename_i p hp
    split at hy
    · rename_i hstep
      cases hp.symm.trans hy
      exact hstep
    · dsimp only at hy
      rw [findPart, (postStep_outward ..).partitions] at hy
      change findPart (updCtx n c (fun k => { k with step := none }) _) n = some y at hy
      unfold updCtx at hy
      rw [findPart_updPart _ (fun p => { p with contexts := setAt p.contexts c fun k => { k with step := none } }) fun _ => rfl] at hy
      obtain ⟨x, -, rfl⟩ := Option.map_eq_some_iff.1 hy
      exact x.step_cleared c

/-! ### Writes outside the addresses they name (R184) -/

theorem memGet_memSet_ne {a x : Nat} (h : a ≠ x) (b : Byte) (m : List Host.Cell) : memGet (memSet m a b) x = memGet m x := by
  induction m with
  | nil =>
    rw [memSet]
    split
    · rfl
    · exact if_neg h
  | cons c m ih =>
    obtain ⟨k, v⟩ := c
    rw [memSet]
    split
    · split
      · rfl
      · exact if_neg h
    · split
      · rename_i ha
        have htail : memGet ((k, v) :: m) x = memGet m x := if_neg (ha ▸ h)
        rw [htail]
        split
        · rfl
        · exact if_neg h
      · rw [memGet, memGet, ih]

theorem memGet_memSetAll_ne {x : Nat} {cells : List Host.Cell} (h : ∀ c ∈ cells, c.1 ≠ x) (m : List Host.Cell) :
    memGet (memSetAll m cells) x = memGet m x :=
  List.foldlRecOn (motive := fun t => memGet t x = memGet m x) cells _ rfl fun t ht c hc => by
    rw [memGet_memSet_ne (h c hc), ht]

/-- While no layer is being absorbed, whatever the form of memory. -/
theorem writeLine_mem_ne {s : State} {l x : Nat} {cells : List Host.Cell} (hn : onAbsorbed s l = false) (h : ∀ c ∈ cells, c.1 ≠ x)
    (gen : Bool) : memGet (writeLine gen s l cells).mem x = memGet s.mem x := by
  unfold writeLine
  split
  · rfl
  · rw [hn]
    exact memGet_memSetAll_ne h s.mem

theorem writeCells_mem_ne {s : State} {x : Nat} {cells : List Host.Cell} (hn : ∀ l, onAbsorbed s l = false)
    (h : ∀ c ∈ cells, c.1 ≠ x) (gen : Bool) : memGet (writeCells gen cells s).mem x = memGet s.mem x := by
  have hkept := List.foldlRecOn (motive := fun t : State => (∀ l, onAbsorbed t l = false) ∧ memGet t.mem x = memGet s.mem x)
    ((cells.map fun c => lineOf c.1).eraseDups) (fun s l => writeLine gen s l (cells.filter fun c => lineOf c.1 = l)) ⟨hn, rfl⟩
  refine (hkept fun t ⟨htn, htm⟩ l hl => ?_).2
  obtain ⟨c, hc, rfl⟩ := List.mem_map.1 (List.mem_eraseDups.1 hl)
  have hsub : ∀ d ∈ cells.filter fun c' => lineOf c'.1 = lineOf c.1, d ∈ cells := fun d hd => (List.mem_filter.1 hd).1
  have hwrote := writeLine_wrote (s := t) (gen := gen) (A := (· ∈ cells.map Prod.fst)) (List.mem_map_of_mem hc) rfl
    fun d hd => List.mem_map_of_mem (hsub d hd)
  exact ⟨hwrote.onAbsorbed htn, (writeLine_mem_ne (htn _) (fun d hd => h d (hsub d hd)) gen).trans htm⟩

/-! ### Switching out within a step (R172) -/

/-- The region of an address, whatever else of the partitions changes. -/
theorem regionAt_region (s : State) (a : Nat) :
    (regionAt s a).map Prod.snd = (s.partitions.flatMap Partition.regions).find? fun r => (r.offset a).isSome := by
  have hregions : s.partitions.flatMap Partition.regions =
      (s.partitions.flatMap fun p => p.regions.map fun r => (p, r)).map Prod.snd := by
    simp [List.map_flatMap, Function.comp_def]
  rw [hregions, List.find?_map]
  rfl

theorem regions_updCtx (n : BitVec 4) (c : Nat) (f : Context → Context) (s : State) :
    (updCtx n c f s).partitions.flatMap Partition.regions = s.partitions.flatMap Partition.regions := by
  simp only [updCtx, updPart_partitions, updWhere, List.flatMap_map]
  congr 1
  funext p
  split <;> rfl

section
variable (p : Partition) (c : Nat) (s : State)

/-- What the groves of a partition held lies with its context, and the groves hold nothing. -/
def setAside : State :=
  { updCtx p.num c (fun k => { k with saved := (ownGroves p s).map Grove.unstaged }) s with
    groves := s.groves.filter fun g => !hasTract p.tracts (tractOfCore (256 * g.num)) }

/-- Without a save area in a region nothing is written; else the save area alone is. -/
theorem saveUnderstory_cases : saveUnderstory p c s = setAside p c s ∨
    ∃ q r o, regionAt s (p.context c).save = some (q, r) ∧ r.offset (p.context c).save = some o ∧
      saveUnderstory p c s = { writeCells p.gen ((List.range (p.context c).saveSize).map fun i =>
        (r.addr (o + i), Config.freeByte s.draw i)) (setAside p c s) with draw := s.draw + 1 } := by
  unfold saveUnderstory
  dsimp only
  split
  · rename_i q r hr
    have hregion : (regionAt s (p.context c).save).map Prod.snd = some r := by
      rw [regionAt_region, ← regions_updCtx p.num c (fun k => { k with saved := (ownGroves p s).map Grove.unstaged }),
        ← regionAt_region]
      exact congrArg (Option.map Prod.snd) hr
    obtain ⟨⟨q, r⟩, hq, rfl⟩ := Option.map_eq_some_iff.1 hregion
    split
    · rename_i o ho
      exact .inr ⟨q, r, o, hq, ho, rfl⟩
    · exact .inl rfl
  · exact .inl rfl

theorem saveUnderstory_mem (hn : ∀ l, onAbsorbed s l = false) (a : Nat)
    (ha : ∀ q r o, regionAt s (p.context c).save = some (q, r) → r.offset (p.context c).save = some o →
      ∀ i, i < (p.context c).saveSize → r.addr (o + i) ≠ a) :
    memGet (saveUnderstory p c s).mem a = memGet s.mem a := by
  rcases saveUnderstory_cases p c s with h | ⟨q, r, o, hr, ho, h⟩
  · rw [h]
    rfl
  · rw [h]
    refine writeCells_mem_ne (s := setAside p c s) hn (fun x hx => ?_) p.gen
    obtain ⟨i, hi, rfl⟩ := List.mem_map.1 hx
    exact ha q r o hr ho i (List.mem_range.1 hi)

theorem saveUnderstory_groves :
    (saveUnderstory p c s).groves = s.groves.filter fun g => !hasTract p.tracts (tractOfCore (256 * g.num)) := by
  rcases saveUnderstory_cases p c s with h | ⟨q, r, o, -, -, h⟩
  · rw [h]
    rfl
  · rw [h, (writeCells_wrote ..).frame]
    rfl

theorem restoreUnderstory_none (h : (p.context c).saved = []) : restoreUnderstory p c s = s := by
  simp only [restoreUnderstory, h, List.isEmpty_nil, if_true]

theorem restoreUnderstory_groves (h : (p.context c).saved ≠ []) : (restoreUnderstory p c s).groves =
    s.groves.filter (fun g => !hasTract p.tracts (tractOfCore (256 * g.num))) ++ (p.context c).saved := by
  simp only [restoreUnderstory, List.isEmpty_eq_false_iff.2 h, Bool.false_eq_true, if_false, updCtx_groves]

end

section
variable {s : State} {n : BitVec 4} {p : Partition} (hx : findPart s n = some p)
include hx

theorem sliceOverrun_switches {k : Nat} (he : p.expired = true) (hstep : (p.context p.current.toNat).step.isSome = true)
    (hsw : p.switching = none) (hd : drooping s p = false) (hnext : nextContext p = some k) :
    sliceOverrun n s = updPart n (fun p => { p with switching := some (BitVec.ofNat 3 k) })
      (saveUnderstory p p.current.toNat s) := by
  simp only [sliceOverrun, hx, he, hstep, hsw, hd, hnext, Option.isNone_none, Bool.not_false, Bool.and_self, if_true]

theorem switchDone_switching {k : BitVec 3} (hsw : p.switching = some k) :
    switchDone n s = updCtx n k.toNat (fun c => { c with served := c.served + c.slice })
      (updPart n (fun p => { p with current := k, expired := false, switching := none }) (restoreUnderstory p k.toNat s)) := by
  simp only [switchDone, hx, hsw]

end

/-! ### CONTEXT_SET (R170, R172) -/

/-- A save area that CONTEXT_SET takes: none, or one in a root region of the partition, large enough and within the region. -/
def Partition.takesSaveArea (x : Partition) (save size : Nat) : Prop :=
  size = 0 ∨ ∃ r o, x.regions.findSome? (fun r => (r.offset save).map fun o => (r, o)) = some (r, o) ∧
    save % 64 = 0 ∧ save < 2 ^ 42 ∧ validAddr save = true ∧
    150 * 2 ^ 20 * (tractsOf x.tracts).length ≤ size ∧ r.kind = 0 ∧ o + size ≤ r.size

section
variable {s : State} {q : QueuePair} {p : Packet} {x : Partition} (hx : findPart s (pktPart p) = some x)
include hx

theorem cmdContextSet_sets (hc : par p 0 1 ≤ 7) (hw : 1 ≤ par p 1 1) (hlo : 1000 ≤ par p 4 4) (hhi : par p 4 4 ≤ 1000000)
    (hsave : x.takesSaveArea (par p 8 8) (par p 16 8)) :
    cmdContextSet q p s = ok [] (updCtx (pktPart p) (par p 0 1) (fun k => { k with
      weight := par p 1 1, slice := par p 4 4, save := par p 8 8, saveSize := par p 16 8 }) s) := by
  have hlimits : ¬(7 < par p 0 1 || par p 1 1 = 0 || par p 4 4 < 1000 || 1000000 < par p 4 4) = true := by
    simp
    omega
  simp only [cmdContextSet, hx, if_neg hlimits]
  rcases hsave with hnone | ⟨r, o, hr, halign, htop, hvalid, hneed, hkind, hfit⟩
  · rw [if_pos hnone]
  · split
    · rfl
    · have hsize : ¬(par p 8 8 % 64 ≠ 0 || par p 16 8 < saveNeed * (tractsOf x.tracts).length) = true := by
        rw [Bool.or_eq_true, decide_eq_true_eq, decide_eq_true_eq, saveNeed]
        omega
      have haddr : ¬(2 ^ 42 ≤ par p 8 8 || !validAddr (par p 8 8)) = true := by
        simpa [hvalid] using htop
      rw [if_neg hsize, if_neg haddr]
      simp only [hr, hkind, ne_eq, not_true_eq_false, if_false, if_neg (Nat.not_lt.2 hfit)]

theorem cmdContextSet_badLength (h : 7 < par p 0 1 ∨ par p 1 1 = 0 ∨ par p 4 4 < 1000 ∨ 1000000 < par p 4 4) :
    cmdContextSet q p s = fail stBadLength s := by
  have hlimits : (7 < par p 0 1 || par p 1 1 = 0 || par p 4 4 < 1000 || 1000000 < par p 4 4) = true := by
    simpa [or_assoc] using h
  simp only [cmdContextSet, hx, if_pos hlimits]

end

/-- Settles O40: each clause is the lemma above about its event, its command or its helper. -/
theorem stepsRunOneAtATime : Obligations.StepsRunOneAtATime := by
  unfold Obligations.StepsRunOneAtATime
  refine ⟨?starts, ?waits, ?ends, ?goesOn, ?posts, ?gone, ?expires, ?considers, ?next, ?overrun,
    fun s p c a hn => saveUnderstory_mem p c s hn a, ?groves, ?switched, ?sets, ?refused⟩
  case starts =>
    intro s n p b bs hs hrun hx hscrub hsw hstr hreg hexp hstep hrel
    rw [exec_stepStart n hs, startStep_starts hx hrun hscrub hsw hstr hreg hexp hstep hrel]
    exact ⟨_, _, rfl, rfl, fun g => mem_freshGroves, rfl, rfl, rfl, rfl, rfl, rfl⟩
  case waits =>
    intro s n p hs hx h
    rw [exec_stepStart n hs, startStep_waits hx h]
  case ends =>
    intro s n p r hs hrun hx hstep hsw hreg hend
    rw [exec_stepComplete n hs, stepComplete_ends hx hrun hstep hsw hreg ((stepEnded_iff _ r).2 hend)]
  case goesOn =>
    intro s n p r hs hx hstep hl hn hops
    have hend : stepEnded ((p.plan r.batch.plan).getD Plan.none) r = false := by
      simpa [stepEnded, hl, hn] using hops
    rw [exec_stepComplete n hs, stepComplete_goes_on hx hstep hend]
  case posts =>
    exact fun s s' q r => ⟨fun _ _ _ _ => postStep_lost s s' q r, postStep_noResource s s' q r, postStep_ok s s' q r⟩
  case gone => exact fun _ _ _ _ _ _ _ => endStep_step
  case expires =>
    intro s n p hs hx
    rw [exec_sliceExpiry n hs]
    exact ⟨fun h => by rw [sliceExpired_alone hx h], fun h => by rw [sliceExpired_others hx h]⟩
  case considers =>
    exact fun s n p k hx hsw hstep hnext => ⟨considerSwitch_begins hx hsw hstep hnext,
      fun hd => considerSwitch_stays hx (.inr (.inr (.inr hd)))⟩
  case next => exact fun p => ⟨fun k => nextContext_works, fun h k => nextContext_none h⟩
  case overrun =>
    intro s n p k hs hx he hstep hsw hd hnext
    rw [exec_sliceOverrun n hs, sliceOverrun_switches hx he hstep hsw hd hnext]
  case groves =>
    exact fun s p c => ⟨saveUnderstory_groves p c s, restoreUnderstory_none p c s, restoreUnderstory_groves p c s⟩
  case switched =>
    intro s n p k hs hx hsw
    rw [exec_contextSwitchDone n hs, switchDone_switching hx hsw]
  case sets =>
    intro s q p c x hf hx hc hw hlo hhi hsave
    exact hf.completes (body := cmdContextSet) (cmdContextSet_sets (s := fetchedState p s) hx hc hw hlo hhi hsave)
  case refused =>
    intro s q p c hf hx h
    obtain ⟨x, hx⟩ := Option.isSome_iff_exists.1 hx
    exact hf.fails (body := cmdContextSet) (cmdContextSet_badLength (s := fetchedState p s) hx h)

end Sys2Proof.Machine
end

section
/-! SUPPORT and SETTLED STATEMENTS of the forms of memory (O3, O4): what every row keeps, every step keeps, and the block has at
reset. -/
namespace Sys2Proof.Machine

/-- Whatever the command, its next state keeps what the block never breaks: `Kept` of each row, gathered. -/
theorem kept_exec {z s : State} (i : Instr) (hk : Kept z s) : keptOut z (exec i s) := by
  cases i with
  | coldStart b => exact kept_execColdStart b s hk
  | configurationReadiness => exact kept_execConfigurationReadiness s hk
  | configRequest reg => exact kept_execConfigRequest reg s hk
  | warmReset => exact kept_execWarmReset s hk
  | perstDeassert b => exact kept_execPerstDeassert b s hk
  | portResetBeforeReady => exact kept_execPortResetBeforeReady s hk
  | functionLevelReset => exact kept_execFunctionLevelReset s hk
  | vinOutOfRange millivolts => exact kept_execVinOutOfRange millivolts s hk
  | pwrBrakeAssert => exact kept_execPwrBrakeAssert s hk
  | pwrBrakeRelease => exact kept_execPwrBrakeRelease s hk
  | cxlLaneFailure lane => exact kept_execCxlLaneFailure lane s hk
  | i3cRead offset => exact kept_execI3cRead offset s hk
  | doorbellSqTail qp value => exact kept_execDoorbellSqTail qp value s hk
  | doorbellCqHead qp value => exact kept_execDoorbellCqHead qp value s hk
  | negotiate => exact kept_execNegotiate s hk
  | admqEnable => exact kept_execAdmqEnable s hk
  | admqDisable => exact kept_execAdmqDisable s hk
  | admqDeletionDone => exact kept_execAdmqDeletionDone s hk
  | qerrClear hi value => exact kept_execQerrClear hi value s hk
  | eventsClear value => exact kept_execEventsClear value s hk
  | eventMaskWrite value => exact kept_execEventMaskWrite value s hk
  | registerWrite offset size value => exact kept_execRegisterWrite offset size value s hk
  | recStartWrite value => exact kept_execRecStartWrite value s hk
  | recorderFillDone => exact kept_execRecorderFillDone s hk
  | coalTimeExpiry qp => exact kept_execCoalTimeExpiry qp s hk
  | acceptedTimeout qp tag => exact kept_execAcceptedTimeout qp tag s hk
  | queueCreate p => exact kept_execQueueCreate p s hk
  | queueDelete p => exact kept_execQueueDelete p s hk
  | queueStatus p => exact kept_execQueueStatus p s hk
  | configRead p => exact kept_execConfigRead p s hk
  | configApply p => exact kept_execConfigApply p s hk
  | configApplyDone => exact kept_execConfigApplyDone s hk
  | configConfirm p => exact kept_execConfigConfirm p s hk
  | configRollback p => exact kept_execConfigRollback p s hk
  | configAutoRollback => exact kept_execConfigAutoRollback s hk
  | regionAlloc p => exact kept_execRegionAlloc p s hk
  | zeroFillDone part region => exact kept_execZeroFillDone part region s hk
  | regionFree p => exact kept_execRegionFree p s hk
  | regionQuery p => exact kept_execRegionQuery p s hk
  | hdmBind p => exact kept_execHdmBind p s hk
  | hdmUnbind p => exact kept_execHdmUnbind p s hk
  | hdmStatus p => exact kept_execHdmStatus p s hk
  | stepSubmit p => exact kept_execStepSubmit p s hk
  | waitLimitExpiry part ctx plan => exact kept_execWaitLimitExpiry part ctx plan s hk
  | stepEligible qp tag => exact kept_execStepEligible qp tag s hk
  | stepStart part => exact kept_execStepStart part s hk
  | stepComplete part => exact kept_execStepComplete part s hk
  | planLoad p => exact kept_execPlanLoad p s hk
  | planValidationDone qp tag => exact kept_execPlanValidationDone qp tag s hk
  | planUnload p => exact kept_execPlanUnload p s hk
  | stepCancel p => exact kept_execStepCancel p s hk
  | batchSet p => exact kept_execBatchSet p s hk
  | contextSet p => exact kept_execContextSet p s hk
  | sliceExpiry part => exact kept_execSliceExpiry part s hk
  | sliceOverrun part => exact kept_execSliceOverrun part s hk
  | cacheOpen p => exact kept_execCacheOpen p s hk
  | cacheClose p => exact kept_execCacheClose p s hk
  | cacheSeq p => exact kept_execCacheSeq p s hk
  | cacheSeqQuery p => exact kept_execCacheSeqQuery p s hk
  | cacheMigrate p => exact kept_execCacheMigrate p s hk
  | migrationDone qp tag => exact kept_execMigrationDone qp tag s hk
  | pageSwitch part cache => exact kept_execPageSwitch part cache s hk
  | cacheStatus p => exact kept_execCacheStatus p s hk
  | clearingDivision p => exact kept_execClearingDivision p s hk
  | clearingStatus p => exact kept_execClearingStatus p s hk
  | clearingTestSet p => exact kept_execClearingTestSet p s hk
  | clearingTestRunDone failed => exact kept_execClearingTestRunDone failed s hk
  | fabricIdSet p => exact kept_execFabricIdSet p s hk
  | routeSet p => exact kept_execRouteSet p s hk
  | routeRead p => exact kept_execRouteRead p s hk
  | linkStatus p => exact kept_execLinkStatus p s hk
  | linkControl p => exact kept_execLinkControl p s hk
  | groupJoin p => exact kept_execGroupJoin p s hk
  | groupAdmin p => exact kept_execGroupAdmin p s hk
  | groupStatus p => exact kept_execGroupStatus p s hk
  | paceSet p => exact kept_execPaceSet p s hk
  | netDistanceRead p => exact kept_execNetDistanceRead p s hk
  | powerCapSet p => exact kept_execPowerCapSet p s hk
  | powerStatus p => exact kept_execPowerStatus p s hk
  | fixedFreqSet p => exact kept_execFixedFreqSet p s hk
  | energyRead p => exact kept_execEnergyRead p s hk
  | coolantSet p => exact kept_execCoolantSet p s hk
  | thermalStatus p => exact kept_execThermalStatus p s hk
  | thermalResponseSet p => exact kept_execThermalResponseSet p s hk
  | partitionCreate p => exact kept_execPartitionCreate p s hk
  | partitionRelease p => exact kept_execPartitionRelease p s hk
  | partitionStatus p => exact kept_execPartitionStatus p s hk
  | confidentialSet p => exact kept_execConfidentialSet p s hk
  | keyRotate p => exact kept_execKeyRotate p s hk
  | keyStatus p => exact kept_execKeyStatus p s hk
  | sweepRewrite part => exact kept_execSweepRewrite part s hk
  | fwStage p => exact kept_execFwStage p s hk
  | fwStageDone => exact kept_execFwStageDone s hk
  | fwActivate p => exact kept_execFwActivate p s hk
  | timeSet p => exact kept_execTimeSet p s hk
  | reserveStatus p => exact kept_execReserveStatus p s hk
  | memregRead p => exact kept_execMemregRead p s hk
  | memregWrite p => exact kept_execMemregWrite p s hk
  | repairMapRead p => exact kept_execRepairMapRead p s hk
  | layerMapRead p => exact kept_execLayerMapRead p s hk
  | healthRingSet p => exact kept_execHealthRingSet p s hk
  | healthRingStatus p => exact kept_execHealthRingStatus p s hk
  | latticeCountersRead p => exact kept_execLatticeCountersRead p s hk
  | clearingCountersRead p => exact kept_execClearingCountersRead p s hk
  | netCountersRead p => exact kept_execNetCountersRead p s hk
  | scalePass part op => exact kept_execScalePass part op s hk
  | quantise part op => exact kept_execQuantise part op s hk
  | gemm part op => exact kept_execGemm part op s hk
  | gemmBatched part op => exact kept_execGemmBatched part op s hk
  | gemmGrouped part op => exact kept_execGemmGrouped part op s hk
  | attnCanopy part op => exact kept_execAttnCanopy part op s hk
  | attnClearing part op others => exact kept_execAttnClearing part op others s hk
  | kvScatter part op peers => exact kept_execKvScatter part op peers s hk
  | gather part op => exact kept_execGather part op s hk
  | scatter part op => exact kept_execScatter part op s hk
  | embed part op => exact kept_execEmbed part op s hk
  | topk part op => exact kept_execTopk part op s hk
  | sort part op => exact kept_execSort part op s hk
  | scan part op => exact kept_execScan part op s hk
  | conv1d part op => exact kept_execConv1d part op s hk
  | conv2d part op => exact kept_execConv2d part op s hk
  | rmsnorm part op => exact kept_execRmsnorm part op s hk
  | layernorm part op => exact kept_execLayernorm part op s hk
  | softmax part op => exact kept_execSoftmax part op s hk
  | eltwise part op => exact kept_execEltwise part op s hk
  | sample part op => exact kept_execSample part op s hk
  | allReduce part op others => exact kept_execAllReduce part op others s hk
  | reduceScatter part op others => exact kept_execReduceScatter part op others s hk
  | allGather part op others => exact kept_execAllGather part op others s hk
  | allToAll part op others => exact kept_execAllToAll part op others s hk
  | broadcast part op others => exact kept_execBroadcast part op others s hk
  | optStep part op => exact kept_execOptStep part op s hk
  | lossXent part op => exact kept_execLossXent part op s hk
  | attnCanopyBwd part op => exact kept_execAttnCanopyBwd part op s hk
  | conv1dBwd part op => exact kept_execConv1dBwd part op s hk
  | conv2dBwd part op => exact kept_execConv2dBwd part op s hk
  | rmsnormBwd part op => exact kept_execRmsnormBwd part op s hk
  | layernormBwd part op => exact kept_execLayernormBwd part op s hk
  | softmaxBwd part op => exact kept_execSoftmaxBwd part op s hk
  | nearBankTask unit task => exact kept_execNearBankTask unit task s hk
  | finalMaximaArrival unit maxima => exact kept_execFinalMaximaArrival unit maxima s hk
  | processorModeEntry unit test => exact kept_execProcessorModeEntry unit test s hk
  | sliceBoundary unit w => exact kept_execSliceBoundary unit w s hk
  | repairReadDone unit r => exact kept_execRepairReadDone unit r s hk
  | pageRecompute part => exact kept_execPageRecompute part s hk
  | unitSelfTest unit passed => exact kept_execUnitSelfTest unit passed s hk
  | refreshDue core layer => exact kept_execRefreshDue core layer s hk
  | tractCooled tract => exact kept_execTractCooled tract s hk
  | phaseRetrain core => exact kept_execPhaseRetrain core s hk
  | tagWriteback core layer tagLine => exact kept_execTagWriteback core layer tagLine s hk
  | channelCommandTimeout core cmd => exact kept_execChannelCommandTimeout core cmd s hk
  | laneFailing f => exact kept_execLaneFailing f s hk
  | laneSwitchOver core lane => exact kept_execLaneSwitchOver core lane s hk
  | rehomeCopyDone core => exact kept_execRehomeCopyDone core s hk
  | scrubPassStart layer => exact kept_execScrubPassStart layer s hk
  | scrubRead r => exact kept_execScrubRead r s hk
  | bucketLeak => exact kept_execBucketLeak s hk
  | wholeLayerFault layer => exact kept_execWholeLayerFault layer s hk
  | absorptionDone => exact kept_execAbsorptionDone s hk
  | cxlMemRead hpa len e => exact kept_execCxlMemRead hpa len e s hk
  | cxlMemWrite hpa data e => exact kept_execCxlMemWrite hpa data e s hk
  | ideCheckFailure stream => exact kept_execIdeCheckFailure stream s hk
  | ideKm stream setKey => exact kept_execIdeKm stream setKey s hk
  | getMeasurements index nonce signed => exact kept_execGetMeasurements index nonce signed s hk
  | challenge slot nonce => exact kept_execChallenge slot nonce s hk
  | serviceInspection token nonce tracts => exact kept_execServiceInspection token nonce tracts s hk
  | networkPacketArrival grove p => exact kept_execNetworkPacketArrival grove p s hk
  | meshFlitResend grove dir => exact kept_execMeshFlitResend grove dir s hk
  | meshWireFailing grove dir wire => exact kept_execMeshWireFailing grove dir wire s hk
  | meshLinkDegrade grove dir stage => exact kept_execMeshLinkDegrade grove dir stage s hk
  | flitReceive link flit fecFailed => exact kept_execFlitReceive link flit fecFailed s hk
  | ackDeadline link => exact kept_execAckDeadline link s hk
  | lossOfLock link => exact kept_execLossOfLock link s hk
  | linkLaneFailure link lane => exact kept_execLinkLaneFailure link lane s hk
  | linkRetrainTimer link => exact kept_execLinkRetrainTimer link s hk
  | linkTrainingDone link peer => exact kept_execLinkTrainingDone link peer s hk
  | unroutableRetry => exact kept_execUnroutableRetry s hk
  | data p => exact kept_execData p s hk
  | segment p => exact kept_execSegment p s hk
  | token p => exact kept_execToken p s hk
  | agree p => exact kept_execAgree p s hk
  | join p => exact kept_execJoin p s hk
  | leave p => exact kept_execLeave p s hk
  | viewGatherExpiry part group => exact kept_execViewGatherExpiry part group s hk
  | prepare p => exact kept_execPrepare p s hk
  | ready p => exact kept_execReady p s hk
  | commit p => exact kept_execCommit p s hk
  | abandon p => exact kept_execAbandon p s hk
  | pace p => exact kept_execPace p s hk
  | unreachable p => exact kept_execUnreachable p s hk
  | refused p => exact kept_execRefused p s hk
  | groupWaitNote part group => exact kept_execGroupWaitNote part group s hk
  | powerPeriod p => exact kept_execPowerPeriod p s hk
  | correctionUpdate millivolts milliamps => exact kept_execCorrectionUpdate millivolts milliamps s hk
  | frequencyStep east => exact kept_execFrequencyStep east s hk
  | droopDetect plot => exact kept_execDroopDetect plot s hk
  | droopStretchEnd plot => exact kept_execDroopStretchEnd plot s hk
  | regulatorFailure die index => exact kept_execRegulatorFailure die index s hk
  | pathCheck die index measured expected => exact kept_execPathCheck die index measured expected s hk
  | tractPark tract => exact kept_execTractPark tract s hk
  | tractWake tract => exact kept_execTractWake tract s hk
  | groveUngate tract => exact kept_execGroveUngate tract s hk
  | wakeDeferralLimit tract => exact kept_execWakeDeferralLimit tract s hk
  | sensorSample readings => exact kept_execSensorSample readings s hk
  | abruptRecheck readings => exact kept_execAbruptRecheck readings s hk
  | abruptClear => exact kept_execAbruptClear s hk
  | leakageMeasure layer area current => exact kept_execLeakageMeasure layer area current s hk
  | hiddenHotCheck => exact kept_execHiddenHotCheck s hk
  | thermalComputation seconds => exact kept_execThermalComputation seconds s hk
  | kAdjust slow => exact kept_execKAdjust slow s hk
  | clampEnd => exact kept_execClampEnd s hk
  | alertRelease => exact kept_execAlertRelease s hk
  | warningNote => exact kept_execWarningNote s hk
  | coolantStale => exact kept_execCoolantStale s hk
  | recoveryActionStart part => exact kept_execRecoveryActionStart part s hk
  | dropped => exact kept_execDropped s hk
  | confidentialPublication => exact kept_execConfidentialPublication s hk
  | scrubDone part => exact kept_execScrubDone part s hk
  | unitMigrationDone unit => exact kept_execUnitMigrationDone unit s hk
  | contextSwitchDone part => exact kept_execContextSwitchDone part s hk
  | sealTableReloadDone unit => exact kept_execSealTableReloadDone unit s hk
  | ovfWindowExpiry kind => exact kept_execOvfWindowExpiry kind s hk
  | cxlLinkDown => exact kept_execCxlLinkDown s hk
  | cxlLinkRetrained => exact kept_execCxlLinkRetrained s hk
  | hdmDecoderCommit decoder base size => exact kept_execHdmDecoderCommit decoder base size s hk
  | mailboxCommand opcode payload => exact kept_execMailboxCommand opcode payload s hk
  | getCertificate slot offset len => exact kept_execGetCertificate slot offset len s hk

/-- Every step keeps it too, but for the queue, which loses its front command. -/
theorem step_kept {s t : State} (h : step s = .next t) : Kept { s with pending := s.pending.tail } t := by
  unfold step at h
  split at h
  next hp =>
    cases h
    have hs : { s with pending := s.pending.tail } = s := by rw [hp, List.tail_nil, ← hp]
    rw [hs]
    exact kept_idle s (.refl s)
  next c rest hp =>
    rw [hp, List.tail_cons]
    exact kept_exec c (.refl _) t h

/-- Settles O3: every step keeps all that `Kept` names, memory, parity and tags among it. -/
theorem stepKeepsMemoryForms : Obligations.StepKeepsMemoryForms := by
  unfold Obligations.StepKeepsMemoryForms
  refine ⟨fun s t hs h => ?_, fun s t hp h => (step_kept h).parity hp⟩
  obtain ⟨hmem, htags⟩ := hs
  exact ⟨(step_kept h).mem hmem, (step_kept h).tags htags⟩

/-- Settles O4: at reset memory, parity and tags list nothing. -/
theorem resetHasMemoryForms : Obligations.ResetHasMemoryForms := by
  unfold Obligations.ResetHasMemoryForms
  exact ⟨⟨wf_nil, .nil⟩, rfl, rfl, fun _ => rfl⟩

end Sys2Proof.Machine
end

section
/-! SUPPORT and SETTLED STATEMENTS of lines (O22, O23): what a write to a line, and the freeing of lines, leave in memory, parity and
tags. -/
namespace Sys2Proof.Machine

theorem eraseDups_of_nodup {α : Type} [DecidableEq α] {l : List α} (h : l.Nodup) : l.eraseDups = l := by
  induction l with
  | nil => rfl
  | cons x l ih =>
    obtain ⟨hx, hl⟩ := List.nodup_cons.1 h
    have hkeep : l.filter (fun b => !b == x) = l :=
      List.filter_eq_self.2 fun b hb => by simpa using fun e : b = x => hx (e ▸ hb)
    rw [List.eraseDups_cons, hkeep, ih hl]

/-! ### The state in which a write finds its line (R198) -/

/-- The stripe of line `l` is absorbed first where the line lies on the layer being absorbed. -/
def absorbedFirst (l : Nat) (s : State) : State := if onAbsorbed s l then absorbStripe l s else s

section
variable {s : State} {l : Nat}

theorem absorbedFirst_off (h : onAbsorbed s l = false) : absorbedFirst l s = s := if_neg (ne_true_of_eq_false h)

theorem absorbedFirst_on (h : onAbsorbed s l = true) : absorbedFirst l s = absorbStripe l s := if_pos h

theorem absorbedFirst_tags (l : Nat) (s : State) : (absorbedFirst l s).tags = s.tags := by
  unfold absorbedFirst
  split
  · simp only [absorbStripe, rebuildLine]
  · rfl

theorem absorbedFirst_wf (l : Nat) (h : Memory.wf s.mem = true) : Memory.wf (absorbedFirst l s).mem = true := by
  unfold absorbedFirst
  split
  · rw [absorbStripe_mem]
    exact memSetAll_wf _ h
  · exact h

/-- The line of the failing layer takes the bytes formed from its stripe; every other byte stays. -/
theorem memGet_absorbStripe (l : Nat) (h : Memory.wf s.mem = true) (a : Nat) : memGet (absorbStripe l s).mem a =
    if lineOf a = l then nth (fromParity s l) (a % 64) 0 else memGet s.mem a := by
  rw [absorbStripe_mem]
  exact memGet_memSetAll_line h (fromParity_length s l) a

/-- Once its stripe has been absorbed a line has no parity. -/
theorem hasParity_absorbStripe (h : onAbsorbed s l = true) : hasParity (absorbStripe l s) l = false := by
  unfold onAbsorbed at h
  split at h
  next => exact absurd h Bool.false_ne_true
  next f hf =>
    have hlayer : absorbedLayer (absorbStripe l s) = some f := by
      rw [← hf]
      exact absorbedLayer_congr (by simp only [absorbStripe, rebuildLine])
    have hin : (absorbStripe l s).absorbed.contains (lineCore l, lineIndex l) = true := by
      simp [absorbStripe, rebuildLine]
    simp only [hasParity, stripeParity, hlayer, hin, Bool.not_true, Bool.and_false]

/-! ### A write to a line (R184, R187, R189) -/

variable {gen : Bool} {cells : List Host.Cell}

theorem writeLine_dead (h : deadLine s l = true) : writeLine gen s l cells = s := if_pos h

section
variable (hdead : deadLine s l = false)
include hdead

theorem writeLine_mem : (writeLine gen s l cells).mem = memSetAll (absorbedFirst l s).mem cells := by
  rw [writeLine, if_neg (ne_true_of_eq_false hdead)]
  rfl

theorem writeLine_parity : (writeLine gen s l cells).parity = (putCells cells (absorbedFirst l s)).parity := by
  rw [writeLine, if_neg (ne_true_of_eq_false hdead)]
  rfl

theorem hasParity_writeLine : hasParity (writeLine gen s l cells) l = hasParity (absorbedFirst l s) l := by
  rw [writeLine, if_neg (ne_true_of_eq_false hdead)]
  rfl

theorem writeLine_frame (habs : onAbsorbed s l = false) : let t := writeLine gen s l cells
    t = { s with mem := t.mem, parity := t.parity, tags := t.tags, dirtyTags := t.dirtyTags, laneCounts := t.laneCounts } := by
  rw [writeLine, if_neg (ne_true_of_eq_false hdead), habs, if_neg Bool.false_ne_true]
  rfl

section
variable (hd : cells.Pairwise fun x y => x.1 ≠ y.1)
include hd

/-- The line's tag: a lost line stays lost unless all its 64 bytes are written. -/
theorem writeLine_tags : (writeLine gen s l cells).tags =
    tagPut s.tags ⟨l, gen, if stateOf s.tags l = some .lost ∧ cells.length < 64 then .lost else .valid⟩ := by
  have hlen : ((cells.map (·.1)).eraseDups).length = cells.length := by
    rw [eraseDups_of_nodup (List.pairwise_map.2 hd), List.length_map]
  have hlost : (decide (stateOf s.tags l = some .lost) && !decide (64 ≤ cells.length)) =
      decide (stateOf s.tags l = some .lost ∧ cells.length < 64) := by
    simp only [← decide_not, ← Bool.decide_and, Nat.not_le]
  rw [writeLine, if_neg (ne_true_of_eq_false hdead)]
  simp only [hlen, hlost, decide_eq_true_eq]
  exact congrArg (tagPut · _) (absorbedFirst_tags l s)

theorem tagOf_writeLine (ht : tagsRising s.tags) (k : Nat) : tagOf (writeLine gen s l cells).tags k = if k = l then
    some ⟨l, gen, if stateOf s.tags l = some .lost ∧ cells.length < 64 then .lost else .valid⟩ else tagOf s.tags k := by
  rw [writeLine_tags hdead hd, tagOf_tagPut ht]

theorem memGet_writeLine_mem (hw : Memory.wf s.mem = true) {x : Host.Cell} (hx : x ∈ cells) :
    memGet (writeLine gen s l cells).mem x.1 = x.2 := by
  rw [writeLine_mem hdead]
  exact memGet_memSetAll_mem (absorbedFirst_wf l hw) (List.pairwise_map.2 hd) hx

end

/-- A byte that no cell names is as the absorption of its stripe, where there is one, leaves it. -/
theorem memGet_writeLine_other (hw : Memory.wf s.mem = true) {a : Nat} (ha : ∀ x ∈ cells, x.1 ≠ a) :
    memGet (writeLine gen s l cells).mem a = memGet (absorbedFirst l s).mem a := by
  rw [writeLine_mem hdead]
  exact memGet_memSetAll_other cells (absorbedFirst_wf l hw) a ha

/-- One byte written to a stripe with parity changes its own place in parity alone (R188). -/
theorem memGet_parity_writeLine {a : Nat} (ha : lineOf a = l) (habs : onAbsorbed s l = false) (hp : hasParity s l = true)
    (hw : Memory.wf s.parity = true) (b : Byte) (x : Nat) : memGet (writeLine gen s l [(a, b)]).parity x =
      if x = parityPlace a then memGet s.parity (parityPlace a) ^^^ memGet s.mem a ^^^ b else memGet s.parity x := by
  have hpar : (putCells [(a, b)] s).parity = parityByte s.parity a (memGet s.mem a) b := by
    rw [← ha] at hp
    simp only [putCells, putBoth, List.foldl_cons, List.foldl_nil, hp, if_true]
  rw [writeLine_parity hdead, absorbedFirst_off habs, hpar, parityByte, memGet_memSet hw]

end
end

/-- Settles O22: a write puts its cells on what `absorbedFirst` leaves, and tags the line. -/
theorem writesTouchOnlyTheirBytes : Obligations.WritesTouchOnlyTheirBytes := by
  unfold Obligations.WritesTouchOnlyTheirBytes
  refine ⟨?alive, fun s gen l cells hdead => writeLine_dead hdead, ?parity⟩
  case alive =>
    rintro s gen l cells ⟨hw, ht⟩ hdead hline hd t rfl
    have htag := tagOf_writeLine (gen := gen) hdead hd ht
    refine ⟨fun x hx => memGet_writeLine_mem hdead hd hw hx, fun habs a ha => ?otherByte,
      fun habs => ⟨fun a ha => ?otherLine, fun i hi ha => ?formed, ?noParity⟩, fun h => ?valid, fun hlost hlen => ?lost,
      fun k hk => ?otherTag, writeLine_frame hdead⟩
    case otherByte => rw [memGet_writeLine_other hdead hw ha, absorbedFirst_off habs]
    case otherLine =>
      have hnot : ∀ x ∈ cells, x.1 ≠ a := fun x hx e => ha (e ▸ hline x hx)
      rw [memGet_writeLine_other hdead hw hnot, absorbedFirst_on habs, memGet_absorbStripe l hw, if_neg ha]
    case formed =>
      have hl : lineOf (64 * l + i) = l := by rw [lineOf]; omega
      have hmod : (64 * l + i) % 64 = i := by omega
      rw [memGet_writeLine_other hdead hw ha, absorbedFirst_on habs, memGet_absorbStripe l hw, if_pos hl, hmod]
    case noParity => rw [hasParity_writeLine hdead, absorbedFirst_on habs, hasParity_absorbStripe habs]
    case valid =>
      have hnot : ¬(stateOf s.tags l = some .lost ∧ cells.length < 64) := fun ⟨hlost, hlen⟩ =>
        h.elim (fun hn => hn hlost) (Nat.not_le.2 hlen)
      rw [htag, if_pos rfl, if_neg hnot]
    case lost => rw [htag, if_pos rfl, if_pos ⟨hlost, hlen⟩]
    case otherTag => rw [htag, if_neg hk]
  case parity =>
    rintro s gen a b - hw hdead habs hp t rfl
    have hpar := memGet_parity_writeLine (gen := gen) hdead rfl habs hp hw b
    exact ⟨by rw [hpar, if_pos rfl], fun x hx => by rw [hpar, if_neg hx]⟩

/-! ### Lines freed, and lines lost (R181, R184, R197) -/

theorem memGet_freeLines (p : Nat → Bool) (s : State) (a : Nat) :
    memGet (freeLines p s).mem a = if p (lineOf a) then 0 else memGet s.mem a :=
  memGet_memErase (fun a => p (lineOf a)) s.mem a

theorem tagOf_freeLines (p : Nat → Bool) (s : State) (l : Nat) :
    tagOf (freeLines p s).tags l = if p l then none else tagOf s.tags l := by
  have hfilter : tagOf (freeLines p s).tags l = s.tags.find? fun t => (!p t.line) = true ∧ decide (t.line = l) = true :=
    List.find?_filter
  rw [hfilter]
  split
  next hp =>
    refine List.find?_eq_none.2 fun t _ ht => ?_
    obtain ⟨hnp, hl⟩ := of_decide_eq_true ht
    simp [of_decide_eq_true hl, hp] at hnp
  next hp =>
    refine congrArg (s.tags.find? ·) (funext fun t => ?_)
    by_cases ht : t.line = l <;> simp [ht, hp]

theorem lineState_loseLine {s : State} (gen : Bool) (l : Nat) (h : tagsRising s.tags) :
    lineState (loseLine gen l s) l = some .lost := by
  rw [lineState]
  split
  · rfl
  · exact stateOf_tagPut_same h ⟨l, gen, .lost⟩

/-- Settles O23: the memory, tags and state that freed and lost lines have. -/
theorem freedLinesReadZero : Obligations.FreedLinesReadZero := by
  unfold Obligations.FreedLinesReadZero
  refine ⟨?freed, ?lost⟩
  case freed =>
    rintro s p t rfl
    exact ⟨memGet_freeLines p s, tagOf_freeLines p s, rfl⟩
  case lost =>
    rintro s gen l ⟨-, ht⟩
    exact ⟨lineState_loseLine gen l ht, fun _ => rfl, fun k hk => by rw [loseLine, tagOf_tagPut ht, if_neg hk]⟩

end Sys2Proof.Machine
end

section
/-! SUPPORT and the SETTLED STATEMENT of the bytes of regions (O24): device addresses and their fields, the columns of a partition, and
the places of a region's bytes. -/
namespace Sys2Proof.Machine

/-! ### Device addresses (R174) -/

theorem segLen_pos (l : Nat) : 0 < segLen l := by
  unfold segLen
  split <;> decide

theorem segLen_le (l : Nat) : segLen l ≤ 2 ^ 17 := by
  unfold segLen
  split <;> decide

section
variable {layer core off : Nat} (hc : core < 2 ^ 20) (ho : off < 2 ^ 17)
include hc ho

theorem addrLayer_mkAddr : addrLayer (mkAddr layer core off) = layer := by
  unfold addrLayer mkAddr
  omega

theorem addrCore_mkAddr : addrCore (mkAddr layer core off) = core := by
  unfold addrCore mkAddr
  omega

omit hc in
theorem addrOff_mkAddr : addrOff (mkAddr layer core off) = off := by
  unfold addrOff mkAddr
  omega

end

theorem mkAddr_fields (a : Nat) : mkAddr (addrLayer a) (addrCore a) (addrOff a) = a := by
  unfold mkAddr addrLayer addrCore addrOff
  omega

theorem addrCore_lt (a : Nat) : addrCore a < 2 ^ 20 := Nat.mod_lt _ (by decide)

theorem validAddr_iff (a : Nat) : validAddr a = true ↔ addrLayer a < 20 ∧ addrOff a < segLen (addrLayer a) := by
  simp only [validAddr, Bool.and_eq_true, decide_eq_true_eq]

/-! ### Columns of a partition (R22, R178) -/

theorem nth_eq_getElem {α : Type} {l : List α} {i : Nat} (d : α) (h : i < l.length) : nth l i d = l[i] := by
  rw [nth, List.getD_eq_getElem?_getD, List.getElem?_eq_getElem h, Option.getD_some]

theorem nth_eq_default {α : Type} {l : List α} {i : Nat} (d : α) (h : l.length ≤ i) : nth l i d = d := by
  rw [nth, List.getD_eq_getElem?_getD, List.getElem?_eq_none h, Option.getD_none]

/-- Tracts of a partition: each once, of the device's 64. -/
structure Tracts (ts : List Nat) : Prop where
  nodup : ts.Nodup
  bound : ∀ t ∈ ts, t < 64

theorem tractsOf_tracts (m : U64) : Tracts (tractsOf m) where
  nodup := List.nodup_range.filter _
  bound _ ht := List.mem_range.1 (List.mem_filter.1 ht).1

/-- The core column at place `y` of the tract `t`, as `partColumn` reckons it. -/
def tractColumn (t y : Nat) : Nat :=
  256 * (64 * (8 * (t / 8) + y % 16384 / 256 / 8) + (8 * (t % 8) + y % 16384 / 256 % 8)) + y % 256

/-- The place of a core column in its tract, as `columnIndex` reckons it. -/
def placeInTract (core : Nat) : Nat := 256 * (8 * (core / 256 / 64 % 8) + core / 256 % 64 % 8) + core % 256

theorem partColumn_eq (ts : List Nat) (y : Nat) : partColumn ts y = tractColumn (nth ts (y / 16384) 0) y := rfl

theorem columnIndex_eq_some_iff (ts : List Nat) (core y : Nat) : columnIndex ts core = some y ↔
    ∃ i, ts.findIdx? (fun t => t = tractOfCore core) = some i ∧ 16384 * i + placeInTract core = y := by
  unfold columnIndex
  dsimp only
  split
  next i hi => simp [hi, placeInTract, Nat.add_assoc]
  next hi => simp [hi]

theorem tractColumn_lt {t : Nat} (ht : t < 64) (y : Nat) : tractColumn t y < 2 ^ 20 := by
  unfold tractColumn
  omega

theorem tractOfCore_tractColumn (t y : Nat) : tractOfCore (tractColumn t y) = t := by
  unfold tractOfCore tractColumn
  omega

theorem placeInTract_tractColumn (t y : Nat) : placeInTract (tractColumn t y) = y % 16384 := by
  unfold placeInTract tractColumn
  omega

theorem placeInTract_lt (core : Nat) : placeInTract core < 16384 := by
  unfold placeInTract
  omega

theorem tractColumn_placeInTract {core : Nat} (hc : core < 2 ^ 20) (i : Nat) :
    tractColumn (tractOfCore core) (16384 * i + placeInTract core) = core := by
  unfold tractColumn tractOfCore placeInTract
  omega

section
variable {ts : List Nat} (hts : Tracts ts)
include hts

theorem nth_tract_lt (i : Nat) : nth ts i 0 < 64 := by
  by_cases hi : i < ts.length
  · rw [nth_eq_getElem _ hi]
    exact hts.bound _ (List.getElem_mem hi)
  · rw [nth_eq_default _ (Nat.not_lt.1 hi)]
    decide

theorem partColumn_lt (y : Nat) : partColumn ts y < 2 ^ 20 := tractColumn_lt (nth_tract_lt hts _) y

/-- The partition finds each of its columns again. -/
theorem columnIndex_partColumn {y : Nat} (hy : y < 16384 * ts.length) : columnIndex ts (partColumn ts y) = some y := by
  have hi : y / 16384 < ts.length := Nat.div_lt_of_lt_mul hy
  have hnth : nth ts (y / 16384) 0 = ts[y / 16384] := nth_eq_getElem _ hi
  rw [columnIndex_eq_some_iff]
  refine ⟨y / 16384, ?_, ?_⟩
  · rw [partColumn_eq, tractOfCore_tractColumn, hnth, List.findIdx?_eq_some_iff_getElem]
    refine ⟨hi, decide_eq_true rfl, fun j hj => ?_⟩
    have hne : ts[j] ≠ ts[y / 16384] := List.pairwise_iff_getElem.1 hts.nodup j _ (Nat.lt_trans hj hi) hi hj
    simpa using hne
  · rw [partColumn_eq, placeInTract_tractColumn]
    exact Nat.div_add_mod y 16384

end

/-- A column with a place in the partition is the column at that place. -/
theorem partColumn_of_columnIndex {ts : List Nat} {core y : Nat} (hc : core < 2 ^ 20) (h : columnIndex ts core = some y) :
    partColumn ts y = core := by
  obtain ⟨i, hfind, rfl⟩ := (columnIndex_eq_some_iff ts core y).1 h
  obtain ⟨hi, ht, -⟩ := List.findIdx?_eq_some_iff_getElem.1 hfind
  have hdiv : (16384 * i + placeInTract core) / 16384 = i := by
    have := placeInTract_lt core
    omega
  rw [partColumn_eq, hdiv, nth_eq_getElem _ hi, of_decide_eq_true ht]
  exact tractColumn_placeInTract hc i

/-! ### Bytes of a region (R180) -/

/-- Bytes of `n` layers from `l` on, `cc` columns of each. -/
def layersSize (cc l n : Nat) : Nat := ((List.range n).map fun i => cc * segLen (l + i)).sum

theorem Region.size_eq (r : Region) : r.size = layersSize r.ccount r.lfirst r.lcount := rfl

theorem layersSize_zero (cc l : Nat) : layersSize cc l 0 = 0 := rfl

/-- The first layer, and those above it. -/
theorem layersSize_succ (cc l n : Nat) : layersSize cc l (n + 1) = cc * segLen l + layersSize cc (l + 1) n := by
  simp only [layersSize, List.range_succ_eq_map, List.map_cons, List.map_map, List.sum_cons, Function.comp_def, Nat.add_zero,
    Nat.succ_eq_add_one, Nat.add_right_comm, Nat.add_assoc]

/-- Place of byte `o` of column `y` in layer `k` of `cc` columns from layer `l` on. -/
def bytePlace (cc l k y o : Nat) : Nat := layersSize cc l k + y * segLen (l + k) + o

theorem bytePlace_zero (cc l y o : Nat) : bytePlace cc l 0 y o = y * segLen l + o := by
  simp only [bytePlace, layersSize_zero, Nat.add_zero, Nat.zero_add]

theorem bytePlace_succ (cc l k y o : Nat) : bytePlace cc l (k + 1) y o = cc * segLen l + bytePlace cc (l + 1) k y o := by
  simp only [bytePlace, layersSize_succ, Nat.add_assoc, Nat.add_comm 1]

/-- A column's bytes lie within its layer. -/
theorem column_lt {cc y o w : Nat} (hy : y < cc) (ho : o < w) : y * w + o < cc * w := calc
  y * w + o < y * w + w := Nat.add_lt_add_left ho _
  _ = (y + 1) * w := (Nat.succ_mul y w).symm
  _ ≤ cc * w := Nat.mul_le_mul_right w hy

section
variable {cc l : Nat}

/-- The device address at a place: the byte of the column of the layer. -/
theorem regionAddrFrom_bytePlace (ts : List Nat) (cf : Nat) {n k y o : Nat} (hk : k < n) (hy : y < cc) (ho : o < segLen (l + k)) :
    bytePlace cc l k y o < layersSize cc l n ∧
      regionAddrFrom ts cf cc n l (bytePlace cc l k y o) = mkAddr (l + k) (partColumn ts (cf + y)) o := by
  induction n generalizing k l with
  | zero => exact absurd hk (Nat.not_lt_zero k)
  | succ n ih =>
    rw [layersSize_succ]
    cases k with
    | zero =>
      rw [Nat.add_zero] at ho
      have hin : y * segLen l + o < cc * segLen l := column_lt hy ho
      have hdiv : (y * segLen l + o) / segLen l = y := by
        rw [Nat.mul_comm, Nat.mul_add_div (segLen_pos l), Nat.div_eq_of_lt ho, Nat.add_zero]
      have hmod : (y * segLen l + o) % segLen l = o := by rw [Nat.mul_comm, Nat.mul_add_mod, Nat.mod_eq_of_lt ho]
      rw [bytePlace_zero, regionAddrFrom, if_pos hin, hdiv, hmod]
      exact ⟨Nat.lt_of_lt_of_le hin (Nat.le_add_right _ _), rfl⟩
    | succ k =>
      have hl : l + (k + 1) = l + 1 + k := by omega
      rw [hl] at ho ⊢
      obtain ⟨hlt, haddr⟩ := ih (Nat.lt_of_succ_lt_succ hk) ho
      rw [bytePlace_succ, regionAddrFrom, if_neg (Nat.not_lt.2 (Nat.le_add_right _ _)), Nat.add_sub_cancel_left]
      exact ⟨Nat.add_lt_add_left hlt _, haddr⟩

/-- Every byte has its place. -/
theorem exists_bytePlace {n x : Nat} (hx : x < layersSize cc l n) :
    ∃ k y o, k < n ∧ y < cc ∧ o < segLen (l + k) ∧ x = bytePlace cc l k y o := by
  induction n generalizing l x with
  | zero => exact absurd hx (Nat.not_lt_zero x)
  | succ n ih =>
    rw [layersSize_succ] at hx
    by_cases hin : x < cc * segLen l
    · refine ⟨0, x / segLen l, x % segLen l, Nat.succ_pos n, ?_, Nat.mod_lt _ (segLen_pos l), ?_⟩
      · exact Nat.div_lt_of_lt_mul (Nat.mul_comm cc _ ▸ hin)
      · rw [bytePlace_zero]
        exact (Nat.div_add_mod' x _).symm
    · obtain ⟨k, y, o, hk, hy, ho, hplace⟩ := ih (l := l + 1) (x := x - cc * segLen l) (by omega)
      have hl : l + 1 + k = l + (k + 1) := by omega
      refine ⟨k + 1, y, o, Nat.succ_lt_succ hk, hy, hl ▸ ho, ?_⟩
      rw [bytePlace_succ, ← hplace]
      omega

end

/-- The place of an address: that of its byte, where its layer and its column are the region's. -/
theorem Region.offset_eq_some_iff (r : Region) (a x : Nat) : r.offset a = some x ↔ validAddr a = true ∧
    ∃ k y, k < r.lcount ∧ y < r.ccount ∧ addrLayer a = r.lfirst + k ∧
      columnIndex (tractsOf r.tracts) (addrCore a) = some (r.cfirst + y) ∧ bytePlace r.ccount r.lfirst k y (addrOff a) = x := by
  have hlayer : (!validAddr a || decide (addrLayer a < r.lfirst) || decide (r.lfirst + r.lcount ≤ addrLayer a)) = true ↔
      ¬(validAddr a = true ∧ r.lfirst ≤ addrLayer a ∧ addrLayer a < r.lfirst + r.lcount) := by
    rw [Bool.or_eq_true, Bool.or_eq_true, Bool.not_eq_true', decide_eq_true_eq, decide_eq_true_eq]
    cases validAddr a <;> simp
    omega
  constructor
  · intro h
    unfold Region.offset at h
    dsimp only at h
    split at h
    · cases h
    next hin =>
      obtain ⟨hv, hlo, hhi⟩ := Decidable.not_not.1 fun hn => hin (hlayer.2 hn)
      split at h
      next y hcol =>
        split at h
        next hy =>
          have hk : addrLayer a = r.lfirst + (addrLayer a - r.lfirst) := by omega
          have hcf : r.cfirst + (y - r.cfirst) = y := by omega
          refine ⟨hv, addrLayer a - r.lfirst, y - r.cfirst, by omega, by omega, hk, by rw [hcf, hcol], ?_⟩
          rw [bytePlace, ← hk]
          exact Option.some.inj h
        · cases h
      · cases h
  · rintro ⟨hv, k, y, hk, hy, hl, hcol, rfl⟩
    have hin := mt hlayer.1 (not_not_intro ⟨hv, by omega, by omega⟩)
    unfold Region.offset
    dsimp only
    rw [if_neg hin, hcol]
    dsimp only
    rw [if_pos ⟨Nat.le_add_right _ _, Nat.add_lt_add_left hy _⟩, hl, Nat.add_sub_cancel_left, Nat.add_sub_cancel_left]
    rfl

/-- Settles O24: a byte's place and its address determine each other, layer by layer and column by column. -/
theorem regionBytesHaveOneAddress : Obligations.RegionBytesHaveOneAddress := by
  unfold Obligations.RegionBytesHaveOneAddress
  intro r hlayers _ hcols
  have hts := tractsOf_tracts r.tracts
  refine ⟨fun x hx => ?forth, fun a x _ h => ?back⟩
  case forth =>
    obtain ⟨k, y, o, hk, hy, ho, rfl⟩ := exists_bytePlace hx
    have haddr : r.addr (bytePlace r.ccount r.lfirst k y o) =
        mkAddr (r.lfirst + k) (partColumn (tractsOf r.tracts) (r.cfirst + y)) o := (regionAddrFrom_bytePlace _ _ hk hy ho).2
    have hc := partColumn_lt hts (r.cfirst + y)
    have ho' : o < 2 ^ 17 := Nat.lt_of_lt_of_le ho (segLen_le _)
    have hl := addrLayer_mkAddr (layer := r.lfirst + k) hc ho'
    have hoff := addrOff_mkAddr (layer := r.lfirst + k) (core := partColumn (tractsOf r.tracts) (r.cfirst + y)) ho'
    have hv : validAddr (r.addr (bytePlace r.ccount r.lfirst k y o)) = true := by
      rw [haddr, validAddr_iff, hl, hoff]
      exact ⟨by omega, ho⟩
    refine ⟨(r.offset_eq_some_iff _ _).2 ⟨hv, k, y, hk, hy, ?_, ?_, ?_⟩, hv, ?_, ?_⟩
    · rw [haddr, hl]
    · rw [haddr, addrCore_mkAddr hc ho', columnIndex_partColumn hts (by omega)]
    · rw [haddr, hoff]
    · rw [haddr, hl]
      exact Nat.le_add_right _ _
    · rw [haddr, hl]
      exact Nat.add_lt_add_left hk _
  case back =>
    obtain ⟨hv, k, y, hk, hy, hl, hcol, rfl⟩ := (r.offset_eq_some_iff a x).1 h
    have ho : addrOff a < segLen (r.lfirst + k) := hl ▸ ((validAddr_iff a).1 hv).2
    obtain ⟨hlt, haddr⟩ := regionAddrFrom_bytePlace (tractsOf r.tracts) r.cfirst hk hy ho
    refine ⟨hlt, haddr.trans ?_⟩
    rw [partColumn_of_columnIndex (addrCore_lt a) hcol, ← hl, mkAddr_fields]

end Sys2Proof.Machine
end

section
/-! SUPPORT and the SETTLED STATEMENT of the commands on regions (O26): what REGION_ALLOC, the end of its zero fill, REGION_FREE and
REGION_QUERY answer. -/
namespace Sys2Proof.Machine

/-! ### The limits of REGION_ALLOC (R179) -/

/-- The limits of REGION_ALLOC's table for a partition of `cols` columns. -/
structure AllocLimits (p : Packet) (cols : Nat) : Prop where
  kind : par p 0 1 ≤ 2
  root : par p 0 1 = 0 → par p 2 1 + par p 3 1 ≤ 16
  clearing : par p 0 1 ≠ 0 → 16 ≤ par p 2 1 ∧ par p 2 1 + par p 3 1 ≤ 20
  layers : 1 ≤ par p 3 1
  columns : 1 ≤ par p 8 4
  within : par p 4 4 + par p 8 4 ≤ cols
  units : par p 0 1 = 2 → par p 4 4 % 16 = 0 ∧ par p 8 4 % 16 = 0 ∧ par p 1 1 / 2 % 2 = 0

/-- The layers asked for are of the kind asked for, as the command tests it. -/
def allocLayers (p : Packet) : Bool :=
  if par p 0 1 = 0 then decide (par p 2 1 ≤ 15) && decide (par p 2 1 + par p 3 1 ≤ 16)
  else decide (16 ≤ par p 2 1) && decide (par p 2 1 ≤ 19) && decide (par p 2 1 + par p 3 1 ≤ 20)

/-- The command's test of its parameters. -/
def allocRefused (p : Packet) (cols : Nat) : Bool :=
  2 < par p 0 1 || (decide (par p 1 1 / 2 % 2 = 1) && par p 0 1 = 2) || !allocLayers p || par p 3 1 = 0 || cols ≤ par p 4 4 ||
    par p 8 4 = 0 || cols < par p 4 4 + par p 8 4 || !(par p 0 1 ≠ 2 || (par p 4 4 % 16 = 0 && par p 8 4 % 16 = 0))

theorem allocLayers_iff (p : Packet) : allocLayers p = true ↔ (par p 0 1 = 0 → par p 2 1 ≤ 15 ∧ par p 2 1 + par p 3 1 ≤ 16) ∧
    (par p 0 1 ≠ 0 → 16 ≤ par p 2 1 ∧ par p 2 1 ≤ 19 ∧ par p 2 1 + par p 3 1 ≤ 20) := by
  unfold allocLayers
  split <;> simp [*, and_assoc]

theorem allocRefused_eq_false_iff (p : Packet) (cols : Nat) : allocRefused p cols = false ↔ AllocLimits p cols := by
  simp only [allocRefused, Bool.or_eq_false_iff, Bool.and_eq_false_iff, decide_eq_false_iff_not, Bool.not_eq_false', allocLayers_iff,
    Bool.or_eq_true, Bool.and_eq_true, decide_eq_true_eq]
  constructor
  · intro h
    constructor <;> omega
  · rintro ⟨hkind, hroot, hclearing, hlayers, hcolumns, hwithin, hunits⟩
    omega

theorem allocRefused_iff (p : Packet) (cols : Nat) : allocRefused p cols = true ↔ ¬AllocLimits p cols := by
  rw [← allocRefused_eq_false_iff, Bool.not_eq_false]

section
variable {q : QueuePair} {p : Packet} {s : State} {x : Partition}

/-! ### REGION_ALLOC and the end of its fill (R179, R184) -/

/-- The region that REGION_ALLOC asks for. -/
def allocRegion (p : Packet) (s : State) (x : Partition) : Region :=
  { handle := freshHandle (s.partitions.flatMap fun p => p.regions.map (·.handle)) s, kind := par p 0 1
    host := decide (par p 1 1 / 2 % 2 = 1), zero := decide (par p 1 1 % 2 = 1), lfirst := par p 2 1, lcount := par p 3 1
    cfirst := par p 4 4, ccount := par p 8 4, tracts := x.tracts
    filling := if par p 1 1 % 2 = 1 then some (pktOrigin p) else none }

/-- The state once the region's lines are free and the partition has it. -/
def allocated (x : Partition) (r : Region) (s : State) : State :=
  updPart x.num (fun x => { x with regions := x.regions ++ [r] }) (freeLines r.holds { s with draw := s.draw + 1 })

/-- No region can be had: the segments are shared or withdrawn, or the partition has 1,024 regions. -/
def noRegion (s : State) (x : Partition) (r : Region) : Bool :=
  1024 ≤ x.regions.length || x.regions.any (regionsMeet r) || includesWithdrawn s r

theorem cmdRegionAlloc_found (hx : findPart s (pktPart p) = some x) : cmdRegionAlloc q p s =
    if allocRefused p (16384 * (tractsOf x.tracts).length) then fail stBadLength s
    else if noRegion s x (allocRegion p s x) then fail stNoResource s
    else if par p 1 1 % 2 = 1 then (.accepted, allocated x (allocRegion p s x) s)
    else ok (toLE 4 (allocRegion p s x).handle.toNat ++ zeros 4 ++ toLE 8 (allocRegion p s x).size)
      (allocated x (allocRegion p s x) s) := by
  unfold cmdRegionAlloc
  simp only [hx, decide_eq_true_eq]
  rfl

theorem cmdRegionAlloc_badLength (hx : findPart s (pktPart p) = some x)
    (h : ¬AllocLimits p (16384 * (tractsOf x.tracts).length)) : cmdRegionAlloc q p s = fail stBadLength s := by
  rw [cmdRegionAlloc_found hx, if_pos ((allocRefused_iff _ _).2 h)]

/-- Within the limits the segments decide. -/
theorem cmdRegionAlloc_within (hx : findPart s (pktPart p) = some x) (h : AllocLimits p (16384 * (tractsOf x.tracts).length)) :
    cmdRegionAlloc q p s = if noRegion s x (allocRegion p s x) then fail stNoResource s
      else if par p 1 1 % 2 = 1 then (.accepted, allocated x (allocRegion p s x) s)
      else ok (toLE 4 (allocRegion p s x).handle.toNat ++ zeros 4 ++ toLE 8 (allocRegion p s x).size)
        (allocated x (allocRegion p s x) s) := by
  rw [cmdRegionAlloc_found hx, if_neg fun hr => (allocRefused_iff _ _).1 hr h]

theorem zeroFilled_fills {part : BitVec 4} {h : U32} {r : Region} {o : Origin} (hx : findPart s part = some x)
    (hr : x.region h = some r) (ho : r.filling = some o) :
    zeroFilled part h s = finish o stOk 0 (toLE 4 h.toNat ++ zeros 4 ++ toLE 8 r.size)
      (updPart part (fun x => { x with regions := updWhere (fun r => r.handle = h) (fun r => { r with filling := none }) x.regions })
        ((List.range (r.size / 64)).foldl (fun s i =>
          writeLine x.gen s (lineOf (r.addr (64 * i))) ((List.range 64).map fun j => (64 * lineOf (r.addr (64 * i)) + j, 0))) s)) := by
  simp only [zeroFilled, hx, Option.bind_some, hr, Option.map_some, ho, Region.lines, List.foldl_map]

/-! ### REGION_FREE and REGION_QUERY (R181, R182) -/

section
variable {r : Region} (hx : findPart s (pktPart p) = some x)
include hx

theorem cmdRegionFree_used (hr : x.region (par32 p 0) = some r) (hu : regionUsed s x r = true) :
    cmdRegionFree q p s = fail stNotPermitted s := by
  simp only [cmdRegionFree, hx, Option.bind_some, hr, Option.map_some, hu, if_true]

theorem cmdRegionFree_unused (hr : x.region (par32 p 0) = some r) (hu : regionUsed s x r = false) (hfill : r.filling = none) :
    cmdRegionFree q p s = ok [] (updPart x.num (fun x => { x with regions := x.regions.filter fun g => g.handle ≠ r.handle })
      (freeLines r.holds s)) := by
  simp only [cmdRegionFree, hx, Option.bind_some, hr, Option.map_some, hu, Bool.false_eq_true, if_false, hfill, finishIf]

theorem cmdRegionFree_unknown (hr : x.region (par32 p 0) = none) : cmdRegionFree q p s = fail stNotPermitted s := by
  simp only [cmdRegionFree, hx, Option.bind_some, hr, Option.map_none]

theorem cmdRegionQuery_found (hr : x.region (par32 p 0) = some r) : cmdRegionQuery q p s =
    ok (toLE 4 r.cfirst ++ toLE 4 r.ccount ++ toLE 1 r.lfirst ++ toLE 1 r.lcount ++ toLE 1 r.kind
      ++ toLE 1 ((if r.zero then 1 else 0) + (if r.host then 2 else 0)) ++ toLE 4 (min (2 ^ 32 - 1) (lostLinesOf s r))) s := by
  simp only [cmdRegionQuery, hx, Option.bind_some, hr]

theorem cmdRegionQuery_unknown (hr : x.region (par32 p 0) = none) : cmdRegionQuery q p s = fail stNotPermitted s := by
  simp only [cmdRegionQuery, hx, Option.bind_some, hr]

end

/-! ### What fetching a packet leaves -/

theorem includesWithdrawn_fetchedState (r : Region) : includesWithdrawn (fetchedState p s) r = includesWithdrawn s r := rfl

theorem lostLinesOf_fetchedState (r : Region) : lostLinesOf (fetchedState p s) r = lostLinesOf s r := rfl

variable {c : Packet} {code : Nat}

theorem Fetches.findPart_fetched (hf : Fetches code s q p c) (hx : findPart s (pktPart p) = some x) :
    findPart (fetchedState p s) (pktPart c) = some x := by
  rw [hf.part]
  exact hx

end

/-- Settles O26: each clause is the lemma above about its command, on the state in which the packet has been fetched. -/
theorem regionCommands : Obligations.RegionCommands := by
  unfold Obligations.RegionCommands
  refine ⟨?alloc, ?limits, ?filled, ?free, ?freeUnknown, ?query⟩
  case alloc =>
    intro s q p c x r hf hx hkind hroot hclearing hlayers hcolumns hwithin hunits hr
    have hin : AllocLimits c (16384 * (tractsOf x.tracts).length) := ⟨hkind, hroot, hclearing, hlayers, hcolumns, hwithin, hunits⟩
    have hrun := cmdRegionAlloc_within (q := q) (hf.findPart_fetched hx) hin
    have hasked : allocRegion c (fetchedState p s) x = r := by
      rw [hr, allocRegion, hf.origin]
      rfl
    rw [hasked] at hrun
    refine ⟨fun hcount hmeet hgone => ?had, fun h => hf.fails (body := cmdRegionAlloc) ?refused⟩
    case had =>
      have hfree : ¬noRegion (fetchedState p s) x r = true := by
        simp [noRegion, hcount, hmeet, includesWithdrawn_fetchedState, hgone]
      rw [if_neg hfree] at hrun
      refine ⟨fun hzero => hf.completes (body := cmdRegionAlloc) ?_, fun hzero => hf.accepts (body := cmdRegionAlloc) ?_⟩
      · rw [hrun, if_neg (by omega)]
        rfl
      · rw [hrun, if_pos hzero]
        rfl
    case refused =>
      have htaken : noRegion (fetchedState p s) x r = true := by
        simpa [noRegion, includesWithdrawn_fetchedState, or_assoc] using h
      rw [hrun, if_pos htaken]
  case limits =>
    intro s q p c x hf hx h
    refine hf.fails (body := cmdRegionAlloc) (cmdRegionAlloc_badLength (hf.findPart_fetched hx) ?_)
    rintro ⟨hkind, hroot, hclearing, hlayers, hcolumns, hwithin, hunits⟩
    omega
  case filled =>
    intro s part h x r o hs hx hr ho
    exact (next_event hs).trans (congrArg happens (zeroFilled_fills hx hr ho))
  case free =>
    intro s q p c x r hf hx hr
    exact ⟨fun hu hfill => hf.completes (body := cmdRegionFree) (cmdRegionFree_unused (hf.findPart_fetched hx) hr hu hfill),
      fun hu => hf.fails (body := cmdRegionFree) (cmdRegionFree_used (hf.findPart_fetched hx) hr hu)⟩
  case freeUnknown =>
    intro s q p c x hf hx hr
    exact hf.fails (body := cmdRegionFree) (cmdRegionFree_unknown (hf.findPart_fetched hx) hr)
  case query =>
    intro s q p c x hf hx
    refine ⟨fun r hr => hf.completes (body := cmdRegionQuery) ?_,
      fun hr => hf.fails (body := cmdRegionQuery) (cmdRegionQuery_unknown (hf.findPart_fetched hx) hr)⟩
    rw [cmdRegionQuery_found (hf.findPart_fetched hx) hr, lostLinesOf_fetchedState]

end Sys2Proof.Machine
end

section
/-! SUPPORT and the SETTLED STATEMENT of the registers of layers and the maps (O29): what MEMREG_READ, MEMREG_WRITE, REPAIR_MAP_READ and
LAYER_MAP_READ answer. -/
namespace Sys2Proof.Machine

section
variable {q : QueuePair} {p : Packet} {s : State}

/-! ### MEMREG_READ and MEMREG_WRITE (R193, R194) -/

/-- The layers that have registers. -/
theorem layerOutside_iff (l : Nat) : ¬(l < 2 || 22 < l) = true ↔ 2 ≤ l ∧ l ≤ 22 := by
  rw [Bool.or_eq_true, decide_eq_true_eq, decide_eq_true_eq]
  omega

theorem cmdMemregRead_listed {v : Nat} (h2 : 2 ≤ par p 0 1) (h22 : par p 0 1 ≤ 22) (hv : layerReg s (par p 0 1) (par p 2 2) = some v) :
    cmdMemregRead q p s = ok (toLE 4 v) s := by
  simp only [cmdMemregRead, if_neg ((layerOutside_iff _).2 ⟨h2, h22⟩), hv]

theorem cmdMemregRead_unlisted (h : par p 0 1 < 2 ∨ 22 < par p 0 1 ∨ layerReg s (par p 0 1) (par p 2 2) = none) :
    cmdMemregRead q p s = fail stBadLength s := by
  unfold cmdMemregRead
  dsimp only
  split
  · rfl
  next hin =>
    obtain ⟨h2, h22⟩ := (layerOutside_iff _).1 hin
    have hnone : layerReg s (par p 0 1) (par p 2 2) = none :=
      (h.resolve_left (Nat.not_lt.2 h2)).resolve_left (Nat.not_lt.2 h22)
    rw [hnone]

theorem cmdMemregWrite_listed (h2 : 2 ≤ par p 0 1) (h22 : par p 0 1 ≤ 22) (hv : (layerReg s (par p 0 1) (par p 2 2)).isSome = true) :
    cmdMemregWrite q p s = ok [] (updLayer (par p 0 1) (fun r => writeLayerReg r (par p 2 2) (par32 p 4)) s) := by
  have hin : ¬(par p 0 1 < 2 || 22 < par p 0 1 || (layerReg s (par p 0 1) (par p 2 2)).isNone) = true := by
    rw [Option.isNone_eq_false_iff.2 hv, Bool.or_false]
    exact (layerOutside_iff _).2 ⟨h2, h22⟩
  simp only [cmdMemregWrite, if_neg hin]

theorem cmdMemregWrite_unlisted (h : par p 0 1 < 2 ∨ 22 < par p 0 1 ∨ layerReg s (par p 0 1) (par p 2 2) = none) :
    cmdMemregWrite q p s = fail stBadLength s := by
  have hout : (par p 0 1 < 2 || 22 < par p 0 1 || (layerReg s (par p 0 1) (par p 2 2)).isNone) = true := by
    simpa [or_assoc] using h
  simp only [cmdMemregWrite, if_pos hout]

/-- The offsets of the registers that only report (R194). -/
def readOnlyRegs : List Nat := [0x04, 0x14, 0x20, 0x24, 0x28, 0x2C, 0x30]

theorem writeLayerReg_readOnly (r : LayerRegs) (v : U32) : ∀ reg ∈ readOnlyRegs, writeLayerReg r reg v = r := by
  simp [readOnlyRegs, writeLayerReg]

theorem layerReg_readOnly (s : State) (l : Nat) : ∀ reg ∈ readOnlyRegs, (layerReg s l reg).isSome = true := by
  simp [readOnlyRegs, layerReg]

theorem updLayer_id (l : Nat) (s : State) : updLayer l (fun r => r) s = s := by
  simp only [updLayer, updWhere, ite_self, List.map_id']

theorem layerReg_unlisted (s : State) (l : Nat) {reg : Nat} (h : reg ∉ [0x00, 0x04, 0x10, 0x14, 0x20, 0x24, 0x28, 0x2C, 0x30]) :
    layerReg s l reg = none := by
  refine Option.eq_none_iff_forall_ne_some.2 fun v hv => h ?_
  unfold layerReg at hv
  dsimp only at hv
  split at hv <;> simp at hv ⊢

/-! ### REPAIR_MAP_READ (R34, R35) -/

section
variable (h1 : 1 ≤ par p 4 4) (hmax : par p 4 4 ≤ 131071)
include h1 hmax

theorem repairCount_within : ¬(par p 4 4 = 0 || 131071 < par p 4 4) = true := by
  rw [Bool.or_eq_true, decide_eq_true_eq, decide_eq_true_eq]
  omega

theorem cmdRepairMap_copies {b : Option (List Nat)} (hf : par p 0 4 < s.repairs.length) (ha : par p 8 8 % 8 = 0)
    (hs : 8 * par p 4 4 ≤ par p 16 4) (hb : paramBuffer s q p (par p 8 8) (par p 16 4) = .ok b) :
    cmdRepairMap q p s = ok (toLE 4 (min (par p 4 4) (s.repairs.length - par p 0 4)) ++ toLE 4 s.repairs.length)
      (putBuffer q p b (par p 8 8) (((s.repairs.drop (par p 0 4)).take (par p 4 4)).flatMap fun e => toLE 8 e.toNat) s) := by
  simp only [cmdRepairMap, copyOut, if_neg (repairCount_within h1 hmax), if_neg (Nat.not_le.2 hf), ha, ne_eq, not_true_eq_false,
    if_false, if_neg (Nat.not_lt.2 hs), hb, List.length_take, List.length_drop]

theorem cmdRepairMap_beyond (hf : s.repairs.length ≤ par p 0 4) :
    cmdRepairMap q p s = ok (toLE 4 0 ++ toLE 4 s.repairs.length) s := by
  simp only [cmdRepairMap, if_neg (repairCount_within h1 hmax), if_pos hf, List.drop_of_length_le hf, List.take_nil, List.length_nil]

end

theorem cmdRepairMap_badLength (h : par p 4 4 = 0 ∨ 131071 < par p 4 4) : cmdRepairMap q p s = fail stBadLength s := by
  have hout : (par p 4 4 = 0 || 131071 < par p 4 4) = true := by simpa using h
  simp only [cmdRepairMap, if_pos hout]

/-! ### LAYER_MAP_READ (R40) -/

theorem cmdLayerMap_selected {k : List (BitVec 4) × Nat × Nat}
    (hk : (par p 0 4 = 0 ∧ k = (s.layers, rehomedNow s)) ∨ (par p 0 4 = 1 ∧ k = (s.layersCold, s.rehomedCold))) :
    cmdLayerMap q p s =
      ok (toLE 12 ((k.1.zipIdx.map fun x => x.1.toNat * 2 ^ (4 * x.2)).sum) ++ toLE 2 k.2.1 ++ toLE 2 k.2.2) s := by
  rcases hk with ⟨h0, rfl⟩ | ⟨h1, rfl⟩
  · simp only [cmdLayerMap, h0, Nat.not_lt_zero, if_false, if_true]
  · simp only [cmdLayerMap, h1, Nat.lt_irrefl, if_false, Nat.one_ne_zero]

theorem cmdLayerMap_badLength (h : 1 < par p 0 4) : cmdLayerMap q p s = fail stBadLength s := by
  simp only [cmdLayerMap, if_pos h]

end

/-- Settles O29: each clause is the lemma above about its command, or the register's own line of `layerReg`. -/
theorem layerRegisters : Obligations.LayerRegisters := by
  unfold Obligations.LayerRegisters
  refine ⟨?read, ?unreadable, ?write, ?registers, ?repairs, ?noRepairs, ?layers⟩
  case read => exact fun s q p c v hf h2 h22 hv => hf.completes (body := cmdMemregRead) (cmdMemregRead_listed h2 h22 hv)
  case unreadable => exact fun s q p c hf h => hf.fails (body := cmdMemregRead) (cmdMemregRead_unlisted h)
  case write =>
    intro s q p c hf
    refine ⟨fun h2 h22 => ⟨fun h0 => ?_, fun h10 => ?_, fun hro => ?_⟩, fun h => hf.fails (body := cmdMemregWrite)
      (cmdMemregWrite_unlisted h)⟩
    all_goals refine hf.completes (body := cmdMemregWrite) ?_
    · rw [cmdMemregWrite_listed h2 h22 (by rw [h0]; rfl), h0]
      rfl
    · rw [cmdMemregWrite_listed h2 h22 (by rw [h10]; rfl), h10]
      rfl
    · rw [cmdMemregWrite_listed h2 h22 (layerReg_readOnly _ _ _ hro)]
      simp only [writeLayerReg_readOnly _ _ _ hro, updLayer_id]
  case registers =>
    rintro s l r rfl
    exact ⟨rfl, rfl, rfl, rfl, rfl, rfl, rfl, rfl, rfl, fun reg => layerReg_unlisted s l⟩
  case repairs =>
    exact fun s q p c b hf h1 hmax hfirst ha hs hb => hf.completes (body := cmdRepairMap) (cmdRepairMap_copies h1 hmax hfirst ha hs hb)
  case noRepairs =>
    exact fun s q p c hf => ⟨fun h1 hmax hfirst => hf.completes (body := cmdRepairMap) (cmdRepairMap_beyond h1 hmax hfirst),
      fun h => hf.fails (body := cmdRepairMap) (cmdRepairMap_badLength h)⟩
  case layers =>
    exact fun s q p c hf => ⟨fun k hk => hf.completes (body := cmdLayerMap) (cmdLayerMap_selected hk),
      fun h => hf.fails (body := cmdLayerMap) (cmdLayerMap_badLength h)⟩

end Sys2Proof.Machine
end

section
/-! SUPPORT and the SETTLED STATEMENT of the near-bank units (O45): what their rows do to a unit's record, and what the two passes of a
task read. -/
namespace Sys2Proof.Machine

/-! ### Records of units (R201) -/

section
variable {α : Type} {p q : α → Bool} {f : α → α} (l : List α)

/-- A look-up under another key passes over the entries that are updated. -/
theorem find?_updWhere_disjoint (hp : ∀ x, p x = true → q x = false ∧ q (f x) = false) : (updWhere p f l).find? q = l.find? q := by
  have hq : (q ∘ fun x => if p x then f x else x) = q := by
    funext x
    by_cases hx : p x <;> simp [hx, hp]
  rw [updWhere, List.find?_map, hq]
  rcases hfind : l.find? q with _ | x
  · rfl
  · have hx : ¬p x = true := fun h => Bool.false_ne_true ((hp x h).1.symm.trans (List.find?_some hfind))
    simp only [Option.map_some, if_neg hx]

theorem find?_upsert_disjoint {d : α} (hp : ∀ x, p x = true → q x = false ∧ q (f x) = false) (hd : q (f d) = false) :
    (upsert p f d l).find? q = l.find? q := by
  unfold upsert
  split
  · exact find?_updWhere_disjoint l hp
  · rw [List.find?_append, List.find?_singleton, hd, if_neg Bool.false_ne_true, Option.or_none]

end

section
variable {u v : Nat} {f : NbUnit → NbUnit} {s : State}

theorem findUnit_updUnit_other (hv : v ≠ u) (hf : ∀ x, (f x).unit = x.unit) : findUnit (updUnit u f s) v = findUnit s v := by
  have hfind : (updUnit u f s).units.find? (fun x => x.unit = v) = s.units.find? fun x => x.unit = v := by
    refine find?_upsert_disjoint _ (fun x hx => ?_) ?_
    · have hxv : x.unit ≠ v := fun h => hv (h.symm.trans (of_decide_eq_true hx))
      rw [hf]
      exact ⟨decide_eq_false hxv, decide_eq_false hxv⟩
    · rw [hf]
      exact decide_eq_false hv.symm
  rw [findUnit, hfind]
  rfl

/-- What an update leaves of the record it updates, it leaves of every unit's. -/
theorem findUnit_updUnit_field {β : Type} (get : NbUnit → β) (hf : ∀ x, (f x).unit = x.unit) (hget : ∀ x, get (f x) = get x)
    (v : Nat) : get (findUnit (updUnit u f s) v) = get (findUnit s v) := by
  by_cases hv : v = u
  · rw [hv, findUnit_updUnit hf, hget]
  · rw [findUnit_updUnit_other hv hf]

/-! ### Counters (R106, R225) -/

theorem countUnit_cases (u : Nat) (f : NbUnit → NbUnit) (s : State) : countUnit u f s = updUnit u f s ∨ countUnit u f s = s := by
  unfold countUnit
  split
  · split
    · exact .inr rfl
    · exact .inl rfl
  · exact .inl rfl

theorem countUnit_counts (h : ∀ p, unitOwner s u = some p → p.confidential = false) : countUnit u f s = updUnit u f s := by
  unfold countUnit
  split
  · rename_i p hp
    rw [h p hp, if_neg Bool.false_ne_true]
  · rfl

theorem countUnit_frame (u : Nat) (f : NbUnit → NbUnit) (s : State) :
    countUnit u f s = { s with units := (countUnit u f s).units } := by
  rcases countUnit_cases u f s with h | h
  · rw [h]
    rfl
  · rw [h]

theorem countUnit_draw (u : Nat) (f : NbUnit → NbUnit) (s : State) : (countUnit u f s).draw = s.draw := by rw [countUnit_frame]
theorem countUnit_out (u : Nat) (f : NbUnit → NbUnit) (s : State) : (countUnit u f s).out = s.out := by rw [countUnit_frame]

theorem findUnit_countUnit_owned {p : Partition} (ho : unitOwner s u = some p) (hf : ∀ x, (f x).unit = x.unit) :
    findUnit (countUnit u f s) u = if p.confidential then findUnit s u else f (findUnit s u) := by
  simp only [countUnit, ho]
  split
  · rfl
  · exact findUnit_updUnit hf s

theorem findUnit_countUnit_field {β : Type} (get : NbUnit → β) (hf : ∀ x, (f x).unit = x.unit) (hget : ∀ x, get (f x) = get x)
    (v : Nat) : get (findUnit (countUnit u f s) v) = get (findUnit s v) := by
  rcases countUnit_cases u f s with h | h
  · rw [h, findUnit_updUnit_field get hf hget]
  · rw [h]

end

/-! ### What a unit reads (R205, R207, R208) -/

theorem garble_frame (l : Nat) (w : List Byte) (s : State) :
    garble l w s = { s with mem := (garble l w s).mem, draw := (garble l w s).draw } := by
  unfold garble
  split <;> rfl

theorem garble_units (l : Nat) (w : List Byte) (s : State) (us : List NbUnit) :
    garble l w { s with units := us } = { garble l w s with units := us } := by
  unfold garble
  dsimp only
  split <;> rfl

theorem unitSees_frame (e : ReadErrors) (s : State) :
    unitSees e s = { s with mem := (unitSees e s).mem, draw := (unitSees e s).draw } := by
  refine List.foldlRecOn (motive := fun t : State => t = { s with mem := t.mem, draw := t.draw }) _ _ rfl fun t ht l _ => ?_
  rw [garble_frame, ht]

/-- The records of the units have no part in what a unit reads. -/
theorem unitSees_units (e : ReadErrors) (s : State) (us : List NbUnit) :
    unitSees e { s with units := us } = { unitSees e s with units := us } := by
  unfold unitSees
  induction (e.symbols.map (·.1)).eraseDups generalizing s with
  | nil => rfl
  | cons l ls ih => rw [List.foldl_cons, List.foldl_cons, garble_units, ih]

theorem findUnit_unitSees (e : ReadErrors) (s : State) (u : Nat) : findUnit (unitSees e s) u = findUnit s u := by
  rw [unitSees_frame]
  rfl

/-- `t` is `s` but for the records of units, whose seal tables are the same: a task finds the same on both. -/
structure SealsKept (s t : State) : Prop where
  frame : t = { s with units := t.units }
  seals : ∀ u, (findUnit t u).seals = (findUnit s u).seals

theorem updUnit_sealsKept {u : Nat} {f : NbUnit → NbUnit} {s : State} (hf : ∀ x, (f x).unit = x.unit)
    (hs : ∀ x, (f x).seals = x.seals) : SealsKept s (updUnit u f s) :=
  ⟨rfl, findUnit_updUnit_field (·.seals) hf hs⟩

namespace SealsKept
variable {s t r : State}

theorem trans (h : SealsKept s t) (k : SealsKept t r) : SealsKept s r where
  frame := by rw [k.frame, h.frame]
  seals u := (k.seals u).trans (h.seals u)

theorem unitSees (h : SealsKept s t) (e : ReadErrors) : SealsKept (unitSees e s) (unitSees e t) where
  frame := by rw [h.frame, unitSees_units]
  seals u := by rw [findUnit_unitSees, findUnit_unitSees, h.seals]

theorem unitSees_draw (h : SealsKept s t) (e : ReadErrors) : (Machine.unitSees e t).draw = (Machine.unitSees e s).draw := by
  rw [(h.unitSees e).frame]

theorem taskEnv (h : SealsKept s t) (k : Task) : taskEnv t k = taskEnv s k := by
  rw [h.frame]
  rfl

theorem eligible (h : SealsKept s t) (u : Nat) (k : Task) (x : TaskEnv) : eligible t u k x = eligible s u k x := by
  simp only [Machine.eligible, positionSealed, h.seals]

theorem mismatch (h : SealsKept s t) (u : Nat) (x : TaskEnv) (js : List Nat) : mismatch t u x js = mismatch s u x js := by
  simp only [Machine.mismatch, h.seals]
  rw [h.frame]
  rfl

theorem scoreTask (h : SealsKept s t) (k : Task) (x : TaskEnv) (js : List Nat) : scoreTask t k x js = scoreTask s k x js := by
  rw [h.frame]
  rfl

end SealsKept

/-! ### Tasks that start, wait or are discarded (R210, R211, R216) -/

section
variable {u : Nat} {s : State} {e : ReadErrors} {k : Task}

theorem startTask_noTask (h : (findUnit s u).waitingTasks = []) : startTask e u s = s := by
  simp only [startTask, h]

theorem startTask_notReady (h : unitReady (findUnit s u) = false) : startTask e u s = s := by
  unfold startTask
  dsimp only
  split
  · rfl
  · rw [h, if_neg Bool.false_ne_true]

theorem startTask_ready {ks : List Task} (hw : (findUnit s u).waitingTasks = k :: ks) (hr : unitReady (findUnit s u) = true) :
    startTask e u s = passOne e u k (updUnit u (fun v => { v with waitingTasks := ks }) s) := by
  simp only [startTask, hw, hr, if_true]

theorem unitReady_iff (v : NbUnit) : unitReady v = true ↔
    v.state = .inService ∧ v.processor = true ∧ v.work = none ∧ v.repairing = [] ∧ v.reloading = false := by
  simp [unitReady, and_assoc]

/-- A unit's record once pass 1 of a task has left `w`. -/
def NbUnit.scored (w : UnitTask) (x : TaskEnv) (js : List Nat) (v : NbUnit) : NbUnit :=
  { v with work := some w, tagCache := (v.tagCache ++ tagsRead x js).eraseDups }

theorem findUnit_scored (u : Nat) (w : UnitTask) (x : TaskEnv) (js : List Nat) (s : State) :
    findUnit (scored u w x js s) u = (findUnit s u).scored w x js :=
  findUnit_updUnit (f := NbUnit.scored w x js) (fun _ => rfl) s

theorem passOne_scored {x : TaskEnv} (hx : taskEnv s k = some x) (hm : mismatch (unitSees e s) u x (eligible s u k x) = none) :
    passOne e u k s = scored u (scoreTask (unitSees e s) k x (eligible s u k x)) x (eligible s u k x)
      { s with draw := (unitSees e s).draw } := by
  simp only [passOne, hx, hm]

theorem passOne_discarded {x : TaskEnv} {g : Nat} (hx : taskEnv s k = some x)
    (hm : mismatch (unitSees e s) u x (eligible s u k x) = some g) :
    passOne e u k s = discardTask u g (some k) { s with draw := (unitSees e s).draw } := by
  simp only [passOne, hx, hm]

/-- A unit's record once a task is discarded, its counter aside. -/
def NbUnit.discarded (g : Nat) (k : Option Task) (v : NbUnit) : NbUnit :=
  { v with
    work := if k.isSome then none else v.work
    repairing := if v.repairing.any fun x => x.1 = g then v.repairing else v.repairing ++ [(g, k)] }

theorem discardTask_eq (u g : Nat) (k : Option Task) (s : State) : discardTask u g k s =
    countUnit u (fun v => { v with mismatches := v.mismatches + 1 }) (updUnit u (NbUnit.discarded g k) s) := rfl

theorem discardTask_frame (u g : Nat) (k : Option Task) (s : State) :
    discardTask u g k s = { s with units := (discardTask u g k s).units } := by
  rw [discardTask_eq, countUnit_frame]
  rfl

/-- What the counter of mismatches has no part in. -/
theorem findUnit_discardTask_field {β : Type} (get : NbUnit → β) (hget : ∀ x n, get { x with mismatches := n } = get x) (g : Nat)
    (k : Option Task) : get (findUnit (discardTask u g k s) u) = get ((findUnit s u).discarded g k) := by
  rw [discardTask_eq, findUnit_countUnit_field get (fun _ => by rfl) (fun x => by exact hget x _), findUnit_updUnit fun _ => by rfl]

theorem findUnit_discardTask_owned {p : Partition} (ho : unitOwner s u = some p) (g : Nat) (k : Option Task) :
    findUnit (discardTask u g k s) u = { (findUnit s u).discarded g k with
      mismatches := if p.confidential then (findUnit s u).mismatches else (findUnit s u).mismatches + 1 } := by
  have hown : unitOwner (updUnit u (NbUnit.discarded g k) s) u = some p := ho
  rw [discardTask_eq, findUnit_countUnit_owned hown fun _ => by rfl, findUnit_updUnit fun _ => by rfl]
  split <;> rfl

theorem NbUnit.discarded_repairing (g : Nat) (k : Option Task) (v : NbUnit) : ∃ o, (g, o) ∈ (v.discarded g k).repairing := by
  unfold NbUnit.discarded
  dsimp only
  split
  · rename_i hany
    obtain ⟨⟨g', o⟩, hmem, hg⟩ := List.any_eq_true.1 hany
    obtain rfl : g' = g := of_decide_eq_true hg
    exact ⟨o, hmem⟩
  · exact ⟨k, List.mem_append_right _ (List.mem_singleton_self _)⟩

theorem NbUnit.discarded_ready {v : NbUnit} (h : unitReady v = true) (g : Nat) (k : Task) :
    v.discarded g (some k) = { v with repairing := [(g, some k)] } := by
  obtain ⟨-, -, hwork, hrep, -⟩ := (unitReady_iff v).1 h
  rw [NbUnit.discarded, hrep, hwork]
  rfl

/-! ### NEAR_BANK_TASK (R210, R211, R221, R377) -/

/-- The head dimension of a task's cache, 0 where the partition has no such cache. -/
def headDim (p : Partition) (k : Task) : Nat := match p.cache k.cache with | some c => c.d | none => 0

theorem nearBankTask_refused (h : (unitOwner s u).map (·.num) ≠ some k.part) :
    nearBankTask u k e s = firebreak 2 k.part (unitOwner s u) s := by
  unfold nearBankTask
  rcases ho : unitOwner s u with _ | p
  · rfl
  · exact if_pos fun hp => h (by rw [ho, Option.map_some, hp])

section
variable {p : Partition} (ho : unitOwner s u = some p) (hp : p.num = k.part)
include ho hp

theorem nearBankTask_dropped (h : (findUnit s u).state = .failed ∨ modeInForce p = 1) : nearBankTask u k e s = s := by
  have hdrop : ((findUnit s u).state = .failed || modeInForce p = 1) = true := by simpa using h
  simp only [nearBankTask, ho, hp, ne_eq, not_true_eq_false, if_false, hdrop, if_true]

theorem nearBankTask_taken (hf : (findUnit s u).state ≠ .failed) (hm : modeInForce p ≠ 1) : nearBankTask u k e s =
    startTask e u (updUnit u (fun v => { v with waitingTasks := v.waitingTasks ++ splitTask (headDim p k) k }) s) := by
  have hkeep : ¬((findUnit s u).state = .failed || modeInForce p = 1) = true := by simp [hf, hm]
  simp only [nearBankTask, ho, hp, ne_eq, not_true_eq_false, if_false, if_neg hkeep]
  rfl

theorem nearBankTask_waits (hf : (findUnit s u).state ≠ .failed) (hm : modeInForce p ≠ 1)
    (hr : unitReady (findUnit s u) = false) : nearBankTask u k e s =
    updUnit u (fun v => { v with waitingTasks := v.waitingTasks ++ splitTask (headDim p k) k }) s := by
  rw [nearBankTask_taken ho hp hf hm]
  refine startTask_notReady ?_
  rw [findUnit_updUnit fun _ => by rfl]
  exact hr

end

/-- A whole task that arrives at a unit that is ready runs at once, on a state that differs in nothing a task meets. -/
theorem nearBankTask_runs {p : Partition} (ho : unitOwner s u = some p) (hp : p.num = k.part) (hm : modeInForce p ≠ 1)
    (hr : unitReady (findUnit s u) = true) (hw : (findUnit s u).waitingTasks = []) (hs : splitTask (headDim p k) k = [k]) :
    ∃ t, nearBankTask u k e s = passOne e u k t ∧ SealsKept s t ∧ findUnit t u = findUnit s u := by
  have hf : (findUnit s u).state ≠ .failed := by
    rw [((unitReady_iff _).1 hr).1]
    decide
  have hunit : findUnit (updUnit u (fun v => { v with waitingTasks := v.waitingTasks ++ splitTask (headDim p k) k }) s) u =
      { findUnit s u with waitingTasks := [k] } := by
    rw [findUnit_updUnit (fun _ => by rfl), hw, hs]
    rfl
  have hready : unitReady { findUnit s u with waitingTasks := [k] } = true := hr
  refine ⟨_, (nearBankTask_taken ho hp hf hm).trans (startTask_ready (ks := []) (by rw [hunit]) (by rw [hunit, hready])),
    .trans (updUnit_sealsKept (fun _ => by rfl) fun _ => by rfl) (updUnit_sealsKept (fun _ => by rfl) fun _ => by rfl), ?_⟩
  rw [findUnit_updUnit (fun _ => by rfl), hunit]
  show { findUnit s u with waitingTasks := [] } = findUnit s u
  rw [← hw]

end

/-! ### Tasks of too many rows (R210) -/

theorem chunks_length_le {α : Type} (n : Nat) : ∀ (m : Nat) (l : List α), ∀ x ∈ chunks n m l, x.length ≤ n
  | 0, _, x, hx => absurd hx List.not_mem_nil
  | m + 1, l, x, hx => by
    unfold chunks at hx
    split at hx
    · exact absurd hx List.not_mem_nil
    · rcases List.mem_cons.1 hx with rfl | hx
      · exact List.length_take_le ..
      · exact chunks_length_le n m _ x hx

theorem splitTask_whole {d : Nat} {k : Task} (h0 : k.rows ≠ []) (h : k.rows.length ≤ 2112 / (d + 1)) : splitTask d k = [k] := by
  have hpos : 0 < k.rows.length := List.length_pos_iff.2 h0
  have hmax : max 1 (rowsPerTask d) = rowsPerTask d := Nat.max_eq_right (Nat.le_trans hpos h)
  have hone : ceilDiv k.rows.length (rowsPerTask d) = 1 := by
    unfold ceilDiv rowsPerTask
    exact Nat.div_eq_of_lt_le (by omega) (by omega)
  have hne : ¬k.rows.isEmpty = true := fun he => h0 (List.isEmpty_iff.1 he)
  rw [splitTask, hmax, hone, chunks, if_neg hne, List.take_of_length_le (i := rowsPerTask d) h, chunks, List.map_singleton]

theorem mem_splitTask {d : Nat} {k j : Task} (hj : j ∈ splitTask d k) :
    j.rows.length * (d + 1) ≤ 2112 ∧ ∃ rs, j = { k with rows := rs } := by
  obtain ⟨rs, hrs, rfl⟩ := List.mem_map.1 hj
  exact ⟨Nat.le_trans (Nat.mul_le_mul_right _ (chunks_length_le _ _ _ rs hrs)) (Nat.div_mul_le_self ..), rs, rfl⟩

/-! ### PROCESSOR_MODE_ENTRY (R203, R204, R220) -/

section
variable {u : Nat} {s : State}

theorem processorEntry_tests (h : (findUnit s u).state ≠ .failed ∨ (findUnit s u).retest = true) :
    processorEntry u true s = updUnit u (fun v => { v with
      processor := true, work := none, waitingTasks := [], state := if v.state = .failed then .failed else .testing }) s := by
  have htest : ¬((findUnit s u).state = .failed && !(findUnit s u).retest) = true := by
    rcases h with h | h <;> simp [h]
  simp only [processorEntry, if_true, if_neg htest]

theorem processorEntry_leaves (hf : (findUnit s u).state = .failed) (hr : (findUnit s u).retest = false) :
    processorEntry u true s = s := by
  simp only [processorEntry, hf, hr, decide_true, Bool.not_false, Bool.and_self, if_true]

theorem processorEntry_works (hc : computable s u = true) (hs : (findUnit s u).state = .inService)
    (hp : (findUnit s u).stranded = false) (hw : (findUnit s u).waitingTasks ≠ []) :
    processorEntry u false s = startTask .none u (updUnit u (fun v => { v with processor := true }) s) := by
  have henter : (computable s u && decide ((findUnit s u).state = .inService) && !(findUnit s u).stranded &&
      !(findUnit s u).waitingTasks.isEmpty) = true := by simp [hc, hs, hp, hw]
  simp only [processorEntry, Bool.false_eq_true, if_false, if_pos henter]

theorem processorEntry_stays (h : computable s u = false ∨ (findUnit s u).state ≠ .inService ∨ (findUnit s u).stranded = true ∨
    (findUnit s u).waitingTasks = []) : processorEntry u false s = s := by
  have hstay : ¬(computable s u && decide ((findUnit s u).state = .inService) && !(findUnit s u).stranded &&
      !(findUnit s u).waitingTasks.isEmpty) = true := by
    rcases h with h | h | h | h <;> simp [h]
  simp only [processorEntry, Bool.false_eq_true, if_false, if_neg hstay]

/-! ### SLICE_BOUNDARY (R209, R213, R226) -/

/-- The channel stays in processor mode at a boundary. -/
def NbUnit.stays (v : NbUnit) (w : BoundaryWork) : Bool :=
  !v.stranded && (w.unitWork || v.work.isSome || !v.waitingTasks.isEmpty)

/-- Other accesses than those of CXL.mem that a boundary serves. -/
def NbUnit.serves (v : NbUnit) (w : BoundaryWork) : Nat :=
  if v.stays w then min w.served (v.held + w.other) else v.held + w.other

/-- What a boundary in processor mode that found the record `v` makes of the record, its counters aside. -/
def NbUnit.bounded (v : NbUnit) (w : BoundaryWork) (x : NbUnit) : NbUnit :=
  { x with owed := List.replicate 16 0, held := v.held + w.other - v.serves w, processor := v.stays w
           reloading := x.reloading || w.sealFault }

/-- What it makes of the counters, where the accesses waited a free number `n` of cycles. -/
def NbUnit.boundaryCounts (v : NbUnit) (w : BoundaryWork) (n : Nat) (x : NbUnit) : NbUnit :=
  { x with
    slices := if w.cycles = 0 then x.slices else x.slices + 1
    refreshes := x.refreshes + BitVec.ofNat 64 (maxNat v.owed)
    waitCycles := x.waitCycles + BitVec.ofNat 64 (if w.cxl + (v.held + w.other) = 0 then 0 else n) }

/-- The state after a boundary in processor mode, before what a parity error in a buffer brings about. -/
def atBoundary (u : Nat) (w : BoundaryWork) (s : State) : State :=
  let v := findUnit s u
  { countUnit u (v.boundaryCounts w (Config.freeNat s.draw u)) (updUnit u (v.bounded w) s) with
    draw := s.draw + 1, out := s.out ++ [.boundary u (boundaryOrder v.owed w.cxl (v.serves w))] }

theorem sliceBoundary_memoryMode (w : BoundaryWork) (h : (findUnit s u).processor = false) : sliceBoundary u w s = s := by
  simp only [sliceBoundary, h, Bool.not_false, if_true]

theorem sliceBoundary_processorMode (w : BoundaryWork) (h : (findUnit s u).processor = true) :
    sliceBoundary u w s = if w.bufferFault then bufferError u (atBoundary u w s) else atBoundary u w s := by
  simp only [sliceBoundary, h, Bool.not_true, Bool.false_eq_true, if_false, countUnit_draw, countUnit_out, updUnit_draw,
    updUnit_out]
  rfl

theorem atBoundary_frame (u : Nat) (w : BoundaryWork) (s : State) : atBoundary u w s =
    { s with units := (atBoundary u w s).units, draw := s.draw + 1
             out := s.out ++ [.boundary u (boundaryOrder (findUnit s u).owed w.cxl ((findUnit s u).serves w))] } := by
  unfold atBoundary
  dsimp only
  rw [countUnit_frame]
  rfl

theorem findUnit_atBoundary (u : Nat) (w : BoundaryWork) (s : State) : findUnit (atBoundary u w s) u =
    findUnit (countUnit u ((findUnit s u).boundaryCounts w (Config.freeNat s.draw u)) (updUnit u ((findUnit s u).bounded w) s)) u := rfl

/-- What the counters have no part in. -/
theorem findUnit_atBoundary_field {β : Type} (get : NbUnit → β) (w : BoundaryWork)
    (hget : ∀ v x n, get (NbUnit.boundaryCounts v w n x) = get x) :
    get (findUnit (atBoundary u w s) u) = get ((findUnit s u).bounded w (findUnit s u)) := by
  rw [findUnit_atBoundary, findUnit_countUnit_field get (fun _ => by rfl) (fun x => by exact hget _ x _),
    findUnit_updUnit fun _ => by rfl]

theorem findUnit_atBoundary_counted (w : BoundaryWork) (h : ∀ p, unitOwner s u = some p → p.confidential = false) :
    findUnit (atBoundary u w s) u =
      (findUnit s u).boundaryCounts w (Config.freeNat s.draw u) ((findUnit s u).bounded w (findUnit s u)) := by
  rw [findUnit_atBoundary, countUnit_counts (by exact h), findUnit_updUnit fun _ => by rfl, findUnit_updUnit fun _ => by rfl]

theorem boundaryOrder_eq (owed : List Nat) (cxl other : Nat) : boundaryOrder owed cxl other =
    (if ∃ x ∈ owed, 4 ≤ x then [BankService.refresh] else []) ++ List.replicate cxl .cxl ++
      List.replicate (maxNat owed - (if ∃ x ∈ owed, 4 ≤ x then 1 else 0)) .refresh ++ List.replicate other .other := by
  have hany : (owed.any (4 ≤ ·)) = true ↔ ∃ x ∈ owed, 4 ≤ x := by simp
  unfold boundaryOrder
  by_cases h : ∃ x ∈ owed, 4 ≤ x
  · simp only [if_pos h, if_pos (hany.2 h), List.replicate_one]
  · simp only [if_neg h, if_neg (mt hany.1 h), List.replicate_zero]

/-! ### FINAL_MAXIMA_ARRIVAL (R211) -/

theorem finalMaxima_ignored (ms : List F32) (e : ReadErrors)
    (h : (findUnit s u).work = none ∨ (findUnit s u).state ≠ .inService ∨ (findUnit s u).processor = false) :
    finalMaxima u ms e s = s := by
  unfold finalMaxima
  dsimp only
  split
  · rfl
  · rename_i w hw
    refine if_pos ?_
    rcases h with h | h | h
    · cases h.symm.trans hw
    · simp [h]
    · simp [h]

section
variable {w : UnitTask} {x : TaskEnv} {e : ReadErrors} (ms : List F32) (hw : (findUnit s u).work = some w)
  (hs : (findUnit s u).state = .inService) (hp : (findUnit s u).processor = true) (hx : taskEnv s w.task = some x)
include hw hs hp hx

theorem finalMaxima_passes (hm : mismatch (unitSees e s) u x (eligible s u w.task x) = none) : finalMaxima u ms e s =
    startTask .none u (passTwo (unitSees e s) u w x (eligible s u w.task x) ms 0 { s with draw := (unitSees e s).draw }) := by
  simp only [finalMaxima, hw, hs, hp, hx, hm, ne_eq, not_true_eq_false, decide_false, Bool.not_true, Bool.or_self,
    Bool.false_eq_true, if_false]

theorem finalMaxima_discards {g : Nat} (hm : mismatch (unitSees e s) u x (eligible s u w.task x) = some g) :
    finalMaxima u ms e s = discardTask u g (some w.task) { s with draw := (unitSees e s).draw } := by
  simp only [finalMaxima, hw, hs, hp, hx, hm, ne_eq, not_true_eq_false, decide_false, Bool.not_true, Bool.or_self,
    Bool.false_eq_true, if_false]

end

/-- The partials of the rows of a task in pass 2. -/
def taskPartials (seen : State) (w : UnitTask) (x : TaskEnv) (js : List Nat) (ms : List F32) : List (Acc × List Acc) :=
  w.task.rows.zipIdx.map fun r =>
    rowPartials seen w.task x js r.1 (passTwoScore seen w.task x js w.scores (r.2, r.1)) (nth ms r.2 f32NegInf)

/-- A unit's record after pass 2 with the partials `ps`, its counters aside. -/
def NbUnit.passed (ps : List (Acc × List Acc)) (v : NbUnit) : NbUnit :=
  { v with work := none, accs := ps.flatMap fun r => r.1 :: r.2 }

/-- What pass 2 of a task that took `n` slices adds to the counters. -/
def NbUnit.passCounts (w : UnitTask) (x : TaskEnv) (js : List Nat) (n : Nat) (v : NbUnit) : NbUnit :=
  { v with
    tasks := v.tasks + 1, slices := v.slices + BitVec.ofNat 64 n
    rescored := v.rescored + BitVec.ofNat 64 (js.length * w.task.rows.length - bufferSize)
    bytesRead := v.bytesRead + BitVec.ofNat 64 (taskBytes x.c js.length w.task.rows.length) }

section
variable {seen : State} {w : UnitTask} {x : TaskEnv} {js : List Nat} {ms : List F32} {n : Nat}

theorem passTwo_frame : passTwo seen u w x js ms n s = { s with
    units := (passTwo seen u w x js ms n s).units
    out := s.out ++ [.unitPartials u ((taskPartials seen w x js ms).map (·.1)) ((taskPartials seen w x js ms).map (·.2))] } := by
  unfold passTwo
  dsimp only
  rw [countUnit_frame]
  rfl

theorem findUnit_passTwo : findUnit (passTwo seen u w x js ms n s) u =
    findUnit (countUnit u (NbUnit.passCounts w x js n) (updUnit u (NbUnit.passed (taskPartials seen w x js ms)) s)) u := rfl

/-- What the counters have no part in. -/
theorem findUnit_passTwo_field {β : Type} (get : NbUnit → β) (hget : ∀ v, get (NbUnit.passCounts w x js n v) = get v) :
    get (findUnit (passTwo seen u w x js ms n s) u) = get ((findUnit s u).passed (taskPartials seen w x js ms)) := by
  rw [findUnit_passTwo, findUnit_countUnit_field get (fun _ => by rfl) hget, findUnit_updUnit fun _ => by rfl]

theorem findUnit_passTwo_counted (h : ∀ p, unitOwner s u = some p → p.confidential = false) :
    findUnit (passTwo seen u w x js ms n s) u =
      ((findUnit s u).passed (taskPartials seen w x js ms)).passCounts w x js n := by
  rw [findUnit_passTwo, countUnit_counts (by exact h), findUnit_updUnit fun _ => by rfl, findUnit_updUnit fun _ => by rfl]

end
end

/-! ### O45 -/

/-- Settles O45: each clause is the lemma above about its row; a unit that takes a task at once reads what it would have read before
(`SealsKept`). -/
theorem nearBankUnitsWorkInSlices : Obligations.NearBankUnitsWorkInSlices := by
  unfold Obligations.NearBankUnitsWorkInSlices
  refine ⟨?test, ?entry, ?boundary, boundaryOrder_eq, ?refused, ?task, fun d k => ⟨splitTask_whole, fun j => mem_splitTask⟩, ?maxima,
    ?ignored, ?discarded, fun s u hs => next_event hs⟩
  case test =>
    intro s u hs
    have hexec : exec (.processorModeEntry u true) s = happens (processorEntry u.toNat true s) := next_event hs
    rw [hexec]
    exact ⟨fun h => ⟨_, by rw [processorEntry_tests h], by rw [findUnit_updUnit fun _ => by rfl], rfl⟩,
      fun hf hr => by rw [processorEntry_leaves hf hr]⟩
  case entry =>
    intro s u hs
    have hexec : exec (.processorModeEntry u false) s = happens (processorEntry u.toNat false s) := next_event hs
    rw [hexec]
    exact ⟨fun hc hi hp hw => by rw [processorEntry_works hc hi hp hw], fun h => by rw [processorEntry_stays h]⟩
  case boundary =>
    intro s u w hs hwf v stay served
    have hexec : exec (.sliceBoundary u w) s = happens (sliceBoundary u.toNat w s) := answer_event hwf hs
    rw [hexec]
    refine ⟨fun h => by rw [sliceBoundary_memoryMode w h], fun h => ⟨atBoundary u.toNat w s,
      by rw [sliceBoundary_processorMode w h], atBoundary_frame .., findUnit_atBoundary_field (·.owed) w fun _ _ _ => rfl,
      findUnit_atBoundary_field (·.held) w fun _ _ _ => rfl, findUnit_atBoundary_field (·.processor) w fun _ _ _ => rfl,
      findUnit_atBoundary_field (·.reloading) w fun _ _ _ => rfl, findUnit_atBoundary_field (·.work) w fun _ _ _ => rfl,
      findUnit_atBoundary_field (·.seals) w fun _ _ _ => rfl, fun hc => ?_⟩⟩
    rw [findUnit_atBoundary_counted w hc]
    refine ⟨rfl, ?_, fun h0 => ?_⟩
    · show (if w.cycles = 0 then v.slices else v.slices + 1) = v.slices + if w.cycles = 0 then 0 else 1
      split
      · exact (BitVec.add_zero _).symm
      · rfl
    · show v.waitCycles + BitVec.ofNat 64 (if w.cxl + (v.held + w.other) = 0 then 0 else _) = v.waitCycles
      rw [if_pos ((Nat.add_assoc ..).symm.trans h0)]
      exact BitVec.add_zero _
  case refused =>
    intro s u k e hs h
    have hexec : exec (.nearBankTask u ⟨k, e⟩) s = happens (nearBankTask u.toNat k e s) := next_event hs
    rw [hexec, nearBankTask_refused h]
  case task =>
    intro s u k e p hs ho hp v ks
    have hexec : exec (.nearBankTask u ⟨k, e⟩) s = happens (nearBankTask u.toNat k e s) := next_event hs
    rw [hexec]
    refine ⟨fun h => by rw [nearBankTask_dropped ho hp h],
      fun hf hm hr => ⟨_, by rw [nearBankTask_waits ho hp hf hm hr], rfl, ?_⟩, ?_⟩
    · rw [findUnit_updUnit fun _ => by rfl]
      rfl
    intro hm hr hw hk x hx seen js
    obtain ⟨t, ht, hseals, hunit⟩ := nearBankTask_runs (e := e) ho hp hm hr hw hk
    have hxt : taskEnv t k = some x := (hseals.taskEnv k).trans hx
    have hjs : eligible t u.toNat k x = js := hseals.eligible ..
    have hdraw : (unitSees e t).draw = seen.draw := hseals.unitSees_draw e
    have hmis : mismatch (unitSees e t) u.toNat x (eligible t u.toNat k x) = mismatch seen u.toNat x js := by
      rw [hjs]
      exact (hseals.unitSees e).mismatch ..
    have hfound : findUnit { t with draw := seen.draw } u.toNat = v := hunit
    rw [ht]
    refine ⟨fun h => ?_, fun g h => ?_⟩
    · have hscore : scoreTask (unitSees e t) k x js = scoreTask seen k x js := (hseals.unitSees e).scoreTask ..
      refine ⟨_, by rw [passOne_scored hxt (hmis.trans h)], ?_, ?_⟩
      · rw [hjs, hdraw, hscore, hseals.frame]
        rfl
      · rw [hjs, hdraw, hscore, findUnit_scored, hfound, NbUnit.scored]
    · have hown : unitOwner { t with draw := seen.draw } u.toNat = some p := by
        rw [hseals.frame]
        exact ho
      refine ⟨_, by rw [passOne_discarded hxt (hmis.trans h)], ?_, ?_⟩
      · rw [discardTask_frame, hdraw, hseals.frame]
      · rw [hdraw, findUnit_discardTask_owned hown, hfound, NbUnit.discarded_ready hr]
  case maxima =>
    intro s u ms e w x hs hw hi hp hx seen js ps
    have hexec : exec (.finalMaximaArrival u ⟨ms, e⟩) s = happens (finalMaxima u.toNat ms e s) := next_event hs
    rw [hexec]
    refine ⟨fun h => ⟨_, by rw [finalMaxima_passes ms hw hi hp hx h], passTwo_frame, findUnit_passTwo_field (·.work) fun _ => rfl,
      findUnit_passTwo_field (·.accs) fun _ => rfl, fun hc => ?_⟩, fun g h => by rw [finalMaxima_discards ms hw hi hp hx h]⟩
    rw [findUnit_passTwo_counted (by exact hc)]
    rfl
  case ignored =>
    intro s u ms e hs h
    have hexec : exec (.finalMaximaArrival u ⟨ms, e⟩) s = happens (finalMaxima u.toNat ms e s) := next_event hs
    rw [hexec, finalMaxima_ignored ms e h]
  case discarded =>
    intro s u g k
    have hwork : (findUnit (discardTask u g (some k) s) u).work = none :=
      findUnit_discardTask_field (·.work) (fun _ _ => rfl) g (some k)
    have hrep : (findUnit (discardTask u g (some k) s) u).repairing = ((findUnit s u).discarded g (some k)).repairing :=
      findUnit_discardTask_field (·.repairing) (fun _ _ => rfl) g (some k)
    refine ⟨hwork, ?_, ?_⟩
    · rw [hrep]
      exact NbUnit.discarded_repairing ..
    · rw [discardTask_frame]

end Sys2Proof.Machine
end

section
/-! SUPPORT and the SETTLED STATEMENT of self-tests, repair reads and recomputed pages (O46). -/
namespace Sys2Proof.Machine

/-! ### Units withdrawn (R220) -/

theorem Outward.findUnit {s t : State} (h : Outward s t) (u : Nat) : findUnit t u = findUnit s u := by
  rw [h]
  rfl

theorem Outward.testRun {s t : State} (h : Outward s t) : t.testRun = s.testRun := by rw [h]

theorem Outward.unitOwner {s t : State} (h : Outward s t) (u : Nat) : unitOwner t u = unitOwner s u := by
  unfold Machine.unitOwner ownerOf
  rw [h.partitions]

/-- A unit's record as it is withdrawn. -/
def NbUnit.withdrawn (v : NbUnit) : NbUnit :=
  { v with state := .failed, processor := false, work := none, waitingTasks := [], repairing := [], migrating := true }

section
variable (u : Nat) (s : State)

/-- A withdrawal is recorded; then the migration of the unit's pages waits to begin, or there is none. -/
theorem failUnit_cases : ∃ t, Outward (updUnit u NbUnit.withdrawn s) t ∧
    ((∃ p : Partition, failUnit u s = enqueue (some p.num) (.migrate u) (lastRecord t) t) ∨
      failUnit u s = updUnit u (fun v => { v with migrating := false }) t) := by
  refine ⟨settleReserve (recordUnit u (updUnit u NbUnit.withdrawn s)), (record_outward ..).trans (settleReserve_outward _), ?_⟩
  unfold failUnit
  dsimp only
  split
  · rename_i p _
    exact .inl ⟨p, rfl⟩
  · exact .inr rfl

theorem failUnit_keeps : (failUnit u s).mem = s.mem ∧ (failUnit u s).testRun = s.testRun := by
  obtain ⟨t, ht, ⟨p, h⟩ | h⟩ := failUnit_cases u s
  · rw [h]
    exact ⟨ht.mem, ht.testRun⟩
  · rw [h]
    exact ⟨ht.mem, ht.testRun⟩

theorem findUnit_failUnit : ∃ m, findUnit (failUnit u s) u = { (findUnit s u).withdrawn with migrating := m } := by
  obtain ⟨t, ht, hcase⟩ := failUnit_cases u s
  have hunit : findUnit t u = (findUnit s u).withdrawn :=
    (ht.findUnit u).trans (findUnit_updUnit (f := NbUnit.withdrawn) (fun _ => rfl) s)
  rcases hcase with ⟨p, h⟩ | h
  · exact ⟨true, by rw [h]; exact hunit⟩
  · refine ⟨false, ?_⟩
    rw [h, findUnit_updUnit fun _ => by rfl, hunit]

theorem findUnit_failUnit_other {v : Nat} (hv : v ≠ u) : findUnit (failUnit u s) v = findUnit s v := by
  obtain ⟨t, ht, hcase⟩ := failUnit_cases u s
  have hunit : findUnit t v = findUnit s v := (ht.findUnit v).trans (findUnit_updUnit_other hv fun _ => rfl)
  rcases hcase with ⟨p, h⟩ | h
  · rw [h]
    exact hunit
  · rw [h, findUnit_updUnit_other hv fun _ => by rfl, hunit]

/-! ### Self-tests (R220) -/

/-- The state in which a self-test has left its test lines. -/
def testWritten : State :=
  { updUnit u (fun v => { v with testLines := some s.draw, retest := false }) s with draw := s.draw + 1 }

/-- A unit's record as it passes a self-test; one that was FAILED starts afresh. -/
def NbUnit.passedTest (was : Bool) (v : NbUnit) : NbUnit :=
  { v with
    state := .inService, tested := true, lastFault := if was then none else v.lastFault
    migrating := v.migrating && !was, stranded := v.stranded && !was }

end

section
variable {u : Nat} {s : State}

theorem findUnit_testWritten :
    findUnit (testWritten u s) u = { findUnit s u with testLines := some s.draw, retest := false } := by
  show findUnit (updUnit u (fun v => { v with testLines := some s.draw, retest := false }) s) u = _
  rw [findUnit_updUnit fun _ => by rfl]

/-- The outcomes of a self-test of a unit that `was` FAILED or not. -/
theorem selfTested_eq {was : Bool} (hwas : decide ((findUnit s u).state = .failed) = was) (b : Bool) : selfTested u b s =
    if was && !(findUnit s u).retest then s
    else if b then
      if was then settleReserve (recordUnit u (updUnit u (NbUnit.passedTest was) (testWritten u s)))
      else updUnit u (NbUnit.passedTest was) (testWritten u s)
    else if was then testWritten u s
    else failUnit u (testWritten u s) := by
  rw [← hwas]
  rfl

theorem selfTested_leaves (hf : (findUnit s u).state = .failed) (hr : (findUnit s u).retest = false) (b : Bool) :
    selfTested u b s = s := by
  rw [selfTested_eq (decide_eq_true hf), hr]
  rfl

theorem selfTested_again (hf : (findUnit s u).state = .failed) (hr : (findUnit s u).retest = true) (b : Bool) : selfTested u b s =
    if b then settleReserve (recordUnit u (updUnit u (NbUnit.passedTest true) (testWritten u s))) else testWritten u s := by
  rw [selfTested_eq (decide_eq_true hf), hr]
  rfl

theorem selfTested_tests (hf : (findUnit s u).state ≠ .failed) (b : Bool) : selfTested u b s =
    if b then updUnit u (NbUnit.passedTest false) (testWritten u s) else failUnit u (testWritten u s) := by
  rw [selfTested_eq (decide_eq_false hf)]
  rfl

/-! ### Runs of self-tests (R222) -/

/-- A unit's record after a run of tests that found the units in `bad` bad and left the bytes of draw `n` in the test lines. -/
def NbUnit.runTested (bad : List Nat) (n : Nat) (v : NbUnit) : NbUnit :=
  if bad.contains v.unit || v.state = .failed then v
  else { v with state := .inService, tested := true, testLines := some n }

/-- The state in which a run of tests has put the units it did not find bad in service. -/
def runTested (bad : List Nat) (s : State) : State :=
  { s with unitsPassed := true, units := s.units.map (NbUnit.runTested bad s.draw), draw := s.draw + 1 }

/-- A unit that a run of tests found bad is withdrawn, unless it has been. -/
def failTested (s : State) (u : Nat) : State := if (findUnit s u).state = .failed then s else failUnit u s

theorem state_runTested {bad : List Nat} (hu : u ∉ bad) :
    (findUnit (runTested bad s) u).state = if (findUnit s u).state = .failed then .failed else .inService := by
  have hkey : ((fun x : NbUnit => decide (x.unit = u)) ∘ NbUnit.runTested bad s.draw) = fun x => decide (x.unit = u) := by
    funext v
    dsimp only [Function.comp_apply, NbUnit.runTested]
    split <;> rfl
  have hfind : (runTested bad s).units.find? (fun x => x.unit = u) =
      (s.units.find? fun x => x.unit = u).map (NbUnit.runTested bad s.draw) := by
    rw [runTested, List.find?_map, hkey]
  unfold findUnit
  rw [hfind]
  cases hold : s.units.find? fun x => x.unit = u with
  | none =>
    show UnitState.inService = if (s.freshUnit u).state = .failed then .failed else .inService
    rw [if_neg]
    unfold State.freshUnit
    dsimp only
    split <;> decide
  | some v =>
    have hv := List.find?_some hold
    have hnot : bad.contains v.unit = false := by
      rw [of_decide_eq_true hv]
      simpa using hu
    show (v.runTested bad s.draw).state = if v.state = .failed then .failed else .inService
    rw [NbUnit.runTested, hnot, Bool.false_or]
    by_cases hf : v.state = .failed <;> simp [hf]

theorem failTested_keeps : (failTested s u).mem = s.mem ∧ (failTested s u).testRun = s.testRun := by
  unfold failTested
  split
  · exact ⟨rfl, rfl⟩
  · exact failUnit_keeps u s

theorem state_failTested (v : Nat) :
    (findUnit (failTested s u) v).state = if v = u then .failed else (findUnit s v).state := by
  unfold failTested
  split
  · rename_i hf
    split
    · rename_i hv
      rw [hv, hf]
    · rfl
  · split
    · rename_i hv
      obtain ⟨m, hm⟩ := findUnit_failUnit u s
      rw [hv, hm]
      rfl
    · rename_i hv
      rw [findUnit_failUnit_other u s hv]

theorem foldl_failTested_keeps (bad : List Nat) :
    (bad.foldl failTested s).mem = s.mem ∧ (bad.foldl failTested s).testRun = s.testRun :=
  List.foldlRecOn (motive := fun t : State => t.mem = s.mem ∧ t.testRun = s.testRun) bad failTested ⟨rfl, rfl⟩
    fun _ ht _ _ => ⟨failTested_keeps.1.trans ht.1, failTested_keeps.2.trans ht.2⟩

theorem state_foldl_failTested (bad : List Nat) (v : Nat) :
    (findUnit (bad.foldl failTested s) v).state = if v ∈ bad then .failed else (findUnit s v).state := by
  induction bad generalizing s with
  | nil => rfl
  | cons u us ih =>
    rw [List.foldl_cons, ih, state_failTested]
    by_cases hus : v ∈ us <;> by_cases hu : v = u <;> simp [hus, hu]

theorem testRunDone_none (bad : List (BitVec 18)) (h : s.testRun = []) : testRunDone bad s = s := by
  simp only [testRunDone, h]

theorem testRunDone_ends (bad : List (BitVec 18)) (h : s.testRun ≠ []) : testRunDone bad s =
    s.testRun.foldl (fun s o => finish o stOk 0 (toLE 4 bad.length) s)
      { (bad.map (·.toNat)).foldl failTested (runTested (bad.map (·.toNat)) s) with testRun := [] } := by
  have hrun : ((bad.map (·.toNat)).foldl failTested (runTested (bad.map (·.toNat)) s)).testRun = s.testRun :=
    (foldl_failTested_keeps _).2
  conv => rhs; rw [← hrun, ← List.length_map (f := (·.toNat))]
  unfold testRunDone
  split
  · rename_i hnil
    exact absurd hnil h
  · rfl

end

/-! ### Repair reads (R216, R217) -/

section
variable {u g : Nat} {s : State} {r : RepairRead} {k : Option Task} {rest : List (Nat × Option Task)}

/-- The address of a granule of a unit (R206). -/
def granuleAddr (u g : Nat) : Nat := mkAddr (unitLayer u) (unitColumn u + g / 64) (1024 * (g % 64))

/-- A repair read finds a granule good: every line can be read, and the bytes have the CRC of the seal. -/
structure GranuleGood (s : State) (u g : Nat) (r : RepairRead) : Prop where
  readable : r.uncorrectable = false
  lines : ∀ i, i < 16 → lineState s (lineOf (granuleAddr u g + 64 * i)) = some .valid
  crc : ∀ x, (findUnit s u).seals.find? (fun x => x.1 = g) = some x →
    x.2 = crc32c ((List.range 1024).map fun n => memGet s.mem (granuleAddr u g + n))

/-- The repair read's own test. -/
def granuleBad (s : State) (u g : Nat) (r : RepairRead) : Bool :=
  r.uncorrectable
    || ((List.range 16).any fun i => lineState s (lineOf (granuleAddr u g + 64 * i)) ≠ some .valid)
    || (match (findUnit s u).seals.find? fun x => x.1 = g with
        | some x => x.2 ≠ crc32c ((List.range 1024).map fun n => memGet s.mem (granuleAddr u g + n))
        | none => false)

theorem granuleBad_eq_false_iff : granuleBad s u g r = false ↔ GranuleGood s u g r := by
  have hlines : ((List.range 16).any fun i => decide (lineState s (lineOf (granuleAddr u g + 64 * i)) ≠ some .valid)) = false ↔
      ∀ i, i < 16 → lineState s (lineOf (granuleAddr u g + 64 * i)) = some .valid := by simp
  unfold granuleBad
  rw [Bool.or_eq_false_iff, Bool.or_eq_false_iff, hlines, and_assoc]
  refine Iff.trans (and_congr_right' (and_congr_right' ?_)) ⟨fun ⟨h, k, m⟩ => ⟨h, k, m⟩, fun h => ⟨h.1, h.2, h.3⟩⟩
  cases (findUnit s u).seals.find? fun x => x.1 = g with
  | none => exact ⟨fun _ _ => nofun, fun _ => rfl⟩
  | some x => simp

/-- The first repair read of a unit is over. -/
def repairEnded (u : Nat) (rest : List (Nat × Option Task)) (s : State) : State :=
  updUnit u (fun v => { v with repairing := rest }) s

/-- The task of a repair read that is over waits before the others, and starts if the unit may. -/
def taskAgain (u : Nat) (k : Option Task) (rest : List (Nat × Option Task)) (s : State) : State :=
  startTask .none u (updUnit u (fun v => { v with waitingTasks := k.toList ++ v.waitingTasks }) (repairEnded u rest s))

/-- A read that could not be corrected is counted. -/
def countedUncorr (u : Nat) (r : RepairRead) (s : State) : State :=
  if r.uncorrectable then updLayer (unitLayer u - 14) (fun r => { r with uncorr := r.uncorr + 1 }) s else s

theorem repairRead_none (h : (findUnit s u).repairing = []) : repairRead u r s = s := by
  simp only [repairRead, h]

section
variable (h : (findUnit s u).repairing = (g, k) :: rest)
include h

theorem repairRead_eq : repairRead u r s =
    if granuleBad s u g r then
      match pageOfGranule (recordSeal u g 2 (repairEnded u rest (countedUncorr u r s))) u g with
      | some p => damagedPage p (recordSeal u g 2 (repairEnded u rest (countedUncorr u r s)))
      | none => recordSeal u g 2 (repairEnded u rest (countedUncorr u r s))
    else if 0 < r.corrected then
      taskAgain u k rest (Nat.repeat (fun s => addToBucket (unitLayer u - 14)
        (updLayer (unitLayer u - 14) (fun r => { r with corr := r.corr + 1 }) s)) r.corrected (recordSeal u g 0 s))
    else taskAgain u k rest (unitFault u (recordSeal u g 1 s)) := by
  unfold repairRead
  rw [h]
  rfl

theorem repairRead_fault (hg : GranuleGood s u g r) (hc : r.corrected = 0) :
    repairRead u r s = taskAgain u k rest (unitFault u (recordSeal u g 1 s)) := by
  rw [repairRead_eq h, granuleBad_eq_false_iff.2 hg, hc]
  rfl

theorem repairRead_corrected (hg : GranuleGood s u g r) (hc : 0 < r.corrected) : repairRead u r s =
    taskAgain u k rest (Nat.repeat (fun s => addToBucket (unitLayer u - 14)
      (updLayer (unitLayer u - 14) (fun r => { r with corr := r.corr + 1 }) s)) r.corrected (recordSeal u g 0 s)) := by
  rw [repairRead_eq h, granuleBad_eq_false_iff.2 hg, if_neg Bool.false_ne_true, if_pos hc]

section
variable {t : State} (hg : ¬GranuleGood s u g r) (ht : t = recordSeal u g 2 (repairEnded u rest (countedUncorr u r s)))
include hg ht

theorem repairRead_noPage (hp : pageOfGranule t u g = none) : repairRead u r s = t := by
  have hbad : granuleBad s u g r = true := by simpa using mt granuleBad_eq_false_iff.1 hg
  rw [repairRead_eq h, if_pos hbad, ← ht, hp]

theorem repairRead_damaged {p : BitVec 4 × U32 × Nat × Nat × Nat} (hp : pageOfGranule t u g = some p) :
    repairRead u r s = damagedPage p t := by
  have hbad : granuleBad s u g r = true := by simpa using mt granuleBad_eq_false_iff.1 hg
  rw [repairRead_eq h, if_pos hbad, ← ht, hp]

end
end
end

/-! ### Migrated units (R220, R245) -/

theorem unitMigrated_empty {u : Nat} {s : State} {p : Partition} (hpages : pagesOn s u = []) (ho : unitOwner s u = some p) :
    unitMigrated u s = endJob (some p.num) (.migrate u) (settleReserve (updUnit u (fun v => { v with migrating := false }) s)) := by
  have hown : unitOwner (settleReserve (updUnit u (fun v => { v with migrating := false }) s)) u = some p :=
    ((settleReserve_outward _).unitOwner u).trans ho
  simp only [unitMigrated, hpages, List.foldl_nil, List.any_nil, Bool.false_eq_true, if_false, hown]

/-! ### Recomputed pages (R246) -/

/-- The length of a sequence that a recomputation gives back to its layers. -/
def formerLength (c : Cache) (seq : Nat) : Nat := maxNat ((c.layers.filter fun r => r.seq = seq).map (·.length))

/-- The addresses of the token ids of a sequence's positions from `a` on. -/
def recomputeTokens (x : Partition) (c : Cache) (rec : SeqRec) (seq a : Nat) : List Nat :=
  tokenAddrs x rec a (formerLength c seq - a)

/-- The state once the token ids have been read. -/
def tokensFetched (e : ReadErrors) (x : Partition) (c : Cache) (rec : SeqRec) (seq a : Nat) (s : State) : State :=
  (readLines 3 [] e ((((recomputeTokens x c rec seq a).map lineOf).eraseDups).filter fun l => lineState s l = some .valid) s).2

/-- The runs of RECOMP over the sequence cut at `a`, with no step and no action in the way; none where one cannot end. -/
def regenerated (n : BitVec 4) (h : U32) (c : Cache) (seq a : Nat) (s : State) : Option State :=
  regenAll n h seq c.rchunk ((c.layers.filter fun r => r.seq = seq).map fun r => (seq, r.kmax, r.vmax))
    (formerLength c seq - a) a (formerLength c seq)
    (truncateSeq n c seq a (updCtx n c.ctx.toNat (fun k => { k with step := none })
      (updPart n (fun p => { p with acting := none, current := c.ctx }) s)))

/-- The step, the present context and the action that were set aside come back. -/
def takenBack (n : BitVec 4) (x : Partition) (c : Cache) (s : State) : State :=
  freshPart n (updPart n (fun p => { p with current := x.current, acting := x.acting })
    (updCtx n c.ctx.toNat (fun k => { k with step := (x.context c.ctx.toNat).step }) s))

/-- The abandoned step of a context starts again, where there is one. -/
def stepRestarted (n : BitVec 4) (ctx : Nat) (saved : Option RunningStep) (s : State) : State :=
  match findPart s n, saved with
  | some p, some r => updCtx n ctx (fun k => { k with
      step := some { RunningStep.start p ctx r.batch with replays := r.replays } }) s
  | _, _ => s

/-- The recomputation has ended: one record, and the action is over. -/
def recomputeEnded (n : BitVec 4) (h : U32) (c : Cache) (seq a : Nat) (bad : List (Nat × Nat)) (s : State) : State :=
  endJob (some n) (.recompute h seq a bad) (record 0x05 0x22 1 (some n)
    (toLE 4 h.toNat ++ toLE 4 seq ++ toLE 8 a ++ toLE 8 (formerLength c seq - a)) s)

theorem stepRestarted_none (n : BitVec 4) (ctx : Nat) (s : State) : stepRestarted n ctx none s = s := by
  unfold stepRestarted
  split
  · rename_i hr
    cases hr
  · rfl

theorem stepRestarted_some {n : BitVec 4} {s : State} {p : Partition} (ctx : Nat) (r : RunningStep) (hp : findPart s n = some p) :
    stepRestarted n ctx (some r) s = updCtx n ctx (fun k => { k with
      step := some { RunningStep.start p ctx r.batch with replays := r.replays } }) s := by
  simp only [stepRestarted, hp]

theorem pageRecompute_idle {n : BitVec 4} {s : State} {x : Partition} (e : ReadErrors) (hx : findPart s n = some x)
    (ha : x.acting = none) : pageRecompute n e s = s := by
  simp only [pageRecompute, hx, ha]

section
variable {n : BitVec 4} {e : ReadErrors} {s : State} {x : Partition} {h : U32} {seq a : Nat} {bad : List (Nat × Nat)}
  {cause : Option Nat} {c : Cache} {rec : SeqRec} (hx : findPart s n = some x)
  (ha : x.acting = some ⟨.recompute h seq a bad, cause, true⟩) (hc : x.cache h = some c)
  (hrec : c.seqs.find? (fun r => r.seq = seq) = some rec)
include hx ha hc hrec

theorem pageRecompute_eq : pageRecompute n e s =
    if !(linesIn (tokensFetched e x c rec seq a s) (some .lost) (recomputeTokens x c rec seq a)).isEmpty then
      replayPart n (closeJob (some n) (.recompute h seq a bad) 2
        (bad.foldl (fun s y => losePage n h seq y.1 y.2 s) (tokensFetched e x c rec seq a s)))
    else match regenerated n h c seq a (tokensFetched e x c rec seq a s) with
      | none => tokensFetched e x c rec seq a s
      | some t => recomputeEnded n h c seq a bad
          (stepRestarted n c.ctx.toNat (x.context c.ctx.toNat).step (takenBack n x c t)) := by
  simp only [pageRecompute, takenBack, hx, ha, hc, Option.bind_some, hrec]
  rfl

theorem pageRecompute_tokensLost
    (hl : linesIn (tokensFetched e x c rec seq a s) (some .lost) (recomputeTokens x c rec seq a) ≠ []) :
    pageRecompute n e s = replayPart n (closeJob (some n) (.recompute h seq a bad) 2
      (bad.foldl (fun s y => losePage n h seq y.1 y.2 s) (tokensFetched e x c rec seq a s))) := by
  rw [pageRecompute_eq hx ha hc hrec, if_pos]
  simpa using hl

section
variable (hl : linesIn (tokensFetched e x c rec seq a s) (some .lost) (recomputeTokens x c rec seq a) = [])
include hl

theorem pageRecompute_cannotEnd (hr : regenerated n h c seq a (tokensFetched e x c rec seq a s) = none) :
    pageRecompute n e s = tokensFetched e x c rec seq a s := by
  rw [pageRecompute_eq hx ha hc hrec, hl, hr]
  rfl

theorem pageRecompute_ends {t : State} (hr : regenerated n h c seq a (tokensFetched e x c rec seq a s) = some t) :
    pageRecompute n e s = recomputeEnded n h c seq a bad
      (stepRestarted n c.ctx.toNat (x.context c.ctx.toNat).step (takenBack n x c t)) := by
  rw [pageRecompute_eq hx ha hc hrec, hl, hr]
  rfl

end
end

/-! ### O46 -/

/-- Settles O46: each clause is the lemma above about its row; what a unit's record comes to rests on what a withdrawal leaves of the
other units' records, and on what records and the reserve leave of all of them (`Outward`). -/
theorem unitsAreTestedAndRepaired : Obligations.UnitsAreTestedAndRepaired := by
  unfold Obligations.UnitsAreTestedAndRepaired
  refine ⟨?test, ?failed, ?run, ?noRun, ?repair, ?noRepair, ?migrated, ?recompute, ?idle⟩
  case test =>
    intro s u hs v s1
    have hexec : ∀ b, exec (.unitSelfTest u b) s = happens (selfTested u.toNat b s) := fun b => next_event hs
    refine ⟨fun hf hr b => by rw [hexec, selfTested_leaves hf hr], fun h => ?_,
      fun hf hr => by rw [hexec, selfTested_again hf hr]; rfl, fun hf => by rw [hexec, selfTested_tests hf]; rfl⟩
    rw [hexec]
    by_cases hf : v.state = .failed
    · have hr : v.retest = true := h.resolve_left fun hne => hne hf
      refine ⟨_, by rw [selfTested_again hf hr, if_pos rfl, if_pos hf], rfl, ?_⟩
      rw [findUnit_updUnit fun _ => by rfl, findUnit_testWritten]
      simp [NbUnit.passedTest, hf, v]
    · refine ⟨_, by rw [selfTested_tests hf, if_pos rfl, if_neg hf], rfl, ?_⟩
      rw [findUnit_updUnit fun _ => by rfl, findUnit_testWritten]
      simp [NbUnit.passedTest, hf, v]
  case failed =>
    intro s u
    obtain ⟨m, hm⟩ := findUnit_failUnit u s
    rw [hm]
    exact ⟨rfl, rfl, rfl, rfl, (failUnit_keeps u s).1, fun v hv => findUnit_failUnit_other u s hv⟩
  case run =>
    intro s bad hs hrun
    have hexec : exec (.clearingTestRunDone bad) s = happens (testRunDone bad s) := next_event hs
    rw [hexec]
    refine ⟨{ (bad.map (·.toNat)).foldl failTested (runTested (bad.map (·.toNat)) s) with testRun := [] },
      by rw [testRunDone_ends bad hrun], rfl, (foldl_failTested_keeps _).1, fun u hu => ?_, fun u hu => ?_⟩
    · exact (state_foldl_failTested ..).trans (if_pos (List.mem_map_of_mem hu))
    · have hnot : u.toNat ∉ bad.map (·.toNat) := fun hmem => by
        obtain ⟨v, hv, heq⟩ := List.mem_map.1 hmem
        exact hu (BitVec.eq_of_toNat_eq heq ▸ hv)
      exact ((state_foldl_failTested ..).trans (if_neg hnot)).trans (state_runTested hnot)
  case noRun =>
    intro s bad hs hrun
    have hexec : exec (.clearingTestRunDone bad) s = happens (testRunDone bad s) := next_event hs
    rw [hexec, testRunDone_none bad hrun]
  case repair =>
    intro s u r g k rest hs hrep a good next again found
    have hexec : exec (.repairReadDone u r) s = happens (repairRead u.toNat r s) := next_event hs
    have hgood : good ↔ GranuleGood s u.toNat g r := ⟨fun ⟨h, k, m⟩ => ⟨h, k, m⟩, fun h => ⟨h.readable, h.lines, h.crc⟩⟩
    rw [hexec]
    refine ⟨fun hg hc => by rw [repairRead_fault hrep (hgood.1 hg) hc]; rfl,
      fun hg hc => by rw [repairRead_corrected hrep (hgood.1 hg) hc]; rfl, fun hg t ht => ⟨fun hp => ?_, fun p hp => ?_⟩⟩
    · rw [repairRead_noPage hrep (mt hgood.2 hg) ht hp]
    · rw [repairRead_damaged hrep (mt hgood.2 hg) ht hp]
  case noRepair =>
    intro s u r hs hrep
    have hexec : exec (.repairReadDone u r) s = happens (repairRead u.toNat r s) := next_event hs
    rw [hexec, repairRead_none hrep]
  case migrated =>
    intro s u p hs hpages ho
    have hexec : exec (.unitMigrationDone u) s = happens (unitMigrated u.toNat s) := next_event hs
    rw [hexec, unitMigrated_empty hpages ho]
  case recompute =>
    intro s n e x h seq a bad cause c rec hs hx ha hc hrec old len s1 ran recomputed back
    have hexec : exec (.pageRecompute ⟨n, e⟩) s = happens (pageRecompute n e s) := next_event hs
    rw [hexec]
    refine ⟨fun hl => ?_, fun hl => ⟨fun hr => ?_, fun t hr => ⟨fun hstep => ?_, fun r p hstep hp => ?_⟩⟩⟩
    · rw [pageRecompute_tokensLost hx ha hc hrec hl]
      rfl
    · rw [pageRecompute_cannotEnd hx ha hc hrec hl hr]
      rfl
    · rw [pageRecompute_ends hx ha hc hrec hl hr, hstep, stepRestarted_none]
      rfl
    · rw [pageRecompute_ends hx ha hc hrec hl hr, hstep, stepRestarted_some (s := takenBack n x c t) _ _ hp]
      rfl
  case idle =>
    intro s n e x hs hx ha
    have hexec : exec (.pageRecompute ⟨n, e⟩) s = happens (pageRecompute n e s) := next_event hs
    rw [hexec, pageRecompute_idle e hx ha]

end Sys2Proof.Machine
end

section
/-! SUPPORT and the SETTLED STATEMENT of the division of positions among the members of a group (O44). -/
namespace Sys2Proof.Machine

/-! ### Positions and their ordinals (R230, R233) -/

section
variable {x : Spread} (hc : 1 ≤ x.chunk)
include hc

theorem Spread.holds_iff (p : Nat) : x.holds p = true ↔ p / x.chunk % x.g = x.r := by
  simp [Spread.holds, Nat.ne_of_gt hc]

theorem Spread.ordinal_eq (p : Nat) : x.ordinal p = x.chunk * (p / x.chunk / x.g) + p % x.chunk := if_neg (Nat.ne_of_gt hc)

theorem Spread.position_eq (q : Nat) : x.position q = (q / x.chunk * x.g + x.r) * x.chunk + q % x.chunk :=
  if_neg (Nat.ne_of_gt hc)

theorem Spread.held_eq (len : Nat) : x.held len =
    len / (x.chunk * x.g) * x.chunk + min x.chunk (len % (x.chunk * x.g) - x.r * x.chunk) := if_neg (Nat.ne_of_gt hc)

/-- The chunk of an ordinal's position, and its place in the chunk. -/
theorem Spread.position_div_mod (q : Nat) :
    x.position q / x.chunk = x.g * (q / x.chunk) + x.r ∧ x.position q % x.chunk = q % x.chunk := by
  rw [Spread.position_eq hc, Nat.div_mod_unique hc]
  exact ⟨by rw [Nat.add_comm, Nat.mul_comm x.chunk, Nat.mul_comm x.g], Nat.mod_lt q hc⟩

theorem Spread.position_ordinal {p : Nat} (h : x.holds p = true) : x.position (x.ordinal p) = p := by
  have hplace : p % x.chunk < x.chunk := Nat.mod_lt p hc
  have hdiv : (x.chunk * (p / x.chunk / x.g) + p % x.chunk) / x.chunk = p / x.chunk / x.g := by
    rw [Nat.mul_add_div hc, Nat.div_eq_of_lt hplace, Nat.add_zero]
  have hmod : (x.chunk * (p / x.chunk / x.g) + p % x.chunk) % x.chunk = p % x.chunk := by rw [Nat.mul_add_mod, Nat.mod_mod]
  rw [Spread.ordinal_eq hc, Spread.position_eq hc, hdiv, hmod, ← (Spread.holds_iff hc p).1 h, Nat.div_add_mod', Nat.div_add_mod']

theorem Spread.holds_round (a : Nat) {t : Nat} (ht : t < x.chunk * x.g) :
    x.holds (x.chunk * x.g * a + t) = true ↔ x.r * x.chunk ≤ t ∧ t < x.r * x.chunk + x.chunk := by
  have hchunk : t / x.chunk < x.g := Nat.div_lt_of_lt_mul ht
  rw [Spread.holds_iff hc, Nat.mul_assoc, Nat.mul_add_div hc, Nat.mul_add_mod, Nat.mod_eq_of_lt hchunk, Nat.div_eq_iff hc]
  omega

variable (hr : x.r < x.g)
include hr

theorem Spread.holds_position (q : Nat) : x.holds (x.position q) = true := by
  rw [Spread.holds_iff hc, (Spread.position_div_mod hc q).1, Nat.mul_add_mod, Nat.mod_eq_of_lt hr]

theorem Spread.ordinal_position (q : Nat) : x.ordinal (x.position q) = q := by
  obtain ⟨hdiv, hmod⟩ := Spread.position_div_mod hc q
  rw [Spread.ordinal_eq hc, hdiv, hmod, Nat.mul_add_div (Nat.zero_lt_of_lt hr), Nat.div_eq_of_lt hr, Nat.add_zero, Nat.div_add_mod]

/-! ### The number of held positions below a length (R233) -/

/-- A member holds its chunk of every whole round, and of a begun round what lies past the chunks of the members before it. -/
theorem Spread.held_round (a : Nat) {t : Nat} (ht : t ≤ x.chunk * x.g) :
    x.held (x.chunk * x.g * a + t) = a * x.chunk + min x.chunk (t - x.r * x.chunk) := by
  have hround : 0 < x.chunk * x.g := Nat.mul_pos hc (Nat.zero_lt_of_lt hr)
  rw [Spread.held_eq hc, Nat.mul_add_div hround, Nat.mul_add_mod]
  rcases Nat.lt_or_eq_of_le ht with hlt | rfl
  · rw [Nat.div_eq_of_lt hlt, Nat.mod_eq_of_lt hlt, Nat.add_zero]
  · have hmine : x.r * x.chunk + x.chunk ≤ x.chunk * x.g := by
      rw [← Nat.succ_mul, Nat.mul_comm x.chunk]
      exact Nat.mul_le_mul_right x.chunk hr
    rw [Nat.div_self hround, Nat.mod_self, Nat.succ_mul]
    omega

/-- One position more is one held position more where the member holds it. -/
theorem Spread.held_succ (len : Nat) : x.held (len + 1) = x.held len + if x.holds len = true then 1 else 0 := by
  have ht : len % (x.chunk * x.g) < x.chunk * x.g := Nat.mod_lt len (Nat.mul_pos hc (Nat.zero_lt_of_lt hr))
  rw [← Nat.div_add_mod len (x.chunk * x.g), Nat.add_assoc, Spread.held_round hc hr _ ht, Spread.held_round hc hr _ (Nat.le_of_lt ht)]
  simp only [Spread.holds_round hc _ ht]
  split <;> omega

theorem Spread.held_eq_count (len : Nat) : x.held len = ((List.range len).filter x.holds).length := by
  induction len with
  | zero => simp [Spread.held_eq hc]
  | succ len ih =>
    rw [Spread.held_succ hc hr, ih, List.range_succ, List.filter_append, List.length_append]
    by_cases h : x.holds len <;> simp [h]

end

/-- Settles O44: a position lies in a round of chunks, in a chunk of the round and at a place in the chunk; the count goes up by one
with every position held. -/
theorem positionsAreDividedExactly : Obligations.PositionsAreDividedExactly := by
  unfold Obligations.PositionsAreDividedExactly
  intro g r chunk hg hr hc x
  have hmember (k p : Nat) : (⟨g, k, chunk⟩ : Spread).holds p = true ↔ p / chunk % g = k := Spread.holds_iff hc p
  refine ⟨fun q => ⟨Spread.holds_position hc hr q, Spread.ordinal_position hc hr q⟩, fun p => Spread.position_ordinal hc, fun p => ?_,
    Spread.held_eq_count hc hr⟩
  exact ⟨p / chunk % g, Nat.mod_lt _ hg, (hmember _ p).2 rfl, fun k _ h => ((hmember k p).1 h).symm⟩

end Sys2Proof.Machine
end

section
/-! SUPPORT for key-value caches (O42, O43): what a partition's cache and a cache's layer record are after an update, and what the
freeing and sealing of pages leave as it was. -/
namespace Sys2Proof.Machine

/-! ### A cache after an update -/

theorem findPart_congr {s t : State} (h : t.partitions = s.partitions) (n : BitVec 4) : findPart t n = findPart s n := by
  rw [findPart, h, findPart]

theorem findPart_num {s : State} {n : BitVec 4} {x : Partition} (hx : findPart s n = some x) : x.num = n :=
  of_decide_eq_true (List.find?_some (p := fun p : Partition => decide (p.num = n)) hx)

theorem Partition.cache_updWhere (p : Partition) (h : U32) (f : Cache → Cache) (hf : ∀ c, (f c).handle = c.handle) :
    Partition.cache { p with caches := updWhere (fun c => c.handle = h) f p.caches } h = (p.cache h).map f :=
  find?_updWhere (fun c : Cache => c.handle = h) f (fun c => by rw [hf]) p.caches

section
variable {s : State} {n : BitVec 4} {h : U32} {y : Partition} {m : Cache}

/-- A cache found after an update of it is what the update makes of the cache that was there. -/
theorem cache_of_updCache {f : Cache → Cache} (hf : ∀ c, (f c).handle = c.handle) (hy : findPart (updCache n h f s) n = some y)
    (hm : y.cache h = some m) : ∃ x k, findPart s n = some x ∧ x.cache h = some k ∧ m = f k := by
  unfold updCache at hy
  rw [findPart_updPart n (fun p => { p with caches := updWhere (fun c => c.handle = h) f p.caches }) (fun _ => rfl)] at hy
  obtain ⟨x, hx, rfl⟩ := Option.map_eq_some_iff.1 hy
  rw [Partition.cache_updWhere x h f hf] at hm
  obtain ⟨k, hk, rfl⟩ := Option.map_eq_some_iff.1 hm
  exact ⟨x, k, hx, hk, rfl⟩

/-- The cache that an update leaves, on any state with the partitions it leaves. -/
theorem updated_cache {t : State} {f : Cache → Cache} {x : Partition} {k : Cache}
    (ht : t.partitions = (updCache n h f s).partitions) (hf : ∀ c, (f c).handle = c.handle) (hx : findPart s n = some x)
    (hk : x.cache h = some k) (hy : findPart t n = some y) (hm : y.cache h = some m) : m = f k := by
  rw [findPart_congr ht] at hy
  obtain ⟨x', k', hx', hk', rfl⟩ := cache_of_updCache hf hy hm
  cases hx.symm.trans hx'
  cases hk.symm.trans hk'
  rfl

end

theorem updCache_partitions_congr {s t : State} (n : BitVec 4) (h : U32) (f : Cache → Cache) (hp : t.partitions = s.partitions) :
    (updCache n h f t).partitions = (updCache n h f s).partitions :=
  congrArg (updWhere _ _) hp

/-! ### A layer record after an update -/

theorem find?_upsert_const {α : Type} {p : α → Bool} {d : α} (l : List α) (hd : p d = true) :
    (upsert p (fun _ => d) d l).find? p = some d := by
  have hkeys : upsert p (fun _ => d) d l = upsert p (fun x => if p x then d else x) d l := by
    simp only [upsert, updWhere, hd, if_true]
    congr 2
    funext x
    split <;> rfl
  have hf : ∀ x, p (if p x then d else x) = p x := fun x => by
    split
    · rw [hd, ‹p x = true›]
    · rfl
  rw [hkeys, find?_upsert l hf hd]
  split
  · rfl
  · rename_i hn
    rcases hfind : l.find? p with _ | x
    · rfl
    · exact absurd (hfind ▸ List.find?_some hfind) hn

theorem Cache.layerRec_key (k : Cache) (seq layer : Nat) :
    (k.layerRec seq layer).seq = seq ∧ (k.layerRec seq layer).layer = layer := by
  unfold Cache.layerRec
  generalize hfind : k.layers.find? _ = found
  rcases found with _ | r
  · exact ⟨rfl, rfl⟩
  · simpa using List.find?_some hfind

/-- A record that has been put is the one found under its key. -/
theorem Cache.layerRec_putLayer (k : Cache) {r : LayerRec} {seq layer : Nat} (hs : r.seq = seq) (hl : r.layer = layer) :
    (k.putLayer r).layerRec seq layer = r := by
  subst hs hl
  have hfind := find?_upsert_const (p := fun x : LayerRec => x.seq = r.seq && x.layer = r.layer) (d := r) k.layers (by simp)
  rw [Cache.layerRec, Cache.putLayer, hfind, Option.getD_some]

/-! ### What pages freed and sealed leave as it was (R208, R217) -/

theorem openPage_frame (c : Cache) (root : Bool) (loc : Nat) (s : State) :
    openPage c root loc s = { s with units := (openPage c root loc s).units } := by
  unfold openPage
  split <;> rfl

theorem openPartial_frame (c : Cache) (e : PageEntry) (held i : Nat) (s : State) :
    openPartial c e held i s = { s with units := (openPartial c e held i s).units } := by
  unfold openPartial
  split <;> rfl

theorem reseal_frame (p : Partition) (c : Cache) (r : LayerRec) (held i : Nat) (s : State) :
    reseal p c r held i s = { s with units := (reseal p c r held i s).units } := by
  unfold reseal
  dsimp only
  split
  · rfl
  · rw [updUnit, openPartial_frame]

theorem freePage_partitions (p : Partition) (c : Cache) (root : Bool) (loc : Nat) (s : State) :
    (freePage p c root loc s).partitions = s.partitions := by
  rw [freePage, openPage_frame]
  rfl

theorem freePages_partitions (p : Partition) (c : Cache) (l : List (Bool × Nat)) (s : State) :
    (freePages p c l s).partitions = s.partitions :=
  List.foldlRecOn (motive := fun t : State => t.partitions = s.partitions) l _ rfl fun t ht x _ =>
    (freePage_partitions p c x.1 x.2 t).trans ht

theorem resealFrom_partitions (p : Partition) (c : Cache) (r : LayerRec) (held first : Nat) (s : State) :
    (resealFrom p c r held first s).partitions = s.partitions :=
  List.foldlRecOn (motive := fun t : State => t.partitions = s.partitions) _ _ rfl fun t ht j _ => by
    rw [reseal_frame, ht]

end Sys2Proof.Machine
end

section
/-! SUPPORT and the SETTLED STATEMENT of caches and their sequences (O42): what each command's own part answers, and what truncation and
release leave of a sequence. -/
namespace Sys2Proof.Machine

/-! ### CACHE_OPEN (R227) -/

section
variable {s : State} {p : Packet} {x : Partition} {k : Cache} (q : QueuePair) (hx : findPart s (pktPart p) = some x)
  (hk : k = cacheOf p (freshHandle (s.partitions.flatMap fun p => p.caches.map (·.handle)) s))
include hx hk

theorem cmdCacheOpen_badField {e : BitVec 16} (he : checkCacheOpen s x p k = some e) : cmdCacheOpen q p s = fail e s := by
  subst hk
  simp only [cmdCacheOpen, hx, he]

/-- Once the fields have passed, room decides. -/
theorem cmdCacheOpen_passed (hpass : checkCacheOpen s x p k = none) : cmdCacheOpen q p s =
    if 16 ≤ x.caches.length ∨ poolPages s x k = 0 ∨ entryLimit ≤ entriesUsed s then fail stNoResource s
    else ok (toLE 4 k.handle.toNat ++ toLE 4 (poolPages s x k) ++ toLE 4 k.pp)
      (updPart x.num (fun p => { p with caches := p.caches ++ [k] }) { s with draw := s.draw + 1 }) := by
  subst hk
  simp only [cmdCacheOpen, hx, hpass, Bool.or_eq_true, decide_eq_true_eq, or_assoc]
  rfl

end

section
variable {s : State} {p : Packet} {x : Partition} {k : Cache} (q : QueuePair) (hx : findPart s (pktPart p) = some x)
  (hk : x.cache (par32 p 0) = some k)
include hx hk

/-! ### CACHE_CLOSE (R228, R247) -/

theorem cmdCacheClose_removes (hn : planNames x k.handle = false) (hw : (x.context k.ctx.toNat).working = false) :
    cmdCacheClose q p s = ok [] (k.migrations.foldl (fun s m => finish m.1 stOk 0 (toLE 4 m.2.2.2.2) s)
      (settleReserve (updPart x.num (fun p => { p with caches := p.caches.filter fun m => m.handle ≠ k.handle })
        (freePages x k k.used s)))) := by
  simp only [cmdCacheClose, hx, hk, Option.bind_some, Option.map_some, hn, hw, Bool.or_self, Bool.false_eq_true, if_false]

theorem cmdCacheClose_refused (h : planNames x k.handle = true ∨ (x.context k.ctx.toNat).working = true) :
    cmdCacheClose q p s = fail stNotPermitted s := by
  simp only [cmdCacheClose, hx, hk, Option.bind_some, Option.map_some, Bool.or_eq_true, if_pos h]

/-! ### CACHE_SEQ (R238, R239) -/

omit hx hk in
/-- The fields of a CACHE_SEQ that are checked whatever OP asks for. -/
theorem cacheSeq_fields (hseq : par p 4 4 < k.maxseq) {n : Nat} (hop : par p 8 1 = n) (hn : n ≤ 3) :
    (k.maxseq ≤ par p 4 4 || 3 < par p 8 1) = false := by
  simp
  omega

theorem cmdCacheSeq_waits (h : (x.context k.ctx.toNat).step.isSome = true) : cmdCacheSeq q p s =
    (.waits, updPart x.num (fun x => { x with deferred := x.deferred ++ [p] }) s) := by
  simp only [cmdCacheSeq, hx, hk, Option.bind_some, Option.map_some, if_pos h]

theorem cmdCacheSeq_now (h : (x.context k.ctx.toNat).step = none) : cmdCacheSeq q p s = cacheSeqNow p s := by
  simp only [cmdCacheSeq, hx, hk, Option.bind_some, Option.map_some, h, Option.isSome_none, Bool.false_eq_true, if_false]

section
variable (hseq : par p 4 4 < k.maxseq)
include hseq

theorem cacheSeqNow_opens (hop : par p 8 1 = 0) (hnew : k.isOpen (par p 4 4) = false)
    (htok : checkTokens x (par p 24 8) (par p 32 8) = none) : cacheSeqNow p s = ok [] (updCache (pktPart p) k.handle (fun k => { k with
      seqs := k.seqs ++ [⟨par p 4 4, par p 24 8, if par p 24 8 = 0 then 0 else par p 32 8, 0⟩]
      layers := k.layers.filter fun r => r.seq ≠ par p 4 4 }) s) := by
  simp only [cacheSeqNow, hx, hk, Option.bind_some, Option.map_some, cacheSeq_fields hseq hop (by decide), if_pos hop, htok, hnew,
    Bool.false_eq_true, if_false]

theorem cacheSeqNow_notOpen (hlo : 1 ≤ par p 8 1) (hhi : par p 8 1 ≤ 3) (hno : k.isOpen (par p 4 4) = false) :
    cacheSeqNow p s = fail stNotPermitted s := by
  have hop : ¬par p 8 1 = 0 := by omega
  simp only [cacheSeqNow, hx, hk, Option.bind_some, Option.map_some, cacheSeq_fields hseq rfl hhi, if_neg hop, hno, Bool.not_false,
    Bool.false_eq_true, if_false, if_true]

section
variable (hopen : k.isOpen (par p 4 4) = true)
include hopen

theorem cacheSeqNow_truncates (hop : par p 8 1 = 1) : cacheSeqNow p s = ok [] (settleReserve
    ((List.range k.nlayer).foldl (fun s l => truncateLayer (pktPart p) k.handle (par p 4 4) l (par p 16 8) false s) s)) := by
  have h0 : ¬par p 8 1 = 0 := by omega
  simp only [cacheSeqNow, hx, hk, Option.bind_some, Option.map_some, cacheSeq_fields hseq hop (by decide), if_neg h0, if_pos hop,
    hopen, Bool.not_true, Bool.false_eq_true, if_false, truncateSeq]

theorem cacheSeqNow_releases (hop : par p 8 1 = 2) : cacheSeqNow p s =
    ok [] (settleReserve (releaseSeq (pktPart p) k.handle (par p 4 4) s)) := by
  have h0 : ¬par p 8 1 = 0 := by omega
  have h1 : ¬par p 8 1 = 1 := by omega
  simp only [cacheSeqNow, hx, hk, Option.bind_some, Option.map_some, cacheSeq_fields hseq hop (by decide), if_neg h0, if_neg h1,
    if_pos hop, hopen, Bool.not_true, Bool.false_eq_true, if_false]

/-- TOKENS with a count within the array. -/
theorem cacheSeqNow_tokens (hop : par p 8 1 = 3) (htok : checkTokens x (par p 24 8) (par p 32 8) = none) {size : Nat}
    (hsize : (if par p 24 8 = 0 then ((k.seqs.find? fun r => r.seq = par p 4 4).getD ⟨par p 4 4, 0, 0, 0⟩).tokSize
      else par p 32 8) = size)
    (hcount : par p 16 8 ≤ size / 4) : cacheSeqNow p s = ok [] (updCache (pktPart p) k.handle (fun k => { k with
      seqs := k.seqs.map fun r => if r.seq = par p 4 4 then { r with
        tokAddr := if par p 24 8 = 0 then r.tokAddr else par p 24 8, tokSize := size, tokCount := par p 16 8 } else r }) s) := by
  have h0 : ¬par p 8 1 = 0 := by omega
  have h1 : ¬par p 8 1 = 1 := by omega
  have h2 : ¬par p 8 1 = 2 := by omega
  simp only [cacheSeqNow, hx, hk, Option.bind_some, Option.map_some, cacheSeq_fields hseq hop (by decide), if_neg h0, if_neg h1,
    if_neg h2, hopen, Bool.not_true, Bool.false_eq_true, if_false, htok, hsize, if_neg (Nat.not_lt.2 hcount), updWhere,
    decide_eq_true_eq]

end
end

/-! ### CACHE_SEQ_QUERY and CACHE_STATUS (R229, R248) -/

omit hx hk in
theorem Cache.isOpen_eq_isSome {seq : Nat} (hseq : seq < k.maxseq) :
    k.isOpen seq = (k.seqs.find? fun r => r.seq = seq).isSome := by
  rw [Bool.eq_iff_iff, List.find?_isSome, Cache.isOpen, decide_eq_true hseq, Bool.true_and, List.any_eq_true]

section
variable (hseq : par p 4 4 < k.maxseq) (hmax : par p 12 4 ≤ 2 ^ 24)
include hseq hmax

omit hx hk in
theorem cacheSeqQuery_fields (hl : par p 8 2 < k.nlayer ∨ par p 8 2 = 0xFFFF) :
    (k.maxseq ≤ par p 4 4 || (k.nlayer ≤ par p 8 2 && par p 8 2 ≠ 0xFFFF) || 2 ^ 24 < par p 12 4) = false := by
  simp only [Bool.or_eq_false_iff, Bool.and_eq_false_iff, decide_eq_false_iff_not]
  omega

/-- Of all layers: whether the sequence is open, its pages and its tokens. -/
theorem cmdCacheSeqQuery_sequence (hl : par p 8 2 = 0xFFFF) {o : Option SeqRec} (ho : k.seqs.find? (fun r => r.seq = par p 4 4) = o) :
    cmdCacheSeqQuery q p s = ok (toLE 1 (if o.isSome then 1 else 0) ++ zeros 3 ++
      toLE 4 ((k.layers.filter fun r => r.seq = par p 4 4).map fun r => r.pages.length).sum ++ toLE 8 (o.elim 0 (·.tokCount))) s := by
  simp only [cmdCacheSeqQuery, hx, hk, Option.bind_some, Option.map_some, cacheSeqQuery_fields hseq hmax (.inr hl), if_pos hl,
    Bool.false_eq_true, if_false, Cache.isOpen_eq_isSome hseq, ho]
  cases o <;> rfl

section
variable (hl : par p 8 2 < k.nlayer) (hone : par p 8 2 ≠ 0xFFFF)
include hl hone

theorem cmdCacheSeqQuery_layer (hc : par p 12 4 = 0) : let r := k.layerRec (par p 4 4) (par p 8 2)
    cmdCacheSeqQuery q p s =
      ok (toLE 8 r.length ++ toLEInt 2 r.kmax ++ toLEInt 2 r.vmax ++ toLE 4 r.pages.length) s := by
  simp only [cmdCacheSeqQuery, hx, hk, Option.bind_some, Option.map_some, cacheSeqQuery_fields hseq hmax (.inl hl), if_neg hone,
    if_pos hc, Bool.false_eq_true, if_false]

theorem cmdCacheSeqQuery_entries {b : Option (List Nat)} (hc : par p 12 4 ≠ 0) (ha : par p 16 8 % 8 = 0)
    (hs : 8 * par p 12 4 ≤ par p 24 4) (hb : paramBuffer s q p (par p 16 8) (par p 24 4) = .ok b) :
    let r := k.layerRec (par p 4 4) (par p 8 2)
    let n := min (par p 28 4 + par p 12 4) r.pages.length - par p 28 4
    cmdCacheSeqQuery q p s = ok (toLE 8 r.length ++ toLEInt 2 r.kmax ++ toLEInt 2 r.vmax ++ toLE 4 n)
      (putBuffer q p b (par p 16 8) ((List.range n).flatMap fun i =>
        entryBytes s x k r ((k.spread s x.num).held r.length) (par p 28 4 + i)) s) := by
  simp only [cmdCacheSeqQuery, hx, hk, Option.bind_some, Option.map_some, cacheSeqQuery_fields hseq hmax (.inl hl), if_neg hone,
    if_neg hc, Bool.false_eq_true, if_false, copyOut, if_neg (not_not_intro ha), if_neg (Nat.not_lt.2 hs), hb]

end
end

theorem cmdCacheStatus_reported : cmdCacheStatus q p s = ok (toLE 4 (freePool s x k).length ++ toLE 4 (freeRoot x k k.used).length ++
    toLE 4 k.seqs.length ++ toLE 4 (min (2 ^ 32 - 1) (entryLimit - entriesUsed s))) s := by
  simp only [cmdCacheStatus, hx, hk, Option.bind_some, Option.map_some]

end

/-! ### What truncation and release leave (R239) -/

section
variable {s : State} {n : BitVec 4} {h : U32} {x : Partition} {k : Cache} (hx : findPart s n = some x) (hk : x.cache h = some k)
include hx hk

/-- A truncation leaves a layer that is short enough; of a longer one it leaves a record of the new length. -/
theorem truncateLayer_cases (seq layer len : Nat) :
    (k.layerRec seq layer).length ≤ len ∧ truncateLayer n h seq layer len false s = s ∨
    len < (k.layerRec seq layer).length ∧ ∃ r : LayerRec, r.seq = seq ∧ r.layer = layer ∧ r.length = len ∧
      (truncateLayer n h seq layer len false s).partitions = (updCache n h (fun c => c.putLayer r) s).partitions := by
  obtain ⟨hseq, hlayer⟩ := k.layerRec_key seq layer
  simp only [truncateLayer, hx, hk, Bool.false_eq_true, if_false]
  split
  · exact .inl ⟨‹_›, rfl⟩
  · refine .inr ⟨Nat.lt_of_not_le ‹_›, ?_⟩
    rw [resealFrom_partitions]
    refine ⟨_, ?seq, ?layer, ?length, updCache_partitions_congr n h _ ?parts⟩
    case parts =>
      dsimp only
      split
      · exact freePages_partitions ..
      · exact (writeCells_wrote ..).partitions.trans (freePages_partitions ..)
    case seq => exact hseq
    case layer => exact hlayer
    case length => rfl

theorem truncateLayer_length {seq layer len : Nat} {y : Partition} {m : Cache}
    (hy : findPart (truncateLayer n h seq layer len false s) n = some y) (hm : y.cache h = some m) :
    (m.layerRec seq layer).length = min len (k.layerRec seq layer).length := by
  rcases truncateLayer_cases hx hk seq layer len with ⟨hle, hsame⟩ | ⟨hlt, r, hs, hl, hlen, hparts⟩
  · rw [hsame] at hy
    cases hx.symm.trans hy
    cases hk.symm.trans hm
    rw [Nat.min_eq_right hle]
  · rw [updated_cache hparts (fun _ => rfl) hx hk hy hm, k.layerRec_putLayer hs hl, hlen, Nat.min_eq_left (Nat.le_of_lt hlt)]

theorem releaseSeq_partitions (seq : Nat) : (releaseSeq n h seq s).partitions = (updCache n h (fun c => { c with
    seqs := c.seqs.filter fun q => q.seq ≠ seq, layers := c.layers.filter fun r => r.seq ≠ seq }) s).partitions := by
  simp only [releaseSeq, hx, hk]
  exact updCache_partitions_congr n h _ (freePages_partitions ..)

end

/-- A release without the partition or the cache leaves the state, so where a cache is found afterwards it was there before. -/
theorem releaseSeq_removes {s : State} {n : BitVec 4} {h : U32} {seq : Nat} {y : Partition} {m : Cache}
    (hy : findPart (releaseSeq n h seq s) n = some y) (hm : y.cache h = some m) :
    m.isOpen seq = false ∧ ∀ r ∈ m.layers, r.seq ≠ seq := by
  rcases hx : findPart s n with _ | x
  · simp only [releaseSeq, hx] at hy
    cases hy
  · rcases hk : x.cache h with _ | k
    · simp only [releaseSeq, hx, hk] at hy
      cases hy
      cases hk.symm.trans hm
    · rw [updated_cache (releaseSeq_partitions hx hk seq) (fun _ => rfl) hx hk hy hm]
      simp [Cache.isOpen]

/-- Settles O42: each clause is the lemma above about its command, or about truncation or release. -/
theorem cachesOpenAndCloseSequences : Obligations.CachesOpenAndCloseSequences := by
  unfold Obligations.CachesOpenAndCloseSequences
  refine ⟨?opened, ?closed, ?sequence, fun s n h seq layer len x y k m hx hk => truncateLayer_length hx hk,
    fun s n h seq y m => releaseSeq_removes, ?query, ?status⟩
  case opened =>
    intro s q p c x hf hx h opt k
    have hx' : findPart (fetchedState p s) (pktPart c) = some x := hx
    have hk : k = cacheOf c h := rfl
    refine ⟨fun e he => hf.fails (body := cmdCacheOpen) (cmdCacheOpen_badField q hx' hk he), fun hpass hn hp he => ?_,
      fun hpass h => ?_⟩
    · have hroom : ¬(16 ≤ x.caches.length ∨ poolPages s x k = 0 ∨ entryLimit ≤ entriesUsed s) := by
        rintro (h | h | h)
        · exact Nat.not_le.2 hn h
        · exact hp h
        · exact Nat.not_le.2 he h
      exact hf.completes (body := cmdCacheOpen) ((cmdCacheOpen_passed q hx' hk hpass).trans (if_neg hroom))
    · exact hf.fails (body := cmdCacheOpen) ((cmdCacheOpen_passed q hx' hk hpass).trans (if_pos h))
  case closed =>
    intro s q p c x k hf hx hk
    have hx' : findPart (fetchedState p s) (pktPart c) = some x := hx
    exact ⟨fun hn hw => hf.completes (body := cmdCacheClose) (cmdCacheClose_removes q hx' hk hn hw),
      fun h => hf.fails (body := cmdCacheClose) (cmdCacheClose_refused q hx' hk h)⟩
  case sequence =>
    intro s q p c x k hf hx hk
    have hx' : findPart (fetchedState p s) (pktPart c) = some x := hx
    refine ⟨fun hstep => ?waits, fun hstep hseq => ?now⟩
    case waits =>
      have hrun : exec (.cacheSeq p) s = .next (settle (deliver c (cmdCacheSeq q c (fetchedState p s)))) := hf.runs cmdCacheSeq
      rw [hrun, cmdCacheSeq_waits q hx' hk hstep, deliver_waits, findPart_num hx]
      rfl
    case now =>
      have hnow := cmdCacheSeq_now q hx' hk hstep
      have hok {t : State} (h : cacheSeqNow c (fetchedState p s) = ok [] t) : exec (.cacheSeq p) s = completes p [] t :=
        hf.completes (body := cmdCacheSeq) (hnow.trans h)
      refine ⟨fun hop hnew htok => hok (cacheSeqNow_opens hx' hk hseq hop hnew htok),
        fun hop hopen => hok (cacheSeqNow_truncates hx' hk hseq hopen hop),
        fun hop hopen => hok (cacheSeqNow_releases hx' hk hseq hopen hop), fun hop hopen ha htok hcount => ?_,
        fun hop ha o ho hcount => ?_,
        fun hlo hhi hno => hf.fails (body := cmdCacheSeq) (hnow.trans (cacheSeqNow_notOpen hx' hk hseq hlo hhi hno))⟩
      · have htokens := cacheSeqNow_tokens hx' hk hseq hopen hop htok (if_neg ha) hcount
        simp only [if_neg ha] at htokens
        exact hok htokens
      · have hopen : k.isOpen (par c 4 4) = true := by rw [k.isOpen_eq_isSome hseq, ho, Option.isSome_some]
        have htok : checkTokens x (par c 24 8) (par c 32 8) = none := if_pos ha
        have htokens := cacheSeqNow_tokens hx' hk hseq hopen hop htok (size := o.tokSize) (by rw [if_pos ha, ho, Option.getD_some]) hcount
        simp only [if_pos ha] at htokens
        exact hok htokens
  case query =>
    intro s q p c x k hf hx hk hseq hmax
    have hx' : findPart (fetchedState p s) (pktPart c) = some x := hx
    refine ⟨fun hl r hr => hf.completes (body := cmdCacheSeqQuery) (cmdCacheSeqQuery_sequence q hx' hk hseq hmax hl hr),
      fun hl hr => hf.completes (body := cmdCacheSeqQuery) (cmdCacheSeqQuery_sequence q hx' hk hseq hmax hl hr),
      fun hl hone => ⟨fun hc => hf.completes (body := cmdCacheSeqQuery) (cmdCacheSeqQuery_layer q hx' hk hseq hmax hl hone hc),
        fun b hc ha hs hb =>
          hf.completes (body := cmdCacheSeqQuery) (cmdCacheSeqQuery_entries q hx' hk hseq hmax hl hone hc ha hs hb)⟩⟩
  case status =>
    intro s q p c x k hf hx hk
    exact hf.completes (body := cmdCacheStatus) (cmdCacheStatus_reported (s := fetchedState p s) q hx hk)

end Sys2Proof.Machine
end

section
/-! SUPPORT for the moves of pages (O43): where the lines of a page lie, and what the copy of one line and of a page leave in memory and
tags. -/
namespace Sys2Proof.Machine

/-! ### Lines of a page (R180, R206, R232, R236) -/

theorem regionAddrFrom_aligned (ts : List Nat) (cf cc : Nat) {n l x : Nat} (hx : 64 ∣ x) : 64 ∣ regionAddrFrom ts cf cc n l x := by
  have hseg : ∀ l, 64 ∣ segLen l := fun l => by
    unfold segLen
    split <;> decide
  have haddr : ∀ l core {off}, 64 ∣ off → 64 ∣ mkAddr l core off := fun l core off h => by
    unfold mkAddr
    omega
  induction n generalizing l x with
  | zero => exact haddr l 0 (Nat.dvd_zero 64)
  | succ n ih =>
    rw [regionAddrFrom]
    split
    · exact haddr _ _ ((Nat.dvd_mod_iff (hseg l)).2 hx)
    · exact ih (Nat.dvd_sub hx (Nat.dvd_mul_left_of_dvd (hseg l) cc))

/-- Every line of a page begins at a line of the device. -/
theorem pageAddr_aligned (x : Partition) (k : Cache) (root : Bool) (loc a : Nat) : 64 ∣ pageAddr x k root loc (64 * a) := by
  unfold pageAddr
  split
  · split
    · exact regionAddrFrom_aligned _ _ _ (by omega)
    · exact Nat.dvd_zero 64
  · dsimp only [mkAddr]
    omega

theorem lineOf_add {a j : Nat} (ha : 64 ∣ a) (hj : j < 64) : lineOf (a + j) = lineOf a := by
  unfold lineOf
  omega

/-! ### Lines written or lost (R184, R189, R197) -/

theorem deadLine_congr {s t : State} (hl : t.layers = s.layers) (hc : t.channels = s.channels) (hp : t.power = s.power) (l : Nat) :
    deadLine t l = deadLine s l := by
  unfold deadLine withdrawnLine layerState unreachableCore leftBehind plotsBad
  rw [hl, hc, hp]

/-- `t` comes from `s` by writes to the lines `L`, or their loss: what holds of every other line, and which lines are dead, stays. -/
structure OnLines (L : Nat → Prop) (s t : State) : Prop where
  sound : Sound s → Sound t
  dead : ∀ l, deadLine t l = deadLine s l
  mem : Sound s → ∀ a, ¬L (lineOf a) → memGet t.mem a = memGet s.mem a
  tags : Sound s → ∀ l, ¬L l → stateOf t.tags l = stateOf s.tags l

namespace OnLines
variable {L M : Nat → Prop} {s t u : State}

theorem refl : OnLines L s s := ⟨id, fun _ => rfl, fun _ _ _ => rfl, fun _ _ _ => rfl⟩

theorem trans (h : OnLines L s t) (k : OnLines L t u) : OnLines L s u where
  sound hs := k.sound (h.sound hs)
  dead l := (k.dead l).trans (h.dead l)
  mem hs a ha := (k.mem (h.sound hs) a ha).trans (h.mem hs a ha)
  tags hs l hl := (k.tags (h.sound hs) l hl).trans (h.tags hs l hl)

theorem mono (h : OnLines L s t) (hLM : ∀ l, L l → M l) : OnLines M s t :=
  ⟨h.sound, h.dead, fun hs a ha => h.mem hs a (mt (hLM _) ha), fun hs l hl => h.tags hs l (mt (hLM _) hl)⟩

theorem lineState (h : OnLines L s t) (hs : Sound s) {l : Nat} (hl : ¬L l) : Machine.lineState t l = Machine.lineState s l := by
  rw [Machine.lineState, h.dead, h.tags hs l hl, Machine.lineState]

end OnLines

theorem loseLine_onLines (gen : Bool) (l : Nat) (s : State) : OnLines (· = l) s (loseLine gen l s) where
  sound hs := ⟨hs.1, tagPut_rising _ hs.2⟩
  dead _ := rfl
  mem _ _ _ := rfl
  tags hs _ hk := stateOf_tagPut_other hs.2 hk

section
variable {s : State} {l : Nat} {bytes : List Byte} (gen : Bool) (hb : bytes.length = 64)
include hb

theorem lineOf_of_mem_lineCells {c : Host.Cell} (hc : c ∈ lineCells l bytes) : lineOf c.1 = l := by
  have hin : c.1 ∈ (lineCells l bytes).map Prod.fst := List.mem_map_of_mem hc
  rw [lineCells_fst hb] at hin
  obtain ⟨i, hi, hci⟩ := List.mem_map.1 hin
  rw [List.mem_range] at hi
  rw [← hci, lineOf]
  omega

theorem lineCells_pairwise : (lineCells l bytes).Pairwise fun x y => x.1 ≠ y.1 := by
  rw [← List.pairwise_map (f := Prod.fst) (R := fun x y => x ≠ y), lineCells_fst hb]
  exact List.pairwise_map.2 (List.nodup_range.imp fun hne h => hne (Nat.add_left_cancel h))

/-- A write of one whole line. -/
theorem writeCells_lineCells : writeCells gen (lineCells l bytes) s = writeLine gen s l (lineCells l bytes) := by
  have hline : ∀ c ∈ lineCells l bytes, lineOf c.1 = l := fun c => lineOf_of_mem_lineCells hb
  have hconst : ((lineCells l bytes).map fun c => lineOf c.1) = List.replicate 64 l := by
    rw [List.map_eq_replicate_iff.2 hline, lineCells, List.length_zip, List.length_map, List.length_range, hb, Nat.min_self]
  have hone : (List.replicate 64 l).eraseDups = [l] := by simp [List.replicate_succ, List.eraseDups_cons]
  have hall : (lineCells l bytes).filter (fun c => lineOf c.1 = l) = lineCells l bytes :=
    List.filter_eq_self.2 fun c hc => decide_eq_true (hline c hc)
  rw [writeCells, hconst, hone, List.foldl_cons, List.foldl_nil, hall]

theorem writeLine_onLines : OnLines (· = l) s (writeLine gen s l (lineCells l bytes)) := by
  have hself : lineOf (64 * l) = l := by rw [lineOf]; omega
  have hwrote : Wrote (fun a => lineOf a = l) s (writeLine gen s l (lineCells l bytes)) :=
    writeLine_wrote hself hself fun c => lineOf_of_mem_lineCells hb
  have hkept := kept_writeLine gen s l (lineCells l bytes) (Kept.refl s)
  refine ⟨fun hs => ⟨hwrote.form hs.1, hkept.tags hs.2⟩,
    deadLine_congr hwrote.layers (by rw [hwrote.frame]) (by rw [hwrote.frame]),
    fun hs a ha => hwrote.lines hs.1 a fun b hb he => ha (he.trans hb), fun hs k hk => ?_⟩
  by_cases hdead : deadLine s l = true
  · rw [writeLine_dead hdead]
  · rw [stateOf, tagOf_writeLine (Bool.eq_false_iff.2 hdead) (lineCells_pairwise hb) hs.2, if_neg hk, stateOf]

theorem memGet_writeLine_line (hs : Sound s) (hdead : deadLine s l = false) {j : Nat} (hj : j < 64) :
    memGet (writeLine gen s l (lineCells l bytes)).mem (64 * l + j) = nth bytes j 0 :=
  memGet_writeLine_mem hdead (lineCells_pairwise hb) hs.1 (mem_lineCells hb hj)

end

/-! ### The copy of one line (R244) -/

/-- The line at `src` copied to `dst`: a valid line with its bytes, a lost line as lost. -/
def copyLine (gen : Bool) (src dst : Nat) (s : State) : State :=
  match lineState s (lineOf src) with
  | some .valid => writeCells gen (cellsAt ((List.range 64).map fun j => dst + j) (readAt s ((List.range 64).map fun j => src + j))) s
  | some .lost => loseLine gen (lineOf dst) s
  | none => s

theorem copyPage_eq (x : Partition) (k : Cache) (e : PageEntry) (w : Bool × Nat) (s : State) : copyPage x k e w s =
    (List.range (k.page / 64)).foldl
      (fun s i => copyLine x.gen (e.addr x k (64 * i)) (pageAddr x k w.1 w.2 (64 * i)) s) s := rfl

section
variable {s : State} {src dst : Nat} (gen : Bool) (hd : 64 ∣ dst)
include hd

/-- The bytes of a valid line. -/
theorem copyLine_valid (hv : lineState s (lineOf src) = some .valid) : copyLine gen src dst s =
    writeLine gen s (lineOf dst) (lineCells (lineOf dst) (readAt s ((List.range 64).map fun j => src + j))) := by
  have hdst : dst = 64 * lineOf dst := (Nat.mul_div_cancel' hd).symm
  rw [← writeCells_lineCells gen (by simp [readAt]), lineCells, ← hdst]
  simp only [copyLine, hv, cellsAt]

theorem copyLine_onLines : OnLines (· = lineOf dst) s (copyLine gen src dst s) := by
  rcases hv : lineState s (lineOf src) with _ | _ | _
  · simp only [copyLine, hv]
    exact .refl
  · rw [copyLine_valid gen hd hv]
    exact writeLine_onLines gen (by simp [readAt])
  · simp only [copyLine, hv]
    exact loseLine_onLines ..

theorem memGet_copyLine (hs : Sound s) (hv : lineState s (lineOf src) = some .valid) (hdead : deadLine s (lineOf dst) = false) {j : Nat}
    (hj : j < 64) : memGet (copyLine gen src dst s).mem (dst + j) = memGet s.mem (src + j) := by
  have hdst : dst + j = 64 * lineOf dst + j := by rw [lineOf, Nat.mul_div_cancel' hd]
  rw [copyLine_valid gen hd hv, hdst, memGet_writeLine_line gen (by simp [readAt]) hs hdead hj]
  simp [readAt, nth, hj]

end

/-! ### The copy of a page (R244) -/

section
variable {s : State} {src dst : Nat → Nat} {n : Nat} (gen : Bool) (hsrc : ∀ a, 64 ∣ src a) (hdst : ∀ a, 64 ∣ dst a)
  (happart : ∀ a b, a < n → b < n → lineOf (src a) ≠ lineOf (dst b) ∧ (lineOf (dst a) = lineOf (dst b) → a = b))
include hsrc hdst happart

/-- Lines copied one after another, from lines that none of the copies lies on. -/
theorem foldl_copyLine (hs : Sound s) {m : Nat} (hm : m ≤ n) :
    let t := (List.range m).foldl (fun s i => copyLine gen (src i) (dst i) s) s
    OnLines (fun l => ∃ a < m, l = lineOf (dst a)) s t ∧
      ∀ a < m, ∀ j < 64, lineState s (lineOf (src a)) = some .valid → deadLine s (lineOf (dst a)) = false →
        memGet t.mem (dst a + j) = memGet s.mem (src a + j) := by
  induction m with
  | zero => exact ⟨.refl, fun a ha => absurd ha (Nat.not_lt_zero a)⟩
  | succ m ih =>
    obtain ⟨hlines, hbytes⟩ := ih (Nat.le_of_succ_le hm)
    rw [List.range_succ, List.foldl_append, List.foldl_cons, List.foldl_nil]
    generalize (List.range m).foldl (fun s i => copyLine gen (src i) (dst i) s) s = t at hlines hbytes
    have hlast := copyLine_onLines (s := t) (src := src m) gen (hdst m)
    refine ⟨(hlines.mono fun l ⟨a, ha, hl⟩ => ⟨a, Nat.lt_succ_of_lt ha, hl⟩).trans
      (hlast.mono fun l hl => ⟨m, Nat.lt_succ_self m, hl⟩), fun a ha j hj hv hdead => ?_⟩
    rcases Nat.lt_succ_iff_lt_or_eq.1 ha with hlt | rfl
    · have hother : lineOf (dst a + j) ≠ lineOf (dst m) := by
        rw [lineOf_add (hdst a) hj]
        exact fun he => Nat.ne_of_lt hlt ((happart a m (by omega) (by omega)).2 he)
      rw [hlast.mem (hlines.sound hs) _ hother, hbytes a hlt j hj hv hdead]
    · have hsource : ¬∃ b < a, lineOf (src a) = lineOf (dst b) := fun ⟨b, hb, he⟩ => (happart a b (by omega) (by omega)).1 he
      rw [memGet_copyLine gen (hdst a) (hlines.sound hs) ((hlines.lineState hs hsource).trans hv) ((hlines.dead _).trans hdead) hj,
        hlines.mem hs]
      rwa [lineOf_add (hsrc a) hj]

end

theorem copyPage_partitions (x : Partition) (k : Cache) (e : PageEntry) (w : Bool × Nat) (s : State) :
    (copyPage x k e w s).partitions = s.partitions := by
  refine List.foldlRecOn (motive := fun t : State => t.partitions = s.partitions) _ _ rfl fun t ht i _ => ?_
  dsimp only
  split
  · exact (writeCells_wrote ..).partitions.trans ht
  · exact ht
  · exact ht

/-- A page that is freed reads zero; every other line stays. -/
theorem memGet_freePage (x : Partition) (k : Cache) (e : PageEntry) (s : State) (a : Nat) : memGet (freePage x k e.root e.loc s).mem a =
    if (e.lines x k).contains (lineOf a) then 0 else memGet s.mem a := by
  rw [freePage, openPage_frame]
  exact memGet_freeLines (fun l => (e.lines x k).contains l) s a

end Sys2Proof.Machine
end

section
/-! SUPPORT and the SETTLED STATEMENT of pages that move between pool and spill region (O43): what CACHE_MIGRATE answers, the switch of a
page to its copy, and the end of a migration. -/
namespace Sys2Proof.Machine

/-! ### CACHE_MIGRATE (R243) -/

section
variable {s : State} {p : Packet} {x : Partition} {k : Cache} (q : QueuePair) (hx : findPart s (pktPart p) = some x)
  (hk : x.cache (par32 p 0) = some k)
include hx hk

theorem cmdCacheMigrate_notOpen (hno : k.isOpen (par p 4 4) = false) : cmdCacheMigrate q p s = fail stNotPermitted s := by
  simp only [cmdCacheMigrate, hx, hk, Option.bind_some, Option.map_some, hno, Bool.not_false, if_true]

/-- Of an open sequence, with fields that pass, room decides. -/
theorem cmdCacheMigrate_passed (hopen : k.isOpen (par p 4 4) = true) (h1 : 1 ≤ par p 10 2) (hl : par p 8 2 + par p 10 2 ≤ k.nlayer)
    (hd : par p 12 1 ≤ 1) (hspill : par p 12 1 = 1 → k.spillreg ≠ none) (hc : par p 20 4 ≠ 0) :
    let root : Bool := decide (par p 12 1 = 1)
    let ms := moveList k (par p 4 4) (par p 8 2) (par p 10 2) (par p 16 4) (par p 20 4) root
    cmdCacheMigrate q p s =
      if (if root then (freeRoot x k k.used).length else (freePool s x k).length) < ms.length then fail stNoResource s
      else (.accepted, updCache (pktPart p) k.handle (fun k => { k with
          migrations := k.migrations ++ [(pktOrigin p, par p 4 4, par p 8 2, par p 10 2, 0)] })
        (ms.foldl (fun s m => startMove (pktPart p) k.handle (par p 4 4) m.1 m.2 root s) s)) := by
  have hfields : (k.nlayer ≤ par p 8 2 || par p 10 2 = 0 || k.nlayer < par p 8 2 + par p 10 2 || 1 < par p 12 1 ||
      (par p 12 1 = 1 && k.spillreg.isNone) || par p 20 4 = 0) = false := by
    simp only [Bool.or_eq_false_iff, Bool.and_eq_false_iff, decide_eq_false_iff_not, Option.isNone_eq_false_iff,
      Option.isSome_iff_ne_none]
    exact ⟨⟨⟨⟨⟨by omega, by omega⟩, by omega⟩, by omega⟩, Decidable.not_or_of_imp hspill⟩, hc⟩
  simp only [cmdCacheMigrate, hx, hk, Option.bind_some, Option.map_some, hopen, Bool.not_true, Bool.false_eq_true, if_false, hfields,
    decide_eq_true_eq]

end

/-! ### PAGE_SWITCH (R244) -/

/-- A layer record whose page `i` lies at `w`. -/
def LayerRec.switched (r : LayerRec) (i : Nat) (w : Bool × Nat) : LayerRec :=
  { r with pages := setAt r.pages i fun _ => ⟨w.1, w.2, none, false⟩ }

theorem LayerRec.nth_switched {r : LayerRec} {i : Nat} (hi : i < r.pages.length) (w : Bool × Nat) :
    nth (r.switched i w).pages i PageEntry.none = ⟨w.1, w.2, none, false⟩ := nth_setAt_same _ _ hi

/-- A cache whose page has been switched, and counted. -/
def Cache.switched (k : Cache) (r : LayerRec) (seq layer : Nat) : Cache :=
  { k.putLayer r with migrations := k.migrations.map (countMove seq layer) }

section
variable {s : State} {n : BitVec 4} {h : U32} {x : Partition} {k : Cache} (hx : findPart s n = some x) (hk : x.cache h = some k)
include hx hk

theorem pageSwitch_running (hstep : (x.context k.ctx.toNat).step.isSome = true) : pageSwitch n h s = s := by
  simp only [pageSwitch, hx, hk, Option.bind_some, Option.map_some, if_pos hstep]

theorem pageSwitch_single {seq layer i : Nat} (hstep : (x.context k.ctx.toNat).step = none) (hm : movingPages k = [(seq, layer, i)]) :
    pageSwitch n h s = switchPage n h seq layer i s := by
  simp only [pageSwitch, hx, hk, Option.bind_some, Option.map_some, hstep, Option.isSome_none, Bool.false_eq_true, if_false, hm,
    List.foldl_cons, List.foldl_nil]

section
variable {seq layer i : Nat} {e : PageEntry} {w : Bool × Nat} (he : e = nth (k.layerRec seq layer).pages i PageEntry.none)
  (hw : e.moving = some w) (hr : e.restart = false)
include he hw hr

/-- The page is copied, its old place freed, its entry and the counts of its migrations changed, and its granules sealed. -/
theorem switchPage_complete : let r := (k.layerRec seq layer).switched i w
    switchPage n h seq layer i s = reseal x k r ((k.spread s n).held r.length) i
      (updCache n h (fun c => c.switched r seq layer) (freePage x k e.root e.loc (copyPage x k e w s))) := by
  subst he
  simp only [switchPage, hx, hk, Option.bind_some, Option.map_some, hw, hr, Bool.false_eq_true, if_false]
  rfl

theorem switchPage_partitions : (switchPage n h seq layer i s).partitions =
    (updCache n h (fun c => c.switched ((k.layerRec seq layer).switched i w) seq layer) s).partitions := by
  rw [switchPage_complete hx hk he hw hr, reseal_frame]
  exact updCache_partitions_congr n h _ ((freePage_partitions ..).trans (copyPage_partitions ..))

theorem switchPage_mem : (switchPage n h seq layer i s).mem = (freePage x k e.root e.loc (copyPage x k e w s)).mem := by
  rw [switchPage_complete hx hk he hw hr, reseal_frame]
  rfl

/-- The entry and the migrations of the cache that is found after the switch. -/
theorem switchPage_cache (hi : i < (k.layerRec seq layer).pages.length) {y : Partition} {m : Cache}
    (hy : findPart (switchPage n h seq layer i s) n = some y) (hm : y.cache h = some m) :
    nth (m.layerRec seq layer).pages i PageEntry.none = ⟨w.1, w.2, none, false⟩ ∧
      m.migrations = k.migrations.map (countMove seq layer) := by
  obtain ⟨hseq, hlayer⟩ := k.layerRec_key seq layer
  have hput : (k.putLayer ((k.layerRec seq layer).switched i w)).layerRec seq layer = (k.layerRec seq layer).switched i w :=
    k.layerRec_putLayer hseq hlayer
  rw [updated_cache (switchPage_partitions hx hk he hw hr) (fun _ => rfl) hx hk hy hm]
  exact ⟨(congrArg (fun r => nth r.pages i PageEntry.none) hput).trans (LayerRec.nth_switched hi w), rfl⟩

/-- A valid line of the page reads at the new place as it read at the old one. -/
theorem memGet_switchPage (hs : Sound s) (hapart : ∀ a b, a < k.page / 64 → b < k.page / 64 →
      lineOf (e.addr x k (64 * a)) ≠ lineOf (pageAddr x k w.1 w.2 (64 * b)) ∧
      (lineOf (pageAddr x k w.1 w.2 (64 * a)) = lineOf (pageAddr x k w.1 w.2 (64 * b)) → a = b))
    {a j : Nat} (ha : a < k.page / 64) (hj : j < 64) (hv : lineState s (lineOf (e.addr x k (64 * a))) = some .valid)
    (hdead : deadLine s (lineOf (pageAddr x k w.1 w.2 (64 * a))) = false) :
    memGet (switchPage n h seq layer i s).mem (pageAddr x k w.1 w.2 (64 * a) + j) = memGet s.mem (e.addr x k (64 * a) + j) := by
  have hcopied := (foldl_copyLine x.gen (fun a => pageAddr_aligned x k e.root e.loc a) (fun a => pageAddr_aligned x k w.1 w.2 a)
    hapart hs (Nat.le_refl _)).2 a ha j hj hv hdead
  have hkept : (e.lines x k).contains (lineOf (pageAddr x k w.1 w.2 (64 * a) + j)) = false := by
    rw [lineOf_add (pageAddr_aligned x k w.1 w.2 a) hj]
    refine Bool.eq_false_iff.2 fun hin => ?_
    obtain ⟨b, hb, hbl⟩ := List.mem_map.1 (List.contains_iff_mem.1 hin)
    exact (hapart b a (List.mem_range.1 hb) ha).1 hbl
  rw [switchPage_mem hx hk he hw hr, memGet_freePage, hkept, if_neg Bool.false_ne_true, copyPage_eq]
  exact hcopied

end
end

/-! ### The end of a migration (R243) -/

section
variable {s : State} {o : Origin} {x : Partition} {k : Cache} {seq lf lc pages : Nat}
  (hfound : (s.partitions.flatMap fun x => x.caches.flatMap fun c => c.migrations.map fun m => (x, c, m)).find?
    (fun y => y.2.2.1 = o) = some (x, k, o, seq, lf, lc, pages))
include hfound

theorem migrationDone_complete (h : ∀ y ∈ movingPages k, ¬(y.1 = seq ∧ lf ≤ y.2.1 ∧ y.2.1 < lf + lc)) : migrationDone o s =
    finish o stOk 0 (toLE 4 pages)
      (updCache x.num k.handle (fun c => { c with migrations := c.migrations.erase (o, seq, lf, lc, pages) }) s) := by
  have hidle : ((movingPages k).any fun y => y.1 = seq && decide (lf ≤ y.2.1) && decide (y.2.1 < lf + lc)) = false := by
    simpa [and_assoc] using h
  simp only [migrationDone, hfound, hidle, Bool.false_eq_true, if_false]

theorem migrationDone_busy (h : ∃ y ∈ movingPages k, y.1 = seq ∧ lf ≤ y.2.1 ∧ y.2.1 < lf + lc) : migrationDone o s = s := by
  have hbusy : ((movingPages k).any fun y => y.1 = seq && decide (lf ≤ y.2.1) && decide (y.2.1 < lf + lc)) = true := by
    simpa [and_assoc] using h
  simp only [migrationDone, hfound, if_pos hbusy]

end

/-- Settles O43: each clause is the lemma above about its command or event. -/
theorem pagesMoveBetweenPoolAndSpill : Obligations.PagesMoveBetweenPoolAndSpill := by
  unfold Obligations.PagesMoveBetweenPoolAndSpill
  refine ⟨?migrate, ?running, ?switch, ?done⟩
  case migrate =>
    intro s q p c x k hf hx hk root ms
    have hx' : findPart (fetchedState p s) (pktPart c) = some x := hx
    refine ⟨fun hopen h1 hl hd hspill hc => ?_, fun hno => hf.fails (body := cmdCacheMigrate) (cmdCacheMigrate_notOpen q hx' hk hno)⟩
    have hpassed := cmdCacheMigrate_passed q hx' hk hopen h1 hl hd hspill hc
    refine ⟨fun hroom => ?_, fun hfull => hf.fails (body := cmdCacheMigrate) (hpassed.trans (if_pos hfull))⟩
    rw [← hf.origin]
    exact hf.accepts (body := cmdCacheMigrate) (hpassed.trans (if_neg (Nat.not_lt.2 hroom)))
  case running =>
    intro s n h x k hs hx hk hstep
    have hexec : exec (.pageSwitch n h) s = happens (pageSwitch n h s) := next_event hs
    rw [hexec, pageSwitch_running hx hk hstep]
  case switch =>
    intro s n h x k seq layer i e w hs hsound hx hk hstep hm hi he hw hr hapart
    have hexec : exec (.pageSwitch n h) s = happens (pageSwitch n h s) := next_event hs
    rw [hexec, pageSwitch_single hx hk hstep hm]
    exact ⟨_, rfl, fun y m => switchPage_cache hx hk he hw hr hi,
      fun a j => memGet_switchPage hx hk he hw hr hsound hapart⟩
  case done =>
    intro s qp tag x k seq lf lc pages hs hfound
    have hexec : exec (.migrationDone qp tag) s = happens (migrationDone ⟨qp, tag, false⟩ s) := next_event hs
    rw [hexec]
    exact ⟨fun h => congrArg happens (migrationDone_complete hfound h), fun h => congrArg happens (migrationDone_busy hfound h)⟩

end Sys2Proof.Machine
end

section
/-! SUPPORT for the links of the fabric (O52): what packets that are sent, records and the reckoning of the reserve leave of links,
routes and the device id. -/
namespace Sys2Proof.Machine

/-! ### A link after an update (R276) -/

theorem findLink_of_fabric {s t : State} (h : t.fabric = s.fabric) (n : Nat) : findLink t n = findLink s n := by
  rw [findLink, h, findLink]

section
variable {n : Nat} {f : Link → Link} (hf : ∀ l, (f l).num = l.num) (s : State)
include hf

theorem updLink_find : (updLink n f s).fabric.links.find? (fun l => l.num = n) = (s.fabric.links.find? fun l => l.num = n).map f :=
  find?_updWhere (fun l : Link => l.num = n) f (fun l => by rw [hf]) s.fabric.links

theorem findLink_updLink_same (h : ∃ l ∈ s.fabric.links, l.num = n) : findLink (updLink n f s) n = f (findLink s n) := by
  obtain ⟨l, hl⟩ := Option.isSome_iff_exists.1 (List.find?_isSome (xs := s.fabric.links)
    (p := fun l => l.num = n) |>.2 (by simpa using h))
  rw [findLink, updLink_find hf, findLink, hl]
  rfl

/-- A link that the device has is updated; one that it does not have stays as before training. -/
theorem findLink_updLink_cases : findLink (updLink n f s) n = f (findLink s n) ∨ findLink (updLink n f s) n = findLink s n := by
  rw [findLink, updLink_find hf, findLink]
  cases List.find? (fun l => decide (l.num = n)) s.fabric.links with
  | none => exact .inr rfl
  | some l => exact .inl rfl

theorem findLink_updLink_other {m : Nat} (h : m ≠ n) : findLink (updLink n f s) m = findLink s m := by
  rw [findLink, updLink_links, find?_updWhere_disjoint, findLink]
  intro l hl
  have hn : l.num = n := of_decide_eq_true hl
  simpa [hf, hn] using h.symm

end

/-! ### What flits that are queued, sent and acknowledged change (R272 to R274) -/

/-- From `k` the link `l` comes about by flits that are queued, sent and acknowledged: state, width, numbers received, failures and
peer are the same. -/
def Link.Carried (k l : Link) : Prop :=
  l = { k with txNext := l.txNext, acked := l.acked, replay := l.replay, queue := l.queue, credits := l.credits, owed := l.owed
               slots := l.slots, replays := l.replays, flitsTx := l.flitsTx, ackMax := l.ackMax, stalls := l.stalls }

namespace Link.Carried
variable {k l m : Link}

theorem refl (k : Link) : k.Carried k := rfl

theorem trans (h : k.Carried l) (h' : l.Carried m) : k.Carried m := by
  unfold Carried at *
  rw [h', h]

theorem num (h : k.Carried l) : l.num = k.num := by rw [h]
theorem state (h : k.Carried l) : l.state = k.state := by rw [h]
theorem width (h : k.Carried l) : l.width = k.width := by rw [h]
theorem rxNext (h : k.Carried l) : l.rxNext = k.rxNext := by rw [h]
theorem naked (h : k.Carried l) : l.naked = k.naked := by rw [h]
theorem closing (h : k.Carried l) : l.closing = k.closing := by rw [h]
theorem takes (h : k.Carried l) : l.takes = k.takes := by rw [Link.takes, Link.carries, h.state, h.closing, Link.takes, Link.carries]

end Link.Carried

/-- From `s` the state `t` comes about by flits that are queued, sent and acknowledged on the links `L`, and by what changes no link:
routes and the device id are the same. -/
structure CarriedOn (L : Nat → Prop) (s t : State) : Prop where
  links : ∀ n, (findLink s n).Carried (findLink t n)
  others : ∀ n, ¬L n → findLink t n = findLink s n
  routes : t.fabric.routes = s.fabric.routes
  devId : t.fabric.devId = s.fabric.devId

namespace CarriedOn
variable {L M : Nat → Prop} {s t u : State}

theorem of_fabric (hl : t.fabric.links = s.fabric.links) (hr : t.fabric.routes = s.fabric.routes)
    (hd : t.fabric.devId = s.fabric.devId) : CarriedOn L s t := by
  have hfind : ∀ n, findLink t n = findLink s n := fun n => by rw [findLink, hl, findLink]
  exact ⟨fun n => by rw [hfind]; exact .refl _, fun n _ => hfind n, hr, hd⟩

theorem same (h : t.fabric = s.fabric) : CarriedOn L s t := .of_fabric (by rw [h]) (by rw [h]) (by rw [h])

theorem refl (s : State) : CarriedOn L s s := .same rfl

theorem trans (h : CarriedOn L s t) (k : CarriedOn L t u) : CarriedOn L s u where
  links n := (h.links n).trans (k.links n)
  others n hn := (k.others n hn).trans (h.others n hn)
  routes := k.routes.trans h.routes
  devId := k.devId.trans h.devId

theorem mono (h : CarriedOn L s t) (hLM : ∀ n, L n → M n) : CarriedOn M s t :=
  ⟨h.links, fun n hn => h.others n (mt (hLM n) hn), h.routes, h.devId⟩

theorem updLink {n : Nat} {f : Link → Link} (hf : ∀ l : Link, l.Carried (f l)) (s : State) :
    CarriedOn (· = n) s (Machine.updLink n f s) where
  links m := by
    by_cases h : m = n
    · rw [h]
      rcases findLink_updLink_cases (n := n) (fun l => (hf l).num) s with h | h
      · exact h ▸ hf _
      · exact h ▸ .refl _
    · rw [findLink_updLink_other (fun l => (hf l).num) s h]
      exact .refl _
  others m h := findLink_updLink_other (fun l => (hf l).num) s h
  routes := rfl
  devId := rfl

theorem routeEntry (h : CarriedOn L s t) (dst : Nat) : Machine.routeEntry t dst = Machine.routeEntry s dst := by
  rw [Machine.routeEntry, h.routes, h.devId, Machine.routeEntry]

end CarriedOn

/-- The links on which a new packet may go. -/
def takesAt (s : State) (n : Nat) : Prop := (findLink s n).takes = true

/-- A later step on links that take packets after an earlier one. -/
theorem CarriedOn.next {s t u : State} (h : CarriedOn (takesAt s) s t) (k : CarriedOn (takesAt t) t u) : CarriedOn (takesAt s) s u :=
  h.trans (k.mono fun n hn => by rw [takesAt, ← (h.links n).takes]; exact hn)

theorem CarriedOn.fold {α : Type} {f : State → α → State} {s : State} (xs : List α) (hf : ∀ s x, CarriedOn (takesAt s) s (f s x)) :
    CarriedOn (takesAt s) s (xs.foldl f s) :=
  List.foldlRecOn (motive := CarriedOn (takesAt s) s) xs f (.refl s) fun t ht x _ => ht.next (hf t x)

section
variable (n : Nat) (s : State)

/-- A flit that goes out takes credits back, and may be counted. -/
def Link.putting (s : State) (b : Option FlitBody) (r : Nat × Nat) (l : Link) : Link :=
  { l with
    owed := setAt l.owed r.1 fun o => o - r.2
    flitsTx := if (match b with | some (.data p _) => counted s p | some .hello => true | none => false)
      then l.flitsTx + 1 else l.flitsTx }

theorem putFlit_fabric (b : Option FlitBody) (lseq : Nat) (nak : Bool) :
    (putFlit n b lseq nak s).fabric = (updLink n (Link.putting s b ((findLink s n).returning s)) s).fabric := rfl

theorem putFlit_carriedOn (b : Option FlitBody) (lseq : Nat) (nak : Bool) : CarriedOn (· = n) s (putFlit n b lseq nak s) :=
  (CarriedOn.updLink (f := Link.putting s b _) (fun _ => rfl) s).trans (.same (putFlit_fabric n s b lseq nak))

theorem pumpLinkOnce_carriedOn : CarriedOn (· = n) s (pumpLinkOnce n s) := by
  unfold pumpLinkOnce
  dsimp only
  split
  · exact .refl s
  · exact (putFlit_carriedOn n s _ _ _).trans (.updLink (f := Link.sent _) (fun _ => rfl) _)

theorem pumpLink_carriedOn : CarriedOn (· = n) s (pumpLink n s) := by
  unfold pumpLink
  induction (findLink s n).queue.length with
  | zero => exact .refl s
  | succ k ih => exact ih.trans (pumpLinkOnce_carriedOn n _)

theorem stall_carriedOn (x : U64) (d : Nat) :
    CarriedOn (· = n) s { updLink n (fun l => { l with stalls := l.stalls + x }) s with draw := d } := by
  have hupd : CarriedOn (· = n) s (updLink n (fun l => { l with stalls := l.stalls + x }) s) := .updLink (fun _ => by rfl) s
  exact hupd.trans (.same rfl)

theorem toLink_carriedOn (p : FabPacket) : CarriedOn (· = n) s (toLink n p s) := by
  have hpump : CarriedOn (· = n) s (pumpLink n (updLink n (fun l => { l with queue := l.queue ++ packetPieces p }) s)) :=
    (CarriedOn.updLink (fun _ => by rfl) s).trans (pumpLink_carriedOn n _)
  unfold toLink toQueue
  dsimp only
  split
  · exact hpump
  · exact hpump.trans (stall_carriedOn n _ _ _)

end

/-! ### Records and the reserve (R403, R411) -/

@[simp] theorem record_fabric (cls typ sev : Nat) (part : Option (BitVec 4)) (body : List Byte) (s : State) :
    (record cls typ sev part body s).fabric = s.fabric := by rw [record_frame]

@[simp] theorem raiseEvent_fabric (k : Nat) (s : State) : (raiseEvent k s).fabric = s.fabric := by rw [raiseEvent_frame]

@[simp] theorem settleReserve_fabric (s : State) : (settleReserve s).fabric = s.fabric := by
  unfold settleReserve
  refine List.foldlRecOn (motive := fun t : State => t.fabric = s.fabric) _ _ rfl fun t ht k _ => ?_
  dsimp only
  split
  · exact ht
  · rw [record_fabric]
    split
    · rw [raiseEvent_fabric, ht]
    · exact ht

/-! ### Packets that leave the device (R277, R285) -/

section
variable (p : FabPacket) (s : State)

/-- A packet takes a link that takes new packets. -/
theorem chooseLink_takes {s : State} {p : FabPacket} {n : Nat} (h : chooseLink s p = some n) : takesAt s n := by
  unfold chooseLink at h
  dsimp only at h
  split at h
  · cases h
  · rename_i hne
    rw [Bool.not_eq_true, List.isEmpty_eq_false_iff] at hne
    have hlt := Nat.mod_lt ((p.src.toNat + p.dst.toNat + p.group.toNat + 16 * (p.parts.toNat % 16)) % 2 ^ 32)
      (List.length_pos_iff.2 hne)
    rw [Option.some.injEq, nth, List.getD_eq_getElem _ _ hlt] at h
    have hmem := List.getElem_mem hlt
    rw [h] at hmem
    exact (List.mem_filter.1 hmem).2

theorem toLink_chosen {n : Nat} {s : State} {p : FabPacket} (h : chooseLink s p = some n) (q : FabPacket) :
    CarriedOn (takesAt s) s (toLink n q s) :=
  (toLink_carriedOn n s q).mono fun _ hm => hm ▸ chooseLink_takes h

theorem recordPacketOnce_carriedOn (cause addr : Nat) (header : List Byte) :
    CarriedOn (takesAt s) s (recordPacketOnce cause addr header s) := by
  unfold recordPacketOnce
  split
  · exact .refl s
  · exact .of_fabric (by simp [recordPacket]) (by simp [recordPacket]) (by simp [recordPacket])

theorem holdPacket_carriedOn : CarriedOn (takesAt s) s (holdPacket p s) := by
  have hheld : CarriedOn (takesAt s) s { s with fabric := { s.fabric with held := s.fabric.held ++ [p] } } := .of_fabric rfl rfl rfl
  exact hheld.next (recordPacketOnce_carriedOn _ _ _ _)

theorem launch_carriedOn : CarriedOn (takesAt s) s (launch p s) := by
  unfold launch
  split
  · exact .of_fabric rfl rfl rfl
  · split
    · exact holdPacket_carriedOn p s
    · split
      · rename_i n h
        exact toLink_chosen h _
      · exact holdPacket_carriedOn p s

theorem sendUnreachable_carriedOn : CarriedOn (takesAt s) s (sendUnreachable p s) := launch_carriedOn _ s

theorem transit_carriedOn : CarriedOn (takesAt s) s (transit p s) := by
  unfold transit
  split
  · exact .refl s
  · split
    · exact (sendUnreachable_carriedOn p s).trans (.same (record_fabric ..))
    · split
      · rename_i n h
        exact toLink_chosen h _
      · exact sendUnreachable_carriedOn p s

theorem reforward_carriedOn : CarriedOn (takesAt s) s (reforward p s) := by
  unfold reforward
  split
  · rename_i n h
    exact toLink_chosen h _
  · split
    · exact holdPacket_carriedOn p s
    · exact sendUnreachable_carriedOn p s

theorem retryHeld_carriedOn : CarriedOn (takesAt s) s (retryHeld s) := by
  have hnone : CarriedOn (takesAt s) s { s with fabric := { s.fabric with held := [] } } := .of_fabric rfl rfl rfl
  exact hnone.next (.fold _ fun s p => launch_carriedOn p s)

theorem packetIn_carriedOn : CarriedOn (takesAt s) s (packetIn p s) := by
  unfold packetIn
  split
  · exact .refl s
  · split
    · exact .same (record_fabric ..)
    · split
      · exact .of_fabric rfl rfl rfl
      · exact transit_carriedOn p s

end

end Sys2Proof.Machine
end

section
/-! SUPPORT for the rows of a fabric link (O52): what flits received, failures and training leave of it. -/
namespace Sys2Proof.Machine

/-- The device has a link with this number. -/
def hasLink (s : State) (n : Nat) : Prop := ∃ l ∈ s.fabric.links, l.num = n

theorem hasLink_updLink {f : Link → Link} (hf : ∀ l, (f l).num = l.num) {s : State} {m n : Nat} (h : hasLink s n) :
    hasLink (updLink m f s) n := by
  obtain ⟨l, hl, hn⟩ := h
  refine ⟨_, List.mem_map_of_mem hl, ?_⟩
  split
  · rw [hf, hn]
  · exact hn

theorem hasLink_putFlit {s : State} {m n : Nat} (b : Option FlitBody) (lseq : Nat) (nak : Bool) (h : hasLink s n) :
    hasLink (putFlit m b lseq nak s) n := by
  have hupd : hasLink (updLink m (Link.putting s b ((findLink s m).returning s)) s) n :=
    hasLink_updLink (f := Link.putting _ _ _) (fun _ => rfl) h
  exact hupd

/-! ### A link that fails or is disabled (R276, R277, R279) -/

/-- What a failure leaves in a link's own record, at the time `now`. -/
def Link.failedAt (now : Nat) (l : Link) : Link :=
  let ts := (l.downTimes.filter fun t => decide (now ≤ t + 3600000)) ++ [now]
  { l with downs := l.downs + 1, downTimes := ts, latched := decide (3 ≤ ts.length) }

theorem Link.latched_failedAt (now : Nat) (l : Link) :
    (l.failedAt now).latched = decide (2 ≤ (l.downTimes.filter fun t => decide (now ≤ t + 3600000)).length) := by
  simp [failedAt]

section
variable {n : Nat} {s : State} (h : hasLink s n)
include h

/-- What a link out of use has not delivered goes over other links: it starts afresh and takes no packet. -/
theorem findLink_emptyLink {st : LinkState} (hst : st ≠ .up ∧ st ≠ .half) :
    findLink (emptyLink n st s) n = (findLink s n).restart st := by
  let s₁ := dropAuto n (updLink n (fun l => l.restart st) s)
  have hafresh : findLink s₁ n = (findLink s n).restart st := findLink_updLink_same (f := fun l => l.restart st) (fun _ => rfl) s h
  have hidle : ¬takesAt s₁ n := by simp [takesAt, hafresh, Link.takes, Link.carries, Link.restart, hst]
  have hgone : CarriedOn (takesAt s₁) s₁ (emptyLink n st s) :=
    (CarriedOn.fold _ fun s p => reforward_carriedOn p s).next (retryHeld_carriedOn _)
  rw [hgone.others n hidle, hafresh]

theorem findLink_disableLink : findLink (disableLink n s) n = (findLink s n).restart .disabled := by
  rw [disableLink, findLink_of_fabric (settleReserve_fabric _)]
  exact findLink_emptyLink h ⟨by decide, by decide⟩

theorem findLink_linkDown' : findLink (linkDown' n s) n = ((findLink s n).failedAt (Config.elapsedMs s.draw)).restart .down := by
  let s₁ := updLink n (Link.failedAt (Config.elapsedMs s.draw)) { s with draw := s.draw + 1 }
  have hfailed : findLink s₁ n = (findLink s n).failedAt (Config.elapsedMs s.draw) :=
    findLink_updLink_same (f := Link.failedAt _) (fun _ => rfl) { s with draw := s.draw + 1 } h
  have hfabric : (linkDown' n s).fabric = (emptyLink n .down s₁).fabric := by
    rw [linkDown', settleReserve_fabric, recordLink, record_fabric]
    rfl
  rw [findLink_of_fabric hfabric, ← hfailed]
  exact findLink_emptyLink (s := s₁) (hasLink_updLink (f := Link.failedAt _) (fun _ => rfl) h) ⟨by decide, by decide⟩

end

/-! ### Lanes, lock and acknowledgements (R273, R276, R277) -/

section
variable (n : Nat) (s : State)

theorem failLink_carries (h : (findLink s n).carries = true) : failLink n s = linkDown' n s := if_pos h
theorem failLink_idle (h : (findLink s n).carries = false) : failLink n s = s := if_neg (Bool.eq_false_iff.1 h)

theorem ackDeadline_acknowledged (h : (findLink s n).replay = []) : ackDeadline n s = s := by
  simp only [ackDeadline, h, List.isEmpty_nil, if_true]

theorem ackDeadline_waits (h : (findLink s n).replay ≠ []) :
    ackDeadline n s = if (findLink s n).closing then disableLink n s else failLink n s := by
  simp only [ackDeadline, List.isEmpty_iff, h, if_false]

theorem retrainTimer_eq : retrainTimer n s = { s with fabric := { s.fabric with links := s.fabric.links.map fun k =>
    if k.num = n ∧ k.state = .down ∧ k.latched = false then { k with state := .training } else k } } := by
  have hlinks : (updLink n (fun l => if l.state = .down && !l.latched then { l with state := .training } else l) s).fabric.links =
      s.fabric.links.map fun k => if k.num = n ∧ k.state = .down ∧ k.latched = false then { k with state := .training } else k := by
    refine List.map_congr_left fun k _ => ?_
    by_cases hn : k.num = n <;> simp [hn]
  rw [← hlinks]
  rfl

end

/-! ### Training (R276, R286) -/

/-- The state that training reaches with the lanes found. -/
def reachedBy (p : LinkPeer) : LinkState :=
  if lowHalf p.badLanes && highHalf p.badLanes then .down else if p.badLanes ≠ 0 then .half else .up

/-- A link once it has trained with a peer. -/
def Link.trained (p : LinkPeer) (l : Link) : Link :=
  { l.restart (reachedBy p) with
    width := match reachedBy p with | .up => 8 | .half => 4 | _ => 0
    badLanes := p.badLanes, peerId := p.id, peerLink := p.link }

/-- HELLO has gone out, and the link has trained. -/
def trainedAt (n : Nat) (p : LinkPeer) (s : State) : State :=
  updLink n (Link.trained p) (putFlit n (some .hello) (findLink s n).txNext false s)

/-- A peer without a route gets an automatic one. -/
def autoRouted (n : Nat) (p : LinkPeer) (s : State) : State :=
  if bitsOf (routeEntry s p.id.toNat) 24 3 = 0 && p.id ≠ 0x7FFF && p.id ≠ s.fabric.devId then { s with fabric := { s.fabric with
      routes := (s.fabric.routes.filter fun r => r.1 ≠ p.id.toNat) ++ [(p.id.toNat, BitVec.ofNat 64 (n + 2 ^ 24 + 2 ^ 27))] } }
  else s

section
variable {n : Nat} {p : LinkPeer} {s : State}

theorem reachedBy_down (hl : lowHalf p.badLanes = true) (hh : highHalf p.badLanes = true) : reachedBy p = .down := by
  simp [reachedBy, hl, hh]

theorem reachedBy_half (h0 : p.badLanes ≠ 0) (h : lowHalf p.badLanes = false ∨ highHalf p.badLanes = false) : reachedBy p = .half := by
  have hrun : ¬(lowHalf p.badLanes && highHalf p.badLanes) = true := by rcases h with h | h <;> simp [h]
  rw [reachedBy, if_neg hrun, if_pos h0]

theorem reachedBy_up (h0 : p.badLanes = 0) : reachedBy p = .up := by
  simp [reachedBy, h0, lowHalf]

theorem reachedBy_ne_down (h : lowHalf p.badLanes = false ∨ highHalf p.badLanes = false) : reachedBy p ≠ .down := by
  by_cases h0 : p.badLanes = 0
  · rw [reachedBy_up h0]
    exact nofun
  · rw [reachedBy_half h0 h]
    exact nofun

theorem trainingDone_other (h : (findLink s n).state ≠ .training) : trainingDone n p s = s := if_pos h

section
variable (ht : (findLink s n).state = .training)
include ht

theorem trainingDone_absent (hp : p.present = false) : trainingDone n p s = updLink n (fun l => l.restart .disabled) s := by
  simp [trainingDone, ht, hp]

theorem trainingDone_present (hp : p.present = true) : trainingDone n p s = if reachedBy p = .down then settleReserve (trainedAt n p s)
    else retryHeld (settleReserve (autoRouted n p (trainedAt n p s))) := by
  rw [trainingDone, if_neg (not_not.2 ht), hp]
  rfl

end

theorem findLink_trainedAt (h : hasLink s n) :
    findLink (trainedAt n p s) n = (findLink (putFlit n (some .hello) (findLink s n).txNext false s) n).trained p :=
  findLink_updLink_same (f := Link.trained p) (fun _ => rfl) _ (hasLink_putFlit _ _ _ h)

theorem autoRouted_links : (autoRouted n p s).fabric.links = s.fabric.links := by
  unfold autoRouted
  split <;> rfl

theorem routeEntry_autoRouted (hn : n < 64) (h0 : routeEntry s p.id.toNat / 2 ^ 24 % 8 = 0) (hid : p.id ≠ 0x7FFF)
    (hdev : p.id ≠ s.fabric.devId) :
    routeEntry (autoRouted n p s) p.id.toNat = n + 2 ^ 24 + 2 ^ 27 := by
  have hother : p.id.toNat ≠ s.fabric.devId.toNat := mt BitVec.eq_of_toNat_eq hdev
  have hnew : (bitsOf (routeEntry s p.id.toNat) 24 3 = 0 && p.id ≠ 0x7FFF && p.id ≠ s.fabric.devId) = true := by
    simp only [bitsOf, Bool.and_eq_true, decide_eq_true_eq]
    exact ⟨⟨decide_eq_true h0, hid⟩, hdev⟩
  have hold : (s.fabric.routes.filter fun r => r.1 ≠ p.id.toNat).find? (fun r => r.1 = p.id.toNat) = none :=
    List.find?_eq_none.2 fun r hr => by simpa using (List.mem_filter.1 hr).2
  rw [autoRouted, if_pos hnew]
  simp only [routeEntry, if_neg hother, List.find?_append, hold, List.find?_singleton, decide_true, if_true, Option.none_or,
    BitVec.toNat_ofNat]
  omega

/-- What follows the training of a link keeps its state and width. -/
theorem trained_link (h : hasLink s n) :
    let k := findLink (retryHeld (settleReserve (autoRouted n p (trainedAt n p s)))) n
    k.state = reachedBy p ∧ k.width = match reachedBy p with | .up => 8 | .half => 4 | _ => 0 := by
  have hsent := (retryHeld_carriedOn (settleReserve (autoRouted n p (trainedAt n p s)))).links n
  have hlink : findLink (settleReserve (autoRouted n p (trainedAt n p s))) n = findLink (trainedAt n p s) n := by
    rw [findLink, settleReserve_fabric, autoRouted_links, findLink]
  rw [hlink, findLink_trainedAt h] at hsent
  exact ⟨hsent.state, hsent.width⟩

theorem trained_route (hn : n < 64) (hid : p.id ≠ 0x7FFF) (hdev : p.id ≠ s.fabric.devId)
    (h0 : routeEntry s p.id.toNat / 2 ^ 24 % 8 = 0) :
    routeEntry (retryHeld (settleReserve (autoRouted n p (trainedAt n p s)))) p.id.toNat = n + 2 ^ 24 + 2 ^ 27 := by
  have hentry : routeEntry (trainedAt n p s) p.id.toNat = routeEntry s p.id.toNat := rfl
  rw [(retryHeld_carriedOn _).routeEntry, (CarriedOn.same (L := fun _ => False) (settleReserve_fabric _)).routeEntry]
  exact routeEntry_autoRouted hn (by rw [hentry, h0]) hid hdev

end

/-! ### Flits received (R271 to R273) -/

section
variable {n : Nat} {s : State}

theorem discardFlit_again (h : (findLink s n).naked = true) : discardFlit n s = s := if_pos h

/-- The first flit that is discarded causes a NAK. -/
theorem discardFlit_first (hl : hasLink s n) (h : (findLink s n).naked = false) : (findLink (discardFlit n s) n).naked = true ∧
    (discardFlit n s).out = s.out ++ [.flit n (flitBytes 0 0 false false (findLink s n).txNext (findLink s n).ackSeq true
      ((findLink s n).returning s).1 ((findLink s n).returning s).2 [])] := by
  have hdiscard : discardFlit n s = putFlit n none (findLink s n).txNext true (updLink n (fun l => { l with naked := true }) s) :=
    if_neg (Bool.eq_false_iff.1 h)
  have hnaked : findLink (updLink n (fun l => { l with naked := true }) s) n = { findLink s n with naked := true } :=
    findLink_updLink_same (f := fun l => { l with naked := true }) (fun _ => rfl) s hl
  rw [hdiscard]
  refine ⟨?_, ?_⟩
  · rw [((putFlit_carriedOn n _ none _ true).links n).naked, hnaked]
  · simp only [putFlit, hnaked]
    rfl

theorem Link.acknowledge_carried (l : Link) (ack : Nat) : l.Carried (l.acknowledge ack) := by
  unfold acknowledge
  dsimp only
  split <;> rfl

/-- Credits, acknowledgement and NAK of a flit on a link that is not being disabled. -/
theorem takeHeader_carriedOn (h : Nat) (hc : (findLink s n).closing = false) : CarriedOn (· = n) s (takeHeader n h s) := by
  unfold takeHeader
  extract_lets vc s₁ s₂ l
  have h₁ : CarriedOn (· = n) s s₁ := by
    refine CarriedOn.trans (.updLink (f := fun l => _) (fun l => ?_) s) (.same rfl)
    have hack : l.Carried (if bitsOf h 33 1 = 1 then l.acknowledge (bitsOf h 20 12) else l) := by
      split
      · exact l.acknowledge_carried _
      · exact .refl l
    exact hack.trans rfl
  have h₂ : CarriedOn (· = n) s s₂ := by
    refine h₁.trans ?_
    unfold s₂
    split
    · have hcount : CarriedOn (· = n) s₁ (updLink n (fun l => { l with replays := l.replays + 1 }) s₁) := .updLink (fun _ => by rfl) s₁
      exact List.foldlRecOn (motive := CarriedOn (· = n) s₁) _ _ hcount fun t ht r _ => ht.trans (putFlit_carriedOn n t _ _ _)
    · exact .refl s₁
  have hopen : ¬(l.closing && l.replay.isEmpty) = true := by simp [l, (h₂.links n).closing, hc]
  rw [if_neg hopen]
  exact h₂.trans (pumpLink_carriedOn n s₂)

theorem acceptFlit_expects (hl : hasLink s n) (flit : List Byte) (hc : (findLink s n).closing = false) :
    (findLink (acceptFlit n flit s) n).rxNext = ((findLink s n).rxNext + 1) % 4096 ∧
    (findLink (acceptFlit n flit s) n).naked = false := by
  unfold acceptFlit
  extract_lets h data vc l sofar whole count s₁ s₂
  have h₁ : (findLink s₁ n).rxNext = ((findLink s n).rxNext + 1) % 4096 ∧ (findLink s₁ n).naked = false ∧
      (findLink s₁ n).closing = false := by
    rw [findLink_updLink_same (fun _ => by rfl) s hl]
    exact ⟨rfl, rfl, hc⟩
  have h₂ : (findLink s₁ n).Carried (findLink s₂ n) := by
    have hput := putFlit_carriedOn n s₁ none (findLink s₁ n).txNext false
    refine (hput.links n).trans ((takeHeader_carriedOn h ?_).links n)
    rw [(hput.links n).closing, h₁.2.2]
  have h₃ : (findLink s₁ n).Carried (findLink (if whole then packetIn (parsePacket vc sofar) s₂ else s₂) n) := by
    split
    · exact h₂.trans ((packetIn_carriedOn _ s₂).links n)
    · exact h₂
  rw [h₃.rxNext, h₃.naked]
  exact ⟨h₁.1, h₁.2.1⟩

end

/-- The counters of codewords once a flit has come in (R278). -/
def codewordCounted (n : Nat) (fec : Bool) (s : State) : State :=
  { updLink n (fun k => { k with
      cwUncorr := if fec then k.cwUncorr + 1 else k.cwUncorr
      cwCorrected := k.cwCorrected + BitVec.ofNat 64 (Config.freeNat s.draw 2) }) s with draw := s.draw + 1 }

section
variable {n : Nat} {flit : List Byte} {fec : Bool} {s : State}

theorem flitReceived_ignored (h : (findLink s n).state = .disabled ∨ (findLink s n).state = .down) :
    flitReceived n flit fec s = codewordCounted n fec s := by
  have hidle : (!(findLink s n).carries && (findLink s n).state ≠ .training) = true := by
    rcases h with h | h <;> simp [Link.carries, h]
  simp only [flitReceived]
  rw [if_pos hidle]
  rfl

/-- A link that carries or trains checks the flit. -/
theorem flitReceived_checked (h : (findLink s n).state = .up ∨ (findLink s n).state = .half ∨ (findLink s n).state = .training) :
    flitReceived n flit fec s =
      if fec || fld32 flit 0xFC ≠ crc32c (flit.take 0xFC) || 2 < fld flit 0 8 % 16 then discardFlit n (codewordCounted n fec s)
      else if fld flit 0 8 / 2 ^ 8 % 2 ^ 12 ≠ (findLink s n).rxNext then discardFlit n (codewordCounted n fec s)
      else if fld flit 0 8 % 16 = 0 then takeHeader n (fld flit 0 8) (codewordCounted n fec s)
      else if (findLink s n).carries || fld flit 0 8 % 16 = 2 then acceptFlit n flit (codewordCounted n fec s)
      else codewordCounted n fec s := by
  have hactive : ¬(!(findLink s n).carries && (findLink s n).state ≠ .training) = true := by
    rcases h with h | h | h <;> simp [Link.carries, h]
  have hft : bitsOf (fld flit 0 8) 0 4 = fld flit 0 8 % 16 := by simp [bitsOf]
  simp only [flitReceived, if_neg hactive, hft]
  rfl

section
variable (h : (findLink s n).state = .up ∨ (findLink s n).state = .half ∨ (findLink s n).state = .training)
include h

theorem flitReceived_bad (hbad : fec = true ∨ fld32 flit 0xFC ≠ crc32c (flit.take 0xFC) ∨ 2 < fld flit 0 8 % 16 ∨
    fld flit 0 8 / 2 ^ 8 % 2 ^ 12 ≠ (findLink s n).rxNext) : flitReceived n flit fec s = discardFlit n (codewordCounted n fec s) := by
  rw [flitReceived_checked h]
  by_cases hcheck : (fec || fld32 flit 0xFC ≠ crc32c (flit.take 0xFC) || 2 < fld flit 0 8 % 16) = true
  · exact if_pos hcheck
  · rw [if_neg hcheck, if_pos]
    simp only [Bool.or_eq_true, decide_eq_true_eq, not_or] at hcheck
    tauto

section
variable (hfec : fec = false) (hcrc : fld32 flit 0xFC = crc32c (flit.take 0xFC))
  (hseq : fld flit 0 8 / 2 ^ 8 % 2 ^ 12 = (findLink s n).rxNext)
include hfec hcrc hseq

theorem flitReceived_idle (hft : fld flit 0 8 % 16 = 0) :
    flitReceived n flit fec s = takeHeader n (fld flit 0 8) (codewordCounted n fec s) := by
  have hgood : ¬(fec || fld32 flit 0xFC ≠ crc32c (flit.take 0xFC) || 2 < fld flit 0 8 % 16) = true := by simp [hfec, hcrc, hft]
  rw [flitReceived_checked h, if_neg hgood, if_neg (not_not.2 hseq), if_pos hft]

theorem flitReceived_early (hft : fld flit 0 8 % 16 = 1) (ht : (findLink s n).state = .training) :
    flitReceived n flit fec s = codewordCounted n fec s := by
  have hgood : ¬(fec || fld32 flit 0xFC ≠ crc32c (flit.take 0xFC) || 2 < fld flit 0 8 % 16) = true := by simp [hfec, hcrc, hft]
  have hwait : ¬((findLink s n).carries || fld flit 0 8 % 16 = 2) = true := by simp [Link.carries, ht, hft]
  rw [flitReceived_checked h, if_neg hgood, if_neg (not_not.2 hseq), if_neg (by rw [hft]; decide), if_neg hwait]

theorem flitReceived_accepted (hft : fld flit 0 8 % 16 = 2 ∨ fld flit 0 8 % 16 = 1 ∧ (findLink s n).state ≠ .training) :
    flitReceived n flit fec s = acceptFlit n flit (codewordCounted n fec s) := by
  have hgood : ¬(fec || fld32 flit 0xFC ≠ crc32c (flit.take 0xFC) || 2 < fld flit 0 8 % 16) = true := by
    simp [hfec, hcrc]
    omega
  have htaken : ((findLink s n).carries || fld flit 0 8 % 16 = 2) = true := by
    rcases hft with hft | ⟨-, ht⟩
    · simp [hft]
    · rcases h with h | h | h <;> simp_all [Link.carries]
  rw [flitReceived_checked h, if_neg hgood, if_neg (not_not.2 hseq), if_neg (by omega), if_pos htaken]

end

end

end

end Sys2Proof.Machine
end

section
/-! SUPPORT for the fabric's commands (O51): what the own part of each answers. -/
namespace Sys2Proof.Machine

section
variable {q : QueuePair} {p : Packet} {s : State}

/-- A copy to a buffer that is aligned, large enough and resolved. -/
theorem copyOut_fits {align dest size need : Nat} {b : Option (List Nat)} (bytes result : List Byte) (ha : dest % align = 0)
    (hsize : need ≤ size) (hb : paramBuffer s q p dest size = .ok b) :
    copyOut q p align dest size need bytes result s = ok result (putBuffer q p b dest bytes s) := by
  simp only [copyOut, if_neg (not_not_intro ha), if_neg (Nat.not_lt.2 hsize), hb]

/-! ### Ids and routes (R280, R284, R287) -/

theorem cmdFabricId_sets (hid : par p 0 2 ≤ 0x7FFE) (hg : s.fabric.groups = []) :
    cmdFabricId q p s = ok [] (setFabricId (par p 0 2) s) := by
  simp only [cmdFabricId, if_neg (Nat.not_lt.2 hid), hg, List.isEmpty_nil, Bool.not_true, Bool.false_eq_true, if_false]

theorem cmdFabricId_inGroup (hid : par p 0 2 ≤ 0x7FFE) (hg : s.fabric.groups ≠ []) : cmdFabricId q p s = fail stNotPermitted s := by
  have hin : (!s.fabric.groups.isEmpty) = true := by simpa using hg
  simp only [cmdFabricId, if_neg (Nat.not_lt.2 hid), if_pos hin]

theorem cmdFabricId_badLength (hid : 0x7FFE < par p 0 2) : cmdFabricId q p s = fail stBadLength s := by
  simp only [cmdFabricId, if_pos hid]

/-- FIRST and COUNT of route entries within the 32,768 of the table. -/
theorem routeRange_within (h1 : 1 ≤ par p 2 2) (h2 : par p 0 2 + par p 2 2 ≤ 32768) :
    ¬(32767 < par p 0 2 || par p 2 2 = 0 || 32768 < par p 0 2 + par p 2 2) = true := by
  simp only [Bool.or_eq_true, decide_eq_true_eq]
  omega

section
variable (h1 : 1 ≤ par p 2 2) (h2 : par p 0 2 + par p 2 2 ≤ 32768) (ha : par p 8 8 % 8 = 0) (hsize : 8 * par p 2 2 ≤ par p 16 4)
include h1 h2 ha hsize

theorem cmdRouteSet_taken {b : List Byte} (hb : takeBuffer s q p (par p 8 8) (8 * par p 2 2) = .ok b) : cmdRouteSet q p s =
    if ((List.range (par p 2 2)).map fun k => fld b (8 * k) 8).all routeOk then
      ok [] (setRoutes (par p 0 2) ((List.range (par p 2 2)).map fun k => fld b (8 * k) 8) s)
    else fail stBadLength s := by
  have hgood : ¬(32767 < par p 0 2 || par p 2 2 = 0 || 32768 < par p 0 2 + par p 2 2 || par p 8 8 % 8 ≠ 0) = true := by
    rw [Bool.or_eq_true, not_or]
    exact ⟨routeRange_within h1 h2, by simpa using ha⟩
  simp only [cmdRouteSet, if_neg hgood, if_neg (Nat.not_lt.2 hsize), hb]

theorem cmdRouteRead_copies {b : Option (List Nat)} (hb : paramBuffer s q p (par p 8 8) (par p 16 4) = .ok b) :
    cmdRouteRead q p s = ok [] (putBuffer q p b (par p 8 8)
      ((List.range (par p 2 2)).flatMap fun k => toLE 8 (routeEntry s (par p 0 2 + k))) s) := by
  simp only [cmdRouteRead, if_neg (routeRange_within h1 h2)]
  exact copyOut_fits _ _ ha hsize hb

end

end

/-- The value that a list of entries gives a destination. -/
def entryIn (rs : List (Nat × U64)) (dst : Nat) : Nat := ((rs.find? fun r => r.1 = dst).map fun r => r.2.toNat).getD 0

theorem routeEntry_other {s : State} {dst : Nat} (hd : dst ≠ s.fabric.devId.toNat) :
    routeEntry s dst = entryIn s.fabric.routes dst := by
  rw [routeEntry, if_neg hd, entryIn]
  cases List.find? (fun r : Nat × U64 => decide (r.1 = dst)) s.fabric.routes <;> rfl

theorem entryIn_append_left {rs ts : List (Nat × U64)} {dst : Nat} (h : ∀ r ∈ ts, r.1 ≠ dst) :
    entryIn (rs ++ ts) dst = entryIn rs dst := by
  have hnone : ts.find? (fun r => r.1 = dst) = none := List.find?_eq_none.2 fun r hr => by simpa using h r hr
  rw [entryIn, List.find?_append, hnone, Option.or_none, entryIn]

theorem entryIn_append_right {rs ts : List (Nat × U64)} {dst : Nat} (h : ∀ r ∈ rs, r.1 ≠ dst) :
    entryIn (rs ++ ts) dst = entryIn ts dst := by
  have hnone : rs.find? (fun r => r.1 = dst) = none := List.find?_eq_none.2 fun r hr => by simpa using h r hr
  rw [entryIn, List.find?_append, hnone, Option.none_or, entryIn]

/-- Entries that a selection by destination keeps give what they gave. -/
theorem entryIn_filter {rs : List (Nat × U64)} {dst : Nat} (keep : Nat × U64 → Bool) (h : ∀ r, r.1 = dst → keep r = true) :
    entryIn (rs.filter keep) dst = entryIn rs dst := by
  have hsame : ∀ r ∈ rs, decide (keep r = true ∧ decide (r.1 = dst) = true) = decide (r.1 = dst) := fun r _ =>
    decide_eq_decide.2 ⟨fun hr => of_decide_eq_true hr.2, fun hr => ⟨h r hr, decide_eq_true hr⟩⟩
  rw [entryIn, List.find?_filter, entryIn]
  congr 2
  exact List.find?_congr hsame

/-- The entries that ROUTE_SET writes: a zero is no entry. -/
def routesWritten (first : Nat) (es : List Nat) : List (Nat × U64) :=
  (es.zipIdx.map fun x => (first + x.2, BitVec.ofNat 64 x.1)).filter fun r => r.2 ≠ 0

section
variable {first : Nat} {es : List Nat}

theorem mem_routesWritten {r : Nat × U64} :
    r ∈ routesWritten first es ↔ ∃ e i, es[i]? = some e ∧ r = (first + i, BitVec.ofNat 64 e) ∧ BitVec.ofNat 64 e ≠ 0 := by
  simp only [routesWritten, List.mem_filter, List.mem_map, decide_eq_true_eq, Prod.exists, List.mk_mem_zipIdx_iff_getElem?]
  constructor
  · rintro ⟨⟨e, i, he, rfl⟩, h0⟩
    exact ⟨e, i, he, rfl, h0⟩
  · rintro ⟨e, i, he, rfl, h0⟩
    exact ⟨⟨e, i, he, rfl⟩, h0⟩

theorem routesWritten_range {r : Nat × U64} (h : r ∈ routesWritten first es) : first ≤ r.1 ∧ r.1 < first + es.length := by
  obtain ⟨e, i, he, rfl, -⟩ := mem_routesWritten.1 h
  have hi := (List.getElem?_eq_some_iff.1 he).1
  dsimp only
  omega

theorem entryIn_routesWritten {dst : Nat} (hes : ∀ e ∈ es, e < 2 ^ 27) (h : first ≤ dst ∧ dst < first + es.length) :
    entryIn (routesWritten first es) dst = nth es (dst - first) 0 := by
  have hsmall : ∀ {e : Nat}, e ∈ es → (BitVec.ofNat 64 e).toNat = e := fun he => by
    have := hes _ he
    rw [BitVec.toNat_ofNat]
    omega
  unfold entryIn
  rcases hfind : (routesWritten first es).find? (fun r => r.1 = dst) with _ | r
  · have hlt : dst - first < es.length := by omega
    have hget : es[dst - first]? = some es[dst - first] := List.getElem?_eq_getElem hlt
    have hzero : BitVec.ofNat 64 es[dst - first] = 0 := by
      by_contra h0
      refine List.find?_eq_none.1 hfind _ (mem_routesWritten.2 ⟨_, _, hget, rfl, h0⟩) (decide_eq_true ?_)
      dsimp only
      omega
    rw [hfind, nth, List.getD_eq_getElem _ _ hlt, ← hsmall (List.getElem_mem hlt), hzero]
    rfl
  · obtain ⟨e, i, he, rfl, -⟩ := mem_routesWritten.1 (List.mem_of_find?_eq_some hfind)
    have hi : first + i = dst := of_decide_eq_true (List.find?_some (p := fun r : Nat × U64 => r.1 = dst) hfind)
    have hplace : dst - first = i := by omega
    rw [hfind, hplace, nth, List.getD_eq_getElem?_getD, he]
    exact hsmall (List.mem_of_getElem? he)

/-- Routes after ROUTE_SET: those written, and those outside the range as they were. -/
theorem routeEntry_setRoutes {s : State} {dst : Nat} (hd : dst ≠ s.fabric.devId.toNat) (hes : ∀ e ∈ es, e < 2 ^ 27) :
    routeEntry (setRoutes first es s) dst =
      if first ≤ dst ∧ dst < first + es.length then nth es (dst - first) 0 else routeEntry s dst := by
  have hset : routeEntry (setRoutes first es s) dst =
      entryIn ((s.fabric.routes.filter fun r => r.1 < first || first + es.length ≤ r.1) ++ routesWritten first es) dst := by
    rw [setRoutes, (retryHeld_carriedOn _).routeEntry]
    exact routeEntry_other hd
  rw [hset]
  by_cases h : first ≤ dst ∧ dst < first + es.length
  · have hold : ∀ r ∈ s.fabric.routes.filter (fun r => r.1 < first || first + es.length ≤ r.1), r.1 ≠ dst := fun r hr hrd => by
      have hout := (List.mem_filter.1 hr).2
      simp only [Bool.or_eq_true, decide_eq_true_eq] at hout
      omega
    rw [if_pos h, entryIn_append_right hold, entryIn_routesWritten hes h]
  · have hnew : ∀ r ∈ routesWritten first es, r.1 ≠ dst := fun r hr hrd => h (hrd ▸ routesWritten_range hr)
    rw [if_neg h, entryIn_append_left hnew, entryIn_filter _ fun r hr => ?_, routeEntry_other hd]
    simp only [Bool.or_eq_true, decide_eq_true_eq]
    omega

end

/-! ### Links (R278, R279) -/

section
variable {q : QueuePair} {p : Packet} {s : State}

theorem cmdLinkStatus_copies {b : Option (List Nat)} (ha : par p 0 8 % 64 = 0) (hsize : 4096 ≤ par p 8 4)
    (hb : paramBuffer s q p (par p 0 8) (par p 8 4) = .ok b) :
    cmdLinkStatus q p s = ok [] (putBuffer q p b (par p 0 8) (s.fabric.links.flatMap linkRecord) s) :=
  copyOut_fits _ _ ha hsize hb

theorem cmdLinkControl_one (hop : par p 1 1 ≤ 2) (hl : par p 0 1 ≤ 63) :
    cmdLinkControl q p s = ok [] (controlLink (par p 1 1) (par p 0 1) s) := by
  have hgood : ¬(2 < par p 1 1 || (63 < par p 0 1 && par p 0 1 ≠ 0xFF)) = true := by simp; omega
  have hone : par p 0 1 ≠ 0xFF := by omega
  simp only [cmdLinkControl, if_neg hgood, if_neg hone]

theorem cmdLinkControl_all (hop : par p 1 1 ≤ 2) (hl : par p 0 1 = 0xFF) :
    cmdLinkControl q p s = ok [] ((List.range 64).foldl (fun s n => controlLink (par p 1 1) n s) s) := by
  have hgood : ¬(2 < par p 1 1 || (63 < par p 0 1 && par p 0 1 ≠ 0xFF)) = true := by simp [hl]; omega
  simp only [cmdLinkControl, if_neg hgood, if_pos hl]

end

/-- A link that is not as before training is one that the device has. -/
theorem hasLink_of_state {s : State} {n : Nat} (h : (findLink s n).state ≠ .disabled) : hasLink s n := by
  by_contra hno
  have hnone : s.fabric.links.find? (fun l => l.num = n) = none :=
    List.find?_eq_none.2 fun l hl hn => hno ⟨l, hl, of_decide_eq_true hn⟩
  rw [findLink, hnone] at h
  exact h rfl

section
variable {n : Nat} {s : State}

theorem controlLink_closes (hc : (findLink s n).carries = true) (hr : (findLink s n).replay ≠ []) :
    controlLink 0 n s = updLink n (fun l => { l with closing := true }) s := by
  have hon : (findLink s n).state ≠ .disabled := fun hoff => by simp [Link.carries, hoff] at hc
  have hwaits : ((findLink s n).carries && !(findLink s n).replay.isEmpty) = true := by simpa [hc] using hr
  simp only [controlLink, if_true, if_neg hon, if_pos hwaits]

theorem controlLink_disables (h : hasLink s n) (hidle : (findLink s n).carries = false ∨ (findLink s n).replay = []) :
    (findLink (controlLink 0 n s) n).state = .disabled := by
  have hwaits : ¬((findLink s n).carries && !(findLink s n).replay.isEmpty) = true := by
    rcases hidle with hi | hi <;> simp [hi]
  by_cases hoff : (findLink s n).state = .disabled
  · simpa only [controlLink, if_true, if_pos hoff] using hoff
  · simp only [controlLink, if_true, if_neg hoff, if_neg hwaits, findLink_disableLink h]
    rfl

theorem controlLink_enable (h : hasLink s n) : findLink (controlLink 1 n s) n =
    if (findLink s n).state = .disabled then { findLink s n with state := .training } else findLink s n := by
  have henable : controlLink 1 n s = updLink n (fun l => if l.state = .disabled then { l with state := .training } else l) s := rfl
  rw [henable, findLink_updLink_same (fun l => ?_) s h]
  split <;> rfl

/-- RETRAIN takes the link down, and trains it with nothing counted against it. -/
theorem controlLink_retrain (h : hasLink s n) : findLink (controlLink 2 n s) n =
    { findLink (linkDown' n s) n with state := .training, latched := false, downTimes := [] } := by
  have hretrain : controlLink 2 n s = settleReserve
    (updLink n (fun l => { l with state := .training, latched := false, downTimes := [] }) (linkDown' n s)) := rfl
  have hdown : hasLink (linkDown' n s) n := hasLink_of_state (by rw [findLink_linkDown' h]; exact nofun)
  rw [hretrain, findLink_of_fabric (settleReserve_fabric _),
    findLink_updLink_same (f := fun l => { l with state := .training, latched := false, downTimes := [] }) (fun _ => rfl) _ hdown]

end

/-! ### Groups (R292 to R294, R300) -/

/-- What GROUP_JOIN accepts no parameters with: a group id or coordinator that no group has, or, from the coordinator, no first view. -/
def joinBad (s : State) (p : Packet) : Prop :=
  par32 p 0 = 0 ∨ par32 p 0 = 0xFFFFFFFF ∨ 2 ^ 19 ≤ par p 4 4 ∨
    (par p 4 4 = fabAddr s (pktPart p) ∧ (par p 8 2 = 0 ∨ 32768 < par p 8 2))

/-- No room for a group: 16 of the partition, 64 of the device, or state for 8 group ids. -/
def joinFull (s : State) (p : Packet) : Prop :=
  16 ≤ (s.fabric.groups.filter fun g => g.part = pktPart p).length ∨ 64 ≤ s.fabric.groups.length ∨
    8 < ((s.fabric.groups.map (·.id)) ++ [par32 p 0]).eraseDups.length

section
variable (q : QueuePair) {p : Packet} {s : State}

theorem joinBad_iff : (par32 p 0 = 0 || par32 p 0 = 0xFFFFFFFF || 2 ^ 19 ≤ par p 4 4 ||
    (par p 4 4 = fabAddr s (pktPart p) && (par p 8 2 = 0 || 32768 < par p 8 2))) = true ↔ joinBad s p := by
  simp only [joinBad, Bool.or_eq_true, Bool.and_eq_true, decide_eq_true_eq, or_assoc]

theorem joinFull_iff : (16 ≤ (s.fabric.groups.filter fun g => g.part = pktPart p).length || 64 ≤ s.fabric.groups.length ||
    1048576 < 131072 * ((s.fabric.groups.map (·.id)) ++ [par32 p 0]).eraseDups.length) = true ↔ joinFull s p := by
  have hstate : 1048576 < 131072 * ((s.fabric.groups.map (·.id)) ++ [par32 p 0]).eraseDups.length ↔
      8 < ((s.fabric.groups.map (·.id)) ++ [par32 p 0]).eraseDups.length := by omega
  simp only [joinFull, Bool.or_eq_true, decide_eq_true_eq, or_assoc, hstate]

theorem cmdGroupJoin_badLength (h : joinBad s p) : cmdGroupJoin q p s = fail stBadLength s := by
  simp only [cmdGroupJoin, if_pos (joinBad_iff.2 h)]

section
variable (hgood : ¬joinBad s p)
include hgood

theorem cmdGroupJoin_again (hg : (findGroup s (pktPart p) (par32 p 0)).isSome) : cmdGroupJoin q p s = fail stNotPermitted s := by
  simp only [cmdGroupJoin, if_neg (mt joinBad_iff.1 hgood), if_pos hg]

section
variable (hg : findGroup s (pktPart p) (par32 p 0) = none)
include hg

theorem cmdGroupJoin_full (h : joinFull s p) : cmdGroupJoin q p s = fail stNoResource s := by
  simp only [cmdGroupJoin, if_neg (mt joinBad_iff.1 hgood), hg, Option.isSome_none, Bool.false_eq_true,
    if_false, if_pos (joinFull_iff.2 h)]

theorem cmdGroupJoin_joins (h : ¬joinFull s p) : cmdGroupJoin q p s =
    (.accepted, sendView (pktPart p) (par p 4 4) 0x10 (par32 p 0) 0 0 (toLE 4 (fabAddr s (pktPart p)) ++ [0]) { s with
      fabric := { s.fabric with
        groups := s.fabric.groups ++ [Group.fresh (par32 p 0) (pktPart p) (par p 4 4) (par p 8 2) (pktOrigin p)] } }) := by
  simp only [cmdGroupJoin, if_neg (mt joinBad_iff.1 hgood), hg, Option.isSome_none, Bool.false_eq_true, if_false,
    if_neg (mt joinFull_iff.1 h)]
  rfl

end

end

theorem cmdGroupAdmin_unknown (hg : findGroup s (pktPart p) (par32 p 0) = none) : cmdGroupAdmin q p s = fail stBadLength s := by
  simp only [cmdGroupAdmin, hg]

section
variable {g : Group} (hg : findGroup s (pktPart p) (par32 p 0) = some g)
include hg

theorem findGroup_id : g.id = par32 p 0 := by
  have h := List.find?_some hg
  simp only [Bool.and_eq_true, decide_eq_true_eq] at h
  exact h.2

theorem cmdGroupAdmin_badOp (hop : 2 < par p 4 1) : cmdGroupAdmin q p s = fail stBadLength s := by
  simp only [cmdGroupAdmin, hg, if_pos hop]

/-- LEAVE of a joiner ends its join. -/
theorem cmdGroupAdmin_endJoin (hop : par p 4 1 = 0) (he : g.epoch = 0) : cmdGroupAdmin q p s =
    ok [] (g.waiters.foldl (fun s o => finish o stNotPermitted 0 [] s)
      (sendView (pktPart p) g.coord 0x11 (par32 p 0) 0 0 (toLE 4 (fabAddr s (pktPart p))) (dropGroup (pktPart p) (par32 p 0) s))) := by
  simp only [cmdGroupAdmin, hg, hop, he, if_true]
  rfl

theorem cmdGroupAdmin_leavesAlready (hop : par p 4 1 = 0) (he : g.epoch ≠ 0) (hl : g.leaver.isSome) :
    cmdGroupAdmin q p s = fail stNotPermitted s := by
  simp only [cmdGroupAdmin, hg, hop, if_true, if_neg he, if_pos hl]
  rfl

theorem cmdGroupAdmin_leave (hop : par p 4 1 = 0) (he : g.epoch ≠ 0) (hl : g.leaver = none) : cmdGroupAdmin q p s =
    (.accepted, sendView (pktPart p) g.coord 0x11 (par32 p 0) g.epoch 0 (toLE 4 (fabAddr s (pktPart p)))
      (updGroup (pktPart p) (par32 p 0) (fun g => { g with leaver := some (pktOrigin p), state := .leaving }) s)) := by
  simp only [cmdGroupAdmin, hg, hop, if_true, if_neg he, hl]
  rfl

/-- EVICT and RECOORD are the operator's, and of a member. -/
theorem cmdGroupAdmin_refused (h1 : 1 ≤ par p 4 1) (h2 : par p 4 1 ≤ 2) (h : q.operator = false ∨ par p 8 4 ∉ g.members) :
    cmdGroupAdmin q p s = fail stNotPermitted s := by
  have hop0 : par p 4 1 ≠ 0 := by omega
  simp only [cmdGroupAdmin, hg, if_neg (Nat.not_lt.2 h2), if_neg hop0]
  cases hq : q.operator
  · rfl
  · have hout : g.members.contains (par p 8 4) = false := by simpa [hq] using h
    simp only [hout, Bool.not_true, Bool.false_eq_true, if_false, Bool.not_false, Bool.or_true, if_true]
    split <;> rfl

theorem cmdGroupAdmin_notCoordinator (hop : par p 4 1 = 1) (hc : g.coord ≠ fabAddr s (pktPart p)) :
    cmdGroupAdmin q p s = fail stNotPermitted s := by
  have hother : (g.coord ≠ fabAddr s (pktPart p) || !g.members.contains (par p 8 4)) = true := by simp [hc]
  simp only [cmdGroupAdmin, hg, hop, if_pos hother]
  cases q.operator <;> rfl

section
variable (hq : q.operator = true) (hm : par p 8 4 ∈ g.members)
include hq hm

theorem cmdGroupAdmin_evict (hop : par p 4 1 = 1) (hc : g.coord = fabAddr s (pktPart p)) : cmdGroupAdmin q p s =
    (.accepted, concludeView (pktPart p) (par32 p 0) (updGroup (pktPart p) (par32 p 0) (fun g => { g with
      waiters := g.waiters ++ [pktOrigin p]
      proposal := { g.proposal with
        evicts := g.proposal.evicts ++ [par p 8 4], members := g.proposal.members.filter (· ≠ par p 8 4) } }) s)) := by
  have hmine : ¬(g.coord ≠ fabAddr s (pktPart p) || !g.members.contains (par p 8 4)) = true := by simp [hc, hm]
  simp only [cmdGroupAdmin, hg, hop, hq, if_neg hmine]
  rfl

/-- RECOORD: the new coordinator is told in a READY of the present epoch (assumption 111). -/
theorem cmdGroupAdmin_recoord (hop : par p 4 1 = 2) : cmdGroupAdmin q p s =
    ok [] (sendView (pktPart p) (par p 8 4) 0x13 (par32 p 0) g.epoch g.cseq
      (toLE 8 g.cseq ++ [if pinned s (pktPart p) (par32 p 0) then 1 else 0]) (updGroup (pktPart p) (par32 p 0) (fun g => { g with
        coord := par p 8 4
        proposal := if par p 8 4 = fabAddr s (pktPart p) then
            { Proposal.empty with evicts := if g.coord = fabAddr s (pktPart p) then [] else [g.coord] } else Proposal.empty
        replaced := if par p 8 4 = fabAddr s (pktPart p) ∧ g.coord ≠ fabAddr s (pktPart p) then some g.coord else none }) s)) := by
  have hmember : ¬(!g.members.contains (par p 8 4)) = true := by simp [hm]
  have hpinned : toLE 1 (if pinned s (pktPart p) (par32 p 0) then 1 else 0) = [if pinned s (pktPart p) (par32 p 0) then 1 else 0] := by
    split <;> rfl
  simp only [cmdGroupAdmin, hg, hop, hq, if_neg hmember, hpinned]
  rfl

end

theorem cmdGroupStatus_reports : ∃ waited, (groupWaits s g = false → waited = 0) ∧ cmdGroupStatus q p s =
    ok (toLE 4 g.epoch ++ toLE 4 (if g.epoch = 0 then 0 else g.rank s) ++ toLE 4 g.members.length ++
      toLE 1 (groupStateCode g.state) ++ zeros 3 ++ toLE 4 (if groupWaits s g then awaited s g else 0xFFFFFFFF) ++
      toLE 4 waited ++ toLE 8 g.cseq) { s with draw := s.draw + 1 } := by
  refine ⟨if groupWaits s g then min 0xFFFFFFFF (Config.freeNat s.draw 4) else 0, fun h => ?_, ?_⟩
  · rw [h, if_neg Bool.false_ne_true]
  · simp only [cmdGroupStatus, hg]

theorem cmdPaceSet_sets (hf : par p 4 1 ≤ 1) (h1 : 1 ≤ par p 5 1) (h96 : par p 5 1 ≤ 96) : cmdPaceSet q p s =
    ok [] (updGroup (pktPart p) (par32 p 0) (fun g => { g with follow := decide (par p 4 1 = 1), floor := par p 5 1 }) s) := by
  have hgood : ¬(1 < par p 4 1 || par p 5 1 = 0 || 96 < par p 5 1) = true := by simp; omega
  simp only [cmdPaceSet, hg, if_neg hgood, findGroup_id hg]

end

theorem cmdGroupStatus_unknown (hg : findGroup s (pktPart p) (par32 p 0) = none) : cmdGroupStatus q p s = fail stNotPermitted s := by
  simp only [cmdGroupStatus, hg]

theorem cmdPaceSet_badLength
    (h : findGroup s (pktPart p) (par32 p 0) = none ∨ 1 < par p 4 1 ∨ par p 5 1 = 0 ∨ 96 < par p 5 1) :
    cmdPaceSet q p s = fail stBadLength s := by
  rcases hg : findGroup s (pktPart p) (par32 p 0) with _ | g
  · simp only [cmdPaceSet, hg]
  · have hbad : (1 < par p 4 1 || par p 5 1 = 0 || 96 < par p 5 1) = true := by simpa [hg, or_assoc] using h
    simp only [cmdPaceSet, hg, if_pos hbad]

/-! ### The distance table (R264, R265) -/

theorem cmdNetDistance_copies {b : Option (List Nat)} (h1 : 1 ≤ par p 4 4) (hmax : par p 4 4 ≤ 4096) (hf : par p 0 4 < 4096)
    (ha : par p 8 8 % 64 = 0) (hsize : 192 * par p 4 4 ≤ par p 16 4) (hb : paramBuffer s q p (par p 8 8) (par p 16 4) = .ok b) :
    cmdNetDistance q p s = ok (toLE 4 (min (par p 0 4 + par p 4 4) 4096 - par p 0 4) ++ toLE 4 s.distGen.toNat)
      (putBuffer q p b (par p 8 8) ((List.range (min (par p 0 4 + par p 4 4) 4096 - par p 0 4)).flatMap fun i =>
        distanceRecord s (par p 0 4 + i)) s) := by
  have hc : ¬(par p 4 4 = 0 || 4096 < par p 4 4) = true := by simp; omega
  simp only [cmdNetDistance, copyRecords, if_neg hc, if_neg (Nat.not_le.2 hf)]
  exact copyOut_fits _ _ ha hsize hb

end

end Sys2Proof.Machine
end

section
/-! SETTLED STATEMENT of the fabric's commands (O51). -/
namespace Sys2Proof.Machine

/-- Settles O51: it holds. Each command's own part answers what its lemma above says, on the state with the packet fetched. -/
theorem fabricIsConfigured : Obligations.FabricIsConfigured := by
  unfold Obligations.FabricIsConfigured
  refine ⟨?id, fun s id => rfl, ?routeSet, fun s first es dst => routeEntry_setRoutes, ?routeRead, ?linkStatus, ?linkControl,
    ?control, ?join, ?admin, ?status, ?pace, ?distance⟩
  case id =>
    intro s q p c hf
    exact ⟨fun hid hg => hf.completes (cmdFabricId_sets hid hg), fun hid hg => hf.fails (cmdFabricId_inGroup hid hg),
      fun hid => hf.fails (cmdFabricId_badLength hid)⟩
  case routeSet =>
    intro s q p c b hf h1 h2 ha hsize hb
    have htaken := cmdRouteSet_taken h1 h2 ha hsize hb
    refine ⟨fun hok => hf.completes (htaken.trans (if_pos ?_)), fun hbad => hf.fails (htaken.trans (if_neg ?_))⟩
    · simpa using hok
    · simpa using hbad
  case routeRead =>
    intro s q p c b hf h1 h2 ha hsize hb
    exact hf.completes (cmdRouteRead_copies h1 h2 ha hsize hb)
  case linkStatus =>
    intro s q p c b hf ha hsize hb
    exact hf.completes (cmdLinkStatus_copies ha hsize hb)
  case linkControl =>
    intro s q p c hf hop
    exact ⟨fun hl => hf.completes (cmdLinkControl_one hop hl), fun hl => hf.completes (cmdLinkControl_all hop hl)⟩
  case control =>
    intro s n hlink
    have hretrain := controlLink_retrain hlink
    refine ⟨controlLink_closes, controlLink_disables hlink, fun hoff => ?_, fun hon => ?_, ?_, ?_, ?_⟩
    · rw [controlLink_enable hlink, if_pos hoff]
    · rw [controlLink_enable hlink, if_neg hon]
    all_goals rw [hretrain]
  case join =>
    intro s q p c hf
    refine ⟨fun hbad => hf.fails (cmdGroupJoin_badLength _ hbad), fun hgood hg => hf.fails (cmdGroupJoin_again _ hgood hg),
      fun hgood hg hfull => hf.fails (cmdGroupJoin_full _ hgood hg hfull), fun hgood hg hroom => ?_⟩
    rw [← hf.origin]
    exact hf.accepts (cmdGroupJoin_joins _ hgood hg hroom)
  case admin =>
    intro s q p c hf
    refine ⟨fun hg => hf.fails (cmdGroupAdmin_unknown _ hg), fun g hg => ⟨fun hop => hf.fails (cmdGroupAdmin_badOp _ hg hop),
      fun hop he => hf.completes (cmdGroupAdmin_endJoin _ hg hop he), fun hop he =>
        ⟨fun hl => hf.fails (cmdGroupAdmin_leavesAlready _ hg hop he hl), fun hl => ?_⟩,
      fun h1 h2 h => hf.fails (cmdGroupAdmin_refused _ hg h1 h2 h),
      fun hop hc => hf.fails (cmdGroupAdmin_notCoordinator _ hg hop hc), fun hop hq hc hm => ?_,
      fun hop hq hm => hf.completes (cmdGroupAdmin_recoord _ hg hq hm hop)⟩⟩
    all_goals rw [← hf.origin]
    · exact hf.accepts (cmdGroupAdmin_leave _ hg hop he hl)
    · exact hf.accepts (cmdGroupAdmin_evict _ hg hq hm hop hc)
  case status =>
    intro s q p c hf
    refine ⟨fun hg => hf.fails (cmdGroupStatus_unknown q hg), fun g hg => ?_⟩
    obtain ⟨waited, hnone, hreports⟩ := cmdGroupStatus_reports (s := fetchedState p s) q hg
    exact ⟨waited, hnone, hf.completes hreports⟩
  case pace =>
    intro s q p c hf
    refine ⟨fun hbad => hf.fails (cmdPaceSet_badLength q hbad), fun hsome hfollow h1 h96 => ?_⟩
    obtain ⟨g, hg⟩ := Option.isSome_iff_exists.1 hsome
    exact hf.completes (cmdPaceSet_sets q hg hfollow h1 h96)
  case distance =>
    intro s q p c b hf h1 hmax hfirst ha hsize hb
    exact hf.completes (cmdNetDistance_copies q h1 hmax hfirst ha hsize hb)

end Sys2Proof.Machine
end

section
/-! SUPPORT for the canopy network (O52): paths, mesh links, and a packet that comes in at a router of a network at rest. -/
namespace Sys2Proof.Machine

/-! ### Paths (R254, R262) -/

theorem length_rowSteps (y a b : Nat) : (rowSteps y a b).length = (a - b) + (b - a) := by
  unfold rowSteps
  split <;> simp only [List.length_map, List.length_range] <;> omega

theorem length_colSteps (x a b : Nat) : (colSteps x a b).length = (a - b) + (b - a) := by
  unfold colSteps
  split <;> simp only [List.length_map, List.length_range] <;> omega

theorem length_xyPath (a b : Nat) : (xyPath a b).length = manhattan a b := by
  rw [xyPath, List.length_append, length_rowSteps, length_colSteps, manhattan]
  omega

theorem length_yxPath (a b : Nat) : (yxPath a b).length = manhattan a b := by
  rw [yxPath, List.length_append, length_colSteps, length_rowSteps, manhattan]
  omega

section
variable {s : State} {g d : Nat} (port : Nat) (p : NetPacket)

theorem injectTo_xy (h : pathOpen s (xyPath g d) = true) :
    injectTo g port d p s = offerPacket g port { p with yFirst := false, via := none } [d] s := by
  simp only [injectTo, h, Bool.not_true, Bool.false_and, Bool.true_or, if_true]

theorem injectTo_yx (h : pathOpen s (xyPath g d) = false) (h' : pathOpen s (yxPath g d) = true) :
    injectTo g port d p s = offerPacket g port { p with yFirst := true, via := none } [d] s := by
  simp only [injectTo, h, h', Bool.not_false, Bool.and_true, Bool.or_true, if_true]

theorem injectTo_relay (h : pathOpen s (xyPath g d) = false) (h' : pathOpen s (yxPath g d) = false) :
    injectTo g port d p s = offerPacket g port { p with
      yFirst := false, via := some (BitVec.ofNat 12 (relayRouter s g d)) } [d] s := by
  simp only [injectTo, h, h', Bool.and_false, Bool.or_self, Bool.false_eq_true, if_false]

end

section
variable {s : State} {g : Nat} {p : NetPacket} {d : BitVec 12} (hd : p.dest = .grove d)
include hd

/-- At a neighbour's port a packet for a grove goes on as it is. -/
theorem netArrival_neighbour {port : Nat} (hp : port < 4) : netArrival g port p s = netCycle (offerPacket g port p [d.toNat] s) := by
  have hport : (port = 4 || port = 5) = false := by
    simp only [Bool.or_eq_false_iff, decide_eq_false_iff_not]
    omega
  simp only [netArrival, hport, Bool.false_eq_true, if_false, hd]

/-- At the grove's own port it is stamped with the partition of the tract, and injected. -/
theorem netArrival_local : netArrival g 4 p s = netCycle (injectTo g 4 d.toNat
    (match ownerOf s (tractOfCore (256 * g)) with | some x => { p with stamp := x.num } | none => p) s) := by
  unfold netArrival stamped
  rcases ownerOf s (tractOfCore (256 * g)) with _ | x <;> simp [hd]

end

/-! ### Mesh links (R251, R262, R263) -/

theorem meshLink_updMesh_stage (g d : Nat) (st : MeshStage) (s : State) :
    (meshLink (updMesh g d (fun l => { l with stage := st }) s) g d).stage = st := by
  have hfind : (updMesh g d (fun l => { l with stage := st }) s).mesh.find?
      (fun l => l.grove = (linkKey g d).1 && l.dir = (linkKey g d).2) = some { (meshLink s g d) with stage := st } :=
    find?_upsert (p := fun l : MeshLink => l.grove = (linkKey g d).1 && l.dir = (linkKey g d).2) (f := fun l => { l with stage := st })
      (d := MeshLink.fresh (linkKey g d)) s.mesh (fun _ => rfl) (by simp [MeshLink.fresh])
  rw [meshLink, hfind]
  rfl

/-- A wire fails with its 16th correction among the last 2^20 flits. -/
theorem corrected_wires (l : MeshLink) (w n : Nat) : (MeshLink.corrected w n l).wires =
    if 16 ≤ (l.recent.filter (·.1 = w)).length + min n 16 ∧ w ∉ l.wires then l.wires ++ [w] else l.wires := by
  have hcount : ((l.recent ++ List.replicate (min n 16) (w, l.flits)).filter (·.1 = w)).length =
      (l.recent.filter (·.1 = w)).length + min n 16 := by
    simp
  simp only [MeshLink.corrected, hcount, Bool.and_eq_true, decide_eq_true_eq, Bool.not_eq_true',
    List.contains_eq_mem, decide_eq_false_iff_not]
  split <;> rfl

theorem reissueTable_distGen (s : State) : (reissueTable s).distGen = s.distGen + 1 := by
  rw [reissueTable, record_frame]

theorem meshDegrade_same {s : State} {g d : Nat} {st : MeshStage} (h : (meshLink s g d).stage = st) :
    meshDegrade g d st s = s := if_pos h

theorem meshDegrade_changes {s : State} {g d : Nat} {st : MeshStage} (h : (meshLink s g d).stage ≠ st) :
    meshDegrade g d st s = reissueTable (settleReserve (updMesh g d (fun l => { l with stage := st }) s)) := if_neg h

theorem meshResend_nothing {s : State} {g d : Nat} (h : ((findRouter s g).port d).replay = []) : meshResend g d s = s := by
  rw [meshResend, h, List.isEmpty_nil, if_pos rfl]

theorem meshResend_again {s : State} {g d : Nat} (h : ((findRouter s g).port d).replay ≠ []) :
    meshResend g d s = updNet g (fun c => { c with resends := c.resends + 1 })
      (updRouter g (Router.updPort d fun p => { p with busy := p.busy + 4 }) s) := by
  rw [meshResend, if_neg (by simpa using h)]

/-! ### What moving flits leaves alone (R250 to R254) -/

/-- From `s` the state `t` comes about by flits that move: routers, mesh links and counters of the network differ, and `os` has been
driven. -/
def Routed (os : List Output) (s t : State) : Prop :=
  t = { s with net := t.net, mesh := t.mesh, routers := t.routers, out := s.out ++ os }

namespace Routed
variable {os : List Output} {s t u : State}

theorem of_still (h : t = { s with net := t.net, mesh := t.mesh, routers := t.routers }) : Routed [] s t := by
  rw [Routed, List.append_nil]
  exact h

theorem refl (s : State) : Routed [] s s := of_still rfl

theorem trans (h : Routed [] s t) (k : Routed os t u) : Routed os s u := by
  unfold Routed at *
  rw [List.append_nil] at h
  rw [k, h]

/-- A flit that is seen to leave once it has moved. -/
theorem drive (h : Routed [] s t) (o : Output) : Routed [o] s { t with out := t.out ++ [o] } := by
  unfold Routed at *
  rw [List.append_nil] at h
  rw [h]

end Routed

section
variable (g : Nat) (s : State)

theorem updRouter_routed (f : Router → Router) : Routed [] s (updRouter g f s) := .of_still rfl

theorem updMesh_routed (d : Nat) (f : MeshLink → MeshLink) : Routed [] s (updMesh g d f s) := .of_still rfl

theorem updNet_routed (f : NetCtr → NetCtr) : Routed [] s (updNet g f s) := by
  unfold updNet
  split
  · split
    · exact .refl s
    · exact .of_still rfl
  · exact .of_still rfl

theorem popFlit_routed (k : Nat × Nat × Bool) : Routed [] s (popFlit g k s) := updRouter_routed ..

/-- The first flit of a packet goes one step. -/
theorem sendFlit_step {f : NetFlit} (hf : f.index = 0) {k : Nat} (hk : k < 4) :
    Routed [.netForward (BitVec.ofNat 12 g) k f.pkt] s (sendFlit g f k s) := by
  have h6 : k ≠ 6 := by omega
  have h4 : k ≠ 4 := by omega
  have h5 : k ≠ 5 := by omega
  simp only [sendFlit, NetFlit.onward, if_neg h6, if_neg h4, if_neg h5, hf, if_true]
  refine Routed.drive ?_ _
  exact (updNet_routed ..).trans ((updMesh_routed ..).trans ((updRouter_routed ..).trans (updRouter_routed ..)))

/-- The last flit of a packet is ejected with it. -/
theorem sendFlit_eject {f : NetFlit} (hf : f.pkt.flits ≤ f.index + 1) :
    Routed [.netEject (BitVec.ofNat 12 g) f.pkt] s (sendFlit g f 4 s) := by
  have hlast : sendFlit g f 4 s = { updRouter g (fun r => if f.pkt.kind.vc = 0 then r else { r with pace := r.pace - 64 })
      (updNet g (NetCtr.sent f.pkt.kind.vc 1 (seamStep (g, 4))) s) with
        out := (updNet g (NetCtr.sent f.pkt.kind.vc 1 (seamStep (g, 4))) s).out ++ [.netEject (BitVec.ofNat 12 g) f.pkt] } := by
    simp only [sendFlit, NetFlit.onward, show (4 : Nat) ≠ 6 by decide, if_false, if_true, hf, decide_true]
    rfl
  rw [hlast]
  exact ((updNet_routed ..).trans (updRouter_routed ..)).drive _

end

/-! ### A packet that comes in where nothing moves (R253 to R255) -/

/-- A router at rest to which a packet is offered. -/
def offeredAt (g port : Nat) (p : NetPacket) (ds : List Nat) : Router :=
  { Router.fresh g with bufs := [⟨port, p.kind.vc, p.yFirst, packetFlits p ds, []⟩] }

/-- The same router once the first flit is in its buffer and the cycle has opened, with what ejection may take. -/
def enteredAt (g port pace : Nat) (p : NetPacket) (ds : List Nat) : Router :=
  { Router.fresh g with
    bufs := [⟨port, p.kind.vc, p.yFirst, (packetFlits p ds).tail, [⟨p, 0, ds⟩]⟩]
    ports := (List.range 6).map fun d => ⟨d, 0, [], []⟩
    pace := 64 + pace }

/-- The only flit that asks to leave the router. -/
def headBid (g port : Nat) (p : NetPacket) (ds : List Nat) (rank : Nat) : Bid :=
  ⟨(port, p.kind.vc, p.yFirst), ⟨p, 0, ds⟩, exitsOf g ⟨p, 0, ds⟩, rank⟩

theorem NetPacket.flits_pos {p : NetPacket} (h : p.wf = true) : 1 ≤ p.flits := by
  simp only [NetPacket.wf, Bool.and_eq_true, decide_eq_true_eq] at h
  exact h.1.1

theorem capacity_pos {port : Nat} (k : NetKind) : 0 < capacity port k.vc := by
  unfold capacity
  split
  · decide
  · cases k <;> decide

theorem offerPacket_idle {s : State} (h : s.routers = []) (g port : Nat) (p : NetPacket) (ds : List Nat) :
    offerPacket g port p ds s = { s with routers := [offeredAt g port p ds] } := by
  simp only [offerPacket, updRouter, h]
  rfl

section
variable {g port : Nat} {p : NetPacket} {ds : List Nat}

theorem packetFlits_head (h : 1 ≤ p.flits) : packetFlits p ds = ⟨p, 0, ds⟩ :: (packetFlits p ds).tail := by
  obtain ⟨n, hn⟩ := Nat.exists_eq_add_of_le' h
  rw [packetFlits, hn, List.range_succ_eq_map]
  rfl

theorem intake_offeredAt (hf : 1 ≤ p.flits) (hp : port < 4) (n : Nat) :
    (offeredAt g port p ds).intake.opened n = enteredAt g port n p ds := by
  have h4 : port ≠ 4 := by omega
  have h5 : port ≠ 5 := by omega
  have hroom := Nat.ne_of_gt (capacity_pos (port := port) p.kind)
  rw [offeredAt, packetFlits_head hf]
  simp [Router.intake, Router.fresh, Router.updBuf, upsert, updWhere, Router.opened, enteredAt, h4, h5, hroom, Router.port]

/-- No flit asks to leave a router with empty buffers. -/
theorem bids_of_empty {r : Router} (h : ∀ b ∈ r.bufs, b.flits = []) (draw : Nat) : r.bids draw = [] := by
  have hnone : (r.bufs.filterMap fun b => b.flits.head?.map fun f => (⟨(b.port, b.vc, b.yFirst), f, exitsOf r.grove f,
      ((exitsOf r.grove f).map fun x => vcRank (r.port x).slots b.vc).foldl min 5⟩ : Bid)) = [] :=
    List.filterMap_eq_nil_iff.2 fun b hb => by rw [h b hb]; rfl
  unfold Router.bids
  dsimp only
  rw [hnone, List.drop_nil, List.take_nil]
  rfl

theorem bids_enteredAt (n draw : Nat) : ∃ rank, (enteredAt g port n p ds).bids draw = [headBid g port p ds rank] := by
  refine ⟨((exitsOf g ⟨p, 0, ds⟩).map fun x => vcRank ((enteredAt g port n p ds).port x).slots p.kind.vc).foldl min 5, ?_⟩
  simp only [Router.bids, enteredAt, List.filterMap_cons, List.filterMap_nil, List.head?_cons, Option.map_some, List.length_singleton,
    Nat.max_self, Nat.mod_one, List.drop_zero, List.take_zero, List.append_nil]
  rfl

theorem grants_nil (s : State) (r : Router) : grants s r [] = [] := rfl

/-- A single flit with a single exit leaves where it may. -/
theorem grants_single {s : State} {r : Router} {b : Bid} {k : Nat} (hb : b.exits = [k]) (h : canLeave s r b.flit k = true) :
    grants s r [b] = [b] := by
  simp [grants, hb, h]

theorem routerCycle_nothing {s : State} {r : Router} (h : ∀ b ∈ r.bufs, b.flits = []) (t : State) :
    Routed [] t (routerCycle s r t) := by
  simp only [routerCycle, bids_of_empty h, grants_nil, List.foldl_nil]
  exact (updRouter_routed ..).trans (updNet_routed ..)

/-- The flit that has come in leaves by its exit. -/
theorem routerCycle_enteredAt {s t : State} {n k : Nat} {o : Output} (hk : exitsOf g ⟨p, 0, ds⟩ = [k])
    (hleave : canLeave s (enteredAt g port n p ds) ⟨p, 0, ds⟩ k = true) (hsend : ∀ u, Routed [o] u (sendFlit g ⟨p, 0, ds⟩ k u)) :
    Routed [o] t (routerCycle s (enteredAt g port n p ds) t) := by
  obtain ⟨rank, hbids⟩ := bids_enteredAt (g := g) (port := port) (p := p) (ds := ds) n s.draw
  have hgrant : grants s (enteredAt g port n p ds) [headBid g port p ds rank] = [headBid g port p ds rank] := grants_single hk hleave
  have hexits : (headBid g port p ds rank).exits = [k] := hk
  simp only [routerCycle, hbids, hgrant, List.foldl_cons, List.foldl_nil, hexits]
  exact (updRouter_routed ..).trans ((updNet_routed ..).trans ((popFlit_routed ..).trans (hsend _)))

theorem getD_find?_of_forall {α : Type} {P : α → Prop} {l : List α} {d : α} (q : α → Bool) (hl : ∀ x ∈ l, P x) (hd : P d) :
    P ((l.find? q).getD d) := by
  rcases h : l.find? q with _ | x
  · exact hd
  · exact hl x (List.mem_of_find?_eq_some h)

theorem port_enteredAt_busy (n k : Nat) : ((enteredAt g port n p ds).port k).busy = 0 := by
  refine getD_find?_of_forall (P := fun x : NetPort => x.busy = 0) _ (fun x hx => ?_) rfl
  obtain ⟨d, -, rfl⟩ := List.mem_map.1 hx
  rfl

/-- A neighbour that nothing has come to gives a credit. -/
theorem canLeave_enteredAt {s : State} {n k : Nat} {f : NetFlit} (hs : s.routers = [enteredAt g port n p ds]) (hk : k < 4)
    (hne : neighbour g k ≠ g) : canLeave s (enteredAt g port n p ds) f k = true := by
  have h6 : k ≠ 6 := by omega
  have h4 : k ≠ 4 := by omega
  have h5 : k ≠ 5 := by omega
  have hfresh : findRouter s (neighbour g k) = Router.fresh (neighbour g k) := by
    simp [findRouter, hs, enteredAt, Router.fresh, hne.symm]
  have hcredit : 0 < credits s (neighbour g k) (opposite k) f.pkt.kind.vc f.pkt.yFirst := by
    rw [credits, hfresh]
    exact capacity_pos f.pkt.kind
  simp only [canLeave, if_neg h6, if_neg h5, if_neg h4, port_enteredAt_busy]
  exact Bool.and_eq_true_iff.2 ⟨rfl, decide_eq_true hcredit⟩

theorem canLeave_eject {s : State} {n : Nat} {f : NetFlit} : canLeave s (enteredAt g port n p ds) f 4 = true := by
  have hpace : 64 ≤ (enteredAt g port n p ds).pace := Nat.le_add_right 64 n
  simp [canLeave, hpace]

end

theorem nextDir_neighbour {g d : Nat} {y : Bool} {k : Nat} (h : nextDir g d y = some k) : k < 4 ∧ neighbour g k ≠ g := by
  have hstep : ∀ {a b : Option Nat}, (∀ k ∈ a, k < 4 ∧ neighbour g k ≠ g) → (∀ k ∈ b, k < 4 ∧ neighbour g k ≠ g) →
      ∀ k ∈ a.orElse fun _ => b, k < 4 ∧ neighbour g k ≠ g := by
    rintro (_ | x) b ha hb k hk
    · exact hb k hk
    · exact ha k hk
  have hrow : ∀ k ∈ (if gx g < gx d then some 2 else if gx d < gx g then some 3 else none), k < 4 ∧ neighbour g k ≠ g := by
    intro k hk
    split at hk
    · cases hk
      simp [neighbour]
    · split at hk
      · cases hk
        simp only [neighbour, gx] at *
        omega
      · cases hk
  have hcol : ∀ k ∈ (if gy g < gy d then some 1 else if gy d < gy g then some 0 else none), k < 4 ∧ neighbour g k ≠ g := by
    intro k hk
    split at hk
    · cases hk
      simp [neighbour]
    · split at hk
      · cases hk
        simp only [neighbour, gy] at *
        omega
      · cases hk
  unfold nextDir at h
  dsimp only at h
  split at h
  · exact hstep hcol hrow k h
  · exact hstep hrow hcol k h

theorem nextDir_self (g : Nat) (y : Bool) : nextDir g g y = none := by
  simp [nextDir]

/-! ### A packet dropped at a boundary (R255, R377) -/

/-- The state with other routers. -/
def State.withRouters (rs : List Router) (s : State) : State := { s with routers := rs }

section
variable (rs : List Router) (s : State)

/-! Nothing that a drop brings about is reckoned from what the routers hold. -/

theorem raiseEvent_withRouters (k : Nat) : raiseEvent k (s.withRouters rs) = (raiseEvent k s).withRouters rs := by
  unfold raiseEvent fireVector State.withRouters
  dsimp only
  split
  · rfl
  · split
    · split <;> rfl
    · rfl

theorem record_withRouters (cls typ sev : Nat) (part : Option (BitVec 4)) (body : List Byte) :
    record cls typ sev part body (s.withRouters rs) = (record cls typ sev part body s).withRouters rs := by
  by_cases h : 2000 ≤ s.recorder.inSecond
  · have hfull : record cls typ sev part body s =
      { s with recorder := { s.recorder with dropped := s.recorder.dropped + 1 } } := if_pos h
    rw [hfull]
    exact if_pos h
  · have hroom : record cls typ sev part body s = raiseEvent evRecorder _ := if_neg h
    rw [hroom, ← raiseEvent_withRouters]
    exact if_neg h

/-- What the reckoning of the reserve does about its row `k`, where the rows `rows` give the mask `m` and it was `old`. -/
def reserveNoted (m old : BitVec 14) (rows : List ReserveRow) (s : State) (k : Nat) : State :=
  if m.getLsbD k = old.getLsbD k then s
  else
    let r := nth rows k ⟨0, 0, false⟩
    let s := if m.getLsbD k then raiseEvent evReserve s else s
    record 0x00 0x03 2 none
      (toLE 1 k ++ toLE 1 (if m = 0 then 0 else 1) ++ zeros 2 ++ toLE 2 r.value ++ toLE 2 r.threshold) s

/-- The state with another AT_MASK. -/
def State.withMask (m : BitVec 14) (s : State) : State := { s with reserve := { s.reserve with atMask := m } }

theorem settleReserve_eq : settleReserve s = (List.range 14).foldl (reserveNoted (atMaskOf s) s.reserve.atMask (reserveRows s))
    (s.withMask (atMaskOf s)) := rfl

theorem reserveNoted_withRouters (m old : BitVec 14) (rows : List ReserveRow) (k : Nat) :
    reserveNoted m old rows (s.withRouters rs) k = (reserveNoted m old rows s k).withRouters rs := by
  unfold reserveNoted
  dsimp only
  split
  · rfl
  · rw [← record_withRouters, apply_ite (State.withRouters rs), raiseEvent_withRouters]

theorem settleReserve_withRouters : settleReserve (s.withRouters rs) = (settleReserve s).withRouters rs := by
  have hrows : reserveRows (s.withRouters rs) = reserveRows s := rfl
  have hmask : atMaskOf (s.withRouters rs) = atMaskOf s := by rw [atMaskOf, hrows, atMaskOf]
  have hmasked : (s.withRouters rs).withMask (atMaskOf s) = (s.withMask (atMaskOf s)).withRouters rs := rfl
  have hold : (s.withRouters rs).reserve = s.reserve := rfl
  rw [settleReserve_eq, settleReserve_eq, hmask, hrows, hmasked, hold]
  exact List.foldl_hom (State.withRouters rs) fun t k => reserveNoted_withRouters rs t _ _ _ k

theorem firebreak_withRouters (row : Nat) (stamp : BitVec 4) (owner : Option Partition) :
    firebreak row stamp owner (s.withRouters rs) = (firebreak row stamp owner s).withRouters rs := by
  unfold firebreak
  rw [← settleReserve_withRouters, ← record_withRouters]
  rfl

theorem dropPacket_withRouters (p : NetPacket) : dropPacket p (s.withRouters rs) = (dropPacket p s).withRouters rs := by
  by_cases h : s.netNoted.contains p.src.toNat = true
  · have hnoted : dropPacket p s =
      settleReserve { s with reserve := { s.reserve with unexplained := s.reserve.unexplained + 1 } } := if_pos h
    rw [hnoted, ← settleReserve_withRouters]
    exact if_pos h
  · have hnew : dropPacket p s = firebreak 0 p.stamp _ { s with netNoted := s.netNoted ++ [p.src.toNat] } := if_neg h
    rw [hnew, ← firebreak_withRouters]
    exact if_neg h

end

/-! ### What becomes of the packet (R254, R255) -/

section
variable {g port n : Nat} {p : NetPacket} {ds : List Nat} {s : State}

theorem dropFlits_enteredAt (s : State) : dropFlits (enteredAt g port n p ds) s =
    if mustDrop s g ⟨p, 0, ds⟩ then dropPacket p (popFlit g (port, p.kind.vc, p.yFirst) s) else s := rfl

/-- Once its only flit has been taken out of a router, its buffers are empty. -/
theorem popFlit_enteredAt : ∃ r : Router, (∀ b ∈ r.bufs, b.flits = []) ∧
    popFlit g (port, p.kind.vc, p.yFirst) (s.withRouters [enteredAt g port n p ds]) = s.withRouters [r] := by
  refine ⟨{ enteredAt g port n p ds with bufs := [⟨port, p.kind.vc, p.yFirst, (packetFlits p ds).tail, []⟩] }, ?_, ?_⟩
  · intro b hb
    rw [List.mem_singleton.1 hb]
  · simp [popFlit, updRouter, State.withRouters, upsert, updWhere, enteredAt, Router.fresh, Router.updBuf]

/-- A cycle's end. -/
theorem Routed.counted {os : List Output} {t u : State} (h : Routed os t u) : let v : State := { u with draw := u.draw + 1 }
    v = { t with net := v.net, mesh := v.mesh, routers := v.routers, draw := t.draw + 1, out := t.out ++ os } := by
  rw [h]

theorem Routed.counted_still {t u : State} (h : Routed [] t u) : let v : State := { u with draw := u.draw + 1 }
    v = { t with net := v.net, mesh := v.mesh, routers := v.routers, draw := v.draw } := by
  rw [h, List.append_nil]

section
variable (hs : s.routers = []) (hp : port < 4) (hf : 1 ≤ p.flits)
include hs hp hf

/-- The cycle of a network with this packet alone: the flit is dropped or stays, and its router sends what it may. -/
theorem netCycle_offerPacket : netCycle (offerPacket g port p ds s) =
    let t := dropFlits (enteredAt g port (storePace s g) p ds) (s.withRouters [enteredAt g port (storePace s g) p ds])
    let u := t.routers.foldl (fun u r => routerCycle t r u) t
    { u with draw := u.draw + 1 } := by
  rw [offerPacket_idle hs]
  simp only [netCycle, List.map_cons, List.map_nil, intake_offeredAt hf hp]
  rfl

theorem netCycle_keeps {k : Nat} {o : Output} (hk : exitsOf g ⟨p, 0, ds⟩ = [k])
    (hstay : ∀ rs, mustDrop (s.withRouters rs) g ⟨p, 0, ds⟩ = false)
    (hleave : ∀ n, canLeave (s.withRouters [enteredAt g port n p ds]) (enteredAt g port n p ds) ⟨p, 0, ds⟩ k = true)
    (hsend : ∀ u, Routed [o] u (sendFlit g ⟨p, 0, ds⟩ k u)) :
    let t := netCycle (offerPacket g port p ds s)
    t = { s with net := t.net, mesh := t.mesh, routers := t.routers, draw := s.draw + 1, out := s.out ++ [o] } := by
  have hdrop : dropFlits (enteredAt g port (storePace s g) p ds) (s.withRouters [enteredAt g port (storePace s g) p ds]) =
      s.withRouters [enteredAt g port (storePace s g) p ds] := by
    rw [dropFlits_enteredAt, hstay, if_neg Bool.false_ne_true]
  rw [netCycle_offerPacket hs hp hf, hdrop]
  exact (routerCycle_enteredAt (t := s.withRouters [enteredAt g port (storePace s g) p ds]) hk (hleave _) hsend).counted

theorem netCycle_drops (hout : ∀ rs, mustDrop (s.withRouters rs) g ⟨p, 0, ds⟩ = true) :
    let t := netCycle (offerPacket g port p ds s)
    t = { dropPacket p s with net := t.net, mesh := t.mesh, routers := t.routers, draw := t.draw } := by
  obtain ⟨r, hempty, hpop⟩ := popFlit_enteredAt (g := g) (port := port) (n := storePace s g) (p := p) (ds := ds) (s := s)
  have hdrop : dropFlits (enteredAt g port (storePace s g) p ds) (s.withRouters [enteredAt g port (storePace s g) p ds]) =
      (dropPacket p s).withRouters [r] := by
    rw [dropFlits_enteredAt, hout, if_pos rfl, hpop, dropPacket_withRouters]
  rw [netCycle_offerPacket hs hp hf, hdrop]
  exact (routerCycle_nothing (s := (dropPacket p s).withRouters [r]) hempty ((dropPacket p s).withRouters [r])).counted_still

end

end

section
variable {g d : BitVec 12} {port : Nat} {p : NetPacket} {s : State}

theorem mustDrop_withRouters (rs : List Router) (f : NetFlit) (g : Nat) : mustDrop (s.withRouters rs) g f = mustDrop s g f := rfl

section
variable (hd : p.dest = .grove d) (hv : p.via = none)
include hd hv

theorem exitsOf_forward {k : Nat} (hk : nextDir g.toNat d.toNat p.yFirst = some k) : exitsOf g.toNat ⟨p, 0, [d.toNat]⟩ = [k] := by
  simp [exitsOf, hv, hd, hk]

theorem exitsOf_arrived : exitsOf d.toNat ⟨p, 0, [d.toNat]⟩ = [4] := by
  simp [exitsOf, hv, hd, nextDir_self]

end

/-- A packet is dropped where it would leave the tract, or the network, with a stamp that does not own its destination. -/
theorem mustDrop_single {g k : Nat} {f : NetFlit} (hk : exitsOf g f = [k]) :
    mustDrop s g f = ((k = 4 || (k < 4 && leavesTract g k)) && !stampOk s f.pkt) := by
  simp [mustDrop, hk]

section
variable (hs : s.routers = []) (hp : port < 4) (hw : p.wf = true) (hd : p.dest = .grove d) (hv : p.via = none)
include hs hp hw hd hv

theorem netArrival_forwarded {k : Nat} (hk : nextDir g.toNat d.toNat p.yFirst = some k)
    (hin : leavesTract g.toNat k = false ∨ stampOk s p = true) :
    let t := netArrival g.toNat port p s
    t = { s with net := t.net, mesh := t.mesh, routers := t.routers, draw := s.draw + 1, out := s.out ++ [.netForward g k p] } := by
  obtain ⟨hk4, hne⟩ := nextDir_neighbour hk
  have hflits : 1 ≤ p.flits := NetPacket.flits_pos hw
  have hexits := exitsOf_forward (g := g) hd hv hk
  rw [netArrival_neighbour hd hp]
  refine netCycle_keeps hs hp hflits hexits (fun rs => ?_) (fun n => canLeave_enteredAt rfl hk4 hne) fun u => ?_
  · rw [mustDrop_withRouters, mustDrop_single hexits]
    rcases hin with h | h <;> simp [h, Nat.ne_of_lt hk4]
  · have hstep := sendFlit_step g.toNat u (f := ⟨p, 0, [d.toNat]⟩) rfl hk4
    rwa [BitVec.ofNat_toNat, BitVec.setWidth_eq] at hstep

theorem netArrival_ejected (h1 : p.flits = 1) (hok : stampOk s p = true) :
    let t := netArrival d.toNat port p s
    t = { s with net := t.net, mesh := t.mesh, routers := t.routers, draw := s.draw + 1, out := s.out ++ [.netEject d p] } := by
  have hexits := exitsOf_arrived hd hv
  rw [netArrival_neighbour hd hp]
  refine netCycle_keeps hs hp (NetPacket.flits_pos hw) hexits (fun rs => ?_) (fun n => canLeave_eject) fun u => ?_
  · rw [mustDrop_withRouters, mustDrop_single hexits]
    simp [hok]
  · have heject := sendFlit_eject d.toNat u (f := ⟨p, 0, [d.toNat]⟩) (Nat.le_of_eq h1)
    rwa [BitVec.ofNat_toNat, BitVec.setWidth_eq] at heject

theorem netArrival_dropped (hbad : stampOk s p = false)
    (hout : d = g ∨ ∃ k, nextDir g.toNat d.toNat p.yFirst = some k ∧ leavesTract g.toNat k = true) :
    let t := netArrival g.toNat port p s
    t = { dropPacket p s with net := t.net, mesh := t.mesh, routers := t.routers, draw := t.draw } := by
  rw [netArrival_neighbour hd hp]
  refine netCycle_drops hs hp (NetPacket.flits_pos hw) fun rs => ?_
  rw [mustDrop_withRouters]
  rcases hout with rfl | ⟨k, hk, hleaves⟩
  · rw [mustDrop_single (exitsOf_arrived hd hv)]
    simp [hbad]
  · rw [mustDrop_single (exitsOf_forward hd hv hk)]
    simp [hbad, hleaves, (nextDir_neighbour hk).1]

end

end

end Sys2Proof.Machine
end

section
/-! SETTLED STATEMENT of packets on the canopy network, flits and the states of a fabric link (O52). -/
namespace Sys2Proof.Machine

/-! ### The rows, of a started device -/

section
variable {s : State} (hs : started s = true)
include hs

theorem exec_networkPacketArrival {g : BitVec 12} {port : BitVec 3} {p : NetPacket} (hw : p.wf = true)
    (ha : arrivalPort g port p = true) :
    exec (.networkPacketArrival g ⟨port, p⟩) s = happens (netArrival g.toNat port.toNat p s) :=
  answer_event (Bool.and_eq_true_iff.2 ⟨hw, ha⟩) hs

theorem exec_meshFlitResend {g : BitVec 12} {d : BitVec 2} (hm : meshPort g d.toNat = true) :
    exec (.meshFlitResend g d) s = happens (meshResend g.toNat d.toNat s) := answer_event hm hs

theorem exec_meshWireFailing {g : BitVec 12} {d : BitVec 2} (w n : Nat) (hm : meshPort g d.toNat = true) :
    exec (.meshWireFailing g d ⟨w, n⟩) s = happens (updMesh g.toNat d.toNat (MeshLink.corrected w n) s) := answer_event hm hs

theorem exec_meshLinkDegrade {g : BitVec 12} {d : BitVec 2} (st : MeshStage) (hm : meshPort g d.toNat = true) :
    exec (.meshLinkDegrade g d st) s = happens (meshDegrade g.toNat d.toNat st s) := answer_event hm hs

theorem exec_flitReceive (l : BitVec 6) {flit : List Byte} (fec : Bool) (hlen : flit.length = 256) :
    exec (.flitReceive l flit fec) s = happens (flitReceived l.toNat flit fec s) := answer_event (decide_eq_true hlen) hs

theorem exec_lossOfLock (l : BitVec 6) : exec (.lossOfLock l) s = happens (failLink l.toNat s) := next_event hs

theorem exec_ackDeadline (l : BitVec 6) : exec (.ackDeadline l) s = happens (ackDeadline l.toNat s) := next_event hs

theorem exec_linkLaneFailure (l : BitVec 6) (lane : BitVec 3) :
    exec (.linkLaneFailure l lane) s = happens (laneFailure l.toNat lane.toNat s) := next_event hs

theorem exec_linkRetrainTimer (l : BitVec 6) : exec (.linkRetrainTimer l) s = happens (retrainTimer l.toNat s) := next_event hs

theorem exec_linkTrainingDone (l : BitVec 6) (peer : LinkPeer) :
    exec (.linkTrainingDone l peer) s = happens (trainingDone l.toNat peer s) := next_event hs

theorem exec_unroutableRetry : exec .unroutableRetry s = happens (retryHeld s) := next_event hs

end

/-! ### Lane failures, training and arrivals, case by case (R276, R277) -/

section
variable {n lane : Nat} {s : State}

theorem laneFailure_down
    (h : (findLink s n).state = .up ∨ ((findLink s n).state = .half ∧ lowHalf ((findLink s n).badLanes ||| (1#8 <<< lane)) = true ∧
      highHalf ((findLink s n).badLanes ||| (1#8 <<< lane)) = true)) :
    laneFailure n lane s = linkDown' n (updLink n (fun k => { k with badLanes := (findLink s n).badLanes ||| (1#8 <<< lane) }) s) := by
  have hbad : ((findLink s n).state = .up || ((findLink s n).state = .half && lowHalf ((findLink s n).badLanes ||| (1#8 <<< lane)) &&
      highHalf ((findLink s n).badLanes ||| (1#8 <<< lane)))) = true := by simpa [and_assoc] using h
  exact if_pos hbad

theorem laneFailure_carries_on (hup : (findLink s n).state ≠ .up)
    (h : (findLink s n).state ≠ .half ∨ lowHalf ((findLink s n).badLanes ||| (1#8 <<< lane)) = false ∨
      highHalf ((findLink s n).badLanes ||| (1#8 <<< lane)) = false) :
    laneFailure n lane s = updLink n (fun k => { k with badLanes := (findLink s n).badLanes ||| (1#8 <<< lane) }) s := by
  have hgood : ¬((findLink s n).state = .up || ((findLink s n).state = .half && lowHalf ((findLink s n).badLanes ||| (1#8 <<< lane)) &&
      highHalf ((findLink s n).badLanes ||| (1#8 <<< lane)))) = true := by
    simp only [hup, decide_false, Bool.false_or, Bool.and_eq_true, decide_eq_true_eq, not_and, Bool.not_eq_true]
    rintro ⟨hhalf, hlow⟩
    rcases h with h | h | h
    · exact absurd hhalf h
    · rw [hlow] at h
      cases h
    · exact h
  exact if_neg hgood

theorem packetIn_good {p : FabPacket} (hid : hasId s = true) (hlen : p.bodylen.toNat ≤ 4096) (hbody : p.bodylen.toNat = p.body.length) :
    packetIn p s = if p.dst.toNat = s.fabric.devId.toNat
      then { s with fabric := { s.fabric with arrivals := s.fabric.arrivals ++ [p] } }
      else transit p s := by
  have hgood : ¬(4096 < p.bodylen.toNat ∨ p.bodylen.toNat ≠ p.body.length) := by omega
  rw [packetIn, hid, if_neg hgood]
  rfl

/-- What training leaves: the link's state and width by the lanes found, and a route to a peer that had none. -/
theorem trainingDone_leaves {peer : LinkPeer} (hn : n < 64) (ht : (findLink s n).state = .training) (hl : hasLink s n) :
    let t := trainingDone n peer s
    (peer.present = false → (findLink t n).state = .disabled) ∧
    (peer.present = true → lowHalf peer.badLanes = true → highHalf peer.badLanes = true → (findLink t n).state = .down) ∧
    (peer.present = true → peer.badLanes = 0 → (findLink t n).state = .up ∧ (findLink t n).width = 8) ∧
    (peer.present = true → peer.badLanes ≠ 0 → lowHalf peer.badLanes = false ∨ highHalf peer.badLanes = false →
      (findLink t n).state = .half ∧ (findLink t n).width = 4) ∧
    (peer.present = true → lowHalf peer.badLanes = false ∨ highHalf peer.badLanes = false → peer.id ≠ 0x7FFF →
      peer.id ≠ s.fabric.devId → routeEntry s peer.id.toNat / 2 ^ 24 % 8 = 0 → routeEntry t peer.id.toNat = n + 2 ^ 24 + 2 ^ 27) := by
  have hruns : peer.present = true → reachedBy peer ≠ .down →
      trainingDone n peer s = retryHeld (settleReserve (autoRouted n peer (trainedAt n peer s))) := fun hp hr => by
    rw [trainingDone_present ht hp, if_neg hr]
  obtain ⟨hstate, hwidth⟩ := trained_link (p := peer) hl
  refine ⟨fun hp => ?absent, fun hp hlow hhigh => ?down, fun hp h0 => ?up, fun hp h0 hhalf => ?half, fun hp hgood hid hdev h0 => ?route⟩
  case absent =>
    rw [trainingDone_absent ht hp, findLink_updLink_same (f := fun l => l.restart .disabled) (fun _ => rfl) s hl]
    rfl
  case down =>
    have hr := reachedBy_down hlow hhigh
    rw [trainingDone_present ht hp, if_pos hr, findLink_of_fabric (settleReserve_fabric _), findLink_trainedAt hl]
    exact hr
  case up =>
    have hr := reachedBy_up h0
    rw [hruns hp (by rw [hr]; decide), hstate, hwidth, hr]
    exact ⟨rfl, rfl⟩
  case half =>
    have hr := reachedBy_half h0 hhalf
    rw [hruns hp (by rw [hr]; decide), hstate, hwidth, hr]
    exact ⟨rfl, rfl⟩
  case route =>
    rw [hruns hp (reachedBy_ne_down hgood)]
    exact trained_route hn hid hdev h0

end

/-- Settles O52: each clause is the lemma above about its row, its router's cycle or its link. -/
theorem linksAndCanopyCarryPackets : Obligations.LinksAndCanopyCarryPackets := by
  unfold Obligations.LinksAndCanopyCarryPackets
  refine ⟨?arrival, ?idle, ?inject, ?paths, ?resend, ?wire, ?wires, ?degrade, reissueTable_distGen, ?flit, ?discard, ?whole,
    ?fails, ?down,
    ?lane, ?timer, ?training, fun s hs => exec_unroutableRetry hs⟩
  case arrival => exact fun s g port p hs hw ha => exec_networkPacketArrival hs hw ha
  case idle =>
    intro s g d port p hs hp hw hd hv t
    refine ⟨fun k hk hin => netArrival_forwarded hs hp hw hd hv hk hin, ?_,
      fun hbad hout => netArrival_dropped hs hp hw hd hv hbad hout⟩
    rintro rfl h1 hok
    exact netArrival_ejected hs hp hw hd hv h1 hok
  case inject =>
    exact fun s g d dst p hd => ⟨netArrival_local hd, fun h => injectTo_xy 4 p h, fun h h' => injectTo_yx 4 p h h',
      fun h h' => injectTo_relay 4 p h h'⟩
  case paths => exact fun a b _ _ => ⟨length_xyPath a b, length_yxPath a b⟩
  case resend =>
    intro s g d hs hm r
    rw [exec_meshFlitResend hs hm]
    exact ⟨fun h => congrArg happens (meshResend_nothing h), fun h => congrArg happens (meshResend_again h)⟩
  case wire => exact fun s g d w n hs hm => exec_meshWireFailing hs w n hm
  case wires => exact corrected_wires
  case degrade =>
    intro s g d st hs hm
    rw [exec_meshLinkDegrade hs st hm]
    exact ⟨fun h => congrArg happens (meshDegrade_same h),
      fun h => ⟨congrArg happens (meshDegrade_changes h), meshLink_updMesh_stage ..⟩⟩
  case flit =>
    intro s l flit fec hs hlen k u
    rw [exec_flitReceive hs l fec hlen]
    refine ⟨fun h => congrArg happens (flitReceived_ignored h), fun h => ⟨fun hbad => congrArg happens (flitReceived_bad h hbad), ?_⟩⟩
    intro hfec hcrc hseq
    exact ⟨fun hft => congrArg happens (flitReceived_idle h hfec hcrc hseq hft),
      fun hft ht => congrArg happens (flitReceived_early h hfec hcrc hseq hft ht),
      fun hft => congrArg happens (flitReceived_accepted h hfec hcrc hseq hft)⟩
  case discard =>
    intro s n flit hl l
    exact ⟨discardFlit_again, discardFlit_first hl, acceptFlit_expects hl flit⟩
  case whole =>
    intro s p hid hlen hbody
    rw [packetIn_good hid hlen hbody]
    exact ⟨fun h => if_pos h, fun h => if_neg h⟩
  case fails =>
    intro s l hs k
    rw [exec_lossOfLock hs, exec_ackDeadline hs]
    refine ⟨fun h => congrArg happens (failLink_carries _ s h), fun h => congrArg happens (failLink_idle _ s h),
      fun h => congrArg happens (ackDeadline_acknowledged _ s h), fun h => ?_⟩
    rw [ackDeadline_waits _ s h]
    refine ⟨fun hc => congrArg happens (if_pos hc), fun hc hcar => ?_, fun hc hcar => ?_⟩
    · rw [if_neg (Bool.eq_false_iff.1 hc), failLink_carries _ s hcar]
    · rw [if_neg (Bool.eq_false_iff.1 hc), failLink_idle _ s hcar]
  case down =>
    intro s n hl k now
    have hdown : k = ((findLink s n).failedAt now).restart .down := findLink_linkDown' hl
    rw [findLink_disableLink hl, hdown]
    exact ⟨rfl, rfl, rfl, rfl, Link.latched_failedAt .., rfl, rfl⟩
  case lane =>
    intro s l lane hs k bad u
    rw [exec_linkLaneFailure hs]
    exact ⟨fun h => congrArg happens (laneFailure_down h), fun hup h => congrArg happens (laneFailure_carries_on hup h)⟩
  case timer =>
    intro s l hs
    rw [exec_linkRetrainTimer hs, retrainTimer_eq]
  case training =>
    intro s l peer hs
    rw [exec_linkTrainingDone hs]
    exact ⟨fun h => congrArg happens (trainingDone_other h),
      fun ht hl => ⟨_, rfl, trainingDone_leaves l.isLt ht hl⟩⟩

end Sys2Proof.Machine
end

section
/-! SUPPORT and the SETTLED STATEMENT of the fabric's packets (O53): what AGREE leaves of a group, and two records of one group that
hold different members. -/
namespace Sys2Proof.Machine

/-! ### AGREE (R234) -/

/-- The member's rank is the one in the record that is found; every record under the key takes the flag with that rank. -/
theorem agreeHandler_keeps {p : FabPacket} {s : State} {g : Group} (hg : findGroup s p.dstPart p.group = some g) :
    agreeHandler p s = updGroup p.dstPart p.group (fun k => { k with
      agrees := (k.agrees.filter fun x => ¬(x.1 = fld p.body 0 8 ∧ x.2.1 = rankIn g.members p.srcAddr)) ++
        [(fld p.body 0 8, rankIn g.members p.srcAddr, decide (fld p.body 8 1 % 2 = 1))] }) s := by
  obtain ⟨hpart, hid⟩ : g.part = p.dstPart ∧ g.id = p.group := by simpa using List.find?_some hg
  simp only [agreeHandler, hg, hpart, hid, ← Bool.decide_and, ← decide_not]

theorem exec_agree {s t : State} {p : FabPacket} (h : Arrives 0x04 s p t) : exec (.agree p) s = received (agreeHandler p t) := h.runs _

/-! ### What follows a packet where nothing waits (R274, R283) -/

theorem releaseReorder_of_empty {s : State} (h : s.fabric.reorder = []) : releaseReorder s = s := by
  rw [releaseReorder, h, List.filter_nil, List.filter_nil, List.append_nil, ← h]

theorem returnCredits_of_idle {s : State} (h : ∀ l ∈ s.fabric.links, l.carries = false) : returnCredits s = s := by
  have hnone : s.fabric.links.filter (fun l => l.carries && decide (0 < (l.returning s).2)) = [] :=
    List.filter_eq_nil_iff.2 fun l hl => by simp [h l hl]
  rw [returnCredits, hnone, List.foldl_nil]

theorem received_of_quiet {s : State} (hq : Quiet s) (hstore : s.fabric.reorder = []) (hlinks : ∀ l ∈ s.fabric.links, l.carries = false) :
    received s = .next s := by
  rw [received, releaseReorder_of_empty hstore, returnCredits_of_idle hlinks, happens, settle_of_quiet hq]

/-! ### Two records of one group -/

/-- A record of group 1, of partition 0, in view 1 with these members. -/
def recordOf (members : List Nat) : Group :=
  { Group.fresh 1 0 0 1 ⟨0, 0, true⟩ with epoch := 1, members := members, waiters := [], state := .member }

/-- A started device whose partition 0 has two records of group 1: in the first, address 1 has rank 0, in the second rank 1. -/
def twoRecords : State :=
  { State.reset with
    pins := { State.reset.pins with vin := true }
    start := { State.reset.start with stage := 0x40 }
    partitions := [Partition.make 0 0 false 0]
    repairs := []
    fabric := { Fabric.fresh with groups := [recordOf [1], recordOf [0, 1]] } }

/-- An AGREE of address 1 to partition 0 of the device, for group 1 and outside every flow. -/
def agreeOfOne : FabPacket := mkPacket 1 (16 * 0x7FFF) 0x04 0 1 1 0 1 []

theorem agreeOfOne_arrives : Arrives 0x04 twoRecords agreeOfOne twoRecords where
  started := by decide
  type := by decide
  here := by decide
  taken := rfl

theorem findGroup_twoRecords : findGroup twoRecords agreeOfOne.dstPart agreeOfOne.group = some (recordOf [1]) := rfl

/-- Nothing waits after either change of the groups: only they differ. -/
theorem received_updGroup_twoRecords (f : Group → Group) : received (updGroup 0 1 f twoRecords) = .next (updGroup 0 1 f twoRecords) := by
  refine received_of_quiet ⟨nofun, ?_, nofun, ?_⟩ rfl ?_
  · intro x hx
    obtain rfl := List.mem_singleton.1 hx
    exact ⟨rfl, nofun, by simp [Partition.make, Context.quiet, Context.fresh], nofun⟩
  · change atMaskOf twoRecords = 0
    decide +kernel
  · change ∀ l ∈ twoRecords.fabric.links, l.carries = false
    decide

/-- Refutes O53: its clause on AGREE takes the member's rank in each record of the group that it updates, where the device takes it in
the record it finds. No clause says that a partition has one record of a group, so two with different members tell them apart. -/
theorem not_fabricPacketsAreHandled : ¬ Obligations.FabricPacketsAreHandled := by
  unfold Obligations.FabricPacketsAreHandled
  rintro ⟨-, -, -, -, -, hgroup, -⟩
  obtain ⟨-, -, -, -, -, -, -, hagree, -⟩ := hgroup twoRecords twoRecords agreeOfOne _ findGroup_twoRecords
  have heq := hagree agreeOfOne_arrives
  rw [exec_agree agreeOfOne_arrives, agreeHandler_keeps findGroup_twoRecords, show agreeOfOne.dstPart = 0 from rfl,
    show agreeOfOne.group = 1 from rfl, received_updGroup_twoRecords, received_updGroup_twoRecords] at heq
  injection heq with hstate
  have hranks := congrArg (fun s : State => s.fabric.groups.map fun g => g.agrees) hstate
  exact absurd hranks (by decide)

end Sys2Proof.Machine
end

section
/-! SUPPORT and SETTLED STATEMENTS of steps: the queue (O1, O5), record numbers (O6) and the fused SVN (O7). -/
namespace Sys2Proof.Machine

/-- Settles O1: the step and its idling, by what is at the front of the queue and whether the network is quiet. -/
theorem stepRunsTheFrontCommand : Obligations.StepRunsTheFrontCommand := by
  unfold Obligations.StepRunsTheFrontCommand
  refine ⟨fun _ _ _ => rfl, fun s hempty => ?_⟩
  have hidle : step s = .next (idle s) := by rw [step, hempty]
  rw [hidle]
  refine ⟨fun hquiet => by rw [idle, if_pos hquiet], fun hbusy hs => ?_, fun hs => ?_⟩
  · rw [idle, hbusy, if_neg Bool.false_ne_true, event_started hs]
    rfl
  · rw [idle, event, hs, if_neg Bool.false_ne_true, ite_self]

/-- Settles O5: what a step keeps has the queue less its front command. -/
theorem queueIsFirstInFirstOut : Obligations.QueueIsFirstInFirstOut := by
  unfold Obligations.QueueIsFirstInFirstOut
  exact fun s t h => (step_kept h).pending

/-- At reset the recorder holds the records of the tests, numbered from 0 on. -/
theorem reset_recorder_sound : RecorderSound State.reset.recorder ∧ RecorderRising State.reset.recorder := by
  constructor
  · intro e he
    obtain ⟨n, hn, rfl⟩ := List.mem_map.1 he
    exact List.mem_range.1 hn
  · exact List.pairwise_map.2 List.pairwise_lt_range

/-- Settles O6: every step keeps the recorder's numbers, as `RecKept` says. -/
theorem recordNumbersNeverRepeat : Obligations.RecordNumbersNeverRepeat := by
  unfold Obligations.RecordNumbersNeverRepeat
  refine ⟨reset_recorder_sound, fun s t h => ?_⟩
  obtain ⟨hnext, hbelow, hrising⟩ := (step_kept h).recd
  exact ⟨hnext, hbelow, hrising⟩

/-- The last check of an image fails it where its security version is below the fused one. -/
theorem imageFault_of_low_svn {s : State} {img : List Byte} (hlow : fld img 8 4 < s.firmware.fusedSvn) :
    imageFault s img ≠ none := by
  simp only [imageFault, if_pos hlow]
  split_ifs <;> exact Option.some_ne_none _

/-- Settles O7: every step keeps or raises the fused SVN, and no image below it passes its checks. -/
theorem fusedSvnNeverFalls : Obligations.FusedSvnNeverFalls := by
  unfold Obligations.FusedSvnNeverFalls
  exact ⟨fun s t h => (step_kept h).svn, fun _ _ => imageFault_of_low_svn⟩

end Sys2Proof.Machine
end

section
/-! SUPPORT and SETTLED STATEMENTS of BAR0 and the queue pairs' rings: negotiation (O10), the admin pair (O11), events and
interrupts (O12), doorbells (O13) and completions (O14). -/
namespace Sys2Proof.Machine

/-! ### Rows of the host and of the floor's hardware -/

theorem next_hostAccess {f : State → State} {s : State} (h : hostReach s = true) :
    (.next (hostAccess f s) : Host.Outcome State Fault Refusal) = happens (f s) := congrArg _ (hostAccess_reach h)

theorem next_floorEvent {f : State → State} {s : State} (h : alive s = true) :
    (.next (floorEvent f s) : Host.Outcome State Fault Refusal) = happens (f s) := congrArg _ (floorEvent_alive h)

section
variable {s : State} (h : hostReach s = true)
include h

theorem exec_negotiate : exec .negotiate s = happens (doNegotiate s) := next_hostAccess h
theorem exec_admqEnable : exec .admqEnable s = happens (setAdmq s) := next_hostAccess h
theorem exec_admqDisable : exec .admqDisable s = happens (clearAdmq s) := next_hostAccess h
theorem exec_qerrClear (hi : Bool) (v : U32) : exec (.qerrClear hi v) s = happens (clearQerr hi v s) := next_hostAccess h
theorem exec_eventsClear (v : U32) : exec (.eventsClear v) s = happens (clearEvents v s) := next_hostAccess h
theorem exec_eventMaskWrite (v : U32) : exec (.eventMaskWrite v) s = happens (setMask v s) := next_hostAccess h
theorem exec_doorbellSqTail (qp : BitVec 6) (v : U32) : exec (.doorbellSqTail qp v) s = happens (writeTailOpen qp v s) :=
  next_hostAccess h
theorem exec_doorbellCqHead (qp : BitVec 6) (v : U32) : exec (.doorbellCqHead qp v) s = happens (writeHeadOpen qp v s) :=
  next_hostAccess h
theorem exec_registerWrite (off : BitVec 16) (size : Nat) (v : U32) :
    exec (.registerWrite off size v) s = happens (barWriteSized off.toNat size v s) := next_hostAccess h

end

section
variable {s : State} (h : alive s = true)
include h

theorem exec_admqDeletionDone : exec .admqDeletionDone s = happens (admqDeleted s) := next_floorEvent h
theorem exec_coalTimeExpiry (qp : BitVec 6) : exec (.coalTimeExpiry qp) s = happens (coalExpired qp s) := next_floorEvent h
theorem exec_acceptedTimeout (qp : BitVec 6) (tag : U32) :
    exec (.acceptedTimeout qp tag) s = happens (acceptedTimeout qp tag s) := next_floorEvent h

end

theorem controlOpen_of_ready {s : State} (h : s.start.ready = true) : controlOpen s = true := by
  rw [controlOpen, h, Bool.true_or]

/-! ### Negotiation (R315) -/

theorem doNegotiate_first {s : State} (hr : s.start.ready = true) (hst : s.start.stage = 0x40) (hn : s.bar.negotiated = false) :
    doNegotiate s = { s with bar := { s.bar with agreed := s.bar.requested &&& 0xFF, negotiated := true } } := by
  have hoffer : offeredNow s = 0xFF := by rw [offeredNow, hst, if_neg (by decide), offered]
  simp only [doNegotiate, controlOpen_of_ready hr, hn, hoffer, Bool.not_true, Bool.false_eq_true, if_false]

theorem doNegotiate_again {s : State} (hr : s.start.ready = true) (hn : s.bar.negotiated = true) :
    doNegotiate s = recordHost 1 0 s := by
  simp only [doNegotiate, controlOpen_of_ready hr, hn, Bool.not_true, Bool.false_eq_true, if_false, if_true]

/-- Requested bits lie at four registers from 0x1010 on. -/
theorem barWriteSized_requested {k : Nat} (hk : k < 4) (v : U32) (s : State) :
    barWriteSized (BitVec.ofNat 16 (0x1010 + 4 * k)).toNat 4 v s = writeRequested k v s := by
  have hoff : (BitVec.ofNat 16 (0x1010 + 4 * k)).toNat = 0x1010 + 4 * k := by
    rw [BitVec.toNat_ofNat]
    omega
  have hidx : (0x1010 + 4 * k - 0x1010) / 4 = k := by omega
  rw [hoff, barWriteSized, if_pos ⟨rfl, by omega⟩, barWrite, if_pos ⟨by omega, by omega⟩, hidx]

/-- Replacing 32 of the 128 requested bits leaves the others. -/
theorem part32_put (x : BitVec 128) (v : U32) {k j : Nat} (hk : k < 4) (hj : j < 4) :
    part32 ((x &&& ~~~((0xFFFFFFFF : BitVec 128) <<< (32 * k))) ||| (v.setWidth 128 <<< (32 * k))) j =
      if j = k then v else part32 x j := by
  have hones (i : Nat) : (0xFFFFFFFF : BitVec 128).getLsbD i = decide (i < 32) := by
    rw [show (0xFFFFFFFF : BitVec 128) = (BitVec.allOnes 32).setWidth 128 by decide, BitVec.getLsbD_setWidth, BitVec.getLsbD_allOnes]
    by_cases hi : i < 32 <;> simp [hi]; omega
  refine BitVec.eq_of_getLsbD_eq fun i hi => ?_
  simp only [part32, BitVec.getLsbD_setWidth, BitVec.getLsbD_ushiftRight, BitVec.getLsbD_or, BitVec.getLsbD_and, BitVec.getLsbD_not,
    BitVec.getLsbD_shiftLeft, hones]
  rcases Nat.lt_trichotomy j k with hlt | rfl | hgt
  · simp [Nat.ne_of_lt hlt, show 32 * j + i < 32 * k by omega, hi]
    omega
  · simp [hi, show 32 * j + i < 128 by omega, show i < 128 by omega]
  · simp [Nat.ne_of_gt hgt, hi, BitVec.getLsbD_of_ge v (32 * j + i - 32 * k) (by omega)]
    omega

/-- Settles O10: the lemmas above, by which of NEGOTIATE and a register is written and whether it is the first time. -/
theorem negotiationTakesEffectOnce : Obligations.NegotiationTakesEffectOnce := by
  unfold Obligations.NegotiationTakesEffectOnce
  refine ⟨fun s h hr hst hn => ?_, fun s h hr hn => ?_, fun s k v h hk hn => ?_, fun s k v h hk hn => ?_⟩
  · rw [exec_negotiate h, doNegotiate_first hr hst hn]
  · rw [exec_negotiate h, doNegotiate_again hr hn]
  · rw [exec_registerWrite h, barWriteSized_requested hk, writeRequested, if_pos hn]
  · rw [exec_registerWrite h, barWriteSized_requested hk, writeRequested, hn, if_neg Bool.false_ne_true]
    exact ⟨_, rfl, rfl, fun j hj => part32_put _ v hk hj⟩

/-! ### The admin pair (R317) -/

theorem admqGood_iff (s : State) : admqGood s = true ↔ 1 ≤ s.bar.admqCfg.toNat ∧ s.bar.admqCfg.toNat ≤ 16 ∧
    s.bar.admqSq.toNat % 4096 = 0 ∧ s.bar.admqCq.toNat % 4096 = 0 := by
  simp only [admqGood, Bool.and_eq_true, decide_eq_true_eq, and_assoc]

section
variable {s : State}

/-- ADMQ_EN set while the pair is neither enabled nor being deleted. -/
theorem setAdmq_off (hr : s.start.ready = true) (hen : s.bar.admqEn = false) (hdel : s.bar.admqDel = false) :
    setAdmq s = if admqGood s then { s with
      bar := { s.bar with admqEn := true }
      pairs := s.pairs ++ [QueuePair.make 0 true none none 0 0 1 0 s.bar.admqSq s.bar.admqCq s.bar.admqCfg.toNat] }
    else queueError 0 s := by
  simp only [setAdmq, controlOpen_of_ready hr, hen, hdel, Bool.not_true, Bool.or_self, Bool.false_eq_true, if_false]

theorem setAdmq_deleting (hdel : s.bar.admqDel = true) : setAdmq s = s := by
  simp only [setAdmq, hdel, Bool.or_true, if_true]

theorem clearAdmq_on (hr : s.start.ready = true) (hen : s.bar.admqEn = true) :
    clearAdmq s = beginDeletion 0 none { s with bar := { s.bar with admqEn := false, admqDel := true } } := by
  simp only [clearAdmq, controlOpen_of_ready hr, hen, Bool.not_true, Bool.or_self, Bool.false_eq_true, if_false]

theorem admqDeleted_empty {q : QueuePair} (hdel : s.bar.admqDel = true) (hq : findPair s 0 = some q) (hout : q.outstanding = []) :
    admqDeleted s = { s with pairs := s.pairs.filter fun x => x.qp ≠ 0, bar := { s.bar with admqDel := false } } := by
  simp only [admqDeleted, hq, hdel, hout, List.isEmpty_nil, Bool.and_self, if_true]

end

/-- The admin pair's registers lie from 0x3008 to 0x3018. -/
theorem barWriteSized_admq {off : Nat} (hlo : 0x3008 ≤ off) (hhi : off ≤ 0x3018) (halign : off % 4 = 0) (v : U32) (s : State) :
    barWriteSized off 4 v s = writeAdmq off v s := by
  rw [barWriteSized, if_pos ⟨rfl, halign⟩, barWrite, if_neg (by omega), if_neg (by omega), if_neg (by omega), if_pos ⟨hlo, hhi⟩]

theorem writeAdmq_closed {s : State} (h : s.bar.admqEn = true ∨ s.bar.admqDel = true) (off : Nat) (v : U32) :
    writeAdmq off v s = s := by
  have hbusy : (s.bar.admqEn || s.bar.admqDel || !controlOpen s) = true := by rcases h with h | h <;> simp [h]
  rw [writeAdmq, if_pos hbusy]

theorem writeAdmq_open {s : State} (hr : s.start.ready = true) (hen : s.bar.admqEn = false) (hdel : s.bar.admqDel = false)
    (off : Nat) (v : U32) : writeAdmq off v s = { s with bar :=
      if off = 0x3008 then { s.bar with admqSq := put32 false v s.bar.admqSq }
      else if off = 0x300C then { s.bar with admqSq := put32 true v s.bar.admqSq }
      else if off = 0x3010 then { s.bar with admqCq := put32 false v s.bar.admqCq }
      else if off = 0x3014 then { s.bar with admqCq := put32 true v s.bar.admqCq }
      else { s.bar with admqCfg := v.setWidth 5 } } := by
  have hfree : (s.bar.admqEn || s.bar.admqDel || !controlOpen s) = false := by simp [hen, hdel, controlOpen_of_ready hr]
  rw [writeAdmq, hfree, if_neg Bool.false_ne_true]
  split_ifs <;> rfl

/-- A write that is not 4 bytes, not aligned, or above every register is discarded (R312). -/
theorem barWriteSized_discarded {off size : Nat} (h : size ≠ 4 ∨ off % 4 ≠ 0 ∨ 0x8000 ≤ off) (v : U32) (s : State) :
    barWriteSized off size v s = s := by
  rw [barWriteSized]
  split_ifs with hserved
  · have habove : 0x8000 ≤ off := by omega
    rw [barWrite]
    repeat rw [if_neg (by omega)]
  · rfl

/-- Settles O11: enabling, disabling and deletion of the pair, then its registers. -/
theorem adminPairRules : Obligations.AdminPairRules := by
  unfold Obligations.AdminPairRules
  refine ⟨⟨?enable, admqGood_iff, ?bad, ?deleting, ?disable, ?deleted⟩, ?registers, ?closed, ?discarded⟩
  case enable =>
    intro s h hr hen hdel hgood
    rw [exec_admqEnable h, setAdmq_off hr hen hdel, if_pos hgood]
    rfl
  case bad =>
    intro s h hr hen hdel hbad
    rw [exec_admqEnable h, setAdmq_off hr hen hdel, hbad, if_neg Bool.false_ne_true]
  case deleting =>
    intro s h hdel
    rw [exec_admqEnable h, setAdmq_deleting hdel]
  case disable =>
    intro s h hr hen
    rw [exec_admqDisable h, clearAdmq_on hr hen]
  case deleted =>
    intro s q h hdel hq hout
    rw [exec_admqDeletionDone h, admqDeleted_empty hdel hq hout]
  case registers =>
    intro s v h hr hen hdel
    have hwrite (off : BitVec 16) (hlo : 0x3008 ≤ off.toNat) (hhi : off.toNat ≤ 0x3018) (halign : off.toNat % 4 = 0) :
        exec (.registerWrite off 4 v) s = happens (writeAdmq off.toNat v s) := by
      rw [exec_registerWrite h, barWriteSized_admq hlo hhi halign]
    refine ⟨?_, ?_, ?_, ?_, ?_⟩ <;> rw [hwrite _ (by decide) (by decide) (by decide), writeAdmq_open hr hen hdel] <;> rfl
  case closed =>
    intro s off v h hoff hbusy
    obtain ⟨hlo, hhi, halign⟩ : 0x3008 ≤ off.toNat ∧ off.toNat ≤ 0x3018 ∧ off.toNat % 4 = 0 := by
      simp only [List.mem_cons, List.not_mem_nil, or_false] at hoff
      rcases hoff with rfl | rfl | rfl | rfl | rfl <;> decide
    rw [exec_registerWrite h, barWriteSized_admq hlo hhi halign, writeAdmq_closed hbusy]
  case discarded =>
    intro s off size v h hout
    rw [exec_registerWrite h, barWriteSized_discarded hout]

/-! ### Events and interrupts (R316, R329) -/

/-- No bit of the mask newly set has its event. -/
theorem newly_eq_zero_iff (v : U32) (mask events : BitVec 5) : v.setWidth 5 &&& ~~~mask &&& events = 0 ↔
    ∀ k, k < 5 → v.getLsbD k = true → mask.getLsbD k = false → events.getLsbD k = false := by
  have hbit (k : Nat) (hk : k < 5) : (v.setWidth 5 &&& ~~~mask &&& events).getLsbD k =
      (v.getLsbD k && !mask.getLsbD k && events.getLsbD k) := by
    simp [hk]
  constructor
  · intro hzero k hk hv hm
    have h := hbit k hk
    rw [hzero, hv, hm] at h
    simpa using h.symm
  · intro hnone
    refine BitVec.eq_of_getLsbD_eq fun k hk => ?_
    rw [hbit k hk, show (0 : BitVec 5) = 0#5 from rfl, BitVec.getLsbD_zero]
    cases hv : v.getLsbD k
    · rfl
    · cases hm : mask.getLsbD k
      · simp [hnone k hk hv hm]
      · rfl

theorem setMask_fires {s : State} {v : U32}
    (h : ∃ k, k < 5 ∧ v.getLsbD k = true ∧ s.bar.mask.getLsbD k = false ∧ s.bar.events.getLsbD k = true) :
    setMask v s = fireVector 64 { s with bar := { s.bar with mask := v.setWidth 5 } } := by
  obtain ⟨k, hk, hv, hm, he⟩ := h
  have hnew : ¬v.setWidth 5 &&& ~~~s.bar.mask &&& s.bar.events = 0 := fun hzero =>
    Bool.false_ne_true (((newly_eq_zero_iff ..).1 hzero k hk hv hm).symm.trans he)
  rw [setMask, if_neg hnew]

theorem setMask_silent {s : State} {v : U32}
    (h : ∀ k, k < 5 → v.getLsbD k = true → s.bar.mask.getLsbD k = false → s.bar.events.getLsbD k = false) :
    setMask v s = { s with bar := { s.bar with mask := v.setWidth 5 } } := by
  rw [setMask, if_pos ((newly_eq_zero_iff ..).2 h)]

theorem raiseEvent_set {s : State} {k : Nat} (h : s.bar.events.getLsbD k = true) : raiseEvent k s = s := by
  rw [raiseEvent, if_pos h]

theorem raiseEvent_clear {s : State} {k : Nat} (h : s.bar.events.getLsbD k = false) :
    raiseEvent k s = if s.bar.mask.getLsbD k
      then fireVector 64 { s with bar := { s.bar with events := s.bar.events ||| (1#5 <<< k) } }
      else { s with bar := { s.bar with events := s.bar.events ||| (1#5 <<< k) } } := by
  rw [raiseEvent, h, if_neg Bool.false_ne_true]

theorem getLsbD_or_bit (x : BitVec 5) {j : Nat} (k : Nat) (hj : j < 5) :
    (x ||| (1#5 <<< k)).getLsbD j = (x.getLsbD j || decide (j = k)) := by
  rw [BitVec.getLsbD_or, BitVec.getLsbD_shiftLeft, BitVec.getLsbD_one]
  by_cases hlt : j < k
  · simp [hlt, Nat.ne_of_lt hlt]
  · simp [hj, hlt, show j - k = 0 ↔ j = k by omega]

theorem fireVector_sent {s : State} {v : Nat} (hup : s.cxl.up = true)
    (hm : (nth s.bar.msix v MsixEntry.fresh).ctrl.getLsbD 0 = false) : fireVector v s = { s with out := s.out ++ [.msix v] } := by
  simp only [fireVector, hup, hm, Bool.not_true, Bool.or_self, Bool.false_eq_true, if_false]

theorem fireVector_pends {s : State} {v : Nat}
    (h : s.cxl.up = false ∨ (nth s.bar.msix v MsixEntry.fresh).ctrl.getLsbD 0 = true) :
    fireVector v s = { s with bar := { s.bar with pba := s.bar.pba ||| (1#65 <<< v) } } := by
  have hwait : ((nth s.bar.msix v MsixEntry.fresh).ctrl.getLsbD 0 || !s.cxl.up) = true := by rcases h with h | h <;> simp [h]
  rw [fireVector, if_pos hwait]

theorem coalExpired_eq {s : State} {qp : BitVec 6} {q : QueuePair} (hq : findPair s qp = some q) :
    coalExpired qp s = if q.gathered = 0 then s else fireVector q.vector (updPair qp (fun q => { q with gathered := 0 }) s) := by
  simp only [coalExpired, hq]

/-- Settles O12: the registers' lemmas, the events', and the vectors'. -/
theorem statusRegistersClearByOnes : Obligations.StatusRegistersClearByOnes := by
  unfold Obligations.StatusRegistersClearByOnes
  refine ⟨⟨?clears, ?mask, fun s k _ h => raiseEvent_set h, ?raise⟩, fun s v _ hup hm => fireVector_sent hup hm,
    fun s v _ h => fireVector_pends h, ?coal, ?nothing⟩
  case clears =>
    intro s v h
    rw [exec_qerrClear h, exec_qerrClear h, exec_eventsClear h]
    exact ⟨rfl, rfl, rfl⟩
  case mask =>
    intro s v h
    rw [exec_eventMaskWrite h]
    exact ⟨fun hnew => by rw [setMask_fires hnew], fun hnone => by rw [setMask_silent hnone]⟩
  case raise =>
    intro s k _ hclear
    exact ⟨_, raiseEvent_clear hclear, rfl, fun j hj => getLsbD_or_bit _ k hj⟩
  case coal =>
    intro s qp q h hq hg
    rw [exec_coalTimeExpiry h, coalExpired_eq hq, if_neg hg]
  case nothing =>
    intro s qp q h hq hg
    rw [exec_coalTimeExpiry h, coalExpired_eq hq, if_pos hg]

/-! ### Doorbells (R318) -/

section
variable {s : State} {qp : BitVec 6} {v : U32} {q : QueuePair}

theorem writeTail_eq (hq : findPair s qp = some q) : writeTail qp v s =
    if q.depth ≤ v.toNat % 65536 ∨ (v.toNat % 65536 + q.depth - q.fetch) % q.depth < (q.tail + q.depth - q.fetch) % q.depth
    then stopPair qp (queueError qp.toNat s) else updPair qp (fun q => { q with tail := v.toNat % 65536 }) s := by
  simp only [writeTail, hq, Bool.or_eq_true, decide_eq_true_eq, badDoorbell]

theorem writeHead_eq (hq : findPair s qp = some q) : writeHead qp v s =
    if q.depth ≤ v.toNat % 65536 ∨ (q.slot + q.depth - q.head) % q.depth < (v.toNat % 65536 + q.depth - q.head) % q.depth
    then stopPair qp (queueError qp.toNat s) else flush qp (updPair qp (fun q => { q with head := v.toNat % 65536 }) s) := by
  simp only [writeHead, hq, Bool.or_eq_true, decide_eq_true_eq, badDoorbell]

theorem writeTailOpen_ready (hr : s.start.ready = true) : writeTailOpen qp v s = writeTail qp v s := by
  rw [writeTailOpen, if_pos (controlOpen_of_ready hr)]

theorem writeHeadOpen_ready (hr : s.start.ready = true) : writeHeadOpen qp v s = writeHead qp v s := by
  rw [writeHeadOpen, if_pos (controlOpen_of_ready hr)]

theorem writeTailOpen_discarded (h : findPair s qp = none ∨ controlOpen s = false) : writeTailOpen qp v s = s := by
  rcases h with h | h <;> simp [writeTailOpen, writeTail, h]

theorem writeHeadOpen_discarded (h : findPair s qp = none ∨ controlOpen s = false) : writeHeadOpen qp v s = s := by
  rcases h with h | h <;> simp [writeHeadOpen, writeHead, h]

end

/-- Settles O13: a doorbell's value decides between the two outcomes of its lemma. -/
theorem doorbellRules : Obligations.DoorbellRules := by
  unfold Obligations.DoorbellRules
  refine ⟨?tail, ?badTail, ?head, ?badHead, ?discarded, fun _ _ => rfl⟩
  case tail =>
    intro s qp v q h hr hq hdepth hforward
    rw [exec_doorbellSqTail h, writeTailOpen_ready hr, writeTail_eq hq, if_neg (by omega)]
  case badTail =>
    intro s qp v q h hr hq hbad
    rw [exec_doorbellSqTail h, writeTailOpen_ready hr, writeTail_eq hq, if_pos hbad]
  case head =>
    intro s qp v q h hr hq hdepth hforward
    rw [exec_doorbellCqHead h, writeHeadOpen_ready hr, writeHead_eq hq, if_neg (by omega)]
  case badHead =>
    intro s qp v q h hr hq hbad
    rw [exec_doorbellCqHead h, writeHeadOpen_ready hr, writeHead_eq hq, if_pos hbad]
  case discarded =>
    intro s qp v h hno
    rw [exec_doorbellSqTail h, exec_doorbellCqHead h, writeTailOpen_discarded hno, writeHeadOpen_discarded hno]
    exact ⟨rfl, rfl⟩

/-! ### Completions (R319, R326, R329) -/

section
variable {s : State} {qp : BitVec 6} {w : Waiting} {q : QueuePair}

theorem room_iff (q : QueuePair) : q.room = true ↔ (q.slot + q.depth - q.head) % q.depth + 1 < q.depth := by
  rw [QueuePair.room, decide_eq_true_eq]

theorem post_now (hq : findPair s qp = some q) (hw : q.waiting = []) (hroom : q.room = true) (hup : s.cxl.up = true) :
    post qp w s = emit q w s := by
  simp only [post, hq, hw, hroom, hup, List.isEmpty_nil, Bool.and_self, if_true]

theorem post_waits (hq : findPair s qp = some q) (h : q.waiting ≠ [] ∨ q.room = false ∨ s.cxl.up = false) :
    post qp w s = updPair qp (fun q => { q with waiting := q.waiting ++ [w] }) s := by
  have hwait : (q.waiting.isEmpty && q.room && s.cxl.up) = false := by
    rcases h with h | h | h <;> simp [h]
  simp only [post, hq, hwait, Bool.false_eq_true, if_false]

/-- A completion that counts towards an interrupt. -/
theorem gather_counted (h : w.status ≠ stAccepted ∨ q.quietAccept = false) : gather q w s =
    if q.coalCount ≤ q.gathered + 1 ∨ q.coalTime = 0 then fireVector q.vector (updPair q.qp (fun q => { q with gathered := 0 }) s)
    else updPair q.qp (fun q => { q with gathered := q.gathered + 1 }) s := by
  have hcounts : ¬(w.status = stAccepted ∧ q.quietAccept = true) := by rcases h with h | h <;> simp [h]
  rw [gather, if_neg hcounts]

theorem acceptedTimeout_posts {tag : U32} (hq : findPair s qp = some q) (hu : q.unaccepted tag = true) (hw : q.waiting = []) :
    acceptedTimeout qp tag s = post qp ⟨tag, stAccepted, 0, []⟩ s := by
  simp only [acceptedTimeout, hq, hu, hw, List.any_nil, Bool.not_false, Bool.and_self, if_true]

end

/-- Settles O14: a completion is posted or waits, and counts towards the pair's interrupt or not. -/
theorem completionsAreWrittenInOrder : Obligations.CompletionsAreWrittenInOrder := by
  unfold Obligations.CompletionsAreWrittenInOrder
  refine ⟨?posted, fun s qp w q hq h => post_waits hq h, fun s q w hw hquiet => if_pos ⟨hw, hquiet⟩, ?fires, ?gathers, room_iff,
    ?timeout⟩
  case posted =>
    intro s qp w q hq hw hroom hup
    rw [post_now hq hw hroom hup]
    rfl
  case fires =>
    intro s q w hcounts hdue
    rw [gather_counted hcounts, if_pos hdue]
  case gathers =>
    intro s q w hcounts hmore htime
    rw [gather_counted hcounts, if_neg (not_or.2 ⟨Nat.not_le.2 hmore, htime⟩)]
  case timeout =>
    intro s qp tag q h hq hu hw
    rw [exec_acceptedTimeout h, acceptedTimeout_posts hq hu hw]

end Sys2Proof.Machine
end

section
/-! SUPPORT and SETTLED STATEMENTS of the contacts, the CXL port's own events and the sideband (O9, O33). -/
namespace Sys2Proof.Machine

/-! ### The contacts (R335, R349) -/

section
variable {s : State}

theorem setBrake_on_controller (on : Bool) (h : alive s = true) (hst : 3 ≤ s.start.stage.toNat) : setBrake on s =
    paceAll { s with pins := { s.pins with brake := on }, power := { s.power with brake := on } } := by
  have hruns : (!alive { s with pins := { s.pins with brake := on } } || decide (s.start.stage.toNat < 3)) = false := by
    rw [show alive { s with pins := { s.pins with brake := on } } = true from h]
    simpa using hst
  simp only [setBrake, hruns, Bool.false_eq_true, if_false]

theorem setBrake_contact_alone (on : Bool) (h : alive s = false ∨ s.start.stage.toNat < 3) :
    setBrake on s = { s with pins := { s.pins with brake := on } } := by
  have hidle : (!alive { s with pins := { s.pins with brake := on } } || decide (s.start.stage.toNat < 3)) = true := by
    rw [show alive { s with pins := { s.pins with brake := on } } = alive s from rfl]
    simpa using h
  simp only [setBrake, hidle, if_true]

/-- VIN out of range but present. -/
theorem vinOut_halts {mv : Nat} (hv : s.pins.vin = true) (hlo : 200 ≤ mv) (hout : mv < 1700 ∨ 1900 < mv) :
    vinOut mv s = haltAll s := by
  simp only [vinOut, hv, Bool.not_true, Bool.false_eq_true, if_false, if_neg (Nat.not_lt.2 hlo), if_pos hout]

theorem vinOut_within {mv : Nat} (hlo : 1700 ≤ mv) (hhi : mv ≤ 1900) : vinOut mv s = s := by
  rw [vinOut, if_neg (show ¬mv < 200 by omega), if_neg (show ¬(mv < 1700 ∨ 1900 < mv) by omega), ite_self]

theorem vinOut_removed {mv : Nat} (hv : s.pins.vin = true) (h : mv < 200) : vinOut mv s = { s with
    start := { s.start with halted := true, selfRefresh := false }
    cxl := { s.cxl with up := false, trained := false }
    pins := { s.pins with vin := false, alert := false, thermtrip := false, railOff := false } } := by
  simp only [vinOut, hv, Bool.not_true, Bool.false_eq_true, if_false, if_pos h]

/-! ### The CXL port (R305, R333, R420, R425) -/

theorem exec_configRequest (reg : BitVec 12) (h : alive s = true) : exec (.configRequest reg) s = happens (configRequest reg.toNat s) :=
  next_floorEvent h
theorem exec_cxlLaneFailure (lane : BitVec 3) (h : alive s = true) :
    exec (.cxlLaneFailure lane) s = happens (cxlLaneFailed lane.toNat s) := next_floorEvent h
theorem exec_cxlLinkDown (h : alive s = true) : exec .cxlLinkDown s = happens (cxlDown s) := next_floorEvent h
theorem exec_cxlLinkRetrained (h : alive s = true) : exec .cxlLinkRetrained s = happens (cxlBack s) := next_floorEvent h
theorem exec_portResetBeforeReady (h : alive s = true) : exec .portResetBeforeReady s = happens (portReset s) := next_floorEvent h
theorem exec_configurationReadiness (h : alive s = true) :
    exec .configurationReadiness s = happens (configurationReady s) := next_floorEvent h

/-- A lane whose failure leaves lanes 0 to 3 or lanes 4 to 7 whole. -/
theorem cxlLaneFailed_half {lane : Nat} (hx4 : s.cxl.x4 = false)
    (h : (s.cxl.badLanes ||| (1#8 <<< lane)) &&& 0x0F#8 = 0 ∨ (s.cxl.badLanes ||| (1#8 <<< lane)) &&& 0xF0#8 = 0) :
    cxlLaneFailed lane s =
      raiseEvent evWidth { s with cxl := { s.cxl with badLanes := s.cxl.badLanes ||| (1#8 <<< lane), x4 := true } } := by
  have hhalf : (decide ((s.cxl.badLanes ||| (1#8 <<< lane)) &&& 0x0F#8 ≠ 0) &&
      decide ((s.cxl.badLanes ||| (1#8 <<< lane)) &&& 0xF0#8 ≠ 0)) = false := by
    rcases h with h | h <;> simp [h]
  simp only [cxlLaneFailed, hhalf, hx4, Bool.false_eq_true, if_false]

theorem cxlLaneFailed_both {lane : Nat} (hlo : (s.cxl.badLanes ||| (1#8 <<< lane)) &&& 0x0F#8 ≠ 0)
    (hhi : (s.cxl.badLanes ||| (1#8 <<< lane)) &&& 0xF0#8 ≠ 0) : cxlLaneFailed lane s =
      { s with cxl := { s.cxl with badLanes := s.cxl.badLanes ||| (1#8 <<< lane), up := false } } := by
  simp only [cxlLaneFailed, decide_eq_true hlo, decide_eq_true hhi, Bool.and_self, if_true]

/-- A port without a failed lane comes up; what waited is posted and fires. -/
theorem cxlRetrained_whole (hbad : s.cxl.badLanes = 0) : cxlRetrained s = s.pairs.foldl (fun s q => flush q.qp s)
    (firePending { s with cxl := { s.cxl with up := true, trained := true } }) := by
  have hpairs (t : State) : (firePending t).pairs = t.pairs :=
    List.foldlRecOn (motive := fun u : State => u.pairs = t.pairs) _ _ rfl fun u hu v _ => by
      dsimp only
      split
      · exact hu
      · exact hu
  rw [cxlRetrained, hbad, if_neg (by decide)]
  dsimp only
  rw [hpairs]

theorem cxlBack_trained (ht : s.cxl.trained = true) (hr : s.start.inReset = false) : cxlBack s = cxlRetrained s := by
  rw [cxlBack, ht, hr, Bool.not_false, Bool.and_self, if_pos rfl]

theorem configurationReady_released (hp : s.pins.perst = false) (ht : s.cxl.trained = false) (hst : 4 ≤ s.start.stage.toNat)
    (hr : s.start.inReset = false) : configurationReady s = cxlRetrained s := by
  have hopen : (s.pins.perst || s.cxl.trained || decide (s.start.stage.toNat < 4) || s.start.inReset) = false := by
    simp [hp, ht, hr, hst]
  rw [configurationReady, hopen, if_neg Bool.false_ne_true]

theorem configurationReady_held (h : s.pins.perst = true ∨ s.start.stage.toNat < 4) : configurationReady s = s := by
  have hshut : (s.pins.perst || s.cxl.trained || decide (s.start.stage.toNat < 4) || s.start.inReset) = true := by
    rcases h with h | h <;> simp [h]
  rw [configurationReady, if_pos hshut]

theorem portReset_before (hr : s.start.ready = false) : portReset s =
    { s with pins := { s.pins with perst := true }, cxl := { s.cxl with up := false, trained := false } } := by
  rw [portReset, hr, if_neg Bool.false_ne_true]

end

/-- Settles O9: PWR_BRAKE#, configuration requests, and the port's lanes and link. -/
theorem powerAndPortEvents : Obligations.PowerAndPortEvents := by
  unfold Obligations.PowerAndPortEvents
  refine ⟨?controller, ?contact, ?request, ?half, ?both, fun s h => exec_cxlLinkDown h, ?retrained⟩
  case controller =>
    exact fun s h hst => ⟨congrArg _ (setBrake_on_controller true h hst), congrArg _ (setBrake_on_controller false h hst)⟩
  case contact =>
    exact fun s h => ⟨congrArg _ (setBrake_contact_alone true h), congrArg _ (setBrake_contact_alone false h)⟩
  case request =>
    intro s reg h
    rw [exec_configRequest reg h]
    simp only [configRequest, configReady, Bool.and_eq_true, decide_eq_true_eq]
  case half =>
    intro s lane h hx4 hhalf
    rw [exec_cxlLaneFailure lane h, cxlLaneFailed_half hx4 hhalf]
  case both =>
    intro s lane h hlo hhi
    rw [exec_cxlLaneFailure lane h, cxlLaneFailed_both hlo hhi]
  case retrained =>
    intro s h ht hr hbad
    rw [exec_cxlLinkRetrained h, cxlBack_trained ht hr, cxlRetrained_whole hbad]

/-! ### The sideband (R434) -/

/-- The fields of sideband register 0: STAGE, then one bit each for READY, OOS, RESERVE_LOW and ALERT#. -/
theorem sidebandWord_fields (x : Byte) (a b c d : Bool) (n : Nat)
    (hn : n = x.toNat + (if a then 2 ^ 8 else 0) + (if b then 2 ^ 9 else 0) + (if c then 2 ^ 10 else 0) + (if d then 2 ^ 11 else 0)) :
    n < 2 ^ 12 ∧ n % 2 ^ 8 = x.toNat ∧ n.testBit 8 = a ∧ n.testBit 9 = b ∧ n.testBit 10 = c ∧ n.testBit 11 = d := by
  have hx := x.isLt
  subst hn
  simp only [Nat.testBit_eq_decide_div_mod_eq]
  cases a <;> cases b <;> cases c <;> cases d <;> simp <;> omega

/-- Settles O33: resets of the port, readiness, VIN, and what the I3C target answers. -/
theorem portStartsAndSideband : Obligations.PortStartsAndSideband := by
  unfold Obligations.PortStartsAndSideband
  refine ⟨?reset, ?ready, ?held, ?halts, fun s mv _ hlo hhi => congrArg _ (vinOut_within hlo hhi), ?removed, ?answers, ?silent, ?word⟩
  case reset =>
    intro s h hr
    rw [exec_portResetBeforeReady h, portReset_before hr]
  case ready =>
    intro s h hp ht hst hr hbad
    rw [exec_configurationReadiness h, configurationReady_released hp ht hst hr, cxlRetrained_whole hbad]
  case held =>
    intro s h hshut
    rw [exec_configurationReadiness h, configurationReady_held hshut]
  case halts =>
    intro s mv hv hlo hout
    exact congrArg _ (vinOut_halts hv hlo hout)
  case removed =>
    intro s mv hv hlow
    exact ⟨_, congrArg Host.Outcome.next (vinOut_removed hv hlow), rfl, rfl, rfl, rfl, rfl, rfl⟩
  case answers =>
    intro s off hv hst
    change Host.Outcome.next (i3cAnswer off.toNat s) = _
    rw [i3cAnswer, hv, decide_eq_true hst, Bool.and_self, if_pos rfl]
  case silent =>
    intro s off h
    change Host.Outcome.next (i3cAnswer off.toNat s) = _
    rcases h with h | h <;> simp [i3cAnswer, h]
  case word =>
    intro s
    obtain ⟨hlt, hstage, hready, hoos, hlow, halert⟩ :=
      sidebandWord_fields s.start.stage s.start.ready s.start.oos (reserveLow s) s.pins.alert _ rfl
    rw [sideband, if_pos rfl]
    refine ⟨BitVec.eq_of_toNat_eq ?_, ?_, ?_, ?_, ?_, fun k hk => ?_⟩
    · rw [BitVec.toNat_setWidth, BitVec.toNat_ofNat, Nat.mod_eq_of_lt (Nat.lt_trans hlt (by decide)), hstage]
    all_goals rw [BitVec.getLsbD_ofNat]
    · rw [hready]; rfl
    · rw [hoos]; rfl
    · rw [hlow]; rfl
    · rw [halert]; rfl
    · rw [Nat.testBit_lt_two_pow (Nat.lt_of_lt_of_le hlt (Nat.pow_le_pow_right (by decide) hk)), Bool.and_false]

end Sys2Proof.Machine
end

section
/-! SUPPORT and SETTLED STATEMENTS of the checks of R325 (O15) and the queue commands (O17). -/
namespace Sys2Proof.Machine

/-! ### The checks, in their order (R325) -/

section
variable {s : State} {q : QueuePair} {p : Packet} {row : CmdRow} (hrow : findCommand p.opcode.toNat = some row)
include hrow

theorem headerFault_reserved (h : p.plen.toNat / 2 ^ 20 ≠ 0) : headerFault s q p = some ⟨0x0102, 0x01000000, []⟩ := by
  simp only [headerFault, hrow, if_pos h]
  rfl

theorem headerFault_empty (h : p.plen = 0) : headerFault s q p = some ⟨0x0000, 0, []⟩ := by
  simp only [headerFault, hrow, plenOf, h]
  rfl

/-- Checks 3 to 9 of an entry with parameters, the first failure first. -/
theorem headerFault_checks (h0 : p.plen ≠ 0) (hlen : p.plen.toNat < 2 ^ 20) : headerFault s q p =
    if s.bar.agreed.getLsbD 0 = false ∨ s.bar.agreed.getLsbD row.feature = false ∨
        (pktExpert p = true ∧ s.bar.agreed.getLsbD 1 = false) then some ⟨0x0104, 0, []⟩
    else if bindingOk s q p = false ∨ (row.operatorOnly = true ∧ q.operator = false) ∨
        (s.start.ready = false ∧ recoveryAccepts p = false) then some ⟨0x0301, 0, []⟩
    else if actsOn s q p = true ∧ issuerScrubbing s p = true ∧ p.opcode ≠ 0x0A03 then some ⟨0x0202, 0, []⟩
    else if (row.expert = true ∧ pktExpert p = false) ∨ (pktExpert p = true ∧ q.expertOk = false) then some ⟨0x0105, 0, []⟩
    else if p.cfgver ≠ 0 ∧ p.cfgver ≠ cfgVersion s then some ⟨0x0106, 0, []⟩
    else if pktInline p = true ∧ 96 < p.plen.toNat then some ⟨0x0102, 0x02000000, []⟩
    else if row.accepts p.plen.toNat = false then some ⟨0x0102, 0x03000000, []⟩
    else none := by
  have hdiv : p.plen.toNat / 2 ^ 20 = 0 := Nat.div_eq_of_lt hlen
  have hplen : plenOf p = p.plen.toNat := Nat.mod_eq_of_lt hlen
  have hpos : ¬p.plen.toNat = 0 := fun h => h0 (BitVec.eq_of_toNat_eq h)
  simp only [headerFault, hrow, hdiv, hplen, hpos, ne_eq, not_true, if_false, Bool.or_eq_true, Bool.and_eq_true, Bool.not_eq_true',
    decide_eq_true_eq, or_assoc, and_assoc, agreed, featBase, featExpert, decide_not,
    decide_eq_false_iff_not]
  rfl

end

/-- An entry that fails a check has its completion for its whole effect. -/
theorem fetchPacket_failed {body : CmdBody} {p : Packet} {s : State} {q : QueuePair} {e : Stop} (hq : findPair s p.qp = some q)
    (hf : canFetch s q = true) (he : passChecks (fetchedState p s) q p = .error e) :
    fetchPacket body p s = settle (finish (pktOrigin p) e.status e.detail e.result (fetchedState p s)) := by
  have he' : passChecks (updPair p.qp (fun q => q.fetched p) s) q p = .error e := he
  simp only [fetchPacket, hq, hf, he', Bool.not_true, Bool.false_eq_true, if_false]
  rfl

/-- Settles O15: where every check before one is passed and that one fails, the chain of checks stops there. -/
theorem checksComeInOrder : Obligations.ChecksComeInOrder := by
  unfold Obligations.ChecksComeInOrder
  refine ⟨fun body p s q e hq hf he => fetchPacket_failed hq hf he, fun s q p hno => ?unlisted, fun s q p row hrow =>
    ⟨headerFault_reserved hrow, headerFault_empty hrow, fun h0 hlen => ?checks⟩⟩
  case unlisted => simp only [headerFault, hno, Stop.plain, stBadOpcode]
  case checks =>
    rw [headerFault_checks hrow h0 hlen]
    refine ⟨fun hfeat => if_pos hfeat, fun hbase hrowf hexp => ?_⟩
    rw [if_neg (by simpa [hbase, hrowf] using hexp)]
    refine ⟨fun hbind => if_pos hbind, fun hbind hop hready => ?_⟩
    rw [if_neg (by simpa [hbind, hready] using hop)]
    refine ⟨fun hscrub => if_pos hscrub, fun hscrub => ?_⟩
    rw [if_neg (by rcases hscrub with h | h | h <;> simp [h])]
    refine ⟨fun hexpert => if_pos hexpert, fun hneed hmay => ?_⟩
    rw [if_neg (by simpa using And.intro hneed hmay)]
    refine ⟨fun hcfg => if_pos hcfg, fun hcfg => ?_⟩
    rw [if_neg (by rcases hcfg with h | h <;> simp [h])]
    have hfits (h : pktInline p = false ∨ p.plen.toNat ≤ 96) : ¬(pktInline p = true ∧ 96 < p.plen.toNat) := by
      rcases h with h | h <;> simp [h]
    refine ⟨fun hinl hlong => if_pos ⟨hinl, hlong⟩, fun h hbad => ?_, fun h hgood => ?_⟩
    · rw [if_neg (hfits h), if_pos hbad]
    · rw [if_neg (hfits h), hgood, if_neg (by decide)]

/-! ### Queue commands (R320, R321) -/

section
variable {s : State} {q : QueuePair} {p c : Packet}

theorem exec_queueCreate (h : Fetches 0x0101 s q p c) :
    exec (.queueCreate p) s = .next (settle (deliver c (cmdQueueCreate q c (fetchedState p s)))) := h.runs cmdQueueCreate
theorem exec_queueDelete (h : Fetches 0x0102 s q p c) :
    exec (.queueDelete p) s = .next (settle (deliver c (cmdQueueDelete q c (fetchedState p s)))) := h.runs cmdQueueDelete
theorem exec_queueStatus (h : Fetches 0x0103 s q p c) :
    exec (.queueStatus p) s = .next (settle (deliver c (cmdQueueStatus q c (fetchedState p s)))) := h.runs cmdQueueStatus

/-- QUEUE_CREATE's limits on the fields of its parameters (R320). -/
structure QueueCreateFields (c : Packet) : Prop where
  pair : 1 ≤ par c 0 1 ∧ par c 0 1 ≤ 63
  depth : 1 ≤ par c 1 1 ∧ par c 1 1 ≤ 16
  role : par c 2 1 ≤ 1
  vector : par c 6 1 ≤ 63
  time : par c 24 2 ≤ 1000
  bases : par c 8 8 % 4096 = 0 ∧ par c 16 8 % 4096 = 0
  part : par c 3 1 ≤ 15 ∨ par c 3 1 = 255 ∧ par c 2 1 = 0
  ctx : par c 4 1 ≤ 7 ∨ par c 4 1 = 255 ∧ par c 2 1 = 0

theorem cmdQueueCreate_adds (hf : QueueCreateFields c) (hfree : findPair s (BitVec.ofNat 6 (par c 0 1)) = none)
    (hpart : par c 3 1 = 255 ∨ (findPart s (BitVec.ofNat 4 (par c 3 1))).isSome) :
    cmdQueueCreate q c s = ok [] { s with pairs := s.pairs ++ [QueuePair.make (par c 0 1) (decide (par c 2 1 = 0))
      (if par c 3 1 = 255 then none else some (BitVec.ofNat 4 (par c 3 1)))
      (if par c 4 1 = 255 then none else some (BitVec.ofNat 3 (par c 4 1)))
      (par c 5 1) (par c 6 1) (par c 7 1) (par c 24 2) (BitVec.ofNat 64 (par c 8 8)) (BitVec.ofNat 64 (par c 16 8)) (par c 1 1)] } := by
  obtain ⟨⟨hp0, hp63⟩, ⟨hd1, hd16⟩, hrole, hvec, htime, ⟨hsq, hcq⟩, hparts, hctx⟩ := hf
  have hpartsOk : (decide (15 < par c 3 1) && !(decide (par c 3 1 = 255) && decide (par c 2 1 = 0))) = false := by
    rcases hparts with h | ⟨h, h'⟩ <;> simp [*]
  have hctxOk : (decide (7 < par c 4 1) && !(decide (par c 4 1 = 255) && decide (par c 2 1 = 0))) = false := by
    rcases hctx with h | ⟨h, h'⟩ <;> simp [*]
  have hexists : (decide (par c 3 1 ≠ 255) && (findPart s (BitVec.ofNat 4 (par c 3 1))).isNone) = false := by
    rcases hpart with h | h
    · simp [h]
    · simp [Option.isNone_eq_false_iff.2 h]
  have hnum : (decide (par c 0 1 = 0) || decide (63 < par c 0 1) || (findPair s (BitVec.ofNat 6 (par c 0 1))).isSome) = false := by
    simp [hfree, hp63, Nat.ne_of_gt hp0]
  have hlimits : (decide (par c 1 1 = 0) || decide (16 < par c 1 1) || decide (1 < par c 2 1) || decide (63 < par c 6 1) ||
      decide (1000 < par c 24 2) || decide (par c 8 8 % 4096 ≠ 0) || decide (par c 16 8 % 4096 ≠ 0)) = false := by
    simp [Nat.ne_of_gt hd1, hd16, hrole, hvec, htime, hsq, hcq]
  simp only [cmdQueueCreate, hnum, hlimits, hpartsOk, hctxOk, hexists, Bool.or_self, Bool.false_eq_true, if_false]

theorem cmdQueueCreate_refused (h : par c 0 1 = 0 ∨ 63 < par c 0 1 ∨ (findPair s (BitVec.ofNat 6 (par c 0 1))).isSome) :
    cmdQueueCreate q c s = fail stNotPermitted s := by
  have hnum : (decide (par c 0 1 = 0) || decide (63 < par c 0 1) || (findPair s (BitVec.ofNat 6 (par c 0 1))).isSome) = true := by
    rcases h with h | h | h <;> simp [h]
  simp only [cmdQueueCreate, hnum, if_true]

theorem cmdQueueDelete_begins {d : QueuePair} (h1 : 1 ≤ par c 0 1) (h63 : par c 0 1 ≤ 63)
    (hother : BitVec.ofNat 6 (par c 0 1) ≠ c.qp) (hd : findPair s (BitVec.ofNat 6 (par c 0 1)) = some d) (hst : d.state ≠ .deleting) :
    cmdQueueDelete q c s = (.waits, beginDeletion (BitVec.ofNat 6 (par c 0 1)) (some (pktOrigin c)) s) := by
  simp [cmdQueueDelete, Nat.ne_of_gt h1, h63, hd, hother, hst]

theorem cmdQueueDelete_own (h1 : 1 ≤ par c 0 1) (h63 : par c 0 1 ≤ 63) (hown : BitVec.ofNat 6 (par c 0 1) = c.qp) :
    cmdQueueDelete q c s = fail stNotPermitted s := by
  simp only [cmdQueueDelete, Nat.ne_of_gt h1, Nat.not_lt.2 h63, hown, decide_false, decide_true, Bool.or_self, Bool.true_or,
    Bool.false_eq_true, if_false, if_true]
  split <;> rfl

/-- QUEUE_STATUS of a pair that the issuer may ask about. -/
theorem cmdQueueStatus_eq (h63 : par c 0 1 ≤ 63) (hmay : q.operator = true ∨ BitVec.ofNat 6 (par c 0 1) = q.qp) :
    cmdQueueStatus q c s = match findPair s (BitVec.ofNat 6 (par c 0 1)) with
      | none => ok (zeros 16) s
      | some d => ok (toLE 2 d.fetch ++ toLE 2 d.slot ++ toLE 4 d.outstanding.length ++ toLE 4 (heldOfPair s d.qp) ++
          toLE 1 (match d.state with | .active => 1 | .stopped => 2 | .deleting => 3) ++ zeros 3) s := by
  have hmine : (!q.operator && decide (BitVec.ofNat 6 (par c 0 1) ≠ q.qp)) = false := by rcases hmay with h | h <;> simp [h]
  simp only [cmdQueueStatus, Nat.not_lt.2 h63, hmine, Bool.false_eq_true, if_false] <;> rfl

end

/-- Settles O17: each command's lemma, run by its row. -/
theorem queueCommands : Obligations.QueueCommands := by
  unfold Obligations.QueueCommands
  refine ⟨?create, ?refused, ?delete, ?own, ?status, ?absent⟩
  case create =>
    intro s q p c h hp0 hp63 hfree hd1 hd16 hrole hvec htime hsq hcq hparts hctx hpart
    have hadds := cmdQueueCreate_adds (q := q) ⟨⟨hp0, hp63⟩, ⟨hd1, hd16⟩, hrole, hvec, htime, ⟨hsq, hcq⟩, hparts, hctx⟩ hfree hpart
    rw [exec_queueCreate h, hadds, deliver_ok, h.origin]
    rfl
  case refused =>
    intro s q p c h hbad
    rw [exec_queueCreate h, cmdQueueCreate_refused hbad, deliver_fail, h.origin]
  case delete =>
    intro s q d p c h h1 h63 hother hd hst
    rw [exec_queueDelete h, cmdQueueDelete_begins h1 h63 (h.qp ▸ hother) hd hst, deliver_waits, h.origin]
    rfl
  case own =>
    intro s q p c h h1 h63 hown
    rw [exec_queueDelete h, cmdQueueDelete_own h1 h63 (h.qp ▸ hown), deliver_fail, h.origin]
  case status =>
    intro s q d p c h h63 hmay hd
    rw [exec_queueStatus h, cmdQueueStatus_eq h63 hmay, hd]
    dsimp only
    rw [deliver_ok, h.origin]
    rfl
  case absent =>
    intro s q p c h h63 hop hno
    rw [exec_queueStatus h, cmdQueueStatus_eq h63 (.inl hop), hno]
    dsimp only
    rw [deliver_ok, h.origin]
    rfl

end Sys2Proof.Machine
end

section
/-! SUPPORT and SETTLED STATEMENTS of the host's windows: the commands that bind them (O27), and CXL.mem accesses (O28). -/
namespace Sys2Proof.Machine

/-! ### Binding (R307 to R309, R311) -/

section
variable {s : State} {q : QueuePair} {p c : Packet}

theorem exec_hdmBind (h : Fetches 0x0310 s q p c) :
    exec (.hdmBind p) s = .next (settle (deliver c (cmdHdmBind q c (fetchedState p s)))) := h.runs cmdHdmBind
theorem exec_hdmUnbind (h : Fetches 0x0311 s q p c) :
    exec (.hdmUnbind p) s = .next (settle (deliver c (cmdHdmUnbind q c (fetchedState p s)))) := h.runs cmdHdmUnbind
theorem exec_hdmStatus (h : Fetches 0x0312 s q p c) :
    exec (.hdmStatus p) s = .next (settle (deliver c (cmdHdmStatus q c (fetchedState p s)))) := h.runs cmdHdmStatus

theorem cmdHdmBind_fields (h : 3 < par c 0 1 ∨ 15 < par c 1 1) : cmdHdmBind q c s = fail stBadLength s := by
  have hbad : (decide (3 < par c 0 1) || decide (15 < par c 1 1)) = true := by simpa using h
  simp only [cmdHdmBind, hbad, if_true]

section
variable (hn : par c 0 1 ≤ 3) (hp : par c 1 1 ≤ 15)
include hn hp

theorem cmdHdmBind_absent (hx : findPart s (BitVec.ofNat 4 (par c 1 1)) = none) : cmdHdmBind q c s = fail stNotPermitted s := by
  simp [cmdHdmBind, hn, hp, hx]

variable {x : Partition} (hx : findPart s (BitVec.ofNat 4 (par c 1 1)) = some x)
include hx

theorem cmdHdmBind_scrubbing (hs : x.scrubbing = true) : cmdHdmBind q c s = fail stScrubbing s := by
  simp [cmdHdmBind, hn, hp, hx, hs]

theorem cmdHdmBind_confidential (hs : x.scrubbing = false) (hc : x.confidential = true) :
    cmdHdmBind q c s = fail stConfidential s := by
  simp [cmdHdmBind, hn, hp, hx, hs, hc]

variable (hs : x.scrubbing = false) (hc : x.confidential = false)
include hs hc

theorem cmdHdmBind_unknown (hr : x.region (par32 c 4) = none) : cmdHdmBind q c s = fail stNotPermitted s := by
  simp [cmdHdmBind, hn, hp, hx, hs, hc, hr]

variable {r : Region} (hr : x.region (par32 c 4) = some r)
include hr

theorem cmdHdmBind_binds (hhost : r.host = true) (hfree : (nth s.cxl.decoders (par c 0 1) Decoder.fresh).bound = none) :
    cmdHdmBind q c s = ok (toLE 8 r.size ++ toLE 8 (2 ^ 28 * ceilDiv r.size (2 ^ 28)))
      (updDecoder (par c 0 1) (fun d => { d with bound := some (BitVec.ofNat 4 (par c 1 1), r.handle) }) s) := by
  simp [cmdHdmBind, hn, hp, hx, hs, hc, hr, hhost, hfree]

theorem cmdHdmBind_refused (h : r.host = false ∨ (nth s.cxl.decoders (par c 0 1) Decoder.fresh).bound ≠ none) :
    cmdHdmBind q c s = fail stNotPermitted s := by
  have hbad : (!r.host || (nth s.cxl.decoders (par c 0 1) Decoder.fresh).bound.isSome) = true := by
    simpa [Option.isSome_iff_ne_none] using h
  simp only [cmdHdmBind, Nat.not_lt.2 hn, Nat.not_lt.2 hp, decide_false, Bool.or_self, hx, hs, hc, hr, hbad, Bool.false_eq_true,
    if_false, if_true]

end

/-- Each decoder's handle, all ones where it has none or another's. -/
theorem cmdHdmStatus_eq : cmdHdmStatus q c s = ok (s.cxl.decoders.flatMap fun d => toLE 4 (match d.bound with
    | some (x, h) => if q.operator || x = pktPart c then h.toNat else 0xFFFFFFFF
    | none => 0xFFFFFFFF)) s := by
  refine congrArg (fun f => ok (s.cxl.decoders.flatMap f) s) (funext fun d => ?_)
  rcases d.bound with _ | ⟨x, h⟩ <;> rfl

end

/-- Settles O27: each command by its own lemma; the window's size is the region's, rounded up. -/
theorem windowCommands : Obligations.WindowCommands := by
  unfold Obligations.WindowCommands
  refine ⟨?known, ?others, ?fields, ?unbind, ?status, fun s n base size h => ?commit⟩
  case known =>
    intro s q p c x r h hn hp hx hs hc hr
    rw [exec_hdmBind h]
    refine ⟨fun hhost hfree => ?_, fun hbad => ?_⟩
    · rw [cmdHdmBind_binds (s := fetchedState p s) hn hp hx hs hc hr hhost hfree, deliver_ok, h.origin, ceilDiv,
        Nat.add_sub_assoc (Nat.two_pow_pos 28)]
      rfl
    · rw [cmdHdmBind_refused (s := fetchedState p s) hn hp hx hs hc hr hbad, deliver_fail, h.origin]
  case others =>
    intro s q p c h hn hp
    rw [exec_hdmBind h]
    refine ⟨fun hx => ?_, fun x hx => ⟨fun hs => ?_, fun hs hc => ?_, fun hs hc hr => ?_⟩⟩
    · rw [cmdHdmBind_absent (s := fetchedState p s) hn hp hx, deliver_fail, h.origin]
    · rw [cmdHdmBind_scrubbing (s := fetchedState p s) hn hp hx hs, deliver_fail, h.origin]
    · rw [cmdHdmBind_confidential (s := fetchedState p s) hn hp hx hs hc, deliver_fail, h.origin]
    · rw [cmdHdmBind_unknown (s := fetchedState p s) hn hp hx hs hc hr, deliver_fail, h.origin]
  case fields =>
    intro s q p c h hbad
    rw [exec_hdmBind h, cmdHdmBind_fields hbad, deliver_fail, h.origin]
  case unbind =>
    intro s q p c h
    rw [exec_hdmUnbind h, cmdHdmUnbind]
    refine ⟨fun hn => ?_, fun hn => ?_⟩
    · rw [if_neg (Nat.not_lt.2 hn), deliver_ok, h.origin]
      rfl
    · rw [if_pos hn, deliver_fail, h.origin]
  case status =>
    intro s q p c h
    rw [exec_hdmStatus h, cmdHdmStatus_eq, deliver_ok, h.origin, h.part]
    rfl
  case commit =>
    refine (next_hostAccess h).trans ?_
    rw [decoderCommit, BitVec.ofNat_toNat, BitVec.setWidth_eq]

/-! ### Accesses (R199, R307) -/

/-- Only the counts of flits and of bursts differ: what travelling and clean reads leave. -/
def countsOnly (s t : State) : Prop := t = { s with net := t.net, laneCounts := t.laneCounts }

theorem countsOnly.refl (s : State) : countsOnly s s := rfl

theorem countsOnly.trans {s t u : State} (h : countsOnly s t) (h' : countsOnly t u) : countsOnly s u := by
  unfold countsOnly at *
  rw [h', h]

theorem countsOnly_foldl {α : Type} {f : State → α → State} (l : List α) (hf : ∀ s x, countsOnly s (f s x)) (s : State) :
    countsOnly s (l.foldl f s) :=
  List.foldlRecOn (motive := countsOnly s) l f (.refl s) fun t ht x _ => ht.trans (hf t x)

theorem updNet_countsOnly (g : Nat) (f : NetCtr → NetCtr) (s : State) : countsOnly s (updNet g f s) := by
  unfold updNet
  split
  · split <;> rfl
  · rfl

theorem travel_countsOnly (kind : NetKind) (a b n : Nat) (s : State) : countsOnly s (travel kind a b n s) :=
  (countsOnly_foldl (route s a b) (fun _ _ => updNet_countsOnly ..) s).trans (updNet_countsOnly ..)

theorem cxlTravel_countsOnly (core request response : Nat) (s : State) : countsOnly s (cxlTravel core request response s) :=
  (travel_countsOnly ..).trans (travel_countsOnly ..)

theorem countsOnly.lineState {s t : State} (h : countsOnly s t) (l : Nat) : Machine.lineState t l = Machine.lineState s l := by
  rw [h]
  rfl

theorem countsOnly.onAbsorbed {s t : State} (h : countsOnly s t) (l : Nat) : Machine.onAbsorbed t l = Machine.onAbsorbed s l := by
  rw [h]
  rfl

/-- A line that can be read as it is. -/
def ReadsClean (e : ReadErrors) (s : State) (l : Nat) : Prop :=
  lineState s l ≠ some .lost ∧ onAbsorbed s l = false ∧ decodePattern (errorsOf e l) = .clean

theorem readLines_clean (who : Nat) (again : List Nat) {e : ReadErrors} {ls : List Nat} {s : State}
    (h : ∀ l ∈ ls, ReadsClean e s l) : (readLines who again e ls s).1 = true ∧ countsOnly s (readLines who again e ls s).2 := by
  refine List.foldlRecOn (motive := fun b : Bool × State => b.1 = true ∧ countsOnly s b.2) ls _ ⟨rfl, .refl s⟩ ?_
  rintro b ⟨hb, hs⟩ l hl
  obtain ⟨hlost, habs, hclean⟩ := h l hl
  rw [readLine_clean who again (hs.lineState l ▸ hlost) (hs.onAbsorbed l ▸ habs) hclean]
  exact ⟨Bool.and_eq_true_iff.2 ⟨hb, rfl⟩, hs.trans rfl⟩

theorem asReadLines_clean {e : ReadErrors} {ls : List Nat} (h : ∀ l ∈ ls, decodePattern (errorsOf e l) = .clean) (s : State) :
    asReadLines e ls s = s :=
  List.foldlRecOn (motive := fun t : State => t = s) ls _ rfl fun t ht l hl => by rw [ht, asRead_seen (.inl (h l hl))]

section
variable {s : State} {hpa : U64}

theorem exec_cxlMemRead {len : Nat} (e : ReadErrors) (h : hostReach s = true) (ha : lineAccess hpa len = true) :
    exec (.cxlMemRead hpa len e) s = happens (cxlRead hpa.toNat len e s) := by
  have hrow : exec (.cxlMemRead hpa len e) s = answer (lineAccess hpa len) (hostAccess (cxlRead hpa.toNat len e) s) := rfl
  rw [hrow, answer, if_pos ha, next_hostAccess h]

theorem exec_cxlMemWrite {data : List Byte} (e : ReadErrors) (h : hostReach s = true) (ha : lineAccess hpa data.length = true) :
    exec (.cxlMemWrite hpa data e) s = happens (cxlWrite hpa.toNat data e s) := by
  have hrow : exec (.cxlMemWrite hpa data e) s = answer (lineAccess hpa data.length) (hostAccess (cxlWrite hpa.toNat data e) s) := rfl
  rw [hrow, answer, if_pos ha, next_hostAccess h]

theorem noteUnbound_noted {n : Nat} (h : (nth s.cxl.decoders n Decoder.fresh).noted = true) : noteUnbound n s = s := if_pos h

theorem noteUnbound_new {n : Nat} (h : (nth s.cxl.decoders n Decoder.fresh).noted = false) :
    noteUnbound n s = recordHost 4 n (updDecoder n (fun d => { d with noted := true }) s) := by
  rw [noteUnbound, h, if_neg Bool.false_ne_true]

end

section
variable {s : State} {a n x : Nat}

/-- What an access of a committed window of a device in service finds there. -/
theorem cxlRead_window (len : Nat) (e : ReadErrors) (hd : decoderAt s a = some (n, x)) (ho : s.start.oos = false) :
    cxlRead a len e s = match windowAt s n x len with
      | .unbound => noteUnbound n (cxlOut (zeros len) true s)
      | .scrubbing => cxlOut (zeros len) true s
      | .at addrs =>
        let ls := ((addrs.map lineOf).eraseDups).filter fun l => lineState s l ≠ none
        let r := readLines 4 [] e ls ((coresOf addrs).foldl (fun s c => cxlTravel c 1 2 s) s)
        if r.1 then cxlOut (readAt (asReadLines e ls r.2) addrs) false { r.2 with draw := (asReadLines e ls r.2).draw }
        else cxlOut (zeros len) true r.2 := by
  simp only [cxlRead, hd, ho, Bool.false_eq_true, if_false] <;> rfl

theorem cxlWrite_window (data : List Byte) (e : ReadErrors) (hd : decoderAt s a = some (n, x)) (ho : s.start.oos = false) :
    cxlWrite a data e s = match windowAt s n x data.length with
      | .unbound => noteUnbound n s
      | .scrubbing => s
      | .at addrs =>
        let t := (coresOf addrs).foldl (fun s c => cxlTravel c 2 1 s) s
        let ls := ((addrs.map lineOf).eraseDups).filter fun l => lineState s l = some .valid
        writeAt addrs data (if data.length < 64 then ls.foldl (fun s l => mergeLine e l s) t else t) := by
  simp only [cxlWrite, hd, ho, Bool.false_eq_true, if_false] <;> rfl

theorem cxlRead_out_of_service (len : Nat) (e : ReadErrors) (hd : decoderAt s a = some (n, x)) (ho : s.start.oos = true) :
    cxlRead a len e s = cxlOut (zeros len) true s := by simp only [cxlRead, hd, ho, if_true]

theorem cxlWrite_out_of_service (data : List Byte) (e : ReadErrors) (hd : decoderAt s a = some (n, x)) (ho : s.start.oos = true) :
    cxlWrite a data e s = s := by simp only [cxlWrite, hd, ho, if_true]

theorem cxlRead_outside (len : Nat) (e : ReadErrors) (hd : decoderAt s a = none) : cxlRead a len e s = s := by
  simp only [cxlRead, hd]

theorem cxlWrite_outside (data : List Byte) (e : ReadErrors) (hd : decoderAt s a = none) : cxlWrite a data e s = s := by
  simp only [cxlWrite, hd]

/-- A read whose lines all read clean gives the bytes of memory, and leaves them. -/
theorem cxlRead_clean {len : Nat} {e : ReadErrors} {addrs : List Nat} (hd : decoderAt s a = some (n, x)) (ho : s.start.oos = false)
    (hw : windowAt s n x len = .at addrs) (hclean : ∀ l ∈ addrs.map lineOf, ReadsClean e s l) :
    ∃ u : State, cxlRead a len e s = cxlOut (addrs.map (memGet s.mem)) false u ∧
      u.mem = s.mem ∧ u.tags = s.tags ∧ u.parity = s.parity := by
  let ls := ((addrs.map lineOf).eraseDups).filter fun l => lineState s l ≠ none
  let t := (coresOf addrs).foldl (fun s c => cxlTravel c 1 2 s) s
  have ht : countsOnly s t := countsOnly_foldl _ (fun _ _ => cxlTravel_countsOnly ..) s
  have hls : ∀ l ∈ ls, ReadsClean e s l := fun l hl => hclean l (List.mem_eraseDups.1 (List.mem_filter.1 hl).1)
  have hlst : ∀ l ∈ ls, ReadsClean e t l := fun l hl => by
    obtain ⟨hlost, habs, hdec⟩ := hls l hl
    exact ⟨ht.lineState l ▸ hlost, ht.onAbsorbed l ▸ habs, hdec⟩
  obtain ⟨hread, hcounts⟩ := readLines_clean 4 [] hlst
  have hu : countsOnly s (readLines 4 [] e ls t).2 := ht.trans hcounts
  have hmem : (readLines 4 [] e ls t).2.mem = s.mem := by rw [hu]
  refine ⟨(readLines 4 [] e ls t).2, ?_, hmem, by rw [hu], by rw [hu]⟩
  rw [cxlRead_window len e hd ho, hw]
  change (if (readLines 4 [] e ls t).1 then _ else _) = _
  rw [if_pos hread, asReadLines_clean (fun l hl => (hls l hl).2.2), readAt, hmem]

theorem windowAt_bound {part : BitVec 4} {h : U32} {y : Partition} {r : Region} (len : Nat)
    (hb : (nth s.cxl.decoders n Decoder.fresh).bound = some (part, h)) (hy : findPart s part = some y) (hr : y.region h = some r) :
    windowAt s n x len = if y.scrubbing then .scrubbing
      else if x + len ≤ r.size then .at ((List.range len).map fun i => r.addr (x + i)) else .unbound := by
  simp only [windowAt, hb, hy, hr, Option.bind_some, Option.map_some]

end

/-- Settles O28: what the address finds decides, and then what the window is. -/
theorem windowAccesses : Obligations.WindowAccesses := by
  unfold Obligations.WindowAccesses
  refine ⟨?read, ?write, ?oos, ?outside, fun s n x len h => ?unbound, ?window⟩
  case read =>
    intro s hpa len n x e h ha hd ho
    rw [exec_cxlMemRead e h ha]
    refine ⟨fun addrs hw => ⟨fun hr => ?_, fun hr => ?_, fun hclean => ?_⟩, fun hw => ?_, fun hw hn => ?_, fun hw hn => ?_⟩
    · rw [cxlRead_window len e hd ho, hw]
      exact congrArg happens (if_pos hr)
    · rw [cxlRead_window len e hd ho, hw]
      exact congrArg happens (if_neg (by rw [hr]; decide))
    · obtain ⟨u, hu, hkept⟩ := cxlRead_clean hd ho hw hclean
      exact ⟨u, congrArg happens hu, hkept⟩
    · rw [cxlRead_window len e hd ho, hw]
      rfl
    · rw [cxlRead_window len e hd ho, hw]
      exact congrArg happens (noteUnbound_noted (s := cxlOut (zeros len) true s) hn)
    · rw [cxlRead_window len e hd ho, hw]
      exact congrArg happens (noteUnbound_new (s := cxlOut (zeros len) true s) hn)
  case write =>
    intro s hpa data n x e h ha hd ho
    rw [exec_cxlMemWrite e h ha, cxlWrite_window data e hd ho]
    refine ⟨fun addrs hw => ⟨fun hfull => ?_, fun hpart => ?_⟩, fun hw => by rw [hw], fun hw hn => ?_, fun hw hn => ?_⟩
    · rw [hw]
      exact congrArg (fun u => happens (writeAt addrs data u)) (if_neg (Nat.not_lt.2 (Nat.le_of_eq hfull.symm)))
    · rw [hw]
      exact congrArg (fun u => happens (writeAt addrs data u)) (if_pos hpart)
    · rw [hw]
      exact congrArg happens (noteUnbound_noted hn)
    · rw [hw]
      exact congrArg happens (noteUnbound_new hn)
  case oos =>
    intro s hpa len n x data e h hd ho
    refine ⟨fun ha => ?_, fun ha => ?_⟩
    · rw [exec_cxlMemRead e h ha, cxlRead_out_of_service len e hd ho]
      rfl
    · rw [exec_cxlMemWrite e h ha, cxlWrite_out_of_service data e hd ho]
  case outside =>
    intro s hpa len data e h hd
    refine ⟨fun ha => ?_, fun ha => ?_⟩
    · rw [exec_cxlMemRead e h ha, cxlRead_outside len e hd]
    · rw [exec_cxlMemWrite e h ha, cxlWrite_outside data e hd]
  case unbound => simp only [windowAt, h]
  case window =>
    intro s n x len part h y r hb hy hr
    rw [windowAt_bound len hb hy hr]
    refine ⟨fun hs => if_pos hs, fun hs hin => ?_, fun hs hout => ?_⟩
    · rw [hs, if_neg Bool.false_ne_true, if_pos hin]
    · rw [hs, if_neg Bool.false_ne_true, if_neg (Nat.not_le.2 hout)]

end Sys2Proof.Machine
end

section
/-! SUPPORT and SETTLED STATEMENTS of power and cooling as the host sets and reads them (O54). -/
namespace Sys2Proof.Machine

/-! ### Fields and lengths -/

theorem fld_slice_zero (b : List Byte) {n off len : Nat} (h : off + len ≤ n) : fld (slice b 0 n) off len = fld b off len := by
  simp only [fld, slice, List.drop_zero, List.drop_take, List.take_take, Nat.min_eq_left (show len ≤ n - off by omega)]

@[simp] theorem toLE_length : ∀ k n : Nat, (toLE k n).length = k
  | 0, _ => rfl
  | k + 1, n => congrArg Nat.succ (toLE_length k (n / 256))

@[simp] theorem toLEInt_length (k : Nat) (i : Int) : (toLEInt k i).length = k := toLE_length k _

@[simp] theorem zeros_length (k : Nat) : (zeros k).length = k := List.length_replicate

@[simp] theorem rthBytes_length (r : Int) : (rthBytes r).length = 4 := toLE_length 4 _

theorem powerRecord_length (s : State) : (powerRecord s).length = 64 := by
  simp only [powerRecord, List.length_append, toLE_length, zeros_length]

theorem tractRecord_length (s : State) (q : QueuePair) (p : Packet) (t : Nat) : (tractRecord s q p t).length = 32 := by
  unfold tractRecord
  dsimp only
  rw [apply_ite List.length]
  simp only [List.length_append, toLE_length, zeros_length, List.length_cons, List.length_nil, ite_self]

theorem thermalRecord_length (s : State) : (thermalRecord s).length = 128 := by
  simp only [thermalRecord, List.length_append, List.length_flatMap, toLE_length, toLEInt_length, rthBytes_length, zeros_length,
    List.map_const', List.length_range, List.sum_replicate_nat]

/-- Another's tract is withheld from a tenant (R358). -/
theorem tractRecord_withheld {s : State} {q : QueuePair} {p : Packet} {t : Nat} (hq : q.operator = false)
    (ho : ∀ x, ownerOf s t = some x → x.num ≠ pktPart p) : tractRecord s q p t = toLE 1 t ++ [0xFF, 0, 1] ++ zeros 28 := by
  unfold tractRecord
  rcases hown : ownerOf s t with _ | x
  · simp only [hq, Bool.not_false, Bool.and_self, if_true]
  · simp only [hq, decide_eq_false (ho x hown), Bool.not_false, Bool.and_self, if_true]

/-! ### POWER_CAP_SET (R347) -/

section
variable {s : State} {q : QueuePair} {p c : Packet}

theorem exec_powerCapSet (h : Fetches 0x0801 s q p c) :
    exec (.powerCapSet p) s = .next (settle (deliver c (cmdPowerCap q c (fetchedState p s)))) := h.runs cmdPowerCap
theorem exec_powerStatus (h : Fetches 0x0802 s q p c) :
    exec (.powerStatus p) s = .next (settle (deliver c (cmdPowerStatus q c (fetchedState p s)))) := h.runs cmdPowerStatus
theorem exec_fixedFreqSet (h : Fetches 0x0803 s q p c) :
    exec (.fixedFreqSet p) s = .next (settle (deliver c (cmdFixedFreq q c (fetchedState p s)))) := h.runs cmdFixedFreq
theorem exec_energyRead (h : Fetches 0x0804 s q p c) :
    exec (.energyRead p) s = .next (settle (deliver c (cmdEnergyRead q c (fetchedState p s)))) := h.runs cmdEnergyRead
theorem exec_coolantSet (h : Fetches 0x0901 s q p c) :
    exec (.coolantSet p) s = .next (settle (deliver c (cmdCoolantSet q c (fetchedState p s)))) := h.runs cmdCoolantSet
theorem exec_thermalStatus (h : Fetches 0x0902 s q p c) :
    exec (.thermalStatus p) s = .next (settle (deliver c (cmdThermalStatus q c (fetchedState p s)))) := h.runs cmdThermalStatus
theorem exec_thermalResponseSet (h : Fetches 0x0903 s q p c) :
    exec (.thermalResponseSet p) s = .next (settle (deliver c (cmdThermalResponse q c (fetchedState p s)))) :=
  h.runs cmdThermalResponse

/-- A shortfall is what the admission needs beyond ten times the cap, in watts rounded up. -/
theorem shortfall_bounds {freq : Nat → Nat} {cap : Nat} (h : 10 * cap < admissionNeed freq) :
    10 * (cap + shortfall freq cap) < admissionNeed freq + 10 ∧ admissionNeed freq ≤ 10 * (cap + shortfall freq cap) := by
  unfold shortfall ceilDiv
  omega

theorem shortfall_eq_zero_iff (freq : Nat → Nat) (cap : Nat) : shortfall freq cap = 0 ↔ admissionNeed freq ≤ 10 * cap := by
  unfold shortfall ceilDiv
  omega

theorem anyCommitted_fetched (p : Packet) (s : State) : anyCommitted (fetchedState p s) = anyCommitted s := rfl

/-- The limits of R347 as the command's parameters give them. -/
theorem powerParamsOk_iff (s : State) (c : Packet) : powerParamsOk s (slice c.inl 0 16) = true ↔
    (par c 0 4 = 0 ∨ 2500 ≤ par c 0 4 ∧ par c 0 4 ≤ 9500) ∧
    (par c 4 4 = 0 ∨ (if par c 0 4 = 0 then s.power.cap else par c 0 4) ≤ par c 4 4 ∧ par c 4 4 ≤ 10800) ∧ par c 8 2 ≤ 60 ∧
    (par c 10 2 = 0 ∨ 1000 ≤ par c 10 2 ∧ par c 10 2 ≤ 7200) ∧ (par c 12 2 = 0 ∨ 1000 ≤ par c 12 2 ∧ par c 12 2 ≤ 6000) := by
  simp only [powerParamsOk, fld_slice_zero c.inl (show 0 + 4 ≤ 16 by decide), fld_slice_zero c.inl (show 4 + 4 ≤ 16 by decide),
    fld_slice_zero c.inl (show 8 + 2 ≤ 16 by decide), fld_slice_zero c.inl (show 10 + 2 ≤ 16 by decide),
    fld_slice_zero c.inl (show 12 + 2 ≤ 16 by decide), Bool.and_eq_true, Bool.or_eq_true, decide_eq_true_eq, and_assoc, par]
  exact Iff.rfl

theorem setPower_limits (c : Packet) (s : State) : (setPower (slice c.inl 0 16) s).power = { s.power with
    cap := if par c 0 4 = 0 then s.power.cap else par c 0 4
    burst := max (if par c 0 4 = 0 then s.power.cap else par c 0 4) (if par c 4 4 = 0 then s.power.burst else par c 4 4)
    window := if par c 8 2 = 0 then s.power.window else par c 8 2
    fastA := if par c 10 2 = 0 then s.power.fastA else par c 10 2
    contA := if par c 12 2 = 0 then s.power.contA else par c 12 2 } := by
  simp only [setPower, settleCap, fld_slice_zero c.inl (show 0 + 4 ≤ 16 by decide), fld_slice_zero c.inl (show 4 + 4 ≤ 16 by decide),
    fld_slice_zero c.inl (show 8 + 2 ≤ 16 by decide), fld_slice_zero c.inl (show 10 + 2 ≤ 16 by decide),
    fld_slice_zero c.inl (show 12 + 2 ≤ 16 by decide), par]
  rfl

theorem setPower_frame (b : List Byte) (s : State) : setPower b s =
    { s with power := (setPower b s).power, thermal := { s.thermal with effCap := effectiveCap (setPower b s) } } := rfl

theorem cmdPowerCap_refused (h : powerParamsOk s (slice c.inl 0 16) = false) : cmdPowerCap q c s = fail stBadLength s := by
  simp only [cmdPowerCap, h, Bool.not_false, if_true]

theorem cmdPowerCap_admitted (h : powerParamsOk s (slice c.inl 0 16) = true) (ha : anyCommitted s = false ∨
    admissionNeed (freqOf s) ≤ 10 * (setPower (slice c.inl 0 16) s).thermal.effCap) :
    cmdPowerCap q c s = ok [] (setPower (slice c.inl 0 16) s) := by
  have hkept : (anyCommitted s && decide (shortfall (freqOf s) (setPower (slice c.inl 0 16) s).thermal.effCap ≠ 0)) = false := by
    rcases ha with ha | ha
    · simp [ha]
    · simp [(shortfall_eq_zero_iff ..).2 ha]
  simp only [cmdPowerCap, h, Bool.not_true, Bool.false_eq_true, if_false, hkept]

theorem cmdPowerCap_short (h : powerParamsOk s (slice c.inl 0 16) = true) (hc : anyCommitted s = true)
    (ha : 10 * (setPower (slice c.inl 0 16) s).thermal.effCap < admissionNeed (freqOf s)) : cmdPowerCap q c s =
      (.done stNoResource (BitVec.ofNat 32 (shortfall (freqOf s) (setPower (slice c.inl 0 16) s).thermal.effCap)) [], s) := by
  have hshort : shortfall (freqOf s) (setPower (slice c.inl 0 16) s).thermal.effCap ≠ 0 := fun h0 =>
    absurd ((shortfall_eq_zero_iff ..).1 h0) (Nat.not_le.2 ha)
  simp only [cmdPowerCap, h, Bool.not_true, Bool.false_eq_true, if_false, hc, decide_eq_true hshort, Bool.and_self, if_true]

/-! ### FIXED_FREQ_SET (R359) -/

/-- Another committed partition works at another frequency in a half of `x`. -/
def HalfClash (s : State) (n : BitVec 4) (f : Nat) (x : Partition) : Prop :=
  ∃ y ∈ s.partitions, y.num ≠ n ∧ y.freq ≠ 0 ∧ y.freq ≠ f ∧ ∃ h ∈ halvesOf y, h ∈ halvesOf x

theorem halfClash_iff (s : State) (n : BitVec 4) (f : Nat) (x : Partition) : (s.partitions.any fun y =>
    y.num ≠ n && y.freq ≠ 0 && y.freq ≠ f && (halvesOf y).any (halvesOf x).contains) = true ↔ HalfClash s n f x := by
  simp only [HalfClash, List.any_eq_true, Bool.and_eq_true, decide_eq_true_eq, and_assoc, List.contains_iff_mem]

/-- A partition's frequency set, and the halves held at the frequencies fixed then. -/
def freqSet (n : BitVec 4) (f : Nat) (s : State) : State :=
  let t := updPart n (fun y => { y with freq := f }) s
  { t with power := { t.power with
      targetWest := (fixedN t false).getD t.power.targetWest, targetEast := (fixedN t true).getD t.power.targetEast } }

/-- A half with a fixed frequency is held at its n. -/
theorem freqSet_target (n : BitVec 4) (f : Nat) (s : State) {east : Bool} {k : Nat} (h : fixedN (freqSet n f s) east = some k) :
    targetOf (freqSet n f s) east = k := by
  have hfixed : fixedN (updPart n (fun y => { y with freq := f }) s) east = some k := h
  cases east <;> simp [targetOf, freqSet, hfixed]

section
variable {x : Partition} (hn : par c 0 1 ≤ 15) (hf : par c 1 1 ≤ 3) (hx : findPart s (BitVec.ofNat 4 (par c 0 1)) = some x)
  (hs : x.scrubbing = false)
include hn hf hx hs

/-- FIXED_FREQ_SET of a partition that is there. -/
theorem cmdFixedFreq_eq : cmdFixedFreq q c s =
    if par c 1 1 = 0 then ok [] (freqSet (BitVec.ofNat 4 (par c 0 1)) (par c 1 1) s)
    else if s.partitions.any fun y => y.num ≠ BitVec.ofNat 4 (par c 0 1) && y.freq ≠ 0 && y.freq ≠ par c 1 1 &&
        (halvesOf y).any (halvesOf x).contains then fail stNotPermitted s
    else if shortfall (fun t => if hasTract x.tracts t then par c 1 1 else freqOf s t) s.thermal.effCap ≠ 0 then
      (.done stNoResource (BitVec.ofNat 32
        (shortfall (fun t => if hasTract x.tracts t then par c 1 1 else freqOf s t) s.thermal.effCap)) [], s)
    else ok [] (freqSet (BitVec.ofNat 4 (par c 0 1)) (par c 1 1) s) := by
  simp only [cmdFixedFreq, Nat.not_lt.2 hn, Nat.not_lt.2 hf, decide_false, Bool.or_self, hx, hs, Bool.false_eq_true, if_false]
  rfl

theorem cmdFixedFreq_sets (h : par c 1 1 = 0 ∨ ¬HalfClash s (BitVec.ofNat 4 (par c 0 1)) (par c 1 1) x ∧
    admissionNeed (fun t => if hasTract x.tracts t then par c 1 1 else freqOf s t) ≤ 10 * s.thermal.effCap) :
    cmdFixedFreq q c s = ok [] (freqSet (BitVec.ofNat 4 (par c 0 1)) (par c 1 1) s) := by
  rw [cmdFixedFreq_eq hn hf hx hs]
  rcases h with h | ⟨hclash, hadm⟩
  · rw [if_pos h]
  · rw [if_neg fun h => hclash ((halfClash_iff ..).1 h), if_neg (not_not_intro ((shortfall_eq_zero_iff ..).2 hadm)), ite_self]

variable (hne : par c 1 1 ≠ 0)
include hne

theorem cmdFixedFreq_clashes (h : HalfClash s (BitVec.ofNat 4 (par c 0 1)) (par c 1 1) x) :
    cmdFixedFreq q c s = fail stNotPermitted s := by
  rw [cmdFixedFreq_eq hn hf hx hs, if_neg hne, if_pos ((halfClash_iff ..).2 h)]

theorem cmdFixedFreq_short (h : ¬HalfClash s (BitVec.ofNat 4 (par c 0 1)) (par c 1 1) x)
    (ha : 10 * s.thermal.effCap < admissionNeed fun t => if hasTract x.tracts t then par c 1 1 else freqOf s t) :
    cmdFixedFreq q c s = (.done stNoResource (BitVec.ofNat 32
      (shortfall (fun t => if hasTract x.tracts t then par c 1 1 else freqOf s t) s.thermal.effCap)) [], s) := by
  rw [cmdFixedFreq_eq hn hf hx hs, if_neg hne, if_neg fun hc => h ((halfClash_iff ..).1 hc),
    if_pos fun h0 => absurd ((shortfall_eq_zero_iff ..).1 h0) (Nat.not_le.2 ha)]

end

/-! ### ENERGY_READ (R360) -/

/-- Whole millijoules of a counter, and the age of a published figure. -/
def energyAnswer (nj : Nat) (published : Bool) (s : State) : Res :=
  ok (toLE 8 (nj / 1000000) ++ toLE 4 (if published then Config.freeNat s.draw 0 % 1001 else 0)) { s with draw := s.draw + 1 }

theorem cmdEnergyRead_partition {n : BitVec 4} {x : Partition} (h : par c 0 1 = 0) (hn : namedPart q c (par c 1 1) = .ok n)
    (hx : findPart s n = some x) : cmdEnergyRead q c s =
      energyAnswer (if x.confidential then x.pubEnergy else x.energy) x.confidential s := by
  simp only [cmdEnergyRead, h, hn, hx, if_true, energyAnswer]
  rfl

/-- A pair's energy is published only, its partition being confidential (R360). -/
def pairConfidential (s : State) (x : QueuePair) : Bool :=
  match x.part with
  | some n => (match findPart s n with | some y => y.confidential | none => false)
  | none => false

theorem pairConfidential_eq_false {x : QueuePair} (h : ∀ n y, x.part = some n → findPart s n = some y → y.confidential = false) :
    pairConfidential s x = false := by
  unfold pairConfidential
  rcases hp : x.part with _ | n
  · rfl
  · rcases hy : findPart s n with _ | y
    · simp only [hy]
    · simp only [hy, h n y hp hy]

theorem cmdEnergyRead_pair {x : QueuePair} (h : par c 0 1 = 1) (hid : par c 1 1 ≤ 63) (hq : q.operator = true)
    (hx : findPair s (BitVec.ofNat 6 (par c 1 1)) = some x) : cmdEnergyRead q c s =
      energyAnswer (if pairConfidential s x then x.pubEnergy else x.energy) (pairConfidential s x) s := by
  simp only [cmdEnergyRead, h, hx, hq, Nat.not_lt.2 hid, energyAnswer, Bool.not_true, Bool.false_and, Bool.false_eq_true, if_false]
  rfl

theorem cmdEnergyRead_device (h2 : 2 ≤ par c 0 1) (h3 : par c 0 1 ≤ 3) (hq : q.operator = true) (hconf : anyConfidential s = false) :
    cmdEnergyRead q c s = energyAnswer (if par c 0 1 = 2 then s.power.device else s.power.unattributed) false s := by
  simp only [cmdEnergyRead, energyAnswer, hq, hconf, Nat.not_lt.2 h3, Bool.not_true, Bool.false_eq_true, if_false,
    show par c 0 1 ≠ 0 by omega, show par c 0 1 ≠ 1 by omega]
  split <;> rfl

/-! ### Cooling (R368, R369, R373, R374) -/

/-- What COOLANT_SET within its limits leaves. -/
theorem cmdCoolantSet_reports (h : ¬(sfld16 c.inl 0 < 500 ∨ 5000 < sfld16 c.inl 0 ∨ 2000 < par c 2 2)) :
    let u : State := { s with thermal := { s.thermal with
      inlet := sfld16 c.inl 0, flow := par c 2 2, reported := true, age := 0
      flowLow := decide (1 ≤ par c 2 2 ∧ par c 2 2 ≤ 79) } }
    let v := if 4000 < sfld16 c.inl 0 then recordCooling 1 u else u
    cmdCoolantSet q c s = ok [] (if 1 ≤ par c 2 2 ∧ par c 2 2 ≤ 79 then recordCooling 1 (assertAlert v) else v) := by
  simp only [cmdCoolantSet, h, if_false, Bool.decide_and, Bool.and_eq_true, decide_eq_true_eq]

theorem assertAlert_alert (s : State) : (assertAlert s).pins.alert = (s.pins.alert || s.thermal.alertEn) := by
  cases h : s.thermal.alertEn <;> simp [assertAlert, h]

theorem thermalParamsOk_iff (c : Packet) : thermalParamsOk (slice c.inl 0 8) = true ↔
    (par c 0 2 = 0 ∨ 105 ≤ par c 0 2 ∧ par c 0 2 ≤ 149) ∧ par c 2 2 ≤ 3600 := by
  simp only [thermalParamsOk, fld_slice_zero c.inl (show 0 + 2 ≤ 8 by decide), fld_slice_zero c.inl (show 2 + 2 ≤ 8 by decide),
    Bool.and_eq_true, Bool.or_eq_true, decide_eq_true_eq, par]

theorem setThermal_eq (c : Packet) (s : State) : setThermal (slice c.inl 0 8) s = { s with
    thermal := { s.thermal with
      warn := if par c 0 2 = 0 then s.thermal.warn else par c 0 2
      stale := if par c 2 2 = 0 then s.thermal.stale else par c 2 2, alertEn := decide (par c 4 1 % 2 = 1) }
    pins := { s.pins with alert := s.pins.alert && decide (par c 4 1 % 2 = 1) } } := by
  have hwarn : fld (slice c.inl 0 8) 0 2 = par c 0 2 := fld_slice_zero _ (by decide)
  have hstale : fld (slice c.inl 0 8) 2 2 = par c 2 2 := fld_slice_zero _ (by decide)
  have hflags : fld (slice c.inl 0 8) 4 1 = par c 4 1 := fld_slice_zero _ (by decide)
  rw [setThermal, hwarn, hstale, hflags]
  by_cases hen : par c 4 1 % 2 = 1
  · simp only [hen, if_true, decide_true, Bool.and_true]
  · simp only [hen, if_false, decide_false, Bool.and_false]

end

/-- Settles O54: each command by its own lemmas. -/
theorem powerAndCoolingAreSetAndRead : Obligations.PowerAndCoolingAreSetAndRead := by
  unfold Obligations.PowerAndCoolingAreSetAndRead
  refine ⟨?cap, ?status, fun s q p t => ⟨powerRecord_length s, tractRecord_length s q p t, tractRecord_withheld⟩, ?freq,
    ⟨rfl, rfl, rfl, fun _ _ => shortfall_bounds⟩, ?energy, ?coolant, assertAlert_alert, ?thermal, thermalRecord_length, ?response⟩
  case cap =>
    intro s q p c h cap good u
    have hgood : good ↔ powerParamsOk (fetchedState p s) (slice c.inl 0 16) = true := (powerParamsOk_iff (fetchedState p s) c).symm
    rw [exec_powerCapSet h]
    refine ⟨fun hbad => ?_, fun hok hadm => ?_, fun hok hcom hshort => ?_, setPower_frame _ _, setPower_limits c (fetchedState p s)⟩
    · rw [cmdPowerCap_refused (Bool.eq_false_iff.2 fun h => hbad (hgood.2 h)), deliver_fail, h.origin]
    · rw [cmdPowerCap_admitted (hgood.1 hok) hadm, deliver_ok, h.origin]
      rfl
    · rw [cmdPowerCap_short (hgood.1 hok) hcom hshort]
      exact congrArg (fun o => Host.Outcome.next (settle (finish o stNoResource _ [] (fetchedState p s)))) h.origin
  case status =>
    intro s q p c b h ha hsize hb
    rw [exec_powerStatus h, cmdPowerStatus, copyOut_fits _ _ ha hsize hb, deliver_ok, h.origin]
    rfl
  case freq =>
    intro s q p c x h hn hf hx hs n clash freq
    rw [exec_fixedFreqSet h]
    refine ⟨fun hset => ?_, fun hne hclash => ?_, fun hne hclash hshort => ?_⟩
    · rw [cmdFixedFreq_sets (s := fetchedState p s) hn hf hx hs hset, deliver_ok, h.origin]
      exact ⟨_, rfl, rfl, fun _ _ => freqSet_target n (par c 1 1) (fetchedState p s)⟩
    · rw [cmdFixedFreq_clashes (s := fetchedState p s) hn hf hx hs hne hclash, deliver_fail, h.origin]
    · rw [cmdFixedFreq_short (s := fetchedState p s) hn hf hx hs hne hclash hshort]
      exact congrArg (fun o => Host.Outcome.next (settle (finish o stNoResource _ [] (fetchedState p s)))) h.origin
  case energy =>
    intro s q p c h
    rw [exec_energyRead h]
    refine ⟨fun n x hsel hn hx => ⟨Config.freeNat s.draw 0 % 1001, by omega, ?_⟩, fun x hsel hid hq hx hconf => ?_,
      fun h2 h3 hq hconf => ?_⟩
    · rw [cmdEnergyRead_partition (s := fetchedState p s) hsel hn hx, energyAnswer, deliver_ok, h.origin]
      rfl
    · rw [cmdEnergyRead_pair hsel hid hq hx, pairConfidential_eq_false (s := fetchedState p s) hconf, energyAnswer, deliver_ok, h.origin]
      rfl
    · rw [cmdEnergyRead_device (s := fetchedState p s) h2 h3 hq hconf, energyAnswer, deliver_ok, h.origin]
      rfl
  case coolant =>
    intro s q p c h inlet flow u v
    rw [exec_coolantSet h]
    refine ⟨fun hlo hhi hflow => ?_, fun hbad => ?_⟩
    · have hreports := cmdCoolantSet_reports (q := q) (c := c) (s := fetchedState p s) (by omega)
      rw [hreports, deliver_ok, h.origin]
      rfl
    · rw [cmdCoolantSet, if_pos hbad, deliver_fail, h.origin]
  case thermal =>
    intro s q p c b h ha hsize hb
    rw [exec_thermalStatus h, cmdThermalStatus, copyOut_fits _ _ ha hsize hb, deliver_ok, h.origin]
    rfl
  case response =>
    intro s q p c h good en
    rw [exec_thermalResponseSet h, cmdThermalResponse]
    refine ⟨fun hok => ?_, fun hbad => ?_⟩
    · rw [if_pos ((thermalParamsOk_iff c).2 hok), deliver_ok, h.origin, setThermal_eq]
      rfl
    · rw [if_neg fun h => hbad ((thermalParamsOk_iff c).1 h), deliver_fail, h.origin]

end Sys2Proof.Machine
end

section
/-! SUPPORT and SETTLED STATEMENTS of firmware images (O34), and of attestation, service inspection, IDE and the mailbox (O35). -/
namespace Sys2Proof.Machine

/-! ### Firmware images (R384 to R386) -/

/-- A number cut to `k` bytes has the same `k` bytes. -/
theorem toLE_mod : ∀ k n : Nat, toLE k (n % 256 ^ k) = toLE k n
  | 0, _ => rfl
  | k + 1, n => by
    have hlow : BitVec.ofNat 8 (n % 256 ^ (k + 1)) = BitVec.ofNat 8 n := by
      apply BitVec.eq_of_toNat_eq
      rw [BitVec.toNat_ofNat, BitVec.toNat_ofNat, Nat.pow_succ', Nat.mod_mul_right_mod]
    have hhigh : n % 256 ^ (k + 1) / 256 = n / 256 % 256 ^ k := by rw [Nat.pow_succ', Nat.mod_mul_right_div_self]
    rw [toLE, toLE, hlow, hhigh, toLE_mod k]

/-- The form of an image, the first of R385's checks. -/
def ImageForm (img : List Byte) : Prop :=
  fld img 0 4 = 0x5A474657 ∧ fld img 0x10 8 + 512 = img.length ∧ 1 ≤ fld img 0x10 8 ∧ fld img 0x10 8 ≤ 134217216

/-- A key slot that is not revoked, and a valid signature. -/
def ImageKey (s : State) (img : List Byte) : Prop :=
  fld img 0x0C 1 ≤ 3 ∧ s.firmware.revoked.getLsbD (fld img 0x0C 1) = false ∧
    Config.sm2Valid (fld img 0x0C 1) (img.take 64) (slice img 64 64) = true

section
variable {s : State} {img : List Byte}

theorem imageFault_form (h : ¬ImageForm img) : imageFault s img = some (badLength 1) := by
  have hbad : (decide (fld img 0 4 ≠ 0x5A474657) || decide (fld img 0x10 8 + 512 ≠ img.length) || decide (fld img 0x10 8 = 0) ||
      decide (134217216 < fld img 0x10 8)) = true := by
    simp only [Bool.or_eq_true, decide_eq_true_eq]
    unfold ImageForm at h
    omega
  simp only [imageFault, hbad, if_true]

variable (hf : ImageForm img)
include hf

theorem imageFault_formed : imageFault s img =
    if 3 < fld img 0x0C 1 || s.firmware.revoked.getLsbD (fld img 0x0C 1) ||
        !Config.sm2Valid (fld img 0x0C 1) (img.take 64) (slice img 64 64) then some (badLength 2)
    else if Config.sm3 (img.drop 512) ≠ slice img 0x20 32 then some (badLength 3)
    else if fld img 8 4 < s.firmware.fusedSvn then some (.plain stNotPermitted) else none := by
  obtain ⟨hmagic, hlen, h1, hmax⟩ := hf
  have hgood : (decide (fld img 0 4 ≠ 0x5A474657) || decide (fld img 0x10 8 + 512 ≠ img.length) || decide (fld img 0x10 8 = 0) ||
      decide (134217216 < fld img 0x10 8)) = false := by
    simp [hmagic, hlen, hmax, Nat.ne_of_gt h1]
  simp only [imageFault, hgood, Bool.false_eq_true, if_false]

theorem imageFault_key (h : ¬ImageKey s img) : imageFault s img = some (badLength 2) := by
  rw [imageFault_formed hf, if_pos]
  simp only [Bool.or_eq_true, decide_eq_true_eq, Bool.not_eq_true']
  by_contra hgood
  simp only [not_or, Bool.not_eq_true, Bool.not_eq_false, Nat.not_lt] at hgood
  exact h ⟨hgood.1.1, hgood.1.2, hgood.2⟩

variable (hk : ImageKey s img)
include hk

theorem imageFault_signed : imageFault s img = if Config.sm3 (img.drop 512) ≠ slice img 0x20 32 then some (badLength 3)
    else if fld img 8 4 < s.firmware.fusedSvn then some (.plain stNotPermitted) else none := by
  obtain ⟨hslot, hrevoked, hvalid⟩ := hk
  rw [imageFault_formed hf, if_neg (by simp [hslot, hrevoked, hvalid])]

end

/-- The firmware with a slot emptied or filled: the one that does not run, and the images still to be checked. -/
def Firmware.staged (f : Firmware) (img : Option (List Byte)) (rest : List (Origin × List Byte)) : Firmware :=
  if f.runsB then { f with slotA := img, staging := rest } else { f with slotB := img, staging := rest }

section
variable {s : State} {q : QueuePair} {p c : Packet}

theorem exec_fwStage (h : Fetches 0x0A20 s q p c) :
    exec (.fwStage p) s = .next (settle (deliver c (cmdFwStage q c (fetchedState p s)))) := h.runs cmdFwStage
theorem exec_fwActivate (h : Fetches 0x0A21 s q p c) :
    exec (.fwActivate p) s = .next (settle (deliver c (cmdFwActivate q c (fetchedState p s)))) := h.runs cmdFwActivate
theorem exec_fwStageDone (h : alive s = true) : exec .fwStageDone s = happens (stageDone s) := next_floorEvent h

theorem cmdFwStage_copies {img : List Byte} (hlo : 512 ≤ par c 8 4) (hhi : par c 8 4 ≤ 134217728)
    (hb : takeBuffer s q c (par c 0 8) (par c 8 4) = .ok img) : cmdFwStage q c s =
      (.accepted, { s with firmware := s.firmware.staged none (s.firmware.staging ++ [(pktOrigin c, img)]) }) := by
  simp only [cmdFwStage, Nat.not_lt.2 hlo, Nat.not_lt.2 hhi, decide_false, Bool.or_self, Bool.false_eq_true, if_false, hb, setSlot,
    Firmware.staged]
  cases s.firmware.runsB <;> rfl

theorem cmdFwStage_size (h : par c 8 4 < 512 ∨ 134217728 < par c 8 4) : cmdFwStage q c s = fail stBadLength s := by
  have hbad : (decide (par c 8 4 < 512) || decide (134217728 < par c 8 4)) = true := by simpa using h
  simp only [cmdFwStage, hbad, if_true]

/-- The checks of the oldest image staged are done. -/
theorem stageDone_fails {o : Origin} {img : List Byte} {rest : List (Origin × List Byte)} {e : Stop}
    (hs : s.firmware.staging = (o, img) :: rest) (he : imageFault s img = some e) :
    stageDone s = finish o e.status e.detail e.result { s with firmware := s.firmware.staged none rest } := by
  have he' : imageFault { s with firmware := { s.firmware with staging := rest } } img = some e := he
  simp only [stageDone, hs, he', setSlot, Firmware.staged]
  cases s.firmware.runsB <;> rfl

theorem stageDone_passes {o : Origin} {img : List Byte} {rest : List (Origin × List Byte)}
    (hs : s.firmware.staging = (o, img) :: rest) (hp : imageFault s img = none) : stageDone s =
      finish o stOk 0 (toLE 4 (fld img 4 4)) (recordSecurity 1 0 { s with firmware := s.firmware.staged (some img) rest }) := by
  have hp' : imageFault { s with firmware := { s.firmware with staging := rest } } img = none := hp
  have hversion : toLE 4 (imageVersion img).toNat = toLE 4 (fld img 4 4) := toLE_mod 4 _
  simp only [stageDone, hs, hp', hversion, setSlot, Firmware.staged]
  cases s.firmware.runsB <;> rfl

theorem cmdFwActivate_good (hslot : par c 0 1 ≤ 1) (hgood : slotGood s (decide (par c 0 1 = 1)) = true) :
    cmdFwActivate q c s = ok [] (settleReserve (recordSecurity 2 0
      { s with firmware := { s.firmware with bootB := decide (par c 0 1 = 1), fallbacks := 0 } })) := by
  simp only [cmdFwActivate, Nat.not_lt.2 hslot, if_false, hgood, Bool.not_true, Bool.false_eq_true]

theorem cmdFwActivate_bad (hslot : par c 0 1 ≤ 1) (hbad : slotGood s (decide (par c 0 1 = 1)) = false) :
    cmdFwActivate q c s = fail stNotPermitted s := by
  simp only [cmdFwActivate, Nat.not_lt.2 hslot, if_false, hbad, Bool.not_false, if_true]

end

/-- Settles O34: an image's first failing check, or none, decides what its staging leaves. -/
theorem firmwareImages : Obligations.FirmwareImages := by
  unfold Obligations.FirmwareImages
  refine ⟨?stage, ?size, ?done, ?activate, ?refuse⟩
  case stage =>
    intro s q p c img h hlo hhi hb
    rw [exec_fwStage h, cmdFwStage_copies hlo hhi hb, deliver_accepted, h.origin]
    rfl
  case size =>
    intro s q p c h hsize
    rw [exec_fwStage h, cmdFwStage_size hsize, deliver_fail, h.origin]
  case done =>
    intro s o img rest h hs kept form key digest
    rw [exec_fwStageDone h]
    have hkept : kept = { s with firmware := s.firmware.staged none rest } := rfl
    have hdone (e : Stop) (he : imageFault s img = some e) : happens (stageDone s) = happens (finish o e.status e.detail e.result kept) := by
      rw [stageDone_fails hs he, hkept]
    refine ⟨fun hform => hdone (badLength 1) (imageFault_form hform),
      fun hform hkey => hdone (badLength 2) (imageFault_key hform hkey), fun hform hkey hdig => hdone (badLength 3) ?_,
      fun hform hkey hdig hlow => hdone (.plain stNotPermitted) ?_, fun hform hkey hdig hsvn => ?_⟩
    · rw [imageFault_signed hform hkey, if_pos hdig]
    · rw [imageFault_signed hform hkey, if_neg (not_not_intro hdig), if_pos hlow]
    · have hpass : imageFault s img = none := by
        rw [imageFault_signed hform hkey, if_neg (not_not_intro hdig), if_neg (Nat.not_lt.2 hsvn)]
      rw [stageDone_passes hs hpass]
      rfl
  case activate =>
    intro s q p c h hslot hgood
    rw [exec_fwActivate h, cmdFwActivate_good (s := fetchedState p s) hslot hgood, deliver_ok, h.origin]
    rfl
  case refuse =>
    intro s q p c h hslot hbad
    rw [exec_fwActivate h, cmdFwActivate_bad (s := fetchedState p s) hslot hbad, deliver_fail, h.origin]

/-! ### Attestation (R387 to R389) -/

/-- The indices that have a measurement. -/
theorem measurement_isSome_iff (s : State) (i : Nat) :
    (measurement s i).isSome = true ↔ i ∈ [1, 2, 3, 4] ∨ 0x10 ≤ i ∧ i ≤ 0x1F := by
  simp only [List.mem_cons, List.not_mem_nil, or_false, measurement]
  split_ifs <;> simp only [Option.isSome_some, Option.isSome_none, Bool.false_eq_true, true_iff, false_iff] <;> omega

theorem mem_measurementIndices (i : Nat) : i ∈ measurementIndices ↔ i ∈ [1, 2, 3, 4] ∨ 0x10 ≤ i ∧ i ≤ 0x1F := by
  rw [measurementIndices, List.mem_append, List.mem_map]
  refine or_congr_right ⟨?_, fun h => ⟨i - 0x10, List.mem_range.2 (by omega), by omega⟩⟩
  rintro ⟨k, hk, rfl⟩
  rw [List.mem_range] at hk
  omega

theorem measurement_partition_absent {s : State} {n : Nat} (hn : n < 16) (h : findPart s (BitVec.ofNat 4 n) = none) :
    measurement s (0x10 + n) = some (0x84, BitVec.ofNat 8 n :: zeros 63) := by
  have hrecord : partitionRecord s (0x10 + n - 0x10) = BitVec.ofNat 8 n :: zeros 63 := by
    rw [Nat.add_sub_cancel_left, partitionRecord, h]
    rfl
  rw [measurement, if_neg (by omega), if_neg (by omega), if_neg (by omega), if_neg (by omega), if_pos (by omega), hrecord]

theorem spdmOut_eq (body : List Byte) (signed : Bool) (nonce : List Byte) (s : State) : spdmOut body signed nonce s =
    { s with out := s.out ++ [.spdm body (if signed then Config.aliasSign s.firmware.aliasEpoch (nonce ++ body) else [])] } := rfl

section
variable {s : State} {nonce : List Byte} {signed : Bool} {i : Nat}

theorem getMeasurements_one {m : Nat × List Byte} (hm : measurement s i = some m) :
    getMeasurements i nonce signed s = spdmOut (measurementBlock i m) signed nonce s := by
  have hmem := (measurement_isSome_iff s i).1 (Option.isSome_of_eq_some hm)
  have hlisted : measurementIndices.contains i = true := List.contains_iff_mem.2 ((mem_measurementIndices i).2 hmem)
  simp only [List.mem_cons, List.not_mem_nil, or_false] at hmem
  simp only [getMeasurements, if_neg (show ¬i = 0 by omega), if_neg (show ¬i = 0xFF by omega), hlisted, if_true, hm]

theorem getMeasurements_unknown (h0 : i ≠ 0) (hall : i ≠ 0xFF) (hm : measurement s i = none) :
    getMeasurements i nonce signed s = spdmError s := by
  have hlisted : ¬measurementIndices.contains i = true := fun h => by
    have hsome := (measurement_isSome_iff s i).2 ((mem_measurementIndices i).1 (List.contains_iff_mem.1 h))
    rw [hm] at hsome
    exact Bool.false_ne_true hsome
  simp only [getMeasurements, if_neg h0, if_neg hall, if_neg hlisted]

end

/-! ### Service inspection (R383) -/

theorem inspectable_iff (s : State) (t : Nat) : inspectable s t = true ↔
    ∀ p, ownerOf s t = some p → p.confidential = false ∧ p.scrubbing = false := by
  unfold inspectable
  rcases ownerOf s t with _ | x
  · simp
  · simp

/-- The mask of some tracts. -/
def tractMask (ts : List Nat) : U64 := ts.foldl (fun (m : U64) t => m ||| (1#64 <<< t)) 0

theorem hasTract_foldl (ts : List Nat) {k : Nat} (hk : k < 64) (m : U64) :
    hasTract (ts.foldl (fun (m : U64) t => m ||| (1#64 <<< t)) m) k = (hasTract m k || decide (k ∈ ts)) := by
  induction ts generalizing m with
  | nil => simp
  | cons t ts ih =>
    have hbit : hasTract (m ||| (1#64 <<< t)) k = (hasTract m k || decide (k = t)) := by
      rw [hasTract, hasTract, BitVec.getLsbD_or, BitVec.getLsbD_shiftLeft, BitVec.getLsbD_one]
      by_cases hlt : k < t
      · simp [hlt, Nat.ne_of_lt hlt]
      · simp [hk, hlt, show k - t = 0 ↔ k = t by omega]
    rw [List.foldl_cons, ih, hbit, Bool.or_assoc]
    simp only [List.mem_cons, Bool.decide_or]

theorem hasTract_tractMask (ts : List Nat) {k : Nat} (hk : k < 64) : hasTract (tractMask ts) k = decide (k ∈ ts) := by
  have hzero : hasTract 0 k = false := BitVec.getLsbD_zero
  rw [tractMask, hasTract_foldl ts hk, hzero, Bool.false_or]

theorem mem_tractsOf {m : U64} {t : Nat} : t ∈ tractsOf m ↔ t < 64 ∧ hasTract m t = true := by
  rw [tractsOf, List.mem_filter, List.mem_range]

/-- The tracts of a mask that satisfy a predicate, as a mask. -/
theorem hasTract_tractMask_filter (m : U64) (f : Nat → Bool) {k : Nat} (hk : k < 64) :
    hasTract (tractMask ((tractsOf m).filter f)) k = (hasTract m k && f k) := by
  rw [hasTract_tractMask _ hk]
  simp [List.mem_filter, mem_tractsOf, hk]

theorem tractsOf_tractMask_filter (m : U64) (f : Nat → Bool) :
    tractsOf (tractMask ((tractsOf m).filter f)) = (tractsOf m).filter f := calc
  _ = (List.range 64).filter fun k => f k && hasTract m k := List.filter_congr fun k hk => by
    rw [hasTract_tractMask_filter m f (List.mem_range.1 hk), Bool.and_comm]
  _ = (tractsOf m).filter f := List.filter_filter.symm

section
variable {s : State} {token nonce : List Byte} {tracts : U64}

theorem serviceInspect_nothing (h : Config.tokenValid Config.serial token nonce = false ∨ ∀ t ∈ tractsOf tracts, inspectable s t = false) :
    serviceInspect token nonce tracts s = spdmError s := by
  unfold serviceInspect
  rcases h with h | h
  · rw [h, Bool.not_false, if_pos rfl]
  · have hnone : (tractsOf tracts).filter (inspectable s) = [] := List.filter_eq_nil_iff.2 fun t ht => by rw [h t ht]; decide
    simp only [hnone, List.isEmpty_nil, if_true, ite_self]

theorem serviceInspect_some {t : Nat} (hv : Config.tokenValid Config.serial token nonce = true) (ht : t ∈ tractsOf tracts)
    (hi : inspectable s t = true) :
    let m := tractMask ((tractsOf tracts).filter (inspectable s))
    serviceInspect token nonce tracts s = { recordSecurity 0 m s with
      draw := (recordSecurity 0 m s).draw + 1
      out := (recordSecurity 0 m s).out ++ (tractsOf m).map fun t => .inspection t (Config.inspection t (recordSecurity 0 m s).draw) } := by
  have hsome : ((tractsOf tracts).filter (inspectable s)).isEmpty = false :=
    List.isEmpty_eq_false_iff_exists_mem.2 ⟨t, List.mem_filter.2 ⟨ht, hi⟩⟩
  intro m
  simp only [m, serviceInspect, hv, hsome, Bool.not_true, Bool.false_eq_true, if_false, tractsOf_tractMask_filter]
  rfl

end

/-! ### IDE and the mailbox (R306, R310) -/

/-- An entry of a table counted up is there with a count above zero. -/
theorem mem_upsert_count (stream : Byte) (ks : List (Byte × Nat)) :
    ∃ n, (stream, n + 1) ∈ upsert (fun e => e.1 = stream) (fun e => (e.1, e.2 + 1)) (stream, 0) ks := by
  unfold upsert
  split
  · next h =>
    obtain ⟨⟨x, n⟩, hmem, hx⟩ := List.any_eq_true.1 h
    obtain rfl : x = stream := of_decide_eq_true hx
    exact ⟨n, List.mem_map.2 ⟨(x, n), hmem, by simp⟩⟩
  · exact ⟨0, List.mem_append_right _ (List.mem_singleton.2 rfl)⟩

theorem ideFailed_eq (stream : Byte) (s : State) : ∃ e : List Byte, stream ∈ e ∧ (∀ x ∈ s.cxl.ideError, x ∈ e) ∧
    ideFailed stream s = recordHost 2 stream.toNat { s with cxl := { s.cxl with ideError := e } } := by
  refine ⟨if s.cxl.ideError.contains stream then s.cxl.ideError else s.cxl.ideError ++ [stream], ?_, ?_, rfl⟩
  · split
    · exact List.contains_iff_mem.1 ‹_›
    · exact List.mem_append_right _ (List.mem_singleton.2 rfl)
  · intro x hx
    split
    · exact hx
    · exact List.mem_append_left _ hx

section
variable {s : State} (h : hostReach s = true)
include h

theorem exec_getMeasurements (i : Byte) (nonce : List Byte) (signed : Bool) :
    exec (.getMeasurements i nonce signed) s = happens (getMeasurements i.toNat nonce signed s) := next_hostAccess h
theorem exec_challenge (slot : Byte) (nonce : List Byte) :
    exec (.challenge slot nonce) s = happens (challenged slot.toNat nonce s) := next_hostAccess h
theorem exec_getCertificate (slot : Byte) (off len : Nat) :
    exec (.getCertificate slot off len) s = happens (certificate slot.toNat off len s) := next_hostAccess h
theorem exec_serviceInspection (token nonce : List Byte) (tracts : U64) :
    exec (.serviceInspection token nonce tracts) s = happens (serviceInspect token nonce tracts s) := next_hostAccess h
theorem exec_ideCheckFailure (stream : Byte) : exec (.ideCheckFailure stream) s = happens (ideFailed stream s) := next_hostAccess h
theorem exec_ideKm (stream : Byte) (setKey : Bool) : exec (.ideKm stream setKey) s = happens (ideKeyed stream setKey s) :=
  next_hostAccess h
theorem exec_mailboxCommand (op : BitVec 16) (payload : List Byte) :
    exec (.mailboxCommand op payload) s = happens (mailbox op payload s) := next_hostAccess h

end

theorem byte_toNat_ne_zero {b : Byte} (h : b ≠ 0) : b.toNat ≠ 0 := fun h0 => h (BitVec.eq_of_toNat_eq h0)

/-- Settles O35: each request by the lemmas of its answer. -/
theorem secureChannelsAndMailbox : Obligations.SecureChannelsAndMailbox := by
  unfold Obligations.SecureChannelsAndMailbox
  refine ⟨?one, ?values, ?all, ?unknown, ?challenge, ?chain, ?noChain, ?refused, ?inspected, inspectable_iff, ?ideFails, ?ideKey, ?mailbox⟩
  case one =>
    intro s i nonce signed m h hm
    rw [exec_getMeasurements h, getMeasurements_one hm, spdmOut_eq]
  case values =>
    intro s
    refine ⟨rfl, rfl, rfl, fun c hc => ?_, fun n hn hno => measurement_partition_absent hn hno, fun i => measurement_isSome_iff s i.toNat⟩
    simp only [measurement, hc]
    rfl
  case all =>
    intro s nonce signed h
    rw [exec_getMeasurements h]
    refine ⟨rfl, fun all hall => ?_⟩
    rw [exec_getMeasurements h, hall]
    rfl
  case unknown =>
    intro s i nonce signed h h0 hall hm
    rw [exec_getMeasurements h, getMeasurements_unknown (byte_toNat_ne_zero h0) (fun hff => hall (BitVec.eq_of_toNat_eq hff)) hm]
    rfl
  case challenge =>
    intro s slot nonce h
    rw [exec_challenge h, challenged]
    by_cases hslot : slot = 0
    · rw [if_pos hslot, hslot]
      rfl
    · rw [if_neg hslot, if_neg (byte_toNat_ne_zero hslot)]
      rfl
  case chain =>
    intro s off len h hoff
    rw [exec_getCertificate h, certificate, if_pos ⟨rfl, hoff⟩]
    rfl
  case noChain =>
    intro s slot off len h hbad
    have hno : ¬(slot.toNat = 0 ∧ off < (Config.certificateChain s.firmware.aliasEpoch).length) := by
      rintro ⟨hslot, hoff⟩
      exact hbad.elim (fun hne => byte_toNat_ne_zero hne hslot) (fun hle => absurd hoff (Nat.not_lt.2 hle))
    rw [exec_getCertificate h, certificate, if_neg hno]
    rfl
  case refused =>
    intro s token nonce tracts h hno
    rw [exec_serviceInspection h, serviceInspect_nothing hno]
    rfl
  case inspected =>
    intro s token nonce tracts t h hv ht hi
    refine ⟨tractMask ((tractsOf tracts).filter (inspectable s)), fun k hk => hasTract_tractMask_filter _ _ hk, ?_⟩
    rw [exec_serviceInspection h, serviceInspect_some hv ht hi]
  case ideFails =>
    intro s stream h
    obtain ⟨e, hmem, hkept, heq⟩ := ideFailed_eq stream s
    exact ⟨e, hmem, hkept, by rw [exec_ideCheckFailure h, heq]⟩
  case ideKey =>
    intro s stream setKey h
    exact ⟨_, exec_ideKm h stream setKey, mem_upsert_count stream _⟩
  case mailbox =>
    intro s op payload h
    rw [exec_mailboxCommand h, mailbox]
    cases Config.mailboxMandatory op.toNat <;> rfl

end Sys2Proof.Machine
end

section
/-! SUPPORT and SETTLED STATEMENTS of partitions made, released and reported (O36), and of the end of a scrub (O37). -/
namespace Sys2Proof.Machine

/-! ### Tracts at the start of a lease (R376) -/

theorem TractRec.off_num (r : TractRec) : r.off.num = r.num := by
  unfold TractRec.off
  split <;> rfl

theorem TractRec.off_power (r : TractRec) : r.off.power = if r.power = .offline then .offline else .off := by
  unfold TractRec.off
  split
  next h => exact h
  next => rfl

/-- Tracts put OFF, one after the other. -/
def tractsOff (ts : List Nat) (s : State) : State := ts.foldl (fun s t => updTract t TractRec.off s) s

theorem tractsOff_eq (ts : List Nat) (s : State) :
    tractsOff ts s = { s with power := { s.power with tracts := (tractsOff ts s).power.tracts } } :=
  List.foldlRecOn (motive := fun u : State => u = { s with power := { s.power with tracts := u.power.tracts } }) ts _ rfl
    fun u hu t _ => by rw [hu]; rfl

/-- What tracts are put OFF in depends on the power controller alone. -/
theorem tractsOff_of_power {s u : State} : ∀ (ts : List Nat), u.power = s.power →
    tractsOff ts u = { u with power := (tractsOff ts s).power }
  | [], h => by rw [tractsOff, List.foldl_nil, tractsOff, List.foldl_nil, ← h]
  | t :: ts, h => tractsOff_of_power (s := updTract t TractRec.off s) (u := updTract t TractRec.off u) ts (by rw [updTract, h]; rfl)

theorem findTract_updTract_other {f : TractRec → TractRec} (hf : ∀ r, (f r).num = r.num) {t k : Nat} (h : t ≠ k) (s : State) :
    findTract (updTract k f s) t = findTract s t := by
  have hkey : ∀ r : TractRec, decide (r.num = k) = true → decide (r.num = t) = false ∧ decide ((f r).num = t) = false := by
    intro r hr
    have hne : r.num ≠ t := fun ht => h (ht.symm.trans (of_decide_eq_true hr))
    rw [hf]
    exact ⟨decide_eq_false hne, decide_eq_false hne⟩
  rw [findTract, updTract_tracts, find?_updWhere_disjoint _ hkey, findTract]

theorem findTract_updTract_off_power (t : Nat) (s : State) :
    (findTract (updTract t TractRec.off s) t).power = if (findTract s t).power = .offline then .offline else .off := by
  rw [findTract, updTract_tracts, find?_updWhere _ _ (fun r => by rw [r.off_num]), findTract]
  cases s.power.tracts.find? fun x => x.num = t with
  | none => rfl
  | some r => exact r.off_power

theorem findTract_tractsOff_other {t : Nat} : ∀ {ts : List Nat}, t ∉ ts → ∀ s, findTract (tractsOff ts s) t = findTract s t
  | [], _, _ => rfl
  | k :: ts, h, s => by
    obtain ⟨hk, hts⟩ := not_or.1 (mt List.mem_cons.2 h)
    exact (findTract_tractsOff_other hts (updTract k TractRec.off s)).trans (findTract_updTract_other TractRec.off_num hk s)

theorem findTract_tractsOff_power {t : Nat} : ∀ {ts : List Nat}, t ∈ ts → ∀ s,
    (findTract (tractsOff ts s) t).power = if (findTract s t).power = .offline then .offline else .off
  | k :: ts, h, s => by
    have hstep : tractsOff (k :: ts) s = tractsOff ts (updTract k TractRec.off s) := rfl
    rw [hstep]
    by_cases hts : t ∈ ts
    · rw [findTract_tractsOff_power hts]
      by_cases htk : t = k
      · rw [htk, findTract_updTract_off_power]
        split <;> simp_all
      · rw [findTract_updTract_other TractRec.off_num htk]
    · obtain rfl : t = k := (List.mem_cons.1 h).resolve_right hts
      rw [findTract_tractsOff_other hts, findTract_updTract_off_power]

theorem not_mem_tractsOf {m : U64} {t : Nat} (h : hasTract m t = false) : t ∉ tractsOf m := fun ht => by
  rw [(List.mem_filter.1 ht).2] at h
  exact Bool.noConfusion h

/-! ### PARTITION_CREATE (R378, R380) -/

/-- INSTANCE: the count of cold starts above, the count of creations below. -/
theorem instance_eq (cold c : U32) : (cold.setWidth 64 <<< 32 ||| c.setWidth 64 : U64) = BitVec.ofNat 64 (cold.toNat * 2 ^ 32 + c.toNat) := by
  apply BitVec.eq_of_toNat_eq
  have hc := c.isLt
  have hcold := cold.isLt
  have hwide : ∀ b : U32, (b.setWidth 64).toNat = b.toNat := fun b => by rw [BitVec.toNat_setWidth]; omega
  rw [BitVec.toNat_or, BitVec.toNat_shiftLeft, hwide, hwide, BitVec.toNat_ofNat, Nat.mod_eq_of_lt (by rw [Nat.shiftLeft_eq]; omega),
    ← Nat.shiftLeft_add_eq_or_of_lt hc, Nat.shiftLeft_eq, Nat.mod_eq_of_lt (by omega)]

/-- What PARTITION_CREATE asks of its parameters. -/
def Creatable (s : State) (n : Nat) (tracts : U64) : Prop :=
  n ≤ 15 ∧ findPart s (BitVec.ofNat 4 n) = none ∧ tracts ≠ 0 ∧
    ∀ t, t < 64 → hasTract tracts t = true → ownerOf s t = none ∧ (findTract s t).power ≠ .offline

theorem creatable_iff (s : State) (n : Nat) (tracts : U64) : Creatable s n tracts ↔
    (decide (15 < n) || (findPart s (BitVec.ofNat 4 n)).isSome || decide (tracts = 0) ||
      (tractsOf tracts).any fun t => (ownerOf s t).isSome || offline s t) = false := by
  simp only [Creatable, Bool.or_eq_false_iff, decide_eq_false_iff_not, Nat.not_lt, Option.isSome_eq_false_iff, Option.isNone_iff_eq_none,
    List.any_eq_false, Bool.not_eq_true, mem_tractsOf, offline, and_assoc, and_imp, ne_eq]

section
variable {s : State} {q : QueuePair} {p : Packet}

theorem cmdPartitionCreate_denied (h : ¬Creatable s (par p 0 1) (fld64 p.inl 8)) :
    cmdPartitionCreate q p s = fail stNotPermitted s := by
  rw [creatable_iff, Bool.not_eq_false] at h
  simp only [cmdPartitionCreate, h, if_true]

theorem cmdPartitionCreate_ok (h : Creatable s (par p 0 1) (fld64 p.inl 8)) {inst : U64}
    (hi : inst = BitVec.ofNat 64 (s.start.coldCount.toNat * 2 ^ 32 + (s.start.createCount + 1).toNat)) :
    cmdPartitionCreate q p s = ok (toLE 8 inst.toNat) (tractsOff (tractsOf (fld64 p.inl 8)) { s with
      start := { s.start with createCount := s.start.createCount + 1 }
      partitions := s.partitions ++ [Partition.make (par p 0 1) (fld64 p.inl 8) (par p 1 1 % 2 = 1) inst] }) := by
  rw [creatable_iff] at h
  rw [hi, ← instance_eq]
  simp only [cmdPartitionCreate, h, Bool.false_eq_true, if_false]
  rfl

end

/-! ### PARTITION_RELEASE and the scrub's begin (R379) -/

/-- A partition as its scrub begins. -/
def Partition.stopped (o : Option Origin) (p : Partition) : Partition :=
  { p with
    scrubbing := true, sweeping := false, keyLive := false, release := o, expired := false, switching := none
    recovery := [], acting := none, deferred := []
    contexts := p.contexts.map fun c => { c with sets := [], ineligible := [], released := [], step := none, saved := [] }
    regions := p.regions.map fun r => { r with filling := none }
    plans := p.plans.map fun q => { q with unloading := none }
    caches := p.caches.map fun c => { c with migrations := [] } }

/-- The scrub's begin stops the partition; what follows of it ends commands. -/
theorem beginScrub_frame {s : State} {n : BitVec 4} {x : Partition} (hx : findPart s n = some x) (o : Option Origin) :
    (beginScrub n o s).mem = s.mem ∧ (beginScrub n o s).tags = s.tags ∧
      (beginScrub n o s).partitions = (updPart n (Partition.stopped o) s).partitions := by
  simp only [beginScrub, hx]
  generalize hu : clearFabric _ _ = u
  have hout := (Outward.foldl (s := u) (sortBy (fun a b => a.held.order ≤ b.held.order) ((allSteps s).filter fun f => f.part = n))
    fun s f => finish_outward f.held.origin stOk detailCancelled (zeros 16) s).trans
    (Outward.foldl (scrubWaiters s x) fun s o => finish_outward o stScrubbing 0 [] s)
  rw [hout, ← hu]
  exact ⟨rfl, rfl, rfl⟩

theorem findPart_updPart_other {f : Partition → Partition} (hf : ∀ p, (f p).num = p.num) {n m : BitVec 4} (h : m ≠ n) (s : State) :
    findPart (updPart n f s) m = findPart s m := by
  refine find?_updWhere_disjoint s.partitions fun p hp => ?_
  have hne : p.num ≠ m := fun hm => h (hm.symm.trans (of_decide_eq_true hp))
  rw [hf]
  exact ⟨decide_eq_false hne, decide_eq_false hne⟩

section
variable {s : State} {q : QueuePair} {p : Packet} {x : Partition}

/-- A pair bound to a partition, or a group of it. -/
def HoldsPartition (s : State) (n : BitVec 4) : Prop := (∃ k ∈ s.pairs, k.part = some n) ∨ ∃ g ∈ s.fabric.groups, g.part = n

theorem holdsPartition_iff (s : State) (n : BitVec 4) : HoldsPartition s n ↔
    (s.pairs.any (fun q => q.part = some n) || s.fabric.groups.any fun g => g.part = n) = true := by
  simp only [HoldsPartition, Bool.or_eq_true, List.any_eq_true, decide_eq_true_eq]

variable (hn : par p 0 1 ≤ 15) (hx : findPart s (BitVec.ofNat 4 (par p 0 1)) = some x) (hs : x.scrubbing = false)
include hn hx hs

theorem cmdPartitionRelease_accepted (h : ¬HoldsPartition s x.num) :
    cmdPartitionRelease q p s = (.accepted, beginScrub x.num (some (pktOrigin p)) s) := by
  rw [findPart_num hx, holdsPartition_iff, Bool.not_eq_true] at h
  simp only [cmdPartitionRelease, if_neg (Nat.not_lt.2 hn), hx, hs, h, Bool.false_eq_true, if_false, findPart_num hx]

theorem cmdPartitionRelease_denied (h : HoldsPartition s x.num) : cmdPartitionRelease q p s = fail stNotPermitted s := by
  rw [findPart_num hx, holdsPartition_iff] at h
  simp only [cmdPartitionRelease, if_neg (Nat.not_lt.2 hn), hx, hs, h, Bool.false_eq_true, if_false, if_true]

end

/-! ### PARTITION_STATUS and the partition a command names (R376, R164) -/

theorem namedPart_own (q : QueuePair) (p : Packet) : namedPart q p 0xFF = .ok (pktPart p) := if_pos rfl

section
variable {q : QueuePair} {p : Packet} {n : Nat}

theorem namedPart_badLength (h15 : 15 < n) (hff : n ≠ 0xFF) : namedPart q p n = .error ⟨stBadLength, 0, []⟩ := by
  rw [namedPart, if_neg hff, if_pos h15]
  rfl

theorem namedPart_within (h : n ≤ 15) : namedPart q p n =
    if !q.operator && pktPart p ≠ BitVec.ofNat 4 n then .error (.plain stNotPermitted) else .ok (BitVec.ofNat 4 n) := by
  rw [namedPart, if_neg (by omega), if_neg (Nat.not_lt.2 h)]

theorem namedPart_ok (h : n ≤ 15) (ho : q.operator = true ∨ pktPart p = BitVec.ofNat 4 n) :
    namedPart q p n = .ok (BitVec.ofNat 4 n) := by
  rw [namedPart_within h, if_neg]
  rcases ho with ho | ho <;> simp [ho]

theorem namedPart_denied (h : n ≤ 15) (ho : q.operator = false) (hp : pktPart p ≠ BitVec.ofNat 4 n) :
    namedPart q p n = .error ⟨stNotPermitted, 0, []⟩ := by
  rw [namedPart_within h, if_pos (by simp [ho, hp])]
  rfl

end

section
variable {s : State} {q : QueuePair} {p : Packet} {n : BitVec 4} (hn : namedPart q p (par p 0 1) = .ok n)
include hn

theorem cmdPartitionStatus_found {x : Partition} (hx : findPart s n = some x) : cmdPartitionStatus q p s =
    ok (toLE 1 (if x.scrubbing then 2 else 1) ++ toLE 1 ((if x.confidential then 1 else 0) + (if x.sweeping then 2 else 0))
      ++ zeros 2 ++ toLE 8 x.tracts.toNat ++ toLE 4 x.regions.length) s := by
  simp only [cmdPartitionStatus, hn, hx]

theorem cmdPartitionStatus_absent (hx : findPart s n = none) : cmdPartitionStatus q p s = ok (zeros 16) s := by
  simp only [cmdPartitionStatus, hn, hx]

end

section
variable {s : State} {q : QueuePair} {p c : Packet}

theorem exec_partitionCreate (h : Fetches 0x0A01 s q p c) :
    exec (.partitionCreate p) s = .next (settle (deliver c (cmdPartitionCreate q c (fetchedState p s)))) := h.runs cmdPartitionCreate
theorem exec_partitionRelease (h : Fetches 0x0A02 s q p c) :
    exec (.partitionRelease p) s = .next (settle (deliver c (cmdPartitionRelease q c (fetchedState p s)))) := h.runs cmdPartitionRelease
theorem exec_partitionStatus (h : Fetches 0x0A03 s q p c) :
    exec (.partitionStatus p) s = .next (settle (deliver c (cmdPartitionStatus q c (fetchedState p s)))) := h.runs cmdPartitionStatus

end

/-- Settles O36: each command by the lemmas of its cases, the scrub's begin by its frame. -/
theorem partitionsAreMadeAndReleased : Obligations.PartitionsAreMadeAndReleased := by
  unfold Obligations.PartitionsAreMadeAndReleased
  refine ⟨?made, ?denied, ?released, ?held, ?begun, ?status, ?absent, ?named⟩
  case made =>
    intro s q p c h hn hx h0 hts inst
    have hcan : Creatable (fetchedState p s) (par c 0 1) (fld64 c.inl 8) := ⟨hn, hx, h0, hts⟩
    refine ⟨(tractsOff (tractsOf (fld64 c.inl 8)) s).power, ?_, congrArg State.power (tractsOff_eq _ s), fun t ht => ?_⟩
    · rw [exec_partitionCreate h, cmdPartitionCreate_ok hcan (inst := inst) rfl, deliver_ok, h.origin]
      exact congrArg (completes p (toLE 8 inst.toNat)) (tractsOff_of_power (s := s) _ rfl)
    · have hfind : findTract { s with power := (tractsOff (tractsOf (fld64 c.inl 8)) s).power } t =
        findTract (tractsOff (tractsOf (fld64 c.inl 8)) s) t := rfl
      rw [hfind]
      split
      next hmem =>
        rw [findTract_tractsOff_power (mem_tractsOf.2 ⟨ht, hmem⟩), if_neg (hts t ht hmem).2]
      next hmem => exact findTract_tractsOff_other (not_mem_tractsOf (Bool.eq_false_iff.2 hmem)) s
  case denied =>
    intro s q p c h hbad
    have hno : ¬Creatable (fetchedState p s) (par c 0 1) (fld64 c.inl 8) := by
      rintro ⟨hn, hx, h0, hts⟩
      rcases hbad with hn' | hx' | h0' | ⟨t, ht, hmem, howner | hoff⟩
      · exact absurd hn (Nat.not_le.2 hn')
      · exact absurd hx (Option.isSome_iff_ne_none.1 hx')
      · exact h0 h0'
      · exact absurd (hts t ht hmem).1 (Option.isSome_iff_ne_none.1 howner)
      · exact (hts t ht hmem).2 hoff
    rw [exec_partitionCreate h, cmdPartitionCreate_denied hno, deliver_fail, h.origin]
  case released =>
    intro s q p c x h hn hx hs hpairs hgroups
    have hno : ¬HoldsPartition (fetchedState p s) x.num :=
      not_or.2 ⟨fun ⟨k, hk, e⟩ => hpairs k hk e, fun ⟨g, hg, e⟩ => hgroups g hg e⟩
    rw [exec_partitionRelease h, cmdPartitionRelease_accepted (s := fetchedState p s) hn hx hs hno, deliver_accepted, h.origin]
    rfl
  case held =>
    intro s q p c x h hn hx hs hheld
    rw [exec_partitionRelease h, cmdPartitionRelease_denied (s := fetchedState p s) hn hx hs hheld, deliver_fail, h.origin]
  case begun =>
    intro s n o x hx
    obtain ⟨hmem, htags, hparts⟩ := beginScrub_frame hx o
    refine ⟨x.stopped o, ?_, rfl, rfl, rfl, rfl, rfl, fun c hc => ?_, hmem, htags, fun m hm => ?_⟩
    · rw [findPart_congr hparts, findPart_updPart n (Partition.stopped o) (fun _ => rfl), hx, Option.map_some]
    · obtain ⟨c', -, rfl⟩ := List.mem_map.1 hc
      exact ⟨rfl, rfl, rfl, rfl⟩
    · rw [findPart_congr hparts, findPart_updPart_other (f := Partition.stopped o) (fun _ => rfl) hm]
  case status =>
    intro s q p c n x h hn hx
    rw [exec_partitionStatus h, cmdPartitionStatus_found (s := fetchedState p s) hn hx, deliver_ok, h.origin]
    rfl
  case absent =>
    intro s q p c n h hn hx
    rw [exec_partitionStatus h, cmdPartitionStatus_absent (s := fetchedState p s) hn hx, deliver_ok, h.origin]
    rfl
  case named =>
    exact fun q p n => ⟨fun h => h ▸ namedPart_own q p, namedPart_badLength, namedPart_ok, namedPart_denied⟩

/-! ### The end of a scrub (R379, R397) -/

/-- A decoder without a region of partition `n`. -/
def Decoder.unbound (n : BitVec 4) (d : Decoder) : Decoder :=
  { d with bound := match d.bound with | some (m, h) => if m = n then none else some (m, h) | none => none }

/-- What the end of the scrub of partition `x` leaves before its tracts are put OFF. -/
def emptied (x : Partition) (s : State) : State :=
  let mine := fun (g : Nat) => hasTract x.tracts (tractOfCore (256 * g))
  let s := clearRouters x.tracts (freeLines (fun l => hasTract x.tracts (tractOfCore (lineCore l))) s)
  { s with
    partitions := s.partitions.filter fun p => p.num ≠ x.num
    groves := s.groves.filter fun g => !mine g.num
    lattice := s.lattice.filter fun c => !mine c.grove
    net := s.net.filter fun c => !mine c.grove
    netNoted := s.netNoted.filter fun g => !mine g
    cxl := { s.cxl with decoders := s.cxl.decoders.map (Decoder.unbound x.num) } }

theorem Decoder.bound_unbound {n : BitVec 4} {d : Decoder} {b : BitVec 4 × U32} (h : (d.unbound n).bound = some b) : b.1 ≠ n := by
  unfold Decoder.unbound at h
  dsimp only at h
  split at h
  · split at h
    · cases h
    next hne => cases h; exact hne
  · cases h

theorem relieveStranded_of_none {s : State} (h : ∀ p ∈ s.partitions, p.stranded = false) : relieveStranded s = s := by
  exact List.foldlRecOn (motive := fun u => u = s) s.partitions _ rfl fun u hu p hp => by
    rw [if_neg (by simp [h p hp]), hu]

theorem finishIf_outward (o : Option Origin) (st : BitVec 16) (r : List Byte) (s : State) : Outward s (finishIf o st r s) := by
  cases o with
  | none => exact .refl s
  | some o => exact finish_outward o st 0 r s

section
variable {s : State} {n : BitVec 4} {x : Partition} (hx : findPart s n = some x)
include hx

theorem endScrub_eq (hs : x.scrubbing = true) (hfree : ∀ p ∈ s.partitions, p.num ≠ n → p.stranded = false) :
    endScrub n s = settleReserve (finishIf x.release stOk (toLE 8 (x.energy / 1000000))
      (tractsOff (tractsOf x.tracts) (emptied x s))) := by
  simp only [endScrub, hx, hs, Bool.not_true, Bool.false_eq_true, if_false]
  rw [← findPart_num hx] at hfree ⊢
  refine congrArg settleReserve (relieveStranded_of_none ?_)
  rw [finishIf_outward x.release]
  change ∀ p ∈ (tractsOff (tractsOf x.tracts) (emptied x s)).partitions, _
  rw [tractsOff_eq]
  intro p hp
  obtain ⟨hp, hne⟩ := List.mem_filter.1 hp
  exact hfree p hp (of_decide_eq_true hne)

theorem endScrub_unscrubbed (hs : x.scrubbing = false) : endScrub n s = s := by
  simp only [endScrub, hx, hs, Bool.not_false, if_true]

end

theorem endScrub_absent {s : State} {n : BitVec 4} (hx : findPart s n = none) : endScrub n s = s := by
  simp only [endScrub, hx]

section
variable (x : Partition) (s : State)

theorem memGet_emptied (a : Nat) : memGet (emptied x s).mem a =
    if hasTract x.tracts (tractOfCore (lineCore (lineOf a))) then 0 else memGet s.mem a :=
  memGet_freeLines (fun l => hasTract x.tracts (tractOfCore (lineCore l))) s a

theorem tagOf_emptied (l : Nat) : tagOf (emptied x s).tags l =
    if hasTract x.tracts (tractOfCore (lineCore l)) then none else tagOf s.tags l :=
  tagOf_freeLines (fun l => hasTract x.tracts (tractOfCore (lineCore l))) s l

end

/-- Settles O37: the freed lines and the tracts put OFF, by their own lemmas. -/
theorem scrubLeavesNothing : Obligations.ScrubLeavesNothing := by
  unfold Obligations.ScrubLeavesNothing
  refine ⟨?ends, ?idle⟩
  case ends =>
    intro s n x h hx hs hfree
    obtain rfl := findPart_num hx
    refine ⟨tractsOff (tractsOf x.tracts) (emptied x s), (next_event h).trans (congrArg happens (endScrub_eq hx hs hfree)), ?_⟩
    have hpower : ∀ t, findTract (emptied x s) t = findTract s t := fun _ => rfl
    refine ⟨?_, fun l hl => ?_, fun l hl => ?_, ?_, fun t ht hmem => ?_, fun t _ hno => ?_, ?_, ?_, ?_, ?_⟩
    · rw [tractsOff_eq]
      rfl
    · rw [tractsOff_eq]
      exact ⟨by rw [tagOf_emptied, if_pos hl], fun a ha => by rw [memGet_emptied, ha, if_pos hl]⟩
    · rw [tractsOff_eq]
      have hl' : ¬hasTract x.tracts (tractOfCore (lineCore l)) = true := Bool.eq_false_iff.1 hl
      exact ⟨by rw [tagOf_emptied, if_neg hl'], fun a ha => by rw [memGet_emptied, ha, if_neg hl']⟩
    · rw [tractsOff_eq]
      intro d hd b hb
      obtain ⟨d', -, rfl⟩ := List.mem_map.1 hd
      exact Decoder.bound_unbound hb
    · rw [findTract_tractsOff_power (mem_tractsOf.2 ⟨ht, hmem⟩)]
      split
      · exact .inr rfl
      · exact .inl rfl
    · rw [findTract_tractsOff_other (not_mem_tractsOf hno), hpower]
    · rw [tractsOff_eq]
      intro g hg
      simpa using (List.mem_filter.1 hg).2
    · rw [tractsOff_eq]
      rfl
    · rw [tractsOff_eq]
      rfl
    · rw [tractsOff_eq]
      rfl
  case idle =>
    intro s n h hno
    refine (next_event h).trans (congrArg happens ?_)
    cases hx : findPart s n with
    | none => exact endScrub_absent hx
    | some x => exact endScrub_unscrubbed hx (hno x hx)

end Sys2Proof.Machine
end

section
/-! SUPPORT and the SETTLED STATEMENT of keys, their sweep, confidential mode and its publication (O38). -/
namespace Sys2Proof.Machine

/-! ### Commands on keys and confidential mode (R391, R394, R395) -/

/-- While a partition is swept: the lines left in the column that has most. -/
def linesLeft (s : State) (x : Partition) : Nat := if x.sweeping then most ((oldLines s x).map fun t => lineCore t.line) else 0

/-- While a partition is swept: the milliseconds since the sweep began, as far as 32 bits hold them. -/
def sweepTime (s : State) (x : Partition) : Nat :=
  if x.sweeping then min (Config.elapsedMs s.draw - x.sweepSince) (2 ^ 32 - 1) else 0

theorem sweepTime_lt (s : State) (x : Partition) : sweepTime s x < 2 ^ 32 := by
  unfold sweepTime
  split <;> omega

section
variable {s : State} {q : QueuePair} {p : Packet} {n : BitVec 4} {x : Partition} (hn : namedPart q p (par p 0 1) = .ok n)
include hn

theorem cmdKeyStatus_absent (hx : findPart s n = none) : cmdKeyStatus q p s = ok (2 :: zeros 15) s := by
  simp only [cmdKeyStatus, hn, hx]
  rfl

variable (hx : findPart s n = some x)
include hx

theorem cmdKeyRotate_scrubbing (hs : x.scrubbing = true) : cmdKeyRotate q p s = fail stScrubbing s := by
  simp only [cmdKeyRotate, hn, hx, hs, if_true]

theorem cmdKeyRotate_sweeping (hs : x.scrubbing = false) (hw : x.sweeping = true) : cmdKeyRotate q p s = fail stBusyRekey s := by
  simp only [cmdKeyRotate, hn, hx, hs, hw, Bool.false_eq_true, if_true, if_false]

theorem cmdKeyRotate_ok (hs : x.scrubbing = false) (hw : x.sweeping = false) : cmdKeyRotate q p s =
    ok (toLE 4 (x.rotations + 1).toNat ++ toLE 1 (if x.gen then 0 else 1)) (updPart n (fun y => { y with
      gen := !y.gen, rotations := y.rotations + 1, sweeping := true, sweepSince := Config.elapsedMs s.draw })
      { s with draw := s.draw + 1 }) := by
  simp only [cmdKeyRotate, hn, hx, hs, hw, Bool.false_eq_true, if_false]

theorem cmdKeyStatus_found : cmdKeyStatus q p s =
    ok (toLE 1 (if x.keyLive = false then 2 else if x.sweeping then 1 else 0) ++ toLE 1 (if x.gen then 1 else 0) ++ zeros 2 ++
        toLE 4 x.rotations.toNat ++ toLE 4 (linesLeft s x) ++ toLE 4 (sweepTime s x)) { s with draw := s.draw + 1 } := by
  simp only [cmdKeyStatus, hn, hx, Bool.not_eq_true', linesLeft, sweepTime]

variable (h1 : par p 1 1 = 1) (hs : x.scrubbing = false)
include h1 hs

theorem cmdConfidentialSet_bound (hb : ∃ d ∈ s.cxl.decoders, ∃ b, d.bound = some b ∧ b.1 = n) :
    cmdConfidentialSet q p s = fail stNotPermitted s := by
  have hany : (s.cxl.decoders.any fun d => (d.bound.map (·.1)) = some n) = true := by
    simpa only [List.any_eq_true, decide_eq_true_eq, Option.map_eq_some_iff] using hb
  simp only [cmdConfidentialSet, h1, ne_eq, not_true_eq_false, hn, hx, hs, hany, Bool.false_eq_true, if_false, if_true]

variable (hb : ∀ d ∈ s.cxl.decoders, ∀ b, d.bound = some b → b.1 ≠ n)
include hb

theorem cmdConfidentialSet_unbound : cmdConfidentialSet q p s =
    if x.confidential then ok [] s else ok [] (updPart n (fun y => { y with confidential := true, pubEnergy := y.energy }) s) := by
  have hany : (s.cxl.decoders.any fun d => (d.bound.map (·.1)) = some n) = false := by
    refine List.any_eq_false.2 fun d hd hbound => ?_
    obtain ⟨b, hdb, hbn⟩ := Option.map_eq_some_iff.1 (of_decide_eq_true hbound)
    exact hb d hd b hdb hbn
  simp only [cmdConfidentialSet, h1, ne_eq, not_true_eq_false, hn, hx, hs, hany, Bool.false_eq_true, if_false]

end

theorem cmdConfidentialSet_badLength {s : State} {q : QueuePair} {p : Packet} (h : par p 1 1 ≠ 1) :
    cmdConfidentialSet q p s = fail stBadLength s := if_pos h

/-! ### The sweep (R391, R399) -/

/-- The line with the lowest LINE of those seen so far. -/
theorem foldl_lowest (ts : List LineTag) (b : LineTag) :
    ts.foldl (fun b u => if lineIndex u.line < lineIndex b.line then u else b) b ∈ b :: ts ∧
      ∀ k ∈ b :: ts, lineIndex (ts.foldl (fun b u => if lineIndex u.line < lineIndex b.line then u else b) b).line ≤ lineIndex k.line := by
  induction ts generalizing b with
  | nil => simp
  | cons u us ih =>
    rw [List.foldl_cons]
    split
    next hlt =>
      obtain ⟨hmem, hmin⟩ := ih u
      refine ⟨List.mem_cons_of_mem b hmem, fun k hk => ?_⟩
      rcases List.mem_cons.1 hk with rfl | hk
      · exact (hmin u List.mem_cons_self).trans (Nat.le_of_lt hlt)
      · exact hmin k hk
    next hle =>
      obtain ⟨hmem, hmin⟩ := ih b
      refine ⟨?_, fun k hk => ?_⟩
      · rcases List.mem_cons.1 hmem with h | h
        · exact List.mem_cons.2 (.inl h)
        · exact List.mem_cons_of_mem b (List.mem_cons_of_mem u h)
      · rcases List.mem_cons.1 hk with rfl | hk
        · exact hmin k List.mem_cons_self
        · rcases List.mem_cons.1 hk with rfl | hk
          · exact (hmin b List.mem_cons_self).trans (Nat.not_lt.1 hle)
          · exact hmin k (List.mem_cons_of_mem b hk)

theorem nextSweep_some {ts : List LineTag} (h : ts ≠ []) :
    ∃ t, nextSweep ts = some t ∧ t ∈ ts ∧ ∀ k ∈ ts, lineIndex t.line ≤ lineIndex k.line := by
  cases ts with
  | nil => exact absurd rfl h
  | cons t ts => exact ⟨_, rfl, foldl_lowest ts t⟩

theorem tagOf_of_mem {ts : List LineTag} (h : tagsRising ts) {t : LineTag} (ht : t ∈ ts) : tagOf ts t.line = some t := by
  induction ts with
  | nil => cases ht
  | cons u us ih =>
    obtain ⟨hu, hus⟩ := List.pairwise_cons.1 h
    rcases List.mem_cons.1 ht with rfl | ht
    · exact List.find?_cons_of_pos (decide_eq_true rfl)
    · rw [tagOf, List.find?_cons_of_neg (by simpa using Nat.ne_of_lt (hu t ht))]
      exact ih hus ht

theorem tagOf_line {ts : List LineTag} {l : Nat} {t : LineTag} (h : tagOf ts l = some t) : t.line = l :=
  of_decide_eq_true (List.find?_some (p := fun t : LineTag => decide (t.line = l)) h)

/-- After a line has been swept: with no line of the old generation left, the sweep is over. -/
def sweepEnd (n : BitVec 4) (x : Partition) (s : State) : State :=
  if (oldLines s x).isEmpty then updPart n (fun y => { y with sweeping := false }) s else s

theorem sweepEnd_eq (n : BitVec 4) (x : Partition) (s : State) :
    sweepEnd n x s = { s with partitions := (sweepEnd n x s).partitions } := by
  unfold sweepEnd
  split <;> rfl

section
variable {s : State} {n : BitVec 4} {e : ReadErrors} {x : Partition} (hx : findPart s n = some x)
include hx

theorem sweepOne_idle (hw : x.sweeping = false) : sweepOne n e s = s := by
  simp only [sweepOne, hx, hw, Bool.not_false, if_true]

variable (hw : x.sweeping = true)
include hw

theorem findPart_sweepEnd : findPart (sweepEnd n x s) n = some { x with sweeping := !(oldLines (sweepEnd n x s) x).isEmpty } := by
  have hold : oldLines (sweepEnd n x s) x = oldLines s x := by rw [sweepEnd_eq]; rfl
  rw [hold, sweepEnd]
  split
  next h => rw [findPart_updPart _ (fun y => { y with sweeping := false }) (fun _ => rfl), hx, h]; rfl
  next h => rw [hx, Bool.eq_false_iff.2 h, Bool.not_false, ← hw]

theorem sweepOne_ends (ho : oldLines s x = []) : sweepOne n e s = updPart n (fun y => { y with sweeping := false }) s := by
  simp only [sweepOne, hx, hw, ho, nextSweep, Bool.not_true, Bool.false_eq_true, if_false, List.isEmpty_nil, if_true]

theorem sweepOne_next {t : LineTag} (ht : nextSweep (oldLines s x) = some t) :
    sweepOne n e s = sweepEnd n x (sweepLine e x.gen t.line s) := by
  simp only [sweepOne, hx, hw, ht, Bool.not_true, Bool.false_eq_true, if_false]
  rfl

end

theorem sweepOne_absent {s : State} {n : BitVec 4} {e : ReadErrors} (hx : findPart s n = none) : sweepOne n e s = s := by
  simp only [sweepOne, hx]

section
variable {s : State} {e : ReadErrors} {gen : Bool} {l : Nat} {t : LineTag}

/-- A line that reads clean, or that is not read, takes the new generation and nothing else of memory changes. -/
theorem sweepLine_kept (ht : tagOf s.tags l = some t)
    (h : lineState s l ≠ some .valid ∨ (onAbsorbed s l = false ∧ decodePattern (errorsOf e l) = .clean)) :
    ∃ d c, sweepLine e gen l s = { s with
      tags := tagPut s.tags { t with gen := gen }, dirtyTags := touchTag l s.dirtyTags, draw := d, laneCounts := c } := by
  unfold sweepLine
  split
  next hv =>
    obtain ⟨ha, hd⟩ := h.resolve_left (fun hne => hne hv)
    have hl : lineState { s with draw := s.draw + 1 } l ≠ some .lost := by
      change lineState s l ≠ _
      rw [hv]
      decide
    rw [readLine_clean _ _ hl ha hd, asRead_seen (.inl hd)]
    have htag : tagOf (countBursts (lineCore l) 1 { s with draw := s.draw + 1 }).tags l = some t := ht
    simp only [htag]
    exact ⟨_, _, rfl⟩
  next =>
    simp only [ht]
    exact ⟨_, _, rfl⟩

/-- A line that can be neither corrected nor formed is lost under the new generation. -/
theorem sweepLine_loses (hs : tagsRising s.tags) (hv : lineState s l = some .valid) (ha : onAbsorbed s l = false)
    (hd : decodePattern (errorsOf e l) = .uncorrectable) (hm : misread (errorsOf e l) = none) (hf : canForm s e.badStripe l = false) :
    (sweepLine e gen l s).mem = s.mem ∧ tagOf (sweepLine e gen l s).tags l = some ⟨l, gen, .lost⟩ := by
  have hl : lineState { s with draw := s.draw + 1 } l ≠ some .lost := by
    change lineState s l ≠ _
    rw [hv]
    decide
  obtain ⟨-, hmem, hlost⟩ := readLine_loses (Config.freeNat s.draw 6) [] hl ha (.inr hd) hm hf hs
  have hrise := (kept_readLine (Config.freeNat s.draw 6) [] e l _ (Kept.refl { s with draw := s.draw + 1 })).tags hs
  obtain ⟨k, hk, hstate⟩ := Option.map_eq_some_iff.1 hlost
  simp only [sweepLine, hv, if_true, asRead_detected hm, hk]
  refine ⟨hmem, ?_⟩
  rw [tagOf_tagPut hrise, if_pos (tagOf_line hk).symm, ← hstate, ← tagOf_line hk]

end

/-! ### The published figures (R360, R395) -/

theorem meanOf_of_pos {sum k : Nat} (h : k ≠ 0) : meanOf sum k = sum / k := if_neg h

section
variable {s : State} {q : QueuePair} {p c : Packet}

theorem exec_keyRotate (h : Fetches 0x0A10 s q p c) :
    exec (.keyRotate p) s = .next (settle (deliver c (cmdKeyRotate q c (fetchedState p s)))) := h.runs cmdKeyRotate
theorem exec_keyStatus (h : Fetches 0x0A11 s q p c) :
    exec (.keyStatus p) s = .next (settle (deliver c (cmdKeyStatus q c (fetchedState p s)))) := h.runs cmdKeyStatus
theorem exec_confidentialSet (h : Fetches 0x0A04 s q p c) :
    exec (.confidentialSet p) s = .next (settle (deliver c (cmdConfidentialSet q c (fetchedState p s)))) := h.runs cmdConfidentialSet

end

theorem exec_sweepRewrite {s : State} (h : started s = true) (n : BitVec 4) (e : ReadErrors) :
    exec (.sweepRewrite ⟨n, e⟩) s = happens (sweepOne n e s) := next_event h

/-- Settles O38: the commands by the lemmas of their cases, the sweep by what it does to its next line. -/
theorem keysRotateAndSweep : Obligations.KeysRotateAndSweep := by
  unfold Obligations.KeysRotateAndSweep
  refine ⟨?rotate, ?ends, ?sweeps, ?idle, ?status, ?absent, ?confidential, ?badLength, ?published⟩
  case rotate =>
    intro s q p c n x h hn hx
    refine ⟨fun hs hw => ?_, fun hs hw => ?_, fun hs => ?_⟩
    · rw [exec_keyRotate h, cmdKeyRotate_ok (s := fetchedState p s) hn hx hs hw, deliver_ok, h.origin]
      rfl
    · rw [exec_keyRotate h, cmdKeyRotate_sweeping (s := fetchedState p s) hn hx hs hw, deliver_fail, h.origin]
    · rw [exec_keyRotate h, cmdKeyRotate_scrubbing (s := fetchedState p s) hn hx hs, deliver_fail, h.origin]
  case ends =>
    intro s n e x h hx hw ho
    rw [exec_sweepRewrite h, sweepOne_ends hx hw ho]
  case sweeps =>
    rintro s n x h ⟨-, hrise⟩ hx hw ho
    obtain ⟨t, hnext, hmem, hlow⟩ := nextSweep_some ho
    have htag : tagOf s.tags t.line = some t := tagOf_of_mem hrise (List.mem_filter.1 hmem).1
    have hrow : ∀ e, exec (.sweepRewrite ⟨n, e⟩) s = happens (sweepEnd n x (sweepLine e x.gen t.line s)) := fun e => by
      rw [exec_sweepRewrite h, sweepOne_next hx hw hnext]
    refine ⟨t, hmem, hlow, fun e => ⟨fun hclean => ?_, fun hv ha hd hm hf => ?_⟩⟩
    · obtain ⟨d, k, heq⟩ := sweepLine_kept (gen := x.gen) htag hclean
      refine ⟨_, hrow e, ?_⟩
      rw [heq]
      refine ⟨by rw [sweepEnd_eq], ?_, fun l hl => ?_, findPart_sweepEnd hx hw, ?_⟩
      · rw [sweepEnd_eq]
        exact (tagOf_tagPut hrise _ _).trans (if_pos rfl)
      · rw [sweepEnd_eq]
        exact (tagOf_tagPut hrise _ _).trans (if_neg hl)
      · rw [sweepEnd_eq]
    · obtain ⟨hbytes, hlost⟩ := sweepLine_loses (gen := x.gen) hrise hv ha hd hm hf
      refine ⟨_, hrow e, ?_, ?_⟩
      · rw [sweepEnd_eq, hbytes]
      · rw [sweepEnd_eq, hlost]
  case idle =>
    intro s n e h hno
    rw [exec_sweepRewrite h]
    cases hx : findPart s n with
    | none => rw [sweepOne_absent hx]
    | some x => rw [sweepOne_idle hx (hno x hx)]
  case status =>
    intro s q p c n x h hn hx
    refine ⟨linesLeft s x, sweepTime s x, sweepTime_lt s x, ?_, fun hw => ?_, fun hw => ?_⟩
    · rw [exec_keyStatus h, cmdKeyStatus_found (s := fetchedState p s) hn hx, deliver_ok, h.origin]
      rfl
    · exact ⟨by rw [linesLeft, hw]; rfl, by rw [sweepTime, hw]; rfl⟩
    · rw [linesLeft, hw]
      rfl
  case absent =>
    intro s q p c n h hn hx
    rw [exec_keyStatus h, cmdKeyStatus_absent (s := fetchedState p s) hn hx, deliver_ok, h.origin]
    rfl
  case confidential =>
    intro s q p c n x h h1 hn hx hs
    refine ⟨fun hb => ?_, fun hb hc => ?_, fun hb hc => ?_⟩
    · rw [exec_confidentialSet h, cmdConfidentialSet_bound (s := fetchedState p s) hn hx h1 hs hb, deliver_fail, h.origin]
    · rw [exec_confidentialSet h, cmdConfidentialSet_unbound (s := fetchedState p s) hn hx h1 hs hb, if_pos hc, deliver_ok, h.origin]
      rfl
    · rw [exec_confidentialSet h, cmdConfidentialSet_unbound (s := fetchedState p s) hn hx h1 hs hb, if_neg (Bool.eq_false_iff.1 hc),
        deliver_ok, h.origin]
      rfl
  case badLength =>
    intro s q p c h hbad
    rw [exec_confidentialSet h, cmdConfidentialSet_badLength hbad, deliver_fail, h.origin]
  case published =>
    intro s h
    refine ⟨publishSecond s, next_event h, rfl, rfl, rfl, rfl, rfl, rfl, fun h0 => ⟨?_, ?_⟩, rfl, rfl, rfl⟩
    · exact congrArg (· / 1000) (meanOf_of_pos h0)
    · exact congrArg (· / 1000) (meanOf_of_pos h0)

end Sys2Proof.Machine
end

section
/-! SUPPORT and SETTLED STATEMENTS of the configuration commands (O18), and of the time and the reserve as commands set and report them
(O21). -/
namespace Sys2Proof.Machine

/-! ### CONFIG_READ and CONFIG_APPLY (R415) -/

section
variable {s : State} {q : QueuePair} {p : Packet}

theorem cmdConfigRead_absent (h : (par p 0 1 = 0 ∧ s.config.inForce = none) ∨ (par p 0 1 = 1 ∧ s.config.previous = none)) :
    cmdConfigRead q p s = ok (zeros 12) s := by
  rcases h with ⟨h0, hset⟩ | ⟨h1, hset⟩
  · simp only [cmdConfigRead, h0, hset, if_true]
    rfl
  · simp only [cmdConfigRead, h1, hset, Nat.one_ne_zero, Nat.lt_irrefl, if_false]

theorem cmdConfigRead_inForce {k : ConfigSet} {b : Option (List Nat)} (h0 : par p 0 1 = 0) (hset : s.config.inForce = some k)
    (hroom : k.bytes.length ≤ par p 12 4) (hb : paramBuffer s q p (par p 4 8) (par p 12 4) = .ok b) :
    cmdConfigRead q p s = ok (toLE 4 k.version.toNat ++ toLE 1 (if s.config.pending then 1 else 0) ++ zeros 3 ++ toLE 4 k.bytes.length)
      (putBuffer q p b (par p 4 8) k.bytes s) := by
  simp only [cmdConfigRead, h0, hset, if_true, decide_true, Bool.true_and]
  exact copyOut_fits _ _ (Nat.mod_one _) hroom hb

theorem cmdConfigApply_pending (h : s.config.pending = true) : cmdConfigApply q p s = fail stNotPermitted s := if_pos h

theorem cmdConfigApply_accepted {set : List Byte} (h : s.config.pending = false)
    (hset : takeBuffer s q p (par p 0 8) (min (par p 8 4) 327680) = .ok set) (hsize : fld set 16 4 = par p 8 4)
    (hid : idChangeBarred s set = false) :
    cmdConfigApply q p s =
      (.accepted, { s with config := { s.config with applying := s.config.applying ++ [(pktOrigin p, set)] } }) := by
  simp only [cmdConfigApply, h, hset, hsize, hid, ne_eq, not_true_eq_false, Bool.false_eq_true, if_false]

/-! ### A set that has been validated (R414) -/

section
variable {u : State} {o : Origin} {set : List Byte} {rest : List (Origin × List Byte)}
  (ha : s.config.applying = (o, set) :: rest) (hu : { s with config := { s.config with applying := rest } } = u)
  (hp : s.config.pending = false) (hid : idChangeBarred u set = false)
include ha hu hp hid

theorem applyDone_fails {e : Stop} (hc : checkSet u set = some e) : applyDone s = finish o e.status e.detail e.result u := by
  simp only [applyDone, ha, hu, hid, hc]
  rw [hp]
  rfl

theorem applyDone_applied (hc : checkSet u set = none) : applyDone s = finish o stOk 0 [] (recordConfig 0 (cfgVersion s) (raiseEvent evConfig
      (supply (some ⟨fld32 set 8, set⟩) { s with config :=
        { inForce := some ⟨fld32 set 8, set⟩, previous := s.config.inForce, pending := true, applying := rest } }))) := by
  simp only [applyDone, ha, hu, hid, hc]
  rw [hp, ← hu]
  rfl

end

/-! ### CONFIG_CONFIRM and CONFIG_ROLLBACK (R415) -/

theorem cmdConfigConfirm_denied (h : s.config.pending = false) : cmdConfigConfirm q p s = fail stNotPermitted s := by
  simp only [cmdConfigConfirm, h, Bool.not_false, if_true]

section
variable (h : s.config.pending = true)
include h

theorem cmdConfigConfirm_other (hv : par32 p 0 ≠ cfgVersion s) : cmdConfigConfirm q p s = fail stConfig s := by
  simp only [cmdConfigConfirm, h, hv, Bool.not_true, Bool.false_eq_true, if_false, ne_eq, not_false_eq_true, if_true]

theorem cmdConfigConfirm_ok (hv : par32 p 0 = cfgVersion s) : cmdConfigConfirm q p s =
    ok [] (recordConfig 1 (setVersion s.config.previous) { s with config := { s.config with pending := false } }) := by
  simp only [cmdConfigConfirm, h, hv, Bool.not_true, Bool.false_eq_true, if_false, ne_eq, not_true_eq_false]

theorem autoRollback_pending : autoRollback s = rollBack 3 s := if_pos h

end

theorem cmdConfigRollback_denied (h : s.config.previous = none) : cmdConfigRollback q p s = fail stNotPermitted s := by
  simp only [cmdConfigRollback, h, Option.isNone_none, if_true]

theorem cmdConfigRollback_ok (h : s.config.previous ≠ none) : cmdConfigRollback q p s = ok [] (rollBack 2 s) := by
  have hsome : s.config.previous.isNone = false := Bool.eq_false_iff.2 fun hn => h (Option.isNone_iff_eq_none.1 hn)
  simp only [cmdConfigRollback, hsome, Bool.false_eq_true, if_false]

/-! ### TIME_SET and RESERVE_STATUS (R406, R410) -/

theorem cmdTimeSet_badLength (h : 2 ^ 48 ≤ par p 0 8) : cmdTimeSet q p s = fail stBadLength s := if_pos h

theorem cmdTimeSet_ok (h : par p 0 8 < 2 ^ 48) {t : State} (ht : t = { s with recorder := { s.recorder with
    time := some (par p 0 8, par p 8 2, Config.elapsedMs s.draw) } }) :
    cmdTimeSet q p s = ok [] (record 0x00 0x02 0 none (wordBytes (timeWord s) ++ wordBytes (timeWord t)) t) := by
  rw [ht]
  exact if_neg (Nat.not_le.2 h)

theorem cmdReserveStatus_copies {b : Option (List Nat)} (h64 : par p 0 8 % 64 = 0) (hroom : 64 ≤ par p 8 4)
    (hb : paramBuffer s q p (par p 0 8) (par p 8 4) = .ok b) :
    cmdReserveStatus q p s = ok (toLE 4 s.reserve.atMask.toNat) (putBuffer q p b (par p 0 8)
      (toLE 1 ((if reserveLow s then 1 else 0) + (if s.start.oos then 2 else 0)) ++ zeros 3 ++ toLE 4 s.reserve.atMask.toNat
        ++ (reserveRows s).flatMap fun r => toLE 2 r.value ++ toLE 2 r.threshold) s) :=
  copyOut_fits _ _ h64 hroom hb

end

theorem reserveLow_iff (s : State) : reserveLow s = true ↔ ∃ k, k < 14 ∧ s.reserve.atMask.getLsbD k = true := by
  rw [reserveLow, bne_iff_ne]
  constructor
  · intro hne
    by_contra hnone
    refine hne (BitVec.eq_of_getLsbD_eq fun k hk => ?_)
    rw [show (0 : BitVec 14).getLsbD k = false from BitVec.getLsbD_zero]
    exact Bool.eq_false_iff.2 fun hbit => hnone ⟨k, hk, hbit⟩
  · rintro ⟨k, -, hbit⟩ h0
    rw [h0] at hbit
    exact Bool.false_ne_true (BitVec.getLsbD_zero.symm.trans hbit)

/-! ### The rows -/

section
variable {s : State} {q : QueuePair} {p c : Packet}

theorem exec_configRead (h : Fetches 0x0201 s q p c) :
    exec (.configRead p) s = .next (settle (deliver c (cmdConfigRead q c (fetchedState p s)))) := h.runs cmdConfigRead
theorem exec_configApply (h : Fetches 0x0202 s q p c) :
    exec (.configApply p) s = .next (settle (deliver c (cmdConfigApply q c (fetchedState p s)))) := h.runs cmdConfigApply
theorem exec_configConfirm (h : Fetches 0x0203 s q p c) :
    exec (.configConfirm p) s = .next (settle (deliver c (cmdConfigConfirm q c (fetchedState p s)))) := h.runs cmdConfigConfirm
theorem exec_configRollback (h : Fetches 0x0204 s q p c) :
    exec (.configRollback p) s = .next (settle (deliver c (cmdConfigRollback q c (fetchedState p s)))) := h.runs cmdConfigRollback
theorem exec_timeSet (h : Fetches 0x0B01 s q p c) :
    exec (.timeSet p) s = .next (settle (deliver c (cmdTimeSet q c (fetchedState p s)))) := h.runs cmdTimeSet
theorem exec_reserveStatus (h : Fetches 0x0B02 s q p c) :
    exec (.reserveStatus p) s = .next (settle (deliver c (cmdReserveStatus q c (fetchedState p s)))) := h.runs cmdReserveStatus

end

/-- Settles O18: each command and event by the lemmas of its cases. -/
theorem configurationCommands : Obligations.ConfigurationCommands := by
  unfold Obligations.ConfigurationCommands
  refine ⟨?absent, ?read, ?apply, ?barred, ?applied, ?failed, ?confirm, ?rollback, ?auto⟩
  case absent =>
    intro s q p c h hset
    rw [exec_configRead h, cmdConfigRead_absent (s := fetchedState p s) hset, deliver_ok, h.origin]
    rfl
  case read =>
    intro s q p c k b h h0 hset hroom hb
    rw [exec_configRead h, cmdConfigRead_inForce (s := fetchedState p s) h0 hset hroom hb, deliver_ok, h.origin]
    rfl
  case apply =>
    intro s q p c set h hp hset hsize hid
    rw [exec_configApply h, cmdConfigApply_accepted (s := fetchedState p s) hp hset hsize hid, deliver_accepted, h.origin]
    rfl
  case barred =>
    intro s q p c h hp
    rw [exec_configApply h, cmdConfigApply_pending (s := fetchedState p s) hp, deliver_fail, h.origin]
  case applied =>
    intro s o set rest h ha hp hid hc
    exact (next_event h).trans (congrArg happens (applyDone_applied ha rfl hp hid hc))
  case failed =>
    intro s o set rest e h ha hp hid hc
    exact (next_event h).trans (congrArg happens (applyDone_fails ha rfl hp hid hc))
  case confirm =>
    intro s q p c h
    refine ⟨fun hp => ?_, fun hp hv => ?_, fun hp hv => ?_⟩
    · rw [exec_configConfirm h, cmdConfigConfirm_denied (s := fetchedState p s) hp, deliver_fail, h.origin]
    · rw [exec_configConfirm h, cmdConfigConfirm_other (s := fetchedState p s) hp hv, deliver_fail, h.origin]
    · rw [exec_configConfirm h, cmdConfigConfirm_ok (s := fetchedState p s) hp hv, deliver_ok, h.origin]
      rfl
  case rollback =>
    intro s q p c h
    refine ⟨fun hp => ?_, fun hp => ?_⟩
    · rw [exec_configRollback h, cmdConfigRollback_denied (s := fetchedState p s) hp, deliver_fail, h.origin]
    · rw [exec_configRollback h, cmdConfigRollback_ok (s := fetchedState p s) hp, deliver_ok, h.origin]
      rfl
  case auto =>
    intro s h hp
    exact (next_event h).trans (congrArg happens (autoRollback_pending hp))

/-- Settles O21: TIME_SET and RESERVE_STATUS by the lemmas of their cases. -/
theorem timeAndReserveCommands : Obligations.TimeAndReserveCommands := by
  unfold Obligations.TimeAndReserveCommands
  refine ⟨?set, ?badLength, ?word, ?unset, ?status, reserveLow_iff⟩
  case set =>
    intro s q p c h h48 t ht
    rw [exec_timeSet h, cmdTimeSet_ok h48 (s := fetchedState p s) ht, deliver_ok, h.origin]
    rfl
  case badLength =>
    intro s q p c h h48
    rw [exec_timeSet h, cmdTimeSet_badLength h48, deliver_fail, h.origin]
  case word =>
    intro s ms unc at0 h
    simp only [timeWord, h]
  case unset =>
    intro s h
    simp only [timeWord, h]
  case status =>
    intro s q p c b h h64 hroom hb
    rw [exec_reserveStatus h, cmdReserveStatus_copies (s := fetchedState p s) h64 hroom hb, deliver_ok, h.origin]
    rfl

end Sys2Proof.Machine
end

section
/-! SUPPORT and SETTLED STATEMENTS of records and their numbers (O19), and of the recorder's window (O20). -/
namespace Sys2Proof.Machine

/-! ### Fields of bytes written (R7) -/

theorem leNat_toLE : ∀ k n : Nat, leNat (toLE k n) = n % 256 ^ k
  | 0, n => by rw [Nat.pow_zero, Nat.mod_one]; rfl
  | k + 1, n => by
    rw [toLE, leNat, leNat_toLE k, BitVec.toNat_ofNat, show 256 ^ (k + 1) = 256 * 256 ^ k from Nat.pow_succ', Nat.mod_mul]

theorem take_toLE : ∀ {j k : Nat}, j ≤ k → ∀ n, (toLE k n).take j = toLE j n
  | 0, _, _, _ => rfl
  | j + 1, k + 1, h, n => by rw [toLE, List.take_succ_cons, take_toLE (Nat.le_of_succ_le_succ h), toLE]

theorem drop_toLE : ∀ j k n : Nat, (toLE k n).drop j = toLE (k - j) (n / 256 ^ j)
  | 0, k, n => by rw [List.drop_zero, Nat.sub_zero, Nat.pow_zero, Nat.div_one]
  | j + 1, 0, n => by rw [Nat.zero_sub]; rfl
  | j + 1, k + 1, n => by
    rw [toLE, List.drop_succ_cons, drop_toLE j k, Nat.succ_sub_succ, Nat.div_div_eq_div_mul, Nat.pow_succ']

/-- A field of a number at the front. -/
theorem fld_toLE_append {k off len : Nat} (h : off + len ≤ k) (n : Nat) (rest : List Byte) :
    fld (toLE k n ++ rest) off len = n / 256 ^ off % 256 ^ len := by
  rw [fld, slice, List.drop_append_of_le_length (by rw [toLE_length]; omega), drop_toLE,
    List.take_append_of_le_length (by rw [toLE_length]; omega), take_toLE (by omega), leNat_toLE]

theorem slice_toLE_append (k n : Nat) (rest : List Byte) (off len : Nat) :
    slice (toLE k n ++ rest) (k + off) len = slice rest off len := by
  rw [slice, List.drop_append, List.drop_eq_nil_of_le (by rw [toLE_length]; omega), toLE_length, Nat.add_sub_cancel_left,
    List.nil_append, slice]

theorem nth_zeros (k i : Nat) : nth (zeros k) i 0 = 0 := by
  rw [nth, zeros, List.getD_eq_getElem?_getD, List.getElem?_replicate]
  split <;> rfl

theorem padTo_of_le {n : Nat} {bs : List Byte} (h : bs.length ≤ n) : padTo n bs = bs ++ zeros (n - bs.length) :=
  List.take_of_length_le (by rw [List.length_append, List.length_replicate]; omega)

/-! ### The bytes of a record (R409) -/

/-- PVALID with PARTITION. -/
def partBits (part : Option (BitVec 4)) : Nat := match part with | some p => p.toNat + 16 | none => 0

theorem partBits_lt (part : Option (BitVec 4)) : partBits part < 32 := by
  cases part with
  | none => decide
  | some p =>
    have := p.isLt
    simp only [partBits]
    omega

/-- The header word of a record of `w` words. -/
def headerWord (w cls typ pv : Nat) (reduced : Bool) (sev n : Nat) : Nat :=
  w + 2 ^ 8 * cls + 2 ^ 16 * typ + 2 ^ 24 * pv + (if reduced then 2 ^ 29 else 0) + 2 ^ 30 * sev + 2 ^ 32 * (n % 2 ^ 32)

section
variable {w cls typ pv sev : Nat} {reduced : Bool} (n : Nat)
  (hw : w < 256) (hc : cls < 256) (ht : typ < 256) (hp : pv < 32) (hs : sev < 4) (rest : List Byte)
include hw hc ht hp hs

theorem headerWord_fields : ∀ b, b = toLE 8 (headerWord w cls typ pv reduced sev n) ++ rest →
    fld b 0 1 = w ∧ fld b 1 1 = cls ∧ fld b 2 1 = typ ∧ fld b 3 1 = pv + (if reduced then 32 else 0) + 64 * sev ∧
      fld b 4 4 = n % 2 ^ 32 := by
  rintro b rfl
  have hn : n % 2 ^ 32 < 2 ^ 32 := Nat.mod_lt _ (by decide)
  generalize hm : n % 2 ^ 32 = m at hn
  rw [fld_toLE_append (by decide), fld_toLE_append (by decide), fld_toLE_append (by decide), fld_toLE_append (by decide),
    fld_toLE_append (by decide), headerWord, hm]
  cases reduced <;> simp only [Bool.false_eq_true, if_true, if_false] <;> omega

end

/-- The body of a record as it is written: none of a reduced record, zero-padded to whole words. -/
def recordBody (reduced : Bool) (body : List Byte) : List Byte := if reduced then [] else padTo (8 * ceilDiv body.length 8) body

theorem recordBytes_eq (n cls typ sev : Nat) (part : Option (BitVec 4)) (reduced : Bool) (t : Nat × Nat) (body : List Byte) :
    recordBytes n cls typ sev part reduced t body =
      toLE 8 (headerWord (2 + (recordBody reduced body).length / 8) cls typ (partBits part) reduced sev n) ++
        (toLE 8 ((if reduced then t.1 / 1000 * 1000 else t.1) + 2 ^ 48 * t.2) ++ recordBody reduced body) := by
  rw [← List.append_assoc]
  rfl

theorem recordBody_full (body : List Byte) :
    recordBody false body = body ++ zeros (8 * ceilDiv body.length 8 - body.length) := by
  refine padTo_of_le ?_
  unfold ceilDiv
  omega

theorem recordBody_length (reduced : Bool) (body : List Byte) :
    (recordBody reduced body).length = 8 * if reduced then 0 else ceilDiv body.length 8 := by
  cases reduced with
  | true => rfl
  | false =>
    rw [recordBody_full, List.length_append, zeros_length, if_neg Bool.false_ne_true]
    unfold ceilDiv
    omega

/-- The time word, after the header. -/
theorem timeWord_fields {ms unc : Nat} (hms : ms < 2 ^ 48) (hunc : unc < 2 ^ 16) (w : Nat) (rest : List Byte) :
    ∀ b, b = toLE 8 w ++ (toLE 8 (ms + 2 ^ 48 * unc) ++ rest) → fld b 8 6 = ms ∧ fld b 14 2 = unc := by
  rintro b rfl
  have hskip : ∀ off len, fld (toLE 8 w ++ (toLE 8 (ms + 2 ^ 48 * unc) ++ rest)) (8 + off) len =
      fld (toLE 8 (ms + 2 ^ 48 * unc) ++ rest) off len := fun off len => congrArg leNat (slice_toLE_append 8 w _ off len)
  have h0 := (hskip 0 6).trans (fld_toLE_append (by decide) _ rest)
  have h6 := (hskip 6 2).trans (fld_toLE_append (by decide) _ rest)
  exact ⟨h0.trans (by omega), h6.trans (by omega)⟩

/-! ### A record is written, or counted (R411, R412) -/

section
variable {s : State} (cls typ sev : Nat) (part : Option (BitVec 4)) (body : List Byte)

/-- A record about a confidential partition is reduced. -/
def reducedFor (s : State) (part : Option (BitVec 4)) : Bool := match part with
  | some x => (match findPart s x with | some y => y.confidential | none => false)
  | none => false

theorem record_written (h : s.recorder.inSecond < 2000) : record cls typ sev part body s = raiseEvent evRecorder { s with
    draw := s.draw + 1
    recorder := s.recorder.push (recordBytes s.recorder.next cls typ sev part (reducedFor s part) (timeWord s) body) } :=
  if_neg (Nat.not_le.2 h)

theorem record_counted (h : 2000 ≤ s.recorder.inSecond) :
    record cls typ sev part body s = { s with recorder := { s.recorder with dropped := s.recorder.dropped + 1 } } := if_pos h

end

theorem mem_push_records {r : Recorder} {bytes : List Byte} {e : Nat × List Byte} : e ∈ (r.push bytes).records ↔
    e = (r.next, bytes) ∨ (e ∈ r.records ∧ (e.1 < 4096 ∨ (r.push bytes).next ≤ e.1 + 4096)) := by
  simp only [Recorder.push, List.mem_append, List.mem_filter, List.mem_singleton, Bool.or_eq_true, decide_eq_true_eq, or_comm]

/-- The state after a second has passed, its counts cleared. -/
def secondCleared (s : State) : State :=
  { s with
    recorder := { s.recorder with inSecond := 0, dropped := 0 }
    cxl := { s.cxl with decoders := s.cxl.decoders.map fun d => { d with noted := false } }
    fabric := { s.fabric with noted := [] } }

theorem secondPassed_eq {s : State} (h : s.power.corrSuspect = false) : secondPassed s =
    if s.recorder.dropped = 0 then secondCleared s
    else record 0x00 0x05 0 none (toLE 8 s.recorder.dropped) (secondCleared s) := by
  unfold secondPassed
  dsimp only
  rw [if_neg (Bool.eq_false_iff.1 h)]
  rfl

/-- Settles O19: a record's fields by its two words, what is held by `Recorder.push`. -/
theorem recordsAreNumberedAndLimited : Obligations.RecordsAreNumberedAndLimited := by
  unfold Obligations.RecordsAreNumberedAndLimited
  refine ⟨?bytes, ?written, fun s cls typ sev part body h => record_counted cls typ sev part body h, ?quiet, ?reported⟩
  case bytes =>
    rintro n cls typ sev part reduced t body hc ht hs hlen hms hunc b rfl
    have hwords : (recordBody reduced body).length / 8 < 254 := by
      rw [recordBody_length]
      unfold ceilDiv
      split <;> omega
    have hms' : (if reduced then t.1 / 1000 * 1000 else t.1) < 2 ^ 48 := by split <;> omega
    obtain ⟨h0, h1, h2, h3, h4⟩ := headerWord_fields (w := 2 + (recordBody reduced body).length / 8) (reduced := reduced) n (by omega)
      hc ht (partBits_lt part) hs _ _ (recordBytes_eq n cls typ sev part reduced t body)
    obtain ⟨h8, h14⟩ := timeWord_fields hms' hunc _ _ _ (recordBytes_eq n cls typ sev part reduced t body)
    have hpart := partBits_lt part
    refine ⟨?_, h1, h2, ?_, h4, ?_, ?_, ?_, h14⟩
    · rw [h0, recordBytes_eq, List.length_append, List.length_append, toLE_length, toLE_length, recordBody_length]
      omega
    · rw [h3]
      split <;> omega
    · have hlow : fld (recordBytes n cls typ sev part reduced t body) 3 1 % 64 = partBits part + if reduced then 32 else 0 := by
        rw [h3]
        split <;> omega
      rw [hlow]
      cases part with
      | none => rfl
      | some x => exact congrArg (· + if reduced then 32 else 0) (Nat.add_comm x.toNat 16)
    · rintro rfl
      exact ⟨h0.trans (by rw [recordBody_length, if_pos rfl]), h8⟩
    · rintro rfl
      rw [recordBytes_eq, recordBody_full] at h8 ⊢
      refine ⟨h8, ?_, fun i hi => ?_⟩
      · rw [slice_toLE_append 8 _ _ 8, slice_toLE_append 8 _ _ 0, slice, List.drop_zero, List.take_left]
      · rw [nth, List.getD_append_right _ _ _ _ (by rw [toLE_length]; omega), toLE_length,
          List.getD_append_right _ _ _ _ (by rw [toLE_length]; omega), toLE_length,
          List.getD_append_right _ _ _ _ (by omega), ← nth, nth_zeros]
  case written =>
    intro s cls typ sev part body h
    exact ⟨_, _, record_written cls typ sev part body h, rfl, rfl, rfl, rfl, rfl, rfl, fun e => mem_push_records⟩
  case quiet =>
    intro s ha hc hd
    refine (next_floorEvent ha).trans (congrArg happens ?_)
    rw [secondPassed_eq hc, if_pos hd, secondCleared]
  case reported =>
    intro s ha hc hd
    refine (next_floorEvent ha).trans (congrArg happens ?_)
    rw [secondPassed_eq hc, if_neg hd, secondCleared]

/-! ### The recorder's window (R412, R413) -/

section
variable {rs : List (Nat × List Byte)}

/-- A fill takes at most `k` records of `room` bytes, numbered from `n` on. -/
theorem takeRecords_bounds : ∀ (rs : List (Nat × List Byte)) (n room k : Nat), (takeRecords n room k rs).length ≤ k ∧
    (takeRecords n room k rs).flatten.length ≤ room ∧ ∀ i b, (takeRecords n room k rs)[i]? = some b → (n + i, b) ∈ rs
  | [], _, _, _ => ⟨Nat.zero_le _, Nat.zero_le _, fun _ _ h => by simp [takeRecords] at h⟩
  | (m, c) :: rs, n, room, k => by
    unfold takeRecords
    split
    next =>
      obtain ⟨hlen, hroom, hmem⟩ := takeRecords_bounds rs n room k
      exact ⟨hlen, hroom, fun i b h => List.mem_cons_of_mem _ (hmem i b h)⟩
    next =>
      split
      next hfit =>
        obtain ⟨rfl, hc, hk⟩ := hfit
        obtain ⟨hlen, hroom, hmem⟩ := takeRecords_bounds rs (m + 1) (room - c.length) (k - 1)
        refine ⟨by rw [List.length_cons]; omega, by rw [List.flatten_cons, List.length_append]; omega, fun i b h => ?_⟩
        cases i with
        | zero =>
          cases h
          exact List.mem_cons_self
        | succ i =>
          have hi := hmem i b h
          rw [Nat.add_assoc, Nat.add_comm 1 i] at hi
          exact List.mem_cons_of_mem _ hi
      next => exact ⟨Nat.zero_le _, Nat.zero_le _, fun i b h => by simp at h⟩

/-- Where the records stand in rising order, a fill ends at `k` records, or where the next one is not held or does not fit. -/
theorem takeRecords_maximal : ∀ {rs : List (Nat × List Byte)}, rs.Pairwise (fun a b => a.1 < b.1) → ∀ n room k,
    (takeRecords n room k rs).length = k ∨ ∀ b, (n + (takeRecords n room k rs).length, b) ∈ rs →
      room < (takeRecords n room k rs).flatten.length + b.length
  | [], _, _, _, _ => .inr fun b h => by cases h
  | (m, c) :: rs, hrise, n, room, k => by
    obtain ⟨hhead, htail⟩ := List.pairwise_cons.1 hrise
    unfold takeRecords
    split
    next hlt =>
      refine (takeRecords_maximal htail n room k).imp_right fun h b hb => h b ?_
      refine (List.mem_cons.1 hb).resolve_left fun he => ?_
      have := congrArg Prod.fst he
      simp only at this
      omega
    next hge =>
      split
      next hfit =>
        obtain ⟨rfl, hc, hk⟩ := hfit
        rcases takeRecords_maximal htail (m + 1) (room - c.length) (k - 1) with hfull | hnext
        · left
          rw [List.length_cons, hfull]
          omega
        · right
          intro b hb
          have hin : (m + 1 + (takeRecords (m + 1) (room - c.length) (k - 1) rs).length, b) ∈ rs := by
            rw [List.length_cons] at hb
            rcases List.mem_cons.1 hb with he | hb
            · have := congrArg Prod.fst he
              simp only at this
              omega
            · rwa [Nat.add_assoc, Nat.add_comm 1]
          have := hnext b hin
          rw [List.flatten_cons, List.length_append]
          omega
      next hno =>
        by_cases hk : k = 0
        · exact .inl hk.symm
        · right
          intro b hb
          rcases List.mem_cons.1 hb with he | hb
          · obtain ⟨hn, rfl⟩ := Prod.mk.inj he
            rw [List.length_nil, Nat.add_zero] at hn
            simp only [List.flatten_nil, List.length_nil, Nat.zero_add]
            omega
          · have := hhead _ hb
            simp only [List.length_nil] at this
            omega

/-- From a number that no record has reached a fill takes nothing. -/
theorem takeRecords_beyond : ∀ {rs : List (Nat × List Byte)} {n : Nat}, (∀ e ∈ rs, e.1 < n) → ∀ room k, takeRecords n room k rs = []
  | [], _, _, _, _ => rfl
  | (m, c) :: rs, n, h, room, k => by
    rw [takeRecords, if_pos (h (m, c) List.mem_cons_self)]
    exact takeRecords_beyond (fun e he => h e (List.mem_cons_of_mem _ he)) room k

end

section
variable (r : Recorder) (n : Nat)

theorem fillStart_gap : (fillStart r n).2 = true ↔ 4096 ≤ n ∧ n + 4096 < r.next := by
  unfold fillStart
  split
  next h => simpa using h
  next h => simpa using h

theorem fillStart_first : (fillStart r n).1 = if (fillStart r n).2 then r.next - 4096 else n := by
  unfold fillStart
  split
  · exact (if_pos rfl).symm
  · exact (if_neg Bool.false_ne_true).symm

end

theorem fillDone_idle {s : State} (h : s.bar.recBusy = false) : fillDone s = s := by
  simp only [fillDone, h, Bool.not_false, if_true]

theorem fillDone_busy {s : State} (h : s.bar.recBusy = true) {st : Nat × Bool} (hst : st = fillStart s.recorder s.bar.recStart.toNat)
    {bs : List (List Byte)} (hbs : bs = takeRecords st.1 4096 256 s.recorder.records) : fillDone s = { s with bar := { s.bar with
      recBusy := false, recGap := st.2, recCount := bs.length, recFirst := BitVec.ofNat 64 st.1, window := bs.flatten } } := by
  subst hst hbs
  simp only [fillDone, h, Bool.not_true, Bool.false_eq_true, if_false]

/-! ### The cursor registers as they read (R413) -/

theorem barRead_cursor {s : State} {off : Nat} (hlo : 0x4000 ≤ off) (hhi : off < 0x5000) : barRead s off = cursorRead s off := by
  unfold barRead
  iterate 20 rw [if_neg (by omega)]
  rw [if_pos ⟨hlo, hhi⟩]

theorem barRead_window {s : State} {off : Nat} (hlo : 0x5000 ≤ off) (hhi : off < 0x6000) :
    barRead s off = BitVec.ofNat 32 (fld s.bar.window (off - 0x5000) 4) := by
  unfold barRead
  iterate 21 rw [if_neg (by omega)]
  rw [if_pos ⟨hlo, hhi⟩]

theorem fld_beyond {bs : List Byte} {off : Nat} (h : bs.length ≤ off) (len : Nat) : fld bs off len = 0 := by
  rw [fld, slice, List.drop_eq_nil_of_le h, List.take_nil, leNat]

theorem fireVector_window (v : Nat) (s : State) : (fireVector v s).bar.window = s.bar.window := by
  unfold fireVector
  split <;> rfl

theorem raiseEvent_window (k : Nat) (s : State) : (raiseEvent k s).bar.window = s.bar.window := by
  unfold raiseEvent
  split
  · rfl
  · dsimp only
    split
    · exact fireVector_window ..
    · rfl

theorem record_window (s : State) (cls typ sev : Nat) (part : Option (BitVec 4)) (body : List Byte) :
    (record cls typ sev part body s).bar.window = s.bar.window := by
  by_cases h : s.recorder.inSecond < 2000
  · rw [record_written _ _ _ _ _ h, raiseEvent_window]
  · rw [record_counted _ _ _ _ _ (Nat.not_lt.1 h)]

/-- The register of BYTES, COUNT, GAP and BUSY, bit by bit. -/
theorem fillRegister_bit {w c : Nat} (gap busy : Bool) (hw : w ≤ 4096) (hc : c ≤ 256) (j : Nat) :
    (BitVec.ofNat 32 (w + 2 ^ 13 * c + (if gap then 2 ^ 30 else 0) + (if busy then 2 ^ 31 else 0))).getLsbD j =
      if j < 13 then w.testBit j else if j < 22 then c.testBit (j - 13) else if j = 30 then gap else if j = 31 then busy else false := by
  have hsum : w + 2 ^ 13 * c + (if gap then 2 ^ 30 else 0) + (if busy then 2 ^ 31 else 0) =
      2 ^ 13 * (2 ^ 17 * (gap.toNat + 2 * busy.toNat) + c) + w := by
    cases gap <;> cases busy <;> simp <;> omega
  rw [BitVec.getLsbD_ofNat, hsum, Nat.testBit_two_pow_mul_add _ (by omega), Nat.testBit_two_pow_mul_add _ (by omega)]
  by_cases h13 : j < 13
  · rw [if_pos h13, if_pos h13, decide_eq_true (by omega), Bool.true_and]
  rw [if_neg h13, if_neg h13]
  by_cases h22 : j < 22
  · rw [if_pos (show j - 13 < 17 by omega), if_pos h22, decide_eq_true (by omega), Bool.true_and]
  rw [if_neg h22]
  by_cases h30 : j < 30
  · have hpow : 2 ^ 9 ≤ 2 ^ (j - 13) := Nat.pow_le_pow_right (by decide) (by omega)
    rw [if_pos (show j - 13 < 17 by omega), if_neg (by omega), if_neg (by omega), Nat.testBit_lt_two_pow (by omega), Bool.and_false]
  rw [if_neg (show ¬j - 13 < 17 by omega)]
  by_cases h32 : j < 32
  · obtain rfl | rfl : j = 30 ∨ j = 31 := by omega
    · cases gap <;> cases busy <;> rfl
    · cases gap <;> cases busy <;> rfl
  · rw [decide_eq_false h32, Bool.false_and, if_neg (by omega), if_neg (by omega)]

/-- Settles O20: a fill by what `takeRecords` takes, the registers by their reads. -/
theorem recorderWindowFills : Obligations.RecorderWindowFills := by
  unfold Obligations.RecorderWindowFills
  refine ⟨?start, ?idle, ?fill, ?beyond, record_window, ?registers⟩
  case start =>
    intro s v h
    exact ⟨next_hostAccess h, exec_registerWrite h 0x400C 4 v⟩
  case idle =>
    intro s h hb
    exact (next_floorEvent h).trans (congrArg happens (fillDone_idle hb))
  case fill =>
    intro s h hb
    obtain ⟨hlen, hroom, hmem⟩ := takeRecords_bounds s.recorder.records (fillStart s.recorder s.bar.recStart.toNat).1 4096 256
    exact ⟨(fillStart s.recorder s.bar.recStart.toNat).1, (fillStart s.recorder s.bar.recStart.toNat).2, _,
      (next_floorEvent h).trans (congrArg happens (fillDone_busy hb rfl rfl)), fillStart_gap .., fillStart_first .., hlen, hroom, hmem,
      fun hrise => takeRecords_maximal hrise _ _ _,
      fun hsound hn => takeRecords_beyond (fun e he => (hsound e he).trans_le hn) _ _⟩
  case beyond =>
    intro s k hk hw
    rw [barRead_window (by omega) (by omega), fld_beyond (by omega)]
    rfl
  case registers =>
    intro s
    refine ⟨BitVec.setWidth_ofNat_of_le (show 32 ≤ 64 by decide) s.recorder.next, ?high, rfl, rfl, rfl, rfl, ?rest, ?fill⟩
    case high =>
      apply BitVec.eq_of_toNat_eq
      rw [show barRead s 0x4004 = hi32 (BitVec.ofNat 64 s.recorder.next) from rfl, hi32, BitVec.toNat_setWidth, BitVec.toNat_ushiftRight,
        BitVec.toNat_ofNat, Nat.shiftRight_eq_div_pow, BitVec.toNat_ofNat]
    case rest =>
      intro k h7 hk
      rw [barRead_cursor (by omega) (by omega), cursorRead]
      iterate 7 rw [if_neg (by omega)]
    case fill =>
      intro hw hc j
      exact fillRegister_bit s.bar.recGap s.bar.recBusy hw hc j

end Sys2Proof.Machine
end

section
/-! SUPPORT of the starts of the device: what records, packets, links and failing hardware leave as it is, whatever the state. -/
namespace Sys2Proof.Machine

/-! ### What stands over records, packets and links -/

/-- What neither a record, a packet, a link nor the running values of a configuration set touch, beside the state of start-up. -/
structure Standing where
  vin : Bool
  perst : Bool
  pending : List Instr
  firmware : Firmware
  config : ConfigStore
  cxl : CxlPort
  pairs : List QueuePair
  partitions : List Partition
  loading : List Loading
  mem : List Host.Cell
  tags : List LineTag
  groups : List Group
  agreed : BitVec 128
  negotiated : Bool

/-- What stands in a state. -/
def standing (s : State) : Standing :=
  { vin := s.pins.vin, perst := s.pins.perst, pending := s.pending, firmware := s.firmware, config := s.config, cxl := s.cxl
    pairs := s.pairs, partitions := s.partitions, loading := s.loading, mem := s.mem, tags := s.tags, groups := s.fabric.groups
    agreed := s.bar.agreed, negotiated := s.bar.negotiated }

/-- From `s` to `t` neither the state of start-up nor what stands changes. -/
structure Steady (s t : State) : Prop where
  start : t.start = s.start
  standing : standing t = standing s

namespace Steady
variable {s t u : State}

theorem refl (s : State) : Steady s s := ⟨rfl, rfl⟩

theorem trans (h : Steady s t) (k : Steady t u) : Steady s u := ⟨k.start.trans h.start, k.standing.trans h.standing⟩

/-- `trans`, the later step first. -/
theorem after (k : Steady t u) (h : Steady s t) : Steady s u := h.trans k

theorem foldl {α : Type} {f : State → α → State} (xs : List α) (hf : ∀ s x, Steady s (f s x)) : Steady s (xs.foldl f s) :=
  List.foldlRecOn (motive := Steady s) xs f (refl s) fun t ht x _ => ht.trans (hf t x)

theorem ite {c : Prop} [Decidable c] (ht : Steady s t) (hu : Steady s u) : Steady s (if c then t else u) := by
  split
  · exact ht
  · exact hu

theorem partitions (h : Steady s t) : t.partitions = s.partitions := congrArg Standing.partitions h.standing
theorem firmware (h : Steady s t) : t.firmware = s.firmware := congrArg Standing.firmware h.standing

end Steady

/-! ### Records -/

theorem fireVector_steady (v : Nat) (s : State) : Steady s (fireVector v s) := .ite ⟨rfl, rfl⟩ ⟨rfl, rfl⟩

theorem raiseEvent_steady (k : Nat) (s : State) : Steady s (raiseEvent k s) := by
  have hset : Steady s { s with bar := { s.bar with events := s.bar.events ||| (1#5 <<< k) } } := ⟨rfl, rfl⟩
  exact .ite (.refl s) (.ite (hset.trans (fireVector_steady ..)) hset)

theorem record_steady (cls typ sev : Nat) (part : Option (BitVec 4)) (body : List Byte) (s : State) :
    Steady s (record cls typ sev part body s) := by
  by_cases h : s.recorder.inSecond < 2000
  · rw [record_written _ _ _ _ _ h]
    exact .after (raiseEvent_steady ..) ⟨rfl, rfl⟩
  · rw [record_counted _ _ _ _ _ (Nat.not_lt.1 h)]
    exact ⟨rfl, rfl⟩

theorem reserve_steady (r : Reserve) (s : State) : Steady s { s with reserve := r } := ⟨rfl, rfl⟩

theorem settleReserve_steady (s : State) : Steady s (settleReserve s) := by
  refine (reserve_steady { s.reserve with atMask := atMaskOf s } s).trans (.foldl _ fun t k => ?_)
  dsimp only
  split
  · exact .refl t
  · exact .after (record_steady ..) (.ite (raiseEvent_steady ..) (.refl t))

/-! ### Flits, packets and links (R271 to R285) -/

theorem fabric_steady {f : Fabric} {s : State} (h : f.groups = s.fabric.groups) : Steady s { s with fabric := f } :=
  ⟨rfl, by rw [standing, standing, ← h]⟩

theorem updLink_steady (n : Nat) (f : Link → Link) (s : State) : Steady s (updLink n f s) := ⟨rfl, rfl⟩

theorem putFlit_steady (n : Nat) (b : Option FlitBody) (lseq : Nat) (nak : Bool) (s : State) : Steady s (putFlit n b lseq nak s) :=
  ⟨rfl, rfl⟩

theorem pumpLinkOnce_steady (n : Nat) (s : State) : Steady s (pumpLinkOnce n s) := by
  unfold pumpLinkOnce
  dsimp only
  split
  · exact .refl s
  · exact (putFlit_steady ..).trans (updLink_steady ..)

theorem pumpLink_steady (n : Nat) (s : State) : Steady s (pumpLink n s) := by
  unfold pumpLink
  induction (findLink s n).queue.length with
  | zero => exact .refl s
  | succ k ih => exact ih.trans (pumpLinkOnce_steady ..)

theorem toQueue_steady (n : Nat) (bs : List FlitBody) (s : State) : Steady s (toQueue n bs s) := by
  have hpump : Steady s (pumpLink n (updLink n (fun l => { l with queue := l.queue ++ bs }) s)) :=
    (updLink_steady ..).trans (pumpLink_steady ..)
  unfold toQueue
  dsimp only
  split
  · exact hpump
  · exact hpump.trans ⟨rfl, rfl⟩

theorem recordPacketOnce_steady (cause addr : Nat) (header : List Byte) (s : State) : Steady s (recordPacketOnce cause addr header s) :=
  .ite (.refl s) (.after (record_steady ..) (fabric_steady rfl))

theorem holdPacket_steady (p : FabPacket) (s : State) : Steady s (holdPacket p s) :=
  .after (recordPacketOnce_steady ..) (fabric_steady rfl)

theorem launch_steady (p : FabPacket) (s : State) : Steady s (launch p s) := by
  refine .ite (fabric_steady rfl) (.ite (holdPacket_steady ..) ?_)
  split
  · exact toQueue_steady ..
  · exact holdPacket_steady ..

theorem reforward_steady (p : FabPacket) (s : State) : Steady s (reforward p s) := by
  unfold reforward
  split
  · exact toQueue_steady ..
  · exact .ite (holdPacket_steady ..) (launch_steady ..)

theorem retryHeld_steady (s : State) : Steady s (retryHeld s) :=
  .after (.foldl _ fun s p => launch_steady p s) (fabric_steady rfl)

theorem emptyLink_steady (n : Nat) (st : LinkState) (s : State) : Steady s (emptyLink n st s) := by
  have hdropped : Steady s (dropAuto n (updLink n (fun l => l.restart st) s)) := ⟨rfl, rfl⟩
  exact (hdropped.trans (.foldl _ fun s p => reforward_steady p s)).trans (retryHeld_steady _)

theorem disableLink_steady (n : Nat) (s : State) : Steady s (disableLink n s) := (emptyLink_steady ..).trans (settleReserve_steady _)

theorem linkDown'_steady (n : Nat) (s : State) : Steady s (linkDown' n s) := by
  unfold linkDown' recordLink
  exact .after (settleReserve_steady _) (.after (record_steady ..) (.after (emptyLink_steady ..) ⟨rfl, rfl⟩))

theorem controlLink_steady (op n : Nat) (s : State) : Steady s (controlLink op n s) := by
  unfold controlLink
  dsimp only
  split
  · exact .ite (.refl s) (.ite (updLink_steady ..) (disableLink_steady ..))
  · exact .ite (updLink_steady ..) (((linkDown'_steady ..).trans (updLink_steady ..)).trans (settleReserve_steady _))

theorem freshHello_steady (s : State) : Steady s (freshHello s) := .foldl _ fun s n => toQueue_steady n [.hello] s

theorem trainingDone_steady (n : Nat) (p : LinkPeer) (s : State) : Steady s (trainingDone n p s) := by
  have hput := putFlit_steady n (some .hello) (findLink s n).txNext false s
  unfold trainingDone
  split
  · exact .refl s
  · split
    · exact updLink_steady ..
    · dsimp only
      refine .ite (.after (settleReserve_steady _) (.after (updLink_steady ..) hput)) ?_
      refine .after (retryHeld_steady _) (.after (settleReserve_steady _) (.ite ?_ (.after (updLink_steady ..) hput)))
      exact .after (fabric_steady rfl) (.after (updLink_steady ..) hput)

theorem trainLinks_steady (peers : List LinkPeer) (s : State) : Steady s (trainLinks peers s) :=
  .foldl _ fun s n => trainingDone_steady n _ s

/-! ### The running values of a configuration set (R414) -/

/-- The device id that a set supplies. -/
def suppliedId (v : Option (List Byte)) (s : State) : State :=
  match v with
  | some v => if fld v 0 2 = s.fabric.devId.toNat then s else setFabricId (fld v 0 2) s
  | none => { s with fabric := { s.fabric with devId := 0x7FFF } }

/-- The routes that a set supplies, with those learned from a peer. -/
def suppliedRoutes (v : Option (List Byte)) (s : State) : State :=
  let s := { s with fabric := { s.fabric with routes := s.fabric.routes.filter fun r => r.2.getLsbD 27 } }
  match v with
  | some v => setRoutes (fld v 0 2) ((List.range (fld v 2 2)).map fun k => fld v (8 + 8 * k) 8) s
  | none => s

/-- The limits of power that a set supplies. -/
def suppliedPower (v : Option (List Byte)) (s : State) : State :=
  let s := { s with power := { s.power with cap := 8000, burst := 9500, window := 8, fastA := 7200, contA := 6000 } }
  match v with | some v => setPower v s | none => settleCap s

/-- The thermal responses that a set supplies. -/
def suppliedThermal (v : Option (List Byte)) (s : State) : State :=
  let s := { s with thermal := { s.thermal with warn := 115, stale := 60, alertEn := true } }
  match v with | some v => setThermal v s | none => s

theorem supply_stages (c : Option ConfigSet) (s : State) : ∃ ident routes power thermal scrub period links, supply c s =
    setLinks links { setScrub scrub (suppliedThermal thermal (suppliedPower power (suppliedRoutes routes (suppliedId ident s)))) with
      testPeriod := period } := ⟨_, _, _, _, _, _, _, rfl⟩

theorem setFabricId_steady (id : Nat) (s : State) : Steady s (setFabricId id s) :=
  .after (retryHeld_steady _) (.after (freshHello_steady _) (fabric_steady rfl))

theorem suppliedId_steady (v : Option (List Byte)) (s : State) : Steady s (suppliedId v s) := by
  unfold suppliedId
  split
  · exact .ite (.refl s) (setFabricId_steady ..)
  · exact fabric_steady rfl

theorem suppliedRoutes_steady (v : Option (List Byte)) (s : State) : Steady s (suppliedRoutes v s) := by
  unfold suppliedRoutes
  dsimp only
  split
  · exact .after (retryHeld_steady _) (fabric_steady rfl)
  · exact fabric_steady rfl

theorem suppliedPower_steady (v : Option (List Byte)) (s : State) : Steady s (suppliedPower v s) := by
  unfold suppliedPower
  dsimp only
  split <;> exact ⟨rfl, rfl⟩

theorem setThermal_steady (b : List Byte) (s : State) : Steady s (setThermal b s) := .ite ⟨rfl, rfl⟩ ⟨rfl, rfl⟩

theorem suppliedThermal_steady (v : Option (List Byte)) (s : State) : Steady s (suppliedThermal v s) := by
  unfold suppliedThermal
  dsimp only
  split
  · exact .after (setThermal_steady ..) ⟨rfl, rfl⟩
  · exact ⟨rfl, rfl⟩

theorem setScrub_steady (v : List Byte) (s : State) : Steady s (setScrub v s) := .foldl _ fun _ _ => ⟨rfl, rfl⟩

theorem setLinks_steady (m : U64) (s : State) : Steady s (setLinks m s) := .foldl _ fun s n => controlLink_steady _ n s

theorem testPeriod_steady (n : Nat) (s : State) : Steady s { s with testPeriod := n } := ⟨rfl, rfl⟩

theorem supply_steady (c : Option ConfigSet) (s : State) : Steady s (supply c s) := by
  obtain ⟨ident, routes, power, thermal, scrub, period, links, h⟩ := supply_stages c s
  rw [h]
  refine .after (setLinks_steady ..) (.after (testPeriod_steady ..) ?_)
  exact ((((suppliedId_steady ..).trans (suppliedRoutes_steady ..)).trans (suppliedPower_steady ..)).trans
    (suppliedThermal_steady ..)).trans (setScrub_steady ..)

theorem startConfig_steady (s : State) : ∃ c : ConfigStore, c.pending = false ∧ Steady { s with config := c } (startConfig s) := by
  unfold startConfig
  split
  next =>
    refine ⟨{ s.config with inForce := s.config.previous, previous := none, pending := false }, rfl, ?_⟩
    exact (supply_steady ..).trans (record_steady ..)
  next h => exact ⟨s.config, Bool.eq_false_iff.2 h, supply_steady ..⟩

/-! ### Layers, lanes and the boot slot -/

theorem setLayer_steady (phys st : Nat) (s : State) : Steady s (setLayer phys st s) := .after (record_steady ..) ⟨rfl, rfl⟩

theorem laneSwitched_steady (core lane : Nat) (s : State) : Steady s (laneSwitched core lane s) := by
  unfold laneSwitched
  split
  · exact .refl s
  · exact .after (settleReserve_steady _) (.after (record_steady ..) ⟨rfl, rfl⟩)

theorem bootSlot_steady (kind : Nat) (b fallback : Bool) (s : State) : ∃ n, Steady { s with
    start := { s.start with stage := 2 }
    firmware := { s.firmware with runsB := b, fallbacks := n, aliasEpoch := s.firmware.aliasEpoch + 1 } } (bootSlot kind b fallback s) := by
  refine ⟨if fallback then s.firmware.fallbacks + 1 else s.firmware.fallbacks, ?_⟩
  unfold bootSlot
  dsimp only
  split
  · exact .after (settleReserve_steady _) (.after (record_steady ..) (record_steady ..))
  · exact record_steady ..

end Sys2Proof.Machine
end

section
/-! SUPPORT of the starts of the device: what failures, recoveries and the scrub leave as it is, of every device and of one without
partitions and pairs. -/
namespace Sys2Proof.Machine

/-! ### What a failure spares -/

/-- The state of start-up without the causes that take the device out of service; the contacts, the firmware and the queue. -/
structure Core where
  stage : Byte
  ready : Bool
  halted : Bool
  inReset : Bool
  coldCount : U32
  vin : Bool
  perst : Bool
  firmware : Firmware
  pending : List Instr

def core (s : State) : Core :=
  { stage := s.start.stage, ready := s.start.ready, halted := s.start.halted, inReset := s.start.inReset
    coldCount := s.start.coldCount, vin := s.pins.vin, perst := s.pins.perst, firmware := s.firmware, pending := s.pending }

/-- From `s` to `t` the core stays, and no partition is made. -/
structure Kin (s t : State) : Prop where
  core : core t = core s
  nums : ∀ p ∈ t.partitions, ∃ x ∈ s.partitions, x.num = p.num

/-- What stands of a device without partitions and pairs stays too. -/
structure Spared (s t : State) : Prop extends Kin s t where
  bare : s.partitions = [] → s.pairs = [] → standing t = standing s

namespace Kin
variable {s t u : State}

theorem refl (s : State) : Kin s s := ⟨rfl, fun p hp => ⟨p, hp, rfl⟩⟩

/-- Of two steps, the later first. -/
theorem after (k : Kin t u) (h : Kin s t) : Kin s u where
  core := k.core.trans h.core
  nums p hp := by
    obtain ⟨x, hx, hxp⟩ := k.nums p hp
    obtain ⟨y, hy, hyx⟩ := h.nums x hx
    exact ⟨y, hy, hyx.trans hxp⟩

theorem foldl {α : Type} {f : State → α → State} (xs : List α) (hf : ∀ s x, Kin s (f s x)) : Kin s (xs.foldl f s) :=
  List.foldlRecOn (motive := Kin s) xs f (refl s) fun t ht x _ => .after (hf t x) ht

theorem ite {c : Prop} [Decidable c] (ht : Kin s t) (hu : Kin s u) : Kin s (if c then t else u) := by
  split
  · exact ht
  · exact hu

theorem of_same (hc : Machine.core t = Machine.core s) (hp : t.partitions = s.partitions) : Kin s t :=
  ⟨hc, fun p h => ⟨p, hp ▸ h, rfl⟩⟩

theorem of_map {f : Partition → Partition} (hf : ∀ p, (f p).num = p.num) (hc : Machine.core t = Machine.core s)
    (hp : t.partitions = s.partitions.map f) : Kin s t := by
  refine ⟨hc, fun p h => ?_⟩
  rw [hp] at h
  obtain ⟨x, hx, rfl⟩ := List.mem_map.1 h
  exact ⟨x, hx, (hf x).symm⟩

theorem no_partition (h : Kin s t) (hs : s.partitions = []) : t.partitions = [] :=
  List.eq_nil_iff_forall_not_mem.2 fun p hp => by
    obtain ⟨x, hx, -⟩ := h.nums p hp
    rw [hs] at hx
    cases hx

end Kin

theorem Steady.core {s t : State} (h : Steady s t) : core t = core s := by
  rw [Machine.core, Machine.core, h.start]
  exact congrArg (fun x : Standing => Core.mk s.start.stage s.start.ready s.start.halted s.start.inReset s.start.coldCount x.vin x.perst
    x.firmware x.pending) h.standing

theorem Steady.kin {s t : State} (h : Steady s t) : Kin s t := .of_same h.core h.partitions

theorem Outward.kin {s t : State} (h : Outward s t) : Kin s t := .of_same (by rw [h]; rfl) (by rw [h])

theorem Steady.spared {s t : State} (h : Steady s t) : Spared s t := ⟨h.kin, fun _ _ => h.standing⟩

namespace Spared
variable {s t u : State}

theorem refl (s : State) : Spared s s := (Steady.refl s).spared

/-- Of two steps, the later first. -/
theorem after (k : Spared t u) (h : Spared s t) : Spared s u where
  toKin := k.toKin.after h.toKin
  bare hp hq := (k.bare (h.toKin.no_partition hp) ((congrArg Standing.pairs (h.bare hp hq)).trans hq)).trans (h.bare hp hq)

theorem foldl {α : Type} {f : State → α → State} (xs : List α) (hf : ∀ s x, Spared s (f s x)) : Spared s (xs.foldl f s) :=
  List.foldlRecOn (motive := Spared s) xs f (refl s) fun t ht x _ => .after (hf t x) ht

theorem ite {c : Prop} [Decidable c] (ht : Spared s t) (hu : Spared s u) : Spared s (if c then t else u) := by
  split
  · exact ht
  · exact hu

/-- What is done for each partition is nothing where there is none. -/
theorem foldl_partitions {f : State → Partition → State} (hf : ∀ s p, Kin s (f s p)) : Spared s (s.partitions.foldl f s) :=
  ⟨.foldl _ hf, fun hp _ => by rw [hp]; rfl⟩

theorem map_partitions {f : Partition → Partition} (hf : ∀ p, (f p).num = p.num) (s : State) :
    Spared s { s with partitions := s.partitions.map f } :=
  ⟨.of_map hf rfl rfl, fun hp _ => by rw [standing, standing, hp]; rfl⟩

end Spared

/-! ### Partitions, completions and caches -/

section
variable (s : State)

theorem updPart_spared (n : BitVec 4) {f : Partition → Partition} (hf : ∀ p, (f p).num = p.num) : Spared s (updPart n f s) := by
  refine .map_partitions (f := fun p => if decide (p.num = n) then f p else p) (fun p => ?_) s
  split
  · exact hf p
  · rfl

theorem finish_spared (o : Origin) (st : BitVec 16) (d : U32) (r : List Byte) : Spared s (finish o st d r s) where
  toKin := (finish_outward ..).kin
  bare _ hq := by
    have hnone : findPair s o.qp = none := by rw [findPair, hq]; rfl
    unfold finish post
    rw [hnone]
    split <;> rfl

theorem openPage_kin (c : Cache) (root : Bool) (loc : Nat) : Kin s (openPage c root loc s) := .ite (.refl s) (.of_same rfl rfl)

theorem openPartial_kin (c : Cache) (e : PageEntry) (held i : Nat) : Kin s (openPartial c e held i s) :=
  .ite (.refl s) (.of_same rfl rfl)

theorem freePage_kin (p : Partition) (c : Cache) (root : Bool) (loc : Nat) : Kin s (freePage p c root loc s) := by
  have hfree : ∀ q, Kin s (freeLines q s) := fun q => .of_same rfl rfl
  exact .after (openPage_kin ..) (hfree _)

theorem freePages_kin (p : Partition) (c : Cache) (l : List (Bool × Nat)) : Kin s (freePages p c l s) :=
  .foldl _ fun s x => freePage_kin s p c x.1 x.2

theorem putBack_kin (x : Nat × List Byte × Option U32) : Kin s (putBack s x) := by
  unfold putBack
  refine .ite (.refl s) ?_
  dsimp only
  split <;> exact .of_same rfl rfl

theorem updCache_kin (n : BitVec 4) (h : U32) (f : Cache → Cache) : Kin s (updCache n h f s) := by
  refine (updPart_spared s n ?_).toKin
  exact fun _ => rfl

theorem updCtx_spared (n : BitVec 4) (c : Nat) (f : Context → Context) : Spared s (updCtx n c f s) := by
  refine updPart_spared s n ?_
  exact fun _ => rfl

theorem restoreCaches_spared (part : BitVec 4) (ctx : Nat) : Spared s (restoreCaches part ctx s) := by
  refine ⟨?_, fun hp _ => ?_⟩
  · unfold restoreCaches
    split
    · exact .refl s
    · split
      · exact .refl s
      · refine .after (.foldl _ putBack_kin) (.after (.foldl _ fun t c => ?_) (.foldl _ fun t c => freePages_kin ..))
        exact .after (.foldl _ fun t r => .foldl _ fun t e => openPartial_kin ..) (updCache_kin ..)
  · have hnone : findPart s part = none := by rw [findPart, hp]; rfl
    simp only [restoreCaches, hnone]

/-! ### Out of service (R408) -/

theorem causes_spared (oos : Bool) (cause : Nat) : Spared s { s with start := { s.start with oos := oos, oosCause := cause } } :=
  ⟨.of_same rfl rfl, fun _ _ => rfl⟩

theorem outOfService_spared (cause : Nat) : Spared s (outOfService cause s) := by
  unfold outOfService
  refine .ite (.refl s) ?_
  refine .after (settleReserve_steady _).spared (.after (.foldl _ fun t n => (emptyLink_steady ..).spared) ?_)
  refine .after (.foldl _ fun t f => finish_spared ..) ?_
  refine .after (.map_partitions ?_ _) (.after (.foldl_partitions fun t p => ?_) (.after (record_steady ..).spared (causes_spared ..)))
  · exact fun _ => rfl
  · exact .foldl _ fun t c => (restoreCaches_spared ..).toKin

/-! ### Recovery queues, layers and tracts (R39, R400, R402) -/

theorem enqueue_spared (part : Option (BitVec 4)) (a : Action) (cause : Option Nat) : Spared s (enqueue part a cause s) := by
  unfold enqueue
  dsimp only
  split
  · exact .ite (reserve_steady ..).spared (reserve_steady ..).spared
  · refine updPart_spared s _ fun p => ?_
    split <;> rfl

theorem enqueueRegen_spared (n : BitVec 4) (h : U32) (q first : Nat) (bad : List (Nat × Nat)) :
    Spared s (enqueueRegen n h q first bad s) := by
  unfold enqueueRegen
  dsimp only
  split
  · exact .refl s
  · refine .ite (updPart_spared s _ ?_) (enqueue_spared ..)
    exact fun _ => rfl

theorem updLayer_steady (l : Nat) (f : LayerRegs → LayerRegs) : Steady s (updLayer l f s) := ⟨rfl, rfl⟩

theorem withdrawLayer_spared (phys : Nat) : Spared s (withdrawLayer phys s) := by
  unfold withdrawLayer
  refine .after (.foldl_partitions fun t p => .foldl _ fun t c => .foldl _ fun t r => ?_)
    ((setLayer_steady ..).trans (updLayer_steady ..)).spared
  split
  · exact .refl t
  · exact .ite (enqueueRegen_spared ..).toKin (.refl t)

theorem beginAbsorption_steady (phys : Nat) : Steady s (beginAbsorption phys s) := ⟨rfl, rfl⟩

theorem mapOut_spared (phys : Nat) : Spared s (mapOut phys s) := by
  unfold mapOut
  refine .ite (.refl s) (.ite (.after (settleReserve_steady _).spared (withdrawLayer_spared ..)) (.ite ?_ ?_))
  · exact .after (settleReserve_steady _).spared (.after (outOfService_spared ..) (setLayer_steady ..).spared)
  · exact .after (enqueue_spared ..) (((beginAbsorption_steady ..).trans (setLayer_steady ..)).trans (settleReserve_steady _)).spared

theorem wholeLayerFault_spared (l : Nat) : Spared s (wholeLayerFault l s) := by
  unfold wholeLayerFault
  refine .ite (.ite ?_ (.refl s)) (mapOut_spared ..)
  exact .after (settleReserve_steady _).spared (.after (outOfService_spared ..) (setLayer_steady ..).spared)

theorem updTract_steady (t : Nat) (f : TractRec → TractRec) : Steady s (updTract t f s) := ⟨rfl, rfl⟩

theorem tractOffline_spared (t : Nat) : Spared s (tractOffline t s) := by
  unfold tractOffline
  refine .ite (.refl s) ?_
  have hoff : Spared s (settleReserve (updTract t (fun r => { r with power := .offline, groves := 0 }) s)) :=
    ((updTract_steady ..).trans (settleReserve_steady _)).spared
  dsimp only
  split
  · exact .after (enqueue_spared ..) hoff
  · exact .after (record_steady ..).spared hoff

/-! ### Regulators (R338, R408) -/

theorem afterRegulator_spared (die index : Nat) : Spared s (afterRegulator die index s) := by
  unfold afterRegulator
  refine .ite (.ite (tractOffline_spared ..) (.ite (record_steady ..).spared (.refl s))) ?_
  exact .ite (.ite (outOfService_spared ..) (.refl s)) (.ite (wholeLayerFault_spared ..) (.refl s))

theorem updRegulator_steady (die index : Nat) (f : Regulator → Regulator) : Steady s (updRegulator die index f s) := ⟨rfl, rfl⟩

theorem distGen_steady (g : U32) : Steady s { s with distGen := g } := ⟨rfl, rfl⟩

theorem settleRoutes_steady (t : Nat) (old : State) : Steady s (settleRoutes t old s) :=
  .ite (.refl s) (.after (record_steady ..) (distGen_steady ..))

theorem failRegulator_spared (die index : Nat) : Spared s (failRegulator die index s) := by
  unfold failRegulator
  refine .ite (.refl s) (.after (settleRoutes_steady ..).spared (.after (afterRegulator_spared ..) ?_))
  refine Steady.spared (.after (settleReserve_steady _) (.after (record_steady ..) ?_))
  exact .ite (.after (updTract_steady ..) (updRegulator_steady ..)) (updRegulator_steady ..)

/-! ### What a cold start's bring-up finds (R418, R419) -/

theorem rootOut_steady (l : Option Nat) : Steady s { s with rootOut := l } := ⟨rfl, rfl⟩

theorem coldLayer_steady (l : Nat) : Steady s (coldLayer l s) := by
  unfold coldLayer
  refine .ite (.refl s) (.ite (setLayer_steady ..) (.ite (setLayer_steady ..) ?_))
  exact .after (setLayer_steady ..) (rootOut_steady ..)

theorem training_steady (ts : List LaneTraining) : Steady s { s with training := ts } := ⟨rfl, rfl⟩

theorem setChannel_steady (c : Nat) (m : ChannelMode) : Steady s (setChannel c m s) := ⟨rfl, rfl⟩

theorem coldLane_spared (f : LaneFault) : Spared s (coldLane f s) := by
  unfold coldLane
  dsimp only
  refine .ite (.refl s) ?_
  split
  · exact (Steady.after (laneSwitched_steady ..) (training_steady ..)).spared
  · split
    · exact .after (tractOffline_spared ..) (setChannel_steady ..).spared
    · exact (Steady.after (settleReserve_steady _) (.after (record_steady ..) (setChannel_steady ..))).spared

theorem trainPhases_steady : Steady s (trainPhases s) := ⟨rfl, rfl⟩

theorem causesRemain_spared (b : BringUp) : Spared s (causesRemain b s) := by
  unfold causesRemain
  have hroots : Spared s (if (List.range 17).any fun k => layerState s (k + 6) = 4 then outOfService 1 s else s) :=
    .ite (outOfService_spared ..) (.refl s)
  have hregs := Spared.after (.foldl b.regulators fun s r => failRegulator_spared s r.1.toNat r.2.toNat) hroots
  exact .ite (.after (outOfService_spared ..) hregs) hregs

theorem outOfService_start {cause : Nat} (h : s.start.oos = false) :
    (outOfService cause s).start = { s.start with oos := true, oosCause := cause } := by
  obtain ⟨t, hsame, hout⟩ := outOfService_drops cause h
  rw [hout]
  exact hsame.start

theorem outOfService_oos (cause : Nat) : (outOfService cause s).start.oos = true := by
  by_cases h : s.start.oos = true
  · rw [outOfService, if_pos h, h]
  · rw [outOfService_start s (Bool.eq_false_iff.2 h)]

theorem causesRemain_oos {b : BringUp} (h : b.controllerFault = true) : (causesRemain b s).start.oos = true := by
  unfold causesRemain
  dsimp only
  rw [if_pos h]
  exact outOfService_oos _ _

end

end Sys2Proof.Machine
end

section
/-! SUPPORT and the SETTLED STATEMENT of the cold start (O30). -/
namespace Sys2Proof.Machine

/-! ### The cold start's beginning and end (R418, R419, R422) -/

theorem bootChoice_some {s : State} {x : Bool}
    (h : slotGood s s.firmware.bootB = true ∧ x = s.firmware.bootB ∨
      slotGood s s.firmware.bootB = false ∧ slotGood s (!s.firmware.bootB) = true ∧ x = !s.firmware.bootB) :
    ∃ fb, bootChoice s = some (x, fb) := by
  unfold bootChoice
  rcases h with ⟨hgood, rfl⟩ | ⟨hbad, hgood, rfl⟩
  · exact ⟨false, if_pos hgood⟩
  · refine ⟨true, ?_⟩
    dsimp only
    rw [if_neg (Bool.eq_false_iff.1 hbad), if_pos hgood]

theorem bootChoice_none {s : State} (ha : slotGood s false = false) (hb : slotGood s true = false) : bootChoice s = none := by
  unfold bootChoice
  cases s.firmware.bootB <;> simp only [Bool.not_false, Bool.not_true, ha, hb, Bool.false_eq_true, if_false]

theorem bootChoice_coldBase (straps : BitVec 2) (s : State) : bootChoice (coldBase straps s) = bootChoice s := rfl

theorem find?_floorDie_none {ls : List (BitVec 5)} (h0 : 0 ∉ ls) (h1 : 1 ∉ ls) (h23 : 23 ∉ ls) : ls.find? floorDie = none := by
  refine List.find?_eq_none.2 fun l hl hf => ?_
  simp only [floorDie, Bool.or_eq_true, decide_eq_true_eq] at hf
  rcases hf with (rfl | rfl) | rfl
  · exact h0 hl
  · exact h1 hl
  · exact h23 hl

theorem find?_floorDie_some {ls : List (BitVec 5)} (h : 0 ∈ ls ∨ 1 ∈ ls ∨ 23 ∈ ls) : ∃ l, ls.find? floorDie = some l := by
  refine Option.isSome_iff_exists.1 (List.find?_isSome.2 ?_)
  rcases h with h | h | h
  · exact ⟨0, h, rfl⟩
  · exact ⟨1, h, rfl⟩
  · exact ⟨23, h, rfl⟩

/-- What a cold start has booted, before its bring-up: slot `x` runs, `n` counts the fallbacks, `c` holds the configuration. -/
def coldBooted (s : State) (x : Bool) (n : Nat) (c : ConfigStore) : State :=
  { s with
    start := { s.start with stage := 2 }
    firmware := { s.firmware with runsB := x, fallbacks := n, aliasEpoch := s.firmware.aliasEpoch + 1 }
    config := c }

theorem booted_steady (kind : Nat) (x fb : Bool) (s : State) :
    ∃ n c, c.pending = false ∧ Steady (coldBooted s x n c) (startConfig (bootSlot kind x fb s)) := by
  obtain ⟨n, hboot⟩ := bootSlot_steady kind x fb s
  obtain ⟨c, hc, hconfig⟩ := startConfig_steady (bootSlot kind x fb s)
  refine ⟨n, c, hc, hconfig.after ⟨hboot.start, ?_⟩⟩
  exact congrArg (fun v : Standing => { v with config := c }) hboot.standing

/-- The power controller takes the brake as its contact is. -/
def brakeRead (s : State) : State := { s with power := { s.power with brake := s.pins.brake } }

theorem brakeRead_steady (s : State) : Steady s (brakeRead s) := ⟨rfl, rfl⟩

theorem coldMaps_steady (l : List (BitVec 4)) (r : Nat × Nat) (s : State) : Steady s { s with layersCold := l, rehomedCold := r } :=
  ⟨rfl, rfl⟩

/-- READY, before what it does to the reserve. -/
def readied (s : State) : State :=
  { s with
    start := { s.start with stage := 0x40, ready := true, inReset := false }
    firmware := { s.firmware with fusedSvn := max s.firmware.fusedSvn (fld (runningImage s) 8 4) } }

theorem reachReady_steady (s : State) : Steady (readied s) (reachReady s) := settleReserve_steady _

theorem coldBringUp_ready {b : BringUp} (h0 : 0 ∉ b.badLayers) (h1 : 1 ∉ b.badLayers) (h23 : 23 ∉ b.badLayers) (s : State) :
    ∃ u, Spared s u ∧ Spared (readied u) (coldBringUp b s) ∧ (b.controllerFault = true → (coldBringUp b s).start.oos = true) := by
  unfold coldBringUp
  rw [find?_floorDie_none h0 h1 h23]
  refine ⟨_, ?_, (causesRemain_spared _ b).after (reachReady_steady _).spared, fun h => causesRemain_oos _ h⟩
  refine .after ((trainLinks_steady ..).after (coldMaps_steady ..)).spared (.after (trainPhases_steady _).spared ?_)
  exact .after (.foldl _ fun t f => coldLane_spared t f) (.foldl _ fun t l => (coldLayer_steady t l.toNat).spared)

/-- The device at the boot slot's start: a device without partitions and pairs. -/
def coldBootedBase (b : BringUp) (s : State) (x : Bool) (n : Nat) (c : ConfigStore) : State := coldBooted (coldBase b.straps s) x n c

theorem coldStarted_booted {b : BringUp} {s : State} {x fb : Bool} (h : bootChoice s = some (x, fb)) :
    ∃ n c v, c.pending = false ∧ Steady (coldBootedBase b s x n c) v ∧ coldStarted b s = coldBringUp b v := by
  obtain ⟨n, c, hc, hsteady⟩ := booted_steady 0 x fb (coldBase b.straps s)
  refine ⟨n, c, brakeRead (startConfig (bootSlot 0 x fb (coldBase b.straps s))), hc, .after (brakeRead_steady _) hsteady, ?_⟩
  unfold coldStarted
  dsimp only
  rw [bootChoice_coldBase, h]
  rfl

theorem coldStarted_none {b : BringUp} {s : State} (h : bootChoice s = none) : coldStarted b s = bootNone 0 (coldBase b.straps s) := by
  unfold coldStarted
  dsimp only
  rw [bootChoice_coldBase, h]

theorem runningImage_of_firmware {s t : State} (hs : s.start.stage ≠ 0xF1) (ht : t.start.stage ≠ 0xF1)
    (hrun : t.firmware.runsB = s.firmware.runsB) (ha : t.firmware.slotA = s.firmware.slotA) (hb : t.firmware.slotB = s.firmware.slotB) :
    runningImage t = runningImage s := by
  rw [runningImage, if_neg ht, hrun, ha, hb, runningImage, if_neg hs]

/-- Recovery mode, before the record of the start. -/
def recovering (s : State) : State :=
  { s with
    start := { s.start with stage := 0xF1 }
    firmware := { s.firmware with runsB := s.firmware.bootB, aliasEpoch := s.firmware.aliasEpoch + 1 } }

theorem bootNone_steady (kind : Nat) (s : State) : Steady (recovering s) (bootNone kind s) := record_steady ..

theorem exec_coldStart {b : BringUp} (h : b.wf = true) (s : State) : exec (.coldStart b) s = .next (coldStarted b s) := if_pos h

/-- A start that stops, before the layer that failed is set. -/
def stopping (s : State) : State := { s with start := { s.start with stage := 0xF2 } }

/-- Settles O30: what a booted slot has at its start, through all that a bring-up does to a device without partitions and pairs. -/
theorem coldStartLeavesABareDevice : Obligations.ColdStartLeavesABareDevice := by
  unfold Obligations.ColdStartLeavesABareDevice
  refine ⟨?ready, ?recovery, ?stops⟩
  case ready =>
    intro b s x hb hslot h0 h1 h23
    obtain ⟨fb, hchoice⟩ := bootChoice_some hslot
    obtain ⟨n, c, v, hc, hv, hstart⟩ := coldStarted_booted (b := b) hchoice
    obtain ⟨u, hvu, hut, hoos⟩ := coldBringUp_ready h0 h1 h23 v
    have hu : Spared (coldBootedBase b s x n c) u := hvu.after hv.spared
    have hcore := hu.core
    have hstand := hu.bare rfl rfl
    have hcoreT := hut.core
    have hstandT := hut.bare (congrArg Standing.partitions hstand) (congrArg Standing.pairs hstand)
    have hstage : u.start.stage = 2 := congrArg Core.stage hcore
    have hfw : u.firmware = (coldBootedBase b s x n c).firmware := congrArg Core.firmware hcore
    have hfwT : (coldBringUp b v).firmware = (readied u).firmware := congrArg Core.firmware hcoreT
    have hstageT : (coldBringUp b v).start.stage = 0x40 := congrArg Core.stage hcoreT
    have himage : runningImage (coldBringUp b v) = runningImage u :=
      runningImage_of_firmware (by rw [hstage]; decide) (by rw [hstageT]; decide) (by rw [hfwT]; rfl) (by rw [hfwT]; rfl) (by rw [hfwT]; rfl)
    refine ⟨coldBringUp b v, (exec_coldStart hb s).trans (congrArg Host.Outcome.next hstart), congrArg Core.ready hcoreT, hstageT,
      congrArg Core.inReset hcoreT, ?_, ?_, ?_, ?_, ?_, ?_, ?_, ?_, ?_, ?_, ?_, ?_, ?_, ?_, ?_, hoos, ?_⟩
    · exact (congrArg Core.halted hcoreT).trans (congrArg Core.halted hcore)
    · exact (congrArg Core.vin hcoreT).trans (congrArg Core.vin hcore)
    · rw [hfwT]
      exact congrArg Firmware.runsB hfw
    · exact (congrArg Standing.mem hstandT).trans (congrArg Standing.mem hstand)
    · exact (congrArg Standing.tags hstandT).trans (congrArg Standing.tags hstand)
    · exact (congrArg Standing.partitions hstandT).trans (congrArg Standing.partitions hstand)
    · exact (congrArg Standing.pairs hstandT).trans (congrArg Standing.pairs hstand)
    · exact (congrArg Standing.loading hstandT).trans (congrArg Standing.loading hstand)
    · exact (congrArg Standing.groups hstandT).trans (congrArg Standing.groups hstand)
    · exact (congrArg Standing.agreed hstandT).trans (congrArg Standing.agreed hstand)
    · exact (congrArg Standing.negotiated hstandT).trans (congrArg Standing.negotiated hstand)
    · have hcxl : (coldBringUp b v).cxl = State.reset.cxl := (congrArg Standing.cxl hstandT).trans (congrArg Standing.cxl hstand)
      rw [hcxl]
      intro d hd
      rw [List.eq_of_mem_replicate hd]
      exact ⟨rfl, rfl⟩
    · have hconfig : (coldBringUp b v).config = c := (congrArg Standing.config hstandT).trans (congrArg Standing.config hstand)
      rw [hconfig, hc]
    · rw [himage, hfwT]
      exact (congrArg (fun f : Firmware => max f.fusedSvn (fld (runningImage u) 8 4)) hfw :)
    · exact (congrArg Core.coldCount hcoreT).trans (congrArg Core.coldCount hcore)
    · exact (congrArg Core.pending hcoreT).trans (congrArg Core.pending hcore)
  case recovery =>
    intro b s hb ha hslot
    have hsteady := bootNone_steady 0 (coldBase b.straps s)
    have hstage : (bootNone 0 (coldBase b.straps s)).start.stage = 0xF1 := congrArg StartUp.stage hsteady.start
    refine ⟨bootNone 0 (coldBase b.straps s), (exec_coldStart hb s).trans (congrArg Host.Outcome.next (coldStarted_none (bootChoice_none ha hslot))),
      hstage, congrArg StartUp.ready hsteady.start, if_pos hstage, congrArg Standing.mem hsteady.standing, hsteady.partitions,
      congrArg Standing.pairs hsteady.standing⟩
  case stops =>
    intro b s hb hslot hbad
    obtain ⟨fb, hchoice⟩ := bootChoice_some (s := s) (.inl ⟨hslot, rfl⟩)
    obtain ⟨n, c, v, hc, hv, hstart⟩ := coldStarted_booted (b := b) hchoice
    obtain ⟨l, hl⟩ := find?_floorDie_some hbad
    have hup : coldStarted b s = stopAtBringUp l.toNat v := by rw [hstart, coldBringUp, hl]
    have hset : Steady (stopping v) (setLayer l.toNat 4 (stopping v)) := setLayer_steady ..
    have hrun : (setLayer l.toNat 4 (stopping v)).start.oos = false :=
      (congrArg StartUp.oos hset.start).trans (congrArg StartUp.oos hv.start)
    have hout : (stopAtBringUp l.toNat v).start = _ := outOfService_start _ hrun
    have hbare := ((outOfService_spared _ 4).after hset.spared).bare ((congrArg Standing.partitions hv.standing))
      (congrArg Standing.pairs hv.standing)
    refine ⟨stopAtBringUp l.toNat v, (exec_coldStart hb s).trans (congrArg Host.Outcome.next hup), ?_, ?_, ?_, ?_, ?_, ?_⟩
    · rw [hout]
      exact congrArg StartUp.stage hset.start
    · rw [hout]
      exact (congrArg StartUp.ready hset.start).trans (congrArg StartUp.ready hv.start)
    · rw [hout]
    · rw [hout]
    · exact (congrArg Standing.mem hbare).trans (congrArg Standing.mem hv.standing)
    · exact (congrArg Standing.partitions hbare).trans (congrArg Standing.partitions hv.standing)

end Sys2Proof.Machine
end

section
/-! SUPPORT and SETTLED STATEMENTS of the Function Level Reset (O32), and of the warm reset and the start that follows it (O31). -/
namespace Sys2Proof.Machine

/-! ### Function Level Reset (R423) -/

theorem Batch.dead_of_mem_ended {b : Batch} {h : Held} (hh : h ∈ b.ended.steps) : h.origin.dead = true := by
  obtain ⟨h', -, rfl⟩ := List.mem_map.1 hh
  rfl

theorem Partition.unanswered_contexts {p : Partition} {c : Context} (hc : c ∈ p.unanswered.contexts) :
    c.sets = [] ∧ c.ineligible = [] ∧ (∀ b ∈ c.released, ∀ h ∈ b.steps, h.origin.dead = true) ∧
      ∀ r, c.step = some r → ∀ h ∈ r.batch.steps, h.origin.dead = true := by
  obtain ⟨c', -, rfl⟩ := List.mem_map.1 hc
  refine ⟨rfl, rfl, fun b hb h hh => ?_, fun r hr h hh => ?_⟩
  · obtain ⟨b', -, rfl⟩ := List.mem_map.1 hb
    exact Batch.dead_of_mem_ended hh
  · obtain ⟨r', -, rfl⟩ := Option.map_eq_some_iff.1 hr
    exact Batch.dead_of_mem_ended hh

theorem Partition.unanswered_shape (p : Partition) : (p.unanswered.contexts.map fun c => (c.released.length, c.step.isSome)) =
    p.contexts.map fun c => (c.released.length, c.step.isSome) := by
  rw [Partition.unanswered, List.map_map]
  refine List.map_congr_left fun c _ => ?_
  simp only [Function.comp_apply, List.length_map, Option.isSome_map]

theorem Partition.unanswered_regions (p : Partition) : p.unanswered.regions.map (·.handle) = p.regions.map (·.handle) := by
  rw [Partition.unanswered, List.map_map]
  rfl

/-- Settles O32: what the reset of the host's state does to each context. -/
theorem functionLevelResetKeepsTheDevice : Obligations.FunctionLevelResetKeepsTheDevice := by
  unfold Obligations.FunctionLevelResetKeepsTheDevice
  intro s h
  refine ⟨functionReset s, next_hostAccess h, rfl, rfl, rfl, rfl, rfl, rfl, rfl, rfl, rfl, rfl, rfl, rfl, rfl, rfl, rfl, ?contexts, ?shape,
    ?named⟩
  case contexts =>
    intro p hp c hc
    obtain ⟨p', -, rfl⟩ := List.mem_map.1 hp
    exact Partition.unanswered_contexts hc
  case shape =>
    rw [functionReset, List.map_map]
    exact List.map_congr_left fun p _ => p.unanswered_shape
  case named =>
    rw [functionReset, List.map_map]
    refine List.map_congr_left fun p _ => ?_
    simp only [Function.comp_apply, p.unanswered_regions]
    rfl

/-! ### The scrub of every partition (R386) -/

section
variable (s : State)

theorem loseLine_kin (g : Bool) (l : Nat) : Kin s (loseLine g l s) := .of_same rfl rfl

theorem freshPart_kin (part : BitVec 4) : Kin s (freshPart part s) := by
  unfold freshPart
  split
  · exact .of_same rfl rfl
  · exact .refl s

theorem replayStep_kin (part : BitVec 4) (ctx op : Nat) (ls : List Nat) : Kin s (replayStep part ctx op ls s) := by
  unfold replayStep
  split
  · exact .refl s
  · refine .ite (.after (updCtx_spared ..).toKin (.foldl _ fun t l => ?_)) (.after (record_steady ..).kin (.after (updCtx_spared ..).toKin ?_))
    · exact .after (loseLine_kin ..) (.ite (.refl t) (updLayer_steady ..).kin)
    · exact .after (freshPart_kin ..) (restoreCaches_spared ..).toKin

theorem remapTract_kin (part : BitVec 4) (t : Nat) : Kin s (remapTract part t s) := by
  unfold remapTract
  dsimp only
  split
  · exact .refl s
  · split
    · refine .after (record_steady ..).kin (updPart_spared s part ?_).toKin
      exact fun _ => rfl
    · refine .after (.foldl _ fun t c => replayStep_kin ..) (.after (record_steady ..).kin (updPart_spared s part ?_).toKin)
      exact fun _ => rfl

theorem relieveStranded_kin : Kin s (relieveStranded s) := by
  unfold relieveStranded
  refine .foldl _ fun t p => .ite ?_ (.refl t)
  split
  · exact .ite (remapTract_kin ..) (.refl t)
  · exact .refl t

theorem beginScrub_kin (n : BitVec 4) (o : Option Origin) : Kin s (beginScrub n o s) := by
  unfold beginScrub
  split
  · exact .refl s
  · dsimp only
    refine .after (.foldl _ fun t o => (finish_spared ..).toKin) (.after (.foldl _ fun t f => (finish_spared ..).toKin) ?_)
    refine .after (.of_same rfl rfl) (.after (t := updPart n (Partition.stopped o) s) (.of_same rfl rfl) (updPart_spared s n ?_).toKin)
    exact fun _ => rfl

theorem emptied_kin (x : Partition) : Kin s (emptied x s) :=
  ⟨rfl, fun p hp => ⟨p, (List.mem_filter.1 hp).1, rfl⟩⟩

theorem tractsOff_kin (ts : List Nat) : Kin s (tractsOff ts s) := .foldl _ fun t k => (updTract_steady t k _).kin

end

section
variable {s : State} {n : BitVec 4} {x : Partition} (hx : findPart s n = some x) (hs : x.scrubbing = true)
include hx hs

theorem endScrub_emptied : Kin (emptied x s) (endScrub n s) := by
  simp only [endScrub, hx, hs, Bool.not_true, Bool.false_eq_true, if_false]
  rw [← findPart_num hx]
  refine .after (settleReserve_steady _).kin (.after (relieveStranded_kin _) (.after (finishIf_outward ..).kin ?_))
  exact tractsOff_kin (emptied x s) (tractsOf x.tracts)

theorem num_ne_of_mem_endScrub {p : Partition} (hp : p ∈ (endScrub n s).partitions) : p.num ≠ n := by
  obtain ⟨y, hy, hyp⟩ := (endScrub_emptied hx hs).nums p hp
  have hne : y.num ≠ x.num := of_decide_eq_true (List.mem_filter.1 hy).2
  rwa [hyp, findPart_num hx] at hne

end

/-- A partition scrubbed from its beginning to its end is gone. -/
theorem scrub_removes (n : BitVec 4) (s : State) :
    Kin s (endScrub n (beginScrub n none s)) ∧ ∀ p ∈ (endScrub n (beginScrub n none s)).partitions, p.num ≠ n := by
  cases hx : findPart s n with
  | none =>
    have hidle : endScrub n (beginScrub n none s) = s := by
      simp only [beginScrub, hx]
      exact endScrub_absent hx
    rw [hidle]
    exact ⟨.refl s, fun p hp hpn => List.find?_eq_none.1 hx p hp (decide_eq_true hpn)⟩
  | some x =>
    obtain ⟨-, -, hparts⟩ := beginScrub_frame hx none
    have hbegun : findPart (beginScrub n none s) n = some (x.stopped none) := by
      rw [findPart_congr hparts, findPart_updPart n (Partition.stopped none) (fun _ => rfl), hx, Option.map_some]
    have hkin := ((endScrub_emptied hbegun rfl).after (emptied_kin ..)).after (beginScrub_kin s n none)
    exact ⟨hkin, fun p hp => num_ne_of_mem_endScrub hbegun rfl hp⟩

theorem scrubs_remove (ps : List Partition) (s : State) :
    Kin s (ps.foldl (fun s p => endScrub p.num (beginScrub p.num none s)) s) ∧
      ∀ p ∈ (ps.foldl (fun s p => endScrub p.num (beginScrub p.num none s)) s).partitions, ∀ x ∈ ps, p.num ≠ x.num := by
  induction ps generalizing s with
  | nil => exact ⟨.refl s, fun _ _ _ hx => by cases hx⟩
  | cons x xs ih =>
    obtain ⟨hkin, hgone⟩ := scrub_removes x.num s
    obtain ⟨hkins, hgones⟩ := ih (endScrub x.num (beginScrub x.num none s))
    refine ⟨hkins.after hkin, fun p hp y hy => ?_⟩
    rcases List.mem_cons.1 hy with rfl | hy
    · obtain ⟨z, hz, hzp⟩ := hkins.nums p hp
      exact hzp ▸ hgone z hz
    · exact hgones p hp y hy

theorem scrubAll_kin (s : State) : Kin s (scrubAll s) := (scrubs_remove s.partitions s).1

theorem scrubAll_partitions (s : State) : (scrubAll s).partitions = [] :=
  List.eq_nil_iff_forall_not_mem.2 fun p hp => by
    obtain ⟨x, hx, hxp⟩ := (scrubAll_kin s).nums p hp
    exact (scrubs_remove s.partitions s).2 p hp x hx hxp.symm

/-! ### The start after a warm reset (R421, R424) -/

theorem exitSelfRefresh_kin (s : State) : Kin s (exitSelfRefresh s) := .of_same rfl rfl

theorem startConfig_kin (s : State) : Kin s (startConfig s) := by
  obtain ⟨c, -, h⟩ := startConfig_steady s
  exact h.kin.after (.of_same rfl rfl)

/-- A contact PERST# that is released. -/
def perstOff (s : State) : State := { s with pins := { s.pins with perst := false } }

/-- The slot that a start boots, with `n` fallbacks counted. -/
def slotBooted (s : State) (x : Bool) (n : Nat) : State :=
  { s with
    start := { s.start with stage := 2 }
    firmware := { s.firmware with runsB := x, fallbacks := n, aliasEpoch := s.firmware.aliasEpoch + 1 } }

/-- The device on the image that its slot holds: scrubbed where the image is another. -/
def warmImage (x fb : Bool) (s : State) : State :=
  let t := trainPhases (exitSelfRefresh (bootSlot 1 x fb (perstOff s)))
  if fb || decide (runningImage t ≠ runningImage s) then scrubAll t else t

theorem warmImage_kin (x fb : Bool) (s : State) : ∃ n, Kin (slotBooted (perstOff s) x n) (warmImage x fb s) := by
  obtain ⟨n, hboot⟩ := bootSlot_steady 1 x fb (perstOff s)
  have hrun := ((trainPhases_steady _).kin.after (exitSelfRefresh_kin _)).after hboot.kin
  exact ⟨n, .ite ((scrubAll_kin _).after hrun) hrun⟩

theorem runningImage_slot {s : State} (h : s.start.stage ≠ 0xF1) : runningImage s = (slotImage s s.firmware.runsB).getD [] := by
  rw [runningImage, if_neg h]
  rfl

theorem slotImage_of_good {s : State} {b : Bool} (h : slotGood s b = true) : ∃ img, slotImage s b = some img := by
  unfold slotGood at h
  split at h
  next img himg => exact ⟨img, himg⟩
  next => cases h

theorem warmImage_scrubs {s : State} {x : Bool} (fb : Bool) (hgood : slotGood s x = true) (hother : slotImage s x ≠ some (runningImage s)) :
    (warmImage x fb s).partitions = [] := by
  obtain ⟨n, hboot⟩ := bootSlot_steady 1 x fb (perstOff s)
  obtain ⟨img, himg⟩ := slotImage_of_good hgood
  have hfw : (trainPhases (exitSelfRefresh (bootSlot 1 x fb (perstOff s)))).firmware = (slotBooted s x n).firmware := hboot.firmware
  have hstage : (trainPhases (exitSelfRefresh (bootSlot 1 x fb (perstOff s)))).start.stage = 2 := congrArg StartUp.stage hboot.start
  have himage : runningImage (trainPhases (exitSelfRefresh (bootSlot 1 x fb (perstOff s)))) = img := by
    rw [runningImage_slot (by rw [hstage]; decide), slotImage, hfw]
    exact congrArg (Option.getD · []) himg
  unfold warmImage
  dsimp only
  rw [himage, if_pos, scrubAll_partitions]
  have hne : img ≠ runningImage s := fun he => hother (himg.trans (congrArg some he))
  rw [decide_eq_true hne, Bool.or_true]

theorem warmStarted_ready {b : BringUp} {s : State} {x fb : Bool} (hc : bootChoice s = some (x, fb)) (h0 : 0 ∉ b.badLayers)
    (h1 : 1 ∉ b.badLayers) (h23 : 23 ∉ b.badLayers) :
    ∃ u, Kin (warmImage x fb s) u ∧ Kin (readied u) (warmStarted b s) := by
  have hstart : warmStarted b s = b.badLayers.foldl (fun s l => wholeLayerFault l.toNat s)
      (reachReady (trainLinks b.links (startConfig (brakeRead (warmImage x fb s))))) := by
    unfold warmStarted
    dsimp only
    rw [show bootChoice { s with pins := { s.pins with perst := false } } = some (x, fb) from hc, find?_floorDie_none h0 h1 h23]
    rfl
  refine ⟨trainLinks b.links (startConfig (brakeRead (warmImage x fb s))), ?_, ?_⟩
  · exact .after (trainLinks_steady ..).kin (.after (startConfig_kin _) (brakeRead_steady _).kin)
  · rw [hstart]
    exact .after (.foldl _ fun t l => (wholeLayerFault_spared ..).toKin) (reachReady_steady _).kin

theorem warmStarted_none {b : BringUp} {s : State} (hc : bootChoice s = none) :
    warmStarted b s = { bootNone 1 (perstOff s) with start := { (bootNone 1 (perstOff s)).start with inReset := false } } := by
  unfold warmStarted
  dsimp only
  rw [show bootChoice { s with pins := { s.pins with perst := false } } = none from hc]
  rfl

/-! ### What a warm reset keeps of the partitions (R421) -/

/-- What a warm reset keeps of a partition. -/
def partIdent (p : Partition) : (BitVec 4 × U64 × U64 × Bool × Bool × Bool × U32 × Bool) × List U32 × List U32 × Nat :=
  ((p.num, p.tracts, p.inst, p.keyLive, p.sweeping, p.gen, p.rotations, p.confidential),
    p.regions.map (·.handle), p.plans.map (·.handle), p.energy)

/-- From `s` to `t` the partitions and the device id stay. -/
structure SameParts (s t : State) : Prop where
  parts : t.partitions.map partIdent = s.partitions.map partIdent
  devId : t.fabric.devId = s.fabric.devId

namespace SameParts
variable {s t u : State}

theorem refl (s : State) : SameParts s s := ⟨rfl, rfl⟩

/-- Of two steps, the later first. -/
theorem after (k : SameParts t u) (h : SameParts s t) : SameParts s u := ⟨k.parts.trans h.parts, k.devId.trans h.devId⟩

theorem foldl {α : Type} {f : State → α → State} (xs : List α) (hf : ∀ s x, SameParts s (f s x)) : SameParts s (xs.foldl f s) :=
  List.foldlRecOn (motive := SameParts s) xs f (refl s) fun t ht x _ => .after (hf t x) ht

theorem ite {c : Prop} [Decidable c] (ht : SameParts s t) (hu : SameParts s u) : SameParts s (if c then t else u) := by
  split
  · exact ht
  · exact hu

theorem updPart (n : BitVec 4) {f : Partition → Partition} (hf : ∀ p, partIdent (f p) = partIdent p) (s : State) :
    SameParts s (Machine.updPart n f s) := by
  refine ⟨?_, rfl⟩
  rw [updPart_partitions, updWhere, List.map_map]
  refine List.map_congr_left fun p _ => ?_
  rw [Function.comp_apply]
  split
  · exact hf p
  · rfl

end SameParts

/-- The caches, memory and tags stay too. -/
structure SameContents (s t : State) : Prop extends SameParts s t where
  caches : t.partitions.map (·.caches) = s.partitions.map (·.caches)
  mem : t.mem = s.mem
  tags : t.tags = s.tags

namespace SameContents
variable {s t u : State}

theorem refl (s : State) : SameContents s s := ⟨.refl s, rfl, rfl, rfl⟩

/-- Of two steps, the later first. -/
theorem after (k : SameContents t u) (h : SameContents s t) : SameContents s u :=
  ⟨k.toSameParts.after h.toSameParts, k.caches.trans h.caches, k.mem.trans h.mem, k.tags.trans h.tags⟩

theorem foldl {α : Type} {f : State → α → State} (xs : List α) (hf : ∀ s x, SameContents s (f s x)) :
    SameContents s (xs.foldl f s) :=
  List.foldlRecOn (motive := SameContents s) xs f (refl s) fun t ht x _ => .after (hf t x) ht

theorem ite {c : Prop} [Decidable c] (ht : SameContents s t) (hu : SameContents s u) : SameContents s (if c then t else u) := by
  split
  · exact ht
  · exact hu

theorem of_outward (h : Outward s t) (hd : t.fabric.devId = s.fabric.devId) : SameContents s t := by
  have hparts : t.partitions = s.partitions := by rw [h]
  exact ⟨⟨congrArg _ hparts, hd⟩, congrArg _ hparts, h.mem, h.tags⟩

theorem updPart (n : BitVec 4) {f : Partition → Partition} (hf : ∀ p, partIdent (f p) = partIdent p) (hc : ∀ p, (f p).caches = p.caches)
    (s : State) : SameContents s (Machine.updPart n f s) := by
  refine ⟨.updPart n hf s, ?_, rfl, rfl⟩
  rw [updPart_partitions, updWhere, List.map_map]
  refine List.map_congr_left fun p _ => ?_
  rw [Function.comp_apply]
  split
  · exact hc p
  · rfl

end SameContents

section
variable (s : State)

theorem record_contents (cls typ sev : Nat) (part : Option (BitVec 4)) (body : List Byte) :
    SameContents s (record cls typ sev part body s) := .of_outward (record_outward ..) (by rw [record_frame])

theorem reserve_contents (r : Reserve) : SameContents s { s with reserve := r } := ⟨⟨rfl, rfl⟩, rfl, rfl, rfl⟩

theorem closeJob_contents (part : Option (BitVec 4)) (a : Action) (outcome : Nat) : SameContents s (closeJob part a outcome s) := by
  unfold closeJob
  split
  · split
    · exact .ite (.after (record_contents ..) (reserve_contents ..)) (.refl s)
    · exact .refl s
  · split
    · refine .ite (.after (record_contents ..) (.updPart _ ?_ ?_ s)) (.refl s)
      · exact fun _ => rfl
      · exact fun _ => rfl
    · exact .refl s

theorem abandonJobs_contents : SameContents s (abandonJobs s) := by
  have hparts : SameContents s (s.partitions.foldl (fun s p =>
      match p.acting with
      | none => s
      | some j => updPart p.num (fun x => { x with acting := none, recovery := keptJobs (j :: x.recovery) })
          (if j.begun then closeJob (some p.num) j.act 1 s else s)) s) := by
    refine .foldl _ fun t p => ?_
    split
    · exact .refl t
    · refine .after (.updPart _ ?_ ?_ _) (.ite (closeJob_contents ..) (.refl t))
      · exact fun _ => rfl
      · exact fun _ => rfl
  unfold abandonJobs
  dsimp only
  split
  · exact hparts
  · exact .after (reserve_contents ..) (.after (.ite (closeJob_contents ..) (.refl _)) hparts)

theorem sendLeaves_contents : SameContents s (sendLeaves s) := by
  refine .foldl _ fun t g => .ite (.refl t) (.ite (.refl t) ?_)
  exact .of_outward (launch_outward ..) (launch_carriedOn ..).devId

/-! ### Caches restored and closed (R170, R421) -/

theorem updCache_parts (n : BitVec 4) (h : U32) (f : Cache → Cache) : SameParts s (updCache n h f s) := by
  refine .updPart n ?_ s
  exact fun _ => rfl

theorem openPartial_parts (c : Cache) (e : PageEntry) (held i : Nat) : SameParts s (openPartial c e held i s) :=
  .ite (.refl s) ⟨rfl, rfl⟩

theorem freePages_parts (p : Partition) (c : Cache) (l : List (Bool × Nat)) : SameParts s (freePages p c l s) := by
  refine .foldl _ fun t x => ⟨congrArg _ (freePage_partitions ..), ?_⟩
  rw [freePage, openPage_frame]
  rfl

theorem putBack_parts (x : Nat × List Byte × Option U32) : SameParts s (putBack s x) := by
  unfold putBack
  refine .ite (.refl s) ?_
  dsimp only
  split <;> exact ⟨rfl, rfl⟩

theorem restoreCaches_parts (part : BitVec 4) (ctx : Nat) : SameParts s (restoreCaches part ctx s) := by
  unfold restoreCaches
  split
  · exact .refl s
  · split
    · exact .refl s
    · refine .after (.foldl _ putBack_parts) (.after (.foldl _ fun t c => ?_) (.foldl _ fun t c => freePages_parts ..))
      exact .after (.foldl _ fun t r => .foldl _ fun t e => openPartial_parts ..) (updCache_parts ..)

theorem closeSpanning_parts : SameParts s (closeSpanning s) := by
  refine .foldl _ fun t p => .foldl _ fun t c => .after (.updPart p.num ?_ _) (freePages_parts ..)
  exact fun _ => rfl

end

/-- Without a cache that spans a group nothing is closed. -/
theorem closeSpanning_none {s : State} (h : ∀ p ∈ s.partitions, ∀ c ∈ p.caches, c.group = none) : closeSpanning s = s := by
  refine List.foldlRecOn (motive := fun u => u = s) s.partitions _ rfl fun u hu p hp => ?_
  have hnone : p.caches.filter (fun c => c.group.isSome) = [] :=
    List.filter_eq_nil_iff.2 fun c hc => by rw [h p hp c hc]; exact Bool.false_ne_true
  rw [hnone, hu]
  rfl

/-- Every context's caches as they were before the step it runs. -/
def allRestored (s : State) : State :=
  s.partitions.foldl (fun s p => (List.range 8).foldl (fun s c => restoreCaches p.num c s) s) s

theorem allRestored_parts (s : State) : SameParts s (allRestored s) :=
  .foldl _ fun _ p => .foldl _ fun t c => restoreCaches_parts t p.num c

theorem restoreCaches_idle {s : State} (h : ∀ p ∈ s.partitions, ∀ c, c < 8 → (p.context c).step = none) (n : BitVec 4) {c : Nat} (hc : c < 8) :
    restoreCaches n c s = s := by
  cases hx : findPart s n with
  | none => simp only [restoreCaches, hx]
  | some x => simp only [restoreCaches, hx, h x (List.mem_of_find?_eq_some hx) c hc]

theorem allRestored_idle {s : State} (h : ∀ p ∈ s.partitions, ∀ c, c < 8 → (p.context c).step = none) : allRestored s = s := by
  refine List.foldlRecOn (motive := fun u => u = s) s.partitions _ rfl fun u hu p _ => ?_
  refine List.foldlRecOn (motive := fun u => u = s) (List.range 8) _ hu fun v hv c hc => ?_
  rw [hv]
  exact restoreCaches_idle h p.num (List.mem_range.1 hc)

/-- A device whose work has been ended, before its state is put back. -/
def workEnded (s : State) : State := closeSpanning (sendLeaves (abandonJobs (allRestored s)))

theorem workEnded_parts (s : State) : SameParts s (workEnded s) :=
  .after (closeSpanning_parts _) (.after (sendLeaves_contents _).toSameParts (.after (abandonJobs_contents _).toSameParts (allRestored_parts s)))

theorem workEnded_contents {s : State} (hstep : ∀ p ∈ s.partitions, ∀ c, c < 8 → (p.context c).step = none)
    (hgroup : ∀ p ∈ s.partitions, ∀ c ∈ p.caches, c.group = none) : (workEnded s).mem = s.mem ∧ (workEnded s).tags = s.tags := by
  have hquiet := (sendLeaves_contents _).after (abandonJobs_contents s)
  have hnone : ∀ p ∈ (sendLeaves (abandonJobs s)).partitions, ∀ c ∈ p.caches, c.group = none := by
    intro p hp c hc
    have hin : p.caches ∈ s.partitions.map (·.caches) := hquiet.caches ▸ List.mem_map_of_mem hp
    obtain ⟨x, hx, hxp⟩ := List.mem_map.1 hin
    exact hgroup x hx c (hxp ▸ hc)
  rw [workEnded, allRestored_idle hstep, closeSpanning_none hnone]
  exact ⟨hquiet.mem, hquiet.tags⟩

theorem map_rested (ps : List Partition) : (ps.map Partition.rested).map partIdent = ps.map partIdent := by
  rw [List.map_map]
  refine List.map_congr_left fun p _ => ?_
  simp only [Function.comp_apply, partIdent, Partition.rested, List.map_map]
  rfl

theorem Partition.rested_contexts {p : Partition} {c : Context} (hc : c ∈ p.rested.contexts) :
    c.sets = [] ∧ c.ineligible = [] ∧ c.released = [] ∧ c.step = none := by
  obtain ⟨c', -, rfl⟩ := List.mem_map.1 hc
  exact ⟨rfl, rfl, rfl, rfl⟩

/-- A warm reset of a READY device: its work has been ended, its state put back. -/
theorem warmReset_ready {s : State} (h : s.start.ready = true) :
    (warmReset s).start = { (workEnded s).start with stage := 1, ready := false, inReset := true, selfRefresh := true } ∧
      (warmReset s).cxl.up = false ∧ (warmReset s).cxl.decoders = List.replicate 4 Decoder.fresh ∧
      (warmReset s).pairs = [] ∧ (warmReset s).bar = Bar0.fresh ∧ (warmReset s).loading = [] ∧ (warmReset s).fabric.groups = [] ∧
      (warmReset s).fabric.devId = (workEnded s).fabric.devId ∧
      (warmReset s).partitions = (workEnded s).partitions.map Partition.rested ∧
      (warmReset s).mem = (workEnded s).mem ∧ (warmReset s).tags = (workEnded s).tags := by
  have hneg : ¬(!s.start.ready) = true := by rw [h]; decide
  unfold warmReset
  rw [if_neg hneg]
  exact ⟨rfl, rfl, rfl, rfl, rfl, rfl, rfl, rfl, rfl, rfl, rfl⟩

theorem warmReset_unready {s : State} (h : s.start.ready = false) : warmReset s = s := by
  unfold warmReset
  rw [if_pos (by rw [h]; rfl)]

theorem exec_perstDeassert {b : BringUp} {s : State} (hw : b.wf = true) (h : alive s = true) :
    exec (.perstDeassert b) s = happens (perstReleased b s) := (if_pos hw).trans (next_floorEvent h)

theorem perstReleased_inReset {b : BringUp} {s : State} (h : s.start.inReset = true) : perstReleased b s = warmStarted b s := if_pos h

/-! ### What holds of the warm reset, and of the start that follows it (R421, R424) -/

/-- A warm reset of a READY device ends all work and keeps the partitions, and the bytes where no work had to be undone. -/
theorem warmReset_keeps {s : State} (hready : s.start.ready = true) :
    (warmReset s).start.ready = false ∧ (warmReset s).partitions.map partIdent = s.partitions.map partIdent ∧
      (∀ p ∈ (warmReset s).partitions, ∀ c ∈ p.contexts, c.sets = [] ∧ c.ineligible = [] ∧ c.released = [] ∧ c.step = none) ∧
      ((∀ p ∈ s.partitions, (∀ c, c < 8 → (p.context c).step = none) ∧ ∀ c ∈ p.caches, c.group = none) →
        (warmReset s).mem = s.mem ∧ (warmReset s).tags = s.tags) := by
  obtain ⟨hstart, -, -, -, -, -, -, -, hparts, hmem, htags⟩ := warmReset_ready hready
  refine ⟨by rw [hstart], ?_, fun p hp c hc => ?_, fun hidle => ?_⟩
  · rw [hparts, map_rested, (workEnded_parts s).parts]
  · rw [hparts] at hp
    obtain ⟨p', -, rfl⟩ := List.mem_map.1 hp
    exact Partition.rested_contexts hc
  · obtain ⟨hm, ht⟩ := workEnded_contents (fun p hp => (hidle p hp).1) (fun p hp => (hidle p hp).2)
    exact ⟨hmem.trans hm, htags.trans ht⟩

/-- A start after a warm reset whose boot slot verifies reaches READY; another image than the one that ran leaves no partition. -/
theorem warmStarted_reachesReady {b : BringUp} {s : State} (hgood : slotGood s s.firmware.bootB = true)
    (h0 : 0 ∉ b.badLayers) (h1 : 1 ∉ b.badLayers) (h23 : 23 ∉ b.badLayers) :
    (warmStarted b s).start.ready = true ∧ (warmStarted b s).start.stage = 0x40 ∧ (warmStarted b s).start.inReset = false ∧
      (warmStarted b s).pins.perst = false ∧ (warmStarted b s).firmware.runsB = s.firmware.bootB ∧
      (slotImage s s.firmware.bootB ≠ some (runningImage s) → (warmStarted b s).partitions = []) := by
  obtain ⟨fb, hchoice⟩ := bootChoice_some (s := s) (.inl ⟨hgood, rfl⟩)
  obtain ⟨u, hu, ht⟩ := warmStarted_ready (b := b) hchoice h0 h1 h23
  obtain ⟨n, hbooted⟩ := warmImage_kin s.firmware.bootB fb s
  have hcore := (hu.after hbooted).core
  refine ⟨congrArg Core.ready ht.core, congrArg Core.stage ht.core, congrArg Core.inReset ht.core, ?_, ?_, fun hother => ?_⟩
  · exact (congrArg Core.perst ht.core).trans (congrArg Core.perst hcore)
  · exact (congrArg (fun c : Core => c.firmware.runsB) ht.core).trans (congrArg (fun c : Core => c.firmware.runsB) hcore)
  · exact ht.no_partition (hu.no_partition (warmImage_scrubs fb hgood hother))

/-- A start without a slot that verifies stands in recovery mode; READY is as it was. -/
theorem warmStarted_recovers {b : BringUp} {s : State} (ha : slotGood s false = false) (hb : slotGood s true = false) :
    (warmStarted b s).start = { s.start with stage := 0xF1, inReset := false } := by
  rw [warmStarted_none (bootChoice_none ha hb)]
  exact congrArg (fun x : StartUp => { x with inReset := false }) (bootNone_steady 1 (perstOff s)).start

end Sys2Proof.Machine
end

section
/-! SUPPORT of the warm reset's refutation: what follows a command (`settle`) leaves the start-up state as it is. -/
namespace Sys2Proof.Machine

variable {s : State}

/-! ### Operations on the state that leave `start` -/

@[simp] theorem foldl_start {α : Type} {f : State → α → State} (l : List α) (hf : ∀ s x, (f s x).start = s.start) (s : State) :
    (l.foldl f s).start = s.start := by
  induction l generalizing s with
  | nil => rfl
  | cons x l ih => exact (ih _).trans (hf s x)

theorem repeat_start {f : State → State} (hf : ∀ s, (f s).start = s.start) (n : Nat) (s : State) :
    (Nat.repeat f n s).start = s.start := by
  induction n with
  | zero => rfl
  | succ n ih => exact (hf _).trans ih

@[simp] theorem writeCells_start (g : Bool) (cells : List Host.Cell) : (writeCells g cells s).start = s.start :=
  (writeCells_wrote (s := s) g cells).sameService.start

@[simp] theorem writeAt_start (addrs : List Nat) (bytes : List Byte) : (writeAt addrs bytes s).start = s.start := by
  cases addrs with
  | nil => rfl
  | cons a l => exact writeCells_start _ _

@[simp] theorem record_start (cls typ sev : Nat) (part : Option (BitVec 4)) (body : List Byte) :
    (record cls typ sev part body s).start = s.start :=
  (record_sameService ..).start

@[simp] theorem settleReserve_start : (settleReserve s).start = s.start := (settleReserve_sameService s).start

@[simp] theorem freePages_start (p : Partition) (c : Cache) (l : List (Bool × Nat)) : (freePages p c l s).start = s.start :=
  (freePages_sameService ..).start

@[simp] theorem post_start (qp : BitVec 6) (w : Waiting) : (post qp w s).start = s.start := by
  unfold post
  split
  · rfl
  · split
    · exact (emit_outward ..).start
    · rfl

@[simp] theorem finish_start (o : Origin) (st : BitVec 16) (d : U32) (r : List Byte) : (finish o st d r s).start = s.start :=
  (finish_outward ..).start

@[simp] theorem finishIf_start (o : Option Origin) (st : BitVec 16) (r : List Byte) : (finishIf o st r s).start = s.start :=
  (finishIf_outward ..).start

@[simp] theorem launch_start (p : FabPacket) : (launch p s).start = s.start := (launch_outward ..).start

@[simp] theorem putBuffer_start (q : QueuePair) (p : Packet) (t : Option (List Nat)) (a : Nat) (b : List Byte) :
    (putBuffer q p t a b s).start = s.start := by
  cases t with
  | some l => exact writeAt_start l b
  | none =>
    simp only [putBuffer, recordHost]
    split
    · rfl
    · exact record_start ..

/-! ### Steps held, released and cancelled -/

@[simp] theorem release_start (n : BitVec 4) (c : Nat) (plan : U32) (l : List Held) (late : Bool) :
    (release n c plan l late s).start = s.start := by
  have hfold := foldl_start (l.filter fun h => !(h.cfgver = 0 || h.cfgver = cfgVersion s))
    (f := fun s h => finish h.origin stConfig 0 [] s) (fun _ _ => finish_start ..) s
  unfold release
  dsimp only
  split
  · exact hfold
  · exact hfold

@[simp] theorem pumpSet_start (n : BitVec 4) (c : Nat) (s : State) : (pumpSet n c s).start = s.start := by
  unfold pumpSet
  split
  · rfl
  · dsimp only
    split
    · rfl
    · split
      · exact release_start ..
      · rfl

@[simp] theorem pumpSingle_start (n : BitVec 4) (c : Nat) (s : State) : (pumpSingle n c s).start = s.start := by
  unfold pumpSingle
  split
  · rfl
  · split
    · rfl
    · split
      · exact release_start ..
      · rfl

@[simp] theorem pumpCtx_start (n : BitVec 4) (c : Nat) (s : State) : (pumpCtx n c s).start = s.start := by
  unfold pumpCtx
  split
  · rfl
  · exact (repeat_start (pumpSingle_start n c) _ _).trans (repeat_start (pumpSet_start n c) _ s)

@[simp] theorem pump_start (s : State) : (pump s).start = s.start :=
  foldl_start _ (fun _ n => foldl_start _ (fun _ c => pumpCtx_start n c _) _) s

@[simp] theorem releaseLate_start (n : BitVec 4) (c : Nat) (h : U32) (s : State) : (releaseLate n c h s).start = s.start := pump_start _

@[simp] theorem makeEligible_start (n : BitVec 4) (c : Nat) (h : Held) : (makeEligible n c h s).start = s.start := by
  unfold makeEligible
  split
  · rfl
  · exact pump_start _

@[simp] theorem cancelHeld_start (h : Held) (s : State) : (cancelHeld h s).start = s.start := finish_start ..

@[simp] theorem cancelTag_start (o : Origin) : (cancelTag o s).2.start = s.start := by
  unfold cancelTag
  split
  · rfl
  · split
    · rfl
    · exact cancelHeld_start _ s

@[simp] theorem beginDeletion_start (qp : BitVec 6) (o : Option Origin) : (beginDeletion qp o s).start = s.start :=
  foldl_start _ (fun _ f => cancelHeld_start (Found.held f) _) (updPair qp _ s)

/-! ### Caches and recovery -/

theorem resealFrom_start (p : Partition) (c : Cache) (r : LayerRec) (held first : Nat) :
    (resealFrom p c r held first s).start = s.start :=
  foldl_start _ (fun _ _ => (reseal_sameService ..).start) s

theorem truncateLayer_start (n : BitVec 4) (h : U32) (seq layer len : Nat) (keep : Bool) (s : State) :
    (truncateLayer n h seq layer len keep s).start = s.start := by
  unfold truncateLayer
  split
  · rfl
  · split
    · rfl
    · dsimp only
      split
      · rfl
      · rw [resealFrom_start, updCache_start]
        split_ifs <;> simp

@[simp] theorem truncateSeq_start (n : BitVec 4) (c : Cache) (seq len : Nat) : (truncateSeq n c seq len s).start = s.start :=
  foldl_start _ (fun _ l => truncateLayer_start n c.handle seq l len false _) s

@[simp] theorem releaseSeq_start (n : BitVec 4) (h : U32) (seq : Nat) : (releaseSeq n h seq s).start = s.start := by
  unfold releaseSeq
  split
  · rfl
  · split
    · rfl
    · exact freePages_start ..

theorem startMove_start (n : BitVec 4) (h : U32) (seq layer i : Nat) (toRoot : Bool) (s : State) :
    (startMove n h seq layer i toRoot s).start = s.start := by
  unfold startMove
  split
  · rfl
  · dsimp only
    split <;> rfl

theorem leaveUnit_start (u : Nat) (s : State) : (leaveUnit u s).start = s.start :=
  foldl_start _ (fun _ _ => (moveAway_sameService ..).start) _

theorem recordTract_start (t added : Nat) : (recordTract t added s).start = s.start := record_start ..

theorem remapTract_start (n : BitVec 4) (t : Nat) : (remapTract n t s).start = s.start := by
  unfold remapTract
  split
  · rfl
  · dsimp only
    split
    · exact recordTract_start ..
    · exact (replayPart_sameService ..).start.trans (recordTract_start ..)

theorem closeJob_start (part : Option (BitVec 4)) (a : Action) (o : Nat) : (closeJob part a o s).start = s.start :=
  (closeJob_sameService ..).start

theorem beginAction_start (part : Option (BitVec 4)) (a : Action) (s : State) : (beginAction part a s).start = s.start := by
  unfold beginAction
  split
  · exact (closeJob_start ..).trans (replayPart_sameService ..).start
  · exact (closeJob_start ..).trans (remapTract_start ..)
  · exact leaveUnit_start _ s
  · split
    · exact closeJob_start ..
    · refine (foldl_start _ (fun s r => ?_) _).trans ((freshPart_sameService ..).start.trans (restoreCaches_sameService ..).start)
      split
      · exact (openPage_sameService ..).start
      · rfl
  · rfl

theorem beginJobs_start (s : State) : (beginJobs s).start = s.start := by
  unfold beginJobs
  dsimp only
  split
  · refine (beginAction_start ..).trans (foldl_start _ (fun s p => ?_) s)
    split
    · exact beginAction_start ..
    · rfl
  · refine foldl_start _ (fun s p => ?_) s
    split
    · exact beginAction_start ..
    · rfl

end Sys2Proof.Machine
end

section
/-! SUPPORT and REFUTATION of the warm reset (O31): the commands, and `settle`, leave the start-up state's READY as it is. -/
namespace Sys2Proof.Machine

variable {s : State}

/-! ### Commands that leave the start-up state as it is -/

/-- A command's own part that leaves the start-up state as it is. -/
def KeepsStart (body : CmdBody) : Prop := ∀ q p s, (body q p s).2.start = s.start

@[simp] theorem ok_start (r : List Byte) (s : State) : (ok r s).2.start = s.start := rfl
@[simp] theorem fail_start (st : BitVec 16) (s : State) : (fail st s).2.start = s.start := rfl
@[simp] theorem reply_start (e : Stop) (s : State) : (e.reply s).2.start = s.start := rfl

theorem Reports.keepsStart {body : CmdBody} (h : Reports body) : KeepsStart body := by
  intro q p s
  obtain ⟨st, d, r, hbody⟩ := h q p s
  rw [hbody]

@[simp] theorem copyOut_start (q : QueuePair) (p : Packet) (align dest size need : Nat) (b r : List Byte) :
    (copyOut q p align dest size need b r s).2.start = s.start := by
  unfold copyOut
  split
  · rfl
  · split
    · rfl
    · split
      · rfl
      · exact putBuffer_start ..

@[simp] theorem copyRecords_start (q : QueuePair) (p : Packet) (limit align size : Nat) (rec : Nat → List Byte) (more : List Byte) :
    (copyRecords q p limit align size rec more s).2.start = s.start := by
  unfold copyRecords
  dsimp only
  split
  · rfl
  · split
    · rfl
    · exact copyOut_start ..

/-! Queue pairs, configuration and regions. -/

theorem cmdQueueCreate_keepsStart : KeepsStart cmdQueueCreate := by
  intro q p s
  unfold cmdQueueCreate
  dsimp only
  repeat' split
  all_goals rfl

theorem cmdQueueDelete_keepsStart : KeepsStart cmdQueueDelete := by
  intro q p s
  unfold cmdQueueDelete
  dsimp only
  repeat' split
  all_goals simp

theorem rollBack_start (k : Nat) : (rollBack k s).start = s.start :=
  (record_start ..).trans (supply_steady _ _).start

theorem cmdConfigRead_keepsStart : KeepsStart cmdConfigRead := by
  intro q p s
  unfold cmdConfigRead
  dsimp only
  repeat' split
  all_goals simp

theorem cmdConfigApply_keepsStart : KeepsStart cmdConfigApply := by
  intro q p s
  unfold cmdConfigApply
  dsimp only
  repeat' split
  all_goals rfl

theorem cmdConfigConfirm_keepsStart : KeepsStart cmdConfigConfirm := by
  intro q p s
  unfold cmdConfigConfirm recordConfig
  repeat' split
  all_goals simp

theorem cmdConfigRollback_keepsStart : KeepsStart cmdConfigRollback := by
  intro q p s
  unfold cmdConfigRollback
  split
  · rfl
  · exact rollBack_start 2

theorem cmdRegionAlloc_keepsStart : KeepsStart cmdRegionAlloc := by
  intro q p s
  unfold cmdRegionAlloc
  dsimp only
  repeat' split
  all_goals rfl

theorem cmdRegionFree_keepsStart : KeepsStart cmdRegionFree := by
  intro q p s
  unfold cmdRegionFree
  split
  · rfl
  · dsimp only
    split
    · rfl
    · exact finishIf_start (s := freeLines _ s) ..

theorem cmdHdmBind_keepsStart : KeepsStart cmdHdmBind := by
  intro q p s
  unfold cmdHdmBind
  dsimp only
  repeat' split
  all_goals rfl

theorem cmdHdmUnbind_keepsStart : KeepsStart cmdHdmUnbind := by
  intro q p s
  unfold cmdHdmUnbind
  dsimp only
  split <;> rfl

/-! Plans, steps and caches. -/

theorem cmdStepSubmit_keepsStart : KeepsStart cmdStepSubmit := by
  intro q p s
  unfold cmdStepSubmit
  dsimp only
  repeat' split
  all_goals simp

theorem cmdPlanLoad_keepsStart : KeepsStart cmdPlanLoad := by
  intro q p s
  unfold cmdPlanLoad
  dsimp only
  repeat' split
  all_goals rfl

theorem cmdPlanUnload_keepsStart : KeepsStart cmdPlanUnload := by
  intro q p s
  unfold cmdPlanUnload
  dsimp only
  split
  · rfl
  · split
    · rfl
    · simp

theorem cmdStepCancel_keepsStart : KeepsStart cmdStepCancel := fun _ _ _ => cancelTag_start _

theorem cmdBatchSet_keepsStart : KeepsStart cmdBatchSet := by
  intro q p s
  unfold cmdBatchSet
  dsimp only
  split
  · rfl
  · split
    · rfl
    · exact pump_start _

theorem cmdContextSet_keepsStart : KeepsStart cmdContextSet := by
  intro q p s
  unfold cmdContextSet
  dsimp only
  repeat' split
  all_goals rfl

theorem cmdCacheOpen_keepsStart : KeepsStart cmdCacheOpen := by
  intro q p s
  unfold cmdCacheOpen
  dsimp only
  repeat' split
  all_goals rfl

theorem cmdCacheClose_keepsStart : KeepsStart cmdCacheClose := by
  intro q p s
  unfold cmdCacheClose
  split
  · rfl
  · dsimp only
    split
    · rfl
    · simp

theorem cacheSeqNow_start (p : Packet) (s : State) : (cacheSeqNow p s).2.start = s.start := by
  unfold cacheSeqNow
  dsimp only
  repeat' split
  all_goals simp

theorem cmdCacheSeq_keepsStart : KeepsStart cmdCacheSeq := by
  intro q p s
  unfold cmdCacheSeq
  split
  · rfl
  · split
    · rfl
    · exact cacheSeqNow_start p s

theorem cmdCacheSeqQuery_keepsStart : KeepsStart cmdCacheSeqQuery := by
  intro q p s
  unfold cmdCacheSeqQuery
  dsimp only
  repeat' split
  all_goals simp

theorem cmdCacheMigrate_keepsStart : KeepsStart cmdCacheMigrate := by
  intro q p s
  unfold cmdCacheMigrate
  dsimp only
  repeat' split
  all_goals simp [startMove_start]

/-! The arrays, the fabric and its groups. -/

theorem cmdClearingDivision_keepsStart : KeepsStart cmdClearingDivision := by
  intro q p s
  unfold cmdClearingDivision
  dsimp only
  repeat' split
  all_goals rfl

theorem cmdClearingTestSet_keepsStart : KeepsStart cmdClearingTestSet := by
  intro q p s
  unfold cmdClearingTestSet
  dsimp only
  repeat' split
  all_goals rfl

theorem cmdFabricId_keepsStart : KeepsStart cmdFabricId := by
  intro q p s
  unfold cmdFabricId
  dsimp only
  split
  · rfl
  · split
    · rfl
    · exact (setFabricId_steady _ s).start

theorem setRoutes_start (first : Nat) (es : List Nat) : (setRoutes first es s).start = s.start := (retryHeld_outward _).start

theorem cmdRouteSet_keepsStart : KeepsStart cmdRouteSet := by
  intro q p s
  unfold cmdRouteSet
  dsimp only
  split
  · rfl
  · split
    · rfl
    · split
      · rfl
      · split
        · exact setRoutes_start ..
        · rfl

theorem cmdRouteRead_keepsStart : KeepsStart cmdRouteRead := by
  intro q p s
  unfold cmdRouteRead
  dsimp only
  split
  · rfl
  · exact copyOut_start ..

theorem cmdLinkStatus_keepsStart : KeepsStart cmdLinkStatus := fun _ _ _ => copyOut_start ..

theorem cmdLinkControl_keepsStart : KeepsStart cmdLinkControl := by
  intro q p s
  unfold cmdLinkControl
  dsimp only
  split
  · rfl
  · split
    · exact foldl_start _ (fun s n => (controlLink_steady _ n s).start) s
    · exact (controlLink_steady _ _ s).start

@[simp] theorem sendView_start (n : BitVec 4) (dst ptype : Nat) (g : U32) (epoch num : Nat) (b : List Byte) (s : State) :
    (sendView n dst ptype g epoch num b s).start = s.start := by
  unfold sendView
  dsimp only
  split_ifs
  · rfl
  · exact launch_start _

@[simp] theorem dropGroup_start (n : BitVec 4) (id : U32) : (dropGroup n id s).start = s.start := rfl

@[simp] theorem concludeView_start (n : BitVec 4) (id : U32) (s : State) : (concludeView n id s).start = s.start := by
  unfold concludeView
  split
  · rfl
  · dsimp only
    split
    · rfl
    · split
      · exact foldl_start _ (fun _ _ => sendView_start ..) (updGroup n id _ s)
      · exact foldl_start _ (fun s _ => foldl_start _ (fun _ _ => sendView_start ..) s) (updGroup n id _ s)

theorem cmdGroupJoin_keepsStart : KeepsStart cmdGroupJoin := by
  intro q p s
  unfold cmdGroupJoin
  dsimp only
  repeat' split
  all_goals simp

theorem cmdGroupAdmin_keepsStart : KeepsStart cmdGroupAdmin := by
  intro q p s
  unfold cmdGroupAdmin
  dsimp only
  repeat' split
  all_goals simp

theorem cmdGroupStatus_keepsStart : KeepsStart cmdGroupStatus := by
  intro q p s
  unfold cmdGroupStatus
  split <;> rfl

theorem cmdPaceSet_keepsStart : KeepsStart cmdPaceSet := by
  intro q p s
  unfold cmdPaceSet
  dsimp only
  repeat' split
  all_goals rfl

theorem cmdNetDistance_keepsStart : KeepsStart cmdNetDistance := fun _ _ _ => copyRecords_start ..
theorem cmdLatticeCounters_keepsStart : KeepsStart cmdLatticeCounters := fun _ _ _ => copyRecords_start ..
theorem cmdClearingCounters_keepsStart : KeepsStart cmdClearingCounters := fun _ _ _ => copyRecords_start ..
theorem cmdNetCounters_keepsStart : KeepsStart cmdNetCounters := fun _ _ _ => copyRecords_start ..

/-! Power and cooling. -/

theorem cmdPowerCap_keepsStart : KeepsStart cmdPowerCap := by
  intro q p s
  unfold cmdPowerCap
  dsimp only
  repeat' split
  all_goals rfl

theorem cmdPowerStatus_keepsStart : KeepsStart cmdPowerStatus := fun _ _ _ => copyOut_start ..

theorem cmdFixedFreq_keepsStart : KeepsStart cmdFixedFreq := by
  intro q p s
  unfold cmdFixedFreq
  dsimp only
  repeat' split
  all_goals rfl

theorem cmdEnergyRead_keepsStart : KeepsStart cmdEnergyRead := by
  intro q p s
  unfold cmdEnergyRead
  dsimp only
  repeat' split
  all_goals rfl

theorem recordCooling_start (sev : Nat) : (recordCooling sev s).start = s.start := record_start ..

theorem assertAlert_start : (assertAlert s).start = s.start := by
  unfold assertAlert
  split <;> rfl

theorem cmdCoolantSet_keepsStart : KeepsStart cmdCoolantSet := by
  intro q p s
  unfold cmdCoolantSet
  dsimp only
  repeat' split
  all_goals simp [recordCooling_start, assertAlert_start]

theorem cmdThermalStatus_keepsStart : KeepsStart cmdThermalStatus := fun _ _ _ => copyOut_start ..

theorem cmdThermalResponse_keepsStart : KeepsStart cmdThermalResponse := by
  intro q p s
  unfold cmdThermalResponse
  dsimp only
  split
  · exact (setThermal_steady _ s).start
  · rfl

/-! Partitions, keys, firmware, time and memory. -/

theorem beginScrub_start (n : BitVec 4) (o : Option Origin) : (beginScrub n o s).start = s.start := by
  unfold beginScrub
  split
  · rfl
  · exact (foldl_start _ (fun _ _ => finish_start ..) _).trans (foldl_start _ (fun _ _ => finish_start ..) _)

theorem cmdPartitionRelease_keepsStart : KeepsStart cmdPartitionRelease := by
  intro q p s
  unfold cmdPartitionRelease
  dsimp only
  split
  · rfl
  · split
    · rfl
    · split
      · rfl
      · split
        · rfl
        · exact beginScrub_start ..

theorem cmdConfidentialSet_keepsStart : KeepsStart cmdConfidentialSet := by
  intro q p s
  unfold cmdConfidentialSet
  repeat' split
  all_goals rfl

theorem cmdKeyRotate_keepsStart : KeepsStart cmdKeyRotate := by
  intro q p s
  unfold cmdKeyRotate
  repeat' split
  all_goals rfl

theorem cmdKeyStatus_keepsStart : KeepsStart cmdKeyStatus := by
  intro q p s
  unfold cmdKeyStatus
  repeat' split
  all_goals rfl

theorem cmdFwStage_keepsStart : KeepsStart cmdFwStage := by
  intro q p s
  unfold cmdFwStage
  dsimp only
  repeat' split
  all_goals rfl

theorem cmdFwActivate_keepsStart : KeepsStart cmdFwActivate := by
  intro q p s
  unfold cmdFwActivate recordSecurity
  dsimp only
  repeat' split
  all_goals simp

theorem cmdTimeSet_keepsStart : KeepsStart cmdTimeSet := by
  intro q p s
  unfold cmdTimeSet
  dsimp only
  repeat' split
  all_goals simp

theorem cmdReserveStatus_keepsStart : KeepsStart cmdReserveStatus := fun _ _ _ => copyOut_start ..

theorem cmdMemregWrite_keepsStart : KeepsStart cmdMemregWrite := by
  intro q p s
  unfold cmdMemregWrite
  dsimp only
  split <;> rfl

theorem cmdRepairMap_keepsStart : KeepsStart cmdRepairMap := by
  intro q p s
  unfold cmdRepairMap
  dsimp only
  repeat' split
  all_goals simp

theorem cmdHealthRingSet_keepsStart : KeepsStart cmdHealthRingSet := by
  intro q p s
  unfold cmdHealthRingSet
  dsimp only
  repeat' split
  all_goals simp

/-! ### READY across whatever follows a command -/

/-- A command's own part that leaves READY as it is. -/
def KeepsReady (body : CmdBody) : Prop := ∀ q p s, (body q p s).2.start.ready = s.start.ready

theorem KeepsStart.keepsReady {body : CmdBody} (h : KeepsStart body) : KeepsReady body :=
  fun q p s => congrArg StartUp.ready (h q p s)

/-- PARTITION_CREATE alone changes the start-up state: it counts one more creation. -/
theorem cmdPartitionCreate_keepsReady : KeepsReady cmdPartitionCreate := by
  intro q p s
  unfold cmdPartitionCreate
  dsimp only
  split
  · rfl
  · exact (congrArg StartUp.ready (foldl_start (f := fun s t => updTract t TractRec.off s) _ (fun _ _ => rfl) _)).trans rfl

theorem commandBodies_keepReady : ∀ c ∈ commandBodies, KeepsReady c.2 := by
  unfold commandBodies
  simp only [List.forall_mem_append, List.forall_mem_cons]
  exact ⟨⟨⟨cmdQueueCreate_keepsStart.keepsReady, cmdQueueDelete_keepsStart.keepsReady,
    cmdQueueStatus_reports.keepsStart.keepsReady, cmdConfigRead_keepsStart.keepsReady, cmdConfigApply_keepsStart.keepsReady,
    cmdConfigConfirm_keepsStart.keepsReady, cmdConfigRollback_keepsStart.keepsReady, cmdRegionAlloc_keepsStart.keepsReady,
    cmdRegionFree_keepsStart.keepsReady, cmdRegionQuery_reports.keepsStart.keepsReady, cmdHdmBind_keepsStart.keepsReady,
    cmdHdmUnbind_keepsStart.keepsReady, cmdHdmStatus_reports.keepsStart.keepsReady, cmdStepSubmit_keepsStart.keepsReady,
    cmdPlanLoad_keepsStart.keepsReady, cmdPlanUnload_keepsStart.keepsReady, cmdStepCancel_keepsStart.keepsReady,
    cmdBatchSet_keepsStart.keepsReady, cmdContextSet_keepsStart.keepsReady, cmdCacheOpen_keepsStart.keepsReady,
    cmdCacheClose_keepsStart.keepsReady, cmdCacheSeq_keepsStart.keepsReady, fun _ h => absurd h List.not_mem_nil⟩,
    ⟨cmdCacheSeqQuery_keepsStart.keepsReady, cmdCacheMigrate_keepsStart.keepsReady,
    cmdCacheStatus_reports.keepsStart.keepsReady, cmdClearingDivision_keepsStart.keepsReady,
    cmdClearingStatus_reports.keepsStart.keepsReady, cmdClearingTestSet_keepsStart.keepsReady,
    cmdFabricId_keepsStart.keepsReady, cmdRouteSet_keepsStart.keepsReady, cmdRouteRead_keepsStart.keepsReady,
    cmdLinkStatus_keepsStart.keepsReady, cmdLinkControl_keepsStart.keepsReady, cmdGroupJoin_keepsStart.keepsReady,
    cmdGroupAdmin_keepsStart.keepsReady, cmdGroupStatus_keepsStart.keepsReady, cmdPaceSet_keepsStart.keepsReady,
    cmdNetDistance_keepsStart.keepsReady, cmdPowerCap_keepsStart.keepsReady, cmdPowerStatus_keepsStart.keepsReady,
    cmdFixedFreq_keepsStart.keepsReady, cmdEnergyRead_keepsStart.keepsReady, fun _ h => absurd h List.not_mem_nil⟩⟩,
    ⟨cmdCoolantSet_keepsStart.keepsReady, cmdThermalStatus_keepsStart.keepsReady, cmdThermalResponse_keepsStart.keepsReady,
    cmdPartitionCreate_keepsReady, cmdPartitionRelease_keepsStart.keepsReady,
    cmdPartitionStatus_reports.keepsStart.keepsReady, cmdConfidentialSet_keepsStart.keepsReady,
    cmdKeyRotate_keepsStart.keepsReady, cmdKeyStatus_keepsStart.keepsReady, cmdFwStage_keepsStart.keepsReady,
    cmdFwActivate_keepsStart.keepsReady, cmdTimeSet_keepsStart.keepsReady, cmdReserveStatus_keepsStart.keepsReady,
    cmdMemregRead_reports.keepsStart.keepsReady, cmdMemregWrite_keepsStart.keepsReady, cmdRepairMap_keepsStart.keepsReady,
    cmdLayerMap_reports.keepsStart.keepsReady, cmdHealthRingSet_keepsStart.keepsReady,
    cmdHealthRingStatus_reports.keepsStart.keepsReady, cmdLatticeCounters_keepsStart.keepsReady,
    cmdClearingCounters_keepsStart.keepsReady, cmdNetCounters_keepsStart.keepsReady, fun _ h => absurd h List.not_mem_nil⟩⟩

theorem commandBody_keepsReady (p : Packet) : KeepsReady (commandBody p) := by
  unfold commandBody
  split
  · next c hc => exact commandBodies_keepReady c (List.mem_of_find?_eq_some hc)
  · exact fun _ _ _ => rfl

theorem accept_start (o : Origin) : (accept o s).start = s.start := by
  unfold accept
  split
  · split
    · exact post_start ..
    · rfl
  · rfl

theorem deliver_start (p : Packet) (r : Res) : (deliver p r).start = r.2.start := by
  unfold deliver
  split
  · exact finish_start ..
  · exact accept_start _
  · exact (finish_start ..).trans (accept_start _)
  · rfl

theorem startHead_ready (qp : BitVec 6) (s : State) : (startHead qp s).start.ready = s.start.ready := by
  unfold startHead
  split
  · rfl
  · split
    · rfl
    · split
      · rfl
      · exact (congrArg StartUp.ready (deliver_start ..)).trans (commandBody_keepsReady ..)

theorem runDeferred_start (s : State) : (runDeferred s).start = s.start := by
  refine foldl_start _ (fun s x => foldl_start _ (fun s p => ?_) s) s
  have hnow := cacheSeqNow_start p (updPart x.num (fun y => { y with deferred := y.deferred.erase p }) s)
  dsimp only
  split_ifs
  · rfl
  · split
    · next st d r t heq => exact (finish_start ..).trans ((congrArg (fun r : Res => r.2.start) heq).symm.trans hnow)
    · next t heq => exact (congrArg (fun r : Res => r.2.start) heq).symm.trans hnow

theorem finishUnloads_start (s : State) : (finishUnloads s).start = s.start := by
  refine foldl_start _ (fun s x => foldl_start _ (fun s q => ?_) s) s
  split
  · rfl
  · split
    · rfl
    · exact finish_start ..

theorem finishDeletions_start (s : State) : (finishDeletions s).start = s.start := by
  refine foldl_start _ (fun s d => ?_) s
  split
  · rfl
  · split
    · rfl
    · split
      · exact finish_start ..
      · rfl

theorem settleOnce_ready (s : State) : (settleOnce s).start.ready = s.start.ready := by
  have hheads : ∀ (l : List (BitVec 6)) (s : State), (l.foldl (fun s qp => startHead qp s) s).start.ready = s.start.ready := by
    intro l
    induction l with
    | nil => exact fun _ => rfl
    | cons qp l ih => exact fun s => (ih _).trans (startHead_ready qp s)
  refine (hheads _ _).trans (congrArg StartUp.ready ?_)
  rw [finishDeletions_start, finishUnloads_start, runDeferred_start, beginJobs_start, pump_start, settleReserve_start]

/-- Whatever follows an instruction leaves READY as it is. -/
theorem settle_ready (s : State) : (settle s).start.ready = s.start.ready := by
  unfold settle
  generalize 2 + (s.pairs.map fun q => q.fenced.length).sum = n
  induction n with
  | zero => rfl
  | succ n ih => exact (settleOnce_ready _).trans ih

/-- What an instruction leaves has the READY of what it did before `settle`. -/
theorem ready_of_happens {s t : State} (h : happens s = happens t) : s.start.ready = t.start.ready := by
  have hnext : settle s = settle t := by injection h
  rw [← settle_ready s, hnext, settle_ready]

/-! ### The refuting state -/

/-- A device in reset with READY set, and without an image in either slot. No run reaches it: `warmReset` clears READY. -/
def readyInReset : State :=
  { State.reset with
    pins := { State.reset.pins with vin := true }
    start := { State.reset.start with ready := true, inReset := true }
    firmware := { State.reset.firmware with slotA := none, slotB := none } }

/-- A bring-up in which nothing fails. -/
def cleanBringUp : BringUp := ⟨0, [], [], [], [], false⟩

/-- Refutes O31: a start without a slot that verifies leaves READY as it was, so from the state `readyInReset`, which the fourth
clause does not exclude, READY stays set in recovery mode. The other clauses hold (`warmReset_keeps`, `warmStarted_reachesReady`),
and this one does where READY is clear (`warmStarted_recovers`). -/
theorem not_warmResetKeepsMemoryAndPartitions : ¬ Obligations.WarmResetKeepsMemoryAndPartitions := by
  unfold Obligations.WarmResetKeepsMemoryAndPartitions
  rintro ⟨-, -, -, hrecovery, -⟩
  obtain ⟨t, hexec, hready, -, -⟩ := hrecovery cleanBringUp readyInReset rfl rfl rfl rfl rfl
  rw [exec_perstDeassert rfl rfl, perstReleased_inReset rfl] at hexec
  have hstays : (warmStarted cleanBringUp readyInReset).start.ready = true := congrArg StartUp.ready (warmStarted_recovers rfl rfl)
  rw [← ready_of_happens hexec, hstays] at hready
  exact Bool.noConfusion hready

end Sys2Proof.Machine
end
